-- ==== Sys2Proof/Word.lean ====
section
/-!
DEFINITION. The word types of the GH24 and their plainest readings.

Widths: an instruction word is 32 bits (R160), a scalar register and the program counter 64 bits
(R148, R106), a vector register 32 bits in each lane (R148), a predicate register one bit for each of
the up to 64 lanes of a width-64 pair (R105, R148).
-/

namespace Sys2Proof

abbrev Byte := BitVec 8
abbrev Word32 := BitVec 32
abbrev Word64 := BitVec 64

/-- One bit of a set of up to 64 lanes (an execution mask, a predicate register). -/
abbrev Lanes := BitVec 64

end Sys2Proof
end

