-- ==== Sys2Proof/Machine/Float.lean ====
section
/-!
DEFINITION. Floating-point values and their rounding (R29 to R31, R38 to R40, R46).

A finite value is an exact dyadic number; every operation forms its exact result (for an irrational one,
a number below it together with the statement that the exact result lies above), and rounds once.
-/

namespace Sys2Proof.Machine

/-! ## Formats -/

/-- A binary floating-point format of R29: exponent bits, mantissa bits, and whether it is E4M3, which has
no infinities and one NaN mantissa. -/
structure FFmt where
  eb : Nat
  mb : Nat
  e4m3 : Bool
deriving DecidableEq, Repr

def fp32 : FFmt := ⟨8, 23, false⟩
def fp16 : FFmt := ⟨5, 10, false⟩
def bf16 : FFmt := ⟨8, 7, false⟩
def e4m3 : FFmt := ⟨4, 3, true⟩
def e5m2 : FFmt := ⟨5, 2, false⟩

namespace FFmt

/-- Exponent bias. -/
def bias (f : FFmt) : Nat := 2 ^ (f.eb - 1) - 1
/-- Width in bits. -/
def width (f : FFmt) : Nat := 1 + f.eb + f.mb
/-- Exponent of the last place of a subnormal. -/
def emin (f : FFmt) : Int := 1 - (f.bias : Int) - (f.mb : Int)
/-- Bits of the largest finite magnitude. -/
def maxBits (f : FFmt) : Nat := if f.e4m3 then 0x7E else (2 ^ f.eb - 1) * 2 ^ f.mb - 1
/-- Bits of infinity (not in E4M3). -/
def infBits (f : FFmt) : Nat := (2 ^ f.eb - 1) * 2 ^ f.mb
/-- Bits of the canonical NaN (R29, R31). -/
def nanBits (f : FFmt) : Nat := if f.e4m3 then 0x7F else f.infBits + 2 ^ (f.mb - 1)
/-- Bits of a value's sign. -/
def signBits (f : FFmt) (neg : Bool) : Nat := if neg then 2 ^ (f.eb + f.mb) else 0

end FFmt

/-- A value: a NaN (signalling or quiet), an infinity, or (−1)^neg · m · 2^e. -/
inductive Fp where
  | nan (sig : Bool)
  | inf (neg : Bool)
  | num (neg : Bool) (m : Nat) (e : Int)
deriving DecidableEq, Repr

/-- The value of an encoding (R30). A signalling NaN exists in FP32, FP16 and BF16 only. -/
def FFmt.decode (f : FFmt) (bits : Nat) : Fp :=
  let man := bits % 2 ^ f.mb
  let ex := bits / 2 ^ f.mb % 2 ^ f.eb
  let neg := decide (bits / 2 ^ (f.eb + f.mb) % 2 = 1)
  if f.e4m3 then
    if ex = 15 ∧ man = 7 then .nan false
    else if ex = 0 then .num neg man f.emin
    else .num neg (2 ^ f.mb + man) (f.emin + (ex : Int) - 1)
  else if ex = 2 ^ f.eb - 1 then
    if man = 0 then .inf neg else .nan (decide (f.eb + f.mb > 7) && decide (man < 2 ^ (f.mb - 1)))
  else if ex = 0 then .num neg man f.emin
  else .num neg (2 ^ f.mb + man) (f.emin + (ex : Int) - 1)

/-- A source as read under DAZ (R38, R40): a subnormal reads as zero of its sign. -/
def Fp.daz (f : FFmt) (on : Bool) : Fp → Fp
  | .num neg m e => if on && decide (m < 2 ^ f.mb) && decide (e = f.emin) then .num neg 0 f.emin else .num neg m e
  | x => x

/-! ## Rounding -/

/-- Rounding modes, coded as FMODE.RM (R38). -/
inductive Rm where
  | rne | rtz | rup | rdn
deriving DecidableEq, Repr

def Rm.ofBits (b : BitVec 2) : Rm :=
  match b.toNat with
  | 0 => .rne
  | 1 => .rtz
  | 2 => .rup
  | _ => .rdn

/-- FFLAGS bits (R39). -/
abbrev Flags := BitVec 6
def flNV : Flags := 0x01#6
def flDZ : Flags := 0x02#6
def flOF : Flags := 0x04#6
def flUF : Flags := 0x08#6
def flNX : Flags := 0x10#6
def flSV : Flags := 0x20#6

/-- The bits of a result and the flags of its element. -/
structure FRes where
  bits : Nat
  flags : Flags
deriving DecidableEq, Repr

/-- num/den, or a little more when `sticky`, rounded to an integer; and whether it was inexact. -/
def roundQuot (rm : Rm) (neg : Bool) (num den : Nat) (sticky : Bool) : Nat × Bool :=
  let q := num / den
  let r := num % den
  let inexact := decide (r ≠ 0) || sticky
  let up :=
    match rm with
    | .rne => decide (den < 2 * r) || (decide (den = 2 * r) && (sticky || decide (q % 2 = 1)))
    | .rtz => false
    | .rup => inexact && !neg
    | .rdn => inexact && neg
  (if up then q + 1 else q, inexact)

/-- floor(log2(n / d)) for positive n and d. -/
def floorLog2Quot (n d : Nat) : Int :=
  let k : Int := (Nat.log2 n : Int) - (Nat.log2 d : Int)
  if d * 2 ^ k.toNat ≤ n * 2 ^ (-k).toNat then k else k - 1

/-- How a rounded result beyond the largest finite value is delivered (R46). -/
inductive Ovf where
  | ieee
  | sat8
deriving DecidableEq, Repr

/-- The overflow rules of R46: the IEEE 754 rule, with E4M3's NaN in place of an infinity; or the FP8 rule
with SAT8 = 1. -/
def overflowRes (f : FFmt) (rm : Rm) (ov : Ovf) (neg : Bool) : FRes :=
  match ov with
  | .sat8 => ⟨f.signBits neg + f.maxBits, flSV ||| flOF ||| flNX⟩
  | .ieee =>
    let toInf :=
      match rm with
      | .rne => true
      | .rtz => false
      | .rup => !neg
      | .rdn => neg
    let bits :=
      if toInf then (if f.e4m3 then f.nanBits else f.signBits neg + f.infBits) else f.signBits neg + f.maxBits
    ⟨bits, flOF ||| flNX⟩

/-- The magnitude bits and last-place exponent of n/d rounded at last place `q`. -/
def roundAt (rm : Rm) (neg : Bool) (n d : Nat) (sticky : Bool) (q : Int) : Nat × Bool :=
  roundQuot rm neg (n * 2 ^ (-q).toNat) (d * 2 ^ q.toNat) sticky

/-- (−1)^neg · n/d, or a little more in magnitude when `sticky`, rounded once to the format (R38 to R40,
R46). n and d are positive, or n is zero and the result is the zero of the sign. -/
def fround (f : FFmt) (rm : Rm) (ftz : Bool) (ov : Ovf) (neg : Bool) (n d : Nat) (sticky : Bool) : FRes :=
  if n = 0 then ⟨f.signBits neg, 0⟩
  else
    let e := floorLog2Quot n d
    let q := max (e - f.mb) f.emin
    let (r, inexact) := roundAt rm neg n d sticky q
    let mag := ((q - f.emin).toNat) * 2 ^ f.mb + r
    if f.maxBits < mag then overflowRes f rm ov neg
    else if ftz && decide (0 < mag) && decide (mag < 2 ^ f.mb) then ⟨f.signBits neg, flUF ||| flNX⟩
    else
      -- tiny after rounding at unbounded exponent
      let tiny := decide (e < 1 - (f.bias : Int)) &&
        !(decide (e = -(f.bias : Int)) && decide ((roundAt rm neg n d sticky (e - f.mb)).1 = 2 ^ (f.mb + 1)))
      ⟨f.signBits neg + mag,
        (if inexact then flNX else 0) ||| (if tiny && inexact then flUF else 0)⟩

/-- n · 2^k / d as a quotient of naturals. -/
def scaleQuot (n d : Nat) (k : Int) : Nat × Nat := (n * 2 ^ k.toNat, d * 2 ^ (-k).toNat)

/-- A finite value rounded once. -/
def froundNum (f : FFmt) (rm : Rm) (ftz : Bool) (ov : Ovf) (neg : Bool) (m : Nat) (e : Int) : FRes :=
  let (n, d) := scaleQuot m 1 e
  fround f rm ftz ov neg n d false

/-- The floating-point environment of an operation (FMODE, R38). -/
structure FEnv where
  rm : Rm
  ftz : Bool
  daz : Bool
  sat8 : Bool
  tsat : Bool
deriving DecidableEq, Repr

/-- FMODE read as an environment (R38). -/
def FEnv.ofFmode (m : BitVec 6) : FEnv :=
  ⟨Rm.ofBits (m.extractLsb' 0 2), m.getLsbD 2, m.getLsbD 3, m.getLsbD 4, m.getLsbD 5⟩

/-- RNE with neither FTZ nor DAZ. -/
def FEnv.plain (sat8 : Bool) : FEnv := ⟨.rne, false, false, sat8, false⟩

def FFmt.nanRes (f : FFmt) (flags : Flags) : FRes := ⟨f.nanBits, flags⟩
def FFmt.infRes (f : FFmt) (neg : Bool) (flags : Flags) : FRes := ⟨f.signBits neg + f.infBits, flags⟩
def FFmt.zeroRes (f : FFmt) (neg : Bool) : FRes := ⟨f.signBits neg, 0⟩

/-- A source element of format `f` (DAZ applied). -/
def fsrc (f : FFmt) (env : FEnv) (bits : Nat) : Fp := (f.decode (bits % 2 ^ f.width)).daz f env.daz

def Fp.isSnan : Fp → Bool
  | .nan true => true
  | _ => false

def Fp.isNan : Fp → Bool
  | .nan _ => true
  | _ => false

/-- NV when a source is a signalling NaN (R31). -/
def snanFlag (xs : List Fp) : Flags := if xs.any Fp.isSnan then flNV else 0

/-! ## FOP (R378) -/

/-- The exact sum of two finite values rounded once; an exact zero takes the sign R378 gives. -/
def addNum (f : FFmt) (env : FEnv) (n1 : Bool) (m1 : Nat) (e1 : Int) (n2 : Bool) (m2 : Nat) (e2 : Int) : FRes :=
  let e := min e1 e2
  let a : Int := (m1 * 2 ^ (e1 - e).toNat : Nat)
  let b : Int := (m2 * 2 ^ (e2 - e).toNat : Nat)
  let sum : Int := (if n1 then -a else a) + (if n2 then -b else b)
  if sum = 0 then
    if n1 = n2 then f.zeroRes n1 else f.zeroRes (decide (env.rm = .rdn))
  else froundNum f env.rm env.ftz .ieee (decide (sum < 0)) sum.natAbs e

/-- FADD (R378). -/
def faddF (f : FFmt) (env : FEnv) (a b : Fp) : FRes :=
  match a, b with
  | .num n1 m1 e1, .num n2 m2 e2 => addNum f env n1 m1 e1 n2 m2 e2
  | .inf n1, .inf n2 => if n1 = n2 then f.infRes n1 0 else f.nanRes flNV
  | .inf n1, .num _ _ _ => f.infRes n1 0
  | .num _ _ _, .inf n2 => f.infRes n2 0
  | x, y => f.nanRes (snanFlag [x, y])

def Fp.negate : Fp → Fp
  | .nan q => .nan q
  | .inf n => .inf (!n)
  | .num n m e => .num (!n) m e

/-- FSUB (R378). -/
def fsubF (f : FFmt) (env : FEnv) (a b : Fp) : FRes := faddF f env a b.negate

/-- FMUL (R378). -/
def fmulF (f : FFmt) (env : FEnv) (a b : Fp) : FRes :=
  match a, b with
  | .num n1 m1 e1, .num n2 m2 e2 => froundNum f env.rm env.ftz .ieee (n1 != n2) (m1 * m2) (e1 + e2)
  | .inf n1, .inf n2 => f.infRes (n1 != n2) 0
  | .inf n1, .num n2 m _ => if m = 0 then f.nanRes flNV else f.infRes (n1 != n2) 0
  | .num n1 m _, .inf n2 => if m = 0 then f.nanRes flNV else f.infRes (n1 != n2) 0
  | x, y => f.nanRes (snanFlag [x, y])

/-- FMA: A × B + D with one rounding (R378). 0 × ∞ is invalid even when D is a quiet NaN. -/
def fmaF (f : FFmt) (env : FEnv) (a b d : Fp) : FRes :=
  let withD (p : Fp) : FRes :=
    match p, d with
    | .num n1 m1 e1, .num n2 m2 e2 => addNum f env n1 m1 e1 n2 m2 e2
    | x, y => faddF f env x y
  match a, b with
  | .num n1 m1 e1, .num n2 m2 e2 => withD (.num (n1 != n2) (m1 * m2) (e1 + e2))
  | .inf n1, .inf n2 => withD (.inf (n1 != n2))
  | .inf n1, .num n2 m _ => if m = 0 then f.nanRes flNV else withD (.inf (n1 != n2))
  | .num n1 m _, .inf n2 => if m = 0 then f.nanRes flNV else withD (.inf (n1 != n2))
  | x, y => f.nanRes (snanFlag [x, y, d])

/-- FDIV (R378). -/
def fdivF (f : FFmt) (env : FEnv) (a b : Fp) : FRes :=
  match a, b with
  | .num n1 m1 e1, .num n2 m2 e2 =>
    if m2 = 0 then (if m1 = 0 then f.nanRes flNV else f.infRes (n1 != n2) flDZ)
    else
      let (n, d) := scaleQuot m1 m2 (e1 - e2)
      fround f env.rm env.ftz .ieee (n1 != n2) n d false
  | .inf _, .inf _ => f.nanRes flNV
  | .inf n1, .num n2 _ _ => f.infRes (n1 != n2) 0
  | .num n1 _ _, .inf n2 => f.zeroRes (n1 != n2)
  | x, y => f.nanRes (snanFlag [x, y])

/-- The integer square root below 2^k, bit by bit. -/
def isqrtBits : Nat → Nat → Nat → Nat
  | 0, _, r => r
  | k + 1, n, r => isqrtBits k n (if (r + 2 ^ k) * (r + 2 ^ k) ≤ n then r + 2 ^ k else r)

/-- floor(√n). -/
def isqrt (n : Nat) : Nat := isqrtBits (Nat.log2 n / 2 + 1) n 0

/-- √x for a finite x > 0, as a number of 2^-`extra` below it and whether it lies above. -/
def sqrtQuot (m : Nat) (e : Int) : Nat × Int × Bool :=
  let (m', e') := if e % 2 = 0 then (m, e) else (2 * m, e - 1)
  let big := m' * 2 ^ 128
  let r := isqrt big
  (r, e' / 2 - 64, decide (r * r ≠ big))

/-- FSQRT (R378). -/
def fsqrtF (f : FFmt) (env : FEnv) (a : Fp) : FRes :=
  match a with
  | .nan q => f.nanRes (if q then flNV else 0)
  | .inf neg => if neg then f.nanRes flNV else f.infRes false 0
  | .num neg m e =>
    if m = 0 then f.zeroRes neg
    else if neg then f.nanRes flNV
    else
      let (r, k, st) := sqrtQuot m e
      let (n, d) := scaleQuot r 1 k
      fround f env.rm env.ftz .ieee false n d st

/-- a < b for values that are not NaN, with −0 below +0 when `signed0`. -/
def fpLt (signed0 : Bool) (a b : Fp) : Bool :=
  match a, b with
  | .inf n1, .inf n2 => n1 && !n2
  | .inf n1, .num _ _ _ => n1
  | .num _ _ _, .inf n2 => !n2
  | .num n1 m1 e1, .num n2 m2 e2 =>
    let e := min e1 e2
    let x : Int := (m1 * 2 ^ (e1 - e).toNat : Nat)
    let y : Int := (m2 * 2 ^ (e2 - e).toNat : Nat)
    let sx := if n1 then -x else x
    let sy := if n2 then -y else y
    decide (sx < sy) || (signed0 && decide (sx = sy) && n1 && !n2)
  | _, _ => false

/-- A source value given back as a result: no rounding, FTZ on a subnormal (R378). -/
def giveSource (f : FFmt) (env : FEnv) (x : Fp) : FRes :=
  match x with
  | .nan _ => f.nanRes 0
  | .inf n => f.infRes n 0
  | .num n m e => froundNum f .rne env.ftz .ieee n m e

/-- FMIN and FMAX: minimumNumber and maximumNumber (R378). -/
def fminmaxF (isMax : Bool) (f : FFmt) (env : FEnv) (a b : Fp) : FRes :=
  let nv := snanFlag [a, b]
  let r :=
    if a.isNan && b.isNan then f.nanRes 0
    else if a.isNan then giveSource f env b
    else if b.isNan then giveSource f env a
    else if (if isMax then fpLt true a b else fpLt true b a) then giveSource f env b
    else giveSource f env a
  ⟨r.bits, r.flags ||| nv⟩

/-! ## FCMP (R379) -/

/-- The relation of two values: NaN, less, equal or greater, with −0 equal to +0. -/
inductive FRel where
  | unordered | less | equal | greater
deriving DecidableEq, Repr

def frel (a b : Fp) : FRel :=
  if a.isNan || b.isNan then .unordered
  else if fpLt false a b then .less
  else if fpLt false b a then .greater
  else .equal

/-! ## Rounding to an integer -/

/-- m · 2^e rounded to an integer magnitude, and whether it was inexact. -/
def rintMag (rm : Rm) (neg : Bool) (m : Nat) (e : Int) : Nat × Bool :=
  roundQuot rm neg (m * 2 ^ e.toNat) (2 ^ (-e).toNat) false

end Sys2Proof.Machine
end

