-- ==== Sys2Proof/Syntax.lean ====
section
/-!
DEFINITION. The instructions of the GH24: one constructor of `Instr` for each row of spec/opcode_table.json.

The first 150 constructors are the encoded instructions of R167 (with MMA, the one instruction of two
words, and the prefix XW). The others are the table's 93 steps of the machine that have no encoding: each
takes as arguments which unit it happens to and what the outside world brings with it.
In every encoded instruction but XW the first field `sw` is bit 31, the switch marker (R160).
-/

namespace Sys2Proof

/-- An operand code of the D, A and B fields (R156). -/
inductive Opd where
  | v (code : BitVec 6)
  | s (index : Fin 48)
  | g (index : BitVec 3)
  | zero
  | laneid
  | waveid
  | time
  | bad (code : BitVec 2)
deriving DecidableEq, Repr

/-- The fields of an XW prefix (R161). -/
structure Xw where
  permA : BitVec 3
  argA : BitVec 3
  permB : BitVec 3
  argB : BitVec 3
  pred : BitVec 3
  pneg : Bool
  immhi : BitVec 10
deriving DecidableEq, Repr

/-- Conditions of CMPI, ICMP and ICMP.u (R168). -/
inductive ICond where
  | eq | ne | lt | le | gt | ge
deriving DecidableEq, Repr

/-- Conditions of FCMP (R168). -/
inductive FCond where
  | eq | ne | lt | le | gt | ge | ord | uno
deriving DecidableEq, Repr

/-- Operations of PLOG (R168). -/
inductive PlogOp where
  | and | or | xor | andn | orn | not | mov | xnor
deriving DecidableEq, Repr

/-- Types of the FOP and FFN instructions (R377). -/
inductive FType where
  | f32 | f16x2 | bf16x2
deriving DecidableEq, Repr

/-- The conversion pairs of CVT, FN 0 to 23, named as R45 names them. -/
inductive CvtPair where
  | f16x2F32 | bf16x2F32 | f32F16 | f32Bf16 | e4m3x2F32 | e5m2x2F32
  | f32E4m3 | f32E5m2 | e4m3x4F16x2 | e5m2x4F16x2 | f16x2E4m3 | f16x2E5m2
  | bf16x2F16x2 | f16x2Bf16x2 | f32I32 | f32I32U | i32F32 | i32F32U
  | i8x2I32 | i16x2I32 | l16x2F32 | f32L16 | l8x4L16x2 | l16x2L8
deriving DecidableEq, Repr

/-- Access sizes of LD, ST, LDS, STS and RCHK (R393, R441). -/
inductive MemSize where
  | b8 | b16 | b32 | b64 | b128
deriving DecidableEq, Repr

/-- The ORD codes of the M format (R101, R161). -/
inductive OrdCode where
  | plain | wg | clu | chip | dev | sys | nc | ord7
deriving DecidableEq, Repr

/-- Operations of ATOM, ATOMN and ATOMS (R345). -/
inductive AtomOp where
  | add | sub | min | max | minu | maxu | and | or | xor | xchg | cas | fadd
deriving DecidableEq, Repr

/-- Operations of RED (R425). -/
inductive RedOp where
  | add | min | max | minu | maxu | and | or | xor
deriving DecidableEq, Repr

/-- Operations of SCAN (R434). -/
inductive ScanOp where
  | add | min | max | xor
deriving DecidableEq, Repr

/-- Kinds of FENCE (R202). -/
inductive FenceKind where
  | acq | rel | acqRel
deriving DecidableEq, Repr

/-- Modes of BRU (R169). -/
inductive BruMode where
  | always | any | all | none
deriving DecidableEq, Repr

/-- A store to CTXDESC with V = 0 (R316, R318): the context and the value. -/
structure CtxdescWrite where
  asid : Nat
  value : BitVec 64
deriving DecidableEq, Repr

/-- Where an uncorrectable error is found (R268). -/
inductive ErrSite where
  /-- A local physical address. -/
  | global (pa : Nat)
  /-- A byte of a die's weight store. -/
  | weight (die byte : Nat)
  | scratch (wg word : Nat)
  | tile (wg tile elem : Nat)
  | vreg (wave reg lane : Nat)
  | sreg (wave i : Nat)
  | greg (wg i : Nat)
  | preg (wave i lane : Nat)
  /-- Fetched words, b and m registers, RLD data, operand maps, the divergence stack, page-table walks: the wave concerned, and
  the address. -/
  | critical (wave pa : Nat)
  /-- A tensor copy's descriptor. -/
  | copy (copy : Nat)
  /-- A collective's descriptor. -/
  | collective (id : Nat)
  /-- Hub, scheduler or belay-table state of these contexts. -/
  | contexts (asids : List Nat)
  /-- The same, where no context can be named. -/
  | die (die : Nat)
deriving DecidableEq, Repr

/-- What another device asks of this module's memory (R219, R322). -/
inductive RemoteOp where
  | load (n : Nat)
  | store (data : List (BitVec 8))
  | atomic (op : AtomOp) (x y : BitVec 32)
deriving DecidableEq, Repr

/-- A remote access that fails (R323): lanes of an outstanding result, a store or atomic that has left, the read of
a copy, of a codebook's table or of a collective. -/
inductive RemoteFail where
  | load (wave index : Nat) (lanes : BitVec 64)
  | store (index : Nat)
  | copy (copy : Nat)
  | codebook (wave : Nat) (slot : BitVec 2)
  | collective (collective byte : Nat)
deriving DecidableEq, Repr

/-- The management registers that only store their fields (R316). -/
inductive MgmtReg where
  | colto
  | lqcfg (queue : Nat)
  | pwcfg
  | pwbp (n : Nat)
  | pwctl
  | pwstat
  | pwew (ic cls : Nat)
  | actOpnd (n : Nat)
  | act4Cmd
  | accelerator
  | reportQueue
deriving DecidableEq, Repr

/-- The instructions and steps of the machine, one constructor for each row of the opcode table. -/
inductive Instr where
  /-- R411. -/
  | nop (sw : Bool)
  /-- R449. -/
  | trap (sw : Bool) (c : BitVec 7)
  /-- R256. -/
  | eret (sw : Bool)
  /-- R383. -/
  | getsr (sw : Bool) (d : Opd) (i : BitVec 7)
  /-- R439. -/
  | setsr (sw : Bool) (i : BitVec 7) (a : Opd)
  /-- R385. -/
  | iclk (sw : Bool) (d : Opd) (a : Opd) (b : Opd)
  /-- R386. -/
  | icul (sw : Bool) (d : Opd) (a : Opd) (b : Opd)
  /-- R286. -/
  | atinv (sw : Bool) (d : Opd) (a : Opd) (b : Opd)
  /-- R288. -/
  | atsync (sw : Bool) (d : Opd) (a : Opd)
  /-- R285. -/
  | mapr (sw : Bool) (d : Opd) (a : Opd) (b : Opd)
  /-- R258. -/
  | pkres (sw : Bool) (d : Opd) (a : Opd)
  /-- R258. -/
  | pkill (sw : Bool) (d : Opd) (a : Opd)
  /-- R390. -/
  | jmpr (sw : Bool) (a : Opd)
  /-- R360. -/
  | callr (sw : Bool) (a : Opd)
  /-- R429. -/
  | ret (sw : Bool)
  /-- R376. -/
  | exit (sw : Bool)
  /-- R110. -/
  | join (sw : Bool)
  /-- R150. -/
  | wbase (sw : Bool) (n : BitVec 3)
  /-- R259. -/
  | phint (sw : Bool) (l : BitVec 8) (n : BitVec 3) (b : Opd)
  /-- R265. -/
  | idem (sw : Bool) (l : BitVec 8) (n : BitVec 3) (b : Opd)
  /-- R122. -/
  | qend (sw : Bool)
  /-- R337. -/
  | add (sw : Bool) (d : Opd) (a : Opd) (b : Opd)
  /-- R445. -/
  | sub (sw : Bool) (d : Opd) (a : Opd) (b : Opd)
  /-- R399. -/
  | mul (sw : Bool) (d : Opd) (a : Opd) (b : Opd)
  /-- R399. -/
  | mulh (sw : Bool) (d : Opd) (a : Opd) (b : Opd)
  /-- R399. -/
  | mulhU (sw : Bool) (d : Opd) (a : Opd) (b : Opd)
  /-- R399. -/
  | mad (sw : Bool) (d : Opd) (a : Opd) (b : Opd)
  /-- R339. -/
  | and (sw : Bool) (d : Opd) (a : Opd) (b : Opd)
  /-- R399. -/
  | or (sw : Bool) (d : Opd) (a : Opd) (b : Opd)
  /-- R458. -/
  | xor (sw : Bool) (d : Opd) (a : Opd) (b : Opd)
  /-- R432. -/
  | shl (sw : Bool) (d : Opd) (a : Opd) (b : Opd)
  /-- R432. -/
  | shr (sw : Bool) (d : Opd) (a : Opd) (b : Opd)
  /-- R432. -/
  | sar (sw : Bool) (d : Opd) (a : Opd) (b : Opd)
  /-- R399. -/
  | min (sw : Bool) (d : Opd) (a : Opd) (b : Opd)
  /-- R399. -/
  | minU (sw : Bool) (d : Opd) (a : Opd) (b : Opd)
  /-- R399. -/
  | max (sw : Bool) (d : Opd) (a : Opd) (b : Opd)
  /-- R399. -/
  | maxU (sw : Bool) (d : Opd) (a : Opd) (b : Opd)
  /-- R334. -/
  | abs (sw : Bool) (d : Opd) (a : Opd)
  /-- R363. -/
  | clz (sw : Bool) (d : Opd) (a : Opd)
  /-- R399. -/
  | popc (sw : Bool) (d : Opd) (a : Opd)
  /-- R355. -/
  | bfe (sw : Bool) (d : Opd) (a : Opd) (b : Opd)
  /-- R355. -/
  | bfeU (sw : Bool) (d : Opd) (a : Opd) (b : Opd)
  /-- R356. -/
  | bfi (sw : Bool) (d : Opd) (a : Opd) (b : Opd)
  /-- R435. -/
  | sel (sw : Bool) (d : Opd) (a : Opd) (b : Opd)
  /-- R368. -/
  | div (sw : Bool) (d : Opd) (a : Opd) (b : Opd)
  /-- R368. -/
  | divU (sw : Bool) (d : Opd) (a : Opd) (b : Opd)
  /-- R428. -/
  | rem (sw : Bool) (d : Opd) (a : Opd) (b : Opd)
  /-- R428. -/
  | remU (sw : Bool) (d : Opd) (a : Opd) (b : Opd)
  /-- R337. -/
  | addSat (sw : Bool) (d : Opd) (a : Opd) (b : Opd)
  /-- R445. -/
  | subSat (sw : Bool) (d : Opd) (a : Opd) (b : Opd)
  /-- R338. -/
  | addi (sw : Bool) (d : Opd) (a : Opd) (i : BitVec 12)
  /-- R340. -/
  | andi (sw : Bool) (d : Opd) (a : Opd) (i : BitVec 10)
  /-- R414. -/
  | ori (sw : Bool) (d : Opd) (a : Opd) (i : BitVec 10)
  /-- R458. -/
  | xori (sw : Bool) (d : Opd) (a : Opd) (i : BitVec 10)
  /-- R451. -/
  | tsti (sw : Bool) (p : BitVec 3) (a : Opd) (i : BitVec 10)
  /-- R433. -/
  | shli (sw : Bool) (d : Opd) (a : Opd) (c : BitVec 6)
  /-- R433. -/
  | shri (sw : Bool) (d : Opd) (a : Opd) (c : BitVec 6)
  /-- R433. -/
  | sari (sw : Bool) (d : Opd) (a : Opd) (c : BitVec 6)
  /-- R431. -/
  | roti (sw : Bool) (d : Opd) (a : Opd) (c : BitVec 6)
  /-- R364. -/
  | cmpi (sw : Bool) (p : BitVec 3) (a : Opd) (c : ICond) (i : BitVec 9)
  /-- R404. -/
  | movi (sw : Bool) (d : Opd) (i : BitVec 19)
  /-- R378. -/
  | fadd (sw : Bool) (d : Opd) (a : Opd) (b : Opd) (t : FType)
  /-- R378. -/
  | fsub (sw : Bool) (d : Opd) (a : Opd) (b : Opd) (t : FType)
  /-- R378. -/
  | fmul (sw : Bool) (d : Opd) (a : Opd) (b : Opd) (t : FType)
  /-- R378. -/
  | fma (sw : Bool) (d : Opd) (a : Opd) (b : Opd) (t : FType)
  /-- R378. -/
  | fmin (sw : Bool) (d : Opd) (a : Opd) (b : Opd) (t : FType)
  /-- R378. -/
  | fmax (sw : Bool) (d : Opd) (a : Opd) (b : Opd) (t : FType)
  /-- R378. -/
  | fdiv (sw : Bool) (d : Opd) (a : Opd) (b : Opd) (t : FType)
  /-- R378. -/
  | fsqrt (sw : Bool) (d : Opd) (a : Opd) (t : FType)
  /-- R381. -/
  | fexp (sw : Bool) (d : Opd) (a : Opd) (t : FType)
  /-- R381. -/
  | flog (sw : Bool) (d : Opd) (a : Opd) (t : FType)
  /-- R381. -/
  | frcp (sw : Bool) (d : Opd) (a : Opd) (t : FType)
  /-- R381. -/
  | frsq (sw : Bool) (d : Opd) (a : Opd) (t : FType)
  /-- R381. -/
  | fsin (sw : Bool) (d : Opd) (a : Opd) (t : FType)
  /-- R381. -/
  | fcos (sw : Bool) (d : Opd) (a : Opd) (t : FType)
  /-- R381. -/
  | ftanh (sw : Bool) (d : Opd) (a : Opd) (t : FType)
  /-- R381. -/
  | ferf (sw : Bool) (d : Opd) (a : Opd) (t : FType)
  /-- R367. -/
  | cvt (sw : Bool) (d : Opd) (a : Opd) (b : BitVec 7) (f : CvtPair)
  /-- R409. -/
  | mxq (sw : Bool) (d : Opd) (a : Opd) (b : BitVec 7)
  /-- R410. -/
  | mxdq (sw : Bool) (d : Opd) (a : Opd) (b : BitVec 7)
  /-- R447. -/
  | terq (sw : Bool) (d : Opd) (a : Opd)
  /-- R51. -/
  | frnd (sw : Bool) (d : Opd) (a : Opd) (b : BitVec 7)
  /-- R387. -/
  | icmp (sw : Bool) (p : BitVec 3) (a : Opd) (b : Opd) (c : ICond)
  /-- R387. -/
  | icmpU (sw : Bool) (p : BitVec 3) (a : Opd) (b : Opd) (c : ICond)
  /-- R379. -/
  | fcmp (sw : Bool) (p : BitVec 3) (a : Opd) (b : Opd) (c : FCond)
  /-- R418. -/
  | plog (sw : Bool) (d : BitVec 3) (a : BitVec 3) (b : BitVec 3) (o : PlogOp)
  /-- R426. -/
  | red (sw : Bool) (d : Opd) (a : Opd) (o : RedOp)
  /-- R427. -/
  | redFadd (sw : Bool) (d : Opd) (a : Opd)
  /-- R434. -/
  | scan (sw : Bool) (d : Opd) (a : Opd) (o : ScanOp)
  /-- R351. -/
  | ballot (sw : Bool) (d : Opd) (p : BitVec 3)
  /-- R452. -/
  | voteAll (sw : Bool) (d : BitVec 3) (a : BitVec 3)
  /-- R452. -/
  | voteAny (sw : Bool) (d : BitVec 3) (a : BitVec 3)
  /-- R452. -/
  | voteUni (sw : Bool) (d : BitVec 3) (a : BitVec 3)
  /-- R374. -/
  | elect (sw : Bool) (p : BitVec 3)
  /-- R440. -/
  | shfl (sw : Bool) (d : Opd) (a : Opd) (b : Opd)
  /-- R394. -/
  | ld (sw : Bool) (d : Opd) (o : Opd) (r : BitVec 4) (c : OrdCode) (e : Bool) (x : Bool) (z : MemSize)
  /-- R396. -/
  | ldx (sw : Bool) (d : Opd) (o : Opd) (r : BitVec 4) (c : OrdCode) (e : Bool)
  /-- R419. -/
  | pref (sw : Bool) (o : Opd) (r : BitVec 4) (c : OrdCode)
  /-- R442. -/
  | st (sw : Bool) (d : Opd) (o : Opd) (r : BitVec 4) (c : OrdCode) (z : MemSize)
  /-- R443. -/
  | stx (sw : Bool) (d : Opd) (o : Opd) (r : BitVec 4) (c : OrdCode)
  /-- R346. -/
  | atom (sw : Bool) (d : Opd) (o : Opd) (r : BitVec 4) (c : OrdCode) (p : AtomOp)
  /-- R347. -/
  | atomn (sw : Bool) (d : Opd) (o : Opd) (r : BitVec 4) (c : OrdCode) (p : AtomOp)
  /-- R395. -/
  | lds (sw : Bool) (d : Opd) (o : Opd) (c : OrdCode) (z : MemSize)
  /-- R444. -/
  | sts (sw : Bool) (d : Opd) (o : Opd) (c : OrdCode) (z : MemSize)
  /-- R348. -/
  | atoms (sw : Bool) (d : Opd) (o : Opd) (c : OrdCode) (p : AtomOp)
  /-- R422. -/
  | rld (sw : Bool) (b : BitVec 4) (a : Opd)
  /-- R423. -/
  | rset (sw : Bool) (r : BitVec 4) (q : BitVec 2) (b : Opd)
  /-- R423. -/
  | rget (sw : Bool) (d : Opd) (r : BitVec 4) (q : BitVec 2)
  /-- R424. -/
  | rchk (sw : Bool) (z : MemSize) (p : BitVec 3) (a : Opd) (r : BitVec 4)
  /-- R70. -/
  | mma (sw : Bool) (cid : BitVec 6) (pred1 : BitVec 6) (pred2 : BitVec 6) (mapa : BitVec 3) (mapb : BitVec 3) (acc : BitVec 5) (z : Bool) (na : Bool)
  /-- R406. -/
  | mwait (sw : Bool) (c : BitVec 6)
  /-- R407. -/
  | mqry (sw : Bool) (c : BitVec 6) (d : Opd) (t : BitVec 5)
  /-- R401. -/
  | maps (sw : Bool) (m : BitVec 3) (a : Opd)
  /-- R336. -/
  | aclr (sw : Bool) (t : BitVec 5)
  /-- R341. -/
  | ard (sw : Bool) (d : Opd) (t : BitVec 5) (x : Bool) (r : BitVec 5)
  /-- R350. -/
  | awr (sw : Bool) (t : BitVec 5) (a : Opd) (r : BitVec 5)
  /-- R342. -/
  | ast (sw : Bool) (x : Bool) (t : BitVec 5) (o : Opd) (b : BitVec 4)
  /-- R446. -/
  | tcopy (sw : Bool) (a : Opd)
  /-- R373. -/
  | ecmd (sw : Bool) (a : Opd)
  /-- R438. -/
  | semwait (sw : Bool) (d : Opd) (a : Opd) (b : Opd)
  /-- R438. -/
  | semsig (sw : Bool) (a : Opd) (b : Opd)
  /-- R438. -/
  | semrd (sw : Bool) (d : Opd) (a : Opd)
  /-- R392. -/
  | launch (sw : Bool) (a : Opd)
  /-- R202. -/
  | fence (sw : Bool) (k : FenceKind) (scope : BitVec 3)
  /-- R353. -/
  | bar (sw : Bool) (d : Opd) (n : BitVec 4)
  /-- R354. -/
  | barc (sw : Bool) (d : Opd) (n : BitVec 4)
  /-- R370. -/
  | drain (sw : Bool) (d : Opd) (n : BitVec 4)
  /-- R413. -/
  | odecl (sw : Bool) (d : Opd) (a : Opd)
  /-- R413. -/
  | orel (sw : Bool) (d : Opd) (a : Opd)
  /-- R398. -/
  | lock (sw : Bool) (d : Opd) (a : Opd)
  /-- R450. -/
  | trylk (sw : Bool) (d : Opd) (a : Opd)
  /-- R450. -/
  | unlock (sw : Bool) (d : Opd) (a : Opd)
  /-- R454. -/
  | wreg (sw : Bool) (a : Opd) (b : Opd)
  /-- R455. -/
  | waitv (sw : Bool) (d : Opd) (a : Opd)
  /-- R454. -/
  | wdone (sw : Bool)
  /-- R455. -/
  | wqry (sw : Bool) (d : Opd)
  /-- R311. -/
  | pcls (sw : Bool) (a : Opd)
  /-- R311. -/
  | ebud (sw : Bool) (d : Opd) (a : Opd) (b : Opd)
  /-- R98. -/
  | wld (sw : Bool) (d : Opd) (a : Opd) (c : BitVec 4) (ord : BitVec 3)
  /-- R97. -/
  | cbset (sw : Bool) (c : Opd) (o : Opd) (r : BitVec 4) (n : BitVec 3)
  /-- R100. -/
  | wschk (sw : Bool) (p : BitVec 3) (a : Opd) (n : BitVec 4) (ord : BitVec 3)
  /-- R430. -/
  | rnd (sw : Bool) (d : Opd) (a : Opd)
  /-- R248. -/
  | chkp (sw : Bool) (a : Opd)
  /-- R248. -/
  | ispoi (sw : Bool) (p : BitVec 3) (a : Opd)
  /-- R248. -/
  | mkpoi (sw : Bool) (d : Opd) (a : Opd)
  /-- R448. -/
  | timew (sw : Bool) (d : Opd) (a : Opd)
  /-- R107. -/
  | br (sw : Bool) (neg : Bool) (p : BitVec 3) (o : BitVec 21)
  /-- R358. -/
  | bru (sw : Bool) (m : BruMode) (p : BitVec 3) (o : BitVec 21)
  /-- R359. -/
  | call (sw : Bool) (o : BitVec 21)
  /-- R459. -/
  | xw (x : Xw)
  /-- R164. -/
  | waveResultWriteback (wave : Nat) (index : Nat) (lanes : Lanes)
  /-- R184. -/
  | storeFifoDrain (wave : Nat)
  /-- R186. -/
  | wcbLineWrite (core : Nat) (line : Nat)
  /-- R198. -/
  | homeAccess (cluster : Nat) (line : Nat)
  /-- R72. -/
  | mmaCommandStart (wg : Nat) (cid : BitVec 6)
  /-- R72. -/
  | mmaCommandRetire (wg : Nat) (cid : BitVec 6)
  /-- R97. -/
  | codebookSlotReady (wave : Nat) (slot : BitVec 2)
  /-- R93. -/
  | weightStoreRefresh (die : Nat) (bank : Nat)
  /-- R87. -/
  | tcopyStart (cluster : Nat)
  /-- R86. -/
  | tcopyUnit (copy : Nat)
  /-- R88. -/
  | tcopyComplete (copy : Nat)
  /-- R92. -/
  | weightStoreGateAdmit (die : Nat)
  /-- R130. -/
  | launchPortStage (asid : Nat) (offset : Nat) (data : List (BitVec 8))
  /-- R130. -/
  | launchPortEnqueue (asid : Nat) (offset : Nat) (data : List (BitVec 8))
  /-- R138. -/
  | kernelTableReplace (asid : Nat) (kidx : Nat) (desc : Nat)
  /-- R138. -/
  | kernelTableClear (asid : Nat) (kidx : Nat)
  /-- R137. -/
  | launchDispatch (queue : Nat)
  /-- R142. -/
  | workgroupPlace (wg : Nat)
  /-- R141. -/
  | waveStart (wave : Nat)
  /-- R140. -/
  | launchComplete (launch : Nat)
  /-- R306. -/
  | leaseRequest (asid : Nat)
  /-- R306. -/
  | leaseRelease (asid : Nat)
  /-- R306. -/
  | leaseRecordWrite
  /-- R307. -/
  | boostClockRaise
  /-- R307. -/
  | leaseNotice
  /-- R307. -/
  | leaseEnd
  /-- R325. -/
  | allReduce (id : Nat)
  /-- R325. -/
  | reduceScatter (id : Nat)
  /-- R324. -/
  | allGather (id : Nat)
  /-- R324. -/
  | broadcast (id : Nat)
  /-- R326. -/
  | collectiveComplete (id : Nat)
  /-- R325. -/
  | collectiveTimeout (id : Nat)
  /-- R123. -/
  | quantumCommit (launch : Nat)
  /-- R114. -/
  | waitConditionMet (wave : Nat)
  /-- R238. -/
  | clusterBarrierHeldRelease (launch : Nat) (barrier : Nat)
  /-- R228. -/
  | lockRetry (wave : Nat)
  /-- R229. -/
  | waitvRetest (wave : Nat)
  /-- R234. -/
  | priorityInheritanceUpdate
  /-- R237. -/
  | deadlockScan
  /-- R235. -/
  | shedExemptionReturn (wave : Nat)
  /-- R293. -/
  | stpFrame (data : List (BitVec 8))
  /-- R293. -/
  | telemetryLoss
  /-- R296. -/
  | budgetUpdate
  /-- R302. -/
  | classRestore
  /-- R301. -/
  | forcedShedStart (wave : Nat)
  /-- R301. -/
  | shedInstructionLimit (wave : Nat)
  /-- R297. -/
  | allowanceEpoch
  /-- R305. -/
  | ballastOvercapLimit
  /-- R303. -/
  | clkpatWrite (cluster : Nat) (value : BitVec 16)
  /-- R303. -/
  | clkpatApply
  /-- R260. -/
  | preemptionRequest (wg : Nat)
  /-- R260. -/
  | preemptInstructionLimit (wave : Nat)
  /-- R260. -/
  | workgroupSave (wg : Nat)
  /-- R264. -/
  | workgroupRestore (wg : Nat)
  /-- R286. -/
  | atinvDelivery (asid : Nat) (ticket : Nat)
  /-- R287. -/
  | atinvAcknowledge (asid : Nat) (ticket : Nat)
  /-- R448. -/
  | timewExpire (wave : Nat)
  /-- R188. -/
  | csctlWrite (cluster : Nat) (value : BitVec 64)
  /-- R189. -/
  | csctlChangeComplete (cluster : Nat)
  /-- R227. -/
  | semcfgWrite (dev : Bool) (index : Nat) (value : BitVec 64)
  /-- R318. -/
  | contextActivate (asid : Nat) (value : BitVec 64)
  /-- R267. -/
  | contextKill (write : CtxdescWrite)
  /-- R327. -/
  | warmStart (paramsOk : Bool) (chlth : BitVec 16) (qhlth : BitVec 4)
  /-- R327. -/
  | coldStart (chlth : BitVec 16) (qhlth : BitVec 4)
  /-- R327. -/
  | powerOn (chlth : BitVec 16) (qhlth : BitVec 4)
  /-- R328. -/
  | dieDisable (die : Nat)
  /-- R25. -/
  | dieFailure (die : Nat)
  /-- R268. -/
  | uncorrectedError (site : ErrSite)
  /-- R268. -/
  | correctedError (asid : Option Nat)
  /-- R330. -/
  | contextRecovery (asid : Nat)
  /-- R321. -/
  | tadjRate (value : BitVec 32)
  /-- R321. -/
  | tadjStep (value : BitVec 31)
  /-- R317. -/
  | actPreempt
  /-- R317. -/
  | actPkres (cmd : BitVec 64)
  /-- R317. -/
  | actPkill (cmd : BitVec 64)
  /-- R317. -/
  | actAtinv
  /-- R317. -/
  | actAtsync (cmd : BitVec 64)
  /-- R310. -/
  | actEnergyCredit (cmd : BitVec 64)
  /-- R283. -/
  | actPoolFrameReturn (cmd : BitVec 64)
  /-- R283. -/
  | actPoolFrameMarkInUse (cmd : BitVec 64)
  /-- R317. -/
  | actBreakpoint (cmd : BitVec 64)
  /-- R329. -/
  | attestationReport (nonce : List (BitVec 8))
  /-- R316. -/
  | mgmtRegisterWrite (reg : MgmtReg) (value : BitVec 64)
  /-- R313. -/
  | gctxWrite (hart : Nat) (value : BitVec 64)
  /-- R196. -/
  | hartCoherentAccess (hart : Nat) (pa : Nat) (n : Nat) (data : Option (List (BitVec 8)))
  /-- R197. -/
  | coherenceProbe (hart : Nat) (line : Nat) (seq : BitVec 16) (toI : Bool)
  /-- R198. -/
  | objectEvictRelease (hart : Nat) (line : Nat)
  /-- R319. -/
  | ethernetReceive (port : Nat) (queue : Nat) (data : List (BitVec 8))
  /-- R319. -/
  | ethernetTransmit (port : Nat) (queue : Nat)
  /-- R219. -/
  | remoteAccessIncoming (pa : Nat) (op : RemoteOp)
  /-- R323. -/
  | remoteAccessFailure (site : RemoteFail)
  /-- R325. -/
  | linkFailure (ethernet : Bool) (port : Nat) (up : Bool) (colls : List Nat)
  /-- R327. -/
  | rackBusUndervoltage
deriving DecidableEq, Repr

end Sys2Proof
end

