-- ==== Sys2Proof/Machine/Convert.lean ====
section
/-!
DEFINITION. The conversions between the element formats (R32 to R37, R41 to R51, R79, R81).

Every function works on one element, as a number of bits, and gives the result's bits with the flags of
R39. A saturation event (R47) is one that sets SV.
-/

namespace Sys2Proof.Machine

/-! ## Two's-complement readings -/

/-- The `w` low bits of `x` read as two's complement (R32). -/
def sint (w x : Nat) : Int :=
  let y := x % 2 ^ w
  if 2 ^ w ≤ 2 * y then (y : Int) - (2 ^ w : Nat) else y

/-- An integer as `w` two's-complement bits. -/
def ofSint (w : Nat) (x : Int) : Nat := (x % (2 ^ w : Nat)).toNat

/-- `x` held between `lo` and `hi`. -/
def clampInt (lo hi x : Int) : Int := max lo (min hi x)

/-! ## Between the floating-point formats (R44 to R46) -/

/-- A conversion to a floating-point format; `fp8` selects the FP8 rule of R46. -/
def cvtFloat (dst : FFmt) (env : FEnv) (fp8 : Bool) (x : Fp) : FRes :=
  let ftz := env.ftz && !fp8
  match x with
  | .nan q => dst.nanRes (if q then flNV else 0)
  | .inf neg =>
    if dst.e4m3 then
      (if env.sat8 then ⟨dst.signBits neg + dst.maxBits, flSV ||| flOF ||| flNX⟩ else dst.nanRes (flOF ||| flNX))
    else dst.infRes neg 0
  | .num neg m e => froundNum dst env.rm ftz (if fp8 && env.sat8 then .sat8 else .ieee) neg m e

/-- From one floating-point encoding to another. DAZ does not apply to an FP8 source (R40). -/
def cvtFF (src dst : FFmt) (env : FEnv) (bits : Nat) : FRes :=
  let fp8src := decide (src.width = 8)
  let x := if fp8src then src.decode (bits % 256) else fsrc src env bits
  cvtFloat dst env (decide (dst.width = 8)) x

/-! ## Integers (R45 pairs 14 to 19, R46) -/

/-- An integer to FP32, rounded under RM. -/
def intToF32 (env : FEnv) (x : Int) : FRes := froundNum fp32 env.rm env.ftz .ieee (decide (x < 0)) x.natAbs 0

/-- FP32 to an integer between `lo` and `hi` (R46, float to integer); the result as an integer. -/
def f32ToInt (env : FEnv) (lo hi : Int) (bits : Nat) : Int × Flags :=
  match fsrc fp32 env bits with
  | .nan _ => (0, flNV ||| flSV)
  | .inf neg => (if neg then lo else hi, flNV ||| flSV)
  | .num neg m e =>
    let (r, inexact) := rintMag env.rm neg m e
    let v : Int := if neg then -(r : Int) else r
    let c := clampInt lo hi v
    (c, (if c ≠ v then flNV ||| flSV else 0) ||| (if inexact then flNX else 0))

/-- An integer clamped to `w` two's-complement bits (R46, integer to integer). -/
def clampToInt (w : Nat) (x : Int) : FRes :=
  let c := clampInt (-(2 ^ (w - 1) : Nat)) ((2 ^ (w - 1) : Nat) - 1) x
  ⟨ofSint w c, if c ≠ x then flSV else 0⟩

/-! ## Logarithmic formats (R36, R37, R46) -/

/-- What an L16 encoding holds (R36). -/
inductive L16Val where
  | zero
  | nar
  | val (neg : Bool) (f : Int)
deriving DecidableEq, Repr

def l16Decode (bits : Nat) : L16Val :=
  let neg := decide (bits / 2 ^ 15 % 2 = 1)
  if bits % 2 ^ 15 = 0x4000 then (if neg then .nar else .zero) else .val neg (sint 15 bits)

def l16Encode (neg : Bool) (f : Int) : Nat := (if neg then 2 ^ 15 else 0) + ofSint 15 f

/-- round(512 · log2(m · 2^e)) for m > 0: half of the floor of 1024 · log2, plus one half (R46; no ties). -/
def log2Field (m : Nat) (e : Int) : Int := ((Nat.log2 (m ^ 1024) : Int) + 1) / 2 + 512 * e

/-- The L rule to L16 (R46), with the flags of R39: the field is exact only for a power of two. -/
def toL16 (x : Fp) : FRes :=
  match x with
  | .nan _ => ⟨0xC000, flNV⟩
  | .inf _ => ⟨0xC000, flNV⟩
  | .num neg m e =>
    if m = 0 then ⟨0x4000, 0⟩
    else
      let f := log2Field m e
      if 16383 < f then ⟨l16Encode neg 16383, flSV ||| flOF ||| flNX⟩
      else if f ≤ -16384 then ⟨0x4000, flUF ||| flNX⟩
      else ⟨l16Encode neg f, if m = 2 ^ Nat.log2 m then 0 else flNX⟩

/-- The largest r with r^k ≤ n below 2^b, bit by bit. -/
def rootBits (k n : Nat) : Nat → Nat → Nat
  | 0, r => r
  | b + 1, r => rootBits k n b (if (r + 2 ^ b) ^ k ≤ n then r + 2 ^ b else r)

/-- 2^(j/512) for 0 ≤ j < 512 in steps of 2^−30, from below. -/
def pow2Frac512 (j : Nat) : Nat := rootBits 512 (2 ^ (j + 512 * 30)) 31 0

/-- From L16 to FP32 (R46). -/
def fromL16 (bits : Nat) : FRes :=
  match l16Decode bits with
  | .zero => fp32.zeroRes false
  | .nar => fp32.nanRes 0
  | .val neg f =>
    let n := f / 512
    let j := (f % 512).toNat
    let (a, d) := scaleQuot (pow2Frac512 j) 1 (n - 30)
    fround fp32 .rne false .ieee neg a d (decide (j ≠ 0))

/-- f16/64 to the nearest integer, ties to even. -/
def rneDiv64 (f : Int) : Int :=
  let (r, _) := roundQuot .rne (decide (f < 0)) f.natAbs 64 false
  if f < 0 then -(r : Int) else r

/-- The L rule from L16 to L8 (R46), with the flags of R39: the field is exact only for a multiple of 64. -/
def l16ToL8 (bits : Nat) : FRes :=
  match l16Decode bits with
  | .zero => ⟨0x40, 0⟩
  | .nar => ⟨0xC0, 0⟩
  | .val neg f =>
    let s := if neg then 0x80 else 0
    let g := rneDiv64 f
    if 63 < g then ⟨s + 0x3F, flSV ||| flOF ||| flNX⟩
    else if g ≤ -64 then ⟨0x40, flUF ||| flNX⟩
    else ⟨s + ofSint 7 g, if f % 64 = 0 then 0 else flNX⟩

/-- From L8 to L16 (R46). -/
def l8ToL16 (bits : Nat) : Nat :=
  let neg := decide (bits / 2 ^ 7 % 2 = 1)
  if bits % 2 ^ 7 = 0x40 then (if neg then 0xC000 else 0x4000) else l16Encode neg (64 * sint 7 bits)

/-! ## The CVT pairs (R45) -/

/-- Whether a pair takes its second source from B (R45). -/
def cvtTwoSource : CvtPair → Bool
  | .f16x2F32 | .bf16x2F32 | .e4m3x2F32 | .e5m2x2F32 | .e4m3x4F16x2 | .e5m2x4F16x2 | .i8x2I32 | .i16x2I32
  | .l16x2F32 | .l8x4L16x2 => true
  | .f32F16 | .f32Bf16 | .f32E4m3 | .f32E5m2 | .f16x2E4m3 | .f16x2E5m2 | .bf16x2F16x2 | .f16x2Bf16x2
  | .f32I32 | .f32I32U | .i32F32 | .i32F32U | .f32L16 | .l16x2L8 => false

/-- The largest selector of a one-source pair (R45). -/
def cvtMaxSel : CvtPair → Nat
  | .f32F16 | .f32Bf16 | .f32L16 | .f16x2E4m3 | .f16x2E5m2 | .l16x2L8 => 1
  | .f32E4m3 | .f32E5m2 => 3
  | .f16x2F32 | .bf16x2F32 | .e4m3x2F32 | .e5m2x2F32 | .e4m3x4F16x2 | .e5m2x4F16x2 | .bf16x2F16x2 | .f16x2Bf16x2
  | .f32I32 | .f32I32U | .i32F32 | .i32F32U | .i8x2I32 | .i16x2I32 | .l16x2F32 | .l8x4L16x2 => 0

/-- Field [n·w + w − 1 : n·w] of a number. -/
def fieldAt (x w n : Nat) : Nat := x / 2 ^ (w * n) % 2 ^ w

/-- Results packed from element 0 upwards, each `w` bits wide, with their flags together (R42). -/
def packRes (w : Nat) (rs : List FRes) : FRes :=
  rs.foldr (fun r acc => ⟨r.bits + 2 ^ w * acc.bits, r.flags ||| acc.flags⟩) ⟨0, 0⟩

/-- Rounded under RNE with neither FTZ nor DAZ, for pair 12, whose overflow cannot occur. -/
def intRes (w : Nat) (r : Int × Flags) : FRes := ⟨ofSint w r.1, r.2⟩

/-- One lane of CVT: A, B (two-source) or A and the selector (R45). -/
def cvtLane (p : CvtPair) (env : FEnv) (a b sel : Nat) : FRes :=
  match p with
  | .f16x2F32 => packRes 16 [cvtFF fp32 fp16 env a, cvtFF fp32 fp16 env b]
  | .bf16x2F32 => packRes 16 [cvtFF fp32 bf16 env a, cvtFF fp32 bf16 env b]
  | .f32F16 => cvtFF fp16 fp32 env (fieldAt a 16 sel)
  | .f32Bf16 => cvtFF bf16 fp32 env (fieldAt a 16 sel)
  | .e4m3x2F32 => packRes 8 [cvtFF fp32 e4m3 env a, cvtFF fp32 e4m3 env b]
  | .e5m2x2F32 => packRes 8 [cvtFF fp32 e5m2 env a, cvtFF fp32 e5m2 env b]
  | .f32E4m3 => cvtFF e4m3 fp32 env (fieldAt a 8 sel)
  | .f32E5m2 => cvtFF e5m2 fp32 env (fieldAt a 8 sel)
  | .e4m3x4F16x2 =>
    packRes 8 [cvtFF fp16 e4m3 env (fieldAt a 16 0), cvtFF fp16 e4m3 env (fieldAt a 16 1),
      cvtFF fp16 e4m3 env (fieldAt b 16 0), cvtFF fp16 e4m3 env (fieldAt b 16 1)]
  | .e5m2x4F16x2 =>
    packRes 8 [cvtFF fp16 e5m2 env (fieldAt a 16 0), cvtFF fp16 e5m2 env (fieldAt a 16 1),
      cvtFF fp16 e5m2 env (fieldAt b 16 0), cvtFF fp16 e5m2 env (fieldAt b 16 1)]
  | .f16x2E4m3 =>
    packRes 16 [cvtFF e4m3 fp16 env (fieldAt a 8 (2 * sel)), cvtFF e4m3 fp16 env (fieldAt a 8 (2 * sel + 1))]
  | .f16x2E5m2 =>
    packRes 16 [cvtFF e5m2 fp16 env (fieldAt a 8 (2 * sel)), cvtFF e5m2 fp16 env (fieldAt a 8 (2 * sel + 1))]
  | .bf16x2F16x2 => packRes 16 [cvtFF fp16 bf16 env (fieldAt a 16 0), cvtFF fp16 bf16 env (fieldAt a 16 1)]
  | .f16x2Bf16x2 => packRes 16 [cvtFF bf16 fp16 env (fieldAt a 16 0), cvtFF bf16 fp16 env (fieldAt a 16 1)]
  | .f32I32 => intToF32 env (sint 32 a)
  | .f32I32U => intToF32 env (a % 2 ^ 32 : Nat)
  | .i32F32 => intRes 32 (f32ToInt env (-(2 ^ 31 : Nat)) ((2 ^ 31 : Nat) - 1) a)
  | .i32F32U => intRes 32 (f32ToInt env 0 ((2 ^ 32 : Nat) - 1) a)
  | .i8x2I32 => packRes 8 [clampToInt 8 (sint 32 a), clampToInt 8 (sint 32 b)]
  | .i16x2I32 => packRes 16 [clampToInt 16 (sint 32 a), clampToInt 16 (sint 32 b)]
  | .l16x2F32 => packRes 16 [toL16 (fsrc fp32 env a), toL16 (fsrc fp32 env b)]
  | .f32L16 => fromL16 (fieldAt a 16 sel)
  | .l8x4L16x2 =>
    packRes 8 [l16ToL8 (fieldAt a 16 0), l16ToL8 (fieldAt a 16 1), l16ToL8 (fieldAt b 16 0), l16ToL8 (fieldAt b 16 1)]
  | .l16x2L8 => ⟨l8ToL16 (fieldAt a 8 (2 * sel)) + 2 ^ 16 * l8ToL16 (fieldAt a 8 (2 * sel + 1)), 0⟩

/-! ## Block quantisation (R48 to R50) -/

/-- The element formats of the MX blocks: the number of fraction bits and the width in bits. -/
structure MxFmt where
  frac : Nat
  width : Nat
deriving DecidableEq, Repr

def mxInt8 : MxFmt := ⟨6, 8⟩
def mxI4 : MxFmt := ⟨2, 4⟩

/-- Whether an FP32 element is finite. -/
def finiteF32 (bits : Nat) : Bool :=
  match fp32.decode bits with
  | .num _ _ _ => true
  | _ => false

/-- Sign, and magnitude as a multiple of 2^−149, of a finite FP32 value. -/
def f32Fixed (bits : Nat) : Bool × Nat :=
  match fp32.decode bits with
  | .num neg m e => (neg, m * 2 ^ (e + 149).toNat)
  | _ => (false, 0)

/-- One element of `mxq`: the clamped integer and whether NX is set (R48); the scale is 2^(e − 127). -/
def mxqElem (fmt : MxFmt) (e : Nat) (bits : Nat) : Int × Bool :=
  let (neg, mag) := f32Fixed bits
  -- x · 2^(127 − e + w) = mag · 2^(−149 + 127 − e + w)
  let k : Int := (fmt.frac : Int) - 22 - e
  let (num, den) := scaleQuot mag 1 k
  let (r, inexact) := roundQuot .rne neg num den false
  let q : Int := if neg then -(r : Int) else r
  let c := clampInt (-(2 ^ (fmt.width - 1) : Nat)) ((2 ^ (fmt.width - 1) : Nat) - 1) q
  (c, inexact || decide (c ≠ q))

/-- MXQ of a block of FP32 values: the scale E, the integers and the flags (R48). -/
def mxq (fmt : MxFmt) (xs : List Nat) : Nat × List Int × Flags :=
  if xs.any fun x => !finiteF32 x then (0xFF, xs.map fun _ => 0, flNV)
  else
    let m := xs.foldl (fun acc x => max acc (f32Fixed x).2) 0
    if m = 0 then (0, xs.map fun _ => 0, 0)
    else
      let e := (clampInt 0 254 ((Nat.log2 m : Int) - 149 + 127)).toNat
      let qs := xs.map (mxqElem fmt e)
      (e, qs.map Prod.fst, if qs.any Prod.snd then flNX else 0)

/-- MXDQ of one element: int · 2^(E − 127 − w), exactly (R49). The one value that FP32 cannot hold, −2^128 (−128 in MXINT8 or −8 in
MXI4 with E = 254), comes out as −∞ with no flag (DESIGN CHOICE, log entry 74: R49 calls every value exact). -/
def mxdq (fmt : MxFmt) (e : Nat) (int : Int) : Nat :=
  if e = 0xFF then fp32.nanBits
  else if int = 0 then 0
  else (froundNum fp32 .rne false .ieee (decide (int < 0)) int.natAbs ((e : Int) - 127 - fmt.frac)).bits

/-- bf16_sat of the mean of 128 magnitudes given as a sum of multiples of 2^−149 (R50). -/
def terqScale (sum : Nat) : FRes :=
  let (n, d) := scaleQuot sum 1 (-156)
  let r := fround bf16 .rne false .ieee false n d false
  if bf16.maxBits < r.bits then ⟨bf16.maxBits, flOF ||| flNX⟩ else ⟨r.bits, 0⟩

/-- One code of TERQ, given s = sm · 2^se: −1, 0 or 1, and whether NX is set (R50). -/
def terqElem (sm : Nat) (se : Int) (bits : Nat) : Int × Bool :=
  let (neg, mag) := f32Fixed bits
  let (num, den) := scaleQuot mag sm (-149 - se)
  let (r, _) := roundQuot .rne neg num den false
  let c : Int := if r = 0 then 0 else if neg then -1 else 1
  -- c · s ≠ x: the magnitudes, over the common power of two
  let eq := if c = 0 then decide (mag = 0) else decide (num = den)
  (c, !eq)

/-- The two-bit code of −1, 0 or +1 (R35). -/
def terCode (c : Int) : Nat := if c = 0 then 0 else if 0 < c then 1 else 3

/-- TERQ of 128 FP32 values: the BF16 scale, the codes and the flags (R50). -/
def terq (xs : List Nat) : Nat × List Nat × Flags :=
  if xs.any fun x => !finiteF32 x then (bf16.nanBits, xs.map fun _ => 0, flNV)
  else
    let s := terqScale (xs.foldl (fun acc x => acc + (f32Fixed x).2) 0)
    match bf16.decode s.bits with
    | .num _ sm se =>
      if sm = 0 then (s.bits, xs.map fun _ => 0, s.flags)
      else
        let cs := xs.map (terqElem sm se)
        (s.bits, cs.map fun c => terCode c.1, s.flags ||| (if cs.any Prod.snd then flNX else 0))
    | _ => (s.bits, xs.map fun _ => 0, s.flags)

/-- A TER2 element as a number on its own (R35): the FP32 result and NV for the reserved code. -/
def terDecode (code s : Nat) : FRes :=
  let flags := if code % 4 = 2 then flNV else 0
  let neg := decide (code % 4 = 3)
  let isZero := code % 2 = 0
  match bf16.decode s with
  | .nan _ => fp32.nanRes flags
  | .inf sn => if isZero then fp32.nanRes flags else fp32.infRes (sn != neg) flags
  | .num sn m e =>
    if isZero then ⟨0, flags⟩
    else ⟨(froundNum fp32 .rne false .ieee (sn != neg) m e).bits, flags⟩

/-! ## FRND (R51) -/

/-- FRND of one FP32 value under the rounding mode. -/
def frnd (rm : Rm) (env : FEnv) (bits : Nat) : FRes :=
  match fsrc fp32 env bits with
  | .nan q => fp32.nanRes (if q then flNV else 0)
  | .inf neg => fp32.infRes neg 0
  | .num neg m e =>
    let (r, _) := rintMag rm neg m e
    ⟨(froundNum fp32 .rne false .ieee neg r 0).bits, 0⟩

/-! ## Storage formats (R79, R81) -/

/-- Bytes of a storage unit (R79); 0 for the reserved codes. -/
def fmtUnit (fmt : Nat) : Nat :=
  match fmt with
  | 0 => 1
  | 1 => 4
  | 2 => 2
  | 3 => 2
  | 4 => 1
  | 5 => 1
  | 6 => 36
  | 7 => 20
  | 8 => 36
  | 9 => 2
  | 10 => 1
  | 11 => 1
  | 12 => 2
  | 13 => 4
  | _ => 0

/-- Alignment of a storage unit (R79). -/
def fmtAlign (fmt : Nat) : Nat := if fmt = 6 ∨ fmt = 7 ∨ fmt = 8 then 4 else max 1 (fmtUnit fmt)

/-- Elements in a storage unit (R79). -/
def fmtElems (fmt : Nat) : Nat := if fmt = 6 ∨ fmt = 7 then 32 else if fmt = 8 then 128 else 1

/-- dec of R81 for a format of one element to a unit: to FP32. -/
def decElem (fmt x : Nat) : FRes :=
  let env := FEnv.plain true
  match fmt with
  | 1 => ⟨x % 2 ^ 32, 0⟩
  | 2 => cvtFF fp16 fp32 env x
  | 3 => cvtFF bf16 fp32 env x
  | 4 => cvtFF e4m3 fp32 env x
  | 5 => cvtFF e5m2 fp32 env x
  | 9 => fromL16 x
  | 10 => fromL16 (l8ToL16 x)
  | 11 => intToF32 env (sint 8 x)
  | 12 => intToF32 env (sint 16 x)
  | 13 => intToF32 env (sint 32 x)
  | _ => ⟨0, 0⟩

/-- The result of one conversion after another, with both flags. -/
def FRes.andThen (r : FRes) (k : Nat → FRes) : FRes := ⟨(k r.bits).bits, r.flags ||| (k r.bits).flags⟩

/-- enc of R81 for a format of one element to a unit: from FP32. -/
def encElem (fmt : Nat) (sat8 : Bool) (x : Nat) : FRes :=
  let env := FEnv.plain sat8
  let toI32 : FRes := intRes 32 (f32ToInt env (-(2 ^ 31 : Nat)) ((2 ^ 31 : Nat) - 1) x)
  match fmt with
  | 1 => ⟨x % 2 ^ 32, 0⟩
  | 2 => cvtFF fp32 fp16 env x
  | 3 => cvtFF fp32 bf16 env x
  | 4 => cvtFF fp32 e4m3 env x
  | 5 => cvtFF fp32 e5m2 env x
  | 9 => toL16 (fp32.decode (x % 2 ^ 32))
  | 10 => (toL16 (fp32.decode (x % 2 ^ 32))).andThen l16ToL8
  | 11 => toI32.andThen fun y => clampToInt 8 (sint 32 y)
  | 12 => toI32.andThen fun y => clampToInt 16 (sint 32 y)
  | 13 => toI32
  | _ => ⟨0, 0⟩

/-- Width in bits of an integer format (R79). -/
def intFmtWidth (fmt : Nat) : Nat := if fmt = 11 then 8 else if fmt = 12 then 16 else 32

/-- Whether a format is one of the integer formats. -/
def isIntFmt (fmt : Nat) : Bool := decide (11 ≤ fmt ∧ fmt ≤ 13)

/-- The conversion of one element between two formats of one element to a unit (R81). -/
def convElem (src dst : Nat) (sat8 : Bool) (x : Nat) : FRes :=
  if src = dst then ⟨x % 2 ^ (8 * fmtUnit src), 0⟩
  else if src = 9 ∧ dst = 10 then l16ToL8 x
  else if src = 10 ∧ dst = 9 then ⟨l8ToL16 x, 0⟩
  else if isIntFmt src ∧ isIntFmt dst then clampToInt (intFmtWidth dst) (sint (intFmtWidth src) x)
  else (decElem src x).andThen (encElem dst sat8)

/-! ## Blocks as bytes (R33 to R35) -/

/-- A little-endian number from bytes. -/
def leNat (bs : List Nat) : Nat := bs.foldr (fun b acc => b % 256 + 256 * acc) 0

/-- The elements of a block as FP32 with their flags (dec of R81), from the block's bytes. -/
def decBlock (fmt : Nat) (bytes : List Nat) : List FRes :=
  let byte (i : Nat) : Nat := bytes.getD i 0 % 256
  if fmt = 6 then (List.range 32).map fun k => ⟨mxdq mxInt8 (byte 32) (sint 8 (byte k)), 0⟩
  else if fmt = 7 then
    (List.range 32).map fun k => ⟨mxdq mxI4 (byte 16) (sint 4 (byte (k / 2) / 16 ^ (k % 2))), 0⟩
  else (List.range 128).map fun k => terDecode (byte (k / 4) / 4 ^ (k % 4) % 4) (byte 32 + 256 * byte 33)

/-- The bytes of a block from its FP32 elements, with the flags of the quantisation (enc of R81). -/
def encBlock (fmt : Nat) (xs : List Nat) : List Nat × Flags :=
  if fmt = 6 then
    let (e, qs, fl) := mxq mxInt8 xs
    (qs.map (ofSint 8) ++ [e, 0, 0, 0], fl)
  else if fmt = 7 then
    let (e, qs, fl) := mxq mxI4 xs
    ((List.range 16).map (fun i => ofSint 4 (qs.getD (2 * i) 0) + 16 * ofSint 4 (qs.getD (2 * i + 1) 0)) ++ [e, 0, 0, 0],
      fl)
  else
    let (s, cs, fl) := terq xs
    ((List.range 32).map (fun i =>
        cs.getD (4 * i) 0 + 4 * cs.getD (4 * i + 1) 0 + 16 * cs.getD (4 * i + 2) 0 + 64 * cs.getD (4 * i + 3) 0) ++
      [s % 256, s / 256, 0, 0], fl)

end Sys2Proof.Machine
end

