-- ==== Sys2Proof/Machine/FfnMath.lean ====
section
/-!
DEFINITION. The functions of the FFN instructions (R52 to R56): both function-table versions.

Version 2 rounds the exact value once. Each function is computed as a fixed-point number with far more bits
than any format holds; where the exact value is irrational, a number close below or above it decides the
rounding (log entry 20 gives the error argument). Version 1 evaluates the tables of R55, whose entries are
generated from the same functions, as exact dyadic rationals.
-/

namespace Sys2Proof.Machine

/-! ## Fixed-point arithmetic: a number `x` stands for x / 2^p -/

def fxMul (p : Nat) (x y : Int) : Int := x * y / (2 ^ p : Nat)
def fxDiv (p : Nat) (x y : Int) : Int := x * (2 ^ p : Nat) / y
def fxOne (p : Nat) : Int := (2 ^ p : Nat)

/-- Σ over k of z^(2k+1)/(2k+1), `n` terms from `k`: atanh z for |z| < 1. -/
def fxAtanh (p : Nat) (z2 : Int) : Nat → Nat → Int → Int → Int
  | 0, _, _, acc => acc
  | n + 1, k, pw, acc => fxAtanh p z2 n (k + 1) (fxMul p pw z2) (acc + pw / ((2 * k + 1 : Nat) : Int))

/-- Σ over k of (−1)^k z^(2k+1)/(2k+1): atan z. -/
def fxAtan (p : Nat) (z2 : Int) : Nat → Nat → Int → Int → Int
  | 0, _, _, acc => acc
  | n + 1, k, pw, acc => fxAtan p z2 n (k + 1) (-(fxMul p pw z2)) (acc + pw / ((2 * k + 1 : Nat) : Int))

/-- ln 2 = 2 atanh (1/3). -/
def fxLn2 (p : Nat) : Int :=
  let z := fxOne p / 3
  2 * fxAtanh p (fxMul p z z) (p / 3 + 4) 0 z 0

/-- π by Machin's formula. -/
def fxPi (p : Nat) : Int :=
  let a := fxOne p / 5
  let b := fxOne p / 239
  4 * (4 * fxAtan p (fxMul p a a) (p / 4 + 4) 0 a 0 - fxAtan p (fxMul p b b) (p / 15 + 4) 0 b 0)

/-- Σ over k of t^k / k!, `n` terms from `k`. -/
def fxExpLoop (p : Nat) (t : Int) : Nat → Nat → Int → Int → Int
  | 0, _, _, acc => acc
  | n + 1, k, term, acc => fxExpLoop p t n (k + 1) (fxMul p term t / ((k + 1 : Nat) : Int)) (acc + term)

/-- e^t for |t| ≤ 1. -/
def fxExp (p : Nat) (t : Int) : Int := fxExpLoop p t (p / 4 + 20) 0 (fxOne p) 0

/-- ln m for 1/2 ≤ m ≤ 2, with m given as a/b. -/
def fxLnQuot (p : Nat) (a b : Int) : Int :=
  let z := fxDiv p (a - b) (a + b)
  2 * fxAtanh p (fxMul p z z) (p / 3 + 4) 0 z 0

/-- sin and cos by their series at t, |t| ≤ 2: (Σ of even terms with sign, Σ of odd ones). -/
def fxTrigLoop (p : Nat) (t : Int) : Nat → Nat → Int → Int → Int → Int × Int
  | 0, _, _, c, s => (c, s)
  | n + 1, k, term, c, s =>
    let sg (x : Int) : Int := if k / 2 % 2 = 0 then x else -x
    fxTrigLoop p t n (k + 1) (fxMul p term t / ((k + 1 : Nat) : Int))
      (if k % 2 = 0 then c + sg term else c) (if k % 2 = 0 then s else s + sg term)

/-- (cos t, sin t) for 0 ≤ t ≤ 2. -/
def fxTrig (p : Nat) (t : Int) : Int × Int := fxTrigLoop p t (p / 4 + 20) 0 (fxOne p) 0 0

/-- e^t for t ≥ 0: 2^n e^r with r below ln 2. -/
def fxExpBig (p : Nat) (t : Int) : Int :=
  let l := fxLn2 p
  let n := t / l
  fxExp p (t - n * l) * (2 ^ n.toNat : Nat)

/-- tanh a for 0 ≤ a < 16. -/
def fxTanh (p : Nat) (a : Int) : Int :=
  let e := fxExpBig p (2 * a)
  fxDiv p (e - fxOne p) (e + fxOne p)

/-- Σ over k of (−1)^k a^(2k+1) / (k! (2k+1)). -/
def fxErfLoop (p : Nat) (a2 : Int) : Nat → Nat → Int → Int → Int
  | 0, _, _, acc => acc
  | n + 1, k, term, acc =>
    fxErfLoop p a2 n (k + 1) (-(fxMul p term a2) / ((k + 1 : Nat) : Int)) (acc + term / ((2 * k + 1 : Nat) : Int))

/-- 2/√π. -/
def fxTwoRtPi (p : Nat) : Int :=
  fxDiv p (2 * fxOne p) (isqrt ((fxPi p).toNat * 2 ^ p) : Int)

/-- erf a for 0 ≤ a < 5. -/
def fxErf (p : Nat) (a : Int) : Int := fxMul p (fxTwoRtPi p) (fxErfLoop p (fxMul p a a) (p / 2 + 60) 0 a 0)

/-! ## Version 2 (R53, R54) -/

/-- The FFN operations (R381). -/
inductive FfnOp where
  | exp | log | rcp | rsq | sin | cos | tanh | erf
deriving DecidableEq, Repr

/-- A function's value before rounding: a result by R53, or a sign with a magnitude n/d and whether the exact
magnitude lies a little above it. -/
inductive FfnVal where
  | done (r : FRes)
  | quot (neg : Bool) (n d : Nat) (sticky : Bool)
deriving DecidableEq, Repr

/-- Bits of the fixed-point numbers of version 2. -/
def ffnPrec : Nat := 420

/-- A signed fixed-point number as a value that is never exact. -/
def ofFx (p : Nat) (x : Int) : FfnVal := .quot (decide (x < 0)) x.natAbs (2 ^ p) true

/-- The special values of R53 that do not depend on the version; `none` for the others. -/
def ffnSpecial (op : FfnOp) (f : FFmt) (x : Fp) : Option FRes :=
  let one : FRes := ⟨f.bias * 2 ^ f.mb, 0⟩
  let minusOne : FRes := ⟨f.signBits true + f.bias * 2 ^ f.mb, 0⟩
  match x with
  | .nan q => some (f.nanRes (if q then flNV else 0))
  | .inf neg =>
    match op with
    | .exp => some (if neg then f.zeroRes false else f.infRes false 0)
    | .log => some (if neg then f.nanRes flNV else f.infRes false 0)
    | .rcp => some (f.zeroRes neg)
    | .rsq => some (if neg then f.nanRes flNV else f.zeroRes false)
    | .sin => some (f.nanRes flNV)
    | .cos => some (f.nanRes flNV)
    | .tanh => some (if neg then minusOne else one)
    | .erf => some (if neg then minusOne else one)
  | .num neg m e =>
    if m = 0 then
      match op with
      | .exp => some one
      | .log => some (f.infRes true flDZ)
      | .rcp => some (f.infRes neg flDZ)
      | .rsq => some (f.infRes neg flDZ)
      | .sin => some (f.zeroRes neg)
      | .cos => none
      | .tanh => some (f.zeroRes neg)
      | .erf => some (f.zeroRes neg)
    else
      let isInt (k : Int) : Bool := decide (0 ≤ e + k) || decide (m % 2 ^ (-(e + k)).toNat = 0)
      match op with
      | .exp => none
      | .log => if neg then some (f.nanRes flNV) else if isInt 0 && decide (m * 2 ^ e.toNat = 2 ^ (-e).toNat) then some (f.zeroRes false) else none
      | .rcp => none
      | .rsq => if neg then some (f.nanRes flNV) else none
      | .sin => if isInt 0 then some (f.zeroRes false) else none
      -- x + 1/2 is an integer: 2x is an odd integer
      | .cos => if isInt 1 && !isInt 0 then some (f.zeroRes false) else none
      | .tanh => none
      | .erf => none

/-- x = (−1)^neg m 2^e as a floor and a remainder over 2^k: (floor x, num, k) with x − floor x = num / 2^k.
For e ≥ 0 the floor is exact; a magnitude of 2^64 or more is held at 2^64, which no function below tells
from a larger one. -/
def splitFloor (neg : Bool) (m : Nat) (e : Int) : Int × Nat × Nat :=
  let k := (-e).toNat
  let s : Int := if neg then -(m : Int) else m
  if 0 ≤ e then ((if 64 ≤ e then s * (2 ^ 64 : Nat) else s * (2 ^ e.toNat : Nat)), 0, 0)
  else (s / (2 ^ k : Nat), (s % (2 ^ k : Nat)).toNat, k)

/-- A power of two times n/d, with the exponent held where every format already overflows or underflows. -/
def quotPow2 (neg : Bool) (n d : Nat) (e : Int) (sticky : Bool) : FfnVal :=
  let e' := max (-2000) (min 2000 e)
  let (a, b) := scaleQuot n d e'
  .quot neg a b sticky

/-- sin(π y) for 0 ≤ y < 2 given as num/2^k. -/
def sinPiV2 (num k : Nat) : FfnVal :=
  let p := ffnPrec
  -- quarter turns: y = j/2 + r/2^k·…; reduce to t in [0, 1/2]
  let half := 2 ^ k          -- the unit
  let neg := decide (half ≤ num)
  let y := if neg then num - half else num      -- in [0, 1)
  let z := if half < 2 * y then half - y else y  -- in [0, 1/2]
  if z = 0 then .quot neg 0 1 false
  else if 2 * z = half then .quot neg 1 1 false
  else
    let t := fxMul p (fxPi p) ((z * 2 ^ p / half : Nat) : Int)
    -- for a very small z use π z at higher relative precision
    if z * 2 ^ 100 < half then
      .quot neg ((fxPi p).toNat * z) (2 ^ p * half) true
    else if 4 * z ≤ half then .quot neg (fxTrig p t).2.toNat (2 ^ p) true
    else
      -- sin(π z) = cos(π (1/2 − z))
      let c := half - 2 * z
      if c * 2 ^ 100 < half then .quot neg (2 ^ p - 1) (2 ^ p) true
      else
        let t' := fxMul p (fxPi p) ((c * 2 ^ p / (2 * half) : Nat) : Int)
        .quot neg (fxTrig p t').1.toNat (2 ^ p) true

/-- Version 2 on a finite value that R53 does not settle. -/
def ffnV2Num (op : FfnOp) (neg : Bool) (m : Nat) (e : Int) : FfnVal :=
  let p := ffnPrec
  match op with
  | .exp =>
    let (n, r, k) := splitFloor neg m e
    if r = 0 then quotPow2 false 1 1 n false
    else
      let t := fxMul p (fxLn2 p) ((r * 2 ^ p / 2 ^ k : Nat) : Int)
      if r * 2 ^ 100 < 2 ^ k then
        -- 2^n (1 + r ln 2 / 2^k), a little above
        quotPow2 false (2 ^ (p + k) + (fxLn2 p).toNat * r) (2 ^ (p + k)) n true
      else quotPow2 false (fxExp p t).toNat (2 ^ p) n true
  | .log =>
    -- m = a · 2^(bits − 1) with 1 ≤ a < 2
    let b := Nat.log2 m
    let ex : Int := e + b
    if m = 2 ^ b then .quot (decide (ex < 0)) ex.natAbs 1 false
    else
      -- the larger half is written as 2 · (a/2), so that x near 1 keeps its precision
      let up := decide (2 ^ (2 * b + 1) ≤ m * m)
      let l := fxLnQuot p m (if up then 2 ^ (b + 1) else 2 ^ b : Nat)
      ofFx p ((if up then ex + 1 else ex) * fxOne p + fxDiv p l (fxLn2 p))
  | .rcp =>
    let (n, d) := scaleQuot 1 m (-e)
    .quot neg n d false
  | .rsq =>
    let (m', e') := if e % 2 = 0 then (m, e) else (2 * m, e - 1)
    let s := isqrt (2 ^ 256 / m')
    quotPow2 false s (2 ^ 128) (-(e' / 2)) (decide (s * s * m' ≠ 2 ^ 256))
  | .sin =>
    let (n, r, k) := splitFloor neg m e
    sinPiV2 ((n % 2).toNat * 2 ^ k + r) k
  | .cos =>
    let (n, r, k) := splitFloor neg m e
    -- y = x + 1/2 in units of 2^-(k+1), taken modulo 2
    sinPiV2 (((n % 2).toNat * 2 ^ (k + 1) + 2 * r + 2 ^ k) % 2 ^ (k + 2)) (k + 1)
  | .tanh =>
    let (a, d) := scaleQuot m 1 e
    if 16 * d ≤ a then .quot neg (2 ^ p - 1) (2 ^ p) true
    -- x − x³/3 …: a little below x
    else if a * 2 ^ 40 < d then .quot neg (a * 2 ^ 300 - a) (d * 2 ^ 300) true
    else .quot neg (fxTanh p ((a * 2 ^ p / d : Nat) : Int)).toNat (2 ^ p) true
  | .erf =>
    let (a, d) := scaleQuot m 1 e
    if 5 * d ≤ a then .quot neg (2 ^ p - 1) (2 ^ p) true
    else if a * 2 ^ 100 < d then .quot neg ((fxTwoRtPi p).toNat * a) (2 ^ p * d) true
    else .quot neg (fxErf p ((a * 2 ^ p / d : Nat) : Int)).toNat (2 ^ p) true

/-! ## Version 1 (R55) -/

/-- Precision of the numbers that the table entries are rounded from. -/
def tabPrec : Nat := 200

/-- A fixed-point number rounded to the nearest multiple of 2^−k, as that multiple; a tie to even. -/
def tabRound (k : Nat) (x : Int) : Int :=
  let (r, _) := roundQuot .rne (decide (x < 0)) (x.natAbs * 2 ^ k) (2 ^ tabPrec) false
  if x < 0 then -(r : Int) else r

/-- g, g′ and g″/2 of a table, each a fixed-point number. -/
structure Jet where
  g : Int
  g1 : Int
  g2 : Int
deriving DecidableEq, Repr

/-- g(t) = h(t)/t from h, h′ and h″ at t ≠ 0. -/
def jetOverT (h h1 h2 t : Int) : Jet :=
  let p := tabPrec
  let g := fxDiv p h t
  let g1 := fxDiv p (h1 - g) t
  ⟨g, g1, fxDiv p (h2 / 2 - g1) t⟩

/-- tanh or erf and its derivatives at a fixed-point argument. -/
def jetTanh (a : Int) : Jet :=
  let p := tabPrec
  let t := fxTanh p a
  let d := fxOne p - fxMul p t t
  ⟨t, d, -(fxMul p t d)⟩

def jetErf (a : Int) : Jet :=
  let p := tabPrec
  let d := fxDiv p (fxTwoRtPi p) (fxExpBig p (fxMul p a a))
  ⟨fxErf p a, d, -(fxMul p a d)⟩

/-- The jet of the table of an operation at its i-th left end (R55): `j` is the table of FTANH and FERF, and
the parity of the exponent for FRSQ. -/
def tabJet (op : FfnOp) (j i : Nat) : Jet :=
  let p := tabPrec
  let one := fxOne p
  let t : Int := one * i / 512
  match op with
  | .exp =>
    let l := fxLn2 p
    let g := fxExp p (fxMul p l t)
    let g1 := fxMul p l g
    ⟨g, g1, fxMul p l g1 / 2⟩
  | .log =>
    let tt : Int := t - one / 4
    let l := fxLn2 p
    let inv := fxDiv p one l
    if i = 128 then ⟨inv, -inv / 2, inv / 3⟩
    else
      let h := fxDiv p (fxLnQuot p (one + tt) one) l
      let h1 := fxDiv p inv (one + tt)
      let h2 := -(fxDiv p h1 (one + tt))
      jetOverT h h1 h2 tt
  | .rcp =>
    let g := fxDiv p one (one + t)
    let g1 := fxMul p g g
    ⟨g, -g1, fxMul p g1 g⟩
  | .rsq =>
    let u : Int := if j = 0 then one + t else 2 * (one + t)
    let g := fxDiv p one (isqrt (u.toNat * 2 ^ p) : Int)
    let g1 := fxDiv p g (one + t)
    ⟨g, -g1 / 2, fxDiv p g1 (one + t) * 3 / 8⟩
  | .sin | .cos =>
    let h := fxPi p / 2
    if i = 0 then ⟨h, 0, -(fxMul p (fxMul p h h) h) / 6⟩
    else
      let (c, s) := fxTrig p (fxMul p h t)
      jetOverT s (fxMul p h c) (-(fxMul p (fxMul p h h) s)) t
  | .tanh =>
    if j = 0 then
      if i = 0 then ⟨one, 0, -one / 3⟩
      else
        let x := jetTanh t
        jetOverT x.g x.g1 (2 * x.g2) t
    else jetTanh (one * j + t)
  | .erf =>
    if j = 0 then
      if i = 0 then ⟨fxTwoRtPi p, 0, -(fxTwoRtPi p) / 3⟩
      else
        let x := jetErf t
        jetOverT x.g x.g1 (2 * x.g2) t
    else jetErf (one * j + t)

/-- v of R55 at u − lo = num / 2^k in table `j` of n entries: a numerator over 2^(32 + 2k). -/
def tabEval (op : FfnOp) (j n num k : Nat) : Int :=
  let i := min (num * 512 / 2 ^ k) (n - 1)
  let x := tabJet op j i
  -- d = num/2^k − i/512, over 2^k with k raised to at least 9
  let d : Int := (num : Int) - ((i * 2 ^ k / 512 : Nat) : Int)
  tabRound 32 x.g * (2 ^ (2 * k) : Nat) + tabRound 24 x.g1 * d * (2 ^ (k + 8) : Nat) + tabRound 16 x.g2 * d * d * (2 ^ 16 : Nat)

/-- A number num/2^k with k at least 9, so that the table's steps are whole. -/
def deepen (num k : Nat) : Nat × Nat := (num * 2 ^ 9, k + 9)

/-- v times u over their common denominators, as a signed quotient scaled by 2^e. -/
def v1Quot (neg : Bool) (v : Int) (k : Nat) (e : Int) : FfnVal :=
  quotPow2 (neg != decide (v < 0)) v.natAbs (2 ^ (32 + 2 * k)) e false

/-- The FSIN reduction of R55 at y = num/2^k in [0, 2). -/
def sinPiV1 (num k : Nat) : FfnVal :=
  let one := 2 ^ k
  let (u, neg) :=
    if 2 * num < one then (2 * num, false)
    else if num < one then (2 * one - 2 * num, false)
    else if 2 * num < 3 * one then (2 * num - 2 * one, true)
    else (4 * one - 2 * num, true)
  let (u', k') := deepen u k
  let v := tabEval .sin 0 512 u' k'
  quotPow2 (neg != decide (v < 0)) (v.natAbs * u') (2 ^ (32 + 3 * k')) 0 false

/-- FTANH and FERF under version 1: `top` is where the final case begins. -/
def sigmoidV1 (op : FfnOp) (top : Nat) (neg : Bool) (m : Nat) (e : Int) : FfnVal :=
  let (j, r, k) := splitFloor false m e
  let j := j.toNat
  if top ≤ j then .quot neg 1 1 false
  else
    let (u, k') := deepen r k
    let v := tabEval op j 512 u k'
    if j = 0 then quotPow2 (neg != decide (v < 0)) (v.natAbs * u) (2 ^ (32 + 3 * k')) 0 false
    else v1Quot neg v k' 0

/-- Version 1 on a finite value that R53 does not settle. -/
def ffnV1Num (op : FfnOp) (neg : Bool) (m : Nat) (e : Int) : FfnVal :=
  let b := Nat.log2 m
  match op with
  | .exp =>
    let (n, r, k) := splitFloor neg m e
    let (u, k') := deepen r k
    v1Quot false (tabEval .exp 0 512 u k') k' n
  | .log =>
    -- x = 2^e'·m' with 3/4 ≤ m' < 3/2
    let up := decide (3 * 2 ^ b ≤ 2 * m)
    let ex : Int := e + b + (if up then 1 else 0)
    -- m' = m / 2^k
    let k := if up then b + 1 else b
    let (n1, k') := deepen m k
    -- u − lo = m' − 1 + 1/4
    let off : Int := (n1 : Int) - (3 * 2 ^ k' / 4 : Nat)
    let v := tabEval .log 0 384 off.toNat k'
    let u : Int := (n1 : Int) - (2 ^ k' : Nat)
    let w : Int := ex * (2 ^ (32 + 3 * k') : Nat) + u * v
    .quot (decide (w < 0)) w.natAbs (2 ^ (32 + 3 * k')) false
  | .rcp =>
    let (u, k) := deepen (m - 2 ^ b) b
    v1Quot neg (tabEval .rcp 0 512 u k) k (-(e + b))
  | .rsq =>
    let ex : Int := e + b
    let (u, k) := deepen (m - 2 ^ b) b
    v1Quot false (tabEval .rsq (ex % 2).toNat 512 u k) k (-(ex / 2))
  | .sin =>
    let (n, r, k) := splitFloor neg m e
    sinPiV1 ((n % 2).toNat * 2 ^ k + r) k
  | .cos =>
    let (n, r, k) := splitFloor neg m e
    sinPiV1 (((n % 2).toNat * 2 ^ (k + 1) + 2 * r + 2 ^ k) % 2 ^ (k + 2)) (k + 1)
  | .tanh => sigmoidV1 .tanh 16 neg m e
  | .erf => sigmoidV1 .erf 4 neg m e

/-- One FFN element: the function at the source under the version in FTV, rounded once (R53 to R56). -/
def ffnElem (op : FfnOp) (ver : Nat) (f : FFmt) (env : FEnv) (bits : Nat) : FRes :=
  let x := fsrc f env bits
  match ffnSpecial op f x with
  | some r => r
  | none =>
    let v :=
      match x with
      | .num neg m e => if ver = 2 then ffnV2Num op neg m e else ffnV1Num op neg m e
      | _ => .done (f.nanRes 0)
    match v with
    | .done r => r
    | .quot neg n d sticky => fround f env.rm env.ftz .ieee neg n d sticky

end Sys2Proof.Machine
end

