-- ==== Sys2Proof/Config.lean ====
section
/-!
DEFINITION. What an implementation fixes, and the free values: what the spec leaves open.

A free value is an opaque constant with no body, applied to the model's own counter `State.tick` or to
what the value may depend on. Nothing can evaluate it, so a theorem about a step that reads it holds for
every value. Each one is named in the assumption log.
-/

namespace Sys2Proof.Config

/-- Which of the agents that may act moves next (DESIGN CHOICE, log entry 2): a free number, taken modulo
the number of agents that may act. -/
opaque schedule : Nat → Nat

/-- By how many nanoseconds device time moves when time passes (log entry 3). -/
opaque elapsedNs : Nat → Nat

/-- Which line of a full set a cache gives up, which buffered line goes first, which ways a slice loses (R178, R186, R189; log entry 72). -/
opaque victim : (tick line : Nat) → Nat

/-- Whether a read that may find the old or the new value finds the old one (R74; log entry 34). -/
opaque findsOld : (tick which : Nat) → Bool

/-- Whether the other half of a pair than the one with the oldest entry empties its store FIFO first (R105; log entry 24). -/
opaque otherHalf : (tick which : Nat) → Bool

/-- Which of several values, in the order they come about, a read finds (R75; log entry 34). -/
opaque pick : (tick which : Nat) → Nat

/-- A byte that another device of the UALink domain returns for a read (R219, R322; log entry 8). -/
opaque remoteByte : (tick address : Nat) → BitVec 8

/-- An element of another rank's buffer in a collective (R325; log entry 21). -/
opaque peerElem : (tick rank index : Nat) → BitVec 32

/-- The lowest rank whose command differs, if one does (R325; log entry 21). -/
opaque peerMismatch : (tick : Nat) → Option Nat

/-- By how many nanoseconds the first rank submitted before this one, and which rank did not submit (R325; log entry 21). -/
opaque peerLead : (tick : Nat) → Nat
opaque peerMissing : (tick : Nat) → Nat

/-- A byte that the spec leaves undefined (log entry 18). -/
opaque undefined8 : (tick address : Nat) → BitVec 8

/-- A value that the spec leaves undefined (log entry 18). -/
opaque undefined64 : (tick which : Nat) → BitVec 64

/-- Whether a hart's access already uses the binding that a gctx write has asked for (R313; log entry 22). -/
opaque newBinding : (tick : Nat) → Bool

/-- The SHA-384 digests of the firmware stages, in boot order (R329; log entry 19). -/
opaque firmwareDigests : List (BitVec 8)

/-- The two halves, r and s, of the ECDSA P-384 signature that an attestation key puts on a report (R329; log entry 19). Keys are
numbered by the cold start that made them. -/
opaque signatureR : (key tick : Nat) → List (BitVec 8) → BitVec 384
opaque signatureS : (key tick : Nat) → List (BitVec 8) → BitVec 384

/-- The public half of an attestation key, the device identity key's signature on it, and the chain up to that key (R329; log entry 19). -/
opaque attestPublic : (key : Nat) → List (BitVec 8)
opaque attestEndorsement : (key : Nat) → List (BitVec 8)
opaque certificateChain : List (BitVec 8)

/-- Which register of the power block an offset into it names: the spec gives the block one offset and its registers none (R316; log
entry 19). Registers are numbered PWCFG 0, PWBPn 1 + n, PWCTL 9, PWSTAT 10, PWEW 11 + 4 * IC + class, PWBAL 43, PWOVS.ENERGY 44,
PWOVS.COUNT 45. -/
opaque powerReg : (offset : Nat) → Option Nat

/-- STEP of MGID: which step of the silicon this module is (R316; log entry 19). -/
opaque siliconStep : BitVec 8

end Sys2Proof.Config
end

