-- ==== Sys2Proof/WellFormed.lean ====
section
/-!
DEFINITION. Which instructions have an encoding of their own.

The fields of `Instr` have the widths of the formats of R161, so most terms stand for one word. The checks
below are the conditions between fields: a term that breaks one is no instruction (its word, if it has
one, raises UNDEF under R170).
-/

namespace Sys2Proof

/-- PHINT and IDEM: with no range, B is unused and must be zero (R259, R158). -/
def hintRangesOk (n : BitVec 3) (b : Opd) : Bool := !(n == 0#3) || b == .v 0#6

/-- LD: the sign-extending form exists for b8, b16 and b32 only (R393). -/
def signExtendOk (x : Bool) (z : MemSize) : Bool := !x || !(z == .b64 || z == .b128)

/-- BRU: under mode "always" the predicate bits are zero (R169, R358). -/
def bruOk (m : BruMode) (p : BitVec 3) : Bool := !(m == .always) || p == 0#3

/-- PLOG: `.not` and `.mov` have a zero B field (R168, R418). -/
def plogOk (b : BitVec 3) (o : PlogOp) : Bool := !(o == .not || o == .mov) || b == 0#3

/-- XW: PERM 0 requires ARG 0 (R159). -/
def xwOk (x : Xw) : Bool := (!(x.permA == 0#3) || x.argA == 0#3) && (!(x.permB == 0#3) || x.argB == 0#3)

/-- The well-formed instructions. -/
def Instr.wf : Instr → Bool
  | .nop _ => true
  | .trap _ _ => true
  | .eret _ => true
  | .getsr _ _ _ => true
  | .setsr _ _ _ => true
  | .iclk _ _ _ _ => true
  | .icul _ _ _ _ => true
  | .atinv _ _ _ _ => true
  | .atsync _ _ _ => true
  | .mapr _ _ _ _ => true
  | .pkres _ _ _ => true
  | .pkill _ _ _ => true
  | .jmpr _ _ => true
  | .callr _ _ => true
  | .ret _ => true
  | .exit _ => true
  | .join _ => true
  | .wbase _ _ => true
  | .phint _ _ n b => hintRangesOk n b
  | .idem _ _ n b => hintRangesOk n b
  | .qend _ => true
  | .add _ _ _ _ => true
  | .sub _ _ _ _ => true
  | .mul _ _ _ _ => true
  | .mulh _ _ _ _ => true
  | .mulhU _ _ _ _ => true
  | .mad _ _ _ _ => true
  | .and _ _ _ _ => true
  | .or _ _ _ _ => true
  | .xor _ _ _ _ => true
  | .shl _ _ _ _ => true
  | .shr _ _ _ _ => true
  | .sar _ _ _ _ => true
  | .min _ _ _ _ => true
  | .minU _ _ _ _ => true
  | .max _ _ _ _ => true
  | .maxU _ _ _ _ => true
  | .abs _ _ _ => true
  | .clz _ _ _ => true
  | .popc _ _ _ => true
  | .bfe _ _ _ _ => true
  | .bfeU _ _ _ _ => true
  | .bfi _ _ _ _ => true
  | .sel _ _ _ _ => true
  | .div _ _ _ _ => true
  | .divU _ _ _ _ => true
  | .rem _ _ _ _ => true
  | .remU _ _ _ _ => true
  | .addSat _ _ _ _ => true
  | .subSat _ _ _ _ => true
  | .addi _ _ _ _ => true
  | .andi _ _ _ _ => true
  | .ori _ _ _ _ => true
  | .xori _ _ _ _ => true
  | .tsti _ _ _ _ => true
  | .shli _ _ _ _ => true
  | .shri _ _ _ _ => true
  | .sari _ _ _ _ => true
  | .roti _ _ _ _ => true
  | .cmpi _ _ _ _ _ => true
  | .movi _ _ _ => true
  | .fadd _ _ _ _ _ => true
  | .fsub _ _ _ _ _ => true
  | .fmul _ _ _ _ _ => true
  | .fma _ _ _ _ _ => true
  | .fmin _ _ _ _ _ => true
  | .fmax _ _ _ _ _ => true
  | .fdiv _ _ _ _ _ => true
  | .fsqrt _ _ _ _ => true
  | .fexp _ _ _ _ => true
  | .flog _ _ _ _ => true
  | .frcp _ _ _ _ => true
  | .frsq _ _ _ _ => true
  | .fsin _ _ _ _ => true
  | .fcos _ _ _ _ => true
  | .ftanh _ _ _ _ => true
  | .ferf _ _ _ _ => true
  | .cvt _ _ _ _ _ => true
  | .mxq _ _ _ _ => true
  | .mxdq _ _ _ _ => true
  | .terq _ _ _ => true
  | .frnd _ _ _ _ => true
  | .icmp _ _ _ _ _ => true
  | .icmpU _ _ _ _ _ => true
  | .fcmp _ _ _ _ _ => true
  | .plog _ _ _ b o => plogOk b o
  | .red _ _ _ _ => true
  | .redFadd _ _ _ => true
  | .scan _ _ _ _ => true
  | .ballot _ _ _ => true
  | .voteAll _ _ _ => true
  | .voteAny _ _ _ => true
  | .voteUni _ _ _ => true
  | .elect _ _ => true
  | .shfl _ _ _ _ => true
  | .ld _ _ _ _ _ _ x z => signExtendOk x z
  | .ldx _ _ _ _ _ _ => true
  | .pref _ _ _ _ => true
  | .st _ _ _ _ _ _ => true
  | .stx _ _ _ _ _ => true
  | .atom _ _ _ _ _ _ => true
  | .atomn _ _ _ _ _ _ => true
  | .lds _ _ _ _ _ => true
  | .sts _ _ _ _ _ => true
  | .atoms _ _ _ _ _ => true
  | .rld _ _ _ => true
  | .rset _ _ _ _ => true
  | .rget _ _ _ _ => true
  | .rchk _ _ _ _ _ => true
  | .mma _ _ _ _ _ _ _ _ _ => true
  | .mwait _ _ => true
  | .mqry _ _ _ _ => true
  | .maps _ _ _ => true
  | .aclr _ _ => true
  | .ard _ _ _ _ _ => true
  | .awr _ _ _ _ => true
  | .ast _ _ _ _ _ => true
  | .tcopy _ _ => true
  | .ecmd _ _ => true
  | .semwait _ _ _ _ => true
  | .semsig _ _ _ => true
  | .semrd _ _ _ => true
  | .launch _ _ => true
  | .fence _ _ _ => true
  | .bar _ _ _ => true
  | .barc _ _ _ => true
  | .drain _ _ _ => true
  | .odecl _ _ _ => true
  | .orel _ _ _ => true
  | .lock _ _ _ => true
  | .trylk _ _ _ => true
  | .unlock _ _ _ => true
  | .wreg _ _ _ => true
  | .waitv _ _ _ => true
  | .wdone _ => true
  | .wqry _ _ => true
  | .pcls _ _ => true
  | .ebud _ _ _ _ => true
  | .wld _ _ _ _ _ => true
  | .cbset _ _ _ _ _ => true
  | .wschk _ _ _ _ _ => true
  | .rnd _ _ _ => true
  | .chkp _ _ => true
  | .ispoi _ _ _ => true
  | .mkpoi _ _ _ => true
  | .timew _ _ _ => true
  | .br _ _ _ _ => true
  | .bru _ m p _ => bruOk m p
  | .call _ _ => true
  | .xw x => xwOk x
  | .waveResultWriteback _ _ _ => true
  | .storeFifoDrain _ => true
  | .wcbLineWrite _ _ => true
  | .homeAccess _ _ => true
  | .mmaCommandStart _ _ => true
  | .mmaCommandRetire _ _ => true
  | .codebookSlotReady _ _ => true
  | .weightStoreRefresh _ _ => true
  | .tcopyStart _ => true
  | .tcopyUnit _ => true
  | .tcopyComplete _ => true
  | .weightStoreGateAdmit _ => true
  | .launchPortStage _ _ _ => true
  | .launchPortEnqueue _ _ _ => true
  | .kernelTableReplace _ _ _ => true
  | .kernelTableClear _ _ => true
  | .launchDispatch _ => true
  | .workgroupPlace _ => true
  | .waveStart _ => true
  | .launchComplete _ => true
  | .leaseRequest _ => true
  | .leaseRelease _ => true
  | .leaseRecordWrite => true
  | .boostClockRaise => true
  | .leaseNotice => true
  | .leaseEnd => true
  | .allReduce _ => true
  | .reduceScatter _ => true
  | .allGather _ => true
  | .broadcast _ => true
  | .collectiveComplete _ => true
  | .collectiveTimeout _ => true
  | .quantumCommit _ => true
  | .waitConditionMet _ => true
  | .clusterBarrierHeldRelease _ _ => true
  | .lockRetry _ => true
  | .waitvRetest _ => true
  | .priorityInheritanceUpdate => true
  | .deadlockScan => true
  | .shedExemptionReturn _ => true
  | .stpFrame _ => true
  | .telemetryLoss => true
  | .budgetUpdate => true
  | .classRestore => true
  | .forcedShedStart _ => true
  | .shedInstructionLimit _ => true
  | .allowanceEpoch => true
  | .ballastOvercapLimit => true
  | .clkpatWrite _ _ => true
  | .clkpatApply => true
  | .preemptionRequest _ => true
  | .preemptInstructionLimit _ => true
  | .workgroupSave _ => true
  | .workgroupRestore _ => true
  | .atinvDelivery _ _ => true
  | .atinvAcknowledge _ _ => true
  | .timewExpire _ => true
  | .csctlWrite _ _ => true
  | .csctlChangeComplete _ => true
  | .semcfgWrite _ _ _ => true
  | .contextActivate _ _ => true
  | .contextKill _ => true
  | .warmStart _ _ _ => true
  | .coldStart _ _ => true
  | .powerOn _ _ => true
  | .dieDisable _ => true
  | .dieFailure _ => true
  | .uncorrectedError _ => true
  | .correctedError _ => true
  | .contextRecovery _ => true
  | .tadjRate _ => true
  | .tadjStep _ => true
  | .actPreempt => true
  | .actPkres _ => true
  | .actPkill _ => true
  | .actAtinv => true
  | .actAtsync _ => true
  | .actEnergyCredit _ => true
  | .actPoolFrameReturn _ => true
  | .actPoolFrameMarkInUse _ => true
  | .actBreakpoint _ => true
  | .attestationReport _ => true
  | .mgmtRegisterWrite _ _ => true
  | .gctxWrite _ _ => true
  | .hartCoherentAccess _ _ _ _ => true
  | .coherenceProbe _ _ _ _ => true
  | .objectEvictRelease _ _ => true
  | .ethernetReceive _ _ _ => true
  | .ethernetTransmit _ _ => true
  | .remoteAccessIncoming _ _ => true
  | .remoteAccessFailure _ => true
  | .linkFailure _ _ _ _ => true
  | .rackBusUndervoltage => true

/-- The well-formed instructions, as a proposition. -/
abbrev Instr.WellFormed (i : Instr) : Prop := i.wf = true

end Sys2Proof
end

