-- ==== Sys2Proof/Decode.lean ====
section
/-!
DEFINITION. Reading an instruction from its bits, and writing one.

The formats are those of R161 and the map that of R167 to R170. Decoding is total: what is no instruction
is refused with a name, and every such word raises UNDEF when a wave issues it (R170). An encoding that
is an instruction with an illegal operand is decoded, and raises ILLOP in its meaning.
-/

namespace Sys2Proof

/-- Why a word is no instruction (R170, the UNDEF rows). -/
inductive DecErr where
  /-- Major 29 or 30. -/
  | majorReserved
  /-- An FN, SUB, selector, size, type or condition that R167 to R169 do not list. -/
  | selectorReserved
  /-- A field that must be zero is not. -/
  | fieldNotZero
  /-- Bit 31 of an XW word is set. -/
  | xwBit31
  /-- There are not enough bytes. -/
  | truncated
deriving DecidableEq, Repr

/-! ## Field codes -/

/-- The operand that a 7-bit code names (R156). -/
def Opd.ofCode (c : BitVec 7) : Opd :=
  if c.toNat < 0x40 then .v (c.extractLsb' 0 6)
  else if h : c.toNat - 0x40 < 48 then .s ⟨c.toNat - 0x40, h⟩
  else if c.toNat < 0x78 then .g (c.extractLsb' 0 3)
  else if c.toNat = 0x78 then .zero
  else if c.toNat = 0x79 then .laneid
  else if c.toNat = 0x7A then .waveid
  else if c.toNat = 0x7B then .time
  else .bad (c.extractLsb' 0 2)

/-- The 7-bit code of an operand (R156). -/
def Opd.code : Opd → BitVec 7
  | .v i => 0#1 ++ i
  | .s i => BitVec.ofNat 7 (0x40 + i.val)
  | .g i => 0xE#4 ++ i
  | .zero => 0x78#7
  | .laneid => 0x79#7
  | .waveid => 0x7A#7
  | .time => 0x7B#7
  | .bad i => 0x1F#5 ++ i

/-- R168. -/
def ICond.code : ICond → BitVec 3
  | .eq => 0#3
  | .ne => 1#3
  | .lt => 2#3
  | .le => 3#3
  | .gt => 4#3
  | .ge => 5#3

/-- R168; the other codes are not listed there. -/
def ICond.ofCode (c : BitVec 3) : Option ICond :=
  match c.toNat with
  | 0 => some .eq
  | 1 => some .ne
  | 2 => some .lt
  | 3 => some .le
  | 4 => some .gt
  | 5 => some .ge
  | _ => none

/-- R168. -/
def FCond.code : FCond → BitVec 3
  | .eq => 0#3
  | .ne => 1#3
  | .lt => 2#3
  | .le => 3#3
  | .gt => 4#3
  | .ge => 5#3
  | .ord => 6#3
  | .uno => 7#3

/-- R168. -/
def FCond.ofCode (c : BitVec 3) : FCond :=
  match c.toNat with
  | 0 => .eq
  | 1 => .ne
  | 2 => .lt
  | 3 => .le
  | 4 => .gt
  | 5 => .ge
  | 6 => .ord
  | _ => .uno

/-- R168. -/
def PlogOp.code : PlogOp → BitVec 3
  | .and => 0#3
  | .or => 1#3
  | .xor => 2#3
  | .andn => 3#3
  | .orn => 4#3
  | .not => 5#3
  | .mov => 6#3
  | .xnor => 7#3

/-- R168. -/
def PlogOp.ofCode (c : BitVec 3) : PlogOp :=
  match c.toNat with
  | 0 => .and
  | 1 => .or
  | 2 => .xor
  | 3 => .andn
  | 4 => .orn
  | 5 => .not
  | 6 => .mov
  | _ => .xnor

/-- R377. -/
def FType.code : FType → BitVec 2
  | .f32 => 0#2
  | .f16x2 => 1#2
  | .bf16x2 => 2#2

/-- R377; the other codes are not listed there. -/
def FType.ofCode (c : BitVec 2) : Option FType :=
  match c.toNat with
  | 0 => some .f32
  | 1 => some .f16x2
  | 2 => some .bf16x2
  | _ => none

/-- R45. -/
def CvtPair.code : CvtPair → BitVec 5
  | .f16x2F32 => 0#5
  | .bf16x2F32 => 1#5
  | .f32F16 => 2#5
  | .f32Bf16 => 3#5
  | .e4m3x2F32 => 4#5
  | .e5m2x2F32 => 5#5
  | .f32E4m3 => 6#5
  | .f32E5m2 => 7#5
  | .e4m3x4F16x2 => 8#5
  | .e5m2x4F16x2 => 9#5
  | .f16x2E4m3 => 10#5
  | .f16x2E5m2 => 11#5
  | .bf16x2F16x2 => 12#5
  | .f16x2Bf16x2 => 13#5
  | .f32I32 => 14#5
  | .f32I32U => 15#5
  | .i32F32 => 16#5
  | .i32F32U => 17#5
  | .i8x2I32 => 18#5
  | .i16x2I32 => 19#5
  | .l16x2F32 => 20#5
  | .f32L16 => 21#5
  | .l8x4L16x2 => 22#5
  | .l16x2L8 => 23#5

/-- R45; the other codes are not listed there. -/
def CvtPair.ofCode (c : BitVec 5) : Option CvtPair :=
  match c.toNat with
  | 0 => some .f16x2F32
  | 1 => some .bf16x2F32
  | 2 => some .f32F16
  | 3 => some .f32Bf16
  | 4 => some .e4m3x2F32
  | 5 => some .e5m2x2F32
  | 6 => some .f32E4m3
  | 7 => some .f32E5m2
  | 8 => some .e4m3x4F16x2
  | 9 => some .e5m2x4F16x2
  | 10 => some .f16x2E4m3
  | 11 => some .f16x2E5m2
  | 12 => some .bf16x2F16x2
  | 13 => some .f16x2Bf16x2
  | 14 => some .f32I32
  | 15 => some .f32I32U
  | 16 => some .i32F32
  | 17 => some .i32F32U
  | 18 => some .i8x2I32
  | 19 => some .i16x2I32
  | 20 => some .l16x2F32
  | 21 => some .f32L16
  | 22 => some .l8x4L16x2
  | 23 => some .l16x2L8
  | _ => none

/-- R393. -/
def MemSize.code : MemSize → BitVec 3
  | .b8 => 0#3
  | .b16 => 1#3
  | .b32 => 2#3
  | .b64 => 3#3
  | .b128 => 4#3

/-- R393; the other codes are not listed there. -/
def MemSize.ofCode (c : BitVec 3) : Option MemSize :=
  match c.toNat with
  | 0 => some .b8
  | 1 => some .b16
  | 2 => some .b32
  | 3 => some .b64
  | 4 => some .b128
  | _ => none

/-- R101, R161. -/
def OrdCode.code : OrdCode → BitVec 3
  | .plain => 0#3
  | .wg => 1#3
  | .clu => 2#3
  | .chip => 3#3
  | .dev => 4#3
  | .sys => 5#3
  | .nc => 6#3
  | .ord7 => 7#3

/-- R101, R161. -/
def OrdCode.ofCode (c : BitVec 3) : OrdCode :=
  match c.toNat with
  | 0 => .plain
  | 1 => .wg
  | 2 => .clu
  | 3 => .chip
  | 4 => .dev
  | 5 => .sys
  | 6 => .nc
  | _ => .ord7

/-- R345. -/
def AtomOp.code : AtomOp → BitVec 4
  | .add => 0#4
  | .sub => 1#4
  | .min => 2#4
  | .max => 3#4
  | .minu => 4#4
  | .maxu => 5#4
  | .and => 6#4
  | .or => 7#4
  | .xor => 8#4
  | .xchg => 9#4
  | .cas => 10#4
  | .fadd => 11#4

/-- R345; the other codes are not listed there. -/
def AtomOp.ofCode (c : BitVec 4) : Option AtomOp :=
  match c.toNat with
  | 0 => some .add
  | 1 => some .sub
  | 2 => some .min
  | 3 => some .max
  | 4 => some .minu
  | 5 => some .maxu
  | 6 => some .and
  | 7 => some .or
  | 8 => some .xor
  | 9 => some .xchg
  | 10 => some .cas
  | 11 => some .fadd
  | _ => none

/-- R425. -/
def RedOp.code : RedOp → BitVec 3
  | .add => 0#3
  | .min => 1#3
  | .max => 2#3
  | .minu => 3#3
  | .maxu => 4#3
  | .and => 5#3
  | .or => 6#3
  | .xor => 7#3

/-- R425. -/
def RedOp.ofCode (c : BitVec 3) : RedOp :=
  match c.toNat with
  | 0 => .add
  | 1 => .min
  | 2 => .max
  | 3 => .minu
  | 4 => .maxu
  | 5 => .and
  | 6 => .or
  | _ => .xor

/-- R434. -/
def ScanOp.code : ScanOp → BitVec 2
  | .add => 0#2
  | .min => 1#2
  | .max => 2#2
  | .xor => 3#2

/-- R434. -/
def ScanOp.ofCode (c : BitVec 2) : ScanOp :=
  match c.toNat with
  | 0 => .add
  | 1 => .min
  | 2 => .max
  | _ => .xor

/-- R202. -/
def FenceKind.code : FenceKind → BitVec 2
  | .acq => 0#2
  | .rel => 1#2
  | .acqRel => 2#2

/-- R202; the other codes are not listed there. -/
def FenceKind.ofCode (c : BitVec 2) : Option FenceKind :=
  match c.toNat with
  | 0 => some .acq
  | 1 => some .rel
  | 2 => some .acqRel
  | _ => none

/-- R169. -/
def BruMode.code : BruMode → BitVec 2
  | .always => 0#2
  | .any => 1#2
  | .all => 2#2
  | .none => 3#2

/-- R169. -/
def BruMode.ofCode (c : BitVec 2) : BruMode :=
  match c.toNat with
  | 0 => .always
  | 1 => .any
  | 2 => .all
  | _ => .none

/-! ## Fields of a word (R161) -/

def fSw (w : Word32) : Bool := w.getLsbD 31
def fMajor (w : Word32) : BitVec 5 := w.extractLsb' 26 5
def fD (w : Word32) : BitVec 7 := w.extractLsb' 19 7
def fA (w : Word32) : BitVec 7 := w.extractLsb' 12 7
def fB (w : Word32) : BitVec 7 := w.extractLsb' 5 7
def fFn (w : Word32) : BitVec 5 := w.extractLsb' 0 5
/-- The immediate of the I format. -/
def fImm (w : Word32) : BitVec 12 := w.extractLsb' 0 12
/-- COND of the B format. -/
def fCond (w : Word32) : BitVec 5 := w.extractLsb' 21 5
/-- OFF21 of the B format. -/
def fOff (w : Word32) : BitVec 21 := w.extractLsb' 0 21
/-- Everything below the major. -/
def fRest (w : Word32) : BitVec 26 := w.extractLsb' 0 26

/-- A field that must be zero (R158, R170). -/
def mustBeZero {n : Nat} (x : BitVec n) (r : Except DecErr Instr) : Except DecErr Instr :=
  if x = 0#n then r else .error .fieldNotZero

/-- A selector that names one of the listed cases (R167). -/
def listed {α : Type} (x : Option α) (k : α → Except DecErr Instr) : Except DecErr Instr :=
  match x with
  | some a => k a
  | none => .error .selectorReserved

/-! ## The majors (R167) -/

/-- Major 0. -/
def decSys (sw : Bool) (d a b : BitVec 7) (fn : BitVec 5) : Except DecErr Instr :=
  let D := Opd.ofCode d
  let A := Opd.ofCode a
  let B := Opd.ofCode b
  match fn.toNat with
  | 0 => mustBeZero d (mustBeZero a (mustBeZero b (.ok (.nop sw))))
  | 1 => mustBeZero d (mustBeZero a (.ok (.trap sw b)))
  | 2 => mustBeZero d (mustBeZero a (mustBeZero b (.ok (.eret sw))))
  | 3 => mustBeZero b (.ok (.getsr sw D a))
  | 4 => mustBeZero b (.ok (.setsr sw d A))
  | 5 => .ok (.iclk sw D A B)
  | 6 => .ok (.icul sw D A B)
  | 7 => .ok (.atinv sw D A B)
  | 8 => mustBeZero b (.ok (.atsync sw D A))
  | 9 => .ok (.mapr sw D A B)
  | 10 => mustBeZero b (.ok (.pkres sw D A))
  | 11 => mustBeZero b (.ok (.pkill sw D A))
  | _ => .error .selectorReserved

/-- The layout of PHINT and IDEM (R259). -/
def decHint (k : BitVec 8 → BitVec 3 → Opd → Instr) (d a b : BitVec 7) : Except DecErr Instr :=
  let n := a.extractLsb' 3 3
  mustBeZero (a.extractLsb' 0 3)
    (if n = 0#3 ∧ b ≠ 0#7 then .error .fieldNotZero
     else .ok (k (d ++ a.extractLsb' 6 1) n (Opd.ofCode b)))

/-- Major 1. -/
def decCtl (sw : Bool) (d a b : BitVec 7) (fn : BitVec 5) : Except DecErr Instr :=
  let A := Opd.ofCode a
  match fn.toNat with
  | 0 => mustBeZero d (mustBeZero b (.ok (.jmpr sw A)))
  | 1 => mustBeZero d (mustBeZero b (.ok (.callr sw A)))
  | 2 => mustBeZero d (mustBeZero a (mustBeZero b (.ok (.ret sw))))
  | 3 => mustBeZero d (mustBeZero a (mustBeZero b (.ok (.exit sw))))
  | 4 => mustBeZero d (mustBeZero a (mustBeZero b (.ok (.join sw))))
  | 5 => mustBeZero d (mustBeZero (a.extractLsb' 3 4) (mustBeZero b (.ok (.wbase sw (a.extractLsb' 0 3)))))
  | 6 => decHint (.phint sw) d a b
  | 7 => decHint (.idem sw) d a b
  | 8 => mustBeZero d (mustBeZero a (mustBeZero b (.ok (.qend sw))))
  | _ => .error .selectorReserved

/-- Major 2. -/
def decIop (sw : Bool) (d a b : BitVec 7) (fn : BitVec 5) : Except DecErr Instr :=
  let D := Opd.ofCode d
  let A := Opd.ofCode a
  let B := Opd.ofCode b
  match fn.toNat with
  | 0 => .ok (.add sw D A B)
  | 1 => .ok (.sub sw D A B)
  | 2 => .ok (.mul sw D A B)
  | 3 => .ok (.mulh sw D A B)
  | 4 => .ok (.mulhU sw D A B)
  | 5 => .ok (.mad sw D A B)
  | 6 => .ok (.and sw D A B)
  | 7 => .ok (.or sw D A B)
  | 8 => .ok (.xor sw D A B)
  | 9 => .ok (.shl sw D A B)
  | 10 => .ok (.shr sw D A B)
  | 11 => .ok (.sar sw D A B)
  | 12 => .ok (.min sw D A B)
  | 13 => .ok (.minU sw D A B)
  | 14 => .ok (.max sw D A B)
  | 15 => .ok (.maxU sw D A B)
  | 16 => mustBeZero b (.ok (.abs sw D A))
  | 17 => mustBeZero b (.ok (.clz sw D A))
  | 18 => mustBeZero b (.ok (.popc sw D A))
  | 19 => .ok (.bfe sw D A B)
  | 20 => .ok (.bfeU sw D A B)
  | 21 => .ok (.bfi sw D A B)
  | 22 => .ok (.sel sw D A B)
  | 23 => .ok (.div sw D A B)
  | 24 => .ok (.divU sw D A B)
  | 25 => .ok (.rem sw D A B)
  | 26 => .ok (.remU sw D A B)
  | 27 => .ok (.addSat sw D A B)
  | 28 => .ok (.subSat sw D A B)
  | _ => .error .selectorReserved

/-- Majors 3 to 7 (I format). -/
def decImm (major : Nat) (sw : Bool) (d a : BitVec 7) (imm : BitVec 12) : Except DecErr Instr :=
  let D := Opd.ofCode d
  let A := Opd.ofCode a
  let hi := (imm.extractLsb' 10 2).toNat
  let i10 := imm.extractLsb' 0 10
  match major with
  | 3 => .ok (.addi sw D A imm)
  | 4 =>
    match hi with
    | 0 => .ok (.andi sw D A i10)
    | 1 => .ok (.ori sw D A i10)
    | 2 => .ok (.xori sw D A i10)
    | _ => mustBeZero (d.extractLsb' 3 4) (.ok (.tsti sw (d.extractLsb' 0 3) A i10))
  | 5 =>
    let c := imm.extractLsb' 0 6
    mustBeZero (imm.extractLsb' 6 4)
      (match hi with
       | 0 => .ok (.shli sw D A c)
       | 1 => .ok (.shri sw D A c)
       | 2 => .ok (.sari sw D A c)
       | _ => .ok (.roti sw D A c))
  | 6 =>
    mustBeZero (d.extractLsb' 3 4)
      (listed (ICond.ofCode (imm.extractLsb' 9 3))
        fun c => .ok (.cmpi sw (d.extractLsb' 0 3) A c (imm.extractLsb' 0 9)))
  | _ => .ok (.movi sw D (a ++ imm))

/-- Major 8 (R377). -/
def decFop (sw : Bool) (d a b : BitVec 7) (fn : BitVec 5) : Except DecErr Instr :=
  let D := Opd.ofCode d
  let A := Opd.ofCode a
  let B := Opd.ofCode b
  listed (FType.ofCode (fn.extractLsb' 3 2)) fun t =>
    match (fn.extractLsb' 0 3).toNat with
    | 0 => .ok (.fadd sw D A B t)
    | 1 => .ok (.fsub sw D A B t)
    | 2 => .ok (.fmul sw D A B t)
    | 3 => .ok (.fma sw D A B t)
    | 4 => .ok (.fmin sw D A B t)
    | 5 => .ok (.fmax sw D A B t)
    | 6 => .ok (.fdiv sw D A B t)
    | _ => mustBeZero b (.ok (.fsqrt sw D A t))

/-- Major 9 (R381). -/
def decFfn (sw : Bool) (d a b : BitVec 7) (fn : BitVec 5) : Except DecErr Instr :=
  let D := Opd.ofCode d
  let A := Opd.ofCode a
  listed (FType.ofCode (fn.extractLsb' 3 2)) fun t =>
    mustBeZero b
      (match (fn.extractLsb' 0 3).toNat with
       | 0 => .ok (.fexp sw D A t)
       | 1 => .ok (.flog sw D A t)
       | 2 => .ok (.frcp sw D A t)
       | 3 => .ok (.frsq sw D A t)
       | 4 => .ok (.fsin sw D A t)
       | 5 => .ok (.fcos sw D A t)
       | 6 => .ok (.ftanh sw D A t)
       | _ => .ok (.ferf sw D A t))

/-- Major 10 (R41). -/
def decCvt (sw : Bool) (d a b : BitVec 7) (fn : BitVec 5) : Except DecErr Instr :=
  let D := Opd.ofCode d
  let A := Opd.ofCode a
  match fn.toNat with
  | 24 => .ok (.mxq sw D A b)
  | 25 => .ok (.mxdq sw D A b)
  | 26 => mustBeZero b (.ok (.terq sw D A))
  | 27 => .ok (.frnd sw D A b)
  | _ => listed (CvtPair.ofCode fn) fun f => .ok (.cvt sw D A b f)

/-- Major 11 (R168). -/
def decCmp (sw : Bool) (d a b : BitVec 7) (fn : BitVec 5) : Except DecErr Instr :=
  let p := d.extractLsb' 0 3
  let op := fn.extractLsb' 0 3
  mustBeZero (d.extractLsb' 3 4)
    (match (fn.extractLsb' 3 2).toNat with
     | 0 => listed (ICond.ofCode op) fun c => .ok (.icmp sw p (Opd.ofCode a) (Opd.ofCode b) c)
     | 1 => listed (ICond.ofCode op) fun c => .ok (.icmpU sw p (Opd.ofCode a) (Opd.ofCode b) c)
     | 2 => .ok (.fcmp sw p (Opd.ofCode a) (Opd.ofCode b) (FCond.ofCode op))
     | _ =>
       mustBeZero (a.extractLsb' 3 4) (mustBeZero (b.extractLsb' 3 4)
         (if (PlogOp.ofCode op = .not ∨ PlogOp.ofCode op = .mov) ∧ b ≠ 0#7 then .error .fieldNotZero
          else .ok (.plog sw p (a.extractLsb' 0 3) (b.extractLsb' 0 3) (PlogOp.ofCode op)))))

/-- Major 12. -/
def decXln (sw : Bool) (d a b : BitVec 7) (fn : BitVec 5) : Except DecErr Instr :=
  let D := Opd.ofCode d
  let A := Opd.ofCode a
  let p := d.extractLsb' 0 3
  let q := a.extractLsb' 0 3
  let vote (k : Instr) : Except DecErr Instr :=
    mustBeZero (d.extractLsb' 3 4) (mustBeZero (a.extractLsb' 3 4) (mustBeZero b (.ok k)))
  if fn.toNat < 8 then mustBeZero b (.ok (.red sw D A (RedOp.ofCode (fn.extractLsb' 0 3))))
  else if fn.toNat < 12 then mustBeZero b (.ok (.scan sw D A (ScanOp.ofCode (fn.extractLsb' 0 2))))
  else
    match fn.toNat with
    | 12 => mustBeZero (a.extractLsb' 3 4) (mustBeZero b (.ok (.ballot sw D q)))
    | 13 => vote (.voteAll sw p q)
    | 14 => vote (.voteAny sw p q)
    | 15 => vote (.voteUni sw p q)
    | 16 => mustBeZero (d.extractLsb' 3 4) (mustBeZero a (mustBeZero b (.ok (.elect sw p))))
    | 17 => .ok (.shfl sw D A (Opd.ofCode b))
    | 18 => mustBeZero b (.ok (.redFadd sw D A))
    | _ => .error .selectorReserved

/-- Major 13 (R393, R396, R419). -/
def decLd (sw : Bool) (d a : BitVec 7) (r : BitVec 4) (c : OrdCode) (fn : BitVec 5) : Except DecErr Instr :=
  let D := Opd.ofCode d
  let A := Opd.ofCode a
  let spec := fn.getLsbD 4
  let sx := fn.getLsbD 3
  match (fn.extractLsb' 0 3).toNat with
  | 5 => if sx then .error .fieldNotZero else .ok (.ldx sw D A r c spec)
  | 6 => mustBeZero d (if sx || spec then .error .fieldNotZero else .ok (.pref sw A r c))
  | _ =>
    listed (MemSize.ofCode (fn.extractLsb' 0 3)) fun z =>
      if sx ∧ (z = .b64 ∨ z = .b128) then .error .selectorReserved else .ok (.ld sw D A r c spec sx z)

/-- Major 14 (R441). -/
def decSt (sw : Bool) (d a : BitVec 7) (r : BitVec 4) (c : OrdCode) (fn : BitVec 5) : Except DecErr Instr :=
  let D := Opd.ofCode d
  let A := Opd.ofCode a
  mustBeZero (fn.extractLsb' 3 2)
    (match (fn.extractLsb' 0 3).toNat with
     | 5 => .ok (.stx sw D A r c)
     | _ => listed (MemSize.ofCode (fn.extractLsb' 0 3)) fun z => .ok (.st sw D A r c z))

/-- Major 15 (R345). -/
def decAtom (sw : Bool) (d a : BitVec 7) (r : BitVec 4) (c : OrdCode) (fn : BitVec 5) : Except DecErr Instr :=
  let D := Opd.ofCode d
  let A := Opd.ofCode a
  listed (AtomOp.ofCode (fn.extractLsb' 0 4)) fun op =>
    if fn.getLsbD 4 then .ok (.atomn sw D A r c op) else .ok (.atom sw D A r c op)

/-- Major 16 (R395, R444, R348). -/
def decSpm (sw : Bool) (d a : BitVec 7) (r : BitVec 4) (c : OrdCode) (fn : BitVec 5) : Except DecErr Instr :=
  let D := Opd.ofCode d
  let A := Opd.ofCode a
  mustBeZero r
    (if fn.getLsbD 4 then listed (AtomOp.ofCode (fn.extractLsb' 0 4)) fun op => .ok (.atoms sw D A c op)
     else if fn.getLsbD 3 then listed (MemSize.ofCode (fn.extractLsb' 0 3)) fun z => .ok (.sts sw D A c z)
     else listed (MemSize.ofCode (fn.extractLsb' 0 3)) fun z => .ok (.lds sw D A c z))

/-- Major 17 (R421). -/
def decRec (sw : Bool) (d a b : BitVec 7) (fn : BitVec 5) : Except DecErr Instr :=
  match fn.toNat with
  | 0 => mustBeZero (d.extractLsb' 4 3) (mustBeZero b (.ok (.rld sw (d.extractLsb' 0 4) (Opd.ofCode a))))
  | 1 =>
    mustBeZero (d.extractLsb' 4 3) (mustBeZero (a.extractLsb' 2 5)
      (.ok (.rset sw (d.extractLsb' 0 4) (a.extractLsb' 0 2) (Opd.ofCode b))))
  | 2 =>
    mustBeZero (a.extractLsb' 4 3) (mustBeZero (b.extractLsb' 2 5)
      (.ok (.rget sw (Opd.ofCode d) (a.extractLsb' 0 4) (b.extractLsb' 0 2))))
  | 3 =>
    mustBeZero (d.extractLsb' 6 1) (mustBeZero (b.extractLsb' 4 3)
      (listed (MemSize.ofCode (d.extractLsb' 3 3)) fun z =>
        .ok (.rchk sw z (d.extractLsb' 0 3) (Opd.ofCode a) (b.extractLsb' 0 4))))
  | _ => .error .selectorReserved

/-- Major 18 (R68, R401, R405). Only MMA reads the second word `w1`. -/
def decMma (sw : Bool) (w w1 : Word32) : Except DecErr Instr :=
  let cid := w.extractLsb' 20 6
  match (w.extractLsb' 0 8).toNat with
  | 0 =>
    mustBeZero (w1.extractLsb' 0 19)
      (.ok (.mma sw cid (w.extractLsb' 14 6) (w.extractLsb' 8 6) (w1.extractLsb' 29 3) (w1.extractLsb' 26 3)
        (w1.extractLsb' 21 5) (w1.getLsbD 20) (w1.getLsbD 19)))
  | 1 => mustBeZero (w.extractLsb' 8 12) (.ok (.mwait sw cid))
  | 2 => .ok (.mqry sw cid (Opd.ofCode (w.extractLsb' 13 7)) (w.extractLsb' 8 5))
  | 3 =>
    mustBeZero (w.extractLsb' 20 3) (mustBeZero (w.extractLsb' 8 5)
      (.ok (.maps sw (w.extractLsb' 23 3) (Opd.ofCode (w.extractLsb' 13 7)))))
  | _ => .error .selectorReserved

/-- Major 19 (R335). -/
def decAcc (sw : Bool) (d a b : BitVec 7) (fn : BitVec 5) : Except DecErr Instr :=
  match fn.toNat with
  | 0 => mustBeZero (d.extractLsb' 5 2) (mustBeZero a (mustBeZero b (.ok (.aclr sw (d.extractLsb' 0 5)))))
  | 1 =>
    mustBeZero (a.extractLsb' 5 2) (mustBeZero (b.extractLsb' 6 1)
      (.ok (.ard sw (Opd.ofCode d) (a.extractLsb' 0 5) (b.getLsbD 5) (b.extractLsb' 0 5))))
  | 2 =>
    mustBeZero (d.extractLsb' 5 2) (mustBeZero (b.extractLsb' 5 2)
      (.ok (.awr sw (d.extractLsb' 0 5) (Opd.ofCode a) (b.extractLsb' 0 5))))
  | 3 =>
    mustBeZero (d.extractLsb' 6 1) (mustBeZero (b.extractLsb' 4 3)
      (.ok (.ast sw (d.getLsbD 5) (d.extractLsb' 0 5) (Opd.ofCode a) (b.extractLsb' 0 4))))
  | _ => .error .selectorReserved

/-- Major 20 (R372, R436). -/
def decEng (sw : Bool) (d a b : BitVec 7) (fn : BitVec 5) : Except DecErr Instr :=
  let D := Opd.ofCode d
  let A := Opd.ofCode a
  let B := Opd.ofCode b
  match fn.toNat with
  | 0 => mustBeZero d (mustBeZero b (.ok (.tcopy sw A)))
  | 1 => mustBeZero d (mustBeZero b (.ok (.ecmd sw A)))
  | 2 => .ok (.semwait sw D A B)
  | 3 => mustBeZero d (.ok (.semsig sw A B))
  | 4 => mustBeZero b (.ok (.semrd sw D A))
  | 5 => mustBeZero d (mustBeZero b (.ok (.launch sw A)))
  | _ => .error .selectorReserved

/-- Major 21 (R202, R352, R412). -/
def decSync (sw : Bool) (d a b : BitVec 7) (fn : BitVec 5) : Except DecErr Instr :=
  let bar (k : Bool → Opd → BitVec 4 → Instr) : Except DecErr Instr :=
    mustBeZero (a.extractLsb' 4 3) (mustBeZero b (.ok (k sw (Opd.ofCode d) (a.extractLsb' 0 4))))
  match FenceKind.ofCode (fn.extractLsb' 3 2) with
  | some k => mustBeZero d (mustBeZero a (mustBeZero b (.ok (.fence sw k (fn.extractLsb' 0 3)))))
  | none =>
    match (fn.extractLsb' 0 3).toNat with
    | 0 => bar .bar
    | 1 => bar .barc
    | 2 => bar .drain
    | 3 => mustBeZero b (.ok (.odecl sw (Opd.ofCode d) (Opd.ofCode a)))
    | 4 => mustBeZero b (.ok (.orel sw (Opd.ofCode d) (Opd.ofCode a)))
    | _ => .error .selectorReserved

/-- Major 22 (R397, R453). -/
def decWait (sw : Bool) (d a b : BitVec 7) (fn : BitVec 5) : Except DecErr Instr :=
  let D := Opd.ofCode d
  let A := Opd.ofCode a
  match fn.toNat with
  | 0 => mustBeZero b (.ok (.lock sw D A))
  | 1 => mustBeZero b (.ok (.trylk sw D A))
  | 2 => mustBeZero b (.ok (.unlock sw D A))
  | 3 => mustBeZero d (.ok (.wreg sw A (Opd.ofCode b)))
  | 4 => mustBeZero b (.ok (.waitv sw D A))
  | 5 => mustBeZero d (mustBeZero a (mustBeZero b (.ok (.wdone sw))))
  | 6 => mustBeZero a (mustBeZero b (.ok (.wqry sw D)))
  | _ => .error .selectorReserved

/-- Major 23 (R311). -/
def decPwr (sw : Bool) (d a b : BitVec 7) (fn : BitVec 5) : Except DecErr Instr :=
  match fn.toNat with
  | 0 => mustBeZero d (mustBeZero b (.ok (.pcls sw (Opd.ofCode a))))
  | 1 => .ok (.ebud sw (Opd.ofCode d) (Opd.ofCode a) (Opd.ofCode b))
  | _ => .error .selectorReserved

/-- Major 24 (R96). -/
def decWld (sw : Bool) (d a : BitVec 7) (r : BitVec 4) (ord : BitVec 3) (fn : BitVec 5) : Except DecErr Instr :=
  match fn.toNat with
  | 0 => .ok (.wld sw (Opd.ofCode d) (Opd.ofCode a) r ord)
  | 1 => .ok (.cbset sw (Opd.ofCode d) (Opd.ofCode a) r ord)
  | 2 => mustBeZero (d.extractLsb' 3 4) (.ok (.wschk sw (d.extractLsb' 0 3) (Opd.ofCode a) r ord))
  | _ => .error .selectorReserved

/-- Major 25 (R248, R430, R448). -/
def decMisc (sw : Bool) (d a b : BitVec 7) (fn : BitVec 5) : Except DecErr Instr :=
  let D := Opd.ofCode d
  let A := Opd.ofCode a
  mustBeZero b
    (match fn.toNat with
     | 0 => .ok (.rnd sw D A)
     | 1 => mustBeZero d (.ok (.chkp sw A))
     | 2 => mustBeZero (d.extractLsb' 3 4) (.ok (.ispoi sw (d.extractLsb' 0 3) A))
     | 3 => .ok (.mkpoi sw D A)
     | 4 => .ok (.timew sw D A)
     | _ => .error .selectorReserved)

/-- Majors 26 to 28 (R169). -/
def decBranch (major : Nat) (sw : Bool) (cond : BitVec 5) (off : BitVec 21) : Except DecErr Instr :=
  match major with
  | 26 => mustBeZero (cond.extractLsb' 0 1) (.ok (.br sw (cond.getLsbD 4) (cond.extractLsb' 1 3) off))
  | 27 =>
    let m := BruMode.ofCode (cond.extractLsb' 3 2)
    let p := cond.extractLsb' 0 3
    if m = .always ∧ p ≠ 0#3 then .error .fieldNotZero else .ok (.bru sw m p off)
  | _ => mustBeZero cond (.ok (.call sw off))

/-- Major 31 (R459). -/
def decXw (sw : Bool) (w : Word32) : Except DecErr Instr :=
  let x : Xw :=
    ⟨w.extractLsb' 23 3, w.extractLsb' 20 3, w.extractLsb' 17 3, w.extractLsb' 14 3, w.extractLsb' 11 3,
     w.getLsbD 10, w.extractLsb' 0 10⟩
  if sw then .error .xwBit31
  else if (x.permA = 0#3 ∧ x.argA ≠ 0#3) ∨ (x.permB = 0#3 ∧ x.argB ≠ 0#3) then .error .fieldNotZero
  else .ok (.xw x)

/-- The instruction that starts with the word `w`, with `w1` the word after it, which only MMA reads
(R160, R167). -/
def decodeWords (w w1 : Word32) : Except DecErr Instr :=
  let sw := fSw w
  let d := fD w
  let a := fA w
  let b := fB w
  let fn := fFn w
  let r := w.extractLsb' 8 4
  let ord := w.extractLsb' 5 3
  match (fMajor w).toNat with
  | 0 => decSys sw d a b fn
  | 1 => decCtl sw d a b fn
  | 2 => decIop sw d a b fn
  | 3 => decImm 3 sw d a (fImm w)
  | 4 => decImm 4 sw d a (fImm w)
  | 5 => decImm 5 sw d a (fImm w)
  | 6 => decImm 6 sw d a (fImm w)
  | 7 => decImm 7 sw d a (fImm w)
  | 8 => decFop sw d a b fn
  | 9 => decFfn sw d a b fn
  | 10 => decCvt sw d a b fn
  | 11 => decCmp sw d a b fn
  | 12 => decXln sw d a b fn
  | 13 => decLd sw d a r (OrdCode.ofCode ord) fn
  | 14 => decSt sw d a r (OrdCode.ofCode ord) fn
  | 15 => decAtom sw d a r (OrdCode.ofCode ord) fn
  | 16 => decSpm sw d a r (OrdCode.ofCode ord) fn
  | 17 => decRec sw d a b fn
  | 18 => decMma sw w w1
  | 19 => decAcc sw d a b fn
  | 20 => decEng sw d a b fn
  | 21 => decSync sw d a b fn
  | 22 => decWait sw d a b fn
  | 23 => decPwr sw d a b fn
  | 24 => decWld sw d a r ord fn
  | 25 => decMisc sw d a b fn
  | 26 => decBranch 26 sw (fCond w) (fOff w)
  | 27 => decBranch 27 sw (fCond w) (fOff w)
  | 28 => decBranch 28 sw (fCond w) (fOff w)
  | 31 => decXw sw w
  | _ => .error .majorReserved

/-- Whether the word `w` is the first of an MC instruction of two words (R160, R161). -/
def hasSecondWord (w : Word32) : Bool := (fMajor w).toNat == 18 && (w.extractLsb' 0 8).toNat == 0

/-- A word from four bytes, the first at the lowest address (R5). -/
def word32OfBytes (b0 b1 b2 b3 : Byte) : Word32 := b3 ++ b2 ++ b1 ++ b0

/-- The four bytes of a word, the lowest address first (R5). -/
def bytesOfWord32 (w : Word32) : List Byte :=
  [w.extractLsb' 0 8, w.extractLsb' 8 8, w.extractLsb' 16 8, w.extractLsb' 24 8]

/-- The instruction at the head of a list of bytes, and the bytes after it. -/
def decodeBytes : List Byte → Except DecErr (Instr × List Byte)
  | b0 :: b1 :: b2 :: b3 :: rest =>
    let w := word32OfBytes b0 b1 b2 b3
    if hasSecondWord w then
      match rest with
      | c0 :: c1 :: c2 :: c3 :: rest' =>
        match decodeWords w (word32OfBytes c0 c1 c2 c3) with
        | .ok i => .ok (i, rest')
        | .error e => .error e
      | _ => .error .truncated
    else
      match decodeWords w 0#32 with
      | .ok i => .ok (i, rest)
      | .error e => .error e
  | _ => .error .truncated

/-- `n` bytes of a number, the lowest first. -/
def leBytes : Nat → Nat → List Byte
  | 0, _ => []
  | n + 1, w => BitVec.ofNat 8 w :: leBytes n (w / 256)

/-- The instruction whose bits, numbered as the opcode table numbers them, are `w`: bit 0 is bit 0 of the
first word, and the second word's bits count on from bit 32. The words lie in memory as R5 lays them
down; bits above `nbits` are zero. -/
def decodeTableWord (nbits w : Nat) : Option Instr :=
  match decodeBytes (leBytes 8 (w % 2 ^ nbits)) with
  | .ok (i, _) => some i
  | .error _ => none

/-! ## Writing an instruction -/

/-- A word of the R format (R161). -/
def rWord (sw : Bool) (major : BitVec 5) (d a b : BitVec 7) (fn : BitVec 5) : Word32 :=
  BitVec.ofBool sw ++ major ++ d ++ a ++ b ++ fn

/-- A word of the I format (R161). -/
def iWord (sw : Bool) (major : BitVec 5) (d a : BitVec 7) (imm : BitVec 12) : Word32 :=
  BitVec.ofBool sw ++ major ++ d ++ a ++ imm

/-- A word of the B format (R161). -/
def bWord (sw : Bool) (major cond : BitVec 5) (off : BitVec 21) : Word32 :=
  BitVec.ofBool sw ++ major ++ cond ++ off

/-- A word of the M format (R161). -/
def mWord (sw : Bool) (major : BitVec 5) (data offset : BitVec 7) (r : BitVec 4) (ord : BitVec 3)
    (fn : BitVec 5) : Word32 :=
  BitVec.ofBool sw ++ major ++ data ++ offset ++ r ++ ord ++ fn

/-- A first word of major 18 (R68, R401, R405). -/
def mcWord (sw : Bool) (cid : BitVec 6) (mid : BitVec 12) (sub : BitVec 8) : Word32 :=
  BitVec.ofBool sw ++ 18#5 ++ cid ++ mid ++ sub

/-- The second word of MMA (R68). -/
def mcWord1 (mapa mapb : BitVec 3) (acc : BitVec 5) (z na : Bool) : Word32 :=
  mapa ++ mapb ++ acc ++ BitVec.ofBool z ++ BitVec.ofBool na ++ 0#19

/-- An XW word (R161). -/
def xwWord (x : Xw) : Word32 :=
  0#1 ++ 31#5 ++ x.permA ++ x.argA ++ x.permB ++ x.argB ++ x.pred ++ BitVec.ofBool x.pneg ++ x.immhi

/-- The words of an encoded instruction: the first, and the second for MMA. An instruction of the second
part of `Instr` has none. -/
def encode : Instr → Option (Word32 × Option Word32)
  | .nop sw => some (rWord sw 0#5 0#7 0#7 0#7 0#5, none)
  | .trap sw c => some (rWord sw 0#5 0#7 0#7 c 1#5, none)
  | .eret sw => some (rWord sw 0#5 0#7 0#7 0#7 2#5, none)
  | .getsr sw d i => some (rWord sw 0#5 d.code i 0#7 3#5, none)
  | .setsr sw i a => some (rWord sw 0#5 i a.code 0#7 4#5, none)
  | .iclk sw d a b => some (rWord sw 0#5 d.code a.code b.code 5#5, none)
  | .icul sw d a b => some (rWord sw 0#5 d.code a.code b.code 6#5, none)
  | .atinv sw d a b => some (rWord sw 0#5 d.code a.code b.code 7#5, none)
  | .atsync sw d a => some (rWord sw 0#5 d.code a.code 0#7 8#5, none)
  | .mapr sw d a b => some (rWord sw 0#5 d.code a.code b.code 9#5, none)
  | .pkres sw d a => some (rWord sw 0#5 d.code a.code 0#7 10#5, none)
  | .pkill sw d a => some (rWord sw 0#5 d.code a.code 0#7 11#5, none)
  | .jmpr sw a => some (rWord sw 1#5 0#7 a.code 0#7 0#5, none)
  | .callr sw a => some (rWord sw 1#5 0#7 a.code 0#7 1#5, none)
  | .ret sw => some (rWord sw 1#5 0#7 0#7 0#7 2#5, none)
  | .exit sw => some (rWord sw 1#5 0#7 0#7 0#7 3#5, none)
  | .join sw => some (rWord sw 1#5 0#7 0#7 0#7 4#5, none)
  | .wbase sw n => some (rWord sw 1#5 0#7 (0#4 ++ n) 0#7 5#5, none)
  | .phint sw l n b => some (rWord sw 1#5 (l.extractLsb' 1 7) (l.extractLsb' 0 1 ++ n ++ 0#3) b.code 6#5, none)
  | .idem sw l n b => some (rWord sw 1#5 (l.extractLsb' 1 7) (l.extractLsb' 0 1 ++ n ++ 0#3) b.code 7#5, none)
  | .qend sw => some (rWord sw 1#5 0#7 0#7 0#7 8#5, none)
  | .add sw d a b => some (rWord sw 2#5 d.code a.code b.code 0#5, none)
  | .sub sw d a b => some (rWord sw 2#5 d.code a.code b.code 1#5, none)
  | .mul sw d a b => some (rWord sw 2#5 d.code a.code b.code 2#5, none)
  | .mulh sw d a b => some (rWord sw 2#5 d.code a.code b.code 3#5, none)
  | .mulhU sw d a b => some (rWord sw 2#5 d.code a.code b.code 4#5, none)
  | .mad sw d a b => some (rWord sw 2#5 d.code a.code b.code 5#5, none)
  | .and sw d a b => some (rWord sw 2#5 d.code a.code b.code 6#5, none)
  | .or sw d a b => some (rWord sw 2#5 d.code a.code b.code 7#5, none)
  | .xor sw d a b => some (rWord sw 2#5 d.code a.code b.code 8#5, none)
  | .shl sw d a b => some (rWord sw 2#5 d.code a.code b.code 9#5, none)
  | .shr sw d a b => some (rWord sw 2#5 d.code a.code b.code 10#5, none)
  | .sar sw d a b => some (rWord sw 2#5 d.code a.code b.code 11#5, none)
  | .min sw d a b => some (rWord sw 2#5 d.code a.code b.code 12#5, none)
  | .minU sw d a b => some (rWord sw 2#5 d.code a.code b.code 13#5, none)
  | .max sw d a b => some (rWord sw 2#5 d.code a.code b.code 14#5, none)
  | .maxU sw d a b => some (rWord sw 2#5 d.code a.code b.code 15#5, none)
  | .abs sw d a => some (rWord sw 2#5 d.code a.code 0#7 16#5, none)
  | .clz sw d a => some (rWord sw 2#5 d.code a.code 0#7 17#5, none)
  | .popc sw d a => some (rWord sw 2#5 d.code a.code 0#7 18#5, none)
  | .bfe sw d a b => some (rWord sw 2#5 d.code a.code b.code 19#5, none)
  | .bfeU sw d a b => some (rWord sw 2#5 d.code a.code b.code 20#5, none)
  | .bfi sw d a b => some (rWord sw 2#5 d.code a.code b.code 21#5, none)
  | .sel sw d a b => some (rWord sw 2#5 d.code a.code b.code 22#5, none)
  | .div sw d a b => some (rWord sw 2#5 d.code a.code b.code 23#5, none)
  | .divU sw d a b => some (rWord sw 2#5 d.code a.code b.code 24#5, none)
  | .rem sw d a b => some (rWord sw 2#5 d.code a.code b.code 25#5, none)
  | .remU sw d a b => some (rWord sw 2#5 d.code a.code b.code 26#5, none)
  | .addSat sw d a b => some (rWord sw 2#5 d.code a.code b.code 27#5, none)
  | .subSat sw d a b => some (rWord sw 2#5 d.code a.code b.code 28#5, none)
  | .addi sw d a i => some (iWord sw 3#5 d.code a.code i, none)
  | .andi sw d a i => some (iWord sw 4#5 d.code a.code (0#2 ++ i), none)
  | .ori sw d a i => some (iWord sw 4#5 d.code a.code (1#2 ++ i), none)
  | .xori sw d a i => some (iWord sw 4#5 d.code a.code (2#2 ++ i), none)
  | .tsti sw p a i => some (iWord sw 4#5 (0#4 ++ p) a.code (3#2 ++ i), none)
  | .shli sw d a c => some (iWord sw 5#5 d.code a.code (0#2 ++ 0#4 ++ c), none)
  | .shri sw d a c => some (iWord sw 5#5 d.code a.code (1#2 ++ 0#4 ++ c), none)
  | .sari sw d a c => some (iWord sw 5#5 d.code a.code (2#2 ++ 0#4 ++ c), none)
  | .roti sw d a c => some (iWord sw 5#5 d.code a.code (3#2 ++ 0#4 ++ c), none)
  | .cmpi sw p a c i => some (iWord sw 6#5 (0#4 ++ p) a.code (c.code ++ i), none)
  | .movi sw d i => some (iWord sw 7#5 d.code (i.extractLsb' 12 7) (i.extractLsb' 0 12), none)
  | .fadd sw d a b t => some (rWord sw 8#5 d.code a.code b.code (t.code ++ 0#3), none)
  | .fsub sw d a b t => some (rWord sw 8#5 d.code a.code b.code (t.code ++ 1#3), none)
  | .fmul sw d a b t => some (rWord sw 8#5 d.code a.code b.code (t.code ++ 2#3), none)
  | .fma sw d a b t => some (rWord sw 8#5 d.code a.code b.code (t.code ++ 3#3), none)
  | .fmin sw d a b t => some (rWord sw 8#5 d.code a.code b.code (t.code ++ 4#3), none)
  | .fmax sw d a b t => some (rWord sw 8#5 d.code a.code b.code (t.code ++ 5#3), none)
  | .fdiv sw d a b t => some (rWord sw 8#5 d.code a.code b.code (t.code ++ 6#3), none)
  | .fsqrt sw d a t => some (rWord sw 8#5 d.code a.code 0#7 (t.code ++ 7#3), none)
  | .fexp sw d a t => some (rWord sw 9#5 d.code a.code 0#7 (t.code ++ 0#3), none)
  | .flog sw d a t => some (rWord sw 9#5 d.code a.code 0#7 (t.code ++ 1#3), none)
  | .frcp sw d a t => some (rWord sw 9#5 d.code a.code 0#7 (t.code ++ 2#3), none)
  | .frsq sw d a t => some (rWord sw 9#5 d.code a.code 0#7 (t.code ++ 3#3), none)
  | .fsin sw d a t => some (rWord sw 9#5 d.code a.code 0#7 (t.code ++ 4#3), none)
  | .fcos sw d a t => some (rWord sw 9#5 d.code a.code 0#7 (t.code ++ 5#3), none)
  | .ftanh sw d a t => some (rWord sw 9#5 d.code a.code 0#7 (t.code ++ 6#3), none)
  | .ferf sw d a t => some (rWord sw 9#5 d.code a.code 0#7 (t.code ++ 7#3), none)
  | .cvt sw d a b f => some (rWord sw 10#5 d.code a.code b f.code, none)
  | .mxq sw d a b => some (rWord sw 10#5 d.code a.code b 24#5, none)
  | .mxdq sw d a b => some (rWord sw 10#5 d.code a.code b 25#5, none)
  | .terq sw d a => some (rWord sw 10#5 d.code a.code 0#7 26#5, none)
  | .frnd sw d a b => some (rWord sw 10#5 d.code a.code b 27#5, none)
  | .icmp sw p a b c => some (rWord sw 11#5 (0#4 ++ p) a.code b.code (0#2 ++ c.code), none)
  | .icmpU sw p a b c => some (rWord sw 11#5 (0#4 ++ p) a.code b.code (1#2 ++ c.code), none)
  | .fcmp sw p a b c => some (rWord sw 11#5 (0#4 ++ p) a.code b.code (2#2 ++ c.code), none)
  | .plog sw d a b o => some (rWord sw 11#5 (0#4 ++ d) (0#4 ++ a) (0#4 ++ b) (3#2 ++ o.code), none)
  | .red sw d a o => some (rWord sw 12#5 d.code a.code 0#7 (0#2 ++ o.code), none)
  | .redFadd sw d a => some (rWord sw 12#5 d.code a.code 0#7 18#5, none)
  | .scan sw d a o => some (rWord sw 12#5 d.code a.code 0#7 (2#3 ++ o.code), none)
  | .ballot sw d p => some (rWord sw 12#5 d.code (0#4 ++ p) 0#7 12#5, none)
  | .voteAll sw d a => some (rWord sw 12#5 (0#4 ++ d) (0#4 ++ a) 0#7 13#5, none)
  | .voteAny sw d a => some (rWord sw 12#5 (0#4 ++ d) (0#4 ++ a) 0#7 14#5, none)
  | .voteUni sw d a => some (rWord sw 12#5 (0#4 ++ d) (0#4 ++ a) 0#7 15#5, none)
  | .elect sw p => some (rWord sw 12#5 (0#4 ++ p) 0#7 0#7 16#5, none)
  | .shfl sw d a b => some (rWord sw 12#5 d.code a.code b.code 17#5, none)
  | .ld sw d o r c e x z => some (mWord sw 13#5 d.code o.code r c.code (BitVec.ofBool e ++ BitVec.ofBool x ++ z.code), none)
  | .ldx sw d o r c e => some (mWord sw 13#5 d.code o.code r c.code (BitVec.ofBool e ++ 5#4), none)
  | .pref sw o r c => some (mWord sw 13#5 0#7 o.code r c.code 6#5, none)
  | .st sw d o r c z => some (mWord sw 14#5 d.code o.code r c.code (0#2 ++ z.code), none)
  | .stx sw d o r c => some (mWord sw 14#5 d.code o.code r c.code 5#5, none)
  | .atom sw d o r c p => some (mWord sw 15#5 d.code o.code r c.code (0#1 ++ p.code), none)
  | .atomn sw d o r c p => some (mWord sw 15#5 d.code o.code r c.code (1#1 ++ p.code), none)
  | .lds sw d o c z => some (mWord sw 16#5 d.code o.code 0#4 c.code (0#2 ++ z.code), none)
  | .sts sw d o c z => some (mWord sw 16#5 d.code o.code 0#4 c.code (1#2 ++ z.code), none)
  | .atoms sw d o c p => some (mWord sw 16#5 d.code o.code 0#4 c.code (1#1 ++ p.code), none)
  | .rld sw b a => some (rWord sw 17#5 (0#3 ++ b) a.code 0#7 0#5, none)
  | .rset sw r q b => some (rWord sw 17#5 (0#3 ++ r) (0#5 ++ q) b.code 1#5, none)
  | .rget sw d r q => some (rWord sw 17#5 d.code (0#3 ++ r) (0#5 ++ q) 2#5, none)
  | .rchk sw z p a r => some (rWord sw 17#5 (0#1 ++ z.code ++ p) a.code (0#3 ++ r) 3#5, none)
  | .mma sw cid pred1 pred2 mapa mapb acc z na => some (mcWord sw cid (pred1 ++ pred2) 0#8, some (mcWord1 mapa mapb acc z na))
  | .mwait sw c => some (mcWord sw c 0#12 1#8, none)
  | .mqry sw c d t => some (mcWord sw c (d.code ++ t) 2#8, none)
  | .maps sw m a => some (mcWord sw (m ++ 0#3) (a.code ++ 0#5) 3#8, none)
  | .aclr sw t => some (rWord sw 19#5 (0#2 ++ t) 0#7 0#7 0#5, none)
  | .ard sw d t x r => some (rWord sw 19#5 d.code (0#2 ++ t) (0#1 ++ BitVec.ofBool x ++ r) 1#5, none)
  | .awr sw t a r => some (rWord sw 19#5 (0#2 ++ t) a.code (0#2 ++ r) 2#5, none)
  | .ast sw x t o b => some (rWord sw 19#5 (0#1 ++ BitVec.ofBool x ++ t) o.code (0#3 ++ b) 3#5, none)
  | .tcopy sw a => some (rWord sw 20#5 0#7 a.code 0#7 0#5, none)
  | .ecmd sw a => some (rWord sw 20#5 0#7 a.code 0#7 1#5, none)
  | .semwait sw d a b => some (rWord sw 20#5 d.code a.code b.code 2#5, none)
  | .semsig sw a b => some (rWord sw 20#5 0#7 a.code b.code 3#5, none)
  | .semrd sw d a => some (rWord sw 20#5 d.code a.code 0#7 4#5, none)
  | .launch sw a => some (rWord sw 20#5 0#7 a.code 0#7 5#5, none)
  | .fence sw k scope => some (rWord sw 21#5 0#7 0#7 0#7 (k.code ++ scope), none)
  | .bar sw d n => some (rWord sw 21#5 d.code (0#3 ++ n) 0#7 24#5, none)
  | .barc sw d n => some (rWord sw 21#5 d.code (0#3 ++ n) 0#7 25#5, none)
  | .drain sw d n => some (rWord sw 21#5 d.code (0#3 ++ n) 0#7 26#5, none)
  | .odecl sw d a => some (rWord sw 21#5 d.code a.code 0#7 27#5, none)
  | .orel sw d a => some (rWord sw 21#5 d.code a.code 0#7 28#5, none)
  | .lock sw d a => some (rWord sw 22#5 d.code a.code 0#7 0#5, none)
  | .trylk sw d a => some (rWord sw 22#5 d.code a.code 0#7 1#5, none)
  | .unlock sw d a => some (rWord sw 22#5 d.code a.code 0#7 2#5, none)
  | .wreg sw a b => some (rWord sw 22#5 0#7 a.code b.code 3#5, none)
  | .waitv sw d a => some (rWord sw 22#5 d.code a.code 0#7 4#5, none)
  | .wdone sw => some (rWord sw 22#5 0#7 0#7 0#7 5#5, none)
  | .wqry sw d => some (rWord sw 22#5 d.code 0#7 0#7 6#5, none)
  | .pcls sw a => some (rWord sw 23#5 0#7 a.code 0#7 0#5, none)
  | .ebud sw d a b => some (rWord sw 23#5 d.code a.code b.code 1#5, none)
  | .wld sw d a c ord => some (mWord sw 24#5 d.code a.code c ord 0#5, none)
  | .cbset sw c o r n => some (mWord sw 24#5 c.code o.code r n 1#5, none)
  | .wschk sw p a n ord => some (mWord sw 24#5 (0#4 ++ p) a.code n ord 2#5, none)
  | .rnd sw d a => some (rWord sw 25#5 d.code a.code 0#7 0#5, none)
  | .chkp sw a => some (rWord sw 25#5 0#7 a.code 0#7 1#5, none)
  | .ispoi sw p a => some (rWord sw 25#5 (0#4 ++ p) a.code 0#7 2#5, none)
  | .mkpoi sw d a => some (rWord sw 25#5 d.code a.code 0#7 3#5, none)
  | .timew sw d a => some (rWord sw 25#5 d.code a.code 0#7 4#5, none)
  | .br sw neg p o => some (bWord sw 26#5 (BitVec.ofBool neg ++ p ++ 0#1) o, none)
  | .bru sw m p o => some (bWord sw 27#5 (m.code ++ p) o, none)
  | .call sw o => some (bWord sw 28#5 0#5 o, none)
  | .xw x => some (xwWord x, none)
  | .waveResultWriteback _ _ _ => none
  | .storeFifoDrain _ => none
  | .wcbLineWrite _ _ => none
  | .homeAccess _ _ => none
  | .mmaCommandStart _ _ => none
  | .mmaCommandRetire _ _ => none
  | .codebookSlotReady _ _ => none
  | .weightStoreRefresh _ _ => none
  | .tcopyStart _ => none
  | .tcopyUnit _ => none
  | .tcopyComplete _ => none
  | .weightStoreGateAdmit _ => none
  | .launchPortStage _ _ _ => none
  | .launchPortEnqueue _ _ _ => none
  | .kernelTableReplace _ _ _ => none
  | .kernelTableClear _ _ => none
  | .launchDispatch _ => none
  | .workgroupPlace _ => none
  | .waveStart _ => none
  | .launchComplete _ => none
  | .leaseRequest _ => none
  | .leaseRelease _ => none
  | .leaseRecordWrite => none
  | .boostClockRaise => none
  | .leaseNotice => none
  | .leaseEnd => none
  | .allReduce _ => none
  | .reduceScatter _ => none
  | .allGather _ => none
  | .broadcast _ => none
  | .collectiveComplete _ => none
  | .collectiveTimeout _ => none
  | .quantumCommit _ => none
  | .waitConditionMet _ => none
  | .clusterBarrierHeldRelease _ _ => none
  | .lockRetry _ => none
  | .waitvRetest _ => none
  | .priorityInheritanceUpdate => none
  | .deadlockScan => none
  | .shedExemptionReturn _ => none
  | .stpFrame _ => none
  | .telemetryLoss => none
  | .budgetUpdate => none
  | .classRestore => none
  | .forcedShedStart _ => none
  | .shedInstructionLimit _ => none
  | .allowanceEpoch => none
  | .ballastOvercapLimit => none
  | .clkpatWrite _ _ => none
  | .clkpatApply => none
  | .preemptionRequest _ => none
  | .preemptInstructionLimit _ => none
  | .workgroupSave _ => none
  | .workgroupRestore _ => none
  | .atinvDelivery _ _ => none
  | .atinvAcknowledge _ _ => none
  | .timewExpire _ => none
  | .csctlWrite _ _ => none
  | .csctlChangeComplete _ => none
  | .semcfgWrite _ _ _ => none
  | .contextActivate _ _ => none
  | .contextKill _ => none
  | .warmStart _ _ _ => none
  | .coldStart _ _ => none
  | .powerOn _ _ => none
  | .dieDisable _ => none
  | .dieFailure _ => none
  | .uncorrectedError _ => none
  | .correctedError _ => none
  | .contextRecovery _ => none
  | .tadjRate _ => none
  | .tadjStep _ => none
  | .actPreempt => none
  | .actPkres _ => none
  | .actPkill _ => none
  | .actAtinv => none
  | .actAtsync _ => none
  | .actEnergyCredit _ => none
  | .actPoolFrameReturn _ => none
  | .actPoolFrameMarkInUse _ => none
  | .actBreakpoint _ => none
  | .attestationReport _ => none
  | .mgmtRegisterWrite _ _ => none
  | .gctxWrite _ _ => none
  | .hartCoherentAccess _ _ _ _ => none
  | .coherenceProbe _ _ _ _ => none
  | .objectEvictRelease _ _ => none
  | .ethernetReceive _ _ _ => none
  | .ethernetTransmit _ _ => none
  | .remoteAccessIncoming _ _ => none
  | .remoteAccessFailure _ => none
  | .linkFailure _ _ _ _ => none
  | .rackBusUndervoltage => none

end Sys2Proof
end

