-- ==== Sys2Proof/Machine/Value.lean ====
section
/-!
DEFINITION. Register values with their hidden poison bits (R148, R243).
-/

namespace Sys2Proof.Machine

/-- A 32-bit value with a P bit: a lane of a vector register, a scratchpad word, a tile element. With P set
the bits are a token. -/
structure LaneVal where
  bits : BitVec 32
  p : Bool
deriving DecidableEq, Repr

def LaneVal.zero : LaneVal := ⟨0#32, false⟩

/-- A scalar or workgroup register: 64 bits and P (R148). -/
structure ScalVal where
  bits : BitVec 64
  p : Bool
deriving DecidableEq, Repr

def ScalVal.zero : ScalVal := ⟨0#64, false⟩

/-- A predicate register: one value bit and one P bit for each of 64 lanes (R148, R332). -/
structure PredVal where
  val : BitVec 64
  poi : BitVec 64
deriving DecidableEq, Repr

def PredVal.false : PredVal := ⟨0#64, 0#64⟩

end Sys2Proof.Machine
end

