-- ==== Sys2Proof/Machine/FMap.lean ====
section
/-!
DEFINITION. Sparse storage: finite maps from numbers, as plain lists of key and value in ascending key order.

`FMap.set` is canonical: a key whose value is the default is not listed, so equal contents are equal lists.
`FMap.put` lists every key it is given; it is for storage in which being listed means something (a cached
byte, a live wave).
-/

namespace Sys2Proof.Machine

abbrev FMap (α : Type) := List (Nat × α)

namespace FMap

variable {α : Type}

/-- The value listed under a key, if the key is listed. -/
def find : FMap α → Nat → Option α
  | [], _ => none
  | (j, v) :: t, k => if j = k then some v else find t k

/-- The value under a key; `d` where the key is not listed. -/
def get (d : α) (m : FMap α) (k : Nat) : α := (find m k).getD d

/-- List a value under a key. -/
def put : FMap α → Nat → α → FMap α
  | [], k, v => [(k, v)]
  | (j, x) :: t, k, v =>
    if k < j then (k, v) :: (j, x) :: t
    else if j = k then (k, v) :: t
    else (j, x) :: put t k v

/-- Remove a key. -/
def erase (m : FMap α) (k : Nat) : FMap α := m.filter fun e => e.1 != k

/-- Write a value in canonical form: the default is not listed. -/
def set [DecidableEq α] (d : α) (m : FMap α) (k : Nat) (v : α) : FMap α :=
  if v = d then erase m k else put m k v

/-- Apply a function to the value under a key, `d` standing for an unlisted one. -/
def modify (d : α) (m : FMap α) (k : Nat) (f : α → α) : FMap α := put m k (f (get d m k))

/-- The keys, ascending. -/
def keys (m : FMap α) : List Nat := m.map (·.1)

/-- Strictly ascending keys. -/
def Sorted (m : FMap α) : Prop := m.Pairwise fun a b => a.1 < b.1

/-- The canonical form: ascending keys, and no entry that holds the default. -/
def Canon (d : α) (m : FMap α) : Prop := Sorted m ∧ ∀ e ∈ m, e.2 ≠ d

end FMap

end Sys2Proof.Machine
end

