-- ==== Sys2Proof/Machine/State.lean ====
section
/-!
DEFINITION. The state of the module, as plain data, and its reset value.

Keys. A wave stands under asid * 2^64 + ltag * 2^40 + (32 * workgroup + wave); a width-64 pair is one wave, under
its lower, even index (R105). A workgroup stands under asid * 2^64 + ltag * 2^40 + workgroup, a launch
under asid * 2^16 + ltag. A core is numbered 128 * die + core, a cluster 32 * die + cluster (R13, R102).
Cached bytes stand under unit * 2^52 + physical address.
-/

namespace Sys2Proof.Machine

/-- How the machine can stop by itself. -/
inductive Fault where
  /-- Raised by the meaning of an encoded instruction when no wave's program-counter slot is issuing: there is
  no instruction stream for it to act on. `step` never reaches it. Safe: it claims nothing of the hardware. -/
  | noSlot
deriving DecidableEq, Repr

/-- Why an instruction has no meaning. -/
inductive Refusal where
  /-- Raised only by arms of `exec` that have no meaning yet; never by a meaning. Safe. -/
  | notModelled (mnemonic : String)
deriving DecidableEq, Repr

/-- R113. -/
inductive WaveSt where
  | resident | ready | parkedS | parkedFault | waitReg | waitUnreg | shed | preempting | saved | exited
deriving DecidableEq, Repr

/-- R116. -/
inductive WgSt where
  | placed | shedding | shed | preempting | saved | completed | killed
deriving DecidableEq, Repr

/-- The trap causes of R250. -/
inductive Cause where
  | mchk | ifetch | undef | priv | illop | width | segovf | align | xlate | prot | bounds | poison | engrej
  | mmaerr | divstk | deadlock | trap | brk
deriving DecidableEq, Repr

/-- What a trap reports (R250). `fmask` covers the lanes of a pair; `faddrHi` is FADDR of its upper half. -/
structure Trap where
  cause : Cause
  faddr : Word64
  faddrHi : Word64
  fmask : Lanes
deriving DecidableEq, Repr

/-- Memory: R178's home level, bytes by physical address in canonical form (nothing listed reads zero, R327). -/
abbrev Memory := List Host.Cell

/-- A program-counter slot (R106, R110). -/
structure PcSlot where
  pc : Word64
  mask : Lanes
  seq : Nat
  waiting : Bool
deriving DecidableEq, Repr

/-- The two slots and the divergence stack's registers (R106 to R111). `stray` once the context has stored into the wave's stack, which
leaves its later control flow open (R108). -/
structure Pcs where
  slot0 : Option PcSlot
  slot1 : Option PcSlot
  lastIssued : Bool
  nextSeq : Nat
  depth : Nat
  stackBase : Nat
  stray : Bool
deriving DecidableEq, Repr

/-- Where a result goes. -/
inductive Dest where
  | none
  | vec (reg : Nat)
  | scal (i : Nat)
  | wgreg (i : Nat)
deriving DecidableEq, Repr

/-- A register value on its way (R164). `vec` carries one value for each lane, lane 0 first; `scal` goes to both copies of a
pair's register, `scalHi` to the copy of its upper half alone (R105, R383); `heldG` is a g register's value that the wave holds for its commit already
(R123), so that delivering it writes nothing. -/
inductive RegVal where
  | vec (reg : Nat) (vals : List LaneVal)
  | scal (i : Nat) (v : ScalVal)
  | scalHi (i : Nat) (v : ScalVal)
  | wgreg (i : Nat) (v : ScalVal)
  | heldG (i : Nat) (v : ScalVal)
  | pred (i : Nat) (v : PredVal)
  | brec (i : Nat) (v : BitVec 256)
deriving DecidableEq, Repr

/-- The outstanding result of one variable-latency instruction: what it writes, the lanes not yet written, and the lanes that
read remote memory, with their addresses (R323); the instruction's address, and the origin slot it has taken in each half, if
it has (R245). A result that has no lanes counts as lane 0. `old` once an IDEM has retired after the instruction (R266); `pages` are the
virtual pages of its remote reads (R287). -/
structure Pend where
  writes : List RegVal
  remaining : Lanes
  remote : List (Nat × Nat)
  pc : Word64
  originLo : Option (BitVec 4)
  originHi : Option (BitVec 4)
  old : Bool
  pages : List (Nat × Nat)
deriving DecidableEq, Repr

/-- One lane of an atomic: where it acts (none: out of bounds under BND 1) and its operands (R345); `far` where the page is uncached, so
that it is performed at the home (R279). -/
structure AtomLane where
  lane : Nat
  loc : Option Nat
  x : Word32
  y : Word32
  far : Bool
deriving DecidableEq, Repr

/-- What a scratchpad store does to one word (R180). -/
inductive SpmAct where
  | whole (v : LaneVal)
  | bytes (l : List (Nat × Byte))
deriving DecidableEq, Repr

/-- The kinds of wait of R230. -/
inductive WaitKind where
  | bar | barc | drain | lock | semClu | semDev | waitv
deriving DecidableEq, Repr

/-- A command submitted to an engine or queue: its bytes as checked at submission. -/
inductive EngCmd where
  | tcopy (block : List Byte)
  | collective (block : List Byte)
  | power (block : List Byte)
  | table (block : List Byte)
  | launch (packet : List Byte)
deriving DecidableEq, Repr

/-- A virtual page of an access, and the invalidation ticket that has overtaken it, 0 for none (R287). -/
abbrev VPage := Nat × Nat

/-- An effect that is not yet performed: an entry of the store FIFO (R184), or in reproducible mode any held
effect (R122, R123). Addresses are physical; under `cs` they are offsets into cluster scratch. `pages` are the virtual pages
under which the addresses were translated; `up` marks a store of the upper half of a pair (R105). -/
inductive Eff where
  | store (cs nc up : Bool) (bytes : List (Nat × Byte)) (pages : List VPage)
  | atom (cs : Bool) (op : AtomOp) (ord : OrdCode) (lanes : List AtomLane) (pc : Word64) (dst : Dest) (pages : List VPage)
  | spmStore (words : List (Nat × SpmAct))
  | spmAtom (op : AtomOp) (lanes : List AtomLane) (dst : Dest)
  | gwrite (i : Nat) (v : ScalVal)
  | shedClass (c : BitVec 3)
  | arrive (kind : WaitKind) (b : Nat)
  | trylk (pa clk : Nat) (dst : Dest) (pages : List VPage)
  | unlock (pa : Nat) (pages : List VPage)
  | semsig (dev : Bool) (idx : Nat) (add : Word32)
  | engine (cmd : EngCmd)
  | aclr (t : Nat)
  | awr (t row : Nat) (vals : List LaneVal) (lanes : Lanes)
  | odecl (record : List Byte) (dst : Dest)
  | orel (base : Nat) (dst : Dest)
  | exit (second : Bool)
deriving DecidableEq, Repr

/-- A wait that is in progress, or in reproducible mode a request that is still open (R222, R230, R125). `met` once the
condition has held. -/
structure Wait where
  kind : WaitKind
  key : Word64
  pa : Nat
  expect : Word64
  dst : Dest
  registered : Bool
  met : Bool
  clk : Nat
  sw : Bool
deriving DecidableEq, Repr

/-- A WREG declaration (R229): the word and the expected waker's handle, 0 for none. -/
structure WaitDecl where
  va : Word64
  pa : Nat
  waker : Word64
deriving DecidableEq, Repr

/-- A codebook slot (R95, R97); while its table loads, the entries that are read from remote memory, with their addresses and the CBSET's own
(R245, R323), and the virtual pages of the table then (R287). -/
structure Codebook where
  valid : Bool
  ready : Bool
  iw : Nat
  ef : Nat
  entries : FMap LaneVal
  remote : List (Nat × Nat × Word64)
  pages : List VPage
deriving DecidableEq, Repr

def Codebook.empty : Codebook := ⟨false, false, 0, 0, [], [], []⟩

/-- What each hardware wave of a pair holds for itself beside its vector lanes (R38, R245, R253). -/
structure Half where
  fflags : BitVec 6
  faddr : Word64
  fmask : Word64
  pois : Vector Word64 16
  turn : BitVec 4
deriving DecidableEq, Repr

def Half.start : Half := ⟨0#6, 0#64, 0#64, Vector.replicate 16 0#64, 0#4⟩

/-- A wave's identity (R102). For a pair the fields are those of its lower half; `slotHi` is the slot of the
upper half. -/
structure WaveId where
  asid : BitVec 10
  ltag : BitVec 16
  wg : BitVec 32
  index : BitVec 5
  nwave : BitVec 6
  paired : Bool
  sched : BitVec 2
  slot : BitVec 6
  slotHi : BitVec 6
  core : BitVec 7
  die : BitVec 5
  repro : Bool
  cwg : BitVec 2
  clustered : Bool
deriving DecidableEq, Repr

/-- The registers of R148. Vector registers stand under 64 * register + lane. `sHi` lists the scalar registers of which the upper
half of a pair holds a copy of its own (R105, R383), with that copy. -/
structure Regs where
  v : FMap LaneVal
  s : Vector ScalVal 48
  sHi : FMap ScalVal
  p : Vector PredVal 8
  b : Vector (BitVec 256) 16
  m : Vector (BitVec 128) 8
  wbase : BitVec 8
deriving DecidableEq, Repr

def Regs.start : Regs :=
  ⟨[], Vector.replicate 48 ScalVal.zero, [], Vector.replicate 8 PredVal.false, Vector.replicate 16 0#256,
    Vector.replicate 8 0#128, 0#8⟩

/-- The idempotent right and what the IDEM recorded (R265). -/
structure Idem where
  idv : Bool
  pc : Word64
  lsm : BitVec 8
  ranges : List (Nat × Nat)
  qclk : Word64
  slot : Bool
  mask : Lanes
  other : Option PcSlot
deriving DecidableEq, Repr

def Idem.start : Idem := ⟨false, 0#64, 0#8, [], 0#64, false, 0#64, none⟩

/-- How far a pre-emption or forced shed has reached a wave (R260, R301): taken for saving, in full or by segments and page
ranges, and Shed before the request; instructions retired since the request; and for each class that has been cut for TFORCE, the
instructions retired since then or since the last PHINT. -/
structure Preempt where
  taken : Bool
  full : Bool
  shed : Bool
  lsm : BitVec 8
  ranges : List (Nat × Nat)
  since : Nat
  sinceCut : FMap Nat
deriving DecidableEq, Repr

def Preempt.start : Preempt := ⟨false, false, false, 0#8, [], 0, []⟩

/-- The environment and trap registers of a wave. -/
structure Env where
  fmode : BitVec 6
  ftv : BitVec 8
  shedClass : BitVec 3
  shedBase : BitVec 3
  eff : BitVec 3
  cause : Word64
  epc : Word64
  hm : Bool
  hsaveSlot : Bool
  hsaveMask : Lanes
deriving DecidableEq, Repr

/-- A wave (a width-64 pair is one wave). `mwait` lists the matrix commands of which its MWAIT or MQRY has still to see the end
(R406, R407); `stallOn` those that another instruction is stalled on, where 0x3F, the id of none, stands for a place in the queue
(R71, R75). -/
structure Wave where
  id : WaveId
  st : WaveSt
  held : WaveSt
  pcs : Pcs
  regs : Regs
  env : Env
  lo : Half
  hi : Half
  cb : Vector Codebook 4
  pend : List Pend
  fifo : List Eff
  left : List (List Nat)
  wait : Option Wait
  wreg : Option WaitDecl
  timew : Option (Word64 × Dest × Bool)
  idem : Idem
  pre : Preempt
  qclk : Word64
  ended : Bool
  trapPend : Option Trap
  mwait : Option (List (BitVec 6))
  stallOn : List (BitVec 6)
  remoteFail : Option Nat
  age : Nat
  since : Nat
  stalled : Bool
deriving DecidableEq, Repr

/-- The operand maps of an issued MMA, its tile, predecessors and options (R68, R70), and the scratchpad as its wave saw it at the
issue (R74). -/
structure MmaCmd where
  cid : BitVec 6
  preds : List (BitVec 6)
  mapA : BitVec 128
  mapB : BitVec 128
  tile : Nat
  z : Bool
  na : Bool
  started : Bool
  wave : Nat
  clk : Nat
  seen : FMap LaneVal
deriving DecidableEq, Repr

/-- An accumulator tile (R61); element (i, j) stands under 32 i + j. -/
structure Tile where
  elems : FMap LaneVal
  sat : Bool
  rs : Vector (BitVec 16) 32
  cs : Vector (BitVec 16) 32
deriving DecidableEq, Repr

def Tile.start : Tile := ⟨[], false, Vector.replicate 32 0x3F80#16, Vector.replicate 32 0x3F80#16⟩

/-- The kernel descriptor's fields (R173) with the launch's binding (R58). -/
structure Kernel where
  text : Word64
  data : Word64
  scratch : Nat
  phintmax : Nat
  divdepth : Nat
  opmask : BitVec 16
  opacc : BitVec 32
  con : BitVec 3
  width : BitVec 3
  ws : Bool
  idm : Bool
  shed : BitVec 3
  nwave : Nat
  seg : Nat
  acct : Nat
  cls : BitVec 2
  nat : Bool
deriving DecidableEq, Repr

def Kernel.blank : Kernel :=
  ⟨0#64, 0#64, 0, 4096, 256, 0#16, 0#32, 0#3, 0#3, false, false, 0#3, 1, 2, 0, 0#2, false⟩

/-- A piece of a translation: an extent (R273) or a TLB entry (R280). -/
structure Piece where
  asid : Nat
  vbase : Nat
  vlim : Nat
  pbase : Nat
  r : Bool
  w : Bool
  x : Bool
  mt : BitVec 2
  decl : Nat
deriving DecidableEq, Repr

/-- A workgroup that is placed or saved. `bindDie` is the die of its first placement, which CONTRACT reports (R58). -/
structure Wg where
  asid : BitVec 10
  ltag : BitVec 16
  index : BitVec 32
  cwg : BitVec 2
  clustered : Bool
  repro : Bool
  kern : Kernel
  st : WgSt
  bindDie : Nat
  die : Nat
  core : Nat
  segs : List (List Nat)
  pages : List Nat
  tilesPhys : List Nat
  barset : Option Nat
  scratch : FMap LaneVal
  tiles : FMap Tile
  g : Vector ScalVal 8
  bars : Vector (BitVec 32) 16
  cbars : Vector (BitVec 32) 8
  mma : List MmaCmd
  ext : List Piece
  image : Option (Nat × Nat)
  preReq : Bool
deriving DecidableEq, Repr

/-- A launch from its dispatch to its completion (R131, R137, R140, R310). `ext` is the range table made at dispatch from the
declared records (R174, R272); `seen` are the counts of the device and the cluster semaphores as of the last commit, or as of the placement
before the first (R438); `mute` once the increment of its completion is discarded (R227). -/
structure Launch where
  packet : List Byte
  queue : Nat
  prio : BitVec 3
  kern : Kernel
  repro : Bool
  order : Nat
  nextWg : Nat
  done : Nat
  killed : Nat
  energy : Nat
  hold : Nat
  eest : Nat
  fromRsv : Bool
  tstart : Nat
  quantum : Nat
  ext : List Piece
  seen : FMap Word32 × FMap Word32
  mute : Bool
deriving DecidableEq, Repr

/-- A context: its CTXDESC register, the descriptor's fields in force (R318) and its accounts. `fault` is the cause and the die of an MCHK
that its recovery has not yet answered (R330). -/
structure Ctx where
  live : Bool
  stat : BitVec 3
  addr : Nat
  repro : Bool
  qlog : Nat
  ftvDefault : BitVec 8
  root : Nat
  haddr : Word64
  hvec : BitVec 32
  fsem : Nat
  recBase : Nat
  recSlots : Nat
  wquota : Nat
  oquota : Nat
  saveBase : Nat
  saveSize : Nat
  poolBase : Nat
  poolSize : Nat
  dstkBase : Nat
  dstkSize : Nat
  ckpt : Nat
  kit : FMap Nat
  bal : Int
  rsv : Int
  meter : Nat
  dlrec : Word64
  nextRec : Nat
  ilr : Bool
  ilf : Bool
  cec : Nat
  poolUsed : List Nat
  dstacks : List (Nat × Nat × Nat)
  images : List (Nat × Nat × Nat)
  stamp : Nat
  ovf : Nat
  breaks : List Nat
  step : Bool
  nextTag : Nat
  port : FMap Byte
  pstat : FMap Word64
  fault : Option (Nat × Nat)
deriving DecidableEq, Repr

def Ctx.dead : Ctx :=
  { live := false, stat := 0#3, addr := 0, repro := false, qlog := 0, ftvDefault := 0#8, root := 0, haddr := 0#64,
    hvec := 0#32, fsem := 0, recBase := 0, recSlots := 0, wquota := 0, oquota := 0, saveBase := 0, saveSize := 0,
    poolBase := 0, poolSize := 0, dstkBase := 0, dstkSize := 0, ckpt := 0, kit := [], bal := 0, rsv := 0,
    meter := 0, dlrec := 0#64, nextRec := 0, ilr := false, ilf := false, cec := 0, poolUsed := [], dstacks := [],
    images := [], stamp := 0, ovf := 0, breaks := [], step := false, nextTag := 1, port := [], pstat := [], fault := none }

/-- A wait entry of the belay table (R230). -/
structure WaitEnt where
  kind : WaitKind
  asid : Nat
  obj : Nat
  waiter : Nat
  stamp : Nat
deriving DecidableEq, Repr

/-- An object entry of the belay table (R231). `pa` is where a lock word lies; `holder` is kept once the single holder
has left (R233). -/
structure ObjEnt where
  kind : WaitKind
  asid : Nat
  key : Word64
  pa : Nat
  holder : Option Word64
  orph : Bool
  held : Bool
deriving DecidableEq, Repr

/-- The belay table (R230, R231); `scanned` counts the multiples of 50 µs whose scan is over (R237). -/
structure Belay where
  waits : FMap WaitEnt
  objs : FMap ObjEnt
  scanned : Nat
deriving DecidableEq, Repr

/-- The hub's queues and semaphores (R134, R136, R226, R227). -/
structure Hub where
  lqcfg : FMap Word64
  semcfg : FMap Word64
  csemcfg : FMap Word64
  sem : FMap Word32
  csem : FMap Word32
  queues : FMap (List (Nat × List Byte))
  lastDispatch : Option Nat
  lastQueue : FMap Nat
  dispatched : Nat
deriving DecidableEq, Repr

/-- A cached byte of an L2 slice. -/
structure L2Byte where
  val : Byte
  dirty : Bool
deriving DecidableEq, Repr

/-- A byte in a core's write-combining buffer; `nc` where it goes straight to its home (R185). -/
structure WcbByte where
  val : Byte
  nc : Bool
deriving DecidableEq, Repr

/-- An instruction-cache word with the context it was fetched for (R191). -/
structure IcWord where
  word : Word32
  asid : Nat
deriving DecidableEq, Repr

/-- A locked range of an instruction cache (R192, R193). -/
structure ILock where
  core : Nat
  asid : Nat
  va : Nat
  len : Nat
  lines : List Nat
  active : Bool
deriving DecidableEq, Repr

/-- Cluster scratch control (R188): CUR and OWNER in force, the request, PEND and ERR. -/
structure CsCtl where
  ways : BitVec 4
  owner : BitVec 10
  cur : Nat
  curOwner : Nat
  pend : Bool
  err : Bool
deriving DecidableEq, Repr

def CsCtl.reset : CsCtl := ⟨0#4, 0#10, 0, 0, false, false⟩

/-- The caches and stores between the waves and the homes. -/
structure Caches where
  l1 : FMap Byte
  wcb : FMap WcbByte
  l2 : FMap L2Byte
  ic : FMap IcWord
  locks : List ILock
  cscr : FMap Byte
  csctl : FMap CsCtl
  weights : FMap Byte
  ue : FMap Lanes
  wsUe : List Nat
deriving DecidableEq, Repr

/-- An invalidation in progress (R286, R287). -/
structure Ticket where
  num : Nat
  start : Nat
  len : Nat
  delivered : Bool
deriving DecidableEq, Repr

/-- The invalidation counts of an ASID: last issued, last acknowledged, in progress. -/
structure Tickets where
  issued : Nat
  acked : Nat
  open_ : List Ticket
deriving DecidableEq, Repr

/-- The range TLBs (most recent first) and the invalidation tickets (R280, R286). -/
structure Tlbs where
  cluster : FMap (List Piece)
  die : FMap (List Piece)
  tickets : FMap Tickets
deriving DecidableEq, Repr

/-- A tensor copy that has been submitted and has not ended (R84 to R92). `alt` holds, for each byte of memory or of the scratchpad (2^60
higher) that it has written, the version that does not stand there: the one before the copy wrote it (R91), or in reproducible mode the one
that it leaves at its commit (R124, R126); with it, whether the page is uncached, or the word's P bit. `pages` are the virtual pages of what it
holds for its commit (R287). `mute` once the increment that its completion would make is discarded (R227). -/
structure Copy where
  block : List Byte
  asid : Nat
  wg : Nat
  cluster : Nat
  started : Bool
  arrived : Bool
  die : Option Nat
  diesLeft : List Nat
  admitted : List Nat
  unit : Nat
  done : Nat
  flags : BitVec 6
  status : BitVec 8
  token : Word32
  faultVa : Word64
  finished : Bool
  commit : Option Nat
  alt : FMap (Byte × Bool)
  pages : List VPage
  mute : Bool
deriving DecidableEq, Repr

/-- A collective command of this rank (R324 to R326): `elems` is DONE of its record; `held` what a reproducible one leaves in local memory
at its commit (R124, R126), and `pages` the virtual pages of that (R287); `mute` as for a copy. -/
structure Collective where
  block : List Byte
  asid : Nat
  submitted : Nat
  status : Option (BitVec 8)
  flags : BitVec 6
  faultVa : Word64
  peer : Nat
  launch : Nat
  commit : Option Nat
  elems : Nat
  held : List (Nat × Byte)
  pages : List VPage
  mute : Bool
deriving DecidableEq, Repr

/-- An engine command, by the number its engine gives it: a tensor copy or a collective. -/
inductive EngRef where
  | copy (id : Nat)
  | coll (id : Nat)
deriving DecidableEq, Repr

/-- A remote store or atomic that has left the module (R322): the bytes of a store, or the operation of an atomic with the address and
operands of each lane; the wave whose release, or the engine command whose completion waits for it; the context and the virtual pages it was
translated through (R287); whether a failure is that wave's to report (R323), and whether the owning device has acknowledged it (R185). -/
structure Sent where
  wave : Option Nat
  engine : Option EngRef
  asid : Nat
  pages : List VPage
  bytes : List (Nat × Byte)
  atomic : List (AtomOp × Nat × Word32 × Word32)
  reports : Bool
  acked : Bool
deriving DecidableEq, Repr

/-- The boost lease (R306, R307): `ramped` once its dies run at 1.5 GHz, `noticed` once the notice before its end is given, `revoked`
once it is revoked. -/
structure Lease where
  asid : Nat
  plim : Nat
  dies : BitVec 16
  dur : Nat
  sem : Option Nat
  endNs : Nat
  ramped : Bool
  noticed : Bool
  revoked : Bool
deriving DecidableEq, Repr

/-- A lease command waiting at the arbiter: its context, its block, and the reproducible launch that submitted it, if one did (R126, R306). -/
structure LeaseReq where
  asid : Nat
  block : List Byte
  launch : Option Nat
deriving DecidableEq, Repr

/-- A lease record still to be written (R306); that of a reproducible launch waits for its commit (R126). -/
structure LeaseRec where
  asid : Nat
  addr : Nat
  status : BitVec 8
  endNs : Nat
  launch : Option Nat
deriving DecidableEq, Repr

/-- A request in the queue of a weight-store gate: a workgroup to be placed, or a copy (R92). -/
inductive GateReq where
  | wg (key : Nat)
  | copy (id : Nat)
deriving DecidableEq, Repr

/-- Engines: copies, collectives, weight-store gates, the lease, UALink (what has left the module, and its replies), and the frame of each weight-store bank's
latest refresh, under 16 * die + bank (R93). -/
structure Engines where
  copies : FMap Copy
  nextCopy : Nat
  colls : FMap Collective
  nextColl : Nat
  gates : FMap (List GateReq)
  lease : Option Lease
  leaseReqs : List LeaseReq
  leaseRecs : List LeaseRec
  coolUntil : Nat
  outbox : List Sent
  replies : List (List Byte)
  accel : Nat
  refresh : FMap Nat
deriving DecidableEq, Repr

/-- The operating points of a compute die (R18): 650 mV and 1.3 GHz; 720 mV and 1.3 GHz, on the way up or down; 720 mV and
1.5 GHz. -/
inductive OpPoint where
  | nominal | transition | boost
deriving DecidableEq, Repr

/-- The power arbiter (R292 to R305). `charge` is each cluster's charge in the running epoch, `last` in the one
before; `classCharge` the charge by withholding class in the running epoch and `hist` in the 50 epochs before it, latest first;
`cutAt` when each class was cut and `cutEst` its estimate then; `nact` the N of R297; `pending` a budget update that is due, and
whether a sample caused it; `bal` is PWBAL and `ovsEnergy` PWOVS.ENERGY, in pJ; `points` lists the dies that are not at the
nominal operating point (R18) and `extra` the master cycles a die has run beyond those that all dies run. -/
structure Power where
  pwcfg : Word64
  pwbp : Vector Word64 8
  pwctl : Word64
  tl : Bool
  stperr : BitVec 16
  pwew : FMap (BitVec 24)
  bal : Nat
  ovsEnergy : Nat
  ovsCount : BitVec 32
  sample : List Byte
  lastFrame : Nat
  target : Int
  budget : Int
  refill : Nat
  nact : Nat
  pending : Option Bool
  allow : FMap Int
  charge : FMap Nat
  last : FMap Nat
  classCharge : FMap Nat
  hist : List (FMap Nat)
  cutEst : FMap Nat
  cut : Nat
  cutAt : FMap Nat
  restoreSince : Option Nat
  overSince : Option Nat
  ballastOff : Bool
  epoch : Nat
  clkpat : FMap (BitVec 16)
  clkpatNext : FMap (BitVec 16)
  points : FMap OpPoint
  extra : FMap Nat
deriving DecidableEq, Repr

/-- A fault report that has left on an Ethernet port (R330): the spec gives its contents and no layout. -/
structure FaultReport where
  port : Nat
  queue : Nat
  asid : Nat
  cause : Nat
  die : Nat
  time : Nat
deriving DecidableEq, Repr

/-- Management registers and start-up (R316, R317, R321, R327, R328), and what has left the module. `actSync` is the ASID and ticket
for which action 5 waits, `actPre` the workgroup that action 0 has asked to pre-empt, `actInv` the ASID, start and length of each action 3
that waits for a free ticket; `attestKey` counts the attestation key pairs that cold starts have made (R329). -/
structure Sys where
  last : BitVec 2
  boots : BitVec 16
  chlth : BitVec 16
  qhlth : BitVec 4
  rate : Int
  frac : Int
  colto : Word64
  actOpnd : FMap Word64
  actCmd : FMap Word64
  underVolt : Bool
  corrected : Nat
  actSync : Option (Nat × Nat)
  actPre : Option Nat
  actInv : List (Nat × Nat × Nat)
  attestKey : Nat
  reports : List FaultReport
  attest : List (List Byte)
deriving DecidableEq, Repr

/-- MESI states of an application core's line (R196). -/
inductive Mesi where
  | m | e | s
deriving DecidableEq, Repr

/-- A line held by a hart: its data and its state. -/
structure HLine where
  data : List Byte
  st : Mesi
deriving DecidableEq, Repr

/-- A coherence object (R194, R197): its physical 64-byte lines. `base` is the virtual BASE of a declared object, the physical
base of a default one; `seq` its sequence number; `granted` the order of its latest grant. -/
structure CohObj where
  asid : Nat
  declared : Bool
  base : Nat
  lines : List Nat
  die : Nat
  holders : List (Nat × Mesi)
  seq : BitVec 16
  granted : Nat
deriving DecidableEq, Repr

/-- The privilege modes of a hart, S being HS under the H extension (R312). -/
inductive HartMode where
  | m | hs | u | vs | vu
deriving DecidableEq, Repr

/-- The exceptions that the spec gives a hart (R313, R316). -/
inductive HartExc where
  | illegalInstruction | loadAccess | storeAccess
deriving DecidableEq, Repr

/-- The registers of a hart (R312): RV64GC's and those of the V extension, whose VLEN is 256, and its control and status registers by
number, the roots of its page tables among them. -/
structure HartRegs where
  pc : Word64
  x : FMap Word64
  f : FMap Word64
  v : FMap (BitVec 256)
  csr : FMap Word64
deriving DecidableEq, Repr

/-- misa, with RISC-V's number 0x301, reports RV64GC, V, H and the modes S and U and nothing else (R312; RISC-V's layout of it is PRESUMED,
log entry 22). -/
def misa : Word64 := 0x80000000003411AD#64

/-- A hart's registers at reset (DESIGN CHOICE, log entry 22). -/
def HartRegs.reset : HartRegs := ⟨0#64, [], [], [], [(0x301, misa)]⟩

/-- The application cores, as far as the spec gives them (R312 to R316, R194 to R197). `mode` lists the harts that are not in M
mode; `exc` is the latest exception of a hart, `result` what its latest read of gctx, of its time CSR or of a register returned, `data`
the bytes of its latest load from memory. -/
structure Harts where
  regs : FMap HartRegs
  data : FMap (List Byte)
  mode : FMap HartMode
  exc : FMap HartExc
  result : FMap Word64
  gctx : FMap Word64
  bound : FMap Word64
  lines : FMap HLine
  seqs : FMap (BitVec 16)
  objs : FMap CohObj
  grants : Nat
deriving DecidableEq, Repr

/-- A queue ring of an Ethernet port (R319). -/
structure EthQ where
  base : Nat
  entries : Nat
  next : Nat
  owner : Nat
deriving DecidableEq, Repr

/-- The Ethernet ports: queue rings under 512 * port + 256 * (1 for transmit) + queue, links, frames sent. -/
structure Eth where
  queues : FMap EthQ
  up : FMap Bool
  sent : List (Nat × List Byte)
  reportQueue : Nat
deriving DecidableEq, Repr

/-- Effects that stand at the end of the running cycle (R112, R144, R311), with the wave slot they come from. -/
inductive CycEff where
  | g (slot : Nat) (wg : Nat) (i : Nat) (v : ScalVal)
  | cls (slot : Nat) (wg : Nat) (c : BitVec 3)
  | shed (slot : Nat) (wave : Nat) (c b : BitVec 3)
  | hstat (slot : Nat) (wave : Nat) (asid : Nat) (clear : BitVec 2)
  | reap (slot : Nat) (wg : Nat)
deriving DecidableEq, Repr

/-- What became of the issue in progress. -/
inductive Issued where
  | pending | retired | trapped | stalled | waits
deriving DecidableEq, Repr

/-- The issue latch: the wave and slot that issue, the word at its program counter, the prefix, what became of it. -/
structure Issue where
  cur : Nat
  slot : Bool
  word : Word32
  pfx : Option Xw
  out : Issued
deriving DecidableEq, Repr

/-- Who can move (MODEL'S OWN): a wave, a step of the machine, time, a unit that a cache keeps to itself, another device that
acknowledges a store, a die's supply or its faster clock, or a hart from outside: what its own instructions make of its registers, its
work on a cache block, its fence, its mode, its reads and writes of registers, its configuration of a queue. -/
inductive Agent where
  | issue (wave : Nat)
  | event (i : Instr)
  | tick
  | evictL1 (core line : Nat)
  | evictL2 (cluster line : Nat)
  | evictIc (unit line : Nat)
  | fetchAhead (core asid va : Nat)
  | remoteAck (n : Nat)
  | voltageFall (die : Nat)
  | tickDie (die : Nat)
  | hartRun (hart : Nat) (regs : HartRegs)
  | hartBlock (hart line : Nat) (drop : Bool)
  | hartFence (hart : Nat)
  | hartMode (hart : Nat) (mode : HartMode)
  | gctxRead (hart : Nat)
  | timeRead (hart : Nat)
  | hartLoad (hart pa n : Nat)
  | hartStore (hart pa : Nat) (data : List Byte)
  | ethQueue (port : Nat) (tx : Bool) (queue base entries owner : Nat)
deriving DecidableEq, Repr

/-- The module. -/
structure State where
  mem : Memory
  waves : FMap Wave
  wgs : FMap Wg
  launches : FMap Launch
  ctxs : FMap Ctx
  hub : Hub
  belay : Belay
  caches : Caches
  tlbs : Tlbs
  eng : Engines
  pw : Power
  sys : Sys
  harts : Harts
  eth : Eth
  now : Nat
  cyc : Nat
  issuedNow : List Nat
  endOfCycle : List CycEff
  tick : Nat
  iss : Issue
  agenda : List Agent
deriving DecidableEq, Repr

/-- What an unlisted wave reads as; no wave of the machine. -/
def Wave.blank : Wave :=
  { id := ⟨0#10, 0#16, 0#32, 0#5, 1#6, false, 0#2, 0#6, 0#6, 0#7, 0#5, false, 0#2, false⟩,
    st := .exited, held := .exited, pcs := ⟨none, none, true, 1, 0, 0, false⟩, regs := Regs.start,
    env := ⟨0x10#6, 1#8, 0#3, 0#3, 0#3, 0#64, 0#64, false, false, 0#64⟩, lo := Half.start, hi := Half.start,
    cb := Vector.replicate 4 Codebook.empty, pend := [], fifo := [], left := [], wait := none, wreg := none,
    timew := none, idem := Idem.start, pre := Preempt.start, qclk := 0#64, ended := false, trapPend := none,
    mwait := none, stallOn := [], remoteFail := none, age := 0, since := 0, stalled := false }

/-- What an unlisted workgroup reads as. -/
def Wg.blank : Wg :=
  { asid := 0#10, ltag := 0#16, index := 0#32, cwg := 0#2, clustered := false, repro := false,
    kern := Kernel.blank, st := .completed, bindDie := 0, die := 0, core := 0, segs := [],
    pages := [], tilesPhys := [], barset := none, scratch := [], tiles := [],
    g := Vector.replicate 8 ScalVal.zero, bars := Vector.replicate 16 0#32, cbars := Vector.replicate 8 0#32,
    mma := [], ext := [], image := none, preReq := false }

/-- What an unlisted launch reads as. -/
def Launch.blank : Launch :=
  { packet := [], queue := 0, prio := 0#3, kern := Kernel.blank, repro := false, order := 0, nextWg := 0,
    done := 0, killed := 0, energy := 0, hold := 0, eest := 0, fromRsv := false, tstart := 0, quantum := 0, ext := [], seen := ([], []), mute := false }

/-- R294's reset values: FNOM 50,000, VK 0x0040, VNOM 50,000, NBP 2. -/
def Power.pwcfgReset : Word64 := 0#5 ++ 2#3 ++ 50000#16 ++ 0x0040#16 ++ 50000#24

/-- R294's reset values of PWBP0 to PWBP7. -/
def Power.pwbpReset : Vector Word64 8 :=
  #v[0#35 ++ 6500#13 ++ 0#16, 0#35 ++ 6500#13 ++ 200#16, 0#35 ++ 3000#13 ++ 500#16, 0#64, 0#64, 0#64, 0#64, 0#64]

/-- R294's reset values: PFALL 3000, PSTATIC 1100, HYST 200, THOLD 20, TFORCE 300, DMAX 100. -/
def Power.pwctlReset : Word64 := 0#1 ++ 100#10 ++ 300#9 ++ 20#8 ++ 200#10 ++ 1100#13 ++ 3000#13

/-- R298's weights, under 4 * IC + class (0 L, 1 M, 2 X, 3 T). -/
def Power.pwewReset : FMap (BitVec 24) :=
  [(0, 28), (1, 30), (2, 30), (3, 28), (4, 110), (5, 120), (6, 115), (7, 110),
   (8, 210), (9, 220), (10, 215), (11, 210), (12, 290), (13, 300), (14, 300), (15, 290),
   (16, 250), (17, 250), (18, 250), (19, 250), (20, 160), (21, 150), (22, 160), (23, 150),
   (24, 3500), (25, 3750), (26, 3000), (27, 3300), (28, 1000), (29, 1000), (30, 1000), (31, 1000)]

/-- The arbiter after a start (R294 to R305). -/
def Power.reset : Power :=
  { pwcfg := Power.pwcfgReset, pwbp := Power.pwbpReset, pwctl := Power.pwctlReset, tl := true, stperr := 0#16,
    pwew := Power.pwewReset, bal := 0, ovsEnergy := 0, ovsCount := 0#32, sample := [], lastFrame := 0,
    target := 3000, budget := 3000, refill := 0, nact := 1, pending := none, allow := [], charge := [], last := [], classCharge := [],
    hist := [], cutEst := [], cut := 0, cutAt := [], restoreSince := none, overSince := none,
    ballastOff := false, epoch := 0, clkpat := [], clkpatNext := [], points := [], extra := [] }

def Hub.reset : Hub := ⟨[], [], [], [], [], [], none, [], 0⟩

def Caches.reset : Caches := ⟨[], [], [], [], [], [], [], [], [], []⟩

def Engines.reset : Engines := ⟨[], 0, [], 0, [], none, [], [], 0, [], [], 0, []⟩

/-- R327, R328: a power-on cold start has just ended; every die is healthy (DESIGN CHOICE, log entry 5). -/
def Sys.reset : Sys :=
  { last := 0#2, boots := 0#16, chlth := 0xFFFF#16, qhlth := 0xF#4, rate := 0, frac := 0, colto := 1000000#64,
    actOpnd := [], actCmd := [], underVolt := false, corrected := 0, actSync := none, actPre := none, actInv := [], attestKey := 0, reports := [], attest := [] }

def Issue.none : Issue := ⟨0, false, 0#32, Option.none, .pending⟩

/-- The module right after a power-on cold start: every context dead, memory and weight stores zero, both Ethernet links up (R327). -/
def State.reset : State :=
  { mem := [], waves := [], wgs := [], launches := [], ctxs := [], hub := Hub.reset, belay := ⟨[], [], 0⟩,
    caches := Caches.reset, tlbs := ⟨[], [], []⟩, eng := Engines.reset, pw := Power.reset, sys := Sys.reset,
    harts := ⟨[], [], [], [], [], [], [], [], [], [], 0⟩, eth := ⟨[], [(0, true), (1, true)], [], 0⟩, now := 0, cyc := 0, issuedNow := [],
    endOfCycle := [], tick := 0, iss := Issue.none, agenda := [] }

end Sys2Proof.Machine
end

