-- ==== Sys2Proof/Machine/Mem.lean ====
section
/-!
DEFINITION. The parts of the state by name, memory at its home (R178, R184 to R187, R194 to R198), the caches
on the way to it, and the store path.
-/

namespace Sys2Proof.Machine

/-! ## Parts of the state -/

def State.wave (s : State) : Wave := s.waves.get Wave.blank s.iss.cur
def State.waveAt (s : State) (k : Nat) : Wave := s.waves.get Wave.blank k
def State.setWaveAt (s : State) (k : Nat) (w : Wave) : State := { s with waves := s.waves.put k w }
def State.setWave (s : State) (w : Wave) : State := s.setWaveAt s.iss.cur w
def State.modWaveAt (s : State) (k : Nat) (f : Wave → Wave) : State := s.setWaveAt k (f (s.waveAt k))

def launchKeyOf (asid ltag : Nat) : Nat := asid * 2 ^ 16 + ltag
def wgKeyOf (asid ltag wg : Nat) : Nat := asid * 2 ^ 64 + ltag * 2 ^ 40 + wg
/-- A wave's key, from its wave identifier (R102). -/
def waveKeyOf (asid ltag wid : Nat) : Nat := asid * 2 ^ 64 + ltag * 2 ^ 40 + wid

def WaveId.wgKey (i : WaveId) : Nat := wgKeyOf i.asid.toNat i.ltag.toNat i.wg.toNat
def WaveId.launchKey (i : WaveId) : Nat := launchKeyOf i.asid.toNat i.ltag.toNat
/-- R102: the wave identifier 32 WG + WAVE, taken to 32 bits. -/
def WaveId.wid (i : WaveId) : Nat := (32 * i.wg.toNat + i.index.toNat) % 2 ^ 32
/-- R221. -/
def WaveId.handle (i : WaveId) : Word64 := BitVec.ofNat 64 (i.wid + i.ltag.toNat * 2 ^ 32)
/-- The core's number in the module. -/
def WaveId.gcore (i : WaveId) : Nat := 128 * i.die.toNat + i.core.toNat
/-- The cluster's number in the module: the cluster of a die is CORE[6:2] (R102). -/
def WaveId.cluster (i : WaveId) : Nat := i.gcore / 4

def State.wgAt (s : State) (k : Nat) : Wg := s.wgs.get Wg.blank k
def State.setWgAt (s : State) (k : Nat) (g : Wg) : State := { s with wgs := s.wgs.put k g }
def State.wg (s : State) : Wg := s.wgAt s.wave.id.wgKey
def State.setWg (s : State) (g : Wg) : State := s.setWgAt s.wave.id.wgKey g
def State.modWgAt (s : State) (k : Nat) (f : Wg → Wg) : State := s.setWgAt k (f (s.wgAt k))
def State.ctxAt (s : State) (a : Nat) : Ctx := s.ctxs.get Ctx.dead a
def State.setCtxAt (s : State) (a : Nat) (c : Ctx) : State := { s with ctxs := s.ctxs.put a c }
def State.modCtxAt (s : State) (a : Nat) (f : Ctx → Ctx) : State := s.setCtxAt a (f (s.ctxAt a))
def State.ctx (s : State) : Ctx := s.ctxAt s.wave.id.asid.toNat
def State.launchAt (s : State) (k : Nat) : Launch := s.launches.get Launch.blank k
def State.setLaunchAt (s : State) (k : Nat) (l : Launch) : State := { s with launches := s.launches.put k l }
def State.modLaunchAt (s : State) (k : Nat) (f : Launch → Launch) : State := s.setLaunchAt k (f (s.launchAt k))

/-- The lanes a wave has: 32, or 64 for a pair (R105). -/
def Wave.lanes (w : Wave) : Nat := if w.id.paired then 64 else 32

/-- Reproducible mode governs the wave: its context has it on, and no handler runs (R120, R255). -/
def Wave.repro (w : Wave) : Bool := w.id.repro && !w.env.hm

/-- Device time: a 64-bit count of nanoseconds (R320). `now` counts on beyond it. -/
def State.time (s : State) : Nat := s.now % 2 ^ 64

/-- The master cycles a compute die has run since its reset (R93, R303). -/
def State.dieCyc (s : State) (die : Nat) : Nat := s.cyc + s.pw.extra.get 0 die

/-- The issuing slot, when it is occupied. -/
def Pcs.slot (p : Pcs) (second : Bool) : Option PcSlot := if second then p.slot1 else p.slot0
def Pcs.setSlot (p : Pcs) (second : Bool) (x : Option PcSlot) : Pcs :=
  if second then { p with slot1 := x } else { p with slot0 := x }

/-- The waves of a workgroup, with their keys. -/
def State.wavesOfWg (s : State) (k : Nat) : List (Nat × Wave) := s.waves.filter fun e => e.2.id.wgKey == k

/-- The waves of a launch, in ascending wave identifier. -/
def State.wavesOfLaunch (s : State) (k : Nat) : List (Nat × Wave) := s.waves.filter fun e => e.2.id.launchKey == k

/-! ## Memory at its home -/

/-- One byte of memory. -/
def Memory.read (m : Memory) (a : Nat) : Byte := FMap.get 0#8 m a

/-- Write one byte, keeping the canonical form. -/
def Memory.write (m : Memory) (a : Nat) (b : Byte) : Memory := FMap.set 0#8 m a b

/-- The canonical form of memory: addresses strictly rising, and no listed zero. -/
def Memory.wf (m : Memory) : Bool := decide (m.Pairwise fun a b => a.1 < b.1) && m.all fun e => e.2 != 0#8

/-- The number read from bytes, lowest first (R5). -/
def numOfBytes (bs : List Byte) : Nat := bs.foldr (fun b acc => b.toNat + 256 * acc) 0

/-- The `n`-byte field at an offset of a record or a block. -/
def fieldOf (b : List Byte) (off n : Nat) : Nat := numOfBytes ((b.drop off).take n)

/-- Is the 64-byte line in the object (R194, R195)? -/
def CohObj.covers (o : CohObj) (line : Nat) : Bool := o.lines.contains line

def hartKey (hart line : Nat) : Nat := hart * 2 ^ 46 + line

/-- A line that some hart holds in M (R196). -/
def Harts.dirtyLine (h : Harts) (line : Nat) : Option HLine :=
  (h.lines.find? fun e => e.1 % 2 ^ 46 == line && e.2.st == .m).map (·.2)

/-- A byte as its home serves it: from the hart that holds the line in M, else from memory (R198). -/
def State.homeRead (s : State) (pa : Nat) : Byte :=
  match s.harts.dirtyLine (pa / 64) with
  | some l => l.data.getD (pa % 64) 0#8
  | none => s.mem.read pa

/-- A 64-bit number at a physical address, as its home serves it. -/
def State.home64 (s : State) (pa : Nat) : Nat := numOfBytes ((List.range 8).map fun i => s.homeRead (pa + i))

/-- Write bytes to memory, in order. -/
def State.memWrite (s : State) (bytes : List (Nat × Byte)) : State :=
  { s with mem := bytes.foldl (fun m e => m.write e.1 e.2) s.mem }

/-- The line's bytes go to memory. -/
def State.writeBackLine (s : State) (line : Nat) (l : HLine) : State :=
  s.memWrite ((List.range 64).map fun i => (64 * line + i, l.data.getD i 0#8))

/-- Write back the M lines of an object's holders (R196). -/
def State.writeBackObj (s : State) (o : CohObj) : State :=
  s.harts.lines.foldl (fun s e =>
    if e.2.st == .m && o.covers (e.1 % 2 ^ 46) then s.writeBackLine (e.1 % 2 ^ 46) e.2 else s) s

/-- Probe an object's holders to S: M lines are written back and stay, shared (R196). -/
def State.probeShared (s : State) (k : Nat) (o : CohObj) : State :=
  let s := s.writeBackObj o
  { s with harts := { s.harts with
      lines := s.harts.lines.map fun e => if o.covers (e.1 % 2 ^ 46) then (e.1, { e.2 with st := .s }) else e,
      objs := s.harts.objs.put k { o with holders := o.holders.map fun h => (h.1, .s) } } }

/-- Probe an object's holders to I (R196). -/
def State.probeInvalid (s : State) (k : Nat) (o : CohObj) : State :=
  let s := s.writeBackObj o
  { s with harts := { s.harts with
      lines := s.harts.lines.filter fun e => !o.covers (e.1 % 2 ^ 46),
      objs := s.harts.objs.put k { o with holders := [] } } }

/-- The objects that hold a line for some hart. -/
def State.heldObjs (s : State) (line : Nat) : List (Nat × CohObj) :=
  s.harts.objs.filter fun e => e.2.covers line && !e.2.holders.isEmpty

/-- What a read that reaches the home does to the harts (R198): an E or M holder is probed to S. -/
def State.homeTouch (s : State) (pa : Nat) : State :=
  (s.heldObjs (pa / 64)).foldl (fun s e => if e.2.holders.any (fun h => h.2 != .s) then s.probeShared e.1 e.2 else s) s

/-- A byte stored by the compute side into a damaged ECC word; with the last one the word is whole again (R268). The bytes may come from
several stores: "until a store writes every byte of that word" could also ask for one store (DESIGN CHOICE, log entry 88). -/
def Caches.ueStored (c : Caches) (pa : Nat) : Caches :=
  match c.ue.find (pa / 64) with
  | none => c
  | some m =>
    let m' := m ||| BitVec.twoPow 64 (pa % 64)
    if m' = BitVec.allOnes 64 then { c with ue := c.ue.erase (pa / 64) } else { c with ue := c.ue.put (pa / 64) m' }

/-- The cache die that homes a physical address (R463); 4 and more is no HBM. -/
def homeDie (pa : Nat) : Nat := pa / 0x6000000000

/-- Is the address in the run of a cache die that is not healthy, which is absent (R463)? -/
def State.absentAt (s : State) (pa : Nat) : Bool := decide (homeDie pa < 4) && !s.sys.qhlth.getLsbD (homeDie pa)

/-- A local address whose data cannot be read: a damaged ECC word, or one of an absent run (R268, R463). -/
def State.ueAt (s : State) (pa : Nat) : Bool := (s.caches.ue.find (pa / 64)).isSome || s.absentAt pa

/-- The wave of a context that a handle names; the handle of either half names a pair (R221, R417). -/
def State.resolve (s : State) (asid : Nat) (h : Word64) : Option Nat :=
  let k := waveKeyOf asid (h.toNat / 2 ^ 32 % 2 ^ 16) (h.toNat % 2 ^ 32)
  if h.toNat / 2 ^ 48 ≠ 0 then none
  else if (s.waves.find k).isSome then some k
  else if k % 2 = 1 && (s.waveAt (k - 1)).id.paired then some (k - 1)
  else none

/-- The wakers that these waiters of a value-wait object have declared, as far as they are waves of its context, in ascending handle
order (R232). -/
def State.wakers (s : State) (asid : Nat) (waiters : List Nat) : List Nat :=
  (waiters.filterMap fun k => (s.waveAt k).wreg.bind fun d => if d.waker = 0#64 then none else s.resolve asid d.waker).mergeSort.eraseDups

/-- A value-wait object's entry under the waiters it has: its single holder is their one waker, and it is orphaned when that wave has
exited (R231, R233). One that was orphaned stays so while a waiter still names the wave that left. -/
def State.rejudge (s : State) (e : ObjEnt) (waiters : List Nat) : ObjEnt :=
  match s.wakers e.asid waiters with
  | [h] => if (s.waveAt h).st = .exited then { e with holder := some (s.waveAt h).id.handle, orph := true } else { e with holder := none, orph := false }
  | [] => if waiters.any fun k => e.holder.isSome && (s.waveAt k).wreg.map (·.waker) == e.holder then e else { e with holder := none, orph := false }
  | _ => { e with holder := none, orph := false }

/-- Remove a wave's wait entry, and its object's entry with the last (R231). A value-wait object that keeps waiters is judged by them. -/
def State.dropEntry (s : State) (k : Nat) : State :=
  let waits := s.belay.waits.filter fun e => e.2.waiter != k
  let left (j : Nat) : List Nat := (waits.filter fun e => e.2.obj == j).map (·.2.waiter)
  let had (j : Nat) : Bool := s.belay.waits.any fun e => e.2.obj == j && e.2.waiter == k
  { s with belay := { s.belay with
      waits := waits,
      objs := (s.belay.objs.filter fun o => waits.any fun e => e.2.obj == o.1).map fun (o : Nat × ObjEnt) =>
        if (o.2.kind == WaitKind.waitv && had o.1) = true then (o.1, s.rejudge o.2 (left o.1)) else o } }

/-- A wave's wait has met its condition: its entry goes. -/
def State.setMet (s : State) (k : Nat) : State :=
  (s.modWaveAt k fun v => { v with wait := v.wait.map fun w => { w with met := true } }).dropEntry k

/-- A wave's wait of one kind that is still open outside reproducible mode. -/
def Wave.openWait (w : Wave) (kind : WaitKind) : Option Wait :=
  w.wait.bind fun x => if x.kind == kind && !x.met && !w.repro then some x else none

/-- R229: the home tests the declared words of the lines that these bytes lie in, for the waves that wait on them. -/
def State.retestValues (s : State) (bytes : List (Nat × Byte)) : State :=
  s.waves.foldl (fun s e => match e.2.openWait .waitv with
    | none => s
    | some x =>
      if bytes.any (fun b => b.1 / 128 == x.pa / 128) && s.home64 x.pa != x.expect.toNat then s.setMet e.1 else s) s

/-- Writes that reach the home: every holder is probed to I first (R198), the bytes of an absent run are lost (R463), and the value
waits on the lines are tested again (R229). R268 gives a store to an absent run no report of its own: the bytes of a wave's plain store
vanish silently (DESIGN CHOICE, log entry 88). -/
def State.homeWrite (s : State) (bytes : List (Nat × Byte)) : State :=
  let bytes := bytes.filter fun (e : Nat × Byte) => !s.absentAt e.1
  let s := bytes.foldl (fun s e => (s.heldObjs (e.1 / 64)).foldl (fun s o => s.probeInvalid o.1 o.2) s) s
  ({ (s.memWrite bytes) with caches := bytes.foldl (fun (c : Caches) (e : Nat × Byte) => c.ueStored e.1) s.caches }).retestValues bytes

/-- A read that reaches the home: an E or M holder is probed to S first (R198). -/
def State.homeTouches (s : State) (pas : List Nat) : State := pas.foldl (fun s pa => s.homeTouch pa) s

/-- Bit 51 of a physical address marks remote memory (R322). -/
def isRemote (pa : Nat) : Bool := decide (2 ^ 51 ≤ pa % 2 ^ 52)

/-! ## Caches -/

def unitKey (u pa : Nat) : Nat := u * 2 ^ 52 + pa

/-- A byte as a core's loads find it: its L1, else the write-combining buffer over the L2 slice over the home
(R206). -/
def State.cachedByte (s : State) (gc pa : Nat) : Byte :=
  match s.caches.l1.find (unitKey gc pa) with
  | some b => b
  | none =>
    match s.caches.wcb.find (unitKey gc pa) with
    | some b => b.val
    | none =>
      match s.caches.l2.find (unitKey (gc / 4) pa) with
      | some b => b.val
      | none => s.homeRead pa

/-- A byte as a core's uncached loads find it: the newest of the stores of its workgroup that are still on their way, in the
write-combining buffer or dirty in the slice, else the home (R204, R206, R279). -/
def State.uncachedByte (s : State) (gc pa : Nat) : Byte :=
  match s.caches.wcb.find (unitKey gc pa) with
  | some b => b.val
  | none =>
    match s.caches.l2.find (unitKey (gc / 4) pa) with
    | some b => if b.dirty then b.val else s.homeRead pa
    | none => s.homeRead pa

/-- Does a core's load find a byte before it reaches the home: an uncached one, or one under `.nc`? -/
def State.servedNear (s : State) (gc : Nat) (uncached : Bool) (pa : Nat) : Bool :=
  (s.caches.wcb.find (unitKey gc pa)).isSome ||
    (if uncached then (s.caches.l2.find (unitKey (gc / 4) pa)).any (·.dirty)
     else (s.caches.l1.find (unitKey gc pa)).isSome || (s.caches.l2.find (unitKey (gc / 4) pa)).isSome)

/-- A byte as the L2 slice of a cluster serves it. -/
def State.sliceByte (s : State) (cl pa : Nat) : Byte :=
  match s.caches.l2.find (unitKey cl pa) with
  | some b => b.val
  | none => s.homeRead pa

/-- The 128 addresses of a line. -/
def lineBytes (line : Nat) : List Nat := (List.range 128).map (128 * line + ·)

/-- The unit that holds a key. -/
def keyUnit (k : Nat) : Nat := k / 2 ^ 52
def keyAddr (k : Nat) : Nat := k % 2 ^ 52

/-- The lines that a unit holds among those of the same set as `line`; of one set all lines are (R17, R178). The spec gives sizes and
ways and not which set a line belongs to: the model takes the line's number modulo the number of sets (DESIGN CHOICE, log entry 72). -/
def setLines {α : Type} (m : FMap α) (unit sets line : Nat) : List Nat :=
  m.foldl (fun l e =>
    if keyUnit e.1 == unit && keyAddr e.1 / 128 % sets == line % sets && l.head? != some (keyAddr e.1 / 128) then keyAddr e.1 / 128 :: l
    else l) []

/-- The line that goes when `line` needs room among `ls`, of which `ways` fit: none when it is there already or room is left. -/
def victimOf (tick ways line : Nat) (ls : List Nat) : Option Nat :=
  if ls.contains line || decide (ls.length < ways) then none else ls[Config.victim tick line % ls.length]?

/-- Bytes that a cluster has written are at their home: what its waves count as on its way shrinks (R370). -/
def State.ackBytes (s : State) (cl : Nat) (pas : List Nat) : State :=
  { s with waves := s.waves.map fun (e : Nat × Wave) =>
      if (e.2.id.cluster == cl && !e.2.left.isEmpty) = true then
        (e.1, { e.2 with left := (e.2.left.map fun l => l.filter fun a => !pas.contains a).filter fun l => !l.isEmpty }) else e }

/-- Write back the dirty bytes of a slice that satisfy a test; they stay, clean. -/
def State.l2WriteBack (s : State) (cl : Nat) (p : Nat → Bool) : State :=
  let dirty := s.caches.l2.filter fun e => keyUnit e.1 == cl && e.2.dirty && p (keyAddr e.1)
  let s := (s.homeWrite (dirty.map fun e => (keyAddr e.1, e.2.val))).ackBytes cl (dirty.map fun e => keyAddr e.1)
  { s with caches := { s.caches with l2 := s.caches.l2.map (fun e =>
      if (keyUnit e.1 == cl && p (keyAddr e.1)) = true then (e.1, L2Byte.mk e.2.val false) else e) } }

/-- Drop the bytes of a slice that satisfy a test (after their write-back). -/
def State.l2Drop (s : State) (cl : Nat) (p : Nat → Bool) : State :=
  { s with caches := { s.caches with l2 := s.caches.l2.filter fun e => !(keyUnit e.1 == cl && p (keyAddr e.1)) } }

/-- Give up a line of an L1; of an L2 slice, its dirty bytes go home first. -/
def State.evictL1 (s : State) (gc line : Nat) : State :=
  { s with caches := { s.caches with l1 := s.caches.l1.filter fun e => !(keyUnit e.1 == gc && keyAddr e.1 / 128 == line) } }
def State.evictL2 (s : State) (cl line : Nat) : State :=
  (s.l2WriteBack cl fun a => a / 128 == line).l2Drop cl fun a => a / 128 == line

def State.csctlAt (s : State) (cl : Nat) : CsCtl := s.caches.csctl.get CsCtl.reset cl

/-- The ways of a slice in which lines are allocated: 16, without the carved ones and those that are about to be (R17, R188, R189). -/
def CsCtl.cacheWays (c : CsCtl) : Nat := 16 - max c.cur (if c.pend then c.ways.toNat else 0)

/-- Room for a line: in an L1 of 128 sets of 8 ways, in a slice of 2048 sets. -/
def State.roomL1 (s : State) (gc line : Nat) : State :=
  match victimOf s.tick 8 line (setLines s.caches.l1 gc 128 line) with
  | some v => s.evictL1 gc v
  | none => s
def State.roomL2 (s : State) (cl line : Nat) : State :=
  match victimOf s.tick (s.csctlAt cl).cacheWays line (setLines s.caches.l2 cl 2048 line) with
  | some v => s.evictL2 cl v
  | none => s

/-- Fill the absent bytes of a line into an L2 slice, clean (R178); only they are read at the home. -/
def State.fillL2 (s : State) (cl line : Nat) : State :=
  let absent := (lineBytes line).filter fun pa => (s.caches.l2.find (unitKey cl pa)).isNone
  if absent.isEmpty then s
  else
    let s := (s.roomL2 cl line).homeTouches absent
    { s with caches := { s.caches with l2 := absent.foldl (fun m pa => m.put (unitKey cl pa) ⟨s.homeRead pa, false⟩) s.caches.l2 } }

/-- Fill a line into a core's L1, through the slice. -/
def State.fillL1 (s : State) (gc line : Nat) : State :=
  let s' := (s.roomL1 gc line).fillL2 (gc / 4) line
  { s' with caches := { s'.caches with l1 := (lineBytes line).foldl (fun m pa =>
      if (m.find (unitKey gc pa)).isSome then m else m.put (unitKey gc pa) (s.cachedByte gc pa)) s'.caches.l1 } }

/-- The lines that a list of addresses touches, each once. -/
def linesOf (pas : List Nat) : List Nat := (pas.map (· / 128)).eraseDups

/-- What loads of these addresses leave in the caches: nothing for `.nc` and for uncached ones, of which the bytes that nothing nearer
serves are read at the home (R185, R198); else the missing lines. -/
def State.loadTouch (s : State) (gc : Nat) (nc uncached : Bool) (pas : List Nat) : State :=
  if nc || uncached then s.homeTouches (pas.filter fun pa => !s.servedNear gc uncached pa)
  else (linesOf pas).foldl (fun s l =>
    if (lineBytes l).all fun pa => (s.caches.l1.find (unitKey gc pa)).isSome then s else s.fillL1 gc l) s

/-- Write bytes into an L2 slice, dirty. -/
def Caches.l2Write (c : Caches) (cl : Nat) (bytes : List (Nat × Byte)) : Caches :=
  { c with l2 := bytes.foldl (fun m e => m.put (unitKey cl e.1) ⟨e.2, true⟩) c.l2 }

/-- Bytes arrive at an L2 slice, which allocates their lines (R184). -/
def State.sliceWrite (s : State) (cl : Nat) (bytes : List (Nat × Byte)) : State :=
  let s := (linesOf (bytes.map (·.1))).foldl (fun s l => s.roomL2 cl l) s
  { s with caches := s.caches.l2Write cl bytes }

/-- One line of the write-combining buffer leaves it: `.nc` bytes go to their home and leave the slice, the others
are written to the slice (R184, R185). -/
def State.wcbWriteLine (s : State) (gc line : Nat) : State :=
  let mine := s.caches.wcb.filter fun e => keyUnit e.1 == gc && keyAddr e.1 / 128 == line
  let nc := (mine.filter (·.2.nc)).map fun e => (keyAddr e.1, e.2.val)
  let wb := (mine.filter (!·.2.nc)).map fun e => (keyAddr e.1, e.2.val)
  let c := s.caches
  let c := { c with wcb := c.wcb.filter fun e => !(keyUnit e.1 == gc && keyAddr e.1 / 128 == line) }
  let c := { c with l2 := nc.foldl (fun (m : FMap L2Byte) (e : Nat × Byte) => m.erase (unitKey (gc / 4) e.1)) c.l2 }
  ((({ s with caches := c }).sliceWrite (gc / 4) wb).homeWrite nc).ackBytes (gc / 4) (nc.map Prod.fst)

/-- The write-combining buffer of a core drains (R186). -/
def State.wcbDrain (s : State) (gc : Nat) : State :=
  (linesOf ((s.caches.wcb.filter fun e => keyUnit e.1 == gc).map fun e => keyAddr e.1)).foldl
    (fun s l => s.wcbWriteLine gc l) s

/-- Drop every line of a core's L1. -/
def State.l1Invalidate (s : State) (gc : Nat) : State :=
  { s with caches := { s.caches with l1 := s.caches.l1.filter fun e => keyUnit e.1 != gc } }

/-- Drop the clean bytes of a slice (R185). -/
def State.l2DropClean (s : State) (cl : Nat) : State :=
  { s with caches := { s.caches with l2 := s.caches.l2.filter fun e => keyUnit e.1 != cl || e.2.dirty } }

/-! ## Cluster scratch -/

def State.cscrByte (s : State) (cl o : Nat) : Byte := s.caches.cscr.get 0#8 (unitKey cl o)
def State.cscrWrite (s : State) (cl : Nat) (bytes : List (Nat × Byte)) : State :=
  { s with caches := { s.caches with cscr := bytes.foldl (fun m e => m.set 0#8 (unitKey cl e.1) e.2) s.caches.cscr } }

/-! ## The store path -/

/-- The virtual pages of an access's addresses, of `n` bytes each (R287). -/
def pagesOf (n : Nat) (vas : List Nat) : List VPage :=
  ((vas.flatMap fun a => [a / 4096, (a + n - 1) / 4096]).eraseDups).map fun p => (p, 0)

/-- A transaction goes out to the owning device (R219, R322) and is recorded. -/
def State.send (s : State) (x : Sent) : State := { s with eng := { s.eng with outbox := s.eng.outbox ++ [x] } }

/-- The bytes of a remote store go out. -/
def State.sendRemote (s : State) (who : Option Nat) (eng : Option EngRef) (asid : Nat) (pages : List VPage) (bytes : List (Nat × Byte)) : State :=
  if bytes.isEmpty then s
  else s.send { wave := who, engine := eng, asid := asid, pages := pages, bytes := bytes, atomic := [], reports := true, acked := false }

/-- A write-combining buffer holds 16 lines: a seventeenth sends one of them on (R186). -/
def State.roomWcb (s : State) (gc line : Nat) : State :=
  match victimOf s.tick 16 line (setLines s.caches.wcb gc 1 line) with
  | some v => s.wcbWriteLine gc v
  | none => s

/-- Writes that arrive at a core's L1 from a store FIFO: they update the bytes L1 holds and enter the
write-combining buffer (R184, R187). -/
def State.arriveLocal (s : State) (gc : Nat) (nc : Bool) (bytes : List (Nat × Byte)) : State :=
  let s := { s with caches := { s.caches with
      l1 := bytes.foldl (fun m e => if (m.find (unitKey gc e.1)).isSome then m.put (unitKey gc e.1) e.2 else m) s.caches.l1 } }
  (linesOf (bytes.map (·.1))).foldl (fun s l =>
    let s := s.roomWcb gc l
    { s with caches := { s.caches with
        wcb := (bytes.filter fun (e : Nat × Byte) => e.1 / 128 == l).foldl (fun (m : FMap WcbByte) e => m.put (unitKey gc e.1) ⟨e.2, nc⟩) s.caches.wcb } }) s

/-- A wave's remote bytes go out. -/
def State.sendStore (s : State) (k : Nat) (pages : List VPage) (bytes : List (Nat × Byte)) : State :=
  s.sendRemote (some k) none (s.waveAt k).id.asid.toNat pages bytes

/-- A wave's store leaves its FIFO. -/
def State.performStore (s : State) (k gc : Nat) (cs nc : Bool) (bytes : List (Nat × Byte)) (pages : List VPage) : State :=
  if cs then s.cscrWrite (gc / 4) bytes
  else (s.arriveLocal gc nc (bytes.filter fun e => !isRemote e.1)).sendStore k pages (bytes.filter fun e => isRemote e.1)

end Sys2Proof.Machine
end

