-- ==== Sys2Proof/Machine/Translate.lean ====
section
/-!
DEFINITION. Address translation (chapter 12): the range table and its walk, extents, range TLBs, protection.
-/

namespace Sys2Proof.Machine

/-- Outcome of a walk (R278). -/
inductive WalkRes where
  | hit (p : Piece)
  | miss
  | ue (pa : Nat)
deriving DecidableEq, Repr

/-- A range entry of a leaf node (R275). -/
structure RangeEnt where
  vbase : Nat
  vlim : Nat
  pbase : Nat
  attr : Nat
deriving DecidableEq, Repr

def RangeEnt.v (e : RangeEnt) : Bool := e.attr.testBit 0
def RangeEnt.kind (e : RangeEnt) : Nat := e.attr / 16 % 4
def RangeEnt.mt (e : RangeEnt) : Nat := e.attr / 64 % 4
def RangeEnt.page (e : RangeEnt) : Nat := if e.kind = 2 then 2 ^ 21 else 4096

/-- The bytes of physical memory that an entry names: the range, or its leaf table. -/
def RangeEnt.span (e : RangeEnt) : Nat := if e.kind = 0 then e.vlim - e.vbase else 8 * ((e.vlim - e.vbase) / e.page)

/-- R275: the rules of one range entry. Physical addresses have 52 bits (R270): an entry that would name one beyond them breaks the rules
too, which R275 does not say (DESIGN CHOICE, log entry 89). -/
def RangeEnt.ok (e : RangeEnt) : Bool :=
  e.vbase % 4096 == 0 && e.vlim % 4096 == 0 && decide (e.vbase < e.vlim) && decide (e.vbase < 2 ^ 57) &&
  decide (e.vlim ≤ 2 ^ 57) && e.pbase % 4096 == 0 && decide (e.pbase < 2 ^ 52) && decide (e.attr < 256) &&
  decide (e.pbase + e.span ≤ 2 ^ 52) &&
  decide (e.kind < 3) && decide (e.mt < 3) &&
  (e.kind != 1 || decide (e.vlim - e.vbase ≤ 2 ^ 30)) &&
  (e.kind != 2 || (e.vbase % 2 ^ 21 == 0 && e.vlim % 2 ^ 21 == 0 && decide (e.vlim - e.vbase ≤ 2 ^ 39)))

def State.rangeEnt (s : State) (node n : Nat) : RangeEnt :=
  let a := node + 0x20 + 32 * n
  ⟨s.home64 a, s.home64 (a + 8), s.home64 (a + 16), s.home64 (a + 24)⟩

/-- Ascending, and no entry reaching over the next. -/
def disjointAscending : List RangeEnt → Bool
  | a :: b :: t => decide (a.vlim ≤ b.vbase) && disjointAscending (b :: t)
  | _ => true

def strictlyRising : List Nat → Bool
  | a :: b :: t => decide (a < b) && strictlyRising (b :: t)
  | _ => true

/-- A node's header is well formed for the level it must have (none: any level, at the root) (R277). -/
def State.nodeHeadOk (s : State) (node : Nat) (level : Option Nat) : Bool :=
  let lv := (s.homeRead (node + 1)).toNat
  let n := (s.homeRead (node + 2)).toNat
  node % 512 == 0 && decide (node < 2 ^ 52) && s.homeRead node == 0xB7#8 && decide (lv ≤ 5) && decide (n ≤ 15) &&
  (n != 0 || level.isNone) && (level.isNone || level == some lv) &&
  (List.range 29).all fun i => s.homeRead (node + 3 + i) == 0#8

/-- The lowest of the bytes of a read that cannot be read. -/
def State.ueIn (s : State) (pa n : Nat) : Option Nat := ((List.range n).map (pa + ·)).find? s.ueAt

/-- The range entry that covers `va` (R278), down the levels of the tree. -/
def State.findRange (s : State) (va : Nat) : Nat → Nat → Option Nat → Except WalkRes RangeEnt
  | 0, _, _ => .error .miss
  | fuel + 1, node, level =>
    match s.ueIn node 512 with
    | some a => .error (.ue a)
    | none =>
      if !s.nodeHeadOk node level then .error .miss
      else
        let lv := (s.homeRead (node + 1)).toNat
        let n := (s.homeRead (node + 2)).toNat
        if lv = 0 then
          let es := (List.range n).map (s.rangeEnt node)
          if !(es.all RangeEnt.ok && disjointAscending es) then .error .miss
          else match es.find? fun e => decide (e.vbase ≤ va ∧ va < e.vlim) with
            | some e => if e.v then .ok e else .error .miss
            | none => .error .miss
        else
          let keys := (List.range n).map fun i => s.home64 (node + 0x20 + 32 * i)
          let zeros := (List.range n).all fun i =>
            s.home64 (node + 0x30 + 32 * i) == 0 && s.home64 (node + 0x38 + 32 * i) == 0
          if !(n != 0 && zeros && strictlyRising keys && keys.headD 0 == 0) then .error .miss
          else
            let i := (keys.filter fun k => decide (k ≤ va)).length - 1
            s.findRange va fuel (s.home64 (node + 0x28 + 32 * i)) (some (lv - 1))

/-- The address of the leaf entry of a paged range (R276). -/
def RangeEnt.leafAddr (e : RangeEnt) (va : Nat) : Nat := e.pbase + 8 * ((va - e.vbase) / e.page)

/-- R276: a leaf entry breaks no rule. -/
def leafOk (page leaf : Nat) : Bool :=
  leaf / 16 % 256 == 0 && decide (leaf < 2 ^ 52) && (page == 4096 || leaf % 2 ^ 21 / 4096 == 0)

/-- The walk of R278; a hit is the piece of R280 that a TLB holds. -/
def State.walk (s : State) (asid va : Nat) : WalkRes :=
  match s.findRange va 6 (s.ctxAt asid).root none with
  | .error r => r
  | .ok e =>
    if e.kind = 0 then
      let lo := max e.vbase (va / 2 ^ 31 * 2 ^ 31)
      let hi := min e.vlim (va / 2 ^ 31 * 2 ^ 31 + 2 ^ 31)
      .hit ⟨asid, lo, hi, e.pbase + (lo - e.vbase), e.attr.testBit 1, e.attr.testBit 2, e.attr.testBit 3,
        BitVec.ofNat 2 e.mt, 0⟩
    else
      match s.ueIn (e.leafAddr va) 8 with
      | some a => .ue a
      | none =>
        let leaf := s.home64 (e.leafAddr va)
        if !(leaf.testBit 0 && leafOk e.page leaf) then .miss
        else
          let lo := e.vbase + (va - e.vbase) / e.page * e.page
          .hit ⟨asid, lo, lo + e.page, leaf / 4096 * 4096, e.attr.testBit 1 && leaf.testBit 1,
            e.attr.testBit 2 && leaf.testBit 2, e.attr.testBit 3 && leaf.testBit 3, BitVec.ofNat 2 e.mt, 0⟩

def Piece.holds (p : Piece) (asid va : Nat) : Bool := p.asid == asid && decide (p.vbase ≤ va ∧ va < p.vlim)
def Piece.addr (p : Piece) (va : Nat) : Nat := p.pbase + (va - p.vbase)

/-- Translation at the first level that holds the address (R271); extents are those of one workgroup. -/
def State.lookup (s : State) (ext : List Piece) (cluster asid va : Nat) : WalkRes :=
  match ext.find? (·.holds asid va) with
  | some p => .hit p
  | none =>
    match (s.tlbs.cluster.get [] cluster).find? (·.holds asid va) with
    | some p => .hit p
    | none =>
      match (s.tlbs.die.get [] (cluster / 32)).find? (·.holds asid va) with
      | some p => .hit p
      | none => s.walk asid va

/-- Most recent first, at most `n` (R280: least recently used replaced first). -/
def lruTouch (n : Nat) (p : Piece) (l : List Piece) : List Piece := (p :: l.filter (· != p)).take n

/-- What a lookup leaves in the range TLBs: nothing after an extent hit or a miss (R271, R280). -/
def State.lookupTouch (s : State) (ext : List Piece) (cluster asid va : Nat) : State :=
  if (ext.find? (·.holds asid va)).isSome then s
  else match s.lookup [] cluster asid va with
    | .hit p => { s with tlbs := { s.tlbs with
        cluster := s.tlbs.cluster.modify [] cluster (lruTouch 64 p),
        die := s.tlbs.die.modify [] (cluster / 32) (lruTouch 4096 p) } }
    | _ => s

/-- What an access needs (R274, R279). `loadMem` and `storeMem` are the load of an RLD or WREG and the store of an AST, which MT 1
refuses as it does an atomic (R343, R422, R454); `spec` is a `.spec` load or a PREF (R279). -/
inductive Need where
  | load | store | atomic | fetch | spec | loadMem | storeMem
deriving DecidableEq, Repr

/-- Does an access of this kind never reach an MT 1 page (R279, R343, R346, R398, R422, R454)? -/
def Need.memOnly : Need → Bool
  | .load | .store => false
  | .atomic | .fetch | .spec | .loadMem | .storeMem => true

def Piece.grants (p : Piece) : Need → Bool
  | .load | .spec | .loadMem => p.r
  | .store | .storeMem => p.w
  | .atomic => p.r && p.w
  | .fetch => p.x

/-- The management registers (R316): a compute access to them raises PROT. -/
def isMgmt (pa : Nat) : Bool := decide (0x7F00000000000 ≤ pa ∧ pa < 0x7F00000000000 + 0x20000000)

/-- What becomes of one lane's access: it goes ahead, it is null (BND 1), or it fails. -/
inductive Chk where
  | ok (pa : Nat) (mt : BitVec 2)
  | null
  | bad (c : Cause) (addr : Nat)
deriving DecidableEq, Repr

/-- Translate and check protection (R279). Other loads and stores to MT 1 go ahead, uncached, but at the management registers
(R316; log entry 41). -/
def State.xlat (s : State) (ext : List Piece) (cluster asid va : Nat) (need : Need) : Chk :=
  match s.lookup ext cluster asid va with
  | .miss => .bad .xlate va
  | .ue a => .bad .mchk a
  | .hit p =>
    if !p.grants need then .bad .prot va
    else if p.mt = 1#2 ∧ need.memOnly = true then .bad .prot va
    else if isMgmt (p.addr va) then .bad .prot va
    else .ok (p.addr va) p.mt

/-- Does an engine's access to a local address meet an uncorrectable error: a read of data that cannot be read, or any access to an absent
run (R268, R463)? -/
def State.unfit (s : State) (need : Need) (pa : Nat) : Bool := if need = .load then s.ueAt pa else s.absentAt pa

/-- Translate a run of bytes of a context as the hub or an engine does; `need` and a memory type are required (R137, R240). Data that
is read must be readable; a store repairs a damaged ECC word but finds nothing in an absent run (R268, R463). -/
def State.hubAddrs (s : State) (asid va n : Nat) (need : Need) (mtOk : BitVec 2 → Bool) : Option (List Nat) :=
  ((List.range n).map (va + ·)).mapM fun a =>
    if 2 ^ 57 ≤ a then none
    else match s.walk asid a with
      | .hit p =>
        if p.grants need && mtOk p.mt && !s.unfit need (p.addr a) then some (p.addr a) else none
      | _ => none

/-- Every slice writes its dirty copies of these lines back and drops them, so that the home holds them (R185). -/
def State.gatherHome (s : State) (pas : List Nat) : State :=
  let ls := linesOf pas
  let cls := ((s.caches.l2.filter fun e => ls.contains (keyAddr e.1 / 128)).map fun e => keyUnit e.1).eraseDups
  cls.foldl (fun s c => (s.l2WriteBack c fun a => ls.contains (a / 128)).l2Drop c fun a => ls.contains (a / 128)) s

/-- The hub writes a record through a context's translation, needing W on MT 0 memory; a record that cannot be
written is skipped (R88, R240), and the answer says so. -/
def State.hubWrite (s : State) (asid va : Nat) (bytes : List Byte) : Bool × State :=
  match s.hubAddrs asid va bytes.length .store (· == 0#2) with
  | some pas => (true, s.homeWrite (pas.zip bytes))
  | none => (false, s)

/-- The hub reads bytes of a context as plain loads needing R on MT 0 memory (R137, R174). -/
def State.hubRead (s : State) (asid va n : Nat) : Option (List Byte) :=
  (s.hubAddrs asid va n .load (· == 0#2)).map fun pas => pas.map s.homeRead

/-- What a read of the hub leaves at the home: E and M holders of the lines are probed to S (R198). -/
def State.hubTouch (s : State) (asid va n : Nat) : State :=
  s.homeTouches ((s.hubAddrs asid va n .load (· == 0#2)).getD [])

/-- Bytes of a number, lowest first. -/
def bytes64 (x : Nat) : List Byte := leBytes 8 x

end Sys2Proof.Machine
end

