-- ==== Sys2Proof/Machine/Belay.lean ====
section
/-!
DEFINITION. The belay table (chapter 10): entries, holders, the walks that find cycles, deadlock records,
priority inheritance, and what a wave leaves behind.
-/

namespace Sys2Proof.Machine

/-- The hardware waves of a workgroup that have not exited, as a mask by wave index (R223). -/
def State.liveMask (s : State) (wg : Nat) : BitVec 32 :=
  (s.wavesOfWg wg).foldl (fun m e =>
    if e.2.st = .exited then m
    else m ||| BitVec.twoPow 32 e.2.id.index.toNat |||
      (if e.2.id.paired then BitVec.twoPow 32 (e.2.id.index.toNat + 1) else 0#32)) 0#32

/-- The keys of the four workgroups of a workgroup's cluster launch (R224). -/
def clusterPeers (asid ltag wg0 : Nat) : List Nat := (List.range 4).map fun i => wgKeyOf asid ltag (wg0 + i)

/-- KIND of R230. -/
def WaitKind.code : WaitKind → Nat
  | .bar => 0 | .barc => 1 | .drain => 2 | .lock => 3 | .semClu => 4 | .semDev => 5 | .waitv => 6

/-- What a wait waits on. -/
structure ObjRef where
  kind : WaitKind
  asid : Nat
  key : Word64
  pa : Nat
deriving DecidableEq, Repr

def Wait.obj (w : Wait) (asid : Nat) : ObjRef := ⟨w.kind, asid, w.key, w.pa⟩

/-- The kinds that share their keys: BAR and DRAIN wait on one barrier (R232). -/
def WaitKind.objKind : WaitKind → WaitKind
  | .drain => .bar
  | k => k

/-- Do two waits name the same object (R231)? -/
def ObjRef.same (a b : ObjRef) : Bool := a.kind.objKind == b.kind.objKind && a.asid == b.asid && a.key == b.key

def ObjEnt.ref (e : ObjEnt) : ObjRef := ⟨e.kind, e.asid, e.key, e.pa⟩

/-- The waves of a workgroup that have neither arrived (mask) nor exited. -/
def State.missing (s : State) (wg : Nat) (arrived : BitVec 32) : List Nat :=
  ((s.wavesOfWg wg).filter fun e => e.2.st != .exited && !arrived.getLsbD e.2.id.index.toNat).map (·.1)

/-- The waves that wait, registered, on an object; one whose wait has met its condition waits no more. A registered wait is one that has
its entry, or is about to get it (R236). -/
def State.waitersOn (s : State) (o : ObjRef) : List (Nat × Wave) :=
  s.waves.filter fun e => match e.2.wait with
    | some w => w.registered && !w.met && (w.obj e.2.id.asid.toNat).same o
    | none => false

/-- The holders of an object that are waves of its context, in ascending handle order (R232). -/
def State.holders (s : State) (o : ObjRef) : List Nat :=
  let ltag := o.key.toNat % 2 ^ 16
  let wg := o.key.toNat / 2 ^ 16 % 2 ^ 32
  match o.kind with
  | .bar | .drain =>
    let g := s.wgAt (wgKeyOf o.asid ltag wg)
    s.missing (wgKeyOf o.asid ltag wg) (g.bars[o.key.toNat / 2 ^ 48 % 16]!)
  | .barc => (clusterPeers o.asid ltag wg).flatMap fun k => s.missing k ((s.wgAt k).cbars[o.key.toNat / 2 ^ 48 % 8]!)
  | .lock =>
    let v := s.home64 o.pa
    if v / 2 ^ 63 = 1 && v / 2 ^ 48 % 2 ^ 15 = 0 then (s.resolve o.asid (BitVec.ofNat 64 (v % 2 ^ 48))).toList else []
  | .semClu | .semDev => []
  | .waitv => s.wakers o.asid ((s.waitersOn o).map (·.1))

/-- The object on which a wave has a registered wait. -/
def State.waitsOn (s : State) (k : Nat) : Option ObjRef :=
  match (s.waveAt k).wait with
  | some w => if w.registered && !w.met then some (w.obj (s.waveAt k).id.asid.toNat) else none
  | none => none

/-- Result of a walk: the visits made, and the path back to the wave when there is one. -/
structure Walk where
  visits : Nat
  path : Option (List (Nat × ObjRef))

/-- Walk from an object along holder edges to wave `w`, at most `hops` deep and `limit` visits (R236, R237). -/
def State.reach (s : State) (w limit : Nat) : Nat → ObjRef → Nat → Walk
  | 0, _, v => ⟨v, none⟩
  | hops + 1, o, v =>
    (s.holders o).foldl (fun r h =>
      if r.path.isSome || limit < r.visits then r
      else
        let v := r.visits + 1
        if limit < v then ⟨v, none⟩
        else if h = w then ⟨v, some []⟩
        else match s.waitsOn h with
          | some y =>
            let r' := s.reach w limit hops y v
            ⟨r'.visits, r'.path.map ((h, y) :: ·)⟩
          | none => ⟨v, none⟩) ⟨v, none⟩

/-- A path without its loops: from a wave that comes again later, it goes on as it does there. -/
def straight : List (Nat × ObjRef) → List (Nat × ObjRef)
  | [] => []
  | e :: t =>
    let r := straight t
    match r.findIdx? fun f => f.1 == e.1 with
    | some i => r.drop i
    | none => e :: r

/-- R236: the inline walk, 16 hops and 64 visits; a path found starts with the wave itself. -/
def State.inlineWalk (s : State) (w : Nat) (o : ObjRef) : Option (List (Nat × ObjRef)) :=
  (s.reach w 64 16 o 0).path.map fun p => straight ((w, o) :: p)

/-- The next slot of a context's record area, and the area moved on (R240). -/
def State.nextRecord (s : State) (asid : Nat) : Nat × State :=
  let c := s.ctxAt asid
  (c.recBase + 512 * c.nextRec, s.setCtxAt asid { c with nextRec := (c.nextRec + 1) % max 1 c.recSlots })

def zeros (n : Nat) : List Byte := List.replicate n 0#8

/-- The deadlock record of R240. -/
def deadlockRecord (s : State) (path : List (Nat × ObjRef)) (scan orph : Bool) : List Byte :=
  let n := path.length
  let head : List Byte := [0xD1#8, BitVec.ofNat 8 n, BitVec.ofNat 8 (min n 16),
    BitVec.ofNat 8 ((if scan then 1 else 0) + (if 16 < n then 2 else 0) + (if orph then 4 else 0))]
  let pairs := (path.take 16).flatMap fun e =>
    bytes64 ((s.waveAt e.1).id.handle.toNat + e.2.kind.code * 2 ^ 56) ++ bytes64 e.2.key.toNat
  head ++ zeros 4 ++ bytes64 s.time ++ zeros 48 ++ pairs ++ zeros (448 - pairs.length)

/-- Write a deadlock record; answers its address. DLREC takes the address of a record that could be written (R239, R240). -/
def State.reportDeadlock (s : State) (asid : Nat) (path : List (Nat × ObjRef)) (scan orph : Bool) : Nat × State :=
  let r := deadlockRecord s path scan orph
  let (va, s) := s.nextRecord asid
  let (ok, s) := s.hubWrite asid va r
  (va, if ok then s.modCtxAt asid fun c => { c with dlrec := BitVec.ofNat 64 va } else s)

/-- The lowest index below `n` that is not listed. -/
def freeIndex {α : Type} (m : FMap α) (n : Nat) : Option Nat := (List.range n).find? fun i => (m.find i).isNone

/-- The object entry for an object, if it has one. -/
def Belay.findObj (b : Belay) (o : ObjRef) : Option (Nat × ObjEnt) :=
  b.objs.find? fun e => e.2.ref.same o

/-- The one holder of a lock or value-wait object, when there is exactly one (R231, R232). -/
def State.soleHolder (s : State) (o : ObjRef) : Option Nat :=
  match o.kind, s.holders o with
  | .lock, [h] | .waitv, [h] => some h
  | _, _ => none

/-- An object's entry after a waiter has joined it: orphaned when its one holder has exited (R233). The wakers of a value wait are
those of the waiters it now has. -/
def State.orphanage (s : State) (e : ObjEnt) : ObjEnt :=
  if e.kind = .waitv then s.rejudge e ((s.waitersOn e.ref).map (·.1))
  else match s.soleHolder e.ref with
    | some h => if (s.waveAt h).st = .exited then { e with holder := some (s.waveAt h).id.handle, orph := true } else { e with holder := none, orph := false }
    | none => e

/-- Can the wait be registered: the wait and object indices it would take (R230). -/
def State.entryFor (s : State) (o : ObjRef) : Option (Nat × Nat) :=
  let c := s.ctxAt o.asid
  let wused := (s.belay.waits.filter fun e => e.2.asid == o.asid).length
  let oused := (s.belay.objs.filter fun e => e.2.asid == o.asid).length
  if c.wquota ≤ wused then none
  else match freeIndex s.belay.waits 8192, s.belay.findObj o with
    | some i, some (j, _) => some (i, j)
    | some i, none =>
      if c.oquota ≤ oused then none else (freeIndex s.belay.objs 2048).map fun j => (i, j)
    | none, _ => none

/-- The barriers of a cluster launch whose completion is held: every wave has arrived, and a workgroup is Saved (R238). -/
def State.heldBarrier (s : State) (o : ObjRef) : Bool :=
  o.kind == .barc &&
    (let peers := clusterPeers o.asid (o.key.toNat % 2 ^ 16) (o.key.toNat / 2 ^ 16 % 2 ^ 32)
     let b := o.key.toNat / 2 ^ 48 % 8
     peers.any (fun k => (s.wgAt k).st == .saved) && peers.any (fun k => (s.wgAt k).cbars[b]! != 0#32) &&
       peers.all fun k => (s.liveMask k &&& ~~~(s.wgAt k).cbars[b]!) == 0#32)

/-- Make the entries of a registered wait (R230, R231). The wave's wait already stands in it. An object that BAR and DRAIN waiters share
keeps the KIND of the waiter that made it: the spec does not say which of the two it shows (DESIGN CHOICE, log entry 61). -/
def State.makeEntry (s : State) (k : Nat) (o : ObjRef) (i j : Nat) : State :=
  let c := s.ctxAt o.asid
  let ent : WaitEnt := ⟨o.kind, o.asid, j, k, c.stamp + 1⟩
  let obj := s.orphanage ((s.belay.objs.find j).getD ⟨o.kind, o.asid, o.key, o.pa, none, false, s.heldBarrier o⟩)
  let b : Belay := { s.belay with waits := s.belay.waits.put i ent, objs := s.belay.objs.put j obj }
  ({ s with belay := b }).setCtxAt o.asid { c with stamp := c.stamp + 1 }

/-- A wave that leaves orphans the lock and value-wait objects it solely holds (R233). -/
def State.orphan (s : State) (k : Nat) : State :=
  let h := (s.waveAt k).id.handle
  let leaves (o : ObjEnt) : Bool := o.asid == (s.waveAt k).id.asid.toNat && !o.orph && s.soleHolder o.ref == some k
  { s with belay := { s.belay with objs := s.belay.objs.map (fun (e : Nat × ObjEnt) =>
      if leaves e.2 then (e.1, { e.2 with holder := some h, orph := true }) else e) } }

/-- Mark every wave that waits at a barrier of one of these workgroups as having met its condition, and remove
its entry. -/
def State.releaseBarrier (s : State) (wgs : List Nat) (clusterWide : Bool) (b : Nat) : State :=
  (s.waves.filter fun e => wgs.contains e.2.id.wgKey).foldl (fun s e =>
    match e.2.wait with
    | some w =>
      if (w.kind == .barc) == clusterWide && (w.kind == .bar || w.kind == .drain || w.kind == .barc) &&
          w.key.toNat / 2 ^ 48 % 16 == b then
        (s.modWaveAt e.1 fun v => { v with wait := some { w with met := true } }).dropEntry e.1
      else s
    | none => s) s

/-- Complete the workgroup barriers at which every wave that has not exited has arrived (R223). A barrier at which
nobody has arrived is not open. -/
def State.completeBars (s : State) (wg : Nat) : State :=
  (List.range 16).foldl (fun s b =>
    let g := s.wgAt wg
    let arrived := g.bars[b]!
    if arrived != 0#32 && (s.liveMask wg &&& ~~~arrived) == 0#32 then
      (s.setWgAt wg { g with bars := g.bars.set! b 0#32 }).releaseBarrier [wg] false b
    else s) s

/-- Complete the cluster barriers of a cluster launch (R224), or hold a completion while one of the four is Saved
(R238): the arrivals stay, and the object, if there is one, shows HELD. -/
def State.completeCbars (s : State) (wg : Nat) : State :=
  let g := s.wgAt wg
  let wg0 := g.index.toNat - g.cwg.toNat
  let peers := clusterPeers g.asid.toNat g.ltag.toNat wg0
  if !g.clustered then s
  else (List.range 8).foldl (fun s b =>
    let arrivedAny := peers.any fun k => (s.wgAt k).cbars[b]! != 0#32
    let all := peers.all fun k => (s.liveMask k &&& ~~~(s.wgAt k).cbars[b]!) == 0#32
    if arrivedAny && all then
      if peers.any fun k => (s.wgAt k).st == .saved then
        { s with belay := { s.belay with objs := s.belay.objs.map (fun e =>
            if e.2.kind == .barc && e.2.asid == g.asid.toNat &&
                e.2.key == BitVec.ofNat 64 (g.ltag.toNat + wg0 * 2 ^ 16 + b * 2 ^ 48)
            then (e.1, { e.2 with held := true }) else e) } }
      else
        (peers.foldl (fun s k => s.modWgAt k fun g => { g with cbars := g.cbars.set! b 0#32 }) s).releaseBarrier
          peers true b
    else s) s

/-- Has the wave a wait entry? -/
def State.hasEntry (s : State) (k : Nat) : Bool := s.belay.waits.any fun e => e.2.waiter == k

/-- The greatest PRIO.EFF that reaches a wave through registered waits, itself included (R234): `fuel` bounds the
chain by the number of waves. -/
def State.inheritedEff (s : State) : Nat → Nat → Nat
  | 0, k => (s.waveAt k).env.shedBase.toNat
  | fuel + 1, k =>
    s.waves.foldl (fun m e =>
      match s.waitsOn e.1 with
      | some o => if s.hasEntry e.1 && (s.holders o).contains k && e.1 != k then max m (s.inheritedEff fuel e.1) else m
      | none => m) (s.waveAt k).env.shedBase.toNat

/-- The greatest SHED.CLASS of the registered waiters on a wave, direct or through a chain (R235, R297). -/
def State.inheritedClass (s : State) : Nat → Nat → Nat
  | 0, _ => 0
  | fuel + 1, k =>
    s.waves.foldl (fun m e =>
      match s.waitsOn e.1 with
      | some o =>
        if s.hasEntry e.1 && (s.holders o).contains k && e.1 != k then max m (max e.2.env.shedClass.toNat (s.inheritedClass fuel e.1)) else m
      | none => m) 0

/-- R297: a wave's withholding class. -/
def State.withholdClass (s : State) (k : Nat) : Nat :=
  max (s.waveAt k).env.shedClass.toNat (s.inheritedClass s.waves.length k)

/-- Is the wave a holder on which a registered waiter of a greater class than its own waits (R235)? -/
def State.holdsHigher (s : State) (k : Nat) : Bool :=
  decide ((s.waveAt k).env.shedClass.toNat < s.inheritedClass s.waves.length k)

/-- Is a wave of the workgroup such a holder: the workgroup then stays running (R235)? -/
def State.exempt (s : State) (wg : Nat) : Bool := (s.wavesOfWg wg).any fun e => e.2.st != .exited && s.holdsHigher e.1

/-- Is the wave's class cut, and its workgroup not exempt for a holder (R235, R300, R301)? -/
def State.isCut (s : State) (k : Nat) : Bool :=
  decide ((s.waveAt k).env.shedClass.toNat < s.pw.cut) && !s.exempt (s.waveAt k).id.wgKey

/-- TFORCE, in µs (R294). -/
def Power.tforce (p : Power) : Nat := p.pwctl.toNat / 2 ^ 44 % 2 ^ 9

/-- Has a class been cut for TFORCE (R301)? -/
def State.forcedOn (s : State) (c : Nat) : Bool := decide (c < s.pw.cut) && decide (s.pw.cutAt.get 0 c + 1000 * s.pw.tforce ≤ s.now)

/-- The classes that have been, ascending. -/
def State.dueClasses (s : State) : List Nat := (List.range 8).filter s.forcedOn

/-- Does the forced shed of its class reach the wave (R235, R301)? -/
def State.isForced (s : State) (k : Nat) : Bool := s.isCut k && s.forcedOn (s.waveAt k).env.shedClass.toNat

/-- The order in which saved workgroups are restored (R234): the greatest EFF of the workgroup's waves, or, while a cluster barrier's
completion is held for it, of the waiters there (R238). -/
def State.restorePrio (s : State) (wg : Nat) : Nat :=
  let top (l : List (Nat × Wave)) : Nat := l.foldl (fun m e => max m e.2.env.eff.toNat) 0
  let g := s.wgAt wg
  let held := s.waves.filter fun e => match e.2.wait with
    | some w => w.kind == .barc && w.registered && !w.met && s.heldBarrier (w.obj e.2.id.asid.toNat) &&
        (clusterPeers g.asid.toNat g.ltag.toNat (g.index.toNat - g.cwg.toNat)).contains e.2.id.wgKey
    | none => false
  if held.isEmpty then top ((s.wavesOfWg wg).filter fun e => e.2.st != .exited) else top held

/-- A workgroup's state follows the shedding of its waves (R116). -/
def State.markWg (s : State) (wg : Nat) : State :=
  let live := (s.wavesOfWg wg).filter fun e => e.2.st != .exited
  let st : WgSt :=
    if live.any fun e => e.2.st == .shed then (if live.all fun e => e.2.st == .shed then .shed else .shedding)
    else if live.any fun e => s.isCut e.1 then .shedding else .placed
  match s.wgs.find wg with
  | none => s
  | some g => if g.st == .placed || g.st == .shedding || g.st == .shed then s.setWgAt wg { g with st := st } else s

/-- A wave enters Shed and keeps the state it held (R114). -/
def State.shedWave (s : State) (k : Nat) : State :=
  (s.modWaveAt k fun w => { w with st := .shed, held := w.st }).markWg (s.waveAt k).id.wgKey

end Sys2Proof.Machine
end

