-- ==== Sys2Proof/Machine/Ops.lean ====
section
/-!
DEFINITION. The named operations the instructions share: writing registers, the store FIFO, releases and acquires,
atomics, semaphores, records, retiring, taking a trap and returning from one, ending a wave.
-/

namespace Sys2Proof.Machine

abbrev Out := Host.Outcome State Fault Refusal

/-! ## Writing registers -/

/-- Is lane `l` in the set? -/
def inLanes (m : Lanes) (l : Nat) : Bool := m.getLsbD l

/-- The lanes of a set, ascending. -/
def lanesOf (m : Lanes) : List Nat := (List.range 64).filter (inLanes m)

/-- Write one vector register in the lanes of `mask` (R148). -/
def Regs.writeVec (r : Regs) (reg : Nat) (vals : List LaneVal) (mask : Lanes) : Regs :=
  { r with v := (lanesOf mask).foldl (fun v l => v.set LaneVal.zero (64 * reg + l) (vals.getD l LaneVal.zero)) r.v }

/-- Write a predicate in the lanes of `mask`; p0 discards (R148). -/
def Regs.writePred (r : Regs) (i : Nat) (x : PredVal) (mask : Lanes) : Regs :=
  if i = 0 then r
  else
    let o := r.p[i]?.getD PredVal.false
    { r with p := r.p.set! i ⟨(o.val &&& ~~~mask) ||| (x.val &&& mask), (o.poi &&& ~~~mask) ||| (x.poi &&& mask)⟩ }

/-- Hold an effect in the wave's FIFO (R123, R184). -/
def State.hold (s : State) (k : Nat) (e : Eff) : State := s.modWaveAt k fun w => { w with fifo := w.fifo ++ [e] }

/-- Hold several effects, in order. -/
def State.holdAll (s : State) (k : Nat) (es : List Eff) : State := s.modWaveAt k fun w => { w with fifo := w.fifo ++ es }

/-- The lanes of an access by halves of a pair, each with its own store FIFO (R105): those of the lower half, and those of the upper. -/
def byHalf {α : Type} (xs : List (Nat × α)) : List (List (Nat × α)) :=
  let up := xs.filter fun e => decide (32 ≤ e.1)
  let low := xs.filter fun e => decide (e.1 < 32)
  if up.isEmpty then [low] else if low.isEmpty then [up] else [low, up]

/-- Are these lanes of an upper half? -/
def isUpper {α : Type} (xs : List (Nat × α)) : Bool := xs.any fun e => decide (32 ≤ e.1)

/-- The slot that counts when writes of one cycle meet: of a pair, the higher (R112, R311). -/
def WaveId.topSlot (i : WaveId) : Nat := if i.paired then max i.slot.toNat i.slotHi.toNat else i.slot.toNat

/-- Write a scalar register, both copies of a pair's (R105). -/
def Regs.writeScal (r : Regs) (i : Nat) (v : ScalVal) : Regs := { r with s := r.s.set! i v, sHi := r.sHi.erase i }

/-- Write the copy of a scalar register that the upper half of a pair holds (R383). -/
def Regs.writeScalHi (r : Regs) (i : Nat) (v : ScalVal) : Regs :=
  { r with sHi := if r.s[i]? = some v then r.sHi.erase i else r.sHi.put i v }

/-- Deliver a value to a wave's registers, in the lanes of `mask` where the register has lanes (R164). A g register takes it at the
end of the cycle (R112). -/
def State.deliver (s : State) (k : Nat) (mask : Lanes) : RegVal → State
  | .vec r vals => s.modWaveAt k fun w => { w with regs := w.regs.writeVec r vals mask }
  | .scal i v => s.modWaveAt k fun w => { w with regs := w.regs.writeScal i v }
  | .scalHi i v => s.modWaveAt k fun w => { w with regs := w.regs.writeScalHi i v }
  | .wgreg i v => { s with endOfCycle := s.endOfCycle ++ [.g (s.waveAt k).id.topSlot (s.waveAt k).id.wgKey i v] }
  | .heldG _ _ => s
  | .pred i v => s.modWaveAt k fun w => { w with regs := w.regs.writePred i v mask }
  | .brec i v => s.modWaveAt k fun w => { w with regs := { w.regs with b := w.regs.b.set! i v } }

/-- Deliver several values. -/
def State.deliverAll (s : State) (k : Nat) (mask : Lanes) (vs : List RegVal) : State :=
  vs.foldl (fun s v => s.deliver k mask v) s

/-- Write what an instruction computes: in reproducible mode a g register's value is held for the commit (R123). -/
def State.writeReg (s : State) (k : Nat) (mask : Lanes) (v : RegVal) : State :=
  match v with
  | .wgreg i x => if (s.waveAt k).repro then s.hold k (.gwrite i x) else s.deliver k mask v
  | v => s.deliver k mask v

def State.writeRegs (s : State) (k : Nat) (mask : Lanes) (vs : List RegVal) : State := vs.foldl (fun s v => s.writeReg k mask v) s

/-- The registers a 64-bit value in a destination names: vector lanes are given by `lanes`. -/
def Dest.scalVal (d : Dest) (v : ScalVal) : List RegVal :=
  match d with
  | .scal i => [.scal i v]
  | .wgreg i => [.wgreg i v]
  | _ => []

/-- Clear the idempotent right (R266). -/
def Wave.clearIdem (w : Wave) : Wave := { w with idem := { w.idem with idv := false } }

def RegVal.isG : RegVal → Bool
  | .wgreg .. | .heldG .. => true
  | _ => false

/-- An instruction that writes a g register clears the idempotent right (R266). -/
def State.noteG (s : State) (k : Nat) (vs : List RegVal) : State :=
  if vs.any RegVal.isG then s.modWaveAt k Wave.clearIdem else s

/-- Write a plain 64-bit result to the issuing wave. -/
def State.writeScal (s : State) (k : Nat) (d : Dest) (x : Word64) : State :=
  (s.writeRegs k 1#64 (d.scalVal ⟨x, false⟩)).noteG k (d.scalVal ⟨x, false⟩)

/-- An outstanding result that reads no remote memory. -/
def Pend.plain (writes : List RegVal) (lanes : Lanes) : Pend := ⟨writes, lanes, [], 0#64, none, none, false, []⟩

/-- What is outstanding of a write whose g registers the wave holds already. -/
def RegVal.onceHeld : RegVal → RegVal
  | .wgreg i v => .heldG i v
  | v => v

/-- The g registers that a reproducible wave's result writes are held at once, in program order (R123). -/
def State.holdG (s : State) (k : Nat) (vs : List RegVal) : State :=
  vs.foldl (fun s v => match v with
    | .wgreg i x => s.hold k (.gwrite i x)
    | _ => s) s

/-- Add an outstanding result (R164). -/
def State.addPend (s : State) (k : Nat) (p : Pend) : State :=
  if p.writes.isEmpty then s
  else if (s.waveAt k).repro then
    (((s.holdG k p.writes).modWaveAt k fun w => { w with pend := w.pend ++ [{ p with writes := p.writes.map RegVal.onceHeld }] })).noteG k p.writes
  else (s.modWaveAt k fun w => { w with pend := w.pend ++ [p] }).noteG k p.writes

/-- Write every outstanding result, oldest first (R249, R260). -/
def State.flushPend (s : State) (k : Nat) : State :=
  let s' := (s.waveAt k).pend.foldl (fun s p => s.deliverAll k p.remaining p.writes) s
  s'.modWaveAt k fun w => { w with pend := [] }

/-- Or flags into FFLAGS, for each half of the lanes that raise them (R38, R39). -/
def State.orFlags (s : State) (k : Nat) (lo hi : BitVec 6) : State :=
  s.modWaveAt k fun w =>
    { w with lo := { w.lo with fflags := w.lo.fflags ||| lo }, hi := { w.hi with fflags := w.hi.fflags ||| hi } }

/-! ## Tokens and origin entries (R243 to R245) -/

/-- A token. -/
def tokenOf (code : BitVec 8) (slot : BitVec 4) (addr : Nat) : Word32 := code ++ slot ++ BitVec.ofNat 20 addr

/-- An origin entry taken in turn. -/
def Half.takeOrigin (h : Half) (code : BitVec 8) (lane : Nat) (pc : BitVec 24) (addr : Nat) : Half :=
  { h with pois := h.pois.set! h.turn.toNat (BitVec.ofNat 24 (addr / 2 ^ 20) ++ pc ++ 0#1 ++ BitVec.ofNat 5 lane ++ 0#1 ++ 1#1 ++ code),
           turn := h.turn + 1#4 }

/-- The lowest of the lanes in which an instruction makes a new token, with its code and address. -/
def lowestFault (fs : List (Nat × BitVec 8 × Nat)) (upper : Bool) : Option (Nat × BitVec 8 × Nat) :=
  fs.find? fun f => decide (32 ≤ f.1) == upper

/-- The tokens of an instruction's faulting lanes (ascending), one origin entry for each hardware wave (R245). -/
def State.makeTokens (s : State) (k : Nat) (pc : Word64) (fs : List (Nat × BitVec 8 × Nat)) : List (Nat × Word32) × State :=
  let w := s.waveAt k
  let pc24 := BitVec.ofNat 24 ((pc - (s.wgAt w.id.wgKey).kern.text).toNat / 4)
  let toks := fs.map fun f => (f.1, tokenOf f.2.1 (if 32 ≤ f.1 then w.hi.turn else w.lo.turn) f.2.2)
  let lo := match lowestFault fs false with | some f => w.lo.takeOrigin f.2.1 f.1 pc24 f.2.2 | none => w.lo
  let hi := match lowestFault fs true with | some f => w.hi.takeOrigin f.2.1 (f.1 - 32) pc24 f.2.2 | none => w.hi
  (toks, s.setWaveAt k { w with lo := lo, hi := hi })

/-! ## Atomics (R209, R345) -/

/-- The new value of an atomic. -/
def atomNew (op : AtomOp) (old x y : Word32) : Word32 :=
  match op with
  | .add => old + x
  | .sub => old - x
  | .min => if old.toInt ≤ x.toInt then old else x
  | .max => if old.toInt ≤ x.toInt then x else old
  | .minu => if old.toNat ≤ x.toNat then old else x
  | .maxu => if old.toNat ≤ x.toNat then x else old
  | .and => old &&& x
  | .or => old ||| x
  | .xor => old ^^^ x
  | .xchg => x
  | .cas => if old = x then y else old
  | .fadd => BitVec.ofNat 32 (faddF fp32 (FEnv.plain true) (fsrc fp32 (FEnv.plain true) old.toNat) (fsrc fp32 (FEnv.plain true) x.toNat)).bits

def word32Of (bs : List Byte) : Word32 := BitVec.ofNat 32 (numOfBytes bs)

/-- Four bytes at an address, with a read function. -/
def fourAt (a : Nat) : List Nat := (List.range 4).map (a + ·)

/-- Where a byte is listed beside others: cluster scratch offsets stand 2^60 higher. -/
def viewKey (cs : Bool) (pa : Nat) : Nat := if cs then pa + 2 ^ 60 else pa

/-- Address and byte pairs of a number of `n` bytes at `a`. -/
def bytePairs (a n x : Nat) : List (Nat × Byte) := ((List.range n).map (a + ·)).zip (leBytes n x)

/-- Make the home the one place that holds a line, as far as this core and cluster go: its write-combined bytes and
the slice's dirty bytes go home, and their copies are dropped. -/
def State.flushToHome (s : State) (gc pa : Nat) : State :=
  let s := s.wcbWriteLine gc (pa / 128)
  let s := (s.l2WriteBack (gc / 4) fun a => a / 128 == pa / 128).l2Drop (gc / 4) fun a => a / 128 == pa / 128
  { s with caches := { s.caches with l1 := s.caches.l1.filter fun e => !(keyUnit e.1 == gc && keyAddr e.1 / 128 == pa / 128) } }

/-- Perform one lane of an atomic at the point of its scope; answers the old value. In remote memory the owning device performs it,
and its answer is a free value (R209, R322). -/
def State.atomAt (s : State) (gc : Nat) (cs : Bool) (op : AtomOp) (ord : OrdCode) (a : Nat) (x y : Word32) : Word32 × State :=
  if cs then
    let old := word32Of ((fourAt a).map (s.cscrByte (gc / 4)))
    (old, s.cscrWrite (gc / 4) (bytePairs a 4 (atomNew op old x y).toNat))
  else if isRemote a then
    (word32Of ((fourAt a).map (Config.remoteByte s.tick)), { s with tick := s.tick + 1 })
  else match ord with
    | .plain | .wg =>
      let s := (s.wcbWriteLine gc (a / 128)).loadTouch gc false false [a]
      let old := word32Of ((fourAt a).map (s.cachedByte gc))
      let new := bytePairs a 4 (atomNew op old x y).toNat
      let s := s.sliceWrite (gc / 4) new
      (old, { s with caches := { s.caches with l1 := new.foldl (fun m e => m.put (unitKey gc e.1) e.2) s.caches.l1 } })
    | .clu =>
      let s := (s.wcbWriteLine gc (a / 128)).fillL2 (gc / 4) (a / 128)
      let old := word32Of ((fourAt a).map (s.sliceByte (gc / 4)))
      let new := bytePairs a 4 (atomNew op old x y).toNat
      (old, { s with caches := { (s.caches.l2Write (gc / 4) new) with
          l1 := s.caches.l1.filter fun e => !(keyUnit e.1 == gc && keyAddr e.1 / 128 == a / 128) } })
    | _ =>
      let s := s.flushToHome gc a
      let old := word32Of ((fourAt a).map s.homeRead)
      (old, s.homeWrite (bytePairs a 4 (atomNew op old x y).toNat))

/-- The value a destination receives from an atomic: old values by lane. -/
def Dest.ofLanes (d : Dest) (olds : List (Nat × LaneVal)) : List RegVal :=
  let val (l : Nat) : LaneVal := ((olds.find? fun e => e.1 == l).map (·.2)).getD LaneVal.zero
  match d with
  | .none => []
  | .vec r => [.vec r ((List.range 64).map val)]
  | .scal i => [.scal i ⟨((val 0).bits).setWidth 64, (val 0).p⟩]
  | .wgreg i => [.wgreg i ⟨((val 0).bits).setWidth 64, (val 0).p⟩]

/-- The lanes of an atomic's result. -/
def atomMask (lanes : List AtomLane) : Lanes := lanes.foldl (fun m l => m ||| BitVec.twoPow 64 l.lane) 0#64

/-- The lanes of an atomic that the owning device performs. -/
def remoteOps (cs : Bool) (op : AtomOp) (lanes : List AtomLane) : List (AtomOp × Nat × Word32 × Word32) :=
  lanes.filterMap fun l => l.loc.bind fun a => if !cs && isRemote a then some (op, a, l.x, l.y) else none

/-- The operation goes out to the owning device (R322). A failure of a returning atomic shows in its result, of the other kind at the
wave's next `.sys` release (R323). -/
def State.sendAtomic (s : State) (k : Nat) (pages : List VPage) (ops : List (AtomOp × Nat × Word32 × Word32))
    (returns : Bool) : State :=
  if ops.isEmpty then s
  else s.send { wave := some k, engine := none, asid := (s.waveAt k).id.asid.toNat, pages := pages, bytes := [], atomic := ops,
                reports := !returns, acked := false }

/-- Perform an atomic's lanes in ascending lane order, one on an uncached page at its home (R279); a damaged word gives a UE token (R268). The result becomes an
outstanding result of the wave. -/
def State.performAtom (s : State) (k gc : Nat) (cs : Bool) (op : AtomOp) (ord : OrdCode) (lanes : List AtomLane)
    (pc : Word64) (dst : Dest) (pages : List VPage) : State :=
  let r := lanes.foldl (fun (acc : List (Nat × LaneVal) × List (Nat × BitVec 8 × Nat) × State) l =>
    match l.loc with
    | none => (acc.1 ++ [(l.lane, LaneVal.zero)], acc.2)
    | some a =>
      if !cs && !isRemote a && acc.2.2.ueAt a then (acc.1, acc.2.1 ++ [(l.lane, 0x05#8, a)], acc.2.2)
      else
        let (old, s) := acc.2.2.atomAt gc cs op (if l.far then .dev else ord) a l.x l.y
        (acc.1 ++ [(l.lane, ⟨old, false⟩)], acc.2.1, s)) ([], [], s)
  let s := r.2.2.sendAtomic k pages (remoteOps cs op lanes) (dst != .none)
  match dst with
  | .none => s
  | _ =>
    let (toks, s) := s.makeTokens k pc r.2.1
    let far := lanes.filterMap fun l => l.loc.bind fun a => if !cs && isRemote a then some (l.lane, a) else none
    s.addPend k { Pend.plain (dst.ofLanes (r.1 ++ toks.map fun t => (t.1, ⟨t.2, true⟩))) (atomMask lanes) with
      remote := far, pc := pc, pages := if far.isEmpty then [] else pages }

/-! ## The store FIFO outside reproducible mode (R184) -/

/-- The local physical addresses that an effect writes. -/
def Eff.locals : Eff → List Nat
  | .store false _ _ bytes _ => bytes.map (·.1)
  | .atom false _ _ lanes _ _ _ => lanes.flatMap fun l => (l.loc.map fourAt).getD []
  | .unlock pa _ => (List.range 8).map (pa + ·)
  | _ => []

/-- Does one of these addresses lie in the divergence stack of the wave, a live wave of the context (R108)? -/
def State.inStack (s : State) (asid : Nat) (pas : List Nat) (w : Wave) : Bool :=
  w.id.asid.toNat == asid && w.st != .exited &&
    pas.any fun a => decide (w.pcs.stackBase ≤ a ∧ a < w.pcs.stackBase + 64 * (s.wgAt w.id.wgKey).kern.divdepth)

/-- A context's stores into its waves' divergence stacks leave their later control flow open (R108). -/
def State.strays (s : State) (asid : Nat) (pas : List Nat) : State :=
  { s with waves := s.waves.map fun (e : Nat × Wave) =>
      if s.inStack asid pas e.2 = true then (e.1, { e.2 with pcs := { e.2.pcs with stray := true } }) else e }

/-- Is a byte that a core has written still on its way to its home? -/
def State.onItsWay (s : State) (gc pa : Nat) : Bool :=
  (s.caches.wcb.find (unitKey gc pa)).isSome || (s.caches.l2.find (unitKey (gc / 4) pa)).any (·.dirty)

/-- An item that has left a wave counts until its bytes are at their home (R370). -/
def State.countLeft (s : State) (k : Nat) (pas : List Nat) : State :=
  if pas.isEmpty then s else s.modWaveAt k fun w => { w with left := w.left ++ [pas] }

/-- Perform one entry of a store FIFO: stores and atomics. -/
def State.performMem (s : State) (k : Nat) (e : Eff) : State :=
  let gc := (s.waveAt k).id.gcore
  let s := s.strays (s.waveAt k).id.asid.toNat e.locals
  let counted (s : State) : State := s.countLeft k (e.locals.filter (s.onItsWay gc))
  match e with
  | .store cs nc _ bytes pages => counted (s.performStore k gc cs nc bytes pages)
  | .atom cs op ord lanes pc dst pages => counted (s.performAtom k gc cs op ord lanes pc dst pages)
  | _ => s

/-- Does an entry stand in the store FIFO of the upper half of a pair (R105)? -/
def Eff.upper : Eff → Bool
  | .store _ _ up _ _ => up
  | .atom _ _ _ lanes _ _ _ => lanes.any fun l => decide (32 ≤ l.lane)
  | _ => false

/-- The bytes that an entry writes. -/
def Eff.cells : Eff → List Nat
  | .store cs _ _ bytes _ => bytes.map fun b => viewKey cs b.1
  | .atom cs _ _ lanes _ _ _ => lanes.flatMap fun l => (l.loc.map fun a => (fourAt a).map (viewKey cs)).getD []
  | _ => []

/-- The entry that leaves the store FIFO next, and what stays. Of a pair, whose halves have a FIFO each (R105), it is the oldest of either half,
by a free choice; where it shares a byte with an older entry of the other half, that one goes first, so that the pair's stores to a byte keep
its program order (log entry 24). -/
def leavesNext (tick : Nat) : List Eff → Option (Eff × List Eff)
  | [] => none
  | e :: t =>
    match t.findIdx? fun x => x.upper != e.upper with
    | none => some (e, t)
    | some i =>
      let x := t.getD i e
      if Config.otherHalf tick i && !(e :: t.take i).any fun y => y.cells.any x.cells.contains then some (x, e :: t.eraseIdx i) else some (e, t)

/-- Drain a wave's store FIFO, in order. -/
def State.drainFifo (s : State) (k : Nat) : State :=
  (s.waveAt k).fifo.foldl (fun s e => s.performMem k e) (s.modWaveAt k fun w => { w with fifo := [] })

/-- What a wave has sent to other devices that they have not acknowledged. -/
def State.unacked (s : State) (k : Nat) : Nat := (s.eng.outbox.filter fun x => x.wave == some k && !x.acked).length

/-- A wave's acknowledgement count (R370): what has left it and is not at its home, and what other devices have not acknowledged. A
submission is accepted in the step in which it leaves (R87). -/
def State.ackCount (s : State) (k : Nat) : Nat := (s.waveAt k).left.length + s.unacked k

/-- What a release at scope 1 to 5 makes of a core's write-combining buffer and its cluster's slice (R185). A write-back is the
acknowledgement of the wave's local stores and atomics (R370). -/
def State.releaseCaches (s : State) (k scope : Nat) : State :=
  let i := (s.waveAt k).id
  let s := s.wcbDrain i.gcore
  if scope < 3 then s
  else
    let s := s.l2WriteBack i.cluster fun _ => true
    s.modWaveAt k fun w => { w with left := [] }

/-- A release at scope 1 to 5 (R185). Held effects are not released: their maintenance is the commit's (R220). -/
def State.release (s : State) (k scope : Nat) : State :=
  if (s.waveAt k).repro then s else (s.drainFifo k).releaseCaches k scope

/-- Does a `.sys` release still wait for another device's acknowledgement of what the wave has sent (R185, R219)? -/
def State.sysWaits (s : State) (k scope : Nat) : Bool := scope == 5 && !(s.waveAt k).repro && s.unacked k != 0

/-- What an acquire at scope 1 to 5 drops (R185). -/
def State.acquireCaches (s : State) (i : WaveId) (scope : Nat) : State :=
  let s := s.l1Invalidate i.gcore
  if scope < 3 then s else s.l2DropClean i.cluster

/-- An acquire at scope 1 to 5 (R185). In reproducible mode its maintenance is the commit's (R220). -/
def State.acquire (s : State) (k scope : Nat) : State :=
  if (s.waveAt k).repro then s else s.acquireCaches (s.waveAt k).id scope

/-- A failed remote store makes the next `.sys` release raise MCHK (R323). -/
def Wave.sysReleaseTrap (w : Wave) (scope : Nat) : Option Nat := if scope = 5 then w.remoteFail else none

/-! ## Lock words (R228) -/

/-- The word of a lock that a wave holds. -/
def lockValue (handle : Word64) : Nat := 2 ^ 63 + handle.toNat

/-- Write eight bytes at their home. -/
def State.homeWrite64 (s : State) (pa x : Nat) : State := s.homeWrite (bytePairs pa 8 x)

/-- Take a free lock word; answers whether it was free. -/
def State.lockTake (s : State) (k pa : Nat) : Bool × State :=
  let s := s.homeTouch pa
  if s.home64 pa = 0 then (true, s.homeWrite64 pa (lockValue (s.waveAt k).id.handle)) else (false, s)

/-- Is the first of two registered waiters the one an UNLOCK picks: the greater PRIO.EFF, then the earlier STAMP? -/
def State.lockBefore (s : State) (a b : Nat × WaitEnt) : Bool :=
  let e (x : Nat × WaitEnt) := (s.waveAt x.2.waiter).env.eff.toNat
  decide (e b < e a) || (e a == e b && decide (a.2.stamp < b.2.stamp))

/-- The wait entry of the registered waiter that a lock passes to. -/
def State.lockHeir (s : State) (pa : Nat) : Option (Nat × WaitEnt) :=
  (s.belay.waits.filter fun e => e.2.kind == .lock && !(s.waveAt e.2.waiter).repro &&
      match (s.waveAt e.2.waiter).wait with
      | some w => w.pa == pa && !w.met
      | none => false).foldl (fun b e => match b with
    | none => some e
    | some x => if s.lockBefore e x then some e else some x) none

/-- UNLOCK at the home: false when the wave does not hold the lock; else the lock passes to a waiter or is freed. -/
def State.lockRelease (s : State) (k pa : Nat) : Bool × State :=
  let s := s.homeTouch pa
  if s.home64 pa ≠ lockValue (s.waveAt k).id.handle then (false, s)
  else match s.lockHeir pa with
    | none => (true, s.homeWrite64 pa 0)
    | some e =>
      let h := e.2.waiter
      (true, (s.homeWrite64 pa (lockValue (s.waveAt h).id.handle)).setMet h)

/-! ## Semaphores (R226, R227) -/

def semOwned (cfg : Word64) (asid : Nat) : Bool := cfg.getLsbD 10 && cfg.toNat % 2 ^ 10 == asid

/-- May the context use the semaphore? Cluster semaphores stand under 256 * cluster + index. -/
def State.semUsable (s : State) (dev : Bool) (cluster idx asid : Nat) : Bool :=
  semOwned (if dev then s.hub.semcfg.get 0#64 idx else s.hub.csemcfg.get 0#64 (256 * cluster + idx)) asid

def State.semCount (s : State) (dev : Bool) (cluster idx : Nat) : Word32 :=
  if dev then s.hub.sem.get 0#32 idx else s.hub.csem.get 0#32 (256 * cluster + idx)

/-- Mark the waves whose SEMWAIT the count now satisfies (R226). -/
def State.wakeSem (s : State) (dev : Bool) (cluster idx : Nat) : State :=
  s.waves.foldl (fun s e =>
    match e.2.wait with
    | some w =>
      if (if dev then w.kind == .semDev && w.pa == idx else w.kind == .semClu && w.pa == 256 * cluster + idx) &&
          decide (w.expect.toNat ≤ (s.semCount dev cluster idx).toNat) && !w.met && !e.2.repro then
        s.setMet e.1
      else s
    | none => s) s

/-- Add to a count, modulo 2^32, and wake the waiters it satisfies. -/
def State.semAdd (s : State) (dev : Bool) (cluster idx : Nat) (n : Word32) : State :=
  let c := s.semCount dev cluster idx + n
  let s := if dev then { s with hub := { s.hub with sem := s.hub.sem.set 0#32 idx c } }
    else { s with hub := { s.hub with csem := s.hub.csem.set 0#32 (256 * cluster + idx) c } }
  s.wakeSem dev cluster idx

/-- An action's increment: nothing when the semaphore is disabled or another context's (R226). -/
def State.semSignal (s : State) (dev : Bool) (cluster idx asid : Nat) : State :=
  if s.semUsable dev cluster idx asid then s.semAdd dev cluster idx 1#32 else s

/-! ## Records -/

/-- Write a completion record: W on MT 0 or MT 2 memory, else it is skipped (R88). -/
def State.writeRecord (s : State) (asid va : Nat) (bytes : List Byte) : State :=
  if va = 0 then s
  else match s.hubAddrs asid va bytes.length .store (fun t => t == 0#2 || t == 2#2) with
    | some pas =>
      let ps := pas.zip bytes
      ((s.gatherHome (pas.filter fun a => !isRemote a)).homeWrite (ps.filter fun e => !isRemote e.1)).sendRemote
        none none asid (pagesOf bytes.length [va]) (ps.filter fun e => isRemote e.1)
    | none => s

/-! ## Ending a wave -/

/-- Does any wave of the workgroup still run, or hold stores, commands or copies (R376, R90)? -/
def State.wgBusy (s : State) (wg : Nat) : Bool :=
  (s.wavesOfWg wg).any (fun e => e.2.st != .exited || !e.2.fifo.isEmpty) || !(s.wgAt wg).mma.isEmpty ||
    s.eng.copies.any fun e => e.2.wg == wg && !e.2.finished &&
      ((e.2.block.getD 5 0#8).getLsbD 7 || (e.2.block.getD 6 0#8).getLsbD 0)

/-- A wave that has a slot on its core (R113). -/
def Wave.resides (w : Wave) : Bool := w.st != .exited && w.st != .saved

/-- The locks of a context with no resident wave on their core are suspended (R193). -/
def State.suspendLocks (s : State) : State :=
  let here (l : ILock) : Bool := s.waves.any fun e => e.2.resides && e.2.id.gcore == l.core && e.2.id.asid.toNat == l.asid
  { s with caches := { s.caches with locks := s.caches.locks.map fun l => { l with active := l.active && here l } } }

/-- A wave leaves: its wait entry goes, what it solely holds is orphaned, its exit counts at every open barrier, its
outstanding results are discarded (R233, R223, R376). -/
def State.leave (s : State) (k : Nat) : State :=
  let w := s.waveAt k
  let s := (s.orphan k).dropEntry k
  let s := s.setWaveAt k { w with st := .exited, pend := [], wait := none, wreg := none, timew := none, mwait := none, stallOn := [],
                                  pcs := { w.pcs with slot0 := none, slot1 := none, depth := 0 } }
  (((s.completeBars w.id.wgKey).completeCbars w.id.wgKey).markWg w.id.wgKey).suspendLocks

/-- Action 0 of the management registers is over for the workgroups that a test picks (R317). -/
def State.endActPre (s : State) (p : Nat → Bool) : State := { s with sys := { s.sys with actPre := s.sys.actPre.filter fun k => !p k } }

/-- A workgroup whose waves have all exited and that holds nothing any more completes: its waves, its divergence stacks and
its resources are given up (R116, R109, R376). -/
def State.reap (s : State) (wg : Nat) : State :=
  match s.wgs.find wg with
  | none => s
  | some g =>
    if s.wgBusy wg || g.st == .killed then s
    else
      let s := { s with waves := s.waves.filter fun e => e.2.id.wgKey != wg, wgs := s.wgs.erase wg }
      let s := (s.endActPre (· == wg)).modCtxAt g.asid.toNat fun c =>
        { c with dstacks := c.dstacks.filter (fun e => e.1 != wg), images := c.images.filter fun e => e.1 != wg }
      s.modLaunchAt (launchKeyOf g.asid.toNat g.ltag.toNat) fun l => { l with done := l.done + 1 }

/-- A wave is killed, by PKILL or MCHK: its held effects go too, and its launch ends "partial" (R114, R123, R140). A wave in handler
mode holds nothing: what stands in its FIFO is still performed (R255). -/
def State.endWave (s : State) (k : Nat) : State :=
  let w := s.waveAt k
  let s := if w.repro then s.modWaveAt k fun w => { w with fifo := [] } else s
  (s.leave k).modLaunchAt w.id.launchKey fun l => { l with killed := l.killed + 1 }

/-- A wave is killed, and its workgroup completes with its last wave. -/
def State.killWave (s : State) (k : Nat) : State := (s.endWave k).reap (s.waveAt k).id.wgKey

/-- The context of a wave has met an MCHK (R330). The report names the wave's compute die, also where the error lies in the hub or in
a cache die: which die it then names the spec leaves open (DESIGN CHOICE, log entry 73). -/
def State.noteFault (s : State) (k : Nat) : State :=
  let i := (s.waveAt k).id
  s.modCtxAt i.asid.toNat fun c => { c with fault := some (0x13, i.die.toNat) }

/-! ## Traps -/

/-- The codes of R250. -/
def Cause.code : Cause → Nat
  | .mchk => 0x13 | .ifetch => 0x04 | .undef => 0x01 | .priv => 0x03 | .illop => 0x02 | .width => 0x0E
  | .segovf => 0x11 | .align => 0x05 | .xlate => 0x07 | .prot => 0x08 | .bounds => 0x06 | .poison => 0x09
  | .engrej => 0x0F | .mmaerr => 0x10 | .divstk => 0x12 | .deadlock => 0x0A | .trap => 0x0C | .brk => 0x14

/-- The priority of R250, 1 first. -/
def Cause.priority : Cause → Nat
  | .mchk => 1 | .ifetch => 2 | .undef => 3 | .priv => 4 | .illop => 5 | .width => 6 | .segovf => 7 | .align => 8
  | .xlate => 9 | .prot => 10 | .bounds => 11 | .poison => 12 | .engrej => 13 | .mmaerr => 14 | .divstk => 15
  | .deadlock => 16 | .trap => 17 | .brk => 18

/-- A trap with one FADDR for all its lanes. -/
def Trap.plain (c : Cause) (faddr : Word64) (mask : Lanes) : Trap := ⟨c, faddr, faddr, mask⟩

/-- Does the context direct this trap of this wave to its handler (R252)? -/
def Ctx.vectors (c : Ctx) (hm : Bool) (t : Trap) : Bool :=
  c.haddr != 0#64 && c.hvec.getLsbD t.cause.code && t.cause != .mchk && !hm

/-- CAUSE, EPC, FADDR and FMASK take the trap's values; each half reports its own lanes (R253, R105). -/
def Wave.reportTrap (w : Wave) (second : Bool) (t : Trap) : Wave :=
  { w with env := { w.env with cause := BitVec.ofNat 64 t.cause.code,
                               epc := ((w.pcs.slot second).map (·.pc)).getD 0#64 },
           mwait := none, stallOn := [],
           lo := { w.lo with faddr := t.faddr, fmask := (t.fmask.setWidth 32).setWidth 64 },
           hi := { w.hi with faddr := t.faddrHi, fmask := t.fmask >>> 32 } }

/-- Handler entry (R253): the slot's mask and number are saved, it continues at HADDR in the lanes of FMASK, the other
slot stops being eligible, and HM is set. -/
def Wave.enterHandler (w : Wave) (second : Bool) (haddr : Word64) (t : Trap) : Wave :=
  let w := w.reportTrap second t
  match w.pcs.slot second with
  | none => w
  | some x =>
    { w with env := { w.env with hm := true, hsaveSlot := second, hsaveMask := x.mask },
             pcs := w.pcs.setSlot second (some { x with pc := haddr, mask := t.fmask }) }

/-- The fault record of R257. -/
def faultRecord (s : State) (w : Wave) : List Byte :=
  [0xF1#8, w.env.cause.setWidth 8, if w.env.hm then 1#8 else 0#8] ++ zeros 5 ++ bytes64 w.id.handle.toNat ++
    bytes64 w.env.epc.toNat ++ bytes64 (if w.lo.fmask = 0#64 then w.hi.faddr else w.lo.faddr).toNat ++
    bytes64 (w.hi.fmask.setWidth 32 ++ w.lo.fmask.setWidth 32 : BitVec 64).toNat ++ bytes64 s.time ++ zeros 464

/-- A wave that parks on a trap; one under a pre-emption request is taken at once, in full (R115, R260). -/
def Wave.parked (w : Wave) : Wave :=
  if w.st == .preempting then { w with held := .parkedFault, pre := { w.pre with taken := true, full := true } }
  else { w with st := .parkedFault, held := .parkedFault }

/-- A wave parks on a trap (R257): the fault record, then the fault semaphore. DLREC does not move: R239 and R257 do not say whether "the latest
record written for the context" includes fault records, which take slots of the same area; the model keeps DLREC to deadlock records (DESIGN CHOICE,
log entry 89). -/
def State.parkFault (s : State) (k : Nat) (second : Bool) (t : Trap) : State :=
  let w := ((s.waveAt k).reportTrap second t).parked
  let s := s.setWaveAt k w
  let asid := w.id.asid.toNat
  let (va, s) := s.nextRecord asid
  (s.hubWrite asid va (faultRecord s w)).2.semSignal true 0 (s.ctxAt asid).fsem asid

/-- QCLK moves to the next multiple of Q when a quantum ends early (R121). -/
def nextQuantum (qlog : Nat) (q : Word64) : Word64 := BitVec.ofNat 64 ((q.toNat / 2 ^ qlog + 1) * 2 ^ qlog)

/-- An effect in the FIFO that returns a result: an atomic, or in reproducible mode a TRYLK (R165). -/
def Eff.returns : Eff → Bool
  | .atom _ _ _ _ _ .none _ => false
  | .atom .. => true
  | .trylk _ _ .none _ => false
  | .trylk .. => true
  | .spmAtom _ _ .none => false
  | .spmAtom .. => true
  | _ => false

/-- Taking a trap (R249 to R257): outstanding results are written first; MCHK ends the wave; a vectored trap enters the
handler, in a reproducible context once the wave's quantum has committed (R255); any other parks the wave. -/
def State.takeTrapAt (s : State) (k : Nat) (second : Bool) (t : Trap) : State :=
  let drained := if !(s.waveAt k).repro && (s.waveAt k).fifo.any Eff.returns then s.drainFifo k else s
  let s := drained.flushPend k
  let w := s.waveAt k
  let c := s.ctxAt w.id.asid.toNat
  if t.cause = .mchk then ((s.setWaveAt k (w.reportTrap second t)).noteFault k).killWave k
  else if c.vectors w.env.hm t then
    if w.id.repro then
      s.setWaveAt k { w with trapPend := some t, ended := true, qclk := nextQuantum c.qlog w.qclk,
                             pcs := { w.pcs with lastIssued := second } }
    else s.setWaveAt k (w.enterHandler second c.haddr t)
  else s.parkFault k second t

/-- The issuing wave takes a trap. -/
def State.takeTrap (s : State) (t : Trap) : State :=
  let s := s.takeTrapAt s.iss.cur s.iss.slot t
  { s with iss := { s.iss with out := .trapped } }

/-- The return from a handler (R256): HM is cleared, the saved slot resumes at EPC with its saved mask, the other slot
becomes eligible again. -/
def Wave.leaveHandler (w : Wave) : Wave :=
  match w.pcs.slot w.env.hsaveSlot with
  | none => w
  | some x =>
    { w with env := { w.env with hm := false },
             pcs := w.pcs.setSlot w.env.hsaveSlot (some { x with pc := w.env.epc, mask := w.env.hsaveMask }) }

/-! ## Retiring -/

/-- A wave that may issue, as far as its state goes: Ready, or Pre-empting and Ready before that (R113). -/
def Wave.runs (w : Wave) : Bool := w.st == .ready || (w.st == .preempting && w.held == .ready && !w.pre.taken)

/-- Change what the wave does, under a pre-emption that is pending (R114). -/
def Wave.become (w : Wave) (st : WaveSt) : Wave := if w.st == .preempting then { w with held := st } else { w with st := st }

/-- Has the wave variable-latency results outstanding (R147)? -/
def Wave.outstanding (w : Wave) : Bool := !w.pend.isEmpty || w.fifo.any Eff.returns

/-- How many bytes the issuing instruction takes: its prefix is one word more (R160). -/
def Issue.bytes (i : Issue) (words : Nat) : Word64 := BitVec.ofNat 64 (4 * words + if i.pfx.isSome then 4 else 0)

/-- The counts and states that every retirement moves (R121, R147, R260, R301); `due` lists the classes that have been cut for TFORCE. -/
def Wave.tally (w : Wave) (sw : Bool) (qlog : Nat) (due : List Nat) : Wave :=
  let w := { (if w.env.hm then w else { w with qclk := w.qclk + 1#64 }) with mwait := none, stallOn := [] }
  let w := if w.repro && w.qclk.toNat % 2 ^ qlog == 0 then { w with ended := true } else w
  let w := { w with pre := { w.pre with since := w.pre.since + 1, sinceCut := due.map fun c => (c, w.pre.sinceCut.get 0 c + 1) } }
  if sw && w.outstanding then w.become .parkedS else w

/-- Retire the issuing instruction; the program counter is where the instruction left it. -/
def State.retireAt (s : State) (sw : Bool) : State :=
  let w := s.wave
  { (s.setWave (w.tally sw s.ctx.qlog s.dueClasses)) with iss := { s.iss with out := .retired } }

/-- Set the issuing slot's program counter. -/
def State.setPc (s : State) (pc : Word64) : State :=
  let w := s.wave
  match w.pcs.slot s.iss.slot with
  | none => s
  | some x => s.setWave { w with pcs := w.pcs.setSlot s.iss.slot (some { x with pc := pc }) }

/-- The issuing slot's program counter and mask. -/
def State.pc (s : State) : Word64 := ((s.wave.pcs.slot s.iss.slot).map (·.pc)).getD 0#64
def State.mask (s : State) : Lanes := ((s.wave.pcs.slot s.iss.slot).map (·.mask)).getD 0#64

/-- Retire an instruction of `words` words and go on after it. -/
def State.retireN (s : State) (sw : Bool) (words : Nat) : State := (s.setPc (s.pc + s.iss.bytes words)).retireAt sw

/-- Retire a one-word instruction and go on after it. -/
def State.retire (s : State) (sw : Bool) : State := s.retireN sw 1

/-- The instruction cannot issue yet: nothing changes but that the wave is passed over for the rest of the cycle. -/
def State.stall (s : State) : State :=
  { (s.setWave { s.wave with stalled := true }) with iss := { s.iss with out := .stalled } }

/-- The wave's quantum ends early at the instruction that has just retired (R121, R122). -/
def State.endQuantum (s : State) : State :=
  let w := s.wave
  if w.repro && !w.ended then
    s.setWave { w with ended := true, qclk := nextQuantum s.ctx.qlog (w.qclk - 1#64) }
  else s

/-- A quantum must end before this instruction (R122): the instruction issues again in the next quantum. -/
def State.endQuantumBefore (s : State) : State :=
  let w := s.wave
  (s.setWave { w with ended := true, qclk := nextQuantum s.ctx.qlog w.qclk }).stall

/-! ## Shedding (R301) -/

/-- A wave whose class is cut enters Shed and keeps the state it held (R114, R301). -/
def State.shedIfCut (s : State) (k : Nat) : State :=
  let w := s.waveAt k
  if s.isCut k && (w.st == .ready || w.st == .waitReg || w.st == .waitUnreg) then s.shedWave k else s

/-- A wave returns to Ready; one whose class is cut is shed then (R301). -/
def State.toReady (s : State) (k : Nat) : State := (s.modWaveAt k fun w => w.become .ready).shedIfCut k

end Sys2Proof.Machine
end

