-- ==== Sys2Proof/Machine/Operands.lean ====
section
/-!
DEFINITION. Operand forms (R156 to R163): reading sources, permutations, guards, register groups, the checks of R170
that an instruction's operands and prefix undergo, and writing a result to a destination.
-/

namespace Sys2Proof

/-- Vector operands: a vector register or LANEID (R156). -/
def Opd.isVec : Opd → Bool
  | .v _ | .laneid => true
  | _ => false

/-- A vector register. -/
def Machine.isVecReg : Opd → Bool
  | .v _ => true
  | _ => false

def Opd.isBad : Opd → Bool
  | .bad _ => true
  | _ => false

/-- R156: an operand that cannot be written. -/
def Opd.readOnly : Opd → Bool
  | .laneid | .waveid | .time | .bad _ => true
  | _ => false

def Opd.isScalarReg : Opd → Bool
  | .s _ | .g _ => true
  | _ => false

/-- Is the operand an s or g register; is it one of those or ZERO; is it an s register or ZERO? -/
def Opd.sg (o : Opd) : Bool := o.isScalarReg
def Opd.sgz (o : Opd) : Bool := o.isScalarReg || o == .zero
def Opd.isS : Opd → Bool | .s _ => true | _ => false
def Opd.sz (o : Opd) : Bool := o.isS || o == .zero

end Sys2Proof

namespace Sys2Proof.Machine

/-! ## Names -/

/-- What an operand code names (R156), vector registers by their absolute number (R150). -/
inductive Ref where
  | vec (r : Nat)
  | scal (i : Nat)
  | wgreg (i : Nat)
  | zero
  | laneid
  | waveid
  | time
  | bad
deriving DecidableEq, Repr

def refOf (wbase : BitVec 8) : Opd → Ref
  | .v c => .vec (wbase.toNat + c.toNat)
  | .s i => .scal i.val
  | .g i => .wgreg i.toNat
  | .zero => .zero
  | .laneid => .laneid
  | .waveid => .waveid
  | .time => .time
  | .bad _ => .bad

def State.ref (s : State) (o : Opd) : Ref := refOf s.wave.regs.wbase o

def Ref.dest : Ref → Dest
  | .vec r => .vec r
  | .scal i => .scal i
  | .wgreg i => .wgreg i
  | _ => .none

def State.dest (s : State) (o : Opd) : Dest := (s.ref o).dest

/-! ## The prefix -/

def noXw : Xw := ⟨0#3, 0#3, 0#3, 0#3, 0#3, false, 0#10⟩

/-- The prefix in force; without one every field is zero. -/
def State.xw (s : State) : Xw := s.iss.pfx.getD noXw

/-- R103's code of the kernel's width declaration: lanes in a segment (0: undeclared). -/
def widthLanes (w : BitVec 3) : Nat := match w.toNat with | 1 => 8 | 2 => 16 | 3 => 32 | 4 => 64 | _ => 0

/-- R159, R104: the lane that a lane reads under a permutation. -/
def permSrc (width perm arg l : Nat) : Nat :=
  let half := l / 32 * 32
  let i := l % 32
  if perm = 0 then l
  else if perm = 1 then half + (i ^^^ 2 ^ arg)
  else if perm = 2 then half + (8 * (i / 8) + (i + arg) % 8)
  else if perm = 3 then half + (i ^^^ (2 ^ (arg + 1) - 1))
  else
    let n := 8 * (perm - 4) + arg
    if width = 8 ∨ width = 16 then half + i / width * width + n else half + n

/-- Is a permutation illegal (R159, R104)? -/
def permIllegal (width perm arg : Nat) : Bool :=
  (perm == 1 && decide (5 ≤ arg)) || (perm == 3 && decide (5 ≤ arg)) ||
  ((width == 8 || width == 16) &&
    ((perm == 1 && decide (width ≤ 2 ^ arg)) || (perm == 3 && decide (width < 2 ^ (arg + 1))) ||
     (decide (4 ≤ perm) && decide (width ≤ 8 * (perm - 4) + arg))))

/-! ## Reading -/

/-- A g register as the wave sees it: the last value it holds itself, else the register (R124). -/
def State.gSrc (s : State) (i : Nat) : ScalVal :=
  match s.wave.fifo.reverse.findSome? (fun e => match e with | .gwrite j v => if j = i then some v else none | _ => none) with
  | some v => v
  | none => s.wg.g[i]?.getD ScalVal.zero

/-- Read a scalar operand: 64 bits and P. WAVEID of a scalar instruction of a pair is the lower wave's: R102 gives each hardware wave its own, and R105
keeps the s registers of both alike, which the spec does not reconcile (DESIGN CHOICE, log entry 24). -/
def State.readScal (s : State) (r : Ref) : ScalVal :=
  match r with
  | .scal i => s.wave.regs.s[i]?.getD ScalVal.zero
  | .wgreg i => s.gSrc i
  | .waveid => ⟨BitVec.ofNat 64 s.wave.id.wid, false⟩
  | .time => ⟨BitVec.ofNat 64 (s.time % 2 ^ 32), false⟩
  | _ => ScalVal.zero

/-- Read a scalar operand as lane `l` finds it: a lane of a pair's upper half reads that half's copy of an s register (R105, R383). -/
def State.readScalAt (s : State) (l : Nat) (r : Ref) : ScalVal :=
  match r with
  | .scal i => if 32 ≤ l then (s.wave.regs.sHi.find i).getD (s.readScal r) else s.readScal r
  | r => s.readScal r

/-- A lane of a vector register. -/
def State.readVec (s : State) (r l : Nat) : LaneVal := s.wave.regs.v.get LaneVal.zero (64 * r + l)

/-- Read register `k` of an operand's group in a lane, permuted (R157, R159). A scalar gives its low 32 bits. -/
def State.readLane (s : State) (perm arg : BitVec 3) (r : Ref) (k l : Nat) : LaneVal :=
  let l' := permSrc (widthLanes s.wg.kern.width) perm.toNat arg.toNat l
  match r with
  | .vec n => s.readVec (n + k) l'
  | .laneid => ⟨BitVec.ofNat 32 l', false⟩
  | .waveid => ⟨BitVec.ofNat 32 (s.wave.id.wid + l / 32), false⟩
  | _ => let x := s.readScalAt l r; ⟨x.bits.setWidth 32, x.p⟩

/-- The A and B operands of an instruction, in a lane of a vector instruction or as a whole. -/
def State.srcA (s : State) (vector : Bool) (o : Opd) (l : Nat) : ScalVal :=
  if vector then let x := s.readLane s.xw.permA s.xw.argA (s.ref o) 0 l; ⟨x.bits.setWidth 64, x.p⟩ else s.readScalAt l (s.ref o)
def State.srcB (s : State) (vector : Bool) (o : Opd) (l : Nat) : ScalVal :=
  if vector then let x := s.readLane s.xw.permB s.xw.argB (s.ref o) 0 l; ⟨x.bits.setWidth 64, x.p⟩ else s.readScalAt l (s.ref o)
/-- D read as a source takes no permutation (R159). -/
def State.srcD (s : State) (vector : Bool) (o : Opd) (l : Nat) : ScalVal :=
  if vector then let x := s.readLane 0#3 0#3 (s.ref o) 0 l; ⟨x.bits.setWidth 64, x.p⟩ else s.readScalAt l (s.ref o)

/-- A predicate register; p0 reads true and never poisoned (R148). -/
def State.readPred (s : State) (i : Nat) : PredVal :=
  if i = 0 then ⟨BitVec.allOnes 64, 0#64⟩ else s.wave.regs.p[i]?.getD PredVal.false

/-- The token of a poisoned value (R243). -/
def ScalVal.tok (v : ScalVal) : Option Word32 := if v.p then some (v.bits.setWidth 32) else none
def LaneVal.tok (v : LaneVal) : Option Word32 := if v.p then some v.bits else none

/-- The first token of a list, an entry of none skipped (R331). -/
def firstTok (l : List (Option Word32)) : Option Word32 := l.findSome? id

/-! ## Guards (R163) -/

/-- The active lanes; a poisoned guard lane counts as active. -/
def State.active (s : State) : Lanes :=
  let g := s.readPred s.xw.pred.toNat
  if s.xw.pred = 0#3 then s.mask else s.mask &&& (g.poi ||| (if s.xw.pneg then ~~~g.val else g.val))

/-- The guard's token in a lane (R332). -/
def State.guardTok (s : State) (l : Nat) : Option Word32 :=
  if s.xw.pred != 0#3 && (s.readPred s.xw.pred.toNat).poi.getLsbD l then some 0#32 else none

/-! ## Forms and their checks -/

/-- How an instruction takes an XW prefix (R162): not at all; with IMMHI zero; with a wide immediate. -/
inductive XwRule where
  | no | plain | wide
deriving DecidableEq, Repr

/-- An operand and how many registers its group has as a vector and as a scalar group (R151). -/
structure Grp where
  o : Opd
  nv : Nat := 1
  ns : Nat := 1
deriving DecidableEq, Repr

/-- The operands of an instruction: sources under PERM-A and PERM-B, D where it is a destination, D where it is only
read; whether the scalar and vector mixing rule of R157 applies, and whether it is a cross-lane instruction. -/
structure Form where
  a : Option Grp := none
  b : Option Grp := none
  dst : Option Grp := none
  data : Option Grp := none
  xw : XwRule := .plain
  mixing : Bool := true
  xln : Bool := false
  lanewise : Bool := false
deriving DecidableEq, Repr

def Form.sources (f : Form) : List Grp := f.a.toList ++ f.b.toList ++ f.data.toList
def Form.all (f : Form) : List Grp := f.sources ++ f.dst.toList

/-- R157: a vector instruction. -/
def Form.isVec (f : Form) : Bool := f.all.any fun g => g.o.isVec

/-- R151: a group that is misaligned or reaches beyond its registers. -/
def Grp.misfit (g : Grp) (wbase : BitVec 8) : Bool :=
  match g.o with
  | .v c => (wbase.toNat + c.toNat) % g.nv != 0 || decide (63 < c.toNat + (g.nv - 1))
  | .s i => i.val % g.ns != 0 || decide (47 < i.val + (g.ns - 1))
  | .g i => i.toNat % g.ns != 0 || decide (7 < i.toNat + (g.ns - 1))
  | _ => false

/-- A permutation on an operand that takes none (R159). -/
def permMisused (perm : BitVec 3) (g : Option Grp) : Bool :=
  perm != 0#3 && match g with | some g => !g.o.isVec | none => true

/-- The illegal uses of a prefix (R159, R162, R163). -/
def State.xwIllegal (s : State) (f : Form) : Bool :=
  match s.iss.pfx with
  | none => false
  | some x =>
    let w := widthLanes s.wg.kern.width
    f.xw == .no || (f.xw == .plain && x.immhi != 0#10) || (x.pneg && x.pred == 0#3) ||
    (x.pred != 0#3 && !(f.isVec || f.xln || f.lanewise)) || permMisused x.permA f.a || permMisused x.permB (f.b.orElse fun _ => f.data) ||
    permIllegal w x.permA.toNat x.argA.toNat || permIllegal w x.permB.toNat x.argB.toNat

/-- The ILLOP conditions of R170 that every instruction shares. -/
def State.illop (s : State) (f : Form) : Bool :=
  f.all.any (fun g => g.o.isBad || g.misfit s.wave.regs.wbase) ||
  (match f.dst with | some g => g.o.readOnly || (f.mixing && g.o.isScalarReg && f.sources.any fun x => x.o.isVec) | none => false) ||
  s.xwIllegal f

/-- R103: a cross-lane instruction or a permutation in a kernel with no declared width. -/
def State.widthTrap (s : State) (f : Form) : Bool :=
  s.wg.kern.width == 0#3 && (f.xln || s.xw.permA != 0#3 || s.xw.permB != 0#3)

/-- R150: a vector register in a segment the wave does not have. -/
def State.segovf (s : State) (f : Form) : Bool :=
  f.all.any fun g => match s.ref g.o with | .vec r => decide (32 * s.wg.kern.seg ≤ r + (g.nv - 1)) | _ => false

/-- A trap that reports the instruction word (R250). -/
def State.wordTrap (s : State) (c : Cause) : Trap := Trap.plain c (s.iss.word.setWidth 64) s.mask

/-- The trap of the operand checks, if any, in R250's order; `extra` are the instruction's own ILLOP conditions. -/
def State.formTrap (s : State) (f : Form) (extra : Bool) : Option Trap :=
  if s.illop f || extra then some (s.wordTrap .illop)
  else if s.widthTrap f then some (s.wordTrap .width)
  else if s.segovf f then some (s.wordTrap .segovf)
  else none

/-! ## Guarding a meaning -/

/-- Is the issuing slot of a wave occupied? Every encoded instruction asks this first. -/
def State.issuing (s : State) : Bool := (s.wave.pcs.slot s.iss.slot).isSome

/-- Run a body in the issuing slot unless a trap stands before it. -/
def State.guarded (s : State) (t : Option Trap) (body : State → Out) : Out :=
  if s.issuing then
    match t with
    | some t => .next (s.takeTrap t)
    | none => body s
  else .fault .noSlot

/-! ## Results -/

/-- What one lane (or the one scalar result) of an instruction comes to: an earlier token, a value with its flags, or
a new token. -/
inductive LRes where
  | tok (t : Word32)
  | val (x : Word64) (fl : BitVec 6)
  | fresh (code : BitVec 8) (addr : Nat) (fl : BitVec 6)
deriving DecidableEq, Repr

/-- The flags a result adds (R39). -/
def LRes.flags : LRes → BitVec 6
  | .tok _ => 0#6
  | .val _ f => f
  | .fresh _ _ f => f

def orAll (l : List (BitVec 6)) : BitVec 6 := l.foldl (· ||| ·) 0#6

/-- The set of lanes of a list. -/
def maskOf (ls : List Nat) : Lanes := ls.foldl (fun m l => m ||| BitVec.twoPow 64 l) 0#64

/-- The value of a result, its new token looked up. -/
def LRes.scal (toks : List (Nat × Word32)) (l : Nat) : LRes → ScalVal
  | .tok t => ⟨t.setWidth 64, true⟩
  | .val x _ => ⟨x, false⟩
  | .fresh .. => ⟨(((toks.find? fun t => t.1 == l).map (·.2)).getD 0#32).setWidth 64, true⟩

/-- The register writes for a list of lane results in a destination. A scalar result stands at lane 0, that of a pair's upper half,
where it has one of its own, at lane 32 (R383); a g register takes that of lane `top` (R112). -/
def Dest.writes (d : Dest) (top : Nat) (rs : List (Nat × ScalVal)) : List RegVal :=
  let at_ (l : Nat) : Option ScalVal := (rs.find? fun e => e.1 == l).map (·.2)
  let val (l : Nat) : ScalVal := (at_ l).getD ScalVal.zero
  match d with
  | .none => []
  | .vec r => [.vec r ((List.range 64).map fun l => ⟨(val l).bits.setWidth 32, (val l).p⟩)]
  | .scal i => .scal i (val 0) :: ((at_ 32).map (.scalHi i)).toList
  | .wgreg i => [.wgreg i ((at_ top).getD (val 0))]

/-- The lanes in which a result is outstanding: a scalar one counts as lane 0. -/
def Dest.mask (d : Dest) (ls : List Nat) : Lanes :=
  match d with
  | .vec _ => maskOf ls
  | _ => 1#64

/-- The lane of the half whose write of a g register stands: that of the higher slot (R112). -/
def WaveId.topLane (i : WaveId) : Nat := if i.paired && decide (i.slot.toNat < i.slotHi.toNat) then 32 else 0

/-- The faults among lane results. -/
def freshOf (rs : List (Nat × LRes)) : List (Nat × BitVec 8 × Nat) :=
  rs.filterMap fun e => match e.2 with | .fresh c a _ => some (e.1, c, a) | _ => none

/-- Write results to a destination: new tokens and flags first; at once, or later for a variable-latency instruction. -/
def State.putResults (s : State) (late : Bool) (d : Dest) (rs : List (Nat × LRes)) : State :=
  let k := s.iss.cur
  let (toks, s1) := s.makeTokens k s.pc (freshOf rs)
  let s2 := s1.orFlags k (orAll ((rs.filter fun e => e.1 < 32).map fun e => e.2.flags))
    (orAll ((rs.filter fun e => 32 ≤ e.1).map fun e => e.2.flags))
  let ws := d.writes s.wave.id.topLane (rs.map fun e => (e.1, e.2.scal toks e.1))
  let m := d.mask (rs.map (·.1))
  if late then s2.addPend k (Pend.plain ws m) else (s2.writeRegs k m ws).noteG k ws

/-- The lanes an instruction works in: the active lanes, or once for a scalar instruction; of a pair whose halves hold different
copies of some s register, once for each half (R105, R383). -/
def State.workLanes (s : State) (vector : Bool) : List Nat :=
  if vector then lanesOf s.active else if s.wave.id.paired && !s.wave.regs.sHi.isEmpty then [0, 32] else [0]

/-- An instruction that computes lane by lane from its sources, writes D and goes on. -/
def State.compute (s : State) (sw late : Bool) (f : Form) (extra : Bool) (d : Opd) (lane : State → Nat → LRes) : Out :=
  s.guarded (s.formTrap f extra) fun s =>
    .next ((s.putResults late (s.dest d) ((s.workLanes f.isVec).map fun l => (l, lane s l))).retire sw)

/-- Write a predicate in the active lanes, from one result for each lane: none is a poisoned lane (R332). -/
def State.putPred (s : State) (late : Bool) (p : Nat) (rs : List (Nat × Option Bool)) : State :=
  let val := maskOf ((rs.filter fun e => e.2 == some true).map (·.1))
  let poi := maskOf ((rs.filter fun e => e.2.isNone).map (·.1))
  let m := maskOf (rs.map (·.1))
  if late then s.addPend s.iss.cur (Pend.plain [.pred p ⟨val, poi⟩] m) else s.deliver s.iss.cur m (.pred p ⟨val, poi⟩)

/-! ## Raising poison (R247) -/

/-- The POISON trap of an instruction, from the tokens it raises for in each active lane. -/
def poisonTrap (lanes : List Nat) (tok : Nat → Option Word32) : Option Trap :=
  let bad := lanes.filter fun l => (tok l).isSome
  let first := fun (ls : List Nat) => (ls.head?.bind tok).map fun t => t.setWidth 64
  match bad with
  | [] => none
  | l :: _ =>
    let t := ((tok l).getD 0#32).setWidth 64
    some ⟨.poison, (first (bad.filter (· < 32))).getD t, (first (bad.filter (32 ≤ ·))).getD t, maskOf bad⟩

/-- The POISON trap for scalar sources: every lane of the slot. -/
def State.poisonScal (s : State) (srcs : List Opd) : Option Trap :=
  match firstTok (srcs.map fun o => (s.readScal (s.ref o)).tok) with
  | some t => some (Trap.plain .poison (t.setWidth 64) s.mask)
  | none => none

/-- The value of a scalar operand. -/
def State.sval (s : State) (o : Opd) : Word64 := (s.readScal (s.ref o)).bits

/-- The trap of an instruction that takes no prefix and whose operands have columns of their own: ILLOP outside them,
then POISON for its sources (R247). -/
def State.sysTrap (s : State) (bad : Bool) (srcs : List Opd) : Option Trap :=
  (s.formTrap { xw := .no } bad).orElse fun _ => s.poisonScal srcs

/-- The first of several traps, listed in R250's order. -/
def firstTrap (ts : List (Option Trap)) : Option Trap := ts.findSome? id

end Sys2Proof.Machine
end

