-- ==== Sys2Proof/Machine/Flags.lean ====
section
/-!
DEFINITION. FMODE, FFLAGS and FTV as the arithmetic uses them (R38 to R40, R52), packed types, and the conditions of the
compares (R168).
-/

namespace Sys2Proof.Machine

/-- The wave's floating-point environment. -/
def State.fenv (s : State) : FEnv := FEnv.ofFmode s.wave.env.fmode

/-- A floating-point result as a lane result: its bits and the flags it raises. -/
def FRes.lres (r : FRes) : LRes := .val (BitVec.ofNat 64 r.bits) r.flags

/-- R367, R47: under TSAT a saturation event gives a CONV token, and only SV is recorded. -/
def FRes.saturating (tsat : Bool) (r : FRes) : LRes :=
  if tsat && r.flags &&& flSV != 0#6 then .fresh 0x07#8 0 flSV else r.lres

/-- The element format of a FOP or FFN type (R377). -/
def ftypeFmt : FType → FFmt
  | .f32 => fp32
  | .f16x2 => fp16
  | .bf16x2 => bf16

/-- Do an operation on each element of a type: one for f32, the two halves otherwise (R378). -/
def mapElems (t : FType) (f : Nat → FRes) : FRes :=
  match t with
  | .f32 => f 0
  | _ => packRes 16 [f 0, f 1]

/-- Element `e` of a 32-bit source. -/
def elemOf (t : FType) (x : Word64) (e : Nat) : Nat :=
  match t with
  | .f32 => x.toNat % 2 ^ 32
  | _ => fieldAt x.toNat 16 e

/-- ICMP's conditions on two's-complement values. -/
def icondHolds (c : ICond) (x y : Int) : Bool :=
  match c with
  | .eq => x == y
  | .ne => x != y
  | .lt => decide (x < y)
  | .le => decide (x ≤ y)
  | .gt => decide (y < x)
  | .ge => decide (y ≤ x)

/-- FCMP's conditions and flags (R379): the ordering compares set NV for any NaN, the others for a signalling one. -/
def fcondHolds (c : FCond) (a b : Fp) : Bool × BitVec 6 :=
  let r := frel a b
  let sn := snanFlag [a, b]
  let anyNan := if a.isNan || b.isNan then flNV else 0#6
  match c with
  | .eq => (r == .equal, sn)
  | .ne => (r != .equal, sn)
  | .lt => (r == .less, anyNan)
  | .le => (r == .less || r == .equal, anyNan)
  | .gt => (r == .greater, anyNan)
  | .ge => (r == .greater || r == .equal, anyNan)
  | .ord => (r != .unordered, sn)
  | .uno => (r == .unordered, sn)

end Sys2Proof.Machine
end

