-- ==== Sys2Proof/Machine/Iop.lean ====
section
/-!
DEFINITION. The integer operations of major 2 (R333, R334, R337, R339, R355, R356, R363, R368, R399, R428, R432, R435,
R445, R458).
-/

namespace Sys2Proof.Machine

/-- A value of an IOP from A, B and D at width `w`: 32 in a lane, 64 for a scalar instruction (R331). -/
abbrev IopFn := (w : Nat) → BitVec w → BitVec w → BitVec w → BitVec w

/-- The operands of an IOP. -/
def iopForm (d a : Opd) (b : Option Opd) : Form :=
  { a := some { o := a }, b := b.map fun o => { o := o }, dst := some { o := d } }

/-- The value of an IOP at its width. -/
def iopValue (vector : Bool) (f : IopFn) (x y z : Word64) : Word64 :=
  if vector then (f 32 (x.setWidth 32) (y.setWidth 32) (z.setWidth 32)).setWidth 64 else f 64 x y z

/-- B in a lane, where the instruction has one. -/
def State.optB (s : State) (vector : Bool) (b : Option Opd) (l : Nat) : ScalVal :=
  match b with
  | some o => s.srcB vector o l
  | none => ScalVal.zero

/-- One lane of R333's procedure. -/
def iopLane (vector : Bool) (d a : Opd) (b : Option Opd) (readsD : Bool) (f : IopFn) (s : State) (l : Nat) : LRes :=
  let x := s.srcA vector a l
  let y := s.optB vector b l
  let z := if readsD then s.srcD vector d l else ScalVal.zero
  match firstTok [x.tok, y.tok, z.tok, s.guardTok l] with
  | some t => .tok t
  | none => .val (iopValue vector f x.bits y.bits z.bits) 0#6

/-- R333: an IOP. -/
def State.iop (s : State) (sw : Bool) (d a : Opd) (b : Option Opd) (readsD : Bool) (f : IopFn) : Out :=
  s.compute sw false (iopForm d a b) false d (iopLane (iopForm d a b).isVec d a b readsD f)

/-- Clamp a sum to the signed range of `w` bits (R337). -/
def satAdd (w : Nat) (x : Int) : BitVec w :=
  BitVec.ofInt w (min (max x (-(2 ^ (w - 1) : Nat))) ((2 ^ (w - 1) : Nat) - 1))

/-- R355, R356: position and length from B. -/
def fieldPos (w : Nat) (b : BitVec w) : Nat := min (b.toNat % 256) w
def fieldLen (w : Nat) (b : BitVec w) : Nat := min (b.toNat / 256 % 256) (w - fieldPos w b)

/-- R355: extract a field, signed or unsigned. -/
def bfe (signed : Bool) : IopFn := fun w a b _ =>
  let len := fieldLen w b
  let x := (a >>> fieldPos w b).setWidth len
  if signed then x.signExtend w else x.setWidth w

/-- R356: insert a field of A into D. -/
def bfi : IopFn := fun w a b d =>
  let m := BitVec.ofNat w ((2 ^ fieldLen w b - 1) * 2 ^ fieldPos w b)
  (d &&& ~~~m) ||| ((a <<< fieldPos w b) &&& m)

/-- The number of zero bits above the highest set bit (R363). -/
def clz : IopFn := fun w a _ _ => BitVec.ofNat w (if a = 0#w then w else w - 1 - Nat.log2 a.toNat)

/-- The number of one bits. -/
def popc : IopFn := fun w a _ _ => BitVec.ofNat w (((List.range w).filter a.getLsbD).length)

/-- R432: the count is B mod w. -/
def shiftCount (w : Nat) (b : BitVec w) : Nat := b.toNat % w

def execAdd (sw : Bool) (d a b : Opd) (s : State) : Out := s.iop sw d a (some b) false fun _ x y _ => x + y
def execSub (sw : Bool) (d a b : Opd) (s : State) : Out := s.iop sw d a (some b) false fun _ x y _ => x - y
def execMul (sw : Bool) (d a b : Opd) (s : State) : Out := s.iop sw d a (some b) false fun _ x y _ => x * y
def execMulh (sw : Bool) (d a b : Opd) (s : State) : Out :=
  s.iop sw d a (some b) false fun w x y _ => BitVec.ofInt w ((x.toInt * y.toInt) / (2 ^ w : Nat))
def execMulhU (sw : Bool) (d a b : Opd) (s : State) : Out :=
  s.iop sw d a (some b) false fun w x y _ => BitVec.ofNat w (x.toNat * y.toNat / 2 ^ w)
def execMad (sw : Bool) (d a b : Opd) (s : State) : Out := s.iop sw d a (some b) true fun _ x y z => x * y + z
def execAnd (sw : Bool) (d a b : Opd) (s : State) : Out := s.iop sw d a (some b) false fun _ x y _ => x &&& y
def execOr (sw : Bool) (d a b : Opd) (s : State) : Out := s.iop sw d a (some b) false fun _ x y _ => x ||| y
def execXor (sw : Bool) (d a b : Opd) (s : State) : Out := s.iop sw d a (some b) false fun _ x y _ => x ^^^ y
def execShl (sw : Bool) (d a b : Opd) (s : State) : Out := s.iop sw d a (some b) false fun w x y _ => x <<< shiftCount w y
def execShr (sw : Bool) (d a b : Opd) (s : State) : Out := s.iop sw d a (some b) false fun w x y _ => x >>> shiftCount w y
def execSar (sw : Bool) (d a b : Opd) (s : State) : Out :=
  s.iop sw d a (some b) false fun w x y _ => x.sshiftRight (shiftCount w y)
def execMin (sw : Bool) (d a b : Opd) (s : State) : Out :=
  s.iop sw d a (some b) false fun _ x y _ => if x.toInt ≤ y.toInt then x else y
def execMinU (sw : Bool) (d a b : Opd) (s : State) : Out :=
  s.iop sw d a (some b) false fun _ x y _ => if x.toNat ≤ y.toNat then x else y
def execMax (sw : Bool) (d a b : Opd) (s : State) : Out :=
  s.iop sw d a (some b) false fun _ x y _ => if x.toInt ≤ y.toInt then y else x
def execMaxU (sw : Bool) (d a b : Opd) (s : State) : Out :=
  s.iop sw d a (some b) false fun _ x y _ => if x.toNat ≤ y.toNat then y else x
/-- R334: the most negative value stays itself. -/
def execAbs (sw : Bool) (d a : Opd) (s : State) : Out :=
  s.iop sw d a none false fun w x _ _ => if x.toInt < 0 then 0#w - x else x
def execClz (sw : Bool) (d a : Opd) (s : State) : Out := s.iop sw d a none false clz
def execPopc (sw : Bool) (d a : Opd) (s : State) : Out := s.iop sw d a none false popc
def execBfe (sw : Bool) (d a b : Opd) (s : State) : Out := s.iop sw d a (some b) false (bfe true)
def execBfeU (sw : Bool) (d a b : Opd) (s : State) : Out := s.iop sw d a (some b) false (bfe false)
def execBfi (sw : Bool) (d a b : Opd) (s : State) : Out := s.iop sw d a (some b) true bfi
def execAddSat (sw : Bool) (d a b : Opd) (s : State) : Out :=
  s.iop sw d a (some b) false fun w x y _ => satAdd w (x.toInt + y.toInt)
def execSubSat (sw : Bool) (d a b : Opd) (s : State) : Out :=
  s.iop sw d a (some b) false fun w x y _ => satAdd w (x.toInt - y.toInt)

/-! ## SEL (R435) -/

/-- SEL in a lane: the prefix's PRED and PNEG select. -/
def selLane (vector : Bool) (a b : Opd) (s : State) (l : Nat) : LRes :=
  let p := s.readPred s.xw.pred.toNat
  if s.xw.pred != 0#3 && p.poi.getLsbD l then .tok 0#32
  else
    let x := if s.xw.pred == 0#3 || (p.val.getLsbD l ^^ s.xw.pneg) then s.srcA vector a l else s.srcB vector b l
    match x.tok with
    | some t => .tok t
    | none => .val x.bits 0#6

/-- SEL takes no guard: it works in every lane of the mask. With a selector it needs a vector operand. -/
def execSel (sw : Bool) (d a b : Opd) (s : State) : Out :=
  let f := iopForm d a (some b)
  s.guarded (s.formTrap f (s.xw.pred != 0#3 && !f.isVec)) fun s =>
    .next ((s.putResults false (s.dest d) ((if f.isVec then lanesOf s.mask else s.workLanes false).map fun l => (l, selLane f.isVec a b s l))).retire sw)

/-! ## DIV and REM (R368, R428) -/

/-- A division in a lane: a zero divisor makes a DIVZ token. -/
def divLane (vector : Bool) (a b : Opd) (f : IopFn) (s : State) (l : Nat) : LRes :=
  let x := s.srcA vector a l
  let y := s.srcB vector b l
  match firstTok [x.tok, y.tok, s.guardTok l] with
  | some t => .tok t
  | none =>
    if (if vector then y.bits.setWidth 32 == 0#32 else y.bits == 0#64) then .fresh 0x04#8 0 0#6
    else .val (iopValue vector f x.bits y.bits 0#64) 0#6

def State.division (s : State) (sw : Bool) (d a b : Opd) (f : IopFn) : Out :=
  s.compute sw true (iopForm d a (some b)) false d (divLane (iopForm d a (some b)).isVec a b f)

def execDiv (sw : Bool) (d a b : Opd) (s : State) : Out := s.division sw d a b fun w x y _ => BitVec.ofInt w (x.toInt.tdiv y.toInt)
def execDivU (sw : Bool) (d a b : Opd) (s : State) : Out := s.division sw d a b fun w x y _ => BitVec.ofNat w (x.toNat / y.toNat)
def execRem (sw : Bool) (d a b : Opd) (s : State) : Out := s.division sw d a b fun w x y _ => BitVec.ofInt w (x.toInt.tmod y.toInt)
def execRemU (sw : Bool) (d a b : Opd) (s : State) : Out := s.division sw d a b fun w x y _ => BitVec.ofNat w (x.toNat % y.toNat)

end Sys2Proof.Machine
end

