-- ==== Sys2Proof/Machine/Imm.lean ====
section
/-!
DEFINITION. The immediate forms of majors 3 to 7 (R338, R340, R404, R414, R431, R433, R451, R458, R364) and their wide
immediates under a prefix (R162).
-/

namespace Sys2Proof.Machine

/-- A sign-extended immediate: `n` bits, or ten more under a prefix (R162). -/
def State.immS (s : State) {n : Nat} (i : BitVec n) : Word64 :=
  match s.iss.pfx with
  | some x => (x.immhi ++ i).signExtend 64
  | none => i.signExtend 64

/-- A zero-extended immediate. -/
def State.immU (s : State) {n : Nat} (i : BitVec n) : Word64 :=
  match s.iss.pfx with
  | some x => (x.immhi ++ i).setWidth 64
  | none => i.setWidth 64

def immForm (d a : Opd) (x : XwRule) : Form := { a := some { o := a }, dst := some { o := d }, xw := x }

/-- A lane of an immediate operation: tokens from A and the guard. -/
def immLane (vector : Bool) (a : Opd) (k : Word64) (f : IopFn) (s : State) (l : Nat) : LRes :=
  let x := s.srcA vector a l
  match firstTok [x.tok, s.guardTok l] with
  | some t => .tok t
  | none => .val (iopValue vector f x.bits k 0#64) 0#6

def State.immOp (s : State) (sw : Bool) (d a : Opd) (x : XwRule) (k : Word64) (f : IopFn) : Out :=
  s.compute sw false (immForm d a x) false d (immLane (immForm d a x).isVec a k f)

def execAddi (sw : Bool) (d a : Opd) (i : BitVec 12) (s : State) : Out := s.immOp sw d a .wide (s.immS i) fun _ x k _ => x + k
def execAndi (sw : Bool) (d a : Opd) (i : BitVec 10) (s : State) : Out := s.immOp sw d a .wide (s.immU i) fun _ x k _ => x &&& k
def execOri (sw : Bool) (d a : Opd) (i : BitVec 10) (s : State) : Out := s.immOp sw d a .wide (s.immU i) fun _ x k _ => x ||| k
def execXori (sw : Bool) (d a : Opd) (i : BitVec 10) (s : State) : Out := s.immOp sw d a .wide (s.immU i) fun _ x k _ => x ^^^ k
def execShli (sw : Bool) (d a : Opd) (c : BitVec 6) (s : State) : Out :=
  s.immOp sw d a .plain (c.setWidth 64) fun w x k _ => x <<< shiftCount w k
def execShri (sw : Bool) (d a : Opd) (c : BitVec 6) (s : State) : Out :=
  s.immOp sw d a .plain (c.setWidth 64) fun w x k _ => x >>> shiftCount w k
def execSari (sw : Bool) (d a : Opd) (c : BitVec 6) (s : State) : Out :=
  s.immOp sw d a .plain (c.setWidth 64) fun w x k _ => x.sshiftRight (shiftCount w k)
def execRoti (sw : Bool) (d a : Opd) (c : BitVec 6) (s : State) : Out :=
  s.immOp sw d a .plain (c.setWidth 64) fun w x k _ => x.rotateLeft (shiftCount w k)

/-- MOVI (R404): no source but the guard. -/
def execMovi (sw : Bool) (d : Opd) (i : BitVec 19) (s : State) : Out :=
  let k := s.immS i
  s.compute sw false { dst := some { o := d }, xw := .wide } false d fun s l =>
    match s.guardTok l with
    | some t => .tok t
    | none => .val (if d.isVec then (k.setWidth 32).setWidth 64 else k) 0#6

/-! ## Compares with an immediate -/

def cmpForm (a : Opd) (b : Option Opd) (x : XwRule) : Form := { a := some { o := a }, b := b.map fun o => { o := o }, xw := x }

/-- A compare: a predicate result in every active lane, poisoned where a source or the guard is (R332). A scalar compare
is made once. -/
def State.comparing (s : State) (sw : Bool) (f : Form) (p : BitVec 3) (toks : State → Bool → Nat → List (Option Word32))
    (holds : State → Bool → Nat → Bool) : Out :=
  s.guarded (s.formTrap f false) fun s =>
    .next ((s.putPred false p.toNat ((lanesOf s.active).map fun l =>
      (l, if (firstTok (toks s f.isVec l ++ [s.guardTok l])).isSome then none else some (holds s f.isVec l)))).retire sw)

/-- An operand as a two's-complement value at the compare's width. -/
def signedAt (vector : Bool) (x : Word64) : Int := if vector then (x.setWidth 32).toInt else x.toInt

/-- TSTI (R451). -/
def execTsti (sw : Bool) (p : BitVec 3) (a : Opd) (i : BitVec 10) (s : State) : Out :=
  let k := s.immU i
  s.comparing sw (cmpForm a none .wide) p (fun s v l => [(s.srcA v a l).tok]) fun s v l => (s.srcA v a l).bits &&& k != 0#64

/-- CMPI (R364): signed conditions. -/
def execCmpi (sw : Bool) (p : BitVec 3) (a : Opd) (c : ICond) (i : BitVec 9) (s : State) : Out :=
  let k := s.immS i
  s.comparing sw (cmpForm a none .wide) p (fun s v l => [(s.srcA v a l).tok]) fun s v l =>
    icondHolds c (signedAt v (s.srcA v a l).bits) k.toInt

end Sys2Proof.Machine
end

