-- ==== Sys2Proof/Machine/Cmp.lean ====
section
/-!
DEFINITION. Compares and predicate logic of major 11: ICMP (R387), FCMP (R379), PLOG (R418).
-/

namespace Sys2Proof.Machine

def cmpToks (a b : Opd) (s : State) (v : Bool) (l : Nat) : List (Option Word32) := [(s.srcA v a l).tok, (s.srcB v b l).tok]

def execIcmp (sw : Bool) (p : BitVec 3) (a b : Opd) (c : ICond) (s : State) : Out :=
  s.comparing sw (cmpForm a (some b) .plain) p (cmpToks a b) fun s v l =>
    icondHolds c (signedAt v (s.srcA v a l).bits) (signedAt v (s.srcB v b l).bits)

def execIcmpU (sw : Bool) (p : BitVec 3) (a b : Opd) (c : ICond) (s : State) : Out :=
  s.comparing sw (cmpForm a (some b) .plain) p (cmpToks a b) fun s v l =>
    icondHolds c (s.srcA v a l).bits.toNat (s.srcB v b l).bits.toNat

/-- FCMP in a lane: the truth value and the flags; none where a source or the guard is poisoned. -/
def fcmpLane (vector : Bool) (a b : Opd) (c : FCond) (s : State) (l : Nat) : Option (Bool × BitVec 6) :=
  let x := s.srcA vector a l
  let y := s.srcB vector b l
  if (firstTok [x.tok, y.tok, s.guardTok l]).isSome then none
  else some (fcondHolds c (fsrc fp32 s.fenv (x.bits.toNat % 2 ^ 32)) (fsrc fp32 s.fenv (y.bits.toNat % 2 ^ 32)))

def execFcmp (sw : Bool) (p : BitVec 3) (a b : Opd) (c : FCond) (s : State) : Out :=
  let f := cmpForm a (some b) .plain
  s.guarded (s.formTrap f false) fun s =>
    let rs := (lanesOf s.active).map fun l => (l, fcmpLane f.isVec a b c s l)
    let fl (up : Bool) := orAll ((rs.filter fun e => decide (32 ≤ e.1) == up).map fun e => (e.2.map (·.2)).getD 0#6)
    .next (((s.putPred false p.toNat (rs.map fun e => (e.1, e.2.map (·.1)))).orFlags s.iss.cur (fl false) (fl true)).retire sw)

/-- PLOG's operations on whole predicates. -/
def plogBits (o : PlogOp) (a b : Lanes) : Lanes :=
  match o with
  | .and => a &&& b
  | .or => a ||| b
  | .xor => a ^^^ b
  | .andn => a &&& ~~~b
  | .orn => a ||| ~~~b
  | .not => ~~~a
  | .mov => a
  | .xnor => ~~~(a ^^^ b)

/-- Does the operation read B (R168)? -/
def plogReadsB : PlogOp → Bool
  | .not | .mov => false
  | _ => true

/-- PLOG works in every lane of the slot's mask; it names no vector register, so it takes no guard (R418). -/
def execPlog (sw : Bool) (d a b : BitVec 3) (o : PlogOp) (s : State) : Out :=
  s.guarded (s.formTrap {} false) fun s =>
    let x := s.readPred a.toNat
    let y := s.readPred b.toNat
    let poi := x.poi ||| (if plogReadsB o then y.poi else 0#64)
    .next ((s.deliver s.iss.cur s.mask (.pred d.toNat ⟨plogBits o x.val y.val &&& ~~~poi, poi⟩)).retire sw)

end Sys2Proof.Machine
end

