-- ==== Sys2Proof/Machine/Cvt.lean ====
section
/-!
DEFINITION. Conversions: CVT (R366, R367), MXQ and MXDQ (R408 to R410), TERQ (R447), FRND (R51, R382).
-/

namespace Sys2Proof.Machine

/-- The B field of a two-source pair is an operand, of a one-source pair a selector (R366). -/
def cvtB (f : CvtPair) (b : BitVec 7) : Option Opd := if cvtTwoSource f then some (Opd.ofCode b) else none

/-- A lane of CVT (R367). -/
def cvtLaneOf (vector : Bool) (a : Opd) (b : BitVec 7) (f : CvtPair) (s : State) (l : Nat) : LRes :=
  let x := s.srcA vector a l
  let y := s.optB vector (cvtB f b) l
  match firstTok [x.tok, y.tok, s.guardTok l] with
  | some k => .tok k
  | none =>
    (cvtLane f s.fenv (x.bits.toNat % 2 ^ 32) (y.bits.toNat % 2 ^ 32) (if cvtTwoSource f then 0 else b.toNat)).saturating s.fenv.tsat

def execCvt (sw : Bool) (d a : Opd) (b : BitVec 7) (f : CvtPair) (s : State) : Out :=
  let form := iopForm d a (cvtB f b)
  s.compute sw false form (!cvtTwoSource f && decide (cvtMaxSel f < b.toNat)) d (cvtLaneOf form.isVec a b f)

/-- A lane of FRND: the selector names a rounding mode, or FMODE's (R51). -/
def frndLane (vector : Bool) (a : Opd) (b : BitVec 7) (s : State) (l : Nat) : LRes :=
  let x := s.srcA vector a l
  match firstTok [x.tok, s.guardTok l] with
  | some k => .tok k
  | none => (frnd (if b = 4#7 then s.fenv.rm else Rm.ofBits (b.setWidth 2)) s.fenv (x.bits.toNat % 2 ^ 32)).lres

def execFrnd (sw : Bool) (d a : Opd) (b : BitVec 7) (s : State) : Out :=
  let form := iopForm d a none
  s.compute sw false form (decide (4 < b.toNat)) d (frndLane form.isVec a b)

def mxFmtOf (b : BitVec 7) : MxFmt := if b = 0#7 then mxInt8 else mxI4

/-- A lane of MXDQ (R410). -/
def mxdqLane (vector : Bool) (a : Opd) (b : BitVec 7) (s : State) (l : Nat) : LRes :=
  let x := s.srcA vector a l
  match firstTok [x.tok, s.guardTok l] with
  | some k => .tok k
  | none =>
    let v := x.bits.toNat
    let n := if b = 0#7 then sint 8 (v % 256) else sint 4 (v % 16)
    .val (BitVec.ofNat 64 (mxdq (mxFmtOf b) (v / 256 % 256) n)) 0#6

def execMxdq (sw : Bool) (d a : Opd) (b : BitVec 7) (s : State) : Out :=
  let form := iopForm d a none
  s.compute sw false form (decide (1 < b.toNat)) d (mxdqLane form.isVec a b)

/-! ## Block quantisation across the lanes of a hardware wave -/

/-- The hardware waves of the instruction, by their first lane. -/
def State.halves (s : State) : List Nat := if s.wave.id.paired then [0, 32] else [0]

/-- The results of a block instruction in one hardware wave: the first token in lane order, else the block's values;
flags are raised once, by the lowest active lane (R409). -/
def blockResults (s : State) (first : Nat) (toks : Nat → Option Word32) (block : List Nat × BitVec 6) : List (Nat × LRes) :=
  let ls := (lanesOf s.active).filter fun l => decide (first ≤ l ∧ l < first + 32)
  match ls.findSome? toks with
  | some t => ls.map fun l => (l, .tok t)
  | none => ls.map fun l => (l, .val (BitVec.ofNat 64 (block.1.getD (l - first) 0)) (if ls.head? = some l then block.2 else 0#6))

/-- An active lane's value, else +0.0. -/
def State.activeBits (s : State) (v : ScalVal) (l : Nat) : Nat := if inLanes s.active l then v.bits.toNat % 2 ^ 32 else 0

def State.blockOp (s : State) (sw : Bool) (f : Form) (extra : Bool) (d : Opd) (toks : State → Nat → Option Word32)
    (block : State → Nat → List Nat × BitVec 6) : Out :=
  s.guarded (s.formTrap f extra) fun s =>
    .next ((s.putResults false (s.dest d) (s.halves.flatMap fun h => blockResults s h (toks s) (block s h))).retire sw)

/-- MXQ's block (R409). -/
def mxqBlock (b : BitVec 7) (src : Nat → Nat) (first : Nat) : List Nat × BitVec 6 :=
  let r := mxq (mxFmtOf b) ((List.range 32).map fun i => src (first + i))
  (r.2.1.map fun n => r.1 * 256 + ofSint 8 n, r.2.2)

def execMxq (sw : Bool) (d a : Opd) (b : BitVec 7) (s : State) : Out :=
  s.blockOp sw { iopForm d a none with xln := true } (!isVecReg d || decide (1 < b.toNat)) d
    (fun s l => firstTok [(s.srcA true a l).tok, s.guardTok l])
    fun s h => mxqBlock b (fun l => s.activeBits (s.srcA true a l) l) h

/-- Register `j` of TERQ's source group in a lane, permuted. -/
def State.terqSrc (s : State) (a : Opd) (j l : Nat) : ScalVal :=
  let x := s.readLane s.xw.permA s.xw.argA (s.ref a) j l
  ⟨x.bits.setWidth 64, x.p⟩

/-- TERQ's block: element 4 l + j is register j of lane l; each lane receives its code byte and the scale (R447). -/
def terqBlock (src : Nat → Nat → Nat) (first : Nat) : List Nat × BitVec 6 :=
  let r := terq ((List.range 32).flatMap fun i => (List.range 4).map fun j => src j (first + i))
  ((List.range 32).map fun i =>
    r.1 * 2 ^ 16 + ((List.range 4).foldl (fun acc j => acc + r.2.1.getD (4 * i + j) 0 * 4 ^ j) 0), r.2.2)

def execTerq (sw : Bool) (d a : Opd) (s : State) : Out :=
  s.blockOp sw { a := some { o := a, nv := 4 }, dst := some { o := d }, xln := true } (!isVecReg d || !isVecReg a) d
    (fun s l => firstTok ((List.range 4).map (fun j => (s.terqSrc a j l).tok) ++ [s.guardTok l]))
    fun s h => terqBlock (fun j l => s.activeBits (s.terqSrc a j l) l) h

end Sys2Proof.Machine
end

