-- ==== Sys2Proof/Machine/Fop.lean ====
section
/-!
DEFINITION. Floating-point operations: FOP (R377, R378) and FFN (R381, R52 to R56).
-/

namespace Sys2Proof.Machine

/-- An operation on element `e` of the sources, decoded under DAZ. -/
abbrev FopFn := FFmt → FEnv → Fp → Fp → Fp → FRes

/-- One lane of R378's procedure. -/
def fopLane (vector : Bool) (d a : Opd) (b : Option Opd) (readsD : Bool) (t : FType) (f : FopFn) (s : State) (l : Nat) : LRes :=
  let x := s.srcA vector a l
  let y := s.optB vector b l
  let z := if readsD then s.srcD vector d l else ScalVal.zero
  match firstTok [x.tok, y.tok, z.tok, s.guardTok l] with
  | some k => .tok k
  | none =>
    let src (v : ScalVal) (e : Nat) : Fp := fsrc (ftypeFmt t) s.fenv (elemOf t v.bits e)
    (mapElems t fun e => f (ftypeFmt t) s.fenv (src x e) (src y e) (src z e)).lres

/-- R378: a FOP; FDIV and FSQRT are variable-latency. -/
def State.fop (s : State) (sw late : Bool) (d a : Opd) (b : Option Opd) (readsD : Bool) (t : FType) (f : FopFn) : Out :=
  s.compute sw late (iopForm d a b) false d (fopLane (iopForm d a b).isVec d a b readsD t f)

def execFadd (sw : Bool) (d a b : Opd) (t : FType) (s : State) : Out :=
  s.fop sw false d a (some b) false t fun f e x y _ => faddF f e x y
def execFsub (sw : Bool) (d a b : Opd) (t : FType) (s : State) : Out :=
  s.fop sw false d a (some b) false t fun f e x y _ => fsubF f e x y
def execFmul (sw : Bool) (d a b : Opd) (t : FType) (s : State) : Out :=
  s.fop sw false d a (some b) false t fun f e x y _ => fmulF f e x y
def execFma (sw : Bool) (d a b : Opd) (t : FType) (s : State) : Out :=
  s.fop sw false d a (some b) true t fun f e x y z => fmaF f e x y z
def execFmin (sw : Bool) (d a b : Opd) (t : FType) (s : State) : Out :=
  s.fop sw false d a (some b) false t fun f e x y _ => fminmaxF false f e x y
def execFmax (sw : Bool) (d a b : Opd) (t : FType) (s : State) : Out :=
  s.fop sw false d a (some b) false t fun f e x y _ => fminmaxF true f e x y
def execFdiv (sw : Bool) (d a b : Opd) (t : FType) (s : State) : Out :=
  s.fop sw true d a (some b) false t fun f e x y _ => fdivF f e x y
def execFsqrt (sw : Bool) (d a : Opd) (t : FType) (s : State) : Out :=
  s.fop sw true d a none false t fun f e x _ _ => fsqrtF f e x

/-- A lane of an FFN: the function table version is FTV's (R52). -/
def ffnLane (vector : Bool) (a : Opd) (t : FType) (op : FfnOp) (s : State) (l : Nat) : LRes :=
  let x := s.srcA vector a l
  match firstTok [x.tok, s.guardTok l] with
  | some k => .tok k
  | none => (mapElems t fun e => ffnElem op s.wave.env.ftv.toNat (ftypeFmt t) s.fenv (elemOf t x.bits e)).lres

/-- R381: an FFN, variable-latency. -/
def State.ffn (s : State) (sw : Bool) (d a : Opd) (t : FType) (op : FfnOp) : Out :=
  s.compute sw true (iopForm d a none) false d (ffnLane (iopForm d a none).isVec a t op)

def execFexp (sw : Bool) (d a : Opd) (t : FType) (s : State) : Out := s.ffn sw d a t .exp
def execFlog (sw : Bool) (d a : Opd) (t : FType) (s : State) : Out := s.ffn sw d a t .log
def execFrcp (sw : Bool) (d a : Opd) (t : FType) (s : State) : Out := s.ffn sw d a t .rcp
def execFrsq (sw : Bool) (d a : Opd) (t : FType) (s : State) : Out := s.ffn sw d a t .rsq
def execFsin (sw : Bool) (d a : Opd) (t : FType) (s : State) : Out := s.ffn sw d a t .sin
def execFcos (sw : Bool) (d a : Opd) (t : FType) (s : State) : Out := s.ffn sw d a t .cos
def execFtanh (sw : Bool) (d a : Opd) (t : FType) (s : State) : Out := s.ffn sw d a t .tanh
def execFerf (sw : Bool) (d a : Opd) (t : FType) (s : State) : Out := s.ffn sw d a t .erf

end Sys2Proof.Machine
end

