-- ==== Sys2Proof/Machine/Xln.lean ====
section
/-!
DEFINITION. Cross-lane instructions of major 12: RED (R425 to R427), SCAN (R434), BALLOT (R351), VOTE (R452), ELECT (R374),
SHFL (R440), over the segments of the declared width (R104, R105).
-/

namespace Sys2Proof.Machine

/-- The declared width in lanes. -/
def State.width (s : State) : Nat := widthLanes s.wg.kern.width

/-- The segments of the wave, as lists of lanes. -/
def State.segments (s : State) : List (List Nat) :=
  let w := max 1 s.width
  (List.range (s.wave.lanes / w)).map fun n => (List.range w).map (w * n + ·)

def State.activeOf (s : State) (seg : List Nat) : List Nat := seg.filter (inLanes s.active)

/-- The token of the lowest poisoned active lane of a segment, A before the guard (R246). -/
def State.segTok (s : State) (a : Opd) (seg : List Nat) : Option Word32 :=
  (s.activeOf seg).findSome? fun l => firstTok [(s.srcA true a l).tok, s.guardTok l]

/-- A's low 32 bits in a lane. -/
def State.laneBits (s : State) (a : Opd) (l : Nat) : Word32 := (s.srcA true a l).bits.setWidth 32

def redCombine (o : RedOp) (x y : Word32) : Word32 :=
  match o with
  | .add => x + y
  | .min => if x.toInt ≤ y.toInt then x else y
  | .max => if x.toInt ≤ y.toInt then y else x
  | .minu => if x.toNat ≤ y.toNat then x else y
  | .maxu => if x.toNat ≤ y.toNat then y else x
  | .and => x &&& y
  | .or => x ||| y
  | .xor => x ^^^ y

/-- The result of a segment with no active lane (R426). -/
def redIdentity : RedOp → Word32
  | .min => 0x7FFFFFFF#32
  | .max => 0x80000000#32
  | .minu | .and => 0xFFFFFFFF#32
  | .add | .maxu | .or | .xor => 0#32

/-- One level of R427's tree: pairs are added where both lanes are present. -/
def faddLevel (env : FEnv) : List (Option Nat × BitVec 6) → List (Option Nat × BitVec 6)
  | (x, f) :: (y, g) :: t =>
    (match x, y with
     | some a, some b => let r := faddF fp32 env (fsrc fp32 env a) (fsrc fp32 env b); (some r.bits, f ||| g ||| r.flags)
     | none, some b => (some b, f ||| g)
     | a, none => (a, f ||| g)) :: faddLevel env t
  | l => l

/-- R427: the fixed binary tree, `n` levels. -/
def faddTree (env : FEnv) : Nat → List (Option Nat × BitVec 6) → List (Option Nat × BitVec 6)
  | 0, l => l
  | n + 1, l => faddTree env n (faddLevel env l)

/-- The result of a segment of RED.fadd and its flags. -/
def State.redFaddSeg (s : State) (a : Opd) (seg : List Nat) : Word32 × BitVec 6 :=
  let leaves := seg.map fun l => (if inLanes s.active l then some (s.laneBits a l).toNat else none, 0#6)
  match faddTree s.fenv 6 leaves with
  | (some x, f) :: _ => (BitVec.ofNat 32 x, f)
  | _ => (0#32, 0#6)

/-- The result of a segment of an integer RED. -/
def State.redSeg (s : State) (o : RedOp) (a : Opd) (seg : List Nat) : Word32 :=
  match s.activeOf seg with
  | [] => redIdentity o
  | l :: ls => ls.foldl (fun acc x => redCombine o acc (s.laneBits a x)) (s.laneBits a l)

/-- Place the segments' results (R426): in every active lane of a vector D; in a scalar D whole, extended, or at width 8 or
16 the low w bits of each segment. -/
def State.redPlace (s : State) (d a : Opd) (signed : Bool) (seg : List Nat → Word32 × BitVec 6) : List (Nat × LRes) :=
  if isScalarDest d then
    match s.segments.findSome? (s.segTok a) with
    | some t => [(0, .tok t)]
    | none =>
      let rs := s.segments.map seg
      let fl := orAll (rs.map (·.2))
      if s.width = 8 ∨ s.width = 16 then
        [(0, .val (BitVec.ofNat 64 ((rs.zipIdx.map fun e => e.1.1.toNat % 2 ^ s.width * 2 ^ (s.width * e.2)).sum)) fl)]
      else
        let x := (rs.headD (0#32, 0#6)).1
        [(0, .val (if signed then x.signExtend 64 else x.setWidth 64) fl)]
  else
    s.segments.flatMap fun g => (s.activeOf g).map fun l => (l, match s.segTok a g with
      | some t => .tok t
      | none => .val ((seg g).1.setWidth 64) (seg g).2)
where isScalarDest (d : Opd) : Bool := match d with | .v _ => false | _ => true

/-- The flags of the segments that are not poisoned, where a scalar D holds the token of one that is (R427). -/
def State.redSpare (s : State) (d a : Opd) (seg : List Nat → Word32 × BitVec 6) : BitVec 6 :=
  if State.redPlace.isScalarDest d && s.segments.any fun g => (s.segTok a g).isSome then
    orAll ((s.segments.filter fun g => (s.segTok a g).isNone).map fun g => (seg g).2)
  else 0#6

def xlnForm (d a : Opd) : Form := { a := some { o := a }, dst := some { o := d }, mixing := false, xln := true }

def execRed (sw : Bool) (d a : Opd) (o : RedOp) (s : State) : Out :=
  s.guarded (s.formTrap (xlnForm d a) false) fun s =>
    .next ((s.putResults true (s.dest d) (s.redPlace d a (o == .add || o == .min || o == .max) fun g => (s.redSeg o a g, 0#6))).retire sw)

def execRedFadd (sw : Bool) (d a : Opd) (s : State) : Out :=
  s.guarded (s.formTrap (xlnForm d a) false) fun s =>
    .next (((s.putResults true (s.dest d) (s.redPlace d a false (s.redFaddSeg a))).orFlags s.iss.cur (s.redSpare d a (s.redFaddSeg a)) 0#6).retire sw)

def scanCombine (o : ScanOp) (x y : Word32) : Word32 :=
  match o with
  | .add => x + y
  | .min => if x.toInt ≤ y.toInt then x else y
  | .max => if x.toInt ≤ y.toInt then y else x
  | .xor => x ^^^ y

/-- R434: the inclusive prefix results of a segment, from the state of the scan so far. -/
def State.scanSeg (s : State) (o : ScanOp) (a : Opd) : List Nat → Option Word32 → Option Word32 → List (Nat × LRes)
  | [], _, _ => []
  | l :: ls, acc, tk =>
    let tk := tk.orElse fun _ => firstTok [(s.srcA true a l).tok, s.guardTok l]
    let x := match acc with | none => s.laneBits a l | some y => scanCombine o y (s.laneBits a l)
    (l, match tk with | some t => .tok t | none => .val (x.setWidth 64) 0#6) :: s.scanSeg o a ls (some x) tk

def execScan (sw : Bool) (d a : Opd) (o : ScanOp) (s : State) : Out :=
  s.guarded (s.formTrap (xlnForm d a) (match d with | .v _ => false | _ => true)) fun s =>
    .next ((s.putResults true (s.dest d) (s.segments.flatMap fun g => s.scanSeg o a (s.activeOf g) none none)).retire sw)

/-- BALLOT (R351): the active lanes in which the predicate is true. -/
def execBallot (sw : Bool) (d : Opd) (p : BitVec 3) (s : State) : Out :=
  s.guarded (s.formTrap { dst := some { o := d }, mixing := false, xln := true } (!d.sgz)) fun s =>
    let x := s.readPred p.toNat
    let poisoned := (lanesOf s.active).any fun l => x.poi.getLsbD l || (s.guardTok l).isSome
    .next ((s.putResults true (s.dest d) [(0, if poisoned then .tok 0#32 else .val (x.val &&& s.active) 0#6)]).retire sw)

/-- VOTE over each segment (R452): a poisoned lane poisons the segment. -/
def State.vote (s : State) (sw : Bool) (d a : BitVec 3) (f : List Bool → Bool) : Out :=
  s.guarded (s.formTrap { xln := true } false) fun s =>
    let x := s.readPred a.toNat
    .next ((s.putPred true d.toNat (s.segments.flatMap fun g =>
      let ls := s.activeOf g
      let bad := ls.any fun l => x.poi.getLsbD l || (s.guardTok l).isSome
      ls.map fun l => (l, if bad then none else some (f (ls.map x.val.getLsbD))))).retire sw)

def execVoteAll (sw : Bool) (d a : BitVec 3) (s : State) : Out := s.vote sw d a fun l => l.all id
def execVoteAny (sw : Bool) (d a : BitVec 3) (s : State) : Out := s.vote sw d a fun l => l.any id
def execVoteUni (sw : Bool) (d a : BitVec 3) (s : State) : Out := s.vote sw d a fun l => l.all id || l.all (!·)

/-- ELECT (R374): true in the lowest active lane of each segment. -/
def execElect (sw : Bool) (p : BitVec 3) (s : State) : Out :=
  s.guarded (s.formTrap { xln := true } false) fun s =>
    .next ((s.putPred true p.toNat (s.segments.flatMap fun g =>
      (s.activeOf g).map fun l => (l, some ((s.activeOf g).head? == some l)))).retire sw)

/-- SHFL in a lane (R440): the index is taken modulo the width within the lane's segment. -/
def shflLane (a b : Opd) (s : State) (l : Nat) : LRes :=
  let i := s.srcB true b l
  match i.tok with
  | some t => .tok t
  | none =>
    let w := max 1 s.width
    let x := s.srcA true a (l / w * w + i.bits.toNat % w)
    match firstTok [x.tok, s.guardTok l] with
    | some t => .tok t
    | none => .val x.bits 0#6

def execShfl (sw : Bool) (d a b : Opd) (s : State) : Out :=
  s.guarded (s.formTrap { iopForm d a (some b) with mixing := false, xln := true } (match d with | .v _ => false | _ => true)) fun s =>
    .next ((s.putResults true (s.dest d) ((lanesOf s.active).map fun l => (l, shflLane a b s l))).retire sw)

end Sys2Proof.Machine
end

