-- ==== Sys2Proof/Machine/Contract.lean ====
section
/-!
DEFINITION. The matrix contracts as functions of exact values (R57, R59, R62 to R67, R75, R76).
-/

namespace Sys2Proof.Machine

/-- The matrix contracts (R57). -/
inductive Contract where
  | ieee | xf32 | mxi8 | mxi4 | ter | l16
deriving DecidableEq, Repr

/-- The contract of a code of FLAGS.CON; codes 6 and 7 name none (R57). -/
def Contract.ofCode (n : Nat) : Option Contract :=
  match n with
  | 0 => some .ieee
  | 1 => some .xf32
  | 2 => some .mxi8
  | 3 => some .mxi4
  | 4 => some .ter
  | 5 => some .l16
  | _ => none

def Contract.code : Contract → Nat
  | .ieee => 0
  | .xf32 => 1
  | .mxi8 => 2
  | .mxi4 => 3
  | .ter => 4
  | .l16 => 5

/-- Bytes of an A row (R59). -/
def Contract.rowA : Contract → Nat
  | .ieee => 0
  | .xf32 => 256
  | .mxi8 => 256
  | .mxi4 => 256
  | .ter => 64
  | .l16 => 256

/-- Bytes of a B row (R59). -/
def Contract.rowB : Contract → Nat
  | .ieee => 0
  | .xf32 => 256
  | .mxi8 => 256
  | .mxi4 => 256
  | .ter => 256
  | .l16 => 256

/-- Bytes of a scale row (R59). -/
def Contract.rowScale : Contract → Nat
  | .ieee => 0
  | .xf32 => 0
  | .mxi8 => 8
  | .mxi4 => 16
  | .ter => 2
  | .l16 => 0

/-- Elements in a 4-byte word of a row: of A (`false`) or of B (`true`). -/
def Contract.perWord : Contract → Bool → Nat
  | .ieee, _ => 1
  | .xf32, _ => 1
  | .mxi8, _ => 4
  | .mxi4, _ => 8
  | .ter, isB => if isB then 4 else 16
  | .l16, _ => 2

/-! ## Exact sums -/

/-- Bit i of a row given as 32-bit words, in fields of `w` bits: the whole row as a list of fields. -/
def rowFields (w : Nat) (words : List Nat) : List Nat :=
  words.flatMap fun x => (List.range (32 / w)).map fun n => fieldAt x w n

/-- A signed multiple of 2^k as an integer multiple of 2^base (base ≤ k). -/
def fixedAt (base : Int) (neg : Bool) (m : Nat) (e : Int) : Int :=
  let v : Int := (m * 2 ^ (e - base).toNat : Nat)
  if neg then -v else v

/-- An exact sum of multiples of 2^base rounded once to FP32 under RNE (R62); zero takes the sign given. -/
def rneFixed (base : Int) (sum : Int) (negZero : Bool) : Nat :=
  if sum = 0 then (if negZero then 2 ^ 31 else 0)
  else (froundNum fp32 .rne false .ieee (decide (sum < 0)) sum.natAbs base).bits

/-- An FP32 accumulator as a fixed-point number, with its special cases handed to `k` (R64, R66): NaN stays
NaN, an infinity stands. -/
def withAcc (base : Int) (acc : Nat) (k : Int → Nat) : Nat :=
  match fp32.decode acc with
  | .nan _ => fp32.nanBits
  | .inf _ => acc % 2 ^ 32
  | .num n m e => k (fixedAt base n m e)

/-- The products of C.XF32. -/
def xf32Prod (a b : Fp) : Fp :=
  match a, b with
  | .num n1 m1 e1, .num n2 m2 e2 => .num (n1 != n2) (m1 * m2) (e1 + e2)
  | .inf n1, .inf n2 => .inf (n1 != n2)
  | .inf n1, .num n2 m _ => if m = 0 then .nan false else .inf (n1 != n2)
  | .num n1 m _, .inf n2 => if m = 0 then .nan false else .inf (n1 != n2)
  | _, _ => .nan false

/-- R63, over the rows' words; `na` negates A. -/
def xf32Result (na : Bool) (a b : List Nat) (acc : Nat) : Nat :=
  let prods := (a.zip b).map fun (x, y) =>
    let fx := fp32.decode x
    xf32Prod (if na then fx.negate else fx) (fp32.decode y)
  let terms := fp32.decode acc :: prods
  if terms.any Fp.isNan then fp32.nanBits
  else
    let pos := terms.any fun t => decide (t = .inf false)
    let neg := terms.any fun t => decide (t = .inf true)
    if pos && neg then fp32.nanBits
    else if pos then fp32.infBits
    else if neg then 2 ^ 31 + fp32.infBits
    else
      let sum := terms.foldl (fun (s : Int) t =>
        match t with
        | .num n m e => s + fixedAt (-298) n m e
        | _ => s) 0
      let isNegZero (t : Fp) : Bool :=
        match t with
        | .num n m _ => n && decide (m = 0)
        | _ => false
      rneFixed (-298) sum (terms.all isNegZero)

/-- R64: blocks of 32 elements with their scales. -/
def mxResult (fmt : MxFmt) (na : Bool) (a b : List Nat) (sa sb : List Nat) (acc : Nat) : Nat :=
  let ea := rowFields 8 sa
  let eb := rowFields 8 sb
  if (ea.any (· == 0xFF)) || (eb.any (· == 0xFF)) then fp32.nanBits
  else
    let base : Int := -(254 + 2 * (fmt.frac : Int))
    withAcc base acc fun c =>
      let xs := rowFields fmt.width a
      let ys := rowFields fmt.width b
      let sg : Int := if na then -1 else 1
      let prods := (xs.zip ys).map fun (x, y) => sg * sint fmt.width x * sint fmt.width y
      let blocks := (List.range ea.length).map fun k =>
        ((prods.drop (32 * k)).take 32).sum * ((2 ^ (ea.getD k 0 + eb.getD k 0) : Nat) : Int)
      rneFixed base (c + blocks.sum) false

/-- A TER2 code as an integer, the reserved code as 0 (R35). -/
def terValue (c : Nat) : Int := if c % 4 = 1 then 1 else if c % 4 = 3 then -1 else 0

/-- R65: the clamped sum and whether it was clamped. -/
def terResult (na : Bool) (a b : List Nat) (acc : Nat) : Nat × Bool :=
  let xs := rowFields 2 a
  let ys := rowFields 8 b
  let sg : Int := if na then -1 else 1
  let sum := sint 32 acc + ((xs.zip ys).map fun (x, y) => sg * terValue x * sint 8 y).sum
  let c := clampInt (-(2 ^ 31 : Nat)) ((2 ^ 31 : Nat) - 1) sum
  (ofSint 32 c, decide (c ≠ sum))

/-- Whether a TER2 row holds a reserved code (R35). -/
def terReserved (a : List Nat) : Bool := (rowFields 2 a).any (· == 2)

/-- 2^(h/32) in steps of 2^−60, from below, for 0 ≤ h ≤ 32 (R66). -/
def pow2Frac32 (h : Nat) : Nat := rootBits 32 (2 ^ (h + 32 * 60)) 62 0

/-- T0 and T1 of R66 at h, in steps of 2^−30. -/
def lnsTable (h : Nat) : Nat × Nat :=
  ((pow2Frac32 h + 2 ^ 29) / 2 ^ 30, (pow2Frac32 (h + 1) - pow2Frac32 h + 2 ^ 29) / 2 ^ 30)

/-- The tables of R66. -/
def lnsTables : List (Nat × Nat) := (List.range 32).map lnsTable

/-- lin of R66 as a multiple of 2^−149. -/
def lnsLin (a b : L16Val) : Int :=
  match a, b with
  | .val sa fa, .val sb fb =>
    let p := fa + fb
    let n := p / 512
    let r := (p % 512).toNat
    let (t0, t1) := lnsTables.getD (r / 16) (0, 0)
    -- m in steps of 2^−34
    fixedAt (-149) (sa != sb) (t0 * 16 + t1 * (r % 16)) (n - 34)
  | _, _ => 0

/-- NA on an L16 element (R62). -/
def L16Val.negate : L16Val → L16Val
  | .val s f => .val (!s) f
  | .zero => .zero
  | .nar => .nar

/-- R66. -/
def l16Result (na : Bool) (a b : List Nat) (acc : Nat) : Nat :=
  let xs := (rowFields 16 a).map l16Decode
  let ys := (rowFields 16 b).map l16Decode
  if (xs.any fun x => decide (x = .nar)) || (ys.any fun y => decide (y = .nar)) then fp32.nanBits
  else
    withAcc (-149) acc fun c =>
      rneFixed (-149) (c + ((xs.zip ys).map fun (x, y) => lnsLin (if na then x.negate else x) y).sum) false

/-- contract_result of R70: the element's bits, and whether sat32 clamped. -/
def contractResult (con : Contract) (na : Bool) (a sa b sb : List Nat) (acc : Nat) : Nat × Bool :=
  match con with
  | .ieee => (acc, false)
  | .xf32 => (xf32Result na a b acc, false)
  | .mxi8 => (mxResult mxInt8 na a b sa sb acc, false)
  | .mxi4 => (mxResult mxI4 na a b sa sb acc, false)
  | .ter => terResult na a b acc
  | .l16 => (l16Result na a b acc, false)

/-! ## Rows with poison (R76) -/

/-- A row of an operand as an MMA reads it: its element words and its scale words. -/
structure MmaRow where
  elems : List LaneVal
  scales : List LaneVal
deriving DecidableEq, Repr

/-- The first poisoned word of a list: its index and token. -/
def firstPoisoned (ws : List LaneVal) : Nat → Option (Nat × BitVec 32)
  | n => match ws with
    | [] => none
    | w :: rest => if w.p then some (n, w.bits) else firstPoisoned rest (n + 1)

/-- The poisoned word with the smallest k of one row, with its rank among words of equal k (R76). -/
def rowPoison (con : Contract) (isB : Bool) (r : MmaRow) : Option (Nat × Nat × BitVec 32) :=
  let el := (firstPoisoned r.elems 0).map fun (n, t) => (n * con.perWord isB, (if isB then 3 else 1), t)
  let sc := (firstPoisoned r.scales 0).map fun (n, t) => (128 * n, (if isB then 2 else 0), t)
  match sc, el with
  | some s, some e => some (if s.1 ≤ e.1 then s else e)
  | some s, none => some s
  | none, e => e

/-- first_poison(i, j) of R76 from the two rows' own first poisoned words. -/
def firstPoison (a b : Option (Nat × Nat × BitVec 32)) : Option (BitVec 32) :=
  match a, b with
  | some x, some y =>
    some (if x.1 < y.1 ∨ (x.1 = y.1 ∧ x.2.1 < y.2.1) then x.2.2 else y.2.2)
  | some x, none => some x.2.2
  | none, some y => some y.2.2
  | none, none => none

/-- Element (i, j) of a tile after a command (R70): the new value, and whether SAT is set. -/
def mmaElem (con : Contract) (z na : Bool) (a b : MmaRow) (pa pb : Option (Nat × Nat × BitVec 32)) (old : LaneVal) :
    LaneVal × Bool :=
  match firstPoison pa pb with
  | some t => (⟨t, true⟩, false)
  | none =>
    if !z && old.p then (old, false)
    else
      let acc := if z then 0 else old.bits.toNat
      let words (xs : List LaneVal) : List Nat := xs.map fun x => x.bits.toNat
      let (r, sat) := contractResult con na (words a.elems) (words a.scales) (words b.elems) (words b.scales) acc
      (⟨BitVec.ofNat 32 r, false⟩, sat)

/-- The scaled reading of an element under C.TER (R75): rne_fp32(acc · RS · CS). -/
def terRead (acc rs cs : Nat) : Nat :=
  let v := sint 32 acc
  match bf16.decode rs, bf16.decode cs with
  | .num n1 m1 e1, .num n2 m2 e2 =>
    if v = 0 ∨ m1 = 0 ∨ m2 = 0 then 0
    else (froundNum fp32 .rne false .ieee (decide (v < 0) != (n1 != n2)) (v.natAbs * m1 * m2) (e1 + e2)).bits
  | x, y =>
    if x.isNan || y.isNan then fp32.nanBits
    else
      let isZ (u : Fp) : Bool :=
        match u with
        | .num _ m _ => decide (m = 0)
        | _ => false
      let sgn (u : Fp) : Bool :=
        match u with
        | .inf n => n
        | .num n _ _ => n
        | .nan _ => false
      if v = 0 ∨ isZ x ∨ isZ y then fp32.nanBits
      else (fp32.infRes (decide (v < 0) != (sgn x != sgn y)) 0).bits

end Sys2Proof.Machine
end

