-- ==== Sys2Proof/Machine/Access.lean ====
section
/-!
DEFINITION. What the global memory instructions share: buffer records (R171, R172), bounds and checks (R181 to R183), the
value a load returns (R200, R206), the trap of failing lanes (R250, R251), and results in register groups (R151).
-/

namespace Sys2Proof.Machine

/-! ## Buffer records -/

abbrev BufRec := BitVec 256

def recBase (r : BufRec) : Nat := (r.extractLsb' 0 57).toNat
def recExtent (r : BufRec) : Nat := (r.extractLsb' 64 48).toNat
def recFmt (r : BufRec) : Nat := (r.extractLsb' 112 4).toNat
def recNull (r : BufRec) : Bool := r.extractLsb' 116 2 == 1#2
def recScratch (r : BufRec) : Bool := r.extractLsb' 118 2 == 1#2
def recEstride (r : BufRec) : Nat := (r.extractLsb' 128 32).toNat
def recRstride (r : BufRec) : Nat := (r.extractLsb' 160 32).toNat
def recRowlen (r : BufRec) : Nat := (r.extractLsb' 192 32).toNat

/-- R172: a reserved field is not zero, or BND or SPACE is reserved. -/
def recBad (r : BufRec) : Bool :=
  r.extractLsb' 57 7 != 0#7 || r.extractLsb' 120 8 != 0#8 || r.extractLsb' 224 32 != 0#32 ||
    r.getLsbD 117 || r.getLsbD 119

/-- R172: the address of an offset, exact and unbounded. -/
def recAddr (r : BufRec) (o : Nat) : Nat :=
  recBase r + if recRowlen r = 0 then o * recEstride r else o / recRowlen r * recRstride r + o % recRowlen r * recEstride r

def State.brec (s : State) (r : BitVec 4) : BufRec := s.wave.regs.b[r.toNat]?.getD 0#256

/-- R181. -/
def State.inBounds (s : State) (r : BufRec) (a n : Nat) : Bool :=
  decide (a - recBase r + n ≤ recExtent r ∧ a + n ≤ 2 ^ 57) &&
    (!recScratch r || decide (a + n ≤ 2 ^ 18 * (s.csctlAt s.wave.id.cluster).cur))

/-! ## Checks -/

/-- What becomes of one lane's access: the physical address of each byte (or the offset in cluster scratch); null under
BND 1; or a cause and its address. -/
inductive LaneChk where
  | ok (pas : List Nat) (uncached : Bool)
  | null
  | bad (c : Cause) (addr : Nat)
deriving DecidableEq, Repr

/-- The physical addresses of a check that passed. -/
def LaneChk.pas : LaneChk → List Nat
  | .ok ps _ => ps
  | _ => []

/-- Is the access to an uncached page (R279)? -/
def LaneChk.uncached : LaneChk → Bool
  | .ok _ u => u
  | _ => false

def State.asid (s : State) : Nat := s.wave.id.asid.toNat

/-- Translate an access of `n` bytes for the issuing wave. An aligned access of up to 16 bytes lies in one page; a longer
one is translated word by word. -/
def State.xlatRange (s : State) (va n : Nat) (need : Need) : LaneChk :=
  let one (a k : Nat) : LaneChk := match s.xlat s.wg.ext s.wave.id.cluster s.asid a need with
    | .ok pa mt => .ok ((List.range k).map (pa + ·)) (mt != 0#2)
    | .null => .null
    | .bad c x => .bad c x
  if n ≤ 16 then one va n
  else (List.range (n / 4)).foldl (fun acc i => match acc, one (va + 4 * i) 4 with
    | .ok ps u, .ok qs v => .ok (ps ++ qs) (u || v)
    | .ok _ _, e => e
    | e, _ => e) (.ok [] false)

/-- R182, R183, R279: one lane, alignment first, then bounds, then ownership or translation and protection. -/
def State.checkLane (s : State) (r : BufRec) (a n align : Nat) (need : Need) : LaneChk :=
  if a % align ≠ 0 then .bad .align a
  else if !s.inBounds r a n then (if recNull r then .null else .bad .bounds a)
  else if recScratch r then
    if (s.csctlAt s.wave.id.cluster).curOwner = s.asid then .ok ((List.range n).map (a + ·)) false else .bad .prot a
  else s.xlatRange a n need

/-- What translating these addresses leaves in the range TLBs. -/
def State.touchTlbs (s : State) (r : BufRec) (vas : List Nat) : State :=
  if recScratch r then s
  else vas.foldl (fun s a => s.lookupTouch s.wg.ext s.wave.id.cluster s.asid a) s

/-- The lanes that a wave has, as a set: those of MCHK (R250). -/
def Wave.allLanes (w : Wave) : Lanes := BitVec.ofNat 64 (2 ^ w.lanes - 1)

/-- MCHK with the physical address of an error (R250). -/
def State.mchk (s : State) (pa : Nat) : Trap := Trap.plain .mchk (BitVec.ofNat 64 pa) s.wave.allLanes

/-- The trap of the failing lanes: the cause of highest priority, its lanes, and the lowest one's FADDR, for each half. A
scalar access fails for every lane of the slot. -/
def State.pickTrap (s : State) (vector : Bool) (fails : List (Nat × Cause × Nat)) : Option Trap :=
  match fails with
  | [] => none
  | f :: fs =>
    let best := fs.foldl (fun (b : Nat × Cause × Nat) e => if e.2.1.priority < b.2.1.priority then e else b) f
    let hit := (f :: fs).filter fun e => e.2.1 == best.2.1
    let addr (up : Bool) : Option Word64 := (hit.find? fun e => decide (32 ≤ e.1) == up).map fun e => BitVec.ofNat 64 e.2.2
    let a := BitVec.ofNat 64 ((hit.head?.map (·.2.2)).getD 0)
    some ⟨best.2.1, (addr false).getD a, (addr true).getD a,
      if best.2.1 == .mchk then s.wave.allLanes else if !vector then s.mask else maskOf (hit.map (·.1))⟩

/-- The offset operand in a lane: 32 bits from a vector register, 64 from a scalar (R181). -/
def State.offsetOf (s : State) (o : Opd) (l : Nat) : ScalVal :=
  if o.isVec then s.srcA true o l else s.readScalAt l (s.ref o)

/-! ## The value of a load -/

/-- Bytes that the wave itself holds, by address (cluster scratch offsets stand 2^60 higher): its stores, and in
reproducible mode its atomics, in order (R124, R200). -/
def State.baseByte (s : State) (cs : Bool) (pa : Nat) : Byte :=
  if cs then s.cscrByte s.wave.id.cluster pa
  else if isRemote pa then Config.remoteByte s.tick pa
  else s.cachedByte s.wave.id.gcore pa

def State.viewIn (s : State) (ov : FMap Byte) (cs : Bool) (pa : Nat) : Byte :=
  (ov.find (viewKey cs pa)).getD (s.baseByte cs pa)

/-- The overlay of the wave's own held effects. -/
def State.overlay (s : State) : FMap Byte :=
  s.wave.fifo.foldl (fun ov e => match e with
    | .store cs _ _ bytes _ => bytes.foldl (fun m b => m.put (viewKey cs b.1) b.2) ov
    | .atom cs op _ lanes _ _ _ => lanes.foldl (fun m l => match l.loc with
        | none => m
        | some a =>
          let old := word32Of ((fourAt a).map (s.viewIn m cs))
          (bytePairs a 4 (atomNew op old l.x l.y).toNat).foldl (fun m b => m.put (viewKey cs b.1) b.2) m) ov
    | .unlock pa _ =>
      if numOfBytes ((List.range 8).map fun i => s.viewIn ov false (pa + i)) = lockValue s.wave.id.handle then
        (bytePairs pa 8 0).foldl (fun m b => m.put (viewKey false b.1) b.2) ov
      else ov
    | _ => ov) []

/-- The bytes of atomics that wait in the FIFO. -/
def Eff.atomBytes : Eff → List Nat
  | .atom cs _ _ lanes _ _ _ => lanes.flatMap fun l => match l.loc with | some a => (fourAt a).map (viewKey cs) | none => []
  | _ => []

/-- A load that reads bytes of an atomic held in the FIFO waits until that atomic is performed (R200): the FIFO drains. In
reproducible mode the load sees the held atomic instead (R124). -/
def State.settleAtomics (s : State) (cs : Bool) (pas : List Nat) : State :=
  if s.wave.repro then s
  else if s.wave.fifo.any fun e => e.atomBytes.any fun b => pas.any fun p => viewKey cs p == b then s.drainFifo s.iss.cur else s

/-- The number a load reads from bytes: `none` when one of them has an uncorrectable error (R268). -/
def State.loadNum (s : State) (ov : FMap Byte) (cs : Bool) (uncached : Bool) (pas : List Nat) : Except Nat Nat :=
  match pas.find? fun a => !cs && !isRemote a && (ov.find (viewKey cs a)).isNone && s.ueAt a with
  | some a => .error a
  | none => .ok (numOfBytes (pas.map fun a =>
      if uncached && !isRemote a then (ov.find (viewKey cs a)).getD (s.uncachedByte s.wave.id.gcore a) else s.viewIn ov cs a))

/-- What a set of loads leaves behind: cache lines, and a fresh value for the next remote read. Bytes that the wave's own FIFO serves are
not read anywhere else where nothing is allocated for them. -/
def State.loadsTouch (s : State) (cs nc uncached : Bool) (pas : List Nat) : State :=
  let ov := s.overlay
  let s := if cs then s
    else s.loadTouch s.wave.id.gcore nc uncached
      (pas.filter fun a => !isRemote a && !((nc || uncached) && (ov.find (viewKey cs a)).isSome))
  if pas.any isRemote then { s with tick := s.tick + 1 } else s

/-! ## Results in register groups -/

/-- What a load comes to in a lane: an earlier token, a new one, or the contents of each register of the group. -/
inductive GRes where
  | tok (t : Word32)
  | fresh (code : BitVec 8) (addr : Nat)
  | val (regs : List Word64)
deriving DecidableEq, Repr

def destShift (d : Dest) (k : Nat) : Dest :=
  match d with
  | .none => .none
  | .vec r => .vec (r + k)
  | .scal i => .scal (i + k)
  | .wgreg i => .wgreg (i + k)

/-- Register `k` of a lane's result; a token fills every register of the group (R243). -/
def GRes.reg (toks : List (Nat × Word32)) (l k : Nat) : GRes → ScalVal
  | .tok t => ⟨t.setWidth 64, true⟩
  | .fresh .. => ⟨(((toks.find? fun t => t.1 == l).map (·.2)).getD 0#32).setWidth 64, true⟩
  | .val rs => ⟨rs.getD k 0#64, false⟩

/-- Add the results of a variable-latency load of `nr` registers. -/
def State.pendGroup (s : State) (d : Dest) (nr : Nat) (rs : List (Nat × GRes)) (remote : List (Nat × Nat))
    (pages : List VPage) : State :=
  let fresh := rs.filterMap fun e => match e.2 with | .fresh c a => some (e.1, c, a) | _ => none
  let (toks, s) := s.makeTokens s.iss.cur s.pc fresh
  let ws := (List.range nr).flatMap fun k => (destShift d k).writes s.wave.id.topLane (rs.map fun e => (e.1, e.2.reg toks e.1 k))
  s.addPend s.iss.cur { Pend.plain ws (d.mask (rs.map (·.1))) with remote := remote, pc := s.pc, pages := pages }

/-- How many registers `n` bytes fill: lanes hold 4 bytes, scalar registers 8. -/
def groupRegs (vector : Bool) (n : Nat) : Nat := if vector then max 1 (n / 4) else max 1 (n / 8)

/-- Split a number of `n` bytes into registers, extended to the register width (R394). -/
def splitRegs (vector sx : Bool) (n x : Nat) : List Word64 :=
  let x' := if sx then ofSint 64 (sint (8 * n) x) else x
  (List.range (groupRegs vector n)).map fun k =>
    if vector then BitVec.ofNat 64 (x' / 2 ^ (32 * k) % 2 ^ 32) else BitVec.ofNat 64 (x' / 2 ^ (64 * k))

def memBytes : MemSize → Nat
  | .b8 => 1 | .b16 => 2 | .b32 => 4 | .b64 => 8 | .b128 => 16

/-- Vector and scalar group sizes of an access of `n` bytes (R151). -/
def groupOf (o : Opd) (n : Nat) : Grp := { o := o, nv := groupRegs true n, ns := groupRegs false n }

/-- The codes of tokens by cause (R244). -/
def tokenCode : Cause → BitVec 8
  | .xlate => 0x01#8
  | .bounds => 0x02#8
  | .prot => 0x03#8
  | .align => 0x06#8
  | _ => 0x05#8

/-- The release or acquire scope of an ORD code (R201): 0 for none. -/
def ordScope : OrdCode → Nat
  | .plain => 0 | .wg => 1 | .clu => 2 | .chip => 3 | .dev => 4 | .sys => 5 | .nc => 0 | .ord7 => 0

/-- A register operand that may hold memory data: v, s, g or ZERO. -/
def dataReg : Opd → Bool
  | .laneid | .waveid | .time | .bad _ => false
  | _ => true

/-- The MCHK of a `.sys` release after a failed remote store (R323). -/
def State.sysFail (s : State) (scope : Nat) : Option Trap :=
  (s.wave.sysReleaseTrap scope).map s.mchk

/-- Release, where the scope asks for one. -/
def State.releaseAt (s : State) (scope : Nat) : State := if scope = 0 then s else s.release s.iss.cur scope

/-- Go on after a release; one at `.sys` stalls until the other devices have acknowledged what the wave has sent (R185). -/
def State.released (s : State) (scope : Nat) (body : State → Out) : Out :=
  let s := s.releaseAt scope
  if s.sysWaits s.iss.cur scope then .next s.stall else body s

def State.acquireAt (s : State) (scope : Nat) : State := if scope = 0 then s else s.acquire s.iss.cur scope

end Sys2Proof.Machine
end

