-- ==== Sys2Proof/Machine/LdSt.lean ====
section
/-!
DEFINITION. Global loads and stores: LD (R393, R394), LDX (R396), PREF (R419), ST and STX (R441 to R443).
-/

namespace Sys2Proof.Machine

/-- One lane of a load: what it reads (`bytes` and the alignment it needs, and how the bytes become registers). -/
structure LoadShape where
  n : Nat
  align : Nat
  addr : Nat → Nat
  regs : Bool → Nat → Nat → List Word64 × BitVec 6

/-- The addresses a load checks, lane by lane, skipping lanes with a poisoned offset or guard. -/
def State.loadChecks (s : State) (vector : Bool) (o : Opd) (r : BufRec) (h : LoadShape) (spec : Bool) : List (Nat × LaneChk) :=
  (s.workLanes vector).filterMap fun l =>
    let x := s.offsetOf o l
    if (firstTok [x.tok, s.guardTok l]).isSome then none
    else some (l, s.checkLane r (h.addr x.bits.toNat) h.n h.align (if spec then .spec else .load))

def chkFails (cs : List (Nat × LaneChk)) : List (Nat × Cause × Nat) :=
  cs.filterMap fun e => match e.2 with | .bad c a => some (e.1, c, a) | _ => none

/-- A walk's uncorrectable error is MCHK even under `.spec` (R268). -/
def specFails (spec : Bool) (fs : List (Nat × Cause × Nat)) : List (Nat × Cause × Nat) :=
  if spec then fs.filter fun f => f.2.1 == .mchk else fs

def chkPas (cs : List (Nat × LaneChk)) : List Nat :=
  cs.flatMap fun e => match e.2 with | .ok ps _ => ps | _ => []

/-- The lanes that read remote memory, with the first remote address of each. -/
def remoteLanes (cs : List (Nat × LaneChk)) : List (Nat × Nat) :=
  cs.filterMap fun e => match e.2 with
    | .ok ps _ => (ps.find? isRemote).map fun a => (e.1, a)
    | _ => none

def chkUncached (cs : List (Nat × LaneChk)) : Bool := cs.any (·.2.uncached)

/-- The check of a lane; a lane without one is null. -/
def chkOf (cs : List (Nat × LaneChk)) (l : Nat) : LaneChk :=
  match cs.find? fun e => e.1 == l with
  | some e => e.2
  | none => .null

/-- The result of a load in a lane, and its flags (R394). -/
def State.loadLane (s : State) (ov : FMap Byte) (vector : Bool) (o : Opd) (cs : Bool) (h : LoadShape)
    (checks : List (Nat × LaneChk)) (l : Nat) : GRes × BitVec 6 :=
  let x := s.offsetOf o l
  match firstTok [x.tok, s.guardTok l] with
  | some t => (.tok t, 0#6)
  | none =>
    match chkOf checks l with
    | .ok pas u =>
      match s.loadNum ov cs u pas with
      | .error a => (.fresh 0x05#8 a, 0#6)
      | .ok v => let r := h.regs vector x.bits.toNat v; (.val r.1, r.2)
    | .bad c a => (.fresh (tokenCode c) a, 0#6)
    | .null => (.val [], 0#6)

/-- A load: checks, values, caches, results, acquire (R394). -/
def State.load (s : State) (sw : Bool) (d o : Opd) (r : BitVec 4) (c : OrdCode) (spec : Bool) (nr : Bool → Nat) (f : Form)
    (extra : Bool) (h : LoadShape) : Out :=
  let v := f.isVec
  let rec_ := s.brec r
  let checks := s.loadChecks v o rec_ h spec
  s.guarded (firstTrap [s.formTrap f (extra || recBad rec_ || c == .ord7 || !dataReg d),
      s.pickTrap v (specFails spec (chkFails checks))]) fun s =>
    let cs := recScratch rec_
    let s := s.touchTlbs rec_ ((checks.filter fun e => !e.2.pas.isEmpty).map fun e => h.addr (s.offsetOf o e.1).bits.toNat)
    let s := s.settleAtomics cs (chkPas checks)
    let ov := s.overlay
    let rs := (s.workLanes v).map fun l => (l, s.loadLane ov v o cs h checks l)
    let fl (up : Bool) := orAll ((rs.filter fun e => decide (32 ≤ e.1) == up).map fun e => e.2.2)
    let s := (s.loadsTouch cs (c == .nc) false (chkPas (checks.filter fun e => !e.2.uncached))).loadsTouch cs false true
      (chkPas (checks.filter (·.2.uncached)))
    let far := remoteLanes checks
    let pages := pagesOf h.n (far.map fun e => h.addr (s.offsetOf o e.1).bits.toNat)
    let s := (s.pendGroup (s.dest d) (nr v) (rs.map fun e => (e.1, e.2.1)) far pages).orFlags s.iss.cur (fl false) (fl true)
    .next ((s.acquireAt (ordScope c)).retire sw)

/-- LD's bytes: the address of the offset, the value extended. -/
def ldShape (r : BufRec) (n : Nat) (sx : Bool) : LoadShape :=
  { n := n, align := n, addr := recAddr r, regs := fun vector _ x => (splitRegs vector sx n x, 0#6) }

def execLd (sw : Bool) (d o : Opd) (r : BitVec 4) (c : OrdCode) (e x : Bool) (z : MemSize) (s : State) : Out :=
  let n := memBytes z
  s.load sw d o r c e (fun v => groupRegs v n) { a := some { o := o }, dst := some (groupOf d n) } false (ldShape (s.brec r) n x)

/-- An element of a format of one element to a unit as LDX reads it: dec of R81, but that every NaN gives the canonical NaN
(R31, R396; log entry 60). -/
def ldxElem (fmt x : Nat) : FRes :=
  if fmt = 1 ∧ (fp32.decode (x % 2 ^ 32)).isNan then ⟨fp32.nanBits, snanFlag [fp32.decode (x % 2 ^ 32)]⟩ else decElem fmt x

/-- R396: one element of the record's format, as FP32 or INT32. -/
def ldxRegs (fmt : Nat) (vector : Bool) (o x : Nat) : List Word64 × BitVec 6 :=
  if isIntFmt fmt then
    let v := ofSint 64 (sint (intFmtWidth fmt) x)
    ([if vector then BitVec.ofNat 64 (v % 2 ^ 32) else BitVec.ofNat 64 v], 0#6)
  else
    let r : FRes := if fmtElems fmt = 1 then ldxElem fmt x
      else (decBlock fmt ((leBytes (fmtUnit fmt) x).map (·.toNat))).getD (o % fmtElems fmt) ⟨0, 0#6⟩
    ([BitVec.ofNat 64 (r.bits % 2 ^ 32)], if fmt = 8 then r.flags &&& flNV else 0#6)

def ldxShape (r : BufRec) : LoadShape :=
  { n := max 1 (fmtUnit (recFmt r)), align := fmtAlign (recFmt r), addr := fun o => recAddr r (o / max 1 (fmtElems (recFmt r))),
    regs := ldxRegs (recFmt r) }

def execLdx (sw : Bool) (d o : Opd) (r : BitVec 4) (c : OrdCode) (e : Bool) (s : State) : Out :=
  let fmt := recFmt (s.brec r)
  s.load sw d o r c e (fun _ => 1) { a := some { o := o }, dst := some { o := d } } (fmt == 0 || fmt == 14 || fmt == 15)
    (ldxShape (s.brec r))

/-! ## PREF (R419) -/

/-- The lines a PREF fetches: of the lanes that pass every check. -/
def State.prefLines (s : State) (o : Opd) (r : BufRec) : List Nat :=
  if recBad r || recScratch r then []
  else ((s.workLanes o.isVec).filterMap fun l =>
    let x := s.offsetOf o l
    if (firstTok [x.tok, s.guardTok l]).isSome then none
    else
      let a := recAddr r x.bits.toNat
      match s.checkLane r a 1 1 .spec with
      | .ok (pa :: _) u => if u || isRemote pa then none else some (pa / 128)
      | _ => none).eraseDups

/-- Fetch a line for PREF: into L1 and the slice, the slice, or the last-level cache, which is the home. -/
def State.prefFill (s : State) (c : OrdCode) (line : Nat) : State :=
  match c with
  | .plain => s.fillL1 s.wave.id.gcore line
  | .clu => s.fillL2 s.wave.id.cluster line
  | _ => s

def execPref (sw : Bool) (o : Opd) (r : BitVec 4) (c : OrdCode) (s : State) : Out :=
  s.guarded (s.formTrap { a := some { o := o } } (c != .plain && c != .clu && c != .dev)) fun s =>
    let lines := s.prefLines o (s.brec r)
    let s := if recBad (s.brec r) then s
      else s.touchTlbs (s.brec r) ((s.workLanes o.isVec).filterMap fun l =>
        let x := s.offsetOf o l
        if (firstTok [x.tok, s.guardTok l]).isSome || !s.inBounds (s.brec r) (recAddr (s.brec r) x.bits.toNat) 1 then none
        else some (recAddr (s.brec r) x.bits.toNat))
    .next ((lines.foldl (fun s l => s.prefFill c l) s).retire sw)

/-! ## Stores -/

/-- Register `k` of the data group in a lane. -/
def State.dataOf (s : State) (vector : Bool) (d : Opd) (k l : Nat) : ScalVal :=
  if vector && d.isVec then let x := s.readLane s.xw.permB s.xw.argB (s.ref d) k l; ⟨x.bits.setWidth 64, x.p⟩
  else match s.ref d with
    | .scal i => s.readScalAt l (.scal (i + k))
    | .wgreg i => s.readScal (.wgreg (i + k))
    | x => s.readScal x

/-- The registers of a data operand for `n` bytes. -/
def dataRegs (d : Opd) (n : Nat) : Nat := groupRegs d.isVec n

/-- The `n` low bytes of the data group. -/
def State.dataNum (s : State) (vector : Bool) (d : Opd) (n l : Nat) : Nat :=
  let w := if d.isVec then 32 else 64
  ((List.range (dataRegs d n)).foldl (fun acc k => acc + (s.dataOf vector d k l).bits.toNat * 2 ^ (w * k)) 0) % 2 ^ (8 * n)

/-- The tokens a store raises for in a lane: offset, data, guard (R247). -/
def State.storeTok (s : State) (vector : Bool) (d o : Opd) (n l : Nat) : Option Word32 :=
  firstTok ([(s.offsetOf o l).tok] ++ ((List.range (dataRegs d n)).map fun k => (s.dataOf vector d k l).tok) ++ [s.guardTok l])

/-- The address checks of a store, in the lanes whose offset is plain. -/
def State.storeChecks (s : State) (vector : Bool) (o : Opd) (r : BufRec) (n align : Nat) (need : Need) : List (Nat × LaneChk) :=
  (s.workLanes vector).filterMap fun l =>
    let x := s.offsetOf o l
    if x.p then none else some (l, s.checkLane r (recAddr r x.bits.toNat) n align need)

/-- The POISON trap of a store's lanes; a scalar store's covers the slot. -/
def State.lanePoison (s : State) (vector : Bool) (tok : Nat → Option Word32) : Option Trap :=
  (poisonTrap (s.workLanes vector) tok).map fun t => if vector then t else { t with fmask := s.mask }

/-- Does a held effect take an entry of the store FIFO: stores and atomics, and in reproducible mode the scratchpad's (R122)? -/
def Eff.takesEntry : Eff → Bool
  | .store .. | .atom .. | .spmStore _ | .spmAtom .. => true
  | _ => false

/-- Room for `n` entries in the FIFO (R184), of a pair in that of each half (R105): without it the wave stalls, or its quantum ends first (R122). -/
def State.withRoom (s : State) (n : Nat) (body : State → Out) : Out :=
  if [false, true].all fun up => decide ((s.wave.fifo.filter fun e => e.takesEntry && e.upper == up).length + n ≤ 64) then body s
  else .next (if s.wave.repro then s.endQuantumBefore else s.stall)

/-- The mixing rule of stored data: a vector offset takes scalar data only up to 32 bits (R441). -/
def storeMix (d o : Opd) (n : Nat) : Bool := o.isVec && !d.isVec && decide (4 < n)

def storeForm (d o : Opd) (n : Nat) : Form := { a := some { o := o }, data := some (groupOf d n) }

/-- A store of `n` bytes in each lane, converted by `enc` (R442). -/
def State.store (s : State) (sw : Bool) (d o : Opd) (r : BitVec 4) (c : OrdCode) (regBytes n align : Nat) (extra : Bool)
    (enc : Nat → FRes) : Out :=
  let f := storeForm d o regBytes
  let v := f.isVec
  let rec_ := s.brec r
  let checks := s.storeChecks v o rec_ n align .store
  s.guarded (firstTrap [s.sysFail (ordScope c), s.formTrap f (extra || recBad rec_ || c == .ord7 || !dataReg d || storeMix d o regBytes),
      s.pickTrap v (chkFails checks), s.lanePoison v (s.storeTok v d o regBytes)]) fun s =>
    s.released (ordScope c) fun s => s.withRoom 1 fun s =>
      let vas (cs : List (Nat × LaneChk)) := (cs.filter fun e => !e.2.pas.isEmpty).map fun e => recAddr rec_ (s.offsetOf o e.1).bits.toNat
      let s := s.touchTlbs rec_ (vas checks)
      let bytes (cs : List (Nat × LaneChk)) := cs.flatMap fun e => match e.2 with
        | .ok pas _ => pas.zip (leBytes n (enc (s.dataNum v d regBytes e.1)).bits)
        | _ => []
      let fl (up : Bool) := orAll (checks.map fun e => match e.2 with
        | .ok _ _ => if decide (32 ≤ e.1) == up then (enc (s.dataNum v d regBytes e.1)).flags else 0#6
        | _ => 0#6)
      let s := (s.holdAll s.iss.cur ((byHalf checks).map fun cs =>
        .store (recScratch rec_) (c == .nc || chkUncached checks) (isUpper cs) (bytes cs) (if recScratch rec_ then [] else pagesOf n (vas cs)))).orFlags
          s.iss.cur (fl false) (fl true)
      .next ((s.setWave s.wave.clearIdem).retire sw)

def execSt (sw : Bool) (d o : Opd) (r : BitVec 4) (c : OrdCode) (z : MemSize) (s : State) : Out :=
  let n := memBytes z
  s.store sw d o r c n n n false fun x => ⟨x, 0#6⟩

/-- STX's conversion of a lane value to the record's format (R443). -/
def stxEnc (fmt : Nat) (sat8 : Bool) (x : Nat) : FRes :=
  if isIntFmt fmt then convElem 13 fmt sat8 x else encElem fmt sat8 x

def execStx (sw : Bool) (d o : Opd) (r : BitVec 4) (c : OrdCode) (s : State) : Out :=
  let fmt := recFmt (s.brec r)
  s.store sw d o r c 4 (max 1 (fmtUnit fmt)) (fmtAlign fmt) (fmt == 0 || fmtElems fmt != 1 || decide (14 ≤ fmt)) (stxEnc fmt s.fenv.sat8)

end Sys2Proof.Machine
end

