-- ==== Sys2Proof/Machine/Atom.lean ====
section
/-!
DEFINITION. Global atomics: ATOM (R345, R346) and ATOMN (R347).
-/

namespace Sys2Proof.Machine

/-- How many data registers an atomic reads: D, and D+1 for cas (R345). -/
def atomRegs (p : AtomOp) : Nat := if p = .cas then 2 else 1

/-- The tokens an atomic raises for in a lane: offset, data, guard (R346). -/
def State.atomTok (s : State) (vector : Bool) (d o : Opd) (p : AtomOp) (l : Nat) : Option Word32 :=
  firstTok ([(s.offsetOf o l).tok] ++ ((List.range (atomRegs p)).map fun k => (s.dataOf vector d k l).tok) ++ [s.guardTok l])

/-- An atomic's data group: D alone, or under cas an aligned pair of registers (R151, R345). -/
def atomGrp (d : Opd) (p : AtomOp) : Grp := { o := d, nv := atomRegs p, ns := atomRegs p }

/-- The ILLOP conditions on an atomic's data operand (R345, R157). -/
def atomBad (d o : Opd) (p : AtomOp) : Bool :=
  !dataReg d || (p == .cas && d == .zero) || (o.isVec && d.isScalarReg)

/-- The lane of an atomic, where its access goes: `none` is a lane out of bounds under BND 1. -/
def State.atomLane (s : State) (vector : Bool) (d : Opd) (e : Nat × LaneChk) : AtomLane :=
  { lane := e.1, loc := match e.2 with | .ok ps _ => ps.head? | _ => none,
    x := (s.dataOf vector d 0 e.1).bits.setWidth 32, y := (s.dataOf vector d 1 e.1).bits.setWidth 32,
    far := match e.2 with | .ok _ u => u | _ => false }

/-- An atomic (R346): checks, release, the entry of the store FIFO, and for a scoped one its performance; a returning one
then acquires and ends its quantum in reproducible mode (R122, R201). -/
def State.atomic (s : State) (sw ret : Bool) (d o : Opd) (r : BitVec 4) (c : OrdCode) (p : AtomOp) : Out :=
  let f : Form := { a := some { o := o }, data := some (atomGrp d p), dst := if ret then some (atomGrp d p) else none }
  let v := f.isVec
  let rec_ := s.brec r
  let checks := (s.storeChecks v o rec_ 4 4 .atomic).filter fun e => v || e.1 == 0
  s.guarded (firstTrap [s.sysFail (ordScope c), s.formTrap f (recBad rec_ || c == .nc || c == .ord7 || atomBad d o p),
      s.pickTrap v (chkFails checks), s.lanePoison v (s.atomTok v d o p)]) fun s =>
    s.released (ordScope c) fun s => s.withRoom 1 fun s =>
      let vas (cs : List (Nat × LaneChk)) := (cs.filter fun e => !e.2.pas.isEmpty).map fun e => recAddr rec_ (s.offsetOf o e.1).bits.toNat
      let s := s.touchTlbs rec_ (vas checks)
      let dst := if ret then s.dest d else .none
      let s := s.holdAll s.iss.cur ((byHalf checks).map fun cs =>
        .atom (recScratch rec_) p c (cs.map (s.atomLane v d)) s.pc dst (if recScratch rec_ then [] else pagesOf 4 (vas cs)))
      let s := s.setWave s.wave.clearIdem
      let s := if ordScope c != 0 && !s.wave.repro then s.drainFifo s.iss.cur else s
      let s := if ret then s.acquireAt (ordScope c) else s
      let s := s.retire sw
      .next (if ret then s.endQuantum else s)

def execAtom (sw : Bool) (d o : Opd) (r : BitVec 4) (c : OrdCode) (p : AtomOp) (s : State) : Out :=
  s.atomic sw true d o r c p

def execAtomn (sw : Bool) (d o : Opd) (r : BitVec 4) (c : OrdCode) (p : AtomOp) (s : State) : Out :=
  s.atomic sw false d o r c p

end Sys2Proof.Machine
end

