-- ==== Sys2Proof/Machine/Spm.lean ====
section
/-!
DEFINITION. The scratchpad (R179, R180, R207) and its instructions LDS (R395), STS (R444) and ATOMS (R348).
-/

namespace Sys2Proof.Machine

/-! ## Words of the scratchpad -/

/-- A word with what a store does to it (R180). -/
def SpmAct.apply (a : SpmAct) (w : LaneVal) : LaneVal :=
  match a with
  | .whole v => v
  | .bytes l =>
    if w.p then w
    else ⟨word32Of (l.foldl (fun bs e => bs.set e.1 e.2) (leBytes 4 w.bits.toNat)), false⟩

/-- The value an ATOMS leaves in a word: a poisoned word stays (R180). -/
def spmAtomNew (op : AtomOp) (w : LaneVal) (x y : Word32) : LaneVal := if w.p then w else ⟨atomNew op w.bits x y, false⟩

/-- A map of scratchpad words with one word changed. -/
def spmPut (m : FMap LaneVal) (word : Nat) (v : LaneVal) : FMap LaneVal := m.set LaneVal.zero word v

/-- Perform a scratchpad effect on the map of words. -/
def spmEff (m : FMap LaneVal) : Eff → FMap LaneVal
  | .spmStore ws => ws.foldl (fun m e => spmPut m e.1 (e.2.apply (m.get LaneVal.zero e.1))) m
  | .spmAtom op lanes _ => lanes.foldl (fun m l => match l.loc with
      | some w => spmPut m w (spmAtomNew op (m.get LaneVal.zero w) l.x l.y)
      | none => m) m
  | _ => m

/-- The scratchpad as a wave sees it: the workgroup's, overlaid by what the wave holds (R124). -/
def State.spmView (s : State) : FMap LaneVal := s.wave.fifo.foldl spmEff s.wg.scratch

/-- Perform a scratchpad effect for a wave; an ATOMS leaves its old values as an outstanding result. -/
def State.performSpm (s : State) (k : Nat) (e : Eff) : State :=
  let g := s.wgAt (s.waveAt k).id.wgKey
  let s' := s.setWgAt (s.waveAt k).id.wgKey { g with scratch := spmEff g.scratch e }
  match e with
  | .spmAtom op lanes dst =>
    let olds := lanes.foldl (fun (acc : List (Nat × LaneVal) × FMap LaneVal) l => match l.loc with
      | some w => (acc.1 ++ [(l.lane, acc.2.get LaneVal.zero w)], spmPut acc.2 w (spmAtomNew op (acc.2.get LaneVal.zero w) l.x l.y))
      | none => acc) (([] : List (Nat × LaneVal)), g.scratch)
    s'.addPend k (Pend.plain (dst.ofLanes olds.1) (atomMask lanes))
  | _ => s'

/-! ## Checks (R179) -/

/-- The end of the workgroup's scratchpad pages. -/
def State.spmLimit (s : State) : Nat := 4096 * ((s.wg.kern.scratch + 4095) / 4096)

/-- The failing lanes of a scratchpad access of `n` bytes; a lane in `skip` undergoes no check. -/
def State.spmFails (s : State) (vector : Bool) (o : Opd) (n : Nat) (skip : Nat → Bool) : List (Nat × Cause × Nat) :=
  (s.workLanes vector).filterMap fun l =>
    if skip l then none
    else
      let a := (s.offsetOf o l).bits.toNat
      if a % n ≠ 0 then some (l, .align, a)
      else if s.spmLimit < a + n then some (l, .bounds, a)
      else none

/-- ORD of a scratchpad access: 0 or 1 (R167). -/
def spmOrd (c : OrdCode) : Bool := c == .plain || c == .wg

/-! ## LDS -/

/-- A scratchpad word, or the part of it that an access of `n` bytes at `a` reads. -/
def spmPart (m : FMap LaneVal) (a n : Nat) : LaneVal :=
  let w := m.get LaneVal.zero (a / 4)
  if w.p || decide (4 ≤ n) then w else ⟨BitVec.ofNat 32 (w.bits.toNat / 2 ^ (8 * (a % 4)) % 2 ^ (8 * n)), false⟩

/-- Register `k` of what LDS reads: one word of a vector group, two of a scalar one; a poisoned word's token goes to its
register (R180, R395). -/
def ldsReg (m : FMap LaneVal) (vector : Bool) (a n k : Nat) : ScalVal :=
  if vector then let w := spmPart m (a + 4 * k) (min n 4); ⟨w.bits.setWidth 64, w.p⟩
  else
    let lo := spmPart m (a + 8 * k) (min n 4)
    if lo.p || decide (n < 8) then ⟨lo.bits.setWidth 64, lo.p⟩
    else
      let hi := spmPart m (a + 8 * k + 4) 4
      if hi.p then ⟨hi.bits.setWidth 64, true⟩ else ⟨hi.bits ++ lo.bits, false⟩

def execLds (sw : Bool) (d o : Opd) (c : OrdCode) (z : MemSize) (s : State) : Out :=
  let n := memBytes z
  let f : Form := { a := some { o := o }, dst := some (groupOf d n) }
  let v := f.isVec
  let tok (l : Nat) := firstTok [(s.offsetOf o l).tok, s.guardTok l]
  s.guarded (firstTrap [s.formTrap f (!spmOrd c || !dataReg d), s.pickTrap v (s.spmFails v o n fun l => (tok l).isSome)]) fun s =>
    let m := s.spmView
    let lanes := s.workLanes v
    let reg (k l : Nat) : ScalVal := match tok l with
      | some t => ⟨t.setWidth 64, true⟩
      | none => ldsReg m v (s.offsetOf o l).bits.toNat n k
    let ws := (List.range (groupRegs v n)).flatMap fun k => (destShift (s.dest d) k).writes s.wave.id.topLane (lanes.map fun l => (l, reg k l))
    let s := s.addPend s.iss.cur (Pend.plain ws ((s.dest d).mask lanes))
    .next ((s.acquireAt (ordScope c)).retire sw)

/-! ## STS -/

/-- What STS stores in one lane, word by word (R180). -/
def State.stsWords (s : State) (vector : Bool) (d : Opd) (a n l : Nat) : List (Nat × SpmAct) :=
  if n < 4 then
    let x := s.dataOf vector d 0 l
    [(a / 4, if x.p then .whole ⟨x.bits.setWidth 32, true⟩
      else .bytes (((List.range n).map (a % 4 + ·)).zip (leBytes n (x.bits.toNat % 2 ^ (8 * n)))))]
  else (List.range (n / 4)).map fun i =>
    if d.isVec then let x := s.dataOf vector d i l; (a / 4 + i, .whole ⟨x.bits.setWidth 32, x.p⟩)
    else
      let x := s.dataOf vector d (i / 2) l
      (a / 4 + i, .whole ⟨if x.p || i % 2 == 0 then x.bits.setWidth 32 else (x.bits >>> 32).setWidth 32, x.p⟩)

def execSts (sw : Bool) (d o : Opd) (c : OrdCode) (z : MemSize) (s : State) : Out :=
  let n := memBytes z
  let f := storeForm d o n
  let v := f.isVec
  let tok (l : Nat) := firstTok [(s.offsetOf o l).tok, s.guardTok l]
  s.guarded (firstTrap [s.formTrap f (!spmOrd c || !dataReg d || storeMix d o n),
      s.pickTrap v (s.spmFails v o n fun l => (s.offsetOf o l).p), s.lanePoison v tok]) fun s =>
    let e : Eff := .spmStore ((s.workLanes v).flatMap fun l => s.stsWords v d (s.offsetOf o l).bits.toNat n l)
    if s.wave.repro then s.withRoom 1 fun s => .next ((s.hold s.iss.cur e).retire sw)
    else .next (((s.releaseAt (ordScope c)).performSpm s.iss.cur e).retire sw)

/-! ## ATOMS -/

/-- One lane of an ATOMS: its word and operands. -/
def State.spmAtomLane (s : State) (vector : Bool) (d o : Opd) (l : Nat) : AtomLane :=
  { lane := l, loc := some ((s.offsetOf o l).bits.toNat / 4),
    x := (s.dataOf vector d 0 l).bits.setWidth 32, y := (s.dataOf vector d 1 l).bits.setWidth 32, far := false }

def execAtoms (sw : Bool) (d o : Opd) (c : OrdCode) (p : AtomOp) (s : State) : Out :=
  let f : Form := { a := some { o := o }, dst := some (atomGrp d p) }
  let v := f.isVec
  s.guarded (firstTrap [s.formTrap f (!spmOrd c || atomBad d o p),
      s.pickTrap v (s.spmFails v o 4 fun l => (s.offsetOf o l).p), s.lanePoison v (s.atomTok v d o p)]) fun s =>
    let e : Eff := .spmAtom p ((if v then s.workLanes true else [0]).map (s.spmAtomLane v d o)) (s.dest d)
    if s.wave.repro then
      s.withRoom 1 fun s => .next ((((s.hold s.iss.cur e).setWave (s.hold s.iss.cur e).wave.clearIdem).retire sw).endQuantum)
    else
      let s := ((s.releaseAt (ordScope c)).performSpm s.iss.cur e)
      .next (((s.setWave s.wave.clearIdem).acquireAt (ordScope c)).retire sw)

end Sys2Proof.Machine
end

