-- ==== Sys2Proof/Machine/Rec.lean ====
section
/-!
DEFINITION. The buffer-record instructions (R421 to R424): RLD, RSET, RGET, RCHK.
-/

namespace Sys2Proof.Machine

/-! ## Blocks that an instruction reads through its own translation -/

/-- Translate `n` bytes at `va` for an instruction that needs `need` and never reaches MT 1 pages. -/
def State.blockChk (s : State) (va n : Nat) (need : Need) : LaneChk := s.xlatRange va n need

/-- The trap of a failed check of a scalar access. -/
def State.chkTrap (s : State) (c : LaneChk) : Option Trap :=
  match c with
  | .bad c a => some (Trap.plain c (BitVec.ofNat 64 a) (if c = .mchk then s.wave.allLanes else s.mask))
  | _ => none

/-- An uncorrectable error in data an instruction reads by itself is MCHK (R268). -/
def State.ueTrap (s : State) (pas : List Nat) : Option Trap :=
  match s.loadNum s.overlay false false pas with
  | .error a => some (s.mchk a)
  | .ok _ => none

/-- The MCHK of an instruction's own read, which comes before every other cause (R250): of its walk or of its data, where it is made
at all. -/
def State.mchkTrap (s : State) (made : Bool) (c : LaneChk) : Option Trap :=
  if !made then none
  else match c with
    | .ok pas _ => s.ueTrap pas
    | .bad .mchk a => some (s.mchk a)
    | _ => none

/-- The remote bytes of a read that counts as one lane: the first of them stands for all (R323). -/
def remoteOf (pas : List Nat) : List (Nat × Nat) := ((pas.find? isRemote).map fun a => (0, a)).toList

/-- The number a scalar read of plain bytes gives, the wave's own stores included. -/
def State.readNum (s : State) (c : LaneChk) : Nat :=
  match s.loadNum s.overlay false c.uncached c.pas with
  | .error _ => 0
  | .ok v => v

/-- Read a block as a plain load does: after the atomics that wait on its bytes, leaving lines in the caches. -/
def State.readBlock (s : State) (va : Nat) (c : LaneChk) : Nat × State :=
  let s := (s.lookupTouch s.wg.ext s.wave.id.cluster s.asid va).settleAtomics false c.pas
  (s.readNum c, s.loadsTouch false false c.uncached c.pas)

/-- Is a block's read made: the operand is a legal one, not poisoned and aligned? -/
def State.blockMade (s : State) (bad : Bool) (a : Opd) (align : Nat) : Bool :=
  !bad && !(s.readScal (s.ref a)).p && (s.sval a).toNat % align == 0

/-! ## RLD (R422) -/

def execRld (sw : Bool) (b : BitVec 4) (a : Opd) (s : State) : Out :=
  let va := (s.sval a).toNat
  let c := s.blockChk va 32 .loadMem
  let bad := !a.sgz
  s.guarded (firstTrap [s.mchkTrap (s.blockMade bad a 32) c, s.formTrap { xw := .no } bad,
      if va % 32 = 0 || (s.readScal (s.ref a)).p then none else some (Trap.plain .align (s.sval a) s.mask),
      if (s.readScal (s.ref a)).p then none else s.chkTrap c, s.poisonScal [a]]) fun s =>
    let (x, s) := s.readBlock va c
    .next ((s.addPend s.iss.cur { Pend.plain [.brec b.toNat (BitVec.ofNat 256 x)] 1#64 with
      remote := remoteOf c.pas, pc := s.pc, pages := if (remoteOf c.pas).isEmpty then [] else pagesOf 32 [va] }).retire sw)

/-! ## RSET and RGET (R423) -/

/-- Replace quarter `q` of a record. -/
def recSetQuarter (r : BufRec) (q : Nat) (x : Word64) : BufRec :=
  (r &&& ~~~((BitVec.allOnes 64).setWidth 256 <<< (64 * q))) ||| (x.setWidth 256 <<< (64 * q))

def execRset (sw : Bool) (r : BitVec 4) (q : BitVec 2) (b : Opd) (s : State) : Out :=
  s.guarded (s.sysTrap (!b.sgz) [b]) fun s =>
    .next ((s.deliver s.iss.cur 1#64 (.brec r.toNat (recSetQuarter (s.brec r) q.toNat (s.sval b)))).retire sw)

def execRget (sw : Bool) (d : Opd) (r : BitVec 4) (q : BitVec 2) (s : State) : Out :=
  s.guarded (s.sysTrap (!d.sgz) []) fun s =>
    .next ((s.writeScal s.iss.cur (s.dest d) ((s.brec r).extractLsb' (64 * q.toNat) 64)).retire sw)

/-! ## RCHK (R424) -/

/-- The test of one offset: none for a poisoned one. -/
def State.rchkLane (s : State) (r : BufRec) (n : Nat) (x : ScalVal) : Option Bool :=
  if x.p then none
  else
    let a := recAddr r x.bits.toNat
    some (a % n == 0 && s.inBounds r a n && (!recScratch r || (s.csctlAt s.wave.id.cluster).curOwner == s.asid))

def execRchk (sw : Bool) (z : MemSize) (p : BitVec 3) (a : Opd) (r : BitVec 4) (s : State) : Out :=
  s.guarded (s.formTrap { a := some { o := a }, xw := .no } false) fun s =>
    .next ((s.putPred false p.toNat ((lanesOf s.mask).map fun l =>
      (l, s.rchkLane (s.brec r) (memBytes z) (s.offsetOf a l)))).retire sw)

end Sys2Proof.Machine
end

