-- ==== Sys2Proof/Machine/Module.lean ====
section
/-!
DEFINITION. Facts of the module: die classes and contracts (R13, R19, R21), the time of an MMA (R59), the refresh
timetable (R93, R94), energy charges (R298, R309, R310), and the fetch of instruction words (R290, R191).
-/

namespace Sys2Proof.Machine

/-! ## Classes -/

/-- The class of a compute die: 0 L, 1 M, 2 X, 3 T (R13). -/
def dieClass (die : Nat) : Nat := die % 4

/-- The native classes of a contract code, in the order M, T, L, X (R21). -/
def nativeClasses (con : Nat) : List Nat :=
  match con with
  | 0 => [1, 3, 0, 2]
  | 1 => [2]
  | 4 => [1, 3]
  | 5 => [0]
  | _ => [1]

/-- The fallback order of a contract code (R21). -/
def fallbackClasses (con : Nat) : List Nat :=
  match con with
  | 0 => []
  | 1 => [1, 3, 0]
  | 4 => [0, 2]
  | 5 => [1, 3, 2]
  | _ => [3, 0, 2]

/-- Cycles of one MMA on a class (R59); C.IEEE issues none. -/
def mmaCycles (con cls : Nat) : Nat :=
  let row (l m x t : Nat) : Nat := match cls with | 0 => l | 1 => m | 2 => x | _ => t
  match con with
  | 1 => row 2048 1024 256 2048
  | 2 => row 128 32 1024 64
  | 3 => row 256 32 2048 64
  | 4 => row 64 16 512 16
  | 5 => row 32 128 256 256
  | _ => 0

/-- WSWIN (R94), from the count of master cycles since die reset. -/
def wswin (cyc : Nat) : Nat :=
  let c := cyc % 8192
  let b := c / 512
  if c % 512 < 96 then b + 16 + (96 - c % 512) * 256 else (b + 1) % 16 + (512 * (b + 1) - c) * 256

/-- Is a bank's window of the refresh frame in progress (R93)? -/
def inRefresh (cyc bank : Nat) : Bool := decide (512 * bank ≤ cyc % 8192 ∧ cyc % 8192 < 512 * bank + 96)

/-! ## Energy -/

/-- How a charge in pJ moves a launch's hold and a context's balance, both in µJ (R309, R310): whole µJ are taken as
the launch's sum passes them. -/
def State.chargeEnergy (s : State) (asid launch pj : Nat) : State :=
  let l := s.launchAt launch
  let du := (l.energy + pj) / 1000000 - l.energy / 1000000
  let fromHold := min du l.hold
  let s := if (s.launches.find launch).isSome then
      s.setLaunchAt launch { l with energy := l.energy + pj, hold := l.hold - fromHold } else s
  s.modCtxAt asid fun c => { c with meter := c.meter + pj, bal := c.bal - ((du - fromHold : Nat) : Int) }

/-- PWEW's weight of a class IC on a die (R298). -/
def State.weightOf (s : State) (ic die : Nat) : Nat := (s.pw.pwew.get 0#24 (4 * ic + dieClass die)).toNat

/-! ## Instruction fetch -/

/-- What translating a fetch address gives (R290): no extents, X and MT 0 memory needed. -/
inductive FetchRes where
  | ok (pa : Nat)
  | bad
  | ue (pa : Nat)
deriving DecidableEq, Repr

def State.fetchXlat (s : State) (cluster asid va : Nat) : FetchRes :=
  match s.lookup [] cluster asid va with
  | .miss => .bad
  | .ue a => .ue a
  | .hit p => if p.x && p.mt == 0#2 && !isMgmt (p.addr va) then .ok (p.addr va) else .bad

/-- An instruction cache's unit for a context: words are held under the context for which they were fetched (R191). -/
def icUnit (core asid : Nat) : Nat := 1024 * core + asid

/-- The word at a physical address, as a core's instruction cache finds it for a context: a cached word, else memory as it stands. -/
def State.wordAt (s : State) (core asid pa : Nat) : Word32 :=
  match s.caches.ic.find (unitKey (icUnit core asid) pa) with
  | some e => e.word
  | none => word32Of ((fourAt pa).map s.homeRead)

/-- Drop the words of an instruction-cache line. -/
def State.dropIc (s : State) (unit line : Nat) : State :=
  { s with caches := { s.caches with ic := s.caches.ic.filter fun e => !(keyUnit e.1 == unit && keyAddr e.1 / 128 == line) } }

/-- The lines in a core's instruction cache, by unit and number. -/
def State.icLines (s : State) (core : Nat) : List (Nat × Nat) :=
  s.caches.ic.foldl (fun l e =>
    if keyUnit e.1 / 1024 == core && l.head? != some (keyUnit e.1, keyAddr e.1 / 128) then (keyUnit e.1, keyAddr e.1 / 128) :: l else l) []

/-- Is a line locked by a lock that is active (R192)? -/
def State.icLocked (s : State) (unit line : Nat) : Bool :=
  s.caches.locks.any fun l => l.core == unit / 1024 && l.asid == unit % 1024 && l.active && l.lines.contains line

/-- Room for a line: an instruction cache holds 1,024 (R17), and an unlocked one goes. -/
def State.roomIc (s : State) (unit line : Nat) : State :=
  let ls := s.icLines (unit / 1024)
  let free := ls.filter fun x => !s.icLocked x.1 x.2
  if ls.contains (unit, line) || decide (ls.length < 1024) then s
  else match free[Config.victim s.tick line % free.length]? with
    | some v => s.dropIc v.1 v.2
    | none => s

/-- Fill an instruction-cache line with memory as it stands (R191): its words that are not cached. -/
def State.fillIc (s : State) (core asid line : Nat) : State :=
  let u := icUnit core asid
  let absent := ((List.range 32).map fun i => 128 * line + 4 * i).filter fun pa => (s.caches.ic.find (unitKey u pa)).isNone
  if absent.isEmpty then s
  else
    let s := (s.roomIc u line).homeTouches (absent.flatMap fourAt)
    { s with caches := { s.caches with ic := absent.foldl (fun m pa =>
        m.put (unitKey u pa) ⟨word32Of ((fourAt pa).map s.homeRead), asid⟩) s.caches.ic } }

/-- Fetch a line again. -/
def State.refetchIc (s : State) (core asid line : Nat) : State := (s.dropIc (icUnit core asid) line).fillIc core asid line

/-- A demand fetch of one word for the issuing wave, and what it leaves in TLBs and the instruction cache. -/
def State.fetchWord (s : State) (va : Nat) : Except FetchRes (Word32 × State) :=
  let i := s.wave.id
  match s.fetchXlat i.cluster i.asid.toNat va with
  | .ok pa =>
    if (s.caches.ic.find (unitKey (icUnit i.gcore i.asid.toNat) pa)).isNone && s.ueAt pa then .error (.ue pa)
    else .ok (s.wordAt i.gcore i.asid.toNat pa, (s.lookupTouch [] i.cluster i.asid.toNat va).fillIc i.gcore i.asid.toNat (pa / 128))
  | r => .error r

end Sys2Proof.Machine
end

