-- ==== Sys2Proof/Machine/Sys.lean ====
section
/-!
DEFINITION. Major 0: NOP, TRAP, ERET, GETSR and SETSR with every special register (R152 to R155), ICLK, ICUL, ATINV,
ATSYNC, MAPR, PKRES, PKILL.
-/

namespace Sys2Proof.Machine

/-- PRIV outside handler mode (R167). -/
def State.privTrap (s : State) : Option Trap := if s.wave.env.hm then none else some (s.wordTrap .priv)

def bit (b : Bool) (n : Nat) : Nat := if b then 2 ^ n else 0

/-! ## NOP, TRAP, ERET -/

def execNop (sw : Bool) (s : State) : Out :=
  s.guarded (s.formTrap { xw := .no } false) fun s => .next (s.retire sw)

/-- R449: TRAP raises its code. -/
def execTrap (_ : Bool) (c : BitVec 7) (s : State) : Out :=
  s.guarded (firstTrap [s.formTrap { xw := .no } false, some (Trap.plain .trap (c.setWidth 64) s.mask)]) fun s => .next s

/-- R256, R375. It retires in handler mode, so QCLK does not move. -/
def execEret (sw : Bool) (s : State) : Out :=
  s.guarded (firstTrap [s.privTrap, s.formTrap { xw := .no } false,
      if s.wave.env.epc.toNat % 4 = 0 then none else some (Trap.plain .align s.wave.env.epc s.mask)]) fun s =>
    let s := if s.wave.id.repro then (s.drainFifo s.iss.cur).flushPend s.iss.cur else s
    let s := s.retireAt sw
    .next (s.setWave s.wave.leaveHandler)

/-! ## Reading a special register -/

/-- WINFO (R102); of a pair, that of either half. -/
def WaveId.winfo (i : WaveId) (hi : Bool) : Nat :=
  i.index.toNat + hi.toNat + i.nwave.toNat * 2 ^ 5 + bit i.paired 11 + bit hi 12 + (i.sched.toNat + hi.toNat) * 2 ^ 13 +
    (if hi then i.slotHi else i.slot).toNat * 2 ^ 15 + i.core.toNat * 2 ^ 21 + i.die.toNat * 2 ^ 28 + bit i.repro 33

/-- LID (R102). -/
def WaveId.lid (i : WaveId) : Nat := i.wg.toNat + i.cwg.toNat * 2 ^ 32 + bit i.clustered 34

/-- The withholding level: nothing, or one more than the highest class withheld (R297, R299). -/
def withholdLevel (a : Int) (r : Nat) : Nat :=
  if 0 ≤ a then 0 else if r = 0 then 8 else min 7 ((-8 * a).toNat / r) + 1

/-- ALLOW (R299). -/
def State.allowReg (s : State) (cluster : Nat) : Nat :=
  let a := s.pw.allow.get 0 cluster
  ofSint 40 a + withholdLevel a s.pw.refill * 2 ^ 40 + s.pw.cut * 2 ^ 44 + bit s.pw.tl 48

/-- LEASE (R308). -/
def State.leaseReg (s : State) : Nat :=
  match s.eng.lease with
  | none => 0
  | some l => (if l.noticed then 3 else if l.ramped then 2 else 1) + bit (l.asid == s.asid) 2 + l.endNs / 1000 % 2 ^ 48 * 2 ^ 16

/-- CONTRACT (R58): the die is that of the workgroup's first placement. -/
def State.contractReg (s : State) : Nat :=
  let con := s.wg.kern.con.toNat
  let cls := dieClass s.wg.bindDie
  con + cls * 2 ^ 4 + bit ((nativeClasses con).contains cls) 6 + s.wg.bindDie * 2 ^ 8

/-- HSTAT (R155). -/
def State.hstat (s : State) : Nat :=
  bit s.ctx.ilr 0 + bit s.ctx.ilf 1 + bit s.wave.env.hm 2 + min s.ctx.cec 0xFFFF * 2 ^ 16

/-- PRIO (R144). -/
def Env.prio (e : Env) : Nat := e.eff.toNat + e.shedBase.toNat * 8 + bit (e.eff != e.shedBase) 6

/-- The special registers of R152, as one half of a pair reads them (R383). -/
def State.srRead (s : State) (hi : Bool) (i : Nat) : Word64 :=
  let w := s.wave
  let h := if hi then w.hi else w.lo
  if 0x0C ≤ i ∧ i ≤ 0x1B then h.pois[i - 0x0C]?.getD 0#64
  else match i with
    | 0x00 => BitVec.ofNat 64 (w.id.winfo hi)
    | 0x01 => BitVec.ofNat 64 w.id.lid
    | 0x02 => BitVec.ofNat 64 s.now
    | 0x03 => BitVec.ofNat 64 (s.ctx.meter / 1000000)
    | 0x04 => w.env.ftv.setWidth 64
    | 0x05 => w.env.fmode.setWidth 64
    | 0x06 => (w.lo.fflags ||| (if w.id.paired then w.hi.fflags else 0#6)).setWidth 64
    | 0x07 => w.regs.wbase.setWidth 64
    | 0x08 => w.env.cause
    | 0x09 => w.env.epc
    | 0x0A => h.faddr
    | 0x0B => h.fmask
    | 0x1C => w.env.shedClass.setWidth 64 ||| (w.env.shedBase.setWidth 64 <<< 3)
    | 0x1D => BitVec.ofNat 64 w.env.prio
    | 0x1E => w.qclk
    | 0x1F => BitVec.ofNat 64 s.contractReg
    | 0x20 => s.wg.kern.width.setWidth 64
    | 0x21 => BitVec.ofNat 64 (wswin (s.dieCyc w.id.die.toNat))
    | 0x22 => s.ctx.dlrec
    | 0x23 => BitVec.ofNat 64 (s.allowReg w.id.cluster)
    | 0x24 => BitVec.ofNat 64 s.leaseReg
    | 0x25 => BitVec.ofNat 64 s.hstat
    | _ => 0#64

/-- The Handler registers (R152). -/
def srHandler (i : Nat) : Bool := decide (0x08 ≤ i ∧ i ≤ 0x0B)
/-- The registers that SETSR may name. -/
def srWritable (i : Nat) : Bool := srHandler i || [0x04, 0x05, 0x06, 0x1C, 0x25].contains i
/-- The registers whose accesses wait for the wave's earlier instructions (R38). -/
def srWaits (i : Nat) : Bool := decide (0x04 ≤ i ∧ i ≤ 0x06)

/-- A wait for every earlier instruction of the wave: its outstanding results are written. -/
def State.settle (s : State) : State :=
  let s := if s.wave.fifo.any Eff.returns && !s.wave.repro then s.drainFifo s.iss.cur else s
  s.flushPend s.iss.cur

/-- Go on once every earlier instruction of the wave has completed; a remote read that is still out holds the wave (R323). -/
def State.settled (s : State) (body : State → Out) : Out :=
  if s.wave.pend.any fun p => !p.remote.isEmpty then .next s.stall else body s.settle

/-- What GETSR writes: the register, and in the upper half of a pair what that half reads (R383). -/
def State.srWrites (s : State) (d : Dest) (i : Nat) : List RegVal :=
  let at_ (hi : Bool) : ScalVal := ⟨s.srRead hi i, false⟩
  d.writes s.wave.id.topLane ((0, at_ false) :: if s.wave.id.paired then [(32, at_ true)] else [])

def execGetsr (sw : Bool) (d : Opd) (i : BitVec 7) (s : State) : Out :=
  s.guarded (firstTrap [if srHandler i.toNat then s.privTrap else none,
      s.formTrap { xw := .no } (!d.sgz || decide (0x26 ≤ i.toNat))]) fun s =>
    let go (s : State) : Out :=
      .next (((s.writeRegs s.iss.cur 1#64 (s.srWrites (s.dest d) i.toNat)).noteG s.iss.cur (s.srWrites (s.dest d) i.toNat)).retire sw)
    if srWaits i.toNat then s.settled go else go s

/-! ## Writing a special register -/

/-- What SETSR writes (R153, R439); a write of SHED or HSTAT stands at the end of the cycle (R144, R439). -/
def State.srWrite (s : State) (i : Nat) (x : Word64) : State :=
  let w := s.wave
  match i with
  | 0x04 => s.setWave { w with env := { w.env with ftv := x.setWidth 8 } }
  | 0x05 => s.setWave { w with env := { w.env with fmode := x.setWidth 6 } }
  | 0x06 => s.setWave { w with lo := { w.lo with fflags := x.setWidth 6 }, hi := { w.hi with fflags := x.setWidth 6 } }
  | 0x08 => s.setWave { w with env := { w.env with cause := x } }
  | 0x09 => s.setWave { w with env := { w.env with epc := x } }
  | 0x0A => s.setWave { w with lo := { w.lo with faddr := x }, hi := { w.hi with faddr := x } }
  | 0x0B => s.setWave { w with lo := { w.lo with fmask := x }, hi := { w.hi with fmask := x } }
  | 0x1C => { s with endOfCycle := s.endOfCycle ++ [.shed w.id.topSlot s.iss.cur (x.extractLsb' 0 3) (x.extractLsb' 3 3)] }
  | 0x25 => { s with endOfCycle := s.endOfCycle ++ [.hstat w.id.topSlot s.iss.cur s.asid (x.extractLsb' 0 2)] }
  | _ => s

/-- A value that SETSR refuses: FTV other than 1 or 2 (R52), SHED with BASE above the queue priority (R144). All 64 bits of FTV are compared:
whether VER 1 or 2 under non-zero reserved bits is another value (R52, R439) or its reserved bits are ignored (R8) the spec leaves open
(DESIGN CHOICE, log entry 89). -/
def State.srBadValue (s : State) (i : Nat) (x : Word64) : Bool :=
  (i == 0x04 && x != 1#64 && x != 2#64) ||
  (i == 0x1C && decide ((s.launchAt s.wave.id.launchKey).prio.toNat < (x.extractLsb' 3 3).toNat))

def execSetsr (sw : Bool) (i : BitVec 7) (a : Opd) (s : State) : Out :=
  s.guarded (firstTrap [if srHandler i.toNat then s.privTrap else none,
      s.sysTrap (!a.sgz || !srWritable i.toNat) [a],
      if s.srBadValue i.toNat (s.sval a) then some (s.wordTrap .illop) else none]) fun s =>
    let x := s.sval a
    let go (s : State) : Out := .next ((s.srWrite i.toNat x).retire sw)
    if srWaits i.toNat then s.settled go else go s

/-! ## Instruction-cache locks (R192, R384 to R386) -/

def State.locksOf (s : State) (core asid : Nat) : List ILock := s.caches.locks.filter fun l => l.core == core && l.asid == asid

/-- The lines that a context has locked on a core, each once. -/
def lockedLines (ls : List ILock) : List Nat := (ls.flatMap (·.lines)).eraseDups

/-- ICLK's and ICUL's status word (R385); zero in a reproducible context (R386). -/
def State.lockStatus (s : State) (res : Nat) : Word64 :=
  if s.wave.id.repro then 0#64
  else
    let ls := s.locksOf s.wave.id.gcore s.asid
    BitVec.ofNat 64 (res + (lockedLines ls).length * 2 ^ 8 + ls.length * 2 ^ 17)

/-- The physical lines that a range touches, if every one of them translates as executable MT 0 memory. -/
def State.lockLines (s : State) (va n : Nat) : Option (List Nat) :=
  ((List.range ((va + n - 1) / 128 - va / 128 + 1)).map fun i => 128 * (va / 128 + i)).mapM fun a =>
    match s.fetchXlat s.wave.id.cluster s.asid a with
    | .ok pa => some (pa / 128)
    | _ => none

/-- R385's decision: the result code and the lines to lock. -/
def State.lockDecision (s : State) (va n : Nat) : Nat × List Nat :=
  let mine := s.locksOf s.wave.id.gcore s.asid
  if n = 0 ∨ 2 ^ 57 < va + n then (3, [])
  else match s.lockLines va n with
    | none => (3, [])
    | some ls =>
      if s.caches.locks.any fun l => l.core == s.wave.id.gcore && l.asid != s.asid then (2, [])
      else if 256 < ((lockedLines mine) ++ ls).eraseDups.length ∨ 16 < mine.length + 1 then (1, [])
      else (0, ls)

def execIclk (sw : Bool) (d a b : Opd) (s : State) : Out :=
  s.guarded (s.sysTrap (!d.sz || !a.isS || !b.isS) [a, b]) fun s =>
    let va := (s.sval a).toNat
    let n := (s.sval b).toNat
    let r := s.lockDecision va n
    let core := s.wave.id.gcore
    let s := if r.1 = 0 then
        let s := r.2.foldl (fun s l => s.fillIc core s.asid l) s
        { s with caches := { s.caches with locks := s.caches.locks ++ [⟨core, s.asid, va, n, r.2.eraseDups, true⟩] } }
      else if r.1 = 3 then s else s.modCtxAt s.asid fun c => { c with ilf := true }
    .next ((s.writeScal s.iss.cur (s.dest d) (s.lockStatus r.1)).retire sw)

def execIcul (sw : Bool) (d a b : Opd) (s : State) : Out :=
  s.guarded (s.sysTrap (!d.sz || !a.isS || !b.isS) [a, b]) fun s =>
    let va := (s.sval a).toNat
    let n := (s.sval b).toNat
    let gone (l : ILock) : Bool := l.core == s.wave.id.gcore && l.asid == s.asid &&
      (n == 0 || (decide (va ≤ l.va) && decide (l.va + l.len ≤ va + n)))
    let s := { s with caches := { s.caches with locks := s.caches.locks.filter fun l => !gone l } }
    .next ((s.writeScal s.iss.cur (s.dest d) (s.lockStatus 0)).retire sw)

/-! ## ATINV and ATSYNC (R286, R288) -/

def State.ticketsOf (s : State) (asid : Nat) : Tickets := s.tlbs.tickets.get ⟨0, 0, []⟩ asid

/-- Issue an invalidation ticket for an ASID. -/
def State.newTicket (s : State) (asid va n : Nat) : Nat × State :=
  let t := s.ticketsOf asid
  let num := t.issued + 1
  let t : Tickets := { t with issued := num, open_ := t.open_ ++ [⟨num, va, n, false⟩] }
  (num, { s with tlbs := { s.tlbs with tickets := s.tlbs.tickets.put asid t } })

def atinvBad (va n : Nat) : Bool := va % 4096 != 0 || n % 4096 != 0 || decide (2 ^ 57 < va + n)

def execAtinv (sw : Bool) (d a b : Opd) (s : State) : Out :=
  let plain (o : Opd) : Bool := !(s.readScal (s.ref o)).p
  s.guarded (firstTrap [s.privTrap, s.formTrap { xw := .no } (!d.sz || !a.isS || !b.isS),
      if (plain a && (s.sval a).toNat % 4096 != 0) || (plain b && (s.sval b).toNat % 4096 != 0) ||
        (plain a && plain b && atinvBad (s.sval a).toNat (s.sval b).toNat) then some (s.wordTrap .illop) else none,
      s.poisonScal [a, b]]) fun s =>
    if 16 ≤ (s.ticketsOf s.asid).open_.length then .next s.stall
    else
      let va := (s.sval a).toNat
      let n := (s.sval b).toNat
      let (num, s) := (s.release s.iss.cur 4).newTicket s.asid va n
      .next ((s.writeScal s.iss.cur (s.dest d) (BitVec.ofNat 64 num)).retire sw)

def execAtsync (sw : Bool) (d a : Opd) (s : State) : Out :=
  s.guarded (firstTrap [s.privTrap, s.sysTrap (!d.sz || !a.isS) [a]]) fun s =>
    let t := s.ticketsOf s.asid
    let x := (s.sval a).toNat
    if x ≤ t.issued ∧ t.acked < x then .next s.stall
    else .next ((s.writeScal s.iss.cur (s.dest d) (if t.issued < x then 1#64 else 0#64)).retire sw)

/-! ## MAPR (R285) -/

/-- The lowest free frame of the pool, of 4 KiB or 2 MiB. -/
def Ctx.freeFrame (c : Ctx) (big : Bool) : Option Nat :=
  if big then ((List.range (c.poolSize / 2 ^ 21)).map fun i => c.poolBase + 2 ^ 21 * i).find? fun f =>
    c.poolUsed.all fun p => p / 512 != f / 2 ^ 21
  else ((List.range (c.poolSize / 4096)).map fun i => c.poolBase + 4096 * i).find? fun f => !c.poolUsed.contains (f / 4096)

/-- The 4 KiB frames, by number, that a frame takes. -/
def frameNumbers (f : Nat) (big : Bool) : List Nat := (List.range (if big then 512 else 1)).map (f / 4096 + ·)

/-- What MAPR comes to: a walk's uncorrectable error, or a status and the state it leaves. -/
def State.mapr (s : State) (va : Nat) (ctl : Word64) : Except Nat (Nat × State) :=
  let big := ctl.getLsbD 0
  let page := if big then 2 ^ 21 else 4096
  let va := va / page * page
  match s.findRange va 6 s.ctx.root none with
  | .error (.ue a) => .error a
  | .error _ => .ok (3, s)
  | .ok e =>
    if e.kind != (if big then 2 else 1) then .ok (3, s)
    else match s.ueIn (e.leafAddr va) 8 with
      | some a => .error a
      | none =>
        if (s.home64 (e.leafAddr va)).testBit 0 then .ok (1, s)
        else match s.ctx.freeFrame big with
          | none => .ok (2, s)
          | some f =>
            let leaf := 1 + 2 + bit (ctl.getLsbD 1) 2 + bit (ctl.getLsbD 2) 3 + f
            let s := s.homeWrite ((List.range page).map fun i => (f + i, 0#8))
            let s := s.homeWrite (bytePairs (e.leafAddr va) 8 leaf)
            .ok (0, s.modCtxAt s.asid fun c => { c with poolUsed := c.poolUsed ++ frameNumbers f big })

def execMapr (sw : Bool) (d a b : Opd) (s : State) : Out :=
  let r := s.mapr (s.sval a).toNat (s.sval b)
  let plain (o : Opd) : Bool := !(s.readScal (s.ref o)).p
  let bad := !d.sz || !a.isS || !b.isS
  s.guarded (firstTrap [
      match r with | .error x => if s.wave.env.hm && !bad && plain a && plain b then some (s.mchk x) else none | .ok _ => none,
      s.privTrap, s.formTrap { xw := .no } bad,
      if plain b && s.sval b >>> 3 != 0#64 then some (s.wordTrap .illop) else none,
      s.poisonScal [a, b]]) fun s0 =>
    match r with
    | .ok (st, s) => .next ((s.writeScal s.iss.cur (s.dest d) (BitVec.ofNat 64 st)).retire sw)
    | .error _ => .next s0

/-! ## PKRES and PKILL (R258) -/

/-- The target of PKRES and PKILL: its key when it can be acted on, and the status. -/
def State.pkTarget (s : State) (h : Word64) : Option Nat × Nat :=
  match s.resolve s.asid h with
  | none => (none, 2)
  | some k => if (s.waveAt k).st = .parkedFault then (some k, 0) else (none, 1)

/-- A parked wave goes on (R258, R301). -/
def State.resume (s : State) (k : Nat) : State :=
  (s.modWaveAt k fun w => { w with st := .ready, held := .ready }).shedIfCut k

def execPkres (sw : Bool) (d a : Opd) (s : State) : Out :=
  s.guarded (firstTrap [s.privTrap, s.sysTrap (!d.sz || !a.isS) [a]]) fun s =>
    let t := s.pkTarget (s.sval a)
    let s := match t.1 with | some k => s.resume k | none => s
    .next ((s.writeScal s.iss.cur (s.dest d) (BitVec.ofNat 64 t.2)).retire sw)

/-- A parked wave is killed. Its workgroup, if that was its last wave, completes at the end of the cycle: a second request to the wave in this
cycle still finds it (R417). -/
def State.pkill (s : State) (k : Nat) : State :=
  let i := (s.waveAt k).id
  let s := s.endWave k
  { s with endOfCycle := s.endOfCycle ++ [.reap i.topSlot i.wgKey] }

def execPkill (sw : Bool) (d a : Opd) (s : State) : Out :=
  s.guarded (firstTrap [s.privTrap, s.sysTrap (!d.sz || !a.isS) [a]]) fun s =>
    let t := s.pkTarget (s.sval a)
    let s := match t.1 with | some k => s.pkill k | none => s
    .next ((s.writeScal s.iss.cur (s.dest d) (BitVec.ofNat 64 t.2)).retire sw)

end Sys2Proof.Machine
end

