-- ==== Sys2Proof/Machine/Ctl.lean ====
section
/-!
DEFINITION. Control flow: the two program-counter slots and the divergence stack (R106 to R111), BR, BRU, CALL and major 1:
JMPR, CALLR, RET, EXIT, JOIN, WBASE, PHINT, IDEM, QEND.
-/

namespace Sys2Proof.Machine

/-! ## The divergence stack (R108) -/

/-- A stack entry. -/
def stackEntry (x : PcSlot) : List Byte :=
  bytes64 x.pc.toNat ++ bytes64 x.mask.toNat ++ bytes64 x.seq ++ bytes64 (bit x.waiting 0) ++ zeros 32

/-- Push a path on a wave's stack. -/
def State.pushPath (s : State) (k : Nat) (x : PcSlot) : State :=
  let w := s.waveAt k
  let a := w.pcs.stackBase + 64 * w.pcs.depth
  let s := s.homeWrite (((List.range 64).map (a + ·)).zip (stackEntry x))
  s.modWaveAt k fun v => { v with pcs := { w.pcs with depth := w.pcs.depth + 1 } }

/-- The lanes that a stack entry's MASK can name: bits [63:32] are used only by a pair (R108). -/
def Wave.stackLanes (w : Wave) : Lanes := if w.id.paired then BitVec.allOnes 64 else 0xFFFFFFFF#64

/-- The path of an entry that was stored into: free values (R108; log entry 18). -/
def Wave.strayPath (w : Wave) (tick depth : Nat) : PcSlot :=
  let x (n : Nat) : Word64 := Config.undefined64 tick (4 * depth + n)
  ⟨x 4, x 5 &&& w.stackLanes, (x 6).toNat, (x 7).getLsbD 0⟩

/-- Has the context stored into the wave's stack, also where the store still waits in a FIFO (R108)? -/
def State.strayed (s : State) (w : Wave) : Bool :=
  w.pcs.stray || s.waves.any fun e => e.2.fifo.any fun x => s.inStack e.2.id.asid.toNat x.locals w

/-- The path that 64 bytes of a stack give (R108). -/
def stackPathOf (b : List Byte) : PcSlot :=
  ⟨BitVec.ofNat 64 (fieldOf b 0 8), BitVec.ofNat 64 (fieldOf b 8 8), fieldOf b 16 8, (fieldOf b 24 8).testBit 0⟩

/-- The stack entry at a depth, as its home serves it; none when it cannot be read. -/
def State.stackPath (s : State) (w : Wave) (depth : Nat) : Option PcSlot :=
  let a := w.pcs.stackBase + 64 * depth
  if (s.ueIn a 64).isSome then none
  else some (if s.strayed w then w.strayPath s.tick depth else stackPathOf ((List.range 64).map fun i => s.homeRead (a + i)))

/-- A slot goes on after the JOIN at which it waited. -/
def PcSlot.goOn (x : PcSlot) : PcSlot := { x with pc := x.pc + 4#64, waiting := false }

/-- Two slots that wait at one JOIN, merged (R110). -/
def PcSlot.merge (x y : PcSlot) : PcSlot := { x.goOn with mask := x.mask ||| y.mask, seq := min x.seq y.seq }

/-- R111 and the ways out of a JOIN's wait (R110): an empty slot is refilled from the stack; two waiting slots meet, where
`x` is the slot that came last. `none` when a stack entry cannot be read. -/
def settlePcs (read : Nat → Option PcSlot) : Nat → Bool → Pcs → Option Pcs
  | 0, _, p => some p
  | fuel + 1, x, p =>
    match p.slot x, p.slot (!x) with
    | some a, some b =>
      if a.waiting && b.waiting then
        if a.pc = b.pc then settlePcs read fuel x ((p.setSlot x (some (a.merge b))).setSlot (!x) none)
        else if b.seq < a.seq then some (p.setSlot x (some a.goOn))
        else some (p.setSlot (!x) (some b.goOn))
      else some p
    | none, other =>
      if p.depth = 0 then
        match other with
        | some b => some (if b.waiting then p.setSlot (!x) (some b.goOn) else p)
        | none => some p
      else match read (p.depth - 1) with
        | none => none
        | some e => settlePcs read fuel x ({ p with depth := p.depth - 1 }.setSlot x (some e))
    | some a, none =>
      if p.depth = 0 then some (if a.waiting then p.setSlot x (some a.goOn) else p)
      else match read (p.depth - 1) with
        | none => none
        | some e => settlePcs read fuel (!x) ({ p with depth := p.depth - 1 }.setSlot (!x) (some e))

/-- Settle a wave's slots after one was emptied or came to wait; the entries popped are read at their home (R198), and an unreadable
stack is MCHK (R268). -/
def State.settleSlots (s : State) (k : Nat) (x : Bool) : State :=
  let w := s.waveAt k
  match settlePcs (s.stackPath w) (2 * w.pcs.depth + 3) x w.pcs with
  | some p =>
    let popped := (List.range (64 * (w.pcs.depth - p.depth))).map (w.pcs.stackBase + 64 * p.depth + ·)
    (s.homeTouches popped).setWaveAt k { w with pcs := p }
  | none => s.takeTrapAt k x (Trap.plain .mchk 0#64 w.allLanes)

/-! ## Branches -/

def branchTarget (pc : Word64) (o : BitVec 21) : Word64 := pc + (o.signExtend 64 <<< 2)

/-- The lanes in which a branch condition holds. -/
def State.predLanes (s : State) (p : BitVec 3) (neg : Bool) : Lanes :=
  let v := (s.readPred p.toNat).val
  if neg then ~~~v else v

/-- POISON for a poisoned predicate lane of the slot's mask (R107). -/
def State.predPoison (s : State) (p : BitVec 3) : Option Trap :=
  poisonTrap (lanesOf s.mask) fun l => if (s.readPred p.toNat).poi.getLsbD l then some 0#32 else none

/-- R107's split of the issuing slot into the lanes taken and the others. -/
def State.split (s : State) (x : PcSlot) (target : Word64) (t f : Lanes) : State :=
  let w := s.wave
  let second := s.iss.slot
  let pathF : PcSlot := { x with pc := x.pc + 4#64, mask := f }
  let pathT : PcSlot := ⟨target, t, w.pcs.nextSeq, false⟩
  let p := { w.pcs with nextSeq := w.pcs.nextSeq + 1 }
  match w.pcs.slot (!second) with
  | none => s.setWave { w with pcs := (p.setSlot second (some pathF)).setSlot (!second) (some pathT) }
  | some y =>
    if x.seq < y.seq then (s.setWave { w with pcs := p.setSlot second (some pathT) }).pushPath s.iss.cur pathF
    else (s.setWave { w with pcs := (p.setSlot second (some pathF)).setSlot (!second) (some pathT) }).pushPath s.iss.cur y

def execBr (sw neg : Bool) (p : BitVec 3) (o : BitVec 21) (s : State) : Out :=
  let c := s.predLanes p neg
  let t := s.mask &&& c
  let f := s.mask &&& ~~~c
  let splits := t != 0#64 && f != 0#64
  let full := (s.wave.pcs.slot (!s.iss.slot)).isSome && decide (s.wg.kern.divdepth ≤ s.wave.pcs.depth)
  s.guarded (firstTrap [s.formTrap { xw := .no } false, s.predPoison p,
      if splits && full then some (Trap.plain .divstk 0#64 s.mask) else none]) fun s =>
    match s.wave.pcs.slot s.iss.slot with
    | none => .next s
    | some x =>
      let target := branchTarget x.pc o
      if splits then
        let s := s.split x target t f
        .next ((s.setWave s.wave.clearIdem).retireAt sw)
      else .next ((s.setPc (if t = 0#64 then x.pc + 4#64 else target)).retireAt sw)

/-- BRU's decision (R358). -/
def State.bruTaken (s : State) (m : BruMode) (p : BitVec 3) : Bool :=
  let t := s.mask &&& s.predLanes p false
  match m with
  | .always => true
  | .any => t != 0#64
  | .all => t == s.mask
  | .none => t == 0#64

def execBru (sw : Bool) (m : BruMode) (p : BitVec 3) (o : BitVec 21) (s : State) : Out :=
  s.guarded (firstTrap [s.formTrap { xw := .no } false, if m = .always then none else s.predPoison p]) fun s =>
    .next ((s.setPc (if s.bruTaken m p then branchTarget s.pc o else s.pc + 4#64)).retireAt sw)

/-- Write the link register s46 (R359). -/
def State.link (s : State) : State := s.writeScal s.iss.cur (.scal 46) (s.pc + 4#64)

def execCall (sw : Bool) (o : BitVec 21) (s : State) : Out :=
  s.guarded (s.formTrap { xw := .no } false) fun s => .next ((s.link.setPc (branchTarget s.pc o)).retireAt sw)

/-! ## Jumps -/

/-- The traps of a jump to a register: its operand, ALIGN, POISON (R390). -/
def State.jumpTrap (s : State) (a : Opd) : Option Trap :=
  let x := s.readScal (s.ref a)
  firstTrap [s.formTrap { xw := .no } (!a.sg),
    if !x.p && x.bits.toNat % 4 != 0 then some (Trap.plain .align x.bits s.mask) else none, s.poisonScal [a]]

def execJmpr (sw : Bool) (a : Opd) (s : State) : Out :=
  s.guarded (s.jumpTrap a) fun s => .next ((s.setPc (s.sval a)).retireAt sw)

def execCallr (sw : Bool) (a : Opd) (s : State) : Out :=
  s.guarded (s.jumpTrap a) fun s => .next ((s.link.setPc (s.sval a)).retireAt sw)

def execRet (sw : Bool) (s : State) : Out :=
  s.guarded (s.jumpTrap (.s 46)) fun s => .next ((s.setPc (s.sval (.s 46))).retireAt sw)

/-! ## EXIT and JOIN -/

/-- An EXIT takes effect (R376): the slot empties, and with the last slot the wave leaves. -/
def State.exitSlot (s : State) (k : Nat) (second : Bool) : State :=
  let w := s.waveAt k
  let s := (s.setWaveAt k { w with pcs := w.pcs.setSlot second none }).settleSlots k second
  let w' := s.waveAt k
  if w'.st != .exited && w'.pcs.slot0.isNone && w'.pcs.slot1.isNone then (s.leave k).reap w.id.wgKey else s

def execExit (sw : Bool) (s : State) : Out :=
  s.guarded (s.formTrap { xw := .no } s.wave.env.hm) fun s =>
    let s := (s.setWave s.wave.clearIdem).retireAt sw
    .next (if s.wave.repro then (s.hold s.iss.cur (.exit s.iss.slot)).endQuantum else s.exitSlot s.iss.cur s.iss.slot)

def execJoin (sw : Bool) (s : State) : Out :=
  s.guarded (s.formTrap { xw := .no } false) fun s =>
    let w := s.wave
    let second := s.iss.slot
    match w.pcs.slot second, w.pcs.slot (!second) with
    | some x, some _ =>
      let s := (s.setWave { w.clearIdem with pcs := w.pcs.setSlot second (some { x with waiting := true }) }).retireAt sw
      .next (s.settleSlots s.iss.cur second)
    | _, _ => .next (s.retire sw)

/-! ## WBASE (R150) -/

def execWbase (sw : Bool) (n : BitVec 3) (s : State) : Out :=
  s.guarded (firstTrap [s.formTrap { xw := .no } (n == 7#3),
      if 32 * s.wg.kern.seg < 32 * n.toNat + 64 then some (s.wordTrap .segovf) else none]) fun s =>
    .next ((s.setWave { s.wave with regs := { s.wave.regs with wbase := BitVec.ofNat 8 (32 * n.toNat) } }).retire sw)

/-! ## PHINT and IDEM (R259, R260, R265) -/

/-- Pages of the workgroup's scratchpad allocation. -/
def Kernel.pages (k : Kernel) : Nat := (k.scratch + 4095) / 4096

/-- The live page ranges that a range register names: first page and count. -/
def rangesOf (x : Word64) (n : Nat) : List (Nat × Nat) :=
  (List.range n).map fun i => ((x.extractLsb' (16 * i) 7).toNat, (x.extractLsb' (16 * i + 8) 7).toNat + 1)

/-- The ILLOP conditions of R259. -/
def State.hintBad (s : State) (l : BitVec 8) (n : BitVec 3) (b : Opd) : Bool :=
  let x := s.readScal (s.ref b)
  decide (2 ^ s.wg.kern.seg ≤ l.toNat) || decide (4 < n.toNat) || (n != 0#3 && !b.sg) ||
    (n != 0#3 && !x.p &&
      ((List.range n.toNat).any (fun i => x.bits.getLsbD (16 * i + 7) || x.bits.getLsbD (16 * i + 15)) ||
       (rangesOf x.bits n.toNat).any fun r => decide (s.wg.kern.pages < r.1 + r.2)))

/-- The ranges a hint names: the whole allocation under a poisoned register. -/
def State.hintRanges (s : State) (n : BitVec 3) (b : Opd) : List (Nat × Nat) :=
  let x := s.readScal (s.ref b)
  if n = 0#3 then [] else if x.p then [(0, s.wg.kern.pages)] else rangesOf x.bits n.toNat

/-- What a PHINT does to its wave at retirement: a wave under a pending pre-emption is taken, one whose class is cut and past the
forced-shed time is shed (R260, R301). The wave was Ready when the PHINT issued; with the S marker it may stand Parked-S now. In handler
mode nothing (R416). -/
def Wave.atHint (w : Wave) (forced : Bool) (lsm : BitVec 8) (ranges : List (Nat × Nat)) : Wave :=
  if w.env.hm then w
  else
    let w := { w with pre := { w.pre with sinceCut := [] } }
    if w.st == .preempting && !w.pre.taken && (w.held == .ready || w.held == .parkedS) then
      { w with pre := { w.pre with taken := true, full := false, lsm := lsm, ranges := ranges } }
    else if (w.st == .ready || w.st == .parkedS) && forced then { w with st := .shed, held := w.st }
    else w

def execPhint (sw : Bool) (l : BitVec 8) (n : BitVec 3) (b : Opd) (s : State) : Out :=
  s.guarded (s.formTrap { xw := .no } (s.hintBad l n b)) fun s =>
    let r := s.hintRanges n b
    let s := s.retire sw
    .next ((s.setWave (s.wave.atHint (s.isForced s.iss.cur) l r)).markWg s.wave.id.wgKey)

def execIdem (sw : Bool) (l : BitVec 8) (n : BitVec 3) (b : Opd) (s : State) : Out :=
  s.guarded (s.formTrap { xw := .no } (!s.wg.kern.idm || s.hintBad l n b)) fun s =>
    let r := s.hintRanges n b
    let pc := s.pc
    let m := s.mask
    let s := s.retire sw
    let w := s.wave
    if w.id.repro then .next (s.setWave { w with idem := { w.idem with idv := false, pc := pc } })
    else .next (s.setWave { w with
      pend := w.pend.map fun p => { p with old := true },
      idem := ⟨true, pc, l, r, w.qclk, s.iss.slot, m, w.pcs.slot (!s.iss.slot)⟩ })

/-- R122. -/
def execQend (sw : Bool) (s : State) : Out :=
  s.guarded (s.formTrap { xw := .no } false) fun s => .next ((s.retire sw).endQuantum)

end Sys2Proof.Machine
end

