-- ==== Sys2Proof/Machine/Mma.lean ====
section
/-!
DEFINITION. The matrix commands (R59 to R78, R401 to R407): MMA, MWAIT, MQRY, MAPS, and how a command retires.
-/

namespace Sys2Proof.Machine

abbrev OpMap := BitVec 128

def mapBase (m : OpMap) : Nat := (m.extractLsb' 0 19).toNat
def mapStride (m : OpMap) : Nat := (m.extractLsb' 32 16).toNat
def mapSbase (m : OpMap) : Nat := (m.extractLsb' 64 19).toNat
def mapSstride (m : OpMap) : Nat := (m.extractLsb' 96 16).toNat

/-- R60: a reserved field of a map is not zero. -/
def mapReserved (m : OpMap) : Bool :=
  m.extractLsb' 19 13 != 0#13 || m.extractLsb' 48 16 != 0#16 || m.extractLsb' 83 13 != 0#13 || m.extractLsb' 112 15 != 0#15

/-- R69: a map that is invalid, breaks R60's limits, or reaches outside the allocation of `limit` bytes. -/
def mapBad (m : OpMap) (row srow limit : Nat) : Bool :=
  !m.getLsbD 127 || mapBase m % 16 != 0 || mapStride m % 16 != 0 || decide (mapStride m < row) ||
    decide (limit < mapBase m + 31 * mapStride m + row) ||
    (srow != 0 && (mapSbase m % 4 != 0 || mapSstride m % 4 != 0 || decide (mapSstride m < srow) ||
      decide (limit < mapSbase m + 31 * mapSstride m + srow)))

def State.opMap (s : State) (m : BitVec 3) : OpMap := s.wave.regs.m[m.toNat]?.getD 0#128

/-- The matrix commands in flight that name an id: all of the workgroup's under 0x3F. -/
def Wg.inFlight (g : Wg) (cid : BitVec 6) : List (BitVec 6) :=
  (g.mma.filter fun c => cid == 0x3F#6 || c.cid == cid).map (·.cid)

/-- Commands in the matrix-unit queue of a core (R71). The spec does not say whether a command that has started still takes one of the 16
entries: the model counts every command that has not retired (DESIGN CHOICE, log entry 75). -/
def State.mmaQueued (s : State) (die core : Nat) : Nat :=
  ((s.wgs.filter fun e => e.2.die == die && e.2.core == core).map fun e => e.2.mma.length).sum

/-- R69's conditions. -/
def State.mmaErr (s : State) (cid p1 p2 : BitVec 6) (ma mb : BitVec 3) (acc : BitVec 5) : Bool :=
  match Contract.ofCode s.wg.kern.con.toNat with
  | none | some .ieee => true
  | some con =>
    mapBad (s.opMap ma) con.rowA con.rowScale s.spmLimit || mapBad (s.opMap mb) con.rowB con.rowScale s.spmLimit ||
      decide (s.wg.kern.acct ≤ acc.toNat) || p1 == cid || p2 == cid

def State.mmaTrap (s : State) (bad : Bool) : Option Trap := if bad then some (Trap.plain .mmaerr 0#64 s.mask) else none

/-- Stall on matrix commands (R71, R75, R406). -/
def State.stallOn (s : State) (ids : List (BitVec 6)) : State := (s.setWave { s.wave with stallOn := ids }).stall

/-- The scratchpad as a wave sees it: the workgroup's, under what its own store FIFO holds (R74, R200). -/
def State.spmViewOf (s : State) (wg k : Nat) : FMap LaneVal := (s.waveAt k).fifo.foldl spmEff (s.wgAt wg).scratch

def execMma (sw : Bool) (cid p1 p2 : BitVec 6) (ma mb : BitVec 3) (acc : BitVec 5) (z na : Bool) (s : State) : Out :=
  s.guarded (firstTrap [s.formTrap { xw := .no } (cid == 0x3F#6), s.mmaTrap (s.mmaErr cid p1 p2 ma mb acc)]) fun s =>
    let g := s.wg
    if !(g.inFlight cid).isEmpty then .next (s.stallOn [cid])
    else if 16 ≤ s.mmaQueued g.die g.core then .next (s.stallOn [0x3F#6])
    else
      let preds := [p1, p2].filter fun p => p != 0x3F#6 && !(g.inFlight p).isEmpty
      let c : MmaCmd := ⟨cid, preds, s.opMap ma, s.opMap mb, acc.toNat, z, na, false, s.iss.cur, s.wave.qclk.toNat,
        s.spmViewOf s.wave.id.wgKey s.iss.cur⟩
      .next ((s.setWg { g with mma := g.mma ++ [c] }).retireN sw 2)

/-! ## How a command runs -/

/-- Does the pair of a QCLK and a wave come before another (R73)? -/
def mmaSooner (a b : Nat × Nat) : Bool := decide (a.1 < b.1) || (a.1 == b.1 && decide (a.2 < b.2))

/-- The commands that a command waits for in every mode: its predecessors, and earlier ones of its wave on its tile (R72, R73). They were
all issued before it. -/
def Wg.mmaAfter (g : Wg) (c : MmaCmd) : List MmaCmd :=
  g.mma.filter fun d => c.preds.contains d.cid ||
    (d.tile == c.tile && d.wave == c.wave && (g.mma.takeWhile fun e => e.cid != c.cid).contains d)

/-- Is there a path from a command to another over what it waits for, of at most `n` steps (R73)? -/
def Wg.mmaPath (g : Wg) (dest : MmaCmd) : Nat → MmaCmd → Bool
  | 0, _ => false
  | n + 1, c => (g.mmaAfter c).any fun d => d.cid == dest.cid || g.mmaPath dest n d

/-- In reproducible mode: the commands on its tile that are earlier by QCLK and wave identifier and that no path puts after it (R73). -/
def Wg.mmaSoonerOnes (g : Wg) (c : MmaCmd) : List MmaCmd :=
  if g.repro then g.mma.filter fun d => d.tile == c.tile && d.cid != c.cid && mmaSooner (d.clk, d.wave) (c.clk, c.wave) && !g.mmaPath c g.mma.length d
  else []

/-- The commands of the workgroup that a command waits for (R72, R73). -/
def Wg.mmaBefore (g : Wg) (c : MmaCmd) : List MmaCmd := g.mmaAfter c ++ g.mmaSoonerOnes c

/-- A wave that may still issue a command in its quantum, now or once it is started, resumed or restored to its class. -/
def Wave.mayMma (w : Wave) : Bool :=
  let st (x : WaveSt) : Bool := x == .resident || x == .ready || x == .parkedS || x == .shed || x == .parkedFault
  !w.ended && (st w.st || (w.st == .preempting && st w.held))

/-- In reproducible mode: the waves that could still issue an earlier command on the same tile (R73). -/
def State.mmaHolders (s : State) (wg : Nat) (c : MmaCmd) : List (Nat × Wave) :=
  if (s.wgAt wg).repro then
    (s.wavesOfWg wg).filter fun e => e.1 != c.wave && e.2.mayMma && mmaSooner (e.2.qclk.toNat, e.1) (c.clk, c.wave)
  else []

/-- The matrix commands in the queue of a core, each with its workgroup. -/
def State.mmaOfCore (s : State) (die core : Nat) : List (Nat × MmaCmd) :=
  (s.wgs.filter fun e => e.2.die == die && e.2.core == core).flatMap fun e => e.2.mma.map fun c => (e.1, c)

/-- Will the command go, as far as those waves and commands of its core go that are known to? -/
def State.mmaGoes (s : State) (cs : List (Nat × BitVec 6)) (ws : List Nat) (wg : Nat) (c : MmaCmd) : Bool :=
  ((s.wgAt wg).mmaBefore c).all (fun d => cs.contains (wg, d.cid)) && (s.mmaHolders wg c).all fun e => ws.contains e.1

/-- Will the wave go: it is not taken for a save, which waits for the commands (R78), and is stalled on no command that stays? A full queue
has room once any of its commands goes. -/
def State.mmaWaveGoes (s : State) (cs : List (Nat × BitVec 6)) (w : Wave) : Bool :=
  let g := s.wgAt w.id.wgKey
  !w.pre.taken && (w.mwait.getD [] ++ w.stallOn).all fun p =>
    if p == 0x3F#6 then !cs.isEmpty || decide (s.mmaQueued g.die g.core < 16)
    else cs.contains (w.id.wgKey, p) || (g.inFlight p).isEmpty

/-- The commands and the waves of a core that go on by themselves when the order of R73 is kept strictly: the others stand
in a circle, a wave stalled on a command that waits for what this wave may still issue. -/
def State.mmaMoving (s : State) (die core : Nat) : Nat → List (Nat × BitVec 6) × List Nat
  | 0 => ([], [])
  | n + 1 =>
    let (cs, ws) := s.mmaMoving die core n
    (((s.mmaOfCore die core).filter fun e => s.mmaGoes cs ws e.1 e.2).map (fun e => (e.1, e.2.cid)),
     (s.waves.filter fun e => e.2.id.die.toNat == die && e.2.id.core.toNat == core && s.mmaWaveGoes cs e.2).map (·.1))

/-- May a command start (R72, R73)? What it waits for in every mode has retired. In reproducible mode it also waits for the commands on its
tile that are before it, and for the waves that could still issue one, except in a circle: when neither goes on before this command
retires, it starts, the first by QCLK and wave identifier before the others (DEDUCED, log entry 34). -/
def State.mmaReady (s : State) (wg : Nat) (c : MmaCmd) : Bool :=
  let g := s.wgAt wg
  let free (d : MmaCmd) : Bool := d.preds.isEmpty && (g.mmaAfter d).isEmpty
  free c && (((g.mmaSoonerOnes c).isEmpty && (s.mmaHolders wg c).isEmpty) ||
    (let (cs, ws) := s.mmaMoving g.die g.core (2 * s.mmaQueued g.die g.core + 2)
     !cs.contains (wg, c.cid) && (s.mmaHolders wg c).all (fun e => !ws.contains e.1) && (g.mmaSoonerOnes c).all (fun d => !cs.contains (wg, d.cid)) &&
       g.mma.all fun d => !(free d) || cs.contains (wg, d.cid) || !mmaSooner (d.clk, d.wave) (c.clk, c.wave)))

/-- Row `i` of an operand, in words (R59, R74). -/
def mmaRow (m : FMap LaneVal) (x : OpMap) (row srow i : Nat) : MmaRow :=
  let words (a n : Nat) : List LaneVal := (List.range ((n + 3) / 4)).map fun k => m.get LaneVal.zero (a / 4 + k)
  ⟨words (mapBase x + i * mapStride x) row, words (mapSbase x + i * mapSstride x) srow⟩

/-- RS or CS after a C.TER command: from each row's scale word where it is plain (R65, R76). -/
def terScales (rows : List MmaRow) (old : Vector (BitVec 16) 32) : Vector (BitVec 16) 32 :=
  Vector.ofFn fun i => match (rows.getD i.val ⟨[], []⟩).scales with
    | w :: _ => if w.p then old[i] else w.bits.setWidth 16
    | [] => old[i]

/-- The tile after a command, and whether a reserved TER2 code was read for a plain element (R70, R35). -/
def mmaTile (con : Contract) (z na : Bool) (as bs : List MmaRow) (t : Tile) : Tile × Bool :=
  let pas := as.map (rowPoison con false)
  let pbs := bs.map (rowPoison con true)
  let blank : MmaRow := ⟨[], []⟩
  let cells := (List.range 1024).map fun n =>
    let i := n / 32
    let j := n % 32
    let old := t.elems.get LaneVal.zero n
    let pa := pas.getD i none
    let pb := pbs.getD j none
    (n, mmaElem con z na (as.getD i blank) (bs.getD j blank) pa pb old,
      (firstPoison pa pb).isNone && (z || !old.p) && con == .ter && terReserved (((as.getD i blank).elems).map fun w => w.bits.toNat))
  ({ elems := cells.foldl (fun m c => m.set LaneVal.zero c.1 c.2.1.1) t.elems,
     sat := t.sat || cells.any (fun c => c.2.1.2),
     rs := if con == .ter then terScales as t.rs else t.rs,
     cs := if con == .ter then terScales bs t.cs else t.cs }, cells.any fun c => c.2.2)

/-- The scratchpad that a command reads: each word that has changed since the issue, as it was or as it is now (R74, R9). -/
def State.mmaView (s : State) (wg : Nat) (c : MmaCmd) : FMap LaneVal :=
  let now := s.spmViewOf wg c.wave
  if c.seen = now then now else ((c.seen ++ now).map (·.1)).foldl (fun m k =>
    let old := c.seen.get LaneVal.zero k
    if old ≠ now.get LaneVal.zero k && Config.findsOld s.tick k then m.set LaneVal.zero k old else m) now

/-- What a command makes of its tile (R70). -/
def State.mmaResult (s : State) (wg : Nat) (c : MmaCmd) (t : Tile) : Tile × Bool :=
  match Contract.ofCode (s.wgAt wg).kern.con.toNat with
  | none => (t, false)
  | some con =>
    let m := s.mmaView wg c
    let rows (x : OpMap) (n : Nat) := (List.range 32).map (mmaRow m x n con.rowScale)
    mmaTile con c.z c.na (rows c.mapA con.rowA) (rows c.mapB con.rowB) t

/-- A command retires: the tile, FFLAGS.NV, the ids that waited on it (R70, R71, R72). -/
def State.mmaRetire (s : State) (wg : Nat) (c : MmaCmd) : State :=
  let g := s.wgAt wg
  let r := s.mmaResult wg c (g.tiles.get Tile.start c.tile)
  let s := s.setWgAt wg { g with
    tiles := g.tiles.set Tile.start c.tile r.1,
    mma := (g.mma.filter (fun d => d.cid != c.cid)).map fun d => { d with preds := d.preds.filter fun p => p != c.cid } }
  let s := if r.2 then s.orFlags c.wave flNV flNV else s
  { s with tick := s.tick + 1,
           waves := s.waves.map fun e => if e.2.id.wgKey == wg
             then (e.1, { e.2 with mwait := e.2.mwait.map fun l => l.filter fun p => p != c.cid, stallOn := e.2.stallOn.filter fun p => p != c.cid }) else e }

/-- What a tile holds from now on, as its commands in flight retire one after another (R75). -/
def State.tileValues (s : State) (wg t : Nat) : List Tile :=
  let g := s.wgAt wg
  let first := g.tiles.get Tile.start t
  first :: ((g.mma.filter fun c => c.tile == t).foldl (fun (r : List Tile × Tile) c =>
    let x := (s.mmaResult wg c r.2).1
    (r.1 ++ [x], x)) ([], first)).1

/-- The value that a read of a tile finds in one place: before or after each of the commands in flight, a free choice (R75, R407, R9). -/
def pickTile (tick which : Nat) : List Tile → Tile
  | [] => Tile.start
  | [x] => x
  | xs => xs.getD (Config.pick tick which % xs.length) Tile.start

/-- A read that had a choice uses up its free values. -/
def State.picked (s : State) (xs : List Tile) : State := if xs.length ≤ 1 then s else { s with tick := s.tick + 1 }

/-! ## MWAIT and MQRY -/

/-- Wait for commands: go on when all those in flight at the first issue have retired (R406). -/
def State.mwaiting (s : State) (cid : BitVec 6) (done : State → Out) : Out :=
  match s.wave.mwait with
  | none => if (s.wg.inFlight cid).isEmpty then done s
    else .next (s.setWave { s.wave with mwait := some (s.wg.inFlight cid) }).stall
  | some [] => done s
  | some _ => .next s.stall

def execMwait (sw : Bool) (c : BitVec 6) (s : State) : Out :=
  s.guarded (s.formTrap { xw := .no } false) fun s => s.mwaiting c fun s => .next (s.retire sw)

/-- MQRY's word (R407), with the tile as the read finds it. -/
def State.mqryWord (s : State) (c : BitVec 6) (x : Tile) : Word64 :=
  BitVec.ofNat 64 (bit (!(s.wg.inFlight c).isEmpty && !s.wave.id.repro) 0 + bit x.sat 1)

def execMqry (sw : Bool) (c : BitVec 6) (d : Opd) (t : BitVec 5) (s : State) : Out :=
  s.guarded (firstTrap [s.formTrap { xw := .no } (!d.sz), s.mmaTrap (decide (s.wg.kern.acct ≤ t.toNat))]) fun s =>
    let done (s : State) : Out :=
      let xs := s.tileValues s.wave.id.wgKey t.toNat
      let w := s.mqryWord c (pickTile s.tick 0 xs)
      .next (((s.picked xs).writeScal s.iss.cur (s.dest d) w).retire sw)
    if s.wave.id.repro then s.mwaiting c done else done s

/-! ## MAPS (R401) -/

/-- The two registers of a map's source; none for a code that is not an even s register. -/
def mapSource : Opd → Option (Nat × Nat)
  | .s i => if i.val % 2 = 0 then some (i.val, i.val + 1) else none
  | _ => none

def execMaps (sw : Bool) (m : BitVec 3) (a : Opd) (s : State) : Out :=
  let src := (mapSource a).getD (0, 0)
  let lo := s.readScal (.scal src.1)
  let hi := s.readScal (.scal src.2)
  let x : OpMap := hi.bits ++ lo.bits
  s.guarded (firstTrap [s.formTrap { xw := .no } (mapSource a).isNone,
      if (!lo.p && mapReserved (0#64 ++ lo.bits)) || (!hi.p && mapReserved (hi.bits ++ 0#64)) then some (s.wordTrap .illop) else none,
      (firstTok [lo.tok, hi.tok]).map fun t => Trap.plain .poison (t.setWidth 64) s.mask]) fun s =>
    .next ((s.setWave { s.wave with regs := { s.wave.regs with m := s.wave.regs.m.set! m.toNat x } }).retire sw)

end Sys2Proof.Machine
end

