-- ==== Sys2Proof/Machine/Acc.lean ====
section
/-!
DEFINITION. The accumulator instructions (R75, R77, R335 to R343, R350): ACLR, ARD, AWR, AST.
-/

namespace Sys2Proof.Machine

/-- Does an in-flight command name the tile (R75)? -/
def Wg.tileBusy (g : Wg) (t : Nat) : Bool := g.mma.any fun c => c.tile == t

/-- The commands in flight that name the tile. -/
def Wg.onTile (g : Wg) (t : Nat) : List (BitVec 6) := (g.mma.filter fun c => c.tile == t).map (·.cid)

def State.tileTrap (s : State) (t : BitVec 5) : Option Trap := s.mmaTrap (decide (s.wg.kern.acct ≤ t.toNat))

def Wg.tile (g : Wg) (t : Nat) : Tile := g.tiles.get Tile.start t
def Wg.setTile (g : Wg) (t : Nat) (x : Tile) : Wg := { g with tiles := g.tiles.set Tile.start t x }

/-! ## ACLR (R336) and AWR (R350) -/

def execAclr (sw : Bool) (t : BitVec 5) (s : State) : Out :=
  s.guarded (firstTrap [s.formTrap { xw := .no } false, s.tileTrap t]) fun s =>
    if s.wg.tileBusy t.toNat then .next (s.stallOn (s.wg.onTile t.toNat))
    else if s.wave.repro then .next (((s.hold s.iss.cur (.aclr t.toNat)).retire sw).endQuantum)
    else .next ((s.setWg (s.wg.setTile t.toNat Tile.start)).retire sw)

/-- Write lanes of a row of a tile. -/
def Tile.writeRow (x : Tile) (row : Nat) (vals : List LaneVal) (lanes : Lanes) : Tile :=
  { x with elems := (lanesOf lanes).foldl (fun m l => m.set LaneVal.zero (32 * row + l) (vals.getD l LaneVal.zero)) x.elems }

def execAwr (sw : Bool) (t : BitVec 5) (a : Opd) (r : BitVec 5) (s : State) : Out :=
  s.guarded (firstTrap [s.formTrap { a := some { o := a } } (!a.isVec), s.tileTrap t]) fun s =>
    if s.wg.tileBusy t.toNat then .next (s.stallOn (s.wg.onTile t.toNat))
    else
      let vals := (List.range 32).map fun l =>
        let x := s.readLane s.xw.permA s.xw.argA (s.ref a) 0 l
        match firstTok [x.tok, s.guardTok l] with
        | some k => (⟨k, true⟩ : LaneVal)
        | none => x
      let lanes := s.active &&& 0xFFFFFFFF#64
      if s.wave.repro then .next (((s.hold s.iss.cur (.awr t.toNat r.toNat vals lanes)).retire sw).endQuantum)
      else .next ((s.setWg (s.wg.setTile t.toNat ((s.wg.tile t.toNat).writeRow r.toNat vals lanes))).retire sw)

/-! ## ARD (R341) -/

/-- An element as ARD and AST return it: scaled under C.TER unless raw (R75). -/
def Tile.readElem (x : Tile) (scaled : Bool) (i j : Nat) : LaneVal :=
  let e := x.elems.get LaneVal.zero (32 * i + j)
  if e.p || !scaled then e
  else ⟨BitVec.ofNat 32 (terRead e.bits.toNat (x.rs[i]?.getD 0#16).toNat (x.cs[j]?.getD 0#16).toNat), false⟩

/-- An element of a tile that commands in flight may write: the element and its two scales are each found as one of the values that the
tile takes (R75). -/
def readPicked (tick : Nat) (xs : List Tile) (scaled : Bool) (i j : Nat) : LaneVal :=
  Tile.readElem { pickTile tick (32 * i + j) xs with rs := (pickTile tick (1024 + i) xs).rs, cs := (pickTile tick (1056 + j) xs).cs }
    scaled i j

/-- Does reading apply the C.TER scales? -/
def State.scaled (s : State) (raw : Bool) : Bool := s.wg.kern.con == 4#3 && !raw

def execArd (sw : Bool) (d : Opd) (t : BitVec 5) (x : Bool) (r : BitVec 5) (s : State) : Out :=
  s.guarded (firstTrap [s.formTrap { dst := some { o := d } } (!isVecReg d), s.tileTrap t]) fun s =>
    let xs := s.tileValues s.wave.id.wgKey t.toNat
    .next (((s.picked xs).putResults true (s.dest d) ((lanesOf s.active).map fun l =>
      let e := readPicked s.tick xs (s.scaled x) r.toNat (l % 32)
      (l, match firstTok [e.tok, s.guardTok l] with
        | some k => .tok k
        | none => .val (e.bits.setWidth 64) 0#6))).retire sw)

/-! ## AST (R342, R343) -/

/-- The check of each element, in row-major order. -/
def State.astChecks (s : State) (r : BufRec) (o : Nat) : List (Nat × LaneChk) :=
  (List.range 1024).map fun n => (n, s.checkLane r (recAddr r (o + n)) 4 4 .storeMem)

/-- The set of columns of a list of elements. -/
def columnsOf (ns : List Nat) : Lanes := maskOf (ns.map (· % 32))

/-- The trap of failing elements: the cause of highest priority, its first element's address, its columns. -/
def State.astTrap (s : State) (cs : List (Nat × LaneChk)) : Option Trap :=
  match chkFails cs with
  | [] => none
  | f :: fs =>
    let best := fs.foldl (fun (b : Nat × Cause × Nat) e => if e.2.1.priority < b.2.1.priority then e else b) f
    let hit := (f :: fs).filter fun e => e.2.1 == best.2.1
    some (Trap.plain best.2.1 (BitVec.ofNat 64 best.2.2)
      (if best.2.1 == .mchk then s.wave.allLanes else columnsOf (hit.map (·.1))))

/-- The elements that an AST stores, in row-major order, as it finds them (R75). -/
def State.astElems (s : State) (t : Nat) (scaled : Bool) : List LaneVal :=
  let xs := s.tileValues s.wave.id.wgKey t
  (List.range 1024).map fun n => readPicked s.tick xs scaled (n / 32) (n % 32)

/-- POISON of an AST's elements (R77). -/
def astPoison (vs : List LaneVal) : Option Trap :=
  let bad := (List.range 1024).filter fun n => (vs.getD n LaneVal.zero).p
  bad.head?.map fun n => Trap.plain .poison ((vs.getD n LaneVal.zero).bits.setWidth 64) (columnsOf bad)

/-- The 32 entries of an AST, one for each row; `o` is the offset of its first element. -/
def astRows (r : BufRec) (o : Nat) (cs : List (Nat × LaneChk)) (vs : List LaneVal) : List Eff :=
  (List.range 32).map fun i =>
    let row := cs.filter fun e => e.1 / 32 == i
    .store (recScratch r) (chkUncached row) false (row.flatMap fun e => e.2.pas.zip (leBytes 4 (vs.getD e.1 LaneVal.zero).bits.toNat))
      (pagesOf 4 ((row.filter fun e => !e.2.pas.isEmpty).map fun e => recAddr r (o + e.1)))

/-- AST (R342, R343). A tile that the workgroup does not have has no elements to check, so only MMAERR names it. -/
def execAst (sw x : Bool) (t : BitVec 5) (o : Opd) (b : BitVec 4) (s : State) : Out :=
  let r := s.brec b
  let off := s.readScal (s.ref o)
  let checks := s.astChecks r off.bits.toNat
  let vs := s.astElems t.toNat (s.scaled x)
  let gone := s.tileTrap t
  s.guarded (firstTrap [s.formTrap { xw := .no } (!o.sgz || recBad r),
      if off.p then some (Trap.plain .poison ((off.bits.setWidth 32).setWidth 64) 0xFFFFFFFF#64)
      else if gone.isSome then none else s.astTrap checks,
      if gone.isSome then none else astPoison vs, gone]) fun s =>
    s.withRoom 32 fun s =>
      let s := s.touchTlbs r ((checks.filter fun e => !e.2.pas.isEmpty).map fun e => recAddr r (off.bits.toNat + e.1))
      let s := s.holdAll s.iss.cur (astRows r off.bits.toNat checks vs)
      .next (((s.picked (s.tileValues s.wave.id.wgKey t.toNat)).setWave s.wave.clearIdem).retire sw)

end Sys2Proof.Machine
end

