-- ==== Sys2Proof/Machine/Block.lean ====
section
/-!
DEFINITION. Engine command blocks (R82, R83): the tensor copy descriptor (R84, R85), the power arbiter's block (R306), the
collective block (R324), the kernel-table block (R138) and the launch packet (R131, R133), and their checks. A check
answers the offset of the offending field: the header first, then the lowest.
-/

namespace Sys2Proof.Machine

/-- A 4-byte field as a signed number. -/
def sfieldOf (b : List Byte) (off : Nat) : Int := sint 32 (fieldOf b off 4)

/-- The first offence of a list in ascending order of field. -/
def firstBad (l : List (Nat × Bool)) : Option Nat := (l.find? (·.2)).map (·.1)

/-- Bits `n` up to bit 31 of a field. -/
def highBits (x n : Nat) : Bool := decide (2 ^ n ≤ x)

def blockType (b : List Byte) : Nat := fieldOf b 0 1
def blockSize (b : List Byte) : Nat := fieldOf b 2 2

/-- The header's offences for an engine of TYPE `t` and defined size `n` (R82, R83). -/
def headBad (b : List Byte) (t n : Nat) : Bool :=
  blockType b != t || fieldOf b 1 1 != 1 || blockSize b % 8 != 0 || decide (blockSize b < n) || decide (1024 < blockSize b)

/-- Non-zero bytes beyond the defined size. -/
def tailBad (b : List Byte) (n : Nat) : List (Nat × Bool) :=
  ((List.range (b.length - n)).map fun i => (n + i, b.getD (n + i) 0#8 != 0#8))

/-! ## Tensor copies -/

structure CopyDim where
  count : Nat
  ss : Int
  ds : Int
deriving DecidableEq, Repr

/-- CTL's fields and the others of a tensor copy block (R84). -/
structure CopyDesc where
  ctl : BitVec 32
  src : Nat
  dst : Nat
  nbtime : Nat
  rec_ : Nat
  count0 : Nat
  dims : List CopyDim
deriving DecidableEq, Repr

def copyDesc (b : List Byte) : CopyDesc :=
  { ctl := BitVec.ofNat 32 (fieldOf b 4 4), src := fieldOf b 8 8, dst := fieldOf b 16 8, nbtime := fieldOf b 24 8,
    rec_ := fieldOf b 32 8, count0 := fieldOf b 40 4,
    dims := (List.range 7).map fun k => ⟨fieldOf b (44 + 12 * k) 4, sfieldOf b (48 + 12 * k), sfieldOf b (52 + 12 * k)⟩ }

def CopyDesc.sfmt (c : CopyDesc) : Nat := (c.ctl.extractLsb' 0 4).toNat
def CopyDesc.dfmt (c : CopyDesc) : Nat := (c.ctl.extractLsb' 4 4).toNat
def CopyDesc.ndim (c : CopyDesc) : Nat := (c.ctl.extractLsb' 8 3).toNat
def CopyDesc.scope (c : CopyDesc) : Nat := (c.ctl.extractLsb' 11 3).toNat
def CopyDesc.sat8 (c : CopyDesc) : Bool := c.ctl.getLsbD 14
def CopyDesc.ssp (c : CopyDesc) : Bool := c.ctl.getLsbD 15
def CopyDesc.dsp (c : CopyDesc) : Bool := c.ctl.getLsbD 16
def CopyDesc.dws (c : CopyDesc) : Bool := c.ctl.getLsbD 17
def CopyDesc.nbv (c : CopyDesc) : Bool := c.ctl.getLsbD 18
def CopyDesc.semv (c : CopyDesc) : Bool := c.ctl.getLsbD 19
def CopyDesc.semd (c : CopyDesc) : Bool := c.ctl.getLsbD 20
def CopyDesc.semidx (c : CopyDesc) : Nat := (c.ctl.extractLsb' 21 10).toNat

/-- The dimensions above 0 that are used. -/
def CopyDesc.used (c : CopyDesc) : List CopyDim := c.dims.take c.ndim

/-- Bytes of one row in a format. -/
def rowBytes (fmt count : Nat) : Nat := count / max 1 (fmtElems fmt) * fmtUnit fmt

/-- The lowest and highest row start of a side, relative to its base; a dimension of no rows adds nothing. -/
def spanOf (cs : List (Nat × Int)) : Int × Int :=
  cs.foldl (fun r c => let x := ((c.1 - 1 : Nat) : Int) * c.2; (r.1 + min 0 x, r.2 + max 0 x)) (0, 0)

def CopyDesc.srcSpan (c : CopyDesc) : Int × Int := spanOf (c.used.map fun d => (d.count, d.ss))
def CopyDesc.dstSpan (c : CopyDesc) : Int × Int := spanOf (c.used.map fun d => (d.count, d.ds))

/-- Does a side reach outside `limit` bytes? -/
def outside (base : Nat) (span : Int × Int) (row limit : Nat) : Bool :=
  decide ((base : Int) + span.1 < 0) || decide ((limit : Int) < (base : Int) + span.2 + row)

def CopyDesc.ctlBad (c : CopyDesc) : Bool :=
  c.ctl.getLsbD 31 || decide (14 ≤ c.sfmt) || decide (14 ≤ c.dfmt) || ((c.sfmt == 0) != (c.dfmt == 0)) ||
    c.scope == 0 || decide (5 < c.scope) || (c.semv && !c.semd && decide (255 < c.semidx)) || (c.dsp && c.dws) ||
    (c.dws && (c.ssp || c.sfmt != 0 || c.dfmt != 0))

/-- SRC's check: alignment, and reach inside the scratchpad. A copy with a zero COUNT moves no row; whether its base address can still reach outside,
so that SRC or DST is reported before the COUNT field, R85 does not say: the model tests the row at the base all the same (DESIGN CHOICE, log
entry 89). The same holds of `dstBad`. -/
def CopyDesc.srcBad (c : CopyDesc) (limit : Nat) : Bool :=
  c.src % fmtAlign c.sfmt != 0 || (c.ssp && outside c.src c.srcSpan (rowBytes c.sfmt c.count0) limit)

/-- DST's check: alignment, reach inside the scratchpad or a weight store, and the dies named. Of a zero COUNT as `srcBad` (DESIGN CHOICE, log
entry 89). -/
def CopyDesc.dstBad (c : CopyDesc) (limit : Nat) : Bool :=
  c.dst % fmtAlign c.dfmt != 0 || (c.dsp && outside c.dst c.dstSpan (rowBytes c.dfmt c.count0) limit) ||
    (c.dws && (c.dst / 2 ^ 48 == 0 || c.dst / 2 ^ 30 % 2 ^ 18 != 0 ||
      outside (c.dst % 2 ^ 30) c.dstSpan (rowBytes c.dfmt c.count0) (2 ^ 30)))

def CopyDesc.dimBad (c : CopyDesc) (k : Nat) : List (Nat × Bool) :=
  let d := c.dims.getD k ⟨0, 0, 0⟩
  let off := 44 + 12 * k
  if k < c.ndim then [(off, d.count == 0), (off + 4, d.ss % (fmtAlign c.sfmt : Int) != 0), (off + 8, d.ds % (fmtAlign c.dfmt : Int) != 0)]
  else [(off, d.count != 0), (off + 4, d.ss != 0), (off + 8, d.ds != 0)]

/-- R85's check: the offending field of a tensor copy block, for an allocation of `limit` bytes. -/
def copyCheck (b : List Byte) (limit : Nat) : Option Nat :=
  let c := copyDesc b
  firstBad ([(0, headBad b 1 128), (4, c.ctlBad), (8, c.srcBad limit), (16, c.dstBad limit), (32, c.rec_ % 32 != 0),
    (40, c.count0 == 0 || c.count0 % fmtElems c.sfmt != 0 || c.count0 % fmtElems c.dfmt != 0)] ++
    ((List.range 7).flatMap c.dimBad) ++ tailBad b 128)

/-! ## The power arbiter's block (R306) -/

def powerCheck (b : List Byte) : Option Nat :=
  let op := fieldOf b 4 4
  let req := op == 0
  let mask := fieldOf b 8 4
  let plim := fieldOf b 12 4
  let dur := fieldOf b 16 4
  firstBad ([(0, headBad b 3 32), (4, decide (1 < op)), (8, highBits mask 16 || (if req then mask == 0 else mask != 0)),
    (12, if req then decide (plim < 6501 ∨ 7600 < plim) else plim != 0),
    (16, if req then decide (dur < 1 ∨ 4000000 < dur) else dur != 0),
    (20, highBits (fieldOf b 20 4) 11), (24, fieldOf b 24 8 % 32 != 0)] ++ tailBad b 32)

/-! ## The collective block (R324) -/

def collOp (b : List Byte) : Nat := fieldOf b 4 4 % 4
def collRop (b : List Byte) : Nat := fieldOf b 4 4 / 4 % 4
def collFmt (b : List Byte) : Nat := fieldOf b 4 4 / 16 % 16

def collCheck (b : List Byte) : Option Nat :=
  let ctl := fieldOf b 4 4
  let count := fieldOf b 24 8
  firstBad ([(0, headBad b 2 64),
    (4, highBits ctl 19 || collRop b == 3 || (decide (2 ≤ collOp b) && collRop b != 0) || !([1, 2, 3, 13].contains (collFmt b))),
    (24, decide (count < 1 ∨ 2 ^ 40 < count)), (32, fieldOf b 32 8 % 64 != 0), (40, fieldOf b 40 8 % 32 != 0),
    (48, collOp b != 3 && fieldOf b 48 4 != 0), (56, fieldOf b 56 8 != 0)] ++ tailBad b 64)

/-! ## The kernel-table block (R138) -/

def tableCheck (b : List Byte) : Option Nat :=
  let op := fieldOf b 4 4
  let desc := fieldOf b 16 8
  firstBad ([(0, headBad b 4 32), (4, decide (1 < op)), (8, highBits (fieldOf b 8 4) 10), (12, fieldOf b 12 4 != 0),
    (16, if op == 0 then desc == 0 || desc % 256 != 0 else desc != 0), (24, fieldOf b 24 8 != 0)] ++ tailBad b 32)

/-! ## The launch packet (R131, R133) -/

def pktQueue (b : List Byte) : Nat := fieldOf b 1 1
def pktNdep (b : List Byte) : Nat := fieldOf b 2 1 % 8
def pktNbv (b : List Byte) : Bool := (fieldOf b 2 1).testBit 3
def pktCl (b : List Byte) : Bool := (fieldOf b 2 1).testBit 4
def pktSigv (b : List Byte) : Bool := (fieldOf b 2 1).testBit 5
def pktSigidx (b : List Byte) : Nat := fieldOf b 0 4 / 2 ^ 22
def pktKidx (b : List Byte) : Nat := fieldOf b 4 4
def pktNwg (b : List Byte) : Nat := fieldOf b 8 4
def pktEest (b : List Byte) : Nat := fieldOf b 12 4
def pktArgs (b : List Byte) : Nat := fieldOf b 16 8
def pktNbtime (b : List Byte) : Nat := fieldOf b 24 8
def pktRec (b : List Byte) : Nat := fieldOf b 32 8
def pktDep (b : List Byte) (n : Nat) : Nat := fieldOf b (40 + 4 * n) 4

def State.lqcfgAt (s : State) (q : Nat) : Word64 := s.hub.lqcfg.get 0#64 q
/-- Is the queue the context's, and enabled (R133, R316)? -/
def State.queueOf (s : State) (q asid : Nat) : Bool := (s.lqcfgAt q).getLsbD 13 && (s.lqcfgAt q).toNat % 2 ^ 10 == asid
def State.queuePrio (s : State) (q : Nat) : BitVec 3 := (s.lqcfgAt q).extractLsb' 10 3

def State.depBad (s : State) (b : List Byte) (asid n : Nat) : Bool :=
  if n < pktNdep b then !s.semUsable true 0 (pktDep b n % 1024) asid else pktDep b n != 0

/-- R133's check of a packet. QUEUE, NDEP and the bits beside them are parts of the field at offset 0, and one that offends is reported
there: the spec does not say whether the field or its part is the offending field (DESIGN CHOICE, log entry 84). -/
def State.packetCheck (s : State) (b : List Byte) (asid : Nat) : Option Nat :=
  firstBad ([(0, fieldOf b 0 1 != 0x4C || !s.queueOf (pktQueue b) asid || decide (4 < pktNdep b)),
    (4, highBits (pktKidx b) 10), (8, pktNwg b == 0 || (pktCl b && pktNwg b % 4 != 0)),
    (24, !pktNbv b && pktNbtime b != 0), (32, pktRec b % 32 != 0)] ++
    ((List.range 4).map fun n => (40 + 4 * n, s.depBad b asid n)) ++ [(56, fieldOf b 56 8 != 0)])

/-! ## Taking effect -/

/-- A kernel-table block takes effect (R139, R191): the entry changes, and every core drops the context's unlocked
instruction-cache lines and fetches its locked ones again. -/
def State.tableEffect (s : State) (asid : Nat) (b : List Byte) : State :=
  let k := fieldOf b 8 4
  let s := s.modCtxAt asid fun c =>
    { c with kit := if fieldOf b 4 4 = 0 then c.kit.put k (fieldOf b 16 8) else c.kit.erase k }
  let s := { s with caches := { s.caches with ic := s.caches.ic.filter (fun e =>
    keyUnit e.1 % 1024 != asid || s.icLocked (keyUnit e.1) (keyAddr e.1 / 128)) } }
  (s.caches.locks.filter fun l => l.asid == asid && l.active).foldl (fun s l =>
    l.lines.foldl (fun s n => s.refetchIc l.core asid n) s) s

/-- A packet enters its queue (R134). -/
def State.enqueue (s : State) (asid : Nat) (b : List Byte) : State :=
  { s with hub := { s.hub with queues := s.hub.queues.modify [] (pktQueue b) (· ++ [(asid, b)]) } }

def State.queueFull (s : State) (q : Nat) : Bool := decide (64 ≤ (s.hub.queues.get [] q).length)

/-- Copies of a cluster that take one of the 32 places of its queue (R87): those that have not started. The spec does not say whether a
copy that has started, or waits at a weight-store gate, still takes one (DESIGN CHOICE, log entry 77). -/
def State.copiesQueued (s : State) (cluster : Nat) : Nat :=
  (s.eng.copies.filter fun e => e.2.cluster == cluster && !e.2.started).length

def State.collsQueued (s : State) : Nat := (s.eng.colls.filter fun e => e.2.status.isNone).length

/-- Does the engine or queue that a command goes to have room (R87, R134, R373)? -/
def State.engineRoom (s : State) (cluster : Nat) : EngCmd → Bool
  | .tcopy _ => decide (s.copiesQueued cluster < 32)
  | .collective _ => decide (s.collsQueued < 64)
  | .launch b => !s.queueFull (pktQueue b)
  | .power _ | .table _ => true

/-- A command reaches its engine or queue. `commit` is the launch's quantum in reproducible mode (R126). -/
def State.submit (s : State) (k : Nat) (commit : Option Nat) : EngCmd → State
  | .tcopy b =>
    let i := (s.waveAt k).id
    let c : Copy :=
      { block := b, asid := i.asid.toNat, wg := i.wgKey, cluster := i.cluster, started := false, arrived := false,
        die := none, diesLeft := [], admitted := [], unit := 0, done := 0, flags := 0#6, status := 0#8, token := 0#32, faultVa := 0#64,
        finished := false, commit := commit, alt := [], pages := [], mute := false }
    { s with eng := { s.eng with copies := s.eng.copies.put s.eng.nextCopy c, nextCopy := s.eng.nextCopy + 1 } }
  | .collective b =>
    let c : Collective :=
      { block := b, asid := (s.waveAt k).id.asid.toNat, submitted := s.now, status := none, flags := 0#6,
        faultVa := 0#64, peer := 0, launch := (s.waveAt k).id.launchKey, commit := commit, elems := 0, held := [], pages := [], mute := false }
    { s with eng := { s.eng with colls := s.eng.colls.put s.eng.nextColl c, nextColl := s.eng.nextColl + 1 } }
  | .power b => { s with eng := { s.eng with leaseReqs := s.eng.leaseReqs ++ [⟨(s.waveAt k).id.asid.toNat, b, commit.map fun _ => (s.waveAt k).id.launchKey⟩] } }
  | .table b => s.tableEffect (s.waveAt k).id.asid.toNat b
  | .launch b => s.enqueue (s.waveAt k).id.asid.toNat b

end Sys2Proof.Machine
end

