-- ==== Sys2Proof/Machine/WaitOps.lean ====
section
/-!
DEFINITION. How a waiting instruction waits (R113, R222, R230, R236): the wait's entry or its refusal, DEADLOCK, requests in
reproducible mode (R125), and how a wait ends. Shedding at barriers and on return to Ready (R301).
-/

namespace Sys2Proof.Machine

/-- The acquire scope of a satisfied wait (R212, R215). -/
def WaitKind.scope : WaitKind → Nat
  | .bar | .drain => 1
  | .barc | .semClu => 2
  | .lock | .semDev | .waitv => 4

/-- A waiting instruction that completes at once: acquire, status 0 (R222). -/
def State.waitDone (s : State) (sw : Bool) (kind : WaitKind) (d : Dest) (res : Nat) : State :=
  ((s.acquire s.iss.cur kind.scope).writeScal s.iss.cur d (BitVec.ofNat 64 res)).retire sw

/-- A wait begins outside reproducible mode (R230, R236): the wave is Waiting, registered or not, or takes DEADLOCK after
`undo` has withdrawn what the instruction had done. The walk counts the wave's own declared waker as a holder (R455). -/
def State.beginWait (s : State) (w : Wait) (undo : State → State) : State :=
  let k := s.iss.cur
  let o := w.obj s.asid
  let waiting (s : State) (reg : Bool) : State :=
    { (s.modWaveAt k fun v => { (v.become (if reg then .waitReg else .waitUnreg)) with wait := some { w with registered := reg } }) with
      iss := { s.iss with out := .waits } }
  match s.entryFor o with
  | none => waiting (s.modCtxAt s.asid fun c => { c with ovf := c.ovf + 1 }) false
  | some (i, j) =>
    match (waiting s true).inlineWalk k o with
    | some path =>
      let (va, s) := (undo s).reportDeadlock s.asid path false false
      s.takeTrap (Trap.plain .deadlock (BitVec.ofNat 64 va) s.mask)
    | none => (waiting s true).makeEntry k o i j

/-- In reproducible mode the request stays open, and the quantum ends (R122, R125). -/
def State.requestWait (s : State) (w : Wait) : State :=
  let v := s.wave
  { (s.setWave { v with wait := some { w with registered := false, clk := v.qclk.toNat }, ended := true,
                        qclk := nextQuantum s.ctx.qlog v.qclk }) with iss := { s.iss with out := .waits } }

/-- A wait that has met its condition ends (R222): status, acquire, the program counter goes on, the wave is Ready. `res` is
the status; `counts` says whether the retirement still moves QCLK. -/
def State.endWait (s : State) (k : Nat) (res : Nat) (counts : Bool) : State :=
  let w := s.waveAt k
  match w.wait with
  | none => s
  | some x =>
    let second := w.pcs.lastIssued
    let s := (s.dropEntry k).acquire k x.kind.scope
    let s := s.writeScal k x.dst (BitVec.ofNat 64 res)
    let s := s.modWaveAt k fun w =>
      let w := { (if x.kind = .lock then w.clearIdem else w) with wait := none, pcs := match w.pcs.slot second with
        | some p => w.pcs.setSlot second (some { p with pc := p.pc + 4#64 })
        | none => w.pcs }
      if counts then w.tally false (s.ctxAt w.id.asid.toNat).qlog s.dueClasses else w
    let s := s.toReady k
    s.modWaveAt k fun w => if x.sw && w.outstanding && w.st == .ready then { w with st := .parkedS } else w

end Sys2Proof.Machine
end

