-- ==== Sys2Proof/Machine/Eng.lean ====
section
/-!
DEFINITION. Major 20: TCOPY (R446), ECMD (R373), SEMWAIT, SEMSIG, SEMRD (R436 to R438), LAUNCH (R392).
-/

namespace Sys2Proof.Machine

/-! ## Reading a command block (R373) -/

/-- The number that plain loads of a translated run give. -/
def State.chkNum (s : State) : LaneChk → Nat
  | .ok ps u => match s.loadNum s.overlay false u ps with
    | .ok x => x
    | .error _ => 0
  | _ => 0

/-- How many bytes a block's header asks for. Where SIZE breaks R82, "the whole block" of R83 has no length, and only the header is
read (DESIGN CHOICE, log entry 76). -/
def headerSize (h : Nat) : Nat :=
  let n := h / 2 ^ 16 % 2 ^ 16
  if n % 8 = 0 ∧ 8 ≤ n ∧ n ≤ 1024 then n else 4

/-- Translate a whole block. -/
def State.engChk (s : State) (va : Nat) : LaneChk :=
  match s.xlatRange va 4 .load with
  | .ok ps u => s.xlatRange va (headerSize (s.chkNum (.ok ps u))) .load
  | c => c

def State.chkBytes (s : State) (c : LaneChk) : List Byte := leBytes c.pas.length (s.chkNum c)

/-- What the reads of a block leave in TLBs and caches, after the atomics that wait on its bytes (R200). -/
def State.blockTouch (s : State) (va : Nat) (c : LaneChk) : State :=
  let s := (s.lookupTouch s.wg.ext s.wave.id.cluster s.asid va).settleAtomics false c.pas
  s.loadsTouch false false c.uncached c.pas

/-- The traps of a submission: operands, ALIGN, the reads, MCHK, ENGREJ at the offending field (R83, R373). `scope` is that of the
release that the submission is, once the block is known. -/
def State.submitTrap (s : State) (a : Opd) (c : LaneChk) (scope : Nat) (bad : Option Nat) : Option Trap :=
  firstTrap [s.sysTrap (!a.sg) [a],
    if (s.sval a).toNat % 64 = 0 then none else some (Trap.plain .align (s.sval a) s.mask),
    s.chkTrap c, s.ueTrap c.pas, s.sysFail scope,
    bad.map fun off => Trap.plain .engrej (s.sval a + BitVec.ofNat 64 off) s.mask]

/-- Submit a checked command: release, then the engine, or a held effect that ends the quantum (R122, R126). The engine or queue
accepts it at once, so that the acknowledgement count rises and falls by 1 (R370). -/
def State.submitCmd (s : State) (sw : Bool) (scope : Nat) (cmd : EngCmd) : Out :=
  if !s.wave.repro && !s.engineRoom s.wave.id.cluster cmd then .next s.stall
  else s.released scope fun s =>
    let s := s.setWave s.wave.clearIdem
    if s.wave.repro then .next (((s.hold s.iss.cur (.engine cmd)).retire sw).endQuantum)
    else .next ((s.submit s.iss.cur none cmd).retire sw)

def execTcopy (sw : Bool) (a : Opd) (s : State) : Out :=
  let va := (s.sval a).toNat
  let c := s.engChk va
  let b := s.chkBytes c
  let scope := (copyDesc b).scope
  s.guarded (s.submitTrap a c scope (copyCheck b s.spmLimit)) fun s =>
    (s.blockTouch va c).submitCmd sw scope (.tcopy b)

/-- ECMD's check and command, by TYPE. -/
def ecmdOf (b : List Byte) : Option Nat × EngCmd :=
  match blockType b with
  | 2 => (collCheck b, .collective b)
  | 3 => (powerCheck b, .power b)
  | 4 => (tableCheck b, .table b)
  | _ => (some 0, .power b)

def execEcmd (sw : Bool) (a : Opd) (s : State) : Out :=
  let va := (s.sval a).toNat
  let c := s.engChk va
  let r := ecmdOf (s.chkBytes c)
  s.guarded (s.submitTrap a c 4 r.1) fun s => (s.blockTouch va c).submitCmd sw 4 r.2

def execLaunch (sw : Bool) (a : Opd) (s : State) : Out :=
  let va := (s.sval a).toNat
  let c := s.xlatRange va 64 .load
  let b := s.chkBytes c
  s.guarded (s.submitTrap a c 4 (s.packetCheck b s.asid)) fun s => (s.blockTouch va c).submitCmd sw 4 (.launch b)

/-! ## Semaphores -/

def selIdx (x : Word64) : Nat := (x.extractLsb' 0 10).toNat
def selDev (x : Word64) : Bool := x.getLsbD 10
/-- R437. -/
def selBad (x : Word64) : Bool := x >>> 11 != 0#64 || (!selDev x && decide (255 < selIdx x))

/-- The traps of a semaphore instruction; the spec states no FADDR for this PROT (log entry 18). -/
def State.semTrap (s : State) (bad : Bool) (srcs : List Opd) (x : ScalVal) : Option Trap :=
  firstTrap [s.formTrap { xw := .no } bad,
    if !x.p && selBad x.bits then some (s.wordTrap .illop) else none,
    if !x.p && !s.semUsable (selDev x.bits) s.wave.id.cluster (selIdx x.bits) s.asid then
      some (Trap.plain .prot (Config.undefined64 s.tick 0) s.mask) else none,
    s.poisonScal srcs]

def State.selOf (s : State) (a : Opd) : ScalVal := s.readScal (s.ref a)

/-- The wait of a SEMWAIT (R232). -/
def State.semWaitOf (s : State) (sw : Bool) (d : Opd) (x : Word64) (t : Word32) : Wait :=
  let idx := selIdx x
  let cl := s.wave.id.cluster
  { kind := if selDev x then .semDev else .semClu, key := BitVec.ofNat 64 (if selDev x then idx else idx + cl * 256),
    pa := if selDev x then idx else 256 * cl + idx, expect := t.setWidth 64, dst := s.dest d, registered := false,
    met := false, clk := 0, sw := sw }

def execSemwait (sw : Bool) (d a b : Opd) (s : State) : Out :=
  s.guarded (s.semTrap (!d.sgz || !a.sg || !b.sgz) [a, b] (s.selOf a)) fun s =>
    let x := s.sval a
    let t : Word32 := (s.sval b).setWidth 32
    let w := s.semWaitOf sw d x t
    if s.wave.repro then .next (s.requestWait w)
    else if t.toNat ≤ (s.semCount (selDev x) s.wave.id.cluster (selIdx x)).toNat then .next (s.waitDone sw w.kind w.dst 0)
    else .next (s.beginWait w id)

def execSemsig (sw : Bool) (a b : Opd) (s : State) : Out :=
  s.guarded (s.semTrap (!a.sg || !b.sg) [a, b] (s.selOf a)) fun s =>
    let x := s.sval a
    let n : Word32 := (s.sval b).setWidth 32
    let s := s.setWave s.wave.clearIdem
    if s.wave.repro then .next ((s.hold s.iss.cur (.semsig (selDev x) (selIdx x) n)).retire sw)
    else .next (((s.release s.iss.cur (if selDev x then 4 else 2)).semAdd (selDev x) s.wave.id.cluster (selIdx x) n).retire sw)

/-- The wave's own held SEMSIGs of a semaphore (R438). -/
def Wave.heldSig (w : Wave) (dev : Bool) (idx : Nat) : Word32 :=
  w.fifo.foldl (fun n e => match e with
    | .semsig d i x => if d == dev && i == idx then n + x else n
    | _ => n) 0#32

/-- The count that a wave reads (R438): in reproducible mode that of the last commit, with what the wave itself holds. -/
def State.countSeen (s : State) (dev : Bool) (idx : Nat) : Word32 :=
  let i := s.wave.id
  if s.wave.repro then
    let c := (s.launchAt i.launchKey).seen
    (if dev then c.1.get 0#32 idx else c.2.get 0#32 (256 * i.cluster + idx)) + s.wave.heldSig dev idx
  else s.semCount dev i.cluster idx

def execSemrd (sw : Bool) (d a : Opd) (s : State) : Out :=
  s.guarded (s.semTrap (!d.sgz || !a.sg) [a] (s.selOf a)) fun s =>
    let x := s.sval a
    let n := s.countSeen (selDev x) (selIdx x)
    .next ((s.addPend s.iss.cur (Pend.plain ((s.dest d).scalVal ⟨n.setWidth 64, false⟩) 1#64)).retire sw)

end Sys2Proof.Machine
end

