-- ==== Sys2Proof/Machine/Sync.lean ====
section
/-!
DEFINITION. Major 21: FENCE (R202), BAR, BARC, DRAIN (R352 to R354, R370), ODECL and OREL (R413).
-/

namespace Sys2Proof.Machine

/-! ## FENCE -/

/-- A FENCE of any kind waits for the wave's earlier loads, LDS and returning atomics; one that releases waits for its stores, at
`.sys` until the owning devices have acknowledged them (R202). -/
def execFence (sw : Bool) (k : FenceKind) (scope : BitVec 3) (s : State) : Out :=
  let n := scope.toNat
  s.guarded (firstTrap [if k = .acq then none else s.sysFail n, s.formTrap { xw := .no } (n == 0 || decide (5 < n))]) fun s =>
    s.settled fun s => s.released (if k = .acq then 0 else n) fun s =>
      .next ((s.acquireAt (if k = .rel then 0 else n)).retire sw)

/-! ## Barriers -/

/-- The bits of a wave, both halves of a pair, in an arrival mask (R223). -/
def WaveId.bits (i : WaveId) : BitVec 32 :=
  BitVec.twoPow 32 i.index.toNat ||| (if i.paired then BitVec.twoPow 32 (i.index.toNat + 1) else 0#32)

/-- Has the wave diverged, or is it in handler mode (R353)? -/
def Wave.notConverged (w : Wave) (second : Bool) : Bool :=
  (w.pcs.slot (!second)).isSome || w.pcs.depth != 0 || w.env.hm

/-- The key of a barrier (R232). -/
def State.barKey (s : State) (cluster : Bool) (b : Nat) : Word64 :=
  let i := s.wave.id
  BitVec.ofNat 64 (i.ltag.toNat + (if cluster then i.wg.toNat - i.cwg.toNat else i.wg.toNat) * 2 ^ 16 + b * 2 ^ 48)

/-- Record or withdraw a wave's arrival. -/
def State.setArrival (s : State) (k : Nat) (cluster : Bool) (b : Nat) (on : Bool) : State :=
  let i := (s.waveAt k).id
  s.modWgAt i.wgKey fun g =>
    if cluster then { g with cbars := g.cbars.set! b (if on then g.cbars[b]! ||| i.bits else g.cbars[b]! &&& ~~~i.bits) }
    else { g with bars := g.bars.set! b (if on then g.bars[b]! ||| i.bits else g.bars[b]! &&& ~~~i.bits) }

/-- A wave's arrival at the barrier it waits at is withdrawn (R233, R236). -/
def State.withdraw (s : State) (k : Nat) (w : Wait) : State :=
  match w.kind with
  | .bar | .drain => s.setArrival k false (w.key.toNat / 2 ^ 48) false
  | .barc => s.setArrival k true (w.key.toNat / 2 ^ 48) false
  | _ => s

/-- A wave arrives at a barrier, which may complete it (R223, R224). -/
def State.arrive (s : State) (k : Nat) (cluster : Bool) (b : Nat) : State :=
  let s := s.setArrival k cluster b true
  let wg := (s.waveAt k).id.wgKey
  if cluster then s.completeCbars wg else s.completeBars wg

/-- Is the wave's arrival at a barrier still waiting for others? -/
def State.arrived (s : State) (k : Nat) (cluster : Bool) (b : Nat) : Bool :=
  let g := s.wgAt (s.waveAt k).id.wgKey
  ((if cluster then g.cbars[b]! else g.bars[b]!) &&& (s.waveAt k).id.bits) != 0#32

/-- BAR, BARC and DRAIN after their checks. A DRAIN first waits until all that the wave has sent is acknowledged (R370). -/
def State.barrier (s : State) (sw : Bool) (kind : WaitKind) (d : Dest) (b : Nat) : Out :=
  let cl := kind == .barc
  let k := s.iss.cur
  let w : Wait := { kind := kind, key := s.barKey cl b, pa := 0, expect := 0#64, dst := d, registered := false, met := false,
                    clk := 0, sw := sw }
  if s.wave.repro then .next ((((s.setWave s.wave.clearIdem).hold k (.arrive kind b)).requestWait w).shedIfCut k)
  else
    let s := s.release k (if kind = .drain then 4 else kind.scope)
    if kind == .drain && s.ackCount k != 0 then .next s.stall
    else
      let s := (s.setWave s.wave.clearIdem).arrive k cl b
      if s.arrived k cl b then .next ((s.beginWait w fun s => s.setArrival k cl b false).shedIfCut k)
      else .next ((s.waitDone sw kind d 0).shedIfCut k)

def execBar (sw : Bool) (d : Opd) (n : BitVec 4) (s : State) : Out :=
  s.guarded (s.formTrap { xw := .no } (!d.sz || s.wave.notConverged s.iss.slot)) fun s => s.barrier sw .bar (s.dest d) n.toNat

def execBarc (sw : Bool) (d : Opd) (n : BitVec 4) (s : State) : Out :=
  s.guarded (s.formTrap { xw := .no } (!d.sz || s.wave.notConverged s.iss.slot || decide (7 < n.toNat) || !s.wave.id.clustered))
    fun s => s.barrier sw .barc (s.dest d) n.toNat

def execDrain (sw : Bool) (d : Opd) (n : BitVec 4) (s : State) : Out :=
  s.guarded (s.formTrap { xw := .no } (!d.sz || s.wave.notConverged s.iss.slot)) fun s => s.barrier sw .drain (s.dest d) n.toNat

/-! ## Coherence objects (R194, R195, R413) -/

/-- The virtual addresses of the lines of a shape. -/
def shapeLines (base rowb rows rstr : Nat) : List Nat :=
  (List.range rows).flatMap fun r => (List.range (rowb / 64)).map fun c => base + r * rstr + 64 * c

/-- R195's rules of a shape record. -/
def shapeOk (b : List Byte) : Bool :=
  let rowb := fieldOf b 8 4
  let rows := fieldOf b 12 4
  let rstr := fieldOf b 16 8
  fieldOf b 0 8 % 64 == 0 && rowb != 0 && rowb % 64 == 0 && rows != 0 && rstr % 64 == 0 &&
    (decide (rows ≤ 1) || decide (rowb ≤ rstr)) && fieldOf b 24 8 == 0

/-- The physical lines of a shape: none when one lies outside MT 0 local memory. -/
def State.shapePhys (s : State) (ext : List Piece) (cluster asid : Nat) (b : List Byte) : Option (List Nat) :=
  (shapeLines (fieldOf b 0 8) (fieldOf b 8 4) (fieldOf b 12 4) (fieldOf b 16 8)).mapM fun va =>
    match s.lookup ext cluster asid va with
    | .hit p => if p.mt == 0#2 && !isRemote (p.addr va) then some (p.addr va / 64) else none
    | _ => none

/-- Drop an object: its holders are probed to I (R195, R196). -/
def State.revoke (s : State) (k : Nat) (o : CohObj) : State :=
  let s := s.probeInvalid k o
  { s with harts := { s.harts with objs := s.harts.objs.erase k } }

/-- The default object of a die that was granted least recently. -/
def Harts.oldestDefault (h : Harts) (die : Nat) : Option (Nat × CohObj) :=
  (h.objs.filter fun e => !e.2.declared && e.2.die == die).foldl (fun b e => match b with
    | none => some e
    | some x => if e.2.granted < x.2.granted then some e else b) none

/-- Room for one more entry in a die's table: the least recently granted default object goes when it is full. -/
def State.objRoom (s : State) (die : Nat) : State :=
  if (s.harts.objs.filter fun e => e.2.die == die).length < 65536 then s
  else match s.harts.oldestDefault die with
    | some (k, o) => s.revoke k o
    | none => s

def State.putObj (s : State) (o : CohObj) : State :=
  { s with harts := { s.harts with objs := s.harts.objs.put (s.harts.objs.keys.foldl max 0 + 1) o } }

/-- ODECL (R195, R413): the status and what it leaves. -/
def State.declareObj (s : State) (ext : List Piece) (cluster asid : Nat) (b : List Byte) : Nat × State :=
  if !shapeOk b then (3, s)
  else match s.shapePhys ext cluster asid b with
    | none => (3, s)
    | some lines =>
      let mine := s.harts.objs.filter fun e => e.2.asid == asid && e.2.lines.any lines.contains
      let die := homeDie (64 * lines.headD 0)
      if mine.any (·.2.declared) then (2, s)
      else if 65536 ≤ (s.harts.objs.filter fun e => e.2.die == die && e.2.declared).length then (1, s)
      else
        let s := (mine.foldl (fun s e => s.revoke e.1 e.2) s).objRoom die
        (0, s.putObj ⟨asid, true, fieldOf b 0 8, lines, die, [], 0#16, 0⟩)

/-- OREL: 0 when the context's object at BASE was released, else 1. -/
def State.releaseObj (s : State) (asid base : Nat) : Nat × State :=
  match s.harts.objs.find? fun e => e.2.asid == asid && e.2.declared && e.2.base == base with
  | some (k, o) => (0, s.revoke k o)
  | none => (1, s)

def execOdecl (sw : Bool) (d a : Opd) (s : State) : Out :=
  let va := (s.sval a).toNat
  let c := s.xlatRange va 32 .load
  s.guarded (firstTrap [s.sysTrap (!d.sz || !a.sg) [a],
      if va % 32 = 0 then none else some (Trap.plain .align (s.sval a) s.mask), s.chkTrap c, s.ueTrap c.pas]) fun s =>
    let b := s.chkBytes c
    let s := s.blockTouch va c
    if s.wave.repro then .next (((s.hold s.iss.cur (.odecl b (s.dest d))).retire sw).endQuantum)
    else
      let (st, s) := s.declareObj s.wg.ext s.wave.id.cluster s.asid b
      .next ((s.writeScal s.iss.cur (s.dest d) (BitVec.ofNat 64 st)).retire sw)

def execOrel (sw : Bool) (d a : Opd) (s : State) : Out :=
  s.guarded (s.sysTrap (!d.sz || !a.sg) [a]) fun s =>
    let base := (s.sval a).toNat
    if s.wave.repro then .next (((s.hold s.iss.cur (.orel base (s.dest d))).retire sw).endQuantum)
    else
      let (st, s) := s.releaseObj s.asid base
      .next ((s.writeScal s.iss.cur (s.dest d) (BitVec.ofNat 64 st)).retire sw)

end Sys2Proof.Machine
end

