-- ==== Sys2Proof/Machine/WaitF.lean ====
section
/-!
DEFINITION. Major 22: LOCK (R397, R398), TRYLK and UNLOCK (R450), WREG, WAITV, WDONE, WQRY (R453 to R455).
-/

namespace Sys2Proof.Machine

/-! ## The word -/

/-- Does an address of the wave translate to remote memory? -/
def State.remoteWord (s : State) (va : Nat) : Bool :=
  match s.lookup s.wg.ext s.wave.id.cluster s.asid va with
  | .hit p => isRemote (p.addr va)
  | _ => false

/-- The traps of an instruction on an 8-byte word in local memory (R398, R454): an error in its walk, or in the word if it `reads` it,
operands, remote memory, alignment, translation, a poisoned source. -/
def State.wordTrapOf (s : State) (bad : Bool) (srcs : List Opd) (a : Opd) (extra reads : Bool) (c : LaneChk) : Option Trap :=
  let x := s.readScal (s.ref a)
  let made := !bad && !x.p && x.bits.toNat % 8 == 0
  firstTrap [s.mchkTrap made (match c with | .ok ps u => .ok (if reads then ps else []) u | c => c),
    s.formTrap { xw := .no } bad,
    if extra || (!x.p && s.remoteWord x.bits.toNat) then some (s.wordTrap .illop) else none,
    if !x.p && x.bits.toNat % 8 != 0 then some (Trap.plain .align x.bits s.mask) else none,
    if x.p then none else s.chkTrap c,
    s.poisonScal srcs]

/-- Does a held effect write any byte of the word? -/
def Eff.touches (e : Eff) (pa : Nat) : Bool :=
  match e with
  | .store cs _ _ bytes _ => !cs && bytes.any fun b => b.1 / 8 == pa / 8
  | .atom cs _ _ lanes _ _ _ => !cs && lanes.any fun l => match l.loc with | some a => a / 8 == pa / 8 | none => false
  | _ => false

/-- Bring a word home as far as this wave, core and cluster go: its own held writes of it, and cached copies. -/
def State.bringHome (s : State) (va pa : Nat) : State :=
  let s := s.lookupTouch s.wg.ext s.wave.id.cluster s.asid va
  if s.wave.repro then s
  else
    let s := if s.wave.fifo.any fun e => e.touches pa then s.drainFifo s.iss.cur else s
    s.flushToHome s.wave.id.gcore pa

def LaneChk.head (c : LaneChk) : Nat := c.pas.headD 0

/-! ## Locks -/

def State.lockTrap (s : State) (d a : Opd) : Option Trap :=
  s.wordTrapOf (!d.sz || !a.sg) [a] a false true (s.xlatRange (s.sval a).toNat 8 .atomic)

def State.lockPa (s : State) (a : Opd) : Nat := (s.xlatRange (s.sval a).toNat 8 .atomic).head

def State.lockWait (s : State) (sw : Bool) (d : Opd) (va : Word64) (pa : Nat) : Wait :=
  { kind := .lock, key := va, pa := pa, expect := 0#64, dst := s.dest d, registered := false, met := false, clk := 0, sw := sw }

def execLock (sw : Bool) (d a : Opd) (s : State) : Out :=
  s.guarded (s.lockTrap d a) fun s =>
    let va := s.sval a
    let pa := s.lockPa a
    let w := s.lockWait sw d va pa
    let s := s.bringHome va.toNat pa
    if s.wave.repro then .next (s.requestWait w)
    else
      let (got, s) := s.lockTake s.iss.cur pa
      if got then .next ((s.setWave s.wave.clearIdem).waitDone sw .lock w.dst 0) else .next (s.beginWait w id)

def execTrylk (sw : Bool) (d a : Opd) (s : State) : Out :=
  s.guarded (s.lockTrap d a) fun s =>
    let va := s.sval a
    let pa := s.lockPa a
    let dst := s.dest d
    let s := (s.setWave s.wave.clearIdem).bringHome va.toNat pa
    if s.wave.repro then .next (((s.hold s.iss.cur (.trylk pa s.wave.qclk.toNat dst (pagesOf 8 [va.toNat]))).retire sw).endQuantum)
    else
      let (got, s) := s.lockTake s.iss.cur pa
      let s := if got then s.acquire s.iss.cur 4 else s
      .next ((s.addPend s.iss.cur (Pend.plain (dst.scalVal ⟨if got then 0#64 else 3#64, false⟩) 1#64)).retire sw)

/-- The word of a lock as its wave sees it (R124). -/
def State.lockView (s : State) (pa : Nat) : Nat :=
  let ov := s.overlay
  numOfBytes ((List.range 8).map fun i => (ov.find (viewKey false (pa + i))).getD (s.homeRead (pa + i)))

def execUnlock (sw : Bool) (d a : Opd) (s : State) : Out :=
  s.guarded (s.lockTrap d a) fun s =>
    let va := s.sval a
    let pa := s.lockPa a
    let dst := s.dest d
    let s := ((s.setWave s.wave.clearIdem).bringHome va.toNat pa).homeTouch pa
    let mine := s.lockView pa == lockValue s.wave.id.handle
    let s :=
      if s.wave.repro then (if mine then s.hold s.iss.cur (.unlock pa (pagesOf 8 [va.toNat])) else s)
      else if mine then ((s.release s.iss.cur 4).lockRelease s.iss.cur pa).2
      else s
    .next ((s.writeScal s.iss.cur dst (if mine then 0#64 else 3#64)).retire sw)

/-! ## Value waits -/

def execWreg (sw : Bool) (a b : Opd) (s : State) : Out :=
  let c := s.xlatRange (s.sval a).toNat 8 .loadMem
  let y := s.readScal (s.ref b)
  s.guarded (s.wordTrapOf (!a.sg || !b.sgz) [a, b] a (!y.p && y.bits >>> 48 != 0#64) false c) fun s =>
    let va := s.sval a
    let s := s.lookupTouch s.wg.ext s.wave.id.cluster s.asid va.toNat
    .next ((s.setWave { s.wave with wreg := some ⟨va, c.head, s.sval b⟩ }).retire sw)

def State.valueWait (s : State) (sw : Bool) (d : Opd) (x : WaitDecl) (e : Word64) : Wait :=
  { kind := .waitv, key := x.va, pa := x.pa, expect := e, dst := s.dest d, registered := false, met := false, clk := 0, sw := sw }

/-- The declared word, translated anew (R289); a wave without a declaration has none. -/
def State.declChk (s : State) : LaneChk :=
  match s.wave.wreg with
  | some x => s.xlatRange x.va.toNat 8 .loadMem
  | none => .null

/-- The traps of WAITV (R453, R455). -/
def State.waitvTrap (s : State) (d a : Opd) : Option Trap :=
  let bad := !d.sgz || !a.sg || s.wave.wreg.isNone || s.wave.wreg.any fun x => s.remoteWord x.va.toNat
  firstTrap [s.mchkTrap (!bad) s.declChk, s.formTrap { xw := .no } bad, s.chkTrap s.declChk, s.poisonScal [a]]

def execWaitv (sw : Bool) (d a : Opd) (s : State) : Out :=
  s.guarded (s.waitvTrap d a) fun s =>
    match s.wave.wreg with
    | none => .next s
    | some x =>
      let w := s.valueWait sw d { x with pa := s.declChk.head } (s.sval a)
      let s := s.lookupTouch s.wg.ext s.wave.id.cluster s.asid x.va.toNat
      if s.wave.repro then .next (s.requestWait w)
      else
        let s := s.homeTouch w.pa
        if s.home64 w.pa ≠ w.expect.toNat then .next (s.waitDone sw .waitv w.dst 0)
        else .next (s.beginWait w id)

def execWdone (sw : Bool) (s : State) : Out :=
  s.guarded (s.formTrap { xw := .no } false) fun s => .next ((s.setWave { s.wave with wreg := none }).retire sw)

/-- What a wave does under a shedding, a pre-emption or a save (R114). -/
def Wave.under (w : Wave) : WaveSt := if w.st == .shed || w.st == .preempting || w.st == .saved then w.held else w.st

/-- The word of R242. A request of a reproducible wave is no wait before the commit that leaves it open (R125). -/
def State.waitWord (s : State) : Nat :=
  let unreg := (s.waves.filter fun e => e.2.id.asid.toNat == s.asid && e.2.under == .waitUnreg && e.2.wait.any (!·.met)).length
  min unreg 0xFFFF + (s.belay.waits.filter fun e => e.2.asid == s.asid).length * 2 ^ 16 +
    (s.belay.objs.filter fun e => e.2.asid == s.asid).length * 2 ^ 32 + min s.ctx.ovf 0xFFFF * 2 ^ 48

def execWqry (sw : Bool) (d : Opd) (s : State) : Out :=
  s.guarded (s.formTrap { xw := .no } (!d.sgz)) fun s =>
    .next ((s.addPend s.iss.cur (Pend.plain ((s.dest d).scalVal ⟨BitVec.ofNat 64 s.waitWord, false⟩) 1#64)).retire sw)

/-- No physical address: where a waiting LOCK or WAITV stands whose word is mapped nowhere now. It makes no access, and waits until a
translation comes back (log entry 85). -/
def nowhere : Nat := 2 ^ 52

/-- Where a wave's lock or declared word lies now (R289): none when the mapping is gone, or is not one of local memory. -/
def State.waitWordAt (s : State) (k : Nat) (x : Wait) : Option Nat :=
  let i := (s.waveAt k).id
  match s.xlat (s.wgAt i.wgKey).ext i.cluster i.asid.toNat x.key.toNat (if x.kind == .lock then .atomic else .loadMem) with
  | .ok pa _ => if isRemote pa then none else some pa
  | _ => none

/-- The wait acts at this address from now on. -/
def State.moveWait (s : State) (k pa : Nat) : State :=
  s.modWaveAt k fun w => { w with wait := w.wait.map fun x => { x with pa := pa } }

/-- The word of a request that a commit looks at: one that was mapped nowhere is translated anew (R289). -/
def State.requestWord (s : State) (k : Nat) (w : Wait) : Option Nat := if w.pa = nowhere then s.waitWordAt k w else some w.pa

end Sys2Proof.Machine
end

