-- ==== Sys2Proof/Machine/Pwr.lean ====
section
/-!
DEFINITION. Major 23: PCLS (R311, R415) and EBUD (R311, R371).
-/

namespace Sys2Proof.Machine

/-- An operation whose second source has bits that must be zero; a poisoned one raises POISON instead. -/
def State.highTrap (s : State) (o : Opd) (n : Nat) : Option Trap :=
  let x := s.readScal (s.ref o)
  if !x.p && x.bits >>> n != 0#64 then some (s.wordTrap .illop) else none

def execPcls (sw : Bool) (a : Opd) (s : State) : Out :=
  s.guarded (firstTrap [s.formTrap { xw := .no } (!a.isS), s.highTrap a 3, s.poisonScal [a]]) fun s =>
    let c : BitVec 3 := (s.sval a).setWidth 3
    let w := s.wave
    let s := if w.repro then s.hold s.iss.cur (.shedClass c)
      else { s with endOfCycle := s.endOfCycle ++ [.cls w.id.topSlot w.id.wgKey c] }
    .next (s.retire sw)

/-- EBUD on a context's balance and reserve, both in µJ. -/
def Ctx.ebud (c : Ctx) (x : Nat) (op : Nat) : Word64 × Ctx :=
  match op with
  | 0 => if (x : Int) ≤ c.bal - c.rsv then (0#64, { c with rsv := c.rsv + x }) else (1#64, c)
  | 1 => if (x : Int) ≤ c.rsv then (0#64, { c with rsv := c.rsv - x }) else (1#64, c)
  | 2 => (BitVec.ofInt 64 c.bal, c)
  | _ => (BitVec.ofInt 64 c.rsv, c)

/-- R311 asks for s registers and, unlike R258 and R284, names ZERO for none of them: ZERO raises ILLOP (DEDUCED, log entry 43). -/
def execEbud (sw : Bool) (d a b : Opd) (s : State) : Out :=
  s.guarded (firstTrap [s.formTrap { xw := .no } (!d.isS || !a.isS || !b.isS), s.highTrap b 2, s.poisonScal [a, b]]) fun s =>
    let r := s.ctx.ebud (s.sval a).toNat (s.sval b).toNat
    let s := s.setCtxAt s.asid r.2
    .next ((s.addPend s.iss.cur (Pend.plain ((s.dest d).scalVal ⟨r.1, false⟩) 1#64)).retire sw)

end Sys2Proof.Machine
end

