-- ==== Sys2Proof/Machine/Wld.lean ====
section
/-!
DEFINITION. Major 24: WLD, CBSET and WSCHK (R93 to R100, R361, R457).
-/

namespace Sys2Proof.Machine

/-! ## Codebooks -/

/-- Bytes of a codebook entry (R97), and elements per lane (R98). -/
def cbEntryBytes (ef : Nat) : Nat := match ef with | 0 => 4 | 1 | 2 => 2 | _ => 1
def cbEpl (ef : Nat) : Nat := 4 / cbEntryBytes ef

/-- CBSET's configuration register. -/
def cbSlot (x : Word64) : Nat := (x.extractLsb' 0 2).toNat
def cbIw (x : Word64) : Nat := (x.extractLsb' 2 4).toNat
def cbEf (x : Word64) : Nat := (x.extractLsb' 6 3).toNat
def cbBad (x : Word64) : Bool := x >>> 9 != 0#64 || cbIw x == 0 || decide (8 < cbIw x) || decide (4 < cbEf x)

/-- The one check of several: they pass together, else the failure of highest priority counts, the first of its cause (R250). -/
def mergeChks (cs : List LaneChk) : LaneChk :=
  match cs.filterMap fun c => match c with | .bad c a => some (c, a) | _ => none with
  | [] => .ok (cs.flatMap (·.pas)) (cs.any fun c => match c with | .ok _ u => u | _ => false)
  | f :: fs => let b := fs.foldl (fun (b : Cause × Nat) e => if e.1.priority < b.1.priority then e else b) f; .bad b.1 b.2

/-- The check of a whole table: alignment, then bounds, then each entry's translation or the ownership of cluster scratch. The bounds
are those of one access of the whole table: of one that is partly out, every entry is null under BND 1, and FADDR is the table's start
under BND 0 (DESIGN CHOICE, log entry 81). -/
def State.cbCheck (s : State) (r : BufRec) (a n es : Nat) : LaneChk :=
  if a % es ≠ 0 then .bad .align a
  else if !s.inBounds r a (n * es) then (if recNull r then .null else .bad .bounds a)
  else if recScratch r then s.checkLane r a (n * es) es .load
  else mergeChks ((List.range n).map fun i => s.xlatRange (a + es * i) es .load)

/-- The entries of a table: bytes of one entry each, or the address of an uncorrectable error. -/
def State.cbEntries (s : State) (cs u : Bool) (pas : List Nat) (n es : Nat) : List (Except Nat Nat) :=
  let ov := s.overlay
  (List.range n).map fun i => if pas.isEmpty then .ok 0 else s.loadNum ov cs u ((pas.drop (es * i)).take es)

/-- Set a wave's codebook slot. -/
def Wave.setCb (w : Wave) (c : Nat) (b : Codebook) : Wave := { w with cb := w.cb.set! c b }

/-- The entries of a slot, from one value for each. -/
def cbTable (vs : List LaneVal) : FMap LaneVal :=
  ((List.range vs.length).zip vs).foldl (fun m e => m.set LaneVal.zero e.1 e.2) []

/-- Damaged entries, as faults of lane 0 that take one origin entry. -/
def cbFaults (es : List (Except Nat Nat)) : List (Nat × BitVec 8 × Nat) :=
  es.filterMap fun e => match e with | .error a => some (0, 0x05#8, a) | .ok _ => none

/-- Fill in the tokens of the damaged entries, in order. -/
def cbFill : List (Except Nat Nat) → List (Nat × Word32) → List LaneVal
  | [], _ => []
  | .ok x :: t, toks => ⟨BitVec.ofNat 32 x, false⟩ :: cbFill t toks
  | .error _ :: t, tk :: toks => ⟨tk.2, true⟩ :: cbFill t toks
  | .error _ :: t, [] => LaneVal.zero :: cbFill t []

/-- A codebook whose every entry holds a token (R97). -/
def cbPoison (tok : Word32) (iw ef : Nat) : Codebook :=
  { valid := true, ready := false, iw := iw, ef := ef, entries := cbTable (List.replicate (2 ^ iw) ⟨tok, true⟩), remote := [], pages := [] }

/-- The entries of a table of `es` bytes each that are read from remote memory, with their addresses and that of the instruction (R245, R323). -/
def cbRemote (es : Nat) (pas : List Nat) (pc : Word64) : List (Nat × Nat × Word64) :=
  (List.range (pas.length / es)).filterMap fun i => ((pas.drop (es * i)).take es).find? isRemote |>.map fun a => (i, a, pc)

/-- CBSET's table read. -/
def State.cbLoad (s : State) (cfg : Word64) (nc : Bool) (r : BufRec) (a : Nat) (c : LaneChk) : State :=
  let n := 2 ^ cbIw cfg
  let es := cbEntryBytes (cbEf cfg)
  let cs := recScratch r
  let u := nc || match c with | .ok _ u => u | _ => false
  let s := if c.pas.isEmpty then s else s.touchTlbs r ((List.range n).map fun i => a + es * i)
  let s := s.settleAtomics cs c.pas
  let vs := s.cbEntries cs (match c with | .ok _ u => u | _ => false) c.pas n es
  let (toks, s) := s.makeTokens s.iss.cur s.pc (cbFaults vs)
  let s := s.loadsTouch cs false u c.pas
  s.setWave (s.wave.setCb (cbSlot cfg)
    { valid := true, ready := false, iw := cbIw cfg, ef := cbEf cfg, entries := cbTable (cbFill vs toks),
      remote := if cs then [] else cbRemote es c.pas s.pc,
      pages := if cs || !(c.pas.any isRemote) then [] else pagesOf es ((List.range n).map fun i => a + es * i) })

def execCbset (sw : Bool) (c o : Opd) (r : BitVec 4) (n : BitVec 3) (s : State) : Out :=
  let rec_ := s.brec r
  let x := s.readScal (s.ref c)
  let y := s.readScal (s.ref o)
  let a := recAddr rec_ y.bits.toNat
  let k := if x.p || y.p then .null else s.cbCheck rec_ a (2 ^ cbIw x.bits) (cbEntryBytes (cbEf x.bits))
  s.guarded (firstTrap [s.formTrap { xw := .no } (!c.isS || !o.sz || (n != 0#3 && n != 6#3) || recBad rec_),
      if !x.p && cbBad x.bits then some (s.wordTrap .illop) else none,
      match k with
      | .bad c a => s.pickTrap false [(0, c, a)]
      | _ => none]) fun s =>
    let s :=
      if x.p then s.setWave (s.wave.setCb (cbSlot x.bits) (cbPoison (x.bits.setWidth 32) 8 0))
      else if y.p then s.setWave (s.wave.setCb (cbSlot x.bits) (cbPoison (y.bits.setWidth 32) (cbIw x.bits) (cbEf x.bits)))
      else s.cbLoad x.bits (n == 6#3) rec_ a k
    .next (s.retire sw)

/-! ## The weight store -/

/-- A weight-store byte of a die. -/
def State.wsByte (s : State) (die a : Nat) : Byte := s.caches.weights.get 0#8 (2 ^ 30 * die + a)
def State.wsUe (s : State) (die a : Nat) : Bool := s.caches.wsUe.contains (2 ^ 30 * die + a)

/-- `n` bits at a bit address, the first the least significant. -/
def State.wsBits (s : State) (die a n : Nat) : Nat :=
  (numOfBytes ((List.range 3).map fun i => s.wsByte die (a / 8 + i))) / 2 ^ (a % 8) % 2 ^ n

/-- What one element of a WLD comes to (R98). -/
inductive WldElem where
  | val (x : Nat)
  | tok (t : Word32)
  | fresh (code : BitVec 8) (addr : Nat)
deriving DecidableEq, Repr

def State.wldElem (s : State) (b : Codebook) (a : Nat) : WldElem :=
  let die := s.wave.id.die.toNat
  if 2 ^ 33 < a + b.iw then .fresh 0x02#8 (a / 8)
  else if (List.range ((a + b.iw - 1) / 8 - a / 8 + 1)).any (fun i => s.wsUe die (a / 8 + i)) then .fresh 0x05#8 (a / 8)
  else
    let e := b.entries.get LaneVal.zero (s.wsBits die a b.iw)
    if e.p then .tok e.bits else .val e.bits.toNat

/-- One lane: the first token, else the elements side by side. -/
def wldCombine (w : Nat) (es : List WldElem) : LRes :=
  match es.find? (fun e => match e with | .val _ => false | _ => true) with
  | some (.tok t) => .tok t
  | some (.fresh c a) => .fresh c a 0#6
  | _ => .val (BitVec.ofNat 64 ((es.map fun e => match e with | .val x => x | _ => 0).foldr (fun x acc => x % 2 ^ w + 2 ^ w * acc) 0)) 0#6

def State.wldLane (s : State) (b : Codebook) (a : Opd) (l : Nat) : LRes :=
  let x := s.readScal (s.ref a)
  match firstTok [x.tok, s.guardTok l] with
  | some t => .tok t
  | none =>
    let epl := cbEpl b.ef
    wldCombine (32 / epl) ((List.range epl).map fun e => s.wldElem b (x.bits.toNat + (l * epl + e) * b.iw))

def State.codebook (s : State) (c : Nat) : Codebook := s.wave.cb[c]?.getD Codebook.empty

def wldForm (d a : Opd) : Form := { a := some { o := a }, dst := some { o := d } }

/-- The banks that hold the bits a WLD through slot 0 reads (R100): a bank is 2^29 bits (R91). -/
def wldBanks (a bits : Nat) : List Nat := (List.range 16).filter fun b => decide (2 ^ 29 * b < a + bits) && decide (a < 2 ^ 29 * (b + 1))

/-- Is a bank that the WLD reads in refresh (R93, R99)? -/
def State.wldRefresh (s : State) (b : Codebook) (a : Opd) : Bool :=
  let x := s.readScal (s.ref a)
  !x.p && (lanesOf s.active).any fun l =>
    (wldBanks (x.bits.toNat + l * cbEpl b.ef * b.iw) (cbEpl b.ef * b.iw)).any fun n =>
      inRefresh (s.dieCyc s.wave.id.die.toNat) n

/-- R98. A slot that is not ready, or a bank in refresh, holds the WLD back. -/
def execWld (sw : Bool) (d a : Opd) (c : BitVec 4) (ord : BitVec 3) (s : State) : Out :=
  let b := s.codebook c.toNat
  s.guarded (s.formTrap (wldForm d a)
      (!d.isVec || !a.sz || decide (3 < c.toNat) || ord != 0#3 || !s.wg.kern.ws || !b.valid)) fun s =>
    if !b.ready || s.wldRefresh b a then .next s.stall
    else .next ((s.putResults true (s.dest d) ((lanesOf s.active).map fun l => (l, s.wldLane b a l))).retire sw)

/-- Is a bank free of refresh from cycle `c` for 64 N master cycles (R93, R100)? -/
def bankFree (cyc n bank : Nat) : Bool :=
  let c := cyc % 8192
  let d := (512 * bank + 8192 - c) % 8192
  !inRefresh cyc bank && decide (64 * n ≤ d)

def execWschk (sw : Bool) (p : BitVec 3) (a : Opd) (n : BitVec 4) (ord : BitVec 3) (s : State) : Out :=
  let b := s.codebook 0
  s.guarded (s.formTrap { xw := .no } (p == 0#3 || !a.sz || ord != 0#3 || !s.wg.kern.ws || !b.valid)) fun s =>
    let x := s.readScal (s.ref a)
    let ok := (wldBanks x.bits.toNat (s.wave.lanes * cbEpl b.ef * b.iw)).all (bankFree (s.dieCyc s.wave.id.die.toNat) n.toNat)
    .next ((s.putPred false p.toNat ((lanesOf s.mask).map fun l => (l, if x.p then none else some ok))).retire sw)

end Sys2Proof.Machine
end

