-- ==== Sys2Proof/Machine/Misc.lean ====
section
/-!
DEFINITION. Major 25: RND (R430), CHKP (R248, R362), ISPOI (R248, R389), MKPOI (R248, R402), TIMEW (R448).
-/

namespace Sys2Proof.Machine

/-- R430's mixing function. -/
def rndMix (k c : Word64) : Word64 :=
  let z := k + c * 0x9E3779B97F4A7C15#64
  let z := (z ^^^ (z >>> 30)) * 0xBF58476D1CE4E5B9#64
  let z := (z ^^^ (z >>> 27)) * 0x94D049BB133111EB#64
  z ^^^ (z >>> 31)

/-- The random value of a lane; wid is that of the lane's hardware wave. -/
def State.rndLane (s : State) (vector : Bool) (a : Opd) (l : Nat) : LRes :=
  let x := s.srcA vector a l
  match firstTok [x.tok, s.guardTok l] with
  | some t => .tok t
  | none =>
    let k := x.bits + BitVec.ofNat 64 (2 ^ 32 * (s.wave.id.wid + l / 32))
    let z := rndMix k (64#64 * s.wave.qclk + BitVec.ofNat 64 l)
    .val (if vector then (z.setWidth 32).setWidth 64 else z) 0#6

def miscForm (d a : Opd) : Form := { a := some { o := a }, dst := some { o := d } }

/-- A scalar RND computes once, with lane position 0, also of a pair. -/
def execRnd (sw : Bool) (d a : Opd) (s : State) : Out :=
  let f := miscForm d a
  s.guarded (s.formTrap f false) fun s =>
    .next ((s.putResults false (s.dest d) ((if f.isVec then lanesOf s.active else [0]).map fun l => (l, s.rndLane f.isVec a l))).retire sw)

def execChkp (sw : Bool) (a : Opd) (s : State) : Out :=
  let f : Form := { a := some { o := a } }
  s.guarded (firstTrap [s.formTrap f false,
      s.lanePoison f.isVec fun l => firstTok [(s.srcA f.isVec a l).tok, s.guardTok l]]) fun s => .next (s.retire sw)

def execIspoi (sw : Bool) (p : BitVec 3) (a : Opd) (s : State) : Out :=
  let f : Form := { a := some { o := a } }
  s.guarded (s.formTrap f false) fun s =>
    .next ((s.putPred false p.toNat ((lanesOf s.active).map fun l => (l, some (s.srcA f.isVec a l).p))).retire sw)

/-- A's bits become a token; a poisoned guard only makes its lane active. -/
def execMkpoi (sw : Bool) (d a : Opd) (s : State) : Out :=
  s.compute sw false (miscForm d a) false d fun s l => .tok ((s.srcA (miscForm d a).isVec a l).bits.setWidth 32)

/-- TIMEW in reproducible mode ends the quantum and waits after its commit (R122). -/
def execTimew (sw : Bool) (d a : Opd) (s : State) : Out :=
  s.guarded (s.sysTrap (!d.sz || !a.sg) [a]) fun s =>
    let t := s.sval a
    let w := s.wave
    if !w.repro && decide (t.toNat ≤ s.time) then
      .next ((s.writeScal s.iss.cur (s.dest d) (BitVec.ofNat 64 s.time)).retire sw)
    else
      let w := { w with timew := some (t, s.dest d, sw) }
      let w := if w.repro then { w with ended := true, qclk := nextQuantum s.ctx.qlog w.qclk } else w
      .next { (s.setWave w) with iss := { s.iss with out := .waits } }

end Sys2Proof.Machine
end

