-- ==== Sys2Proof/Machine/EvWave.lean ====
section
/-!
DEFINITION. Events of waves: results and stores that complete (R164, R184, R186), matrix commands (R72), codebooks (R97),
refresh (R93), waits that end (R114, R222, R228, R229, R238, R448), priority inheritance (R234), the deadlock scan (R237), the
shedding exemption (R235), wave start (R141). An event whose conditions do not hold changes nothing.
-/

namespace Sys2Proof.Machine

/-- A wave parked at an S marker with nothing outstanding is Ready again; one that is Shed will be (R114, R147). -/
def State.unpark (s : State) (k : Nat) : State :=
  let w := s.waveAt k
  if w.outstanding then s
  else if w.st == .parkedS || (w.st == .preempting && w.held == .parkedS) then s.toReady k
  else if w.st == .shed && w.held == .parkedS then s.modWaveAt k fun v => { v with held := .ready }
  else s

/-- R164: some lanes of an outstanding result are written. -/
def execWaveResultWriteback (k index : Nat) (lanes : Lanes) (s : State) : Out :=
  match (s.waveAt k).pend[index]? with
  | none => .next s
  | some p =>
    let m := lanes &&& p.remaining
    let s := if m = 0#64 then s else s.deliverAll k m p.writes
    let left := p.remaining &&& ~~~m
    let rest (l : List Pend) : List Pend := if left = 0#64 then l.eraseIdx index else l.set index { p with remaining := left }
    .next ((s.modWaveAt k fun w => { w with pend := rest w.pend }).unpark k)

/-- R184: the oldest entry of a store FIFO leaves it. What a reproducible wave holds waits for its commit (R123). -/
def execStoreFifoDrain (k : Nat) (s : State) : Out :=
  let w := s.waveAt k
  match leavesNext s.tick w.fifo with
  | none => .next s
  | some (e, t) =>
    if w.repro && w.st != .exited then .next s
    else .next (((s.modWaveAt k fun w => { w with fifo := t }).performMem k e).reap w.id.wgKey)

/-- R186. -/
def execWcbLineWrite (core line : Nat) (s : State) : Out := .next (s.wcbWriteLine core line)

/-- R198: a slice's access reaches the home of a line: its dirty bytes are written back, or the line is read. -/
def execHomeAccess (cluster line : Nat) (s : State) : Out :=
  if s.caches.l2.any fun e => keyUnit e.1 == cluster && keyAddr e.1 / 128 == line && e.2.dirty then
    .next (s.l2WriteBack cluster fun a => a / 128 == line)
  else .next (s.fillL2 cluster line)

/-- R72. -/
def execMmaCommandStart (wg : Nat) (cid : BitVec 6) (s : State) : Out :=
  match (s.wgAt wg).mma.find? fun c => c.cid == cid with
  | none => .next s
  | some c =>
    if s.mmaReady wg c then
      .next (s.modWgAt wg fun g => { g with mma := g.mma.map fun d => if d.cid = cid then { d with started := true } else d })
    else .next s

/-- R72. -/
def execMmaCommandRetire (wg : Nat) (cid : BitVec 6) (s : State) : Out :=
  match (s.wgAt wg).mma.find? fun c => c.cid == cid with
  | none => .next s
  | some c => if c.started && s.mmaReady wg c then .next ((s.mmaRetire wg c).reap wg) else .next s

/-- R97. -/
def execCodebookSlotReady (k : Nat) (slot : BitVec 2) (s : State) : Out :=
  match (s.waves.find k).bind fun w => w.cb[slot.toNat]? with
  | some b => if b.valid && !b.ready then .next (s.modWaveAt k fun w => w.setCb slot.toNat { b with ready := true, remote := [], pages := [] }) else .next s
  | none => .next s

/-- R93: a bank is refreshed, in its window and once in each frame. The frame of the latest refresh is noted. -/
def execWeightStoreRefresh (die bank : Nat) (s : State) : Out :=
  if 16 ≤ die ∨ 16 ≤ bank then .next s
  else if inRefresh (s.dieCyc die) bank then
    .next { s with eng := { s.eng with refresh := s.eng.refresh.put (16 * die + bank) (s.dieCyc die / 8192 + 1) } }
  else .next s

/-- R448: device time has reached the target; the status is the time at which the wave resumes. -/
def execTimewExpire (k : Nat) (s : State) : Out :=
  let w := s.waveAt k
  match w.timew with
  | none => .next s
  | some (t, d, sw) =>
    if w.ended || w.st != .ready || decide (s.time < t.toNat) then .next s
    else
      let s := s.writeScal k d (BitVec.ofNat 64 s.time)
      .next (s.modWaveAt k fun w =>
        let w := { w with timew := none, pcs := match w.pcs.slot w.pcs.lastIssued with
          | some p => w.pcs.setSlot w.pcs.lastIssued (some { p with pc := p.pc + 4#64 })
          | none => w.pcs }
        if w.repro then (if sw && w.outstanding then w.become .parkedS else w)
        else w.tally sw (s.ctxAt w.id.asid.toNat).qlog s.dueClasses)

/-- R114, R222: a wait whose condition has held ends; that of a reproducible wave ends at a commit (R125). -/
def execWaitConditionMet (k : Nat) (s : State) : Out :=
  let w := s.waveAt k
  match w.wait with
  | none => .next s
  | some x =>
    if x.met && !w.repro && (w.st == .waitReg || w.st == .waitUnreg) then .next (s.endWait k (if x.registered then 1 else 2) true)
    else .next s

/-- R228: an unregistered LOCK waiter retries the word at its home, translated anew. -/
def execLockRetry (k : Nat) (s : State) : Out :=
  match (s.waveAt k).openWait .lock with
  | none => .next s
  | some x =>
    if x.registered then .next s
    else match s.waitWordAt k x with
      | none => .next s
      | some pa =>
        let (got, s) := (s.moveWait k pa).lockTake k pa
        .next (if got then s.setMet k else s)

/-- R229: the home tests a declared word again. -/
def execWaitvRetest (k : Nat) (s : State) : Out :=
  match (s.waveAt k).openWait .waitv with
  | none => .next s
  | some x => match s.waitWordAt k x with
    | none => .next s
    | some pa =>
      let s := (s.moveWait k pa).homeTouch pa
      if s.home64 pa ≠ x.expect.toNat then .next (s.setMet k) else .next s

/-- Is a cluster barrier's every arrival in, and no workgroup of the cluster launch saved (R224, R238)? -/
def State.cbarComplete (s : State) (peers : List Nat) (b : Nat) : Bool :=
  peers.any (fun k => (s.wgAt k).cbars[b]! != 0#32) && peers.all (fun k => (s.liveMask k &&& ~~~(s.wgAt k).cbars[b]!) == 0#32) &&
    !peers.any fun k => (s.wgAt k).st == .saved

/-- R238: a completion held for a restore reaches every participant. The restore itself brings it about, in the same cycle. -/
def execClusterBarrierHeldRelease (launch barrier : Nat) (s : State) : Out :=
  let firsts := s.wgs.filter fun e => launchKeyOf e.2.asid.toNat e.2.ltag.toNat == launch && e.2.clustered && e.2.cwg == 0#2
  .next (firsts.foldl (fun s e =>
    if s.cbarComplete (clusterPeers e.2.asid.toNat e.2.ltag.toNat e.2.index.toNat) barrier then s.completeCbars e.1 else s) s)

/-- R234: every wave's PRIO.EFF follows its SHED.BASE and the waits on it. -/
def execPriorityInheritanceUpdate (s : State) : Out :=
  .next { s with waves := s.waves.map fun e =>
    (e.1, { e.2 with env := { e.2.env with eff := BitVec.ofNat 3 (s.inheritedEff s.waves.length e.1) } }) }

/-! ## The deadlock scan -/

/-- The next level of a breadth-first walk along holder edges: each path, latest wave first, goes on to the holders that were not seen
before; `k` among them closes a cycle. -/
def State.scanStep (s : State) (k : Nat) (front : List (List (Nat × ObjRef))) (seen : List Nat) :
    Option (List (Nat × ObjRef)) × List (List (Nat × ObjRef)) × List Nat :=
  front.foldl (fun r p => match p with
    | [] => r
    | e :: _ => (s.holders e.2).foldl (fun (r : Option (List (Nat × ObjRef)) × List (List (Nat × ObjRef)) × List Nat) h =>
        if r.1.isSome then r
        else if h = k then (some p.reverse, r.2)
        else if r.2.2.contains h then r
        else match s.waitsOn h with
          | some y => (none, r.2.1 ++ [(h, y) :: p], h :: r.2.2)
          | none => (none, r.2.1, h :: r.2.2)) r) (none, [], seen)

/-- Walk level by level, at most so many hops. -/
def State.scanWalk (s : State) (k : Nat) : Nat → List (List (Nat × ObjRef)) → List Nat → Option (List (Nat × ObjRef))
  | 0, _, _ => none
  | hops + 1, front, seen =>
    if front.isEmpty then none
    else match s.scanStep k front seen with
      | (some p, _) => some p
      | (none, front, seen) => s.scanWalk k hops front seen

/-- A shortest cycle that a wave's registered wait closes, of at most 256 hops, starting with the wave (R237). -/
def State.cycleOf (s : State) (k : Nat) : Option (List (Nat × ObjRef)) :=
  (s.waitsOn k).bind fun o => s.scanWalk k 256 [[(k, o)]] []

def State.stampOf (s : State) (k : Nat) : Nat := ((s.belay.waits.find? fun e => e.2.waiter == k).map (·.2.stamp)).getD 0

/-- The wave of a cycle whose entry has the largest STAMP. -/
def State.latest (s : State) (p : List (Nat × ObjRef)) : Nat :=
  (p.foldl (fun b e => if s.stampOf b < s.stampOf e.1 then e.1 else b) ((p.head?.map (·.1)).getD 0))

/-- DEADLOCK is raised on a waiting wave: its entry goes, a barrier arrival is withdrawn, the record is written, the trap is
taken, once the wave holds a slot again where it has none (R233, R237, R240). A wave that is Shed takes it at once and leaves Shed, though
its class is still cut: R114 names no such transition and R237 no exception (DESIGN CHOICE, log entry 64). -/
def State.deadlockWave (s : State) (k : Nat) (path : List (Nat × ObjRef)) (orph : Bool) : State :=
  let w := s.waveAt k
  let s := match w.wait with
    | some x => s.withdraw k x
    | none => s
  let s := s.dropEntry k
  let (va, s) := s.reportDeadlock w.id.asid.toNat path true orph
  let second := w.pcs.lastIssued
  let t := Trap.plain .deadlock (BitVec.ofNat 64 va) (((w.pcs.slot second).map (·.mask)).getD 0#64)
  let s := s.modWaveAt k fun w => { w with wait := none }
  if w.st == .waitReg || w.st == .shed then (s.modWaveAt k fun w => { w with st := .ready, held := .ready }).takeTrapAt k second t
  else s.modWaveAt k fun w => { w with held := .ready, trapPend := some t }

/-- One wave for each cycle. -/
def State.scanCycles (s : State) : State :=
  s.waves.keys.foldl (fun s k => match s.cycleOf k with
    | none => s
    | some p =>
      let v := s.latest p
      s.deadlockWave v (p.dropWhile (fun e => e.1 != v) ++ p.takeWhile fun e => e.1 != v) false) s

/-- The earliest-registered waiter of every orphaned object (R233). -/
def State.scanOrphans (s : State) : State :=
  s.belay.objs.foldl (fun s o =>
    if !o.2.orph then s
    else
      let ws := s.belay.waits.filter fun e => e.2.obj == o.1
      match ws.foldl (fun (b : Option WaitEnt) e => match b with
          | none => some e.2
          | some x => if e.2.stamp < x.stamp then some e.2 else some x) none with
      | none => s
      | some e => s.deadlockWave e.waiter [(e.waiter, ⟨o.2.kind, o.2.asid, o.2.key, o.2.pa⟩)] true) s

/-- R237: the scan of each multiple of 50 µs. -/
def execDeadlockScan (s : State) : Out :=
  if s.now / 50000 = s.belay.scanned then .next s
  else
    let s := s.scanCycles.scanOrphans
    .next { s with belay := { s.belay with scanned := s.now / 50000 } }

/-! ## Shedding and starting -/

/-- The class is restored, or exempt: each wave of the workgroup goes back to the state it held before Shed (R114, R235). -/
def State.unshedWg (s : State) (wg : Nat) : State :=
  let s := { s with waves := s.waves.map fun (e : Nat × Wave) =>
    if (e.2.id.wgKey == wg && e.2.st == WaveSt.shed) = true then (e.1, { e.2 with st := e.2.held }) else e }
  s.markWg wg

/-- R235: a waiter of greater class has registered on a wave of a Shed or Shedding workgroup. -/
def execShedExemptionReturn (k : Nat) (s : State) : Out :=
  match s.waves.find k with
  | none => .next s
  | some w =>
    if decide (w.env.shedClass.toNat < s.pw.cut) && !s.isCut k &&
        (s.wavesOfWg w.id.wgKey).any (fun e => e.2.st == .shed) then .next (s.unshedWg w.id.wgKey)
    else .next s

/-- The registers a wave starts with (R141). -/
def startRegs (packet : List Byte) : Regs :=
  let r := Regs.start
  let v (n : Nat) : ScalVal := ⟨BitVec.ofNat 64 n, false⟩
  { r with s := ((r.s.set! 0 (v (pktArgs packet))).set! 1 (v (pktNwg packet))).set! 2 (v (pktKidx packet)) }

/-- R114, R141, R214: a resident wave's initial state is loaded; it starts with an acquire at `.dev`. -/
def execWaveStart (k : Nat) (s : State) : Out :=
  match s.waves.find k with
  | none => .next s
  | some w =>
    if w.st != .resident then .next s
    else
      let s := s.setWaveAt k { w with regs := startRegs (s.launchAt w.id.launchKey).packet }
      .next ((s.acquireCaches w.id 4).toReady k)

end Sys2Proof.Machine
end

