-- ==== Sys2Proof/Machine/Place.lean ====
section
/-!
DEFINITION. Resources and placement: binding (R21 to R24), what a core holds (R17), extent tables (R272, R274), divergence
stacks (R109), the weight-store gate (R92), fitting and allocating (R127, R142, R143).
-/

namespace Sys2Proof.Machine

/-! ## Classes -/

/-- The healthy dies of a class (R13, R21). -/
def State.healthyDies (s : State) (cls : Nat) : List Nat :=
  ((List.range 4).map fun q => 4 * q + cls).filter fun d => s.sys.chlth.getLsbD d

def State.classHealthy (s : State) (cls : Nat) : Bool := !(s.healthyDies cls).isEmpty

/-- Waves that occupy slots of a core; a pair counts twice. -/
def State.coreWaves (s : State) (gc : Nat) : List Wave :=
  (s.waves.filter fun e => e.2.resides && e.2.id.gcore == gc).map (·.2)

def WaveId.slotList (i : WaveId) : List Nat := i.slot.toNat :: if i.paired then [i.slotHi.toNat] else []
def WaveId.schedList (i : WaveId) : List Nat := i.sched.toNat :: if i.paired then [i.sched.toNat + 1] else []

def State.usedSlots (s : State) (gc : Nat) : List Nat := (s.coreWaves gc).flatMap fun w => w.id.slotList
def State.schedLoad (s : State) (gc n : Nat) : Nat := ((s.coreWaves gc).flatMap fun w => w.id.schedList).count n

def State.freeSlotsOf (s : State) (cls : Nat) : Nat :=
  ((s.healthyDies cls).map fun d => 6144 - ((List.range 128).map fun c => (s.usedSlots (128 * d + c)).length).sum).sum

/-- The greatest by a measure, the first of equals. -/
def argMax (f : Nat → Nat) : List Nat → Option Nat
  | [] => none
  | x :: t => some (t.foldl (fun b y => if f b < f y then y else b) x)

/-- Binding (R21, R137): the native class with the most free slots, else the first healthy fallback. -/
def State.bindClass (s : State) (con : Nat) : Option Nat :=
  match argMax s.freeSlotsOf ((nativeClasses con).filter s.classHealthy) with
  | some c => some c
  | none => (fallbackClasses con).find? s.classHealthy

/-- The class on which a launch's next workgroups are placed (R24). -/
def State.placeClass (s : State) (k : Kernel) : Option Nat :=
  (k.cls.toNat :: nativeClasses k.con.toNat ++ fallbackClasses k.con.toNat).find? s.classHealthy

/-! ## What a workgroup needs -/

def Kernel.paired (k : Kernel) : Bool := k.width == 4#3
/-- Instruction streams of a workgroup: a pair is one. -/
def Kernel.streams (k : Kernel) : Nat := if k.paired then k.nwave / 2 else k.nwave
def Kernel.stackBytes (k : Kernel) : Nat := 64 * k.divdepth

/-- The workgroups that hold resources of a core. -/
def State.coreWgs (s : State) (gc : Nat) : List Wg :=
  (s.wgs.filter fun e => 128 * e.2.die + e.2.core == gc && e.2.st != .saved && e.2.st != .killed && e.2.st != .completed).map (·.2)

def State.usedSegs (s : State) (gc : Nat) : List Nat := (s.coreWgs gc).flatMap fun g => g.segs.flatten
def State.usedPages (s : State) (gc : Nat) : List Nat := (s.coreWgs gc).flatMap (·.pages)
def State.usedTiles (s : State) (gc : Nat) : List Nat := (s.coreWgs gc).flatMap (·.tilesPhys)

/-- The `n` lowest numbers below `limit` that are not used. -/
def lowestFree (used : List Nat) (limit n : Nat) : List Nat := ((List.range limit).filter fun i => !used.contains i).take n

/-- Schedulers for `n` waves in order, from the loads of the four: each wave goes to the one with the fewest, a pair to the two with the
fewest, the lowest of equals (R143); none when more than 12 would stand on one (R142). A pair's answer is its even scheduler. -/
def assignScheds (paired : Bool) : Nat → List Nat → Option (List Nat)
  | 0, _ => some []
  | n + 1, load =>
    let at_ (i : Nat) : Nat := load.getD i 0
    let weight (c : Nat) : Nat := if paired then at_ c + at_ (c + 1) else at_ c
    let room (c : Nat) : Bool := decide (at_ c < 12) && (!paired || decide (at_ (c + 1) < 12))
    match (if paired then [0, 2] else [0, 1, 2, 3]).filter room with
    | [] => none
    | c :: cs =>
      let best := cs.foldl (fun b c => if weight c < weight b then c else b) c
      let up (l : List Nat) (i : Nat) : List Nat := l.set i (l.getD i 0 + 1)
      (assignScheds paired n (if paired then up (up load best) (best + 1) else up load best)).map (best :: ·)

/-- Does a kernel's workgroup fit on a core, its stacks apart (R142)? -/
def State.fitsCore (s : State) (k : Kernel) (gc : Nat) : Bool :=
  decide ((s.usedSlots gc).length + k.nwave ≤ 48) && decide ((s.usedSegs gc).length + k.nwave * k.seg ≤ 128) &&
  decide ((s.usedPages gc).length + k.pages ≤ 128) && decide ((s.usedTiles gc).length + k.acct ≤ 32) &&
  (assignScheds k.paired k.streams ((List.range 4).map (s.schedLoad gc))).isSome

/-- The lowest free run of `size` bytes in an area, given the taken runs; every run is a multiple of 64 bytes. -/
def freeRun (base len size : Nat) (taken : List (Nat × Nat)) : Option Nat :=
  ((List.range (len / 64 + 1)).map fun i => base + 64 * i).find? fun a =>
    decide (a + size ≤ base + len) && taken.all fun t => decide (a + size ≤ t.1) || decide (t.1 + t.2 ≤ a)

/-- The stacks of `n` waves, in wave order, in the lowest free runs (R109). -/
def takeStacks (base len size : Nat) : Nat → List (Nat × Nat) → Option (List Nat)
  | 0, _ => some []
  | n + 1, taken =>
    if size = 0 then (takeStacks base len size n taken).map (base :: ·)
    else match freeRun base len size taken with
      | none => none
      | some a => (takeStacks base len size n (taken ++ [(a, size)])).map (a :: ·)

def Ctx.stackRuns (c : Ctx) : List (Nat × Nat) := c.dstacks.map (·.2)

/-! ## Extents -/

/-- A piece being collected, and whether it came from a paged range. -/
abbrev ExtPiece := Piece × Bool

/-- Enter a piece: a page that continues the one before it, virtually and physically, is merged with it (R272). -/
def addPiece (l : List ExtPiece) (p : Piece) (paged : Bool) : List ExtPiece :=
  let joins (q : ExtPiece) : Bool := paged && q.2 && q.1.decl == p.decl && q.1.vlim == p.vbase &&
    q.1.pbase + (q.1.vlim - q.1.vbase) == p.pbase && q.1.r == p.r && q.1.w == p.w && q.1.mt == p.mt
  match l.getLast? with
  | some q => if joins q then l.dropLast ++ [({ q.1 with vlim := p.vlim }, true)] else if l.length < 64 then l ++ [(p, paged)] else l
  | none => [(p, paged)]

/-- The pieces of a span from `va` to `stop`, in ascending address; `fuel` bounds the pages (R272, R274). Once 64 entries are used,
only pages that the last of them takes in still count. -/
def State.spanPieces (s : State) (asid decl acc stop : Nat) : Nat → Nat → List ExtPiece → List ExtPiece
  | 0, _, l => l
  | fuel + 1, va, l =>
    if stop ≤ va ∨ (64 ≤ l.length ∧ l.getLast?.map (·.1.vlim) ≠ some va) then l
    else
      let r := acc == 1 || acc == 3
      let w := acc == 2 || acc == 3
      match s.findRange va 6 (s.ctxAt asid).root none with
      | .error _ => s.spanPieces asid decl acc stop fuel ((va / 4096 + 1) * 4096) l
      | .ok e =>
        if e.kind = 0 then
          let hi := min e.vlim stop
          s.spanPieces asid decl acc stop fuel hi (addPiece l ⟨asid, va, hi, e.pbase + (va - e.vbase), r && e.attr.testBit 1,
            w && e.attr.testBit 2, false, BitVec.ofNat 2 e.mt, decl⟩ false)
        else
          let hi := e.vbase + ((va - e.vbase) / e.page + 1) * e.page
          match s.walk asid va with
          | .hit p => s.spanPieces asid decl acc stop fuel hi
              (addPiece l { p with vbase := va, vlim := min hi stop, pbase := p.addr va, r := r && p.r, w := w && p.w, x := false,
                                   decl := decl } true)
          | _ => s.spanPieces asid decl acc stop fuel hi l

/-- The extent table of a workgroup from its declared records (R174, R272). -/
def State.extentTable (s : State) (asid args : Nat) (k : Kernel) : List Piece :=
  ((List.range 16).foldl (fun (l : List ExtPiece) n =>
    if !k.opmask.getLsbD n then l
    else match s.hubRead asid (args + 32 * n) 32 with
      | none => l
      | some bs =>
        let r : BufRec := BitVec.ofNat 256 (numOfBytes bs)
        if recBad r || recScratch r || recExtent r == 0 then l
        else
          let stop := min (recBase r + recExtent r) (2 ^ 57)
          s.spanPieces asid n (k.opacc.toNat / 4 ^ n % 4) stop (recExtent r / 4096 + 2) (recBase r) l) []).map (·.1)

/-! ## The weight-store gate (R92) -/

/-- Is a copy writing, or admitted to write, this die? -/
def State.copyOn (s : State) (die : Nat) : Bool := s.eng.copies.any fun e => !e.2.finished && e.2.admitted.contains die

/-- Does a workgroup of a kernel with the weight-store bit occupy the die? -/
def State.wsOn (s : State) (die : Nat) : Bool :=
  s.wgs.any fun e => e.2.kern.ws && e.2.die == die && e.2.st != .saved && e.2.st != .killed && e.2.st != .completed

/-- Does the gate of a die admit a workgroup now? -/
def State.gateAdmits (s : State) (die key : Nat) : Bool :=
  !s.copyOn die && match s.eng.gates.get [] die with
    | [] => true
    | r :: _ => r == .wg key

/-- A request joins a gate's order, once. -/
def State.gateJoin (s : State) (die : Nat) (r : GateReq) : State :=
  if (s.eng.gates.get [] die).contains r then s
  else { s with eng := { s.eng with gates := s.eng.gates.modify [] die (· ++ [r]) } }

/-- Withdraw a request from every gate. -/
def State.gateLeave (s : State) (r : GateReq) : State :=
  { s with eng := { s.eng with gates := s.eng.gates.map fun (e : Nat × List GateReq) => (e.1, e.2.filter (· != r)) } }

/-! ## Allocating (R143) -/

/-- Suspended locks of the context on the core are established again (R193). -/
def State.resumeLocks (s : State) (asid gc : Nat) : State :=
  let mine (l : ILock) : Bool := l.core == gc && l.asid == asid && !l.active
  if !s.caches.locks.any mine then s
  else
    let s := (s.caches.locks.filter mine).foldl (fun s l => l.lines.foldl (fun s n => s.refetchIc gc asid n) s) s
    let ls := s.caches.locks.map fun (l : ILock) => { l with active := l.active || mine l }
    let s := { s with caches := { s.caches with locks := ls } }
    s.modCtxAt asid fun c => { c with ilr := true }

/-- What a placement hands out on a core. -/
structure Grant where
  slots : List Nat
  scheds : List Nat
  segs : List (List Nat)
  pages : List Nat
  tiles : List Nat
deriving DecidableEq, Repr

/-- Split a list into runs of `n`. -/
def chunks (n : Nat) : Nat → List Nat → List (List Nat)
  | 0, _ => []
  | m + 1, l => l.take n :: chunks n m (l.drop n)

/-- The resources a workgroup takes on a core that fits it. -/
def State.grant (s : State) (k : Kernel) (gc : Nat) : Grant :=
  { slots := lowestFree (s.usedSlots gc) 48 k.nwave,
    scheds := (assignScheds k.paired k.streams ((List.range 4).map (s.schedLoad gc))).getD [],
    segs := chunks k.seg k.nwave (lowestFree (s.usedSegs gc) 128 (k.nwave * k.seg)),
    pages := lowestFree (s.usedPages gc) 128 k.pages,
    tiles := lowestFree (s.usedTiles gc) 32 k.acct }

/-- The identity of stream `i` of a workgroup (R102, R105). -/
def waveIdOf (g : Wg) (gr : Grant) (gc i : Nat) : WaveId :=
  let p := g.kern.paired
  let h := if p then 2 * i else i
  { asid := g.asid, ltag := g.ltag, wg := g.index, index := BitVec.ofNat 5 h, nwave := BitVec.ofNat 6 g.kern.nwave, paired := p,
    sched := BitVec.ofNat 2 (gr.scheds.getD i 0), slot := BitVec.ofNat 6 (gr.slots.getD h 0),
    slotHi := if p then BitVec.ofNat 6 (gr.slots.getD (h + 1) 0) else 0#6, core := BitVec.ofNat 7 (gc % 128),
    die := BitVec.ofNat 5 (gc / 128), repro := g.repro, cwg := g.cwg, clustered := g.clustered }

/-- A wave at its start (R38, R106, R121, R144); its registers are loaded when it leaves Resident. -/
def freshWave (id : WaveId) (k : Kernel) (prio : BitVec 3) (ftv : BitVec 8) (stack : Nat) : Wave :=
  { Wave.blank with
    id := id, st := .resident, held := .ready,
    pcs := ⟨some ⟨k.text, if id.paired then BitVec.allOnes 64 else 0xFFFFFFFF#64, 0, false⟩, none, true, 1, 0, stack, false⟩,
    env := { Wave.blank.env with ftv := ftv, shedClass := k.shed, shedBase := prio, eff := prio } }

/-- Allocate a fresh workgroup on a core that fits it, with its waves Resident, and with the range table of its launch (R272). -/
def State.allocate (s : State) (g : Wg) (prio : BitVec 3) (ext : List Piece) (gc : Nat) (barset : Option Nat) : State :=
  let asid := g.asid.toNat
  let key := wgKeyOf asid g.ltag.toNat g.index.toNat
  let k := g.kern
  let gr := s.grant k gc
  let c := s.ctxAt asid
  let stacks_ := (takeStacks c.dstkBase c.dstkSize k.stackBytes k.streams c.stackRuns).getD []
  let g := { g with st := .placed, bindDie := gc / 128, die := gc / 128, core := gc % 128, segs := gr.segs, pages := gr.pages, tilesPhys := gr.tiles,
                    barset := barset, ext := ext }
  let s := s.setWgAt key g
  let s := (List.range k.streams).foldl (fun s i =>
    let id := waveIdOf g gr gc i
    s.setWaveAt (waveKeyOf asid g.ltag.toNat id.wid) (freshWave id k prio c.ftvDefault (stacks_.getD i 0))) s
  let s := s.modCtxAt asid fun c =>
    { c with dstacks := c.dstacks ++ (if k.stackBytes = 0 then [] else stacks_.map fun a => (key, a, k.stackBytes)) }
  (s.gateLeave (.wg key)).resumeLocks asid gc

/-! ## Searching (R142) -/

/-- Sort cluster or core numbers by occupied slots, then number. -/
def sortByLoad (load : Nat → Nat) (l : List Nat) : List Nat := l.mergeSort fun a b => decide (load a < load b ∨ (load a = load b ∧ a ≤ b))

def State.clusterLoad (s : State) (cl : Nat) : Nat := ((List.range 4).map fun i => (s.usedSlots (4 * cl + i)).length).sum

/-- The clusters of some dies in the order of R142: global cluster numbers ascend by die, then cluster. -/
def State.clusterOrder (s : State) (dies : List Nat) : List Nat :=
  sortByLoad s.clusterLoad (dies.flatMap fun d => (List.range 32).map fun c => 32 * d + c)

def State.coreOrder (s : State) (cl : Nat) : List Nat :=
  sortByLoad (fun c => (s.usedSlots c).length) ((List.range 4).map fun i => 4 * cl + i)

/-- The free barrier set of a cluster with the lowest number (R224). -/
def State.freeBarset (s : State) (cl : Nat) : Option Nat :=
  (List.range 4).find? fun n => !(s.wgs.any fun e => e.2.barset == some n && (128 * e.2.die + e.2.core) / 4 == cl)

/-- Do the stacks of `n` workgroups fit now? -/
def State.stacksFit (s : State) (asid : Nat) (k : Kernel) (n : Nat) : Bool :=
  let c := s.ctxAt asid
  (takeStacks c.dstkBase c.dstkSize k.stackBytes (n * k.streams) c.stackRuns).isSome

/-- A core of some dies that fits one workgroup and, for a weight-store kernel, whose die's gate admits it; and the dies whose gates it
now waits at (R92). -/
def State.findCore (s : State) (k : Kernel) (dies : List Nat) (key : Nat) : Option Nat × List Nat :=
  (s.clusterOrder dies).foldl (fun (r : Option Nat × List Nat) cl =>
    if r.1.isSome then r
    else match (s.coreOrder cl).find? (s.fitsCore k) with
      | none => r
      | some gc => if !k.ws || s.gateAdmits (gc / 128) key then (some gc, r.2) else (none, r.2 ++ [gc / 128])) (none, [])

/-- A cluster that fits a cluster launch's four workgroups, likewise. -/
def State.findCluster (s : State) (k : Kernel) (dies : List Nat) (key : Nat) : Option Nat × List Nat :=
  (s.clusterOrder dies).foldl (fun (r : Option Nat × List Nat) cl =>
    if r.1.isSome then r
    else if ((List.range 4).all fun i => s.fitsCore k (4 * cl + i)) && (s.freeBarset cl).isSome then
      if !k.ws || s.gateAdmits (cl / 32) key then (some cl, r.2) else (none, r.2 ++ [cl / 32])
    else r) (none, [])

/-- A fresh workgroup of a launch. -/
def freshWg (asid ltag : Nat) (l : Launch) (i : Nat) : Wg :=
  { Wg.blank with
    asid := BitVec.ofNat 10 asid, ltag := BitVec.ofNat 16 ltag, index := BitVec.ofNat 32 i,
    cwg := if pktCl l.packet then BitVec.ofNat 2 (i % 4) else 0#2, clustered := pktCl l.packet, repro := l.repro, kern := l.kern }

/-- What an attempt to place comes to: whether all of it succeeded, the requests that arrived at gates on the way (die and workgroup), and
the state with what could be placed. -/
structure Placing where
  ok : Bool
  asked : List (Nat × Nat)
  state : State

/-- Place the launch's next workgroup, or its next four: none when it does not fit now; requests join the gates. -/
def State.placeNext (s : State) (lk : Nat) : Placing :=
  let l := s.launchAt lk
  let asid := lk / 2 ^ 16
  let ltag := lk % 2 ^ 16
  let i := l.nextWg
  let key := wgKeyOf asid ltag i
  let n := if pktCl l.packet then 4 else 1
  match s.placeClass l.kern with
  | none => ⟨false, [], s⟩
  | some cls =>
    if !s.stacksFit asid l.kern n then ⟨false, [], s⟩
    else
      let dies := s.healthyDies cls
      let r := if n = 4 then s.findCluster l.kern dies key else s.findCore l.kern dies key
      let asked := r.2.map fun d => (d, key)
      let s := r.2.foldl (fun s d => s.gateJoin d (.wg key)) s
      match r.1 with
      | none => ⟨false, asked, s⟩
      | some u =>
        let s := if n = 4 then
            let b := s.freeBarset u
            (List.range 4).foldl (fun s j => s.allocate (freshWg asid ltag l (i + j)) l.prio l.ext (4 * u + j) b) s
          else s.allocate (freshWg asid ltag l i) l.prio l.ext u none
        ⟨true, asked, s.modLaunchAt lk fun l => { l with nextWg := i + n }⟩

/-- Try to place every workgroup of a reproducible launch (R127); `fuel` bounds their number. -/
def State.placeAll (s : State) (lk : Nat) : Nat → Placing
  | 0 => ⟨true, [], s⟩
  | fuel + 1 =>
    if pktNwg (s.launchAt lk).packet ≤ (s.launchAt lk).nextWg then ⟨true, [], s⟩
    else
      let r := s.placeNext lk
      if r.ok then
        let t := r.state.placeAll lk fuel
        ⟨t.ok, r.asked ++ t.asked, t.state⟩
      else r

/-- An attempt to place a launch's next workgroup, or all of a reproducible launch's (R127). -/
def State.tryPlace (s : State) (lk : Nat) : Placing :=
  let l := s.launchAt lk
  if l.repro then s.placeAll lk (pktNwg l.packet) else s.placeNext lk

end Sys2Proof.Machine
end

