-- ==== Sys2Proof/Machine/EvHub.lean ====
section
/-!
DEFINITION. The hub's events: launch ports (R130, R132), kernel tables (R138), dispatch (R135 to R137), placement (R142), the
completion of launches (R140).
-/

namespace Sys2Proof.Machine

/-! ## Launch ports -/

/-- The binding a hart's access uses: until a fence, the old one or the one gctx asks for (R313). -/
def State.bindingOf (s : State) (h : Nat) : Word64 :=
  if Config.newBinding s.tick then s.harts.gctx.get 0#64 h else s.harts.bound.get 0#64 h

/-- May hart `h` reach the context's port (R314)? -/
def State.portOpen (s : State) (asid h : Nat) : Bool :=
  let g := s.bindingOf h
  (s.ctxAt asid).live && g.getLsbD 15 && g.toNat % 2 ^ 10 == asid

/-- A store of 1, 2, 4 or 8 bytes inside the 8 KiB port. The spec does not say what a misaligned one does: it is discarded (DESIGN CHOICE,
log entry 83). -/
def portStore (offset n : Nat) : Bool := [1, 2, 4, 8].contains n && offset % n == 0 && decide (offset + n ≤ 8192)

def stageBytes (m : FMap Byte) (offset : Nat) (data : List Byte) : FMap Byte :=
  ((List.range data.length).zip data).foldl (fun m e => m.set 0#8 (offset + e.1) e.2) m

/-- R130: a hart's store to bytes 0x00 to 0x37 of its own window stages those bytes. -/
def execLaunchPortStage (asid offset : Nat) (data : List Byte) (s : State) : Out :=
  if s.portOpen asid (offset / 64) && portStore offset data.length && decide (offset % 64 < 0x38) then
    .next (s.modCtxAt asid fun c => { c with port := stageBytes c.port offset data })
  else .next s

/-- PSTAT (R130). -/
def pstatOf (res off seq : Nat) : Word64 := BitVec.ofNat 64 (res + off % 64 * 2 ^ 8 + seq * 2 ^ 16)

/-- What an enqueue does with its 64 bytes (R130, R132, R133): a launch packet or a kernel-table block is taken, rejected with
the offending offset, or meets a full queue. -/
def State.portSubmit (s : State) (asid : Nat) (b : List Byte) : (Nat × Nat) × State :=
  if fieldOf b 0 1 = 4 then
    match tableCheck b with
    | some off => ((3, off), s)
    | none => ((1, 0), s.tableEffect asid b)
  else match s.packetCheck b asid with
    | some off => ((3, off), s)
    | none => if s.queueFull (pktQueue b) then ((2, 0), s) else ((1, 0), s.enqueue asid b)

/-- R130: a store to bytes 0x38 to 0x3F enqueues the window's 64 bytes. -/
def execLaunchPortEnqueue (asid offset : Nat) (data : List Byte) (s : State) : Out :=
  let h := offset / 64
  if s.portOpen asid h && portStore offset data.length && decide (0x38 ≤ offset % 64) then
    let m := stageBytes (s.ctxAt asid).port offset data
    let b := (List.range 64).map fun i => m.get 0#8 (64 * h + i)
    let (r, s) := s.portSubmit asid b
    .next (s.modCtxAt asid fun c =>
      { c with
        port := m.filter fun e => e.1 / 64 != h,
        pstat := c.pstat.set 0#64 h (pstatOf r.1 r.2 ((c.pstat.get 0#64 h).toNat / 2 ^ 16 + if r.1 = 1 then 1 else 0)) })
  else .next s

/-! ## Kernel tables -/

/-- A checked kernel-table block (R138). -/
def tableBlock (op kidx desc : Nat) : List Byte :=
  leBytes 4 0x00200104 ++ leBytes 4 op ++ leBytes 4 kidx ++ leBytes 4 0 ++ leBytes 8 desc ++ leBytes 8 0

/-- A kernel-table block of a live context takes effect, if R138 accepts it. -/
def State.tableCommand (s : State) (asid : Nat) (b : List Byte) : Out :=
  if (s.ctxAt asid).live && (tableCheck b).isNone then .next (s.tableEffect asid b) else .next s

def execKernelTableReplace (asid kidx desc : Nat) (s : State) : Out := s.tableCommand asid (tableBlock 0 kidx desc)
def execKernelTableClear (asid kidx : Nat) (s : State) : Out := s.tableCommand asid (tableBlock 1 kidx 0)

/-! ## Dispatch -/

def State.headOf (s : State) (q : Nat) : Option (Nat × List Byte) := (s.hub.queues.get [] q).head?

/-- Does the context's energy cover an estimate (R135, R310): from the reserve, or from the free balance? -/
def Ctx.covers (c : Ctx) (eest : Nat) : Bool :=
  eest == 0 || decide ((eest : Int) ≤ c.rsv) || decide ((eest : Int) ≤ c.bal - c.rsv)

/-- R135: is the head of a queue dispatchable? -/
def State.dispatchable (s : State) (q : Nat) : Bool :=
  match s.headOf q with
  | none => false
  | some (asid, b) =>
    ((List.range (pktNdep b)).all fun n => decide (pktDep b n / 2 ^ 10 ≤ (s.semCount true 0 (pktDep b n % 2 ^ 10)).toNat)) &&
      (!pktNbv b || decide (pktNbtime b ≤ s.time)) && (s.ctxAt asid).covers (pktEest b)

/-- R136: the queue to dispatch from: highest priority, then rotation by number. -/
def State.chosenQueue (s : State) : Option Nat :=
  let qs := s.hub.queues.keys.filter s.dispatchable
  let top := qs.foldl (fun m q => max m (s.queuePrio q).toNat) 0
  let qs := qs.filter fun q => (s.queuePrio q).toNat == top
  match s.hub.lastQueue.find top with
  | none => qs.head?
  | some p => (qs.find? fun q => decide (p < q)).orElse fun _ => qs.head?

/-- Set EEST aside (R310). -/
def Ctx.setAside (c : Ctx) (eest : Nat) : Bool × Ctx :=
  if (eest : Int) ≤ c.rsv then (true, { c with rsv := c.rsv - eest, bal := c.bal - eest })
  else (false, { c with bal := c.bal - eest })

/-- The kernel descriptor's fields (R173). -/
def kernelOf (b : List Byte) : Kernel :=
  let f := BitVec.ofNat 32 (fieldOf b 4 4)
  { text := BitVec.ofNat 64 (fieldOf b 8 8), data := BitVec.ofNat 64 (fieldOf b 16 8), scratch := fieldOf b 0x18 4,
    phintmax := fieldOf b 0x1C 2, divdepth := fieldOf b 0x1E 2, opmask := BitVec.ofNat 16 (fieldOf b 0x20 2),
    opacc := BitVec.ofNat 32 (fieldOf b 0x24 4), con := f.extractLsb' 0 3, width := f.extractLsb' 3 3, ws := f.getLsbD 6,
    idm := f.getLsbD 7, shed := f.extractLsb' 8 3, nwave := (f.extractLsb' 11 6).toNat, seg := (f.extractLsb' 17 4).toNat,
    acct := (f.extractLsb' 21 6).toNat, cls := 0#2, nat := false }

/-- R174: every field but CON is within its range and its rule. -/
def kernelOk (b : List Byte) : Bool :=
  let k := kernelOf b
  fieldOf b 0 4 == 0x0100014B && fieldOf b 4 4 / 2 ^ 27 == 0 && k.text.toNat % 64 == 0 && decide (k.scratch ≤ 524288) &&
  decide (1 ≤ k.phintmax ∧ k.phintmax ≤ 4096) && decide (k.divdepth ≤ 4096) && fieldOf b 0x22 2 == 0 &&
  (List.range 16).all (fun n => (k.opmask.getLsbD n) == (k.opacc.toNat / 4 ^ n % 4 != 0)) &&
  (b.drop 0x28).all (· == 0#8) && decide (k.width.toNat ≤ 4) && decide (1 ≤ k.nwave ∧ k.nwave ≤ 32) &&
  (!k.paired || k.nwave % 2 == 0) && decide (1 ≤ k.seg ∧ k.seg ≤ 8) && decide (k.acct ≤ 32)

/-- How many workgroups an empty core holds. -/
def Kernel.perCore (k : Kernel) : Nat :=
  min (min (48 / k.nwave) (128 / (k.nwave * k.seg)))
    (min (if k.pages = 0 then 48 else 128 / k.pages) (if k.acct = 0 then 48 else 32 / k.acct))

/-- R137 step 6, R127: the launch can never be placed. -/
def State.tooLarge (s : State) (c : Ctx) (k : Kernel) (cls : Nat) (packet : List Byte) : Bool :=
  let stacks_ := k.streams * k.stackBytes
  let cl := pktCl packet
  let dies := (s.healthyDies cls).length
  let room := if cl then 128 * dies * min k.perCore 4 else 128 * dies * k.perCore
  k.perCore == 0 || decide (c.dstkSize < (if cl then 4 else 1) * stacks_) ||
    (c.repro && (decide (room < pktNwg packet) || decide (c.dstkSize < pktNwg packet * stacks_)))

/-- What a dispatch comes to (R137): a status, or the kernel and its class. -/
def State.dispatchCheck (s : State) (asid : Nat) (packet : List Byte) : Except Nat Kernel :=
  let c := s.ctxAt asid
  match c.kit.find (pktKidx packet) with
  | none => .error 5
  | some desc =>
    match s.hubRead asid desc 256 with
    | none => .error 5
    | some b =>
      let k := kernelOf b
      if 6 ≤ k.con.toNat then .error 2
      else if !kernelOk b then .error 5
      else if c.repro && !(decide (8 ≤ c.qlog) && decide (c.qlog ≤ 16)) then .error 3
      else match s.bindClass k.con.toNat with
        | none => .error 1
        | some cls =>
          if s.tooLarge c k cls packet then .error 4
          else .ok { k with cls := BitVec.ofNat 2 cls, nat := (nativeClasses k.con.toNat).contains cls }

/-- The declared records of a kernel that dispatch reads, by their addresses (R174). -/
def Kernel.records (k : Kernel) (args : Nat) : List Nat := ((List.range 16).filter fun n => k.opmask.getLsbD n).map fun n => args + 32 * n

/-- What the reads of a dispatch leave at the homes: of the descriptor, and of the declared records once the descriptor is accepted
(R137, R174, R198). -/
def State.dispatchTouch (s : State) (asid : Nat) (packet : List Byte) : State :=
  let s' := s.hubTouch asid (((s.ctxAt asid).kit.find (pktKidx packet)).getD 0) 256
  match s.dispatchCheck asid packet with
  | .ok k => (k.records (pktArgs packet)).foldl (fun s a => s.hubTouch asid a 32) s'
  | .error _ => s'

/-- A launch's completion record (R140). -/
def launchRecord (status cls : Nat) (nat : Bool) (done energy tstart tend : Nat) : List Byte :=
  bytes64 (status + cls * 2 ^ 8 + bit nat 10 + done % 2 ^ 32 * 2 ^ 32) ++ bytes64 energy ++ bytes64 tstart ++ bytes64 tend

/-- Return the rest of a hold (R310). -/
def Ctx.giveBack (c : Ctx) (rest : Nat) (fromRsv : Bool) : Ctx :=
  { c with bal := c.bal + rest, rsv := if fromRsv then c.rsv + rest else c.rsv }

/-- Every write-combining buffer drains and every slice writes back: a release at `.dev` by the whole module. -/
def State.releaseAll (s : State) : State :=
  let s := (s.caches.wcb.map fun e => keyUnit e.1).eraseDups.foldl (fun s gc => s.wcbDrain gc) s
  (s.caches.l2.map fun e => keyUnit e.1).eraseDups.foldl (fun s cl => s.l2WriteBack cl fun _ => true) s

/-- A launch ends: its record, then its semaphore, as one release (R140); of one that is `mute` the increment is discarded (R227). -/
def State.endLaunch (s : State) (asid : Nat) (packet record : List Byte) (mute : Bool) : State :=
  let s := s.releaseAll.writeRecord asid (pktRec packet) record
  if pktSigv packet && !mute then s.semSignal true 0 (pktSigidx packet) asid else s

/-- The next launch tag that no launch of the context holds (R221). -/
def State.freeTag (s : State) (asid : Nat) : Nat :=
  let n := (s.ctxAt asid).nextTag
  (((List.range 65536).map fun i => (n + i) % 65536).find? fun t => (s.launches.find (launchKeyOf asid t)).isNone).getD n

/-- R136, R137: the hub dispatches the head of a queue. -/
def execLaunchDispatch (queue : Nat) (s : State) : Out :=
  let late := match s.hub.lastDispatch with | some t => decide (t + 20 ≤ s.now) | none => true
  if s.chosenQueue != some queue || !late then .next s
  else match s.headOf queue with
    | none => .next s
    | some (asid, packet) =>
      let prio := s.queuePrio queue
      let rest := (s.hub.queues.get [] queue).drop 1
      let s := { s with hub := { s.hub with
        queues := s.hub.queues.put queue rest, lastDispatch := some s.now, dispatched := s.hub.dispatched + 1,
        lastQueue := s.hub.lastQueue.put prio.toNat queue } }
      let a := (s.ctxAt asid).setAside (pktEest packet)
      let s := s.setCtxAt asid a.2
      match s.dispatchCheck asid packet with
      | .error st =>
        let s := s.modCtxAt asid fun c => c.giveBack (pktEest packet) a.1
        .next ((s.dispatchTouch asid packet).endLaunch asid packet (launchRecord st 0 false 0 0 s.time s.time) false)
      | .ok k =>
        let tag := s.freeTag asid
        let l : Launch :=
          { packet := packet, queue := queue, prio := prio, kern := k, repro := (s.ctxAt asid).repro, order := s.hub.dispatched,
            nextWg := 0, done := 0, killed := 0, energy := 0, hold := pktEest packet, eest := pktEest packet, fromRsv := a.1,
            tstart := s.time, quantum := 0, ext := s.extentTable asid (pktArgs packet) k, seen := ([], []), mute := false }
        let s := s.dispatchTouch asid packet
        .next ((s.setLaunchAt (launchKeyOf asid tag) l).modCtxAt asid fun c => { c with nextTag := (tag + 1) % 65536 })

/-! ## Placement -/

/-- Has a launch workgroups that are not placed? -/
def Launch.waiting (l : Launch) : Bool := decide (l.nextWg < pktNwg l.packet)

/-- Have all workgroups of a launch completed? -/
def Launch.over (l : Launch) : Bool := !l.waiting && decide (pktNwg l.packet ≤ l.done)

/-- Is a launch served before another: the greater priority, then the earlier dispatch (R142)? -/
def Launch.before (a b : Launch) : Bool := decide (b.prio.toNat < a.prio.toNat) || (a.prio == b.prio && decide (a.order < b.order))

/-- The waiting launches that are served before one. -/
def State.ahead (s : State) (l : Launch) : List (Nat × Launch) := s.launches.filter fun e => e.2.waiting && e.2.before l

/-- R127: does no saved workgroup of a reproducible launch wait whose restore priority (R234) is at least the launch's priority? -/
def State.restoresDone (s : State) (l : Launch) : Bool :=
  s.wgs.all fun e => !(e.2.st == .saved && e.2.repro) || decide (s.restorePrio e.1 < l.prio.toNat)

/-- R142: is a launch held back, by one before it of the same class? -/
def State.heldBack (s : State) (l : Launch) : Bool := (s.ahead l).any fun e => s.placeClass e.2.kern == s.placeClass l.kern

/-- R142: nothing that is served before this launch can be placed: of its class no launch is before it, and of the other classes none that
is itself not held back and fits now. -/
def State.mayPlace (s : State) (lk : Nat) : Bool :=
  let l := s.launchAt lk
  !s.heldBack l && s.restoresDone l &&
    (s.ahead l).all fun e => s.heldBack e.2 || !s.restoresDone e.2 || !(s.tryPlace e.1).ok

/-- Place a launch's next workgroup, or all of a reproducible launch's; a launch that does not fit leaves only its requests at the gates, as
far as they are new: behind those that stood there, and also of a workgroup for which the attempt found room elsewhere (R92). The counts that
a reproducible launch's SEMRD sees before its first commit are those of its placement. -/
def State.placeLaunch (s : State) (lk : Nat) : State :=
  let r := s.tryPlace lk
  if r.ok then r.state.modLaunchAt lk fun l => if l.repro then { l with seen := (s.hub.sem, s.hub.csem) } else l
  else r.asked.foldl (fun s e => s.gateJoin e.1 (.wg e.2)) s

/-- The launch of a workgroup key. -/
def launchOfWg (wg : Nat) : Nat := launchKeyOf (wg / 2 ^ 64) (wg / 2 ^ 40 % 2 ^ 16)

/-- R142: the next workgroup of a launch is placed. -/
def execWorkgroupPlace (wg : Nat) (s : State) : Out :=
  let lk := launchOfWg wg
  match s.launches.find lk with
  | none => .next s
  | some l =>
    if l.waiting && s.mayPlace lk && wg % 2 ^ 40 == l.nextWg then .next (s.placeLaunch lk) else .next s

/-! ## Completion -/

/-- R140. -/
def execLaunchComplete (launch : Nat) (s : State) : Out :=
  match s.launches.find launch with
  | none => .next s
  | some l =>
    if !l.over then .next s
    else
      let asid := launch / 2 ^ 16
      let s := { s with launches := s.launches.erase launch }
      let s := s.modCtxAt asid fun c => c.giveBack l.hold l.fromRsv
      .next (s.endLaunch asid l.packet (launchRecord (if l.killed = 0 then 0 else 6) l.kern.cls.toNat l.kern.nat l.done
        (l.energy / 1000000) l.tstart s.time) l.mute)

end Sys2Proof.Machine
end

