-- ==== Sys2Proof/Machine/EvCopy.lean ====
section
/-!
DEFINITION. Tensor copies as they run (R86 to R92) and the weight-store gates.
-/

namespace Sys2Proof.Machine

/-! ## Units -/

/-- Units of one pass of a copy: rows times units in a row (R86). -/
def CopyDesc.rows (c : CopyDesc) : Nat := (c.used.map (·.count)).foldl (· * ·) 1
def CopyDesc.unitsPerRow (c : CopyDesc) : Nat := c.count0 / max 1 (fmtElems c.dfmt)
def CopyDesc.units (c : CopyDesc) : Nat := c.rows * c.unitsPerRow

/-- The offset of row `r` on one side: the first dimension runs fastest (R86). -/
def rowOffset : List (Nat × Int) → Nat → Int
  | [], _ => 0
  | (n, st) :: t, r => (r % max 1 n : Nat) * st + rowOffset t (r / max 1 n)

/-- Reading a unit's source: its bytes, a poisoned word, or a fault with its status and address (R89). -/
inductive CopyRead where
  | ok (bs : List Byte) (from_ : List (Nat × Bool))
  | poison (tok : Word32)
  | fault (status : Nat) (va : Int)
deriving DecidableEq, Repr

/-- Translate one byte of a copy: its address, and whether it is uncached (R279); a fault is STATUS 2 (translation), 3 (protection) or 4
(uncorrectable error). -/
def State.copyByte (s : State) (c : Copy) (need : Need) (x : Int) : Except Nat (Nat × Bool) :=
  if x < 0 ∨ 2 ^ 57 ≤ x then .error 2
  else match s.xlat [] c.cluster c.asid x.toNat need with
    | .ok pa mt => .ok (pa, mt != 0#2)
    | .bad .xlate _ => .error 2
    | .bad .mchk _ => .error 4
    | _ => .error 3

/-- Translate a run of bytes, up to the first fault: FAULTVA names the byte that fails. Of a unit of which only a part fails the spec does
not say which address it names (DESIGN CHOICE, log entry 78). -/
def State.copyRun (s : State) (c : Copy) (need : Need) : Nat → Int → Except (Nat × Int) (List (Nat × Bool))
  | 0, _ => .ok []
  | n + 1, x =>
    match s.copyByte c need x with
    | .error st => .error (st, x)
    | .ok p =>
      if !isRemote p.1 ∧ s.unfit need p.1 then .error (4, x)
      else match s.copyRun c need n (x + 1) with
        | .ok l => .ok (p :: l)
        | .error e => .error e

/-- A byte of memory as it stands, seen from a copy engine: cached memory through its cluster's slice. -/
def State.copySees (s : State) (c : Copy) (p : Nat × Bool) : Byte := if p.2 then s.homeRead p.1 else s.sliceByte c.cluster p.1

/-- A byte as a copy engine reads it; of one that this copy has written, the version before or after that, a free choice (R91, R9). -/
def State.copyLoad (s : State) (c : Copy) (p : Nat × Bool) : Byte :=
  if isRemote p.1 then Config.remoteByte s.tick p.1
  else match c.alt.find p.1 with
    | some x => if Config.findsOld s.tick p.1 then x.1 else s.copySees c p
    | none => s.copySees c p

/-- What these reads leave in the slice and at the homes. -/
def State.copyTouch (s : State) (c : Copy) (ps : List (Nat × Bool)) : State :=
  let near := ps.filter fun p => !isRemote p.1
  let s := (linesOf ((near.filter fun p => !p.2).map (·.1))).foldl (fun s l => s.fillL2 c.cluster l) (s.homeTouches ((near.filter (·.2)).map (·.1)))
  if ps.any fun p => isRemote p.1 then { s with tick := s.tick + 1 } else s

/-- A word of the scratchpad as bytes. -/
def spmByte (m : FMap LaneVal) (a : Nat) : Byte := ((m.get LaneVal.zero (a / 4)).bits >>> (8 * (a % 4))).setWidth 8

/-- The place of a scratchpad byte among those a copy has written. -/
def spmAlt (a : Nat) : Nat := 2 ^ 60 + a

/-- A scratchpad byte as a copy reads it, by the same choice (R91). -/
def Copy.spmLoad (c : Copy) (tick : Nat) (m : FMap LaneVal) (a : Nat) : Byte :=
  match c.alt.find (spmAlt a) with
  | some x => if Config.findsOld tick (spmAlt a) then x.1 else spmByte m a
  | none => spmByte m a

/-- The token of the scratchpad word of a byte, if the copy finds it poisoned: of a word that it has written, as before or after that. -/
def Copy.spmTok (c : Copy) (tick : Nat) (m : FMap LaneVal) (a : Nat) : Option Word32 :=
  let w := a / 4
  let now := m.get LaneVal.zero w
  let mine := (List.range 4).filterMap fun i => c.alt.find (spmAlt (4 * w + i))
  let other := !mine.isEmpty && Config.findsOld tick (spmAlt (2 ^ 32 + w))
  if !(if other then mine.any (·.2) else now.p) then none
  else some (if other then word32Of ((List.range 4).map fun i => ((c.alt.find (spmAlt (4 * w + i))).map (·.1)).getD (spmByte m (4 * w + i)))
    else now.bits)

/-- Read `n` source bytes at an address of a copy. -/
def State.copyRead (s : State) (c : Copy) (d : CopyDesc) (x : Int) (n : Nat) : CopyRead :=
  if d.ssp then
    let m := (s.wgAt c.wg).scratch
    let as := (List.range n).map (x.toNat + ·)
    match as.findSome? (c.spmTok s.tick m) with
    | some t => .poison t
    | none => .ok (as.map (c.spmLoad s.tick m)) []
  else match s.copyRun c .load n x with
    | .error e => .fault e.1 e.2
    | .ok ps => .ok (ps.map (s.copyLoad c)) ps

/-- The elements of source storage units, as FP32 with flags (dec of R81). -/
def copyDec (fmt : Nat) (bs : List Byte) : List FRes :=
  let u := max 1 (fmtUnit fmt)
  (List.range (bs.length / u)).flatMap fun i =>
    let b := (bs.drop (u * i)).take u
    if fmtElems fmt = 1 then [decElem fmt (numOfBytes b)] else decBlock fmt (b.map (·.toNat))

/-- One destination unit from the source units that cover it; `first` is its first element's place among them (R81, R86). -/
def copyConvert (d : CopyDesc) (bs : List Byte) (first : Nat) : List Byte × BitVec 6 :=
  if d.sfmt = d.dfmt then (bs, 0#6)
  else
    let n := fmtElems d.dfmt
    if n = 1 ∧ fmtElems d.sfmt = 1 then
      let r := convElem d.sfmt d.dfmt d.sat8 (numOfBytes bs)
      (leBytes (fmtUnit d.dfmt) r.bits, r.flags)
    else
      let xs := ((copyDec d.sfmt bs).drop first).take n
      let fl := orAll (xs.map (·.flags))
      if n = 1 then
        let r := encElem d.dfmt d.sat8 ((xs.map (·.bits)).headD 0)
        (leBytes (fmtUnit d.dfmt) r.bits, fl ||| r.flags)
      else
        let r := encBlock d.dfmt (xs.map (·.bits))
        (r.1.map (BitVec.ofNat 8), fl ||| r.2)

/-- Bytes into the scratchpad, clearing the P bits of the words they touch (R89). -/
def copySpm (m : FMap LaneVal) (bytes : List (Nat × Byte)) : FMap LaneVal :=
  bytes.foldl (fun m e =>
    let w := m.get LaneVal.zero (e.1 / 4)
    spmPut m (e.1 / 4) ⟨word32Of ((leBytes 4 w.bits.toNat).set (e.1 % 4) e.2), false⟩) m

/-- Where the bytes of a unit go: places in the scratchpad, or addresses in memory; a fault writes nothing. -/
def State.copyPlaces (s : State) (c : Copy) (d : CopyDesc) (x : Int) (n : Nat) : Except (Nat × Int) (List (Nat × Bool)) :=
  if d.dsp then .ok ((List.range n).map fun i => (spmAlt (x.toNat + i), ((s.wgAt c.wg).scratch.get LaneVal.zero ((x.toNat + i) / 4)).p))
  else s.copyRun c .store n x

/-- Bytes into local memory: cached ones through the slice, uncached ones at their home. -/
def State.copyPut (s : State) (c : Copy) (ps : List ((Nat × Bool) × Byte)) : State :=
  let cached := (ps.filter fun e => !e.1.2).map fun e => (e.1.1, e.2)
  let direct := (ps.filter fun e => e.1.2).map fun e => (e.1.1, e.2)
  (((s.strays c.asid (ps.map (·.1.1))).l2Drop c.cluster fun a => direct.any fun e => e.1 == a).homeWrite direct).sliceWrite c.cluster cached

/-- Bytes to the places that a copy writes beside remote memory and the weight store. -/
def State.copyLand (s : State) (c : Copy) (ps : List ((Nat × Bool) × Byte)) : State :=
  let spm := ps.filter fun e => decide (2 ^ 60 ≤ e.1.1)
  let s := if spm.isEmpty || (s.wgs.find c.wg).isNone then s
    else s.modWgAt c.wg fun g => { g with scratch := copySpm g.scratch (spm.map fun e => (e.1.1 - 2 ^ 60, e.2)) }
  s.copyPut c (ps.filter fun e => decide (e.1.1 < 2 ^ 60))

/-- The byte that stands at a place. -/
def State.copyStands (s : State) (c : Copy) (p : Nat × Bool) : Byte :=
  if 2 ^ 60 ≤ p.1 then spmByte (s.wgAt c.wg).scratch (p.1 - 2 ^ 60) else s.copySees c p

/-- The copy after it has written these bytes, beside remote ones: it keeps the version that does not stand in its place, of a byte that it
writes for the first time the one before (R91), or in reproducible mode the one for its commit (R124). -/
def State.copyKeeps (s : State) (c : Copy) (x : Int) (ps : List ((Nat × Bool) × Byte)) : Copy :=
  if c.commit.isSome then
    { c with alt := ps.foldl (fun m e => m.put e.1.1 (e.2, e.1.2 && decide (e.1.1 < 2 ^ 60))) c.alt,
             pages := if ps.any (fun e => decide (e.1.1 < 2 ^ 60)) then (c.pages ++ pagesOf ps.length [x.toNat]).eraseDups else c.pages }
  else { c with alt := ps.foldl (fun m e => if (c.alt.find e.1.1).isSome then m else m.put e.1.1 (s.copyStands c e.1, e.1.2)) c.alt }

/-- Write a unit: scratchpad, weight store or memory. What a reproducible launch's copy leaves in local memory and in the scratchpad
appears at the commit at which it completes (R124, R126). -/
def State.copyWrite (s : State) (id : Nat) (c : Copy) (d : CopyDesc) (x : Int) (bs : List Byte) : Except (Nat × Int) (Copy × State) :=
  if d.dws then
    let die := c.die.getD 0
    let at_ := ((List.range bs.length).map (x.toNat + ·)).zip bs
    .ok (c, { s with caches := { s.caches with
      weights := at_.foldl (fun m e => m.set 0#8 (2 ^ 30 * die + e.1) e.2) s.caches.weights,
      wsUe := s.caches.wsUe.filter fun a => !(at_.any fun e => 2 ^ 30 * die + e.1 == a) } })
  else match s.copyPlaces c d x bs.length with
    | .error e => .error e
    | .ok at_ =>
      let away (e : (Nat × Bool) × Byte) : Bool := decide (e.1.1 < 2 ^ 60) && isRemote e.1.1
      let ps := at_.zip bs
      let near := ps.filter fun e => !away e
      let c' := s.copyKeeps c x near
      let s := s.sendRemote none (some (.copy id)) c.asid (pagesOf bs.length [x.toNat]) ((ps.filter away).map fun e => (e.1.1, e.2))
      .ok (c', if c.commit.isSome then s else s.copyLand c near)

def State.setCopy (s : State) (id : Nat) (c : Copy) : State := { s with eng := { s.eng with copies := s.eng.copies.put id c } }

/-- A copy stops on a fault (R89). Its requests at the gates of dies that it has not written stay in their order, and can still be admitted,
until its completion withdraws them: the spec does not say when they go (DESIGN CHOICE, log entry 80). -/
def Copy.stop (c : Copy) (status : Nat) (tok : Word32) (va : Int) : Copy :=
  { c with finished := true, status := BitVec.ofNat 8 status, token := tok, faultVa := BitVec.ofInt 64 va, admitted := [], die := none }

/-- The count after a unit that was written, and the end of a die or of the copy (R92). -/
def Copy.advance (c : Copy) (d : CopyDesc) (fl : BitVec 6) : Copy :=
  let c := { c with unit := c.unit + 1, done := c.done + 1, flags := c.flags ||| fl }
  if c.unit < d.units then c
  else if !d.dws then { c with finished := true }
  else
    let left := c.diesLeft.filter fun x => some x != c.die
    { c with unit := 0, diesLeft := left, admitted := c.admitted.filter (fun x => some x != c.die), die := none, finished := left.isEmpty }

/-- Where a unit's destination lies (R86); in the weight store, its byte offset. -/
def CopyDesc.dstAt (d : CopyDesc) (unit : Nat) : Int :=
  let row := unit / max 1 d.unitsPerRow
  let u := unit % max 1 d.unitsPerRow
  let base : Int := if d.dws then (d.dst % 2 ^ 30 : Nat) else d.dst
  base + rowOffset (d.used.map fun x => (x.count, x.ds)) row + (u * fmtUnit d.dfmt : Nat)

/-- The first element of a unit, as a place among the elements of its row. -/
def CopyDesc.firstElem (d : CopyDesc) (unit : Nat) : Nat := unit % max 1 d.unitsPerRow * fmtElems d.dfmt

/-- Where the source storage units that cover a unit lie, and how many bytes they have (R86). -/
def CopyDesc.srcAt (d : CopyDesc) (unit : Nat) : Int × Nat :=
  let eS := max 1 (fmtElems d.sfmt)
  let first := d.firstElem unit
  ((d.src : Int) + rowOffset (d.used.map fun x => (x.count, x.ss)) (unit / max 1 d.unitsPerRow) + (first / eS * fmtUnit d.sfmt : Nat),
   ((first + fmtElems d.dfmt - 1) / eS - first / eS + 1) * fmtUnit d.sfmt)

/-- Does a unit read bytes that this copy has written? The choice between their versions uses up a free value. -/
def Copy.overlaps (c : Copy) (d : CopyDesc) (src : Int × Nat) (from_ : List (Nat × Bool)) : Bool :=
  if d.ssp then (List.range src.2).any fun i => (c.alt.find (spmAlt (src.1.toNat + i))).isSome
  else from_.any fun p => (c.alt.find p.1).isSome

/-- One unit of a copy that runs (R86). -/
def State.copyUnit (s : State) (id : Nat) (c : Copy) (d : CopyDesc) : State :=
  let src := d.srcAt c.unit
  match s.copyRead c d src.1 src.2 with
  | .poison t => { (s.setCopy id (c.stop 1 t 0)) with tick := s.tick + 1 }
  | .fault st va => s.setCopy id (c.stop st 0#32 va)
  | .ok bs from_ =>
    let r := copyConvert d bs (d.firstElem c.unit % max 1 (fmtElems d.sfmt))
    let s1 := s.copyTouch c from_
    let s1 := if c.overlaps d src from_ then { s1 with tick := s1.tick + 1 } else s1
    match s1.copyWrite id c d (d.dstAt c.unit) r.1 with
    | .error e => s1.setCopy id (c.stop e.1 0#32 e.2)
    | .ok (c', s2) => s2.setCopy id (c'.advance d r.2)

/-- The dies of a weight-store copy, ascending. -/
def CopyDesc.dies (d : CopyDesc) : List Nat := (List.range 16).filter fun i => d.dst.testBit (48 + i)

/-! ## Events -/

/-- R87: the oldest copy of a cluster whose start conditions hold starts. A weight-store copy's requests arrive at the gates of
all its dies together (R92). -/
def execTcopyStart (cluster : Nat) (s : State) : Out :=
  match s.eng.copies.find? fun e => e.2.cluster == cluster && !e.2.started &&
      (!(copyDesc e.2.block).nbv || decide ((copyDesc e.2.block).nbtime ≤ s.time)) with
  | none => .next s
  | some (id, c) =>
    let d := copyDesc c.block
    if d.dws then
      let s := s.setCopy id { c with started := true, arrived := true, diesLeft := d.dies }
      .next (d.dies.foldl (fun s x => s.gateJoin x (.copy id)) s)
    else .next (s.setCopy id { c with started := true })

/-- R86, R89: the copy engine performs one unit. A weight-store copy writes the lowest die that has been admitted, and waits for
a bank in refresh (R92, R93). -/
def execTcopyUnit (id : Nat) (s : State) : Out :=
  match s.eng.copies.find id with
  | none => .next s
  | some c =>
    let d := copyDesc c.block
    if !c.started || c.finished then .next s
    else if d.dws then
      match c.die.orElse (fun _ => (c.admitted.mergeSort).head?) with
      | none => .next s
      | some die =>
        if inRefresh (s.dieCyc die) ((d.dstAt c.unit).toNat / 2 ^ 26) then .next s
        else .next (s.copyUnit id { c with die := some die } d)
    else .next (s.copyUnit id c d)

/-- A copy's completion record (R88). -/
def copyRecord (c : Copy) : List Byte :=
  bytes64 (c.status.toNat + c.flags.toNat * 2 ^ 8 + c.token.toNat * 2 ^ 32) ++ bytes64 c.done ++ bytes64 c.faultVa.toNat ++ bytes64 0

/-- Have the owning devices acknowledged what an engine command has sent them (R185)? -/
def State.engineAcked (s : State) (r : EngRef) : Bool := !(s.eng.outbox.any fun x => x.engine == some r && !x.acked)

/-- Has a copy come to its end: every unit is done, and at SCOPE 5 its remote stores are acknowledged, which its release waits for (R88,
R185, R211)? -/
def State.copyOver (s : State) (id : Nat) (c : Copy) : Bool :=
  c.finished && ((copyDesc c.block).scope != 5 || s.engineAcked (.copy id))

/-- A copy ends: what it holds for a commit lands; then record and semaphore, one release at SCOPE (R88); it no longer holds its workgroup
(R90). -/
def State.completeCopy (s : State) (id : Nat) (c : Copy) : State :=
  let d := copyDesc c.block
  let s := if c.commit.isSome then s.copyLand c (c.alt.map fun e => ((e.1, e.2.2), e.2.1)) else s
  let s := if 3 ≤ d.scope then s.l2WriteBack c.cluster fun _ => true else s
  let s := s.writeRecord c.asid d.rec_ (copyRecord c)
  let s := if d.semv && !c.mute then s.semSignal d.semd c.cluster d.semidx c.asid else s
  let s := { s with eng := { s.eng with copies := s.eng.copies.erase id } }
  (s.gateLeave (.copy id)).reap c.wg

/-- May an engine command's completion take effect by itself: outside reproducible mode, or when no wave of the launch is left
to commit (R126)? -/
def State.freeToEnd (s : State) (lk : Nat) (commit : Option Nat) : Bool :=
  commit.isNone || (s.wavesOfLaunch lk).all fun e => e.2.st == .exited

/-- R88. -/
def execTcopyComplete (id : Nat) (s : State) : Out :=
  match s.eng.copies.find id with
  | none => .next s
  | some c => if s.copyOver id c && s.freeToEnd (launchOfWg c.wg) c.commit then .next (s.completeCopy id c) else .next s

/-- R92: a gate admits the request at the head of its order. -/
def execWeightStoreGateAdmit (die : Nat) (s : State) : Out :=
  match s.eng.gates.get [] die with
  | [] => .next s
  | .copy id :: t =>
    match s.eng.copies.find id with
    | none => .next { s with eng := { s.eng with gates := s.eng.gates.put die t } }
    | some c =>
      if s.wsOn die then .next s
      else .next (({ s with eng := { s.eng with gates := s.eng.gates.put die t } }).setCopy id { c with admitted := c.admitted ++ [die] })
  | .wg key :: _ => if s.copyOn die then .next s else execWorkgroupPlace key s

end Sys2Proof.Machine
end

