-- ==== Sys2Proof/Machine/EvColl.lean ====
section
/-!
DEFINITION. Collectives, as far as this rank goes (R216, R324 to R326). The other ranks are other devices: their elements, and
whether their commands agree, are free values (log entry 21).
-/

namespace Sys2Proof.Machine

def collSemv (b : List Byte) : Bool := (fieldOf b 4 4).testBit 8
def collSem (b : List Byte) : Nat := fieldOf b 4 4 / 2 ^ 9 % 2 ^ 10
def collIn (b : List Byte) : Nat := fieldOf b 8 8
def collOut (b : List Byte) : Nat := fieldOf b 16 8
def collCount (b : List Byte) : Nat := fieldOf b 24 8
def collGroup (b : List Byte) : Nat := fieldOf b 32 8
def collRec (b : List Byte) : Nat := fieldOf b 40 8
def collRoot (b : List Byte) : Nat := fieldOf b 48 4

/-- The group descriptor: the number of ranks, this rank, the ranks' accelerator numbers. -/
structure Group where
  nrank : Nat
  myrank : Nat
  accels : List Nat
deriving DecidableEq, Repr

/-- Read the group descriptor. -/
def State.groupOf (s : State) (asid : Nat) (b : List Byte) : Option Group :=
  (s.hubRead asid (collGroup b) 8).bind fun h =>
    let n := fieldOf h 0 4
    (s.hubRead asid (collGroup b + 8) (2 * n)).map fun l => ⟨n, fieldOf h 4 4, (List.range n).map fun i => fieldOf l (2 * i) 2⟩

/-- NRANK, as far as the descriptor can be read. -/
def State.nrankOf (s : State) (asid : Nat) (b : List Byte) : Nat := ((s.hubRead asid (collGroup b) 8).map fun h => fieldOf h 0 4).getD 1

/-- What the read of the group descriptor leaves at the home (R198). -/
def State.groupTouch (s : State) (asid : Nat) (b : List Byte) : State := s.hubTouch asid (collGroup b) (8 + 2 * s.nrankOf asid b)

/-- Elements that this rank's IN holds and its OUT takes (R324). -/
def collInElems (b : List Byte) (n : Nat) : Nat := if collOp b = 1 then collCount b * n else collCount b
def collOutElems (b : List Byte) (n : Nat) : Nat := if collOp b = 2 then collCount b * n else collCount b

/-- Translate a buffer; a fault is a status and the first failing byte (R326). -/
def State.collRun (s : State) (asid : Nat) (need : Need) : Nat → Nat → Except (Nat × Nat) (List Nat)
  | 0, _ => .ok []
  | n + 1, va =>
    match (if 2 ^ 57 ≤ va then WalkRes.miss else s.walk asid va) with
    | .miss => .error (2, va)
    | .ue _ => .error (4, va)
    | .hit p =>
      if !p.grants need || isMgmt (p.addr va) then .error (3, va)
      else if !isRemote (p.addr va) ∧ s.unfit need (p.addr va) then .error (4, va)
      else match s.collRun asid need n (va + 1) with
        | .ok l => .ok (p.addr va :: l)
        | .error e => .error e

/-- The element of a rank: this rank's own, or a free value. -/
def collElem (tick : Nat) (g : Group) (u : Nat) (mine : List Byte) (r i : Nat) : Nat :=
  if r = g.myrank then numOfBytes ((mine.drop (u * i)).take u) else (Config.peerElem tick r i).toNat % 2 ^ (8 * u)

/-- One step of a reduction, in FP32 or INT32 (R325). -/
def collStep (rop fmt : Nat) (x y : Nat) : Nat :=
  if fmt = 13 then
    match rop with
    | 0 => (x + y) % 2 ^ 32
    | 1 => if sint 32 x ≤ sint 32 y then x else y
    | _ => if sint 32 x ≤ sint 32 y then y else x
  else
    let env := FEnv.plain true
    let a := fsrc fp32 env x
    let b := fsrc fp32 env y
    match rop with
    | 0 => (faddF fp32 env a b).bits
    | 1 => (fminmaxF false fp32 env a b).bits
    | _ => (fminmaxF true fp32 env a b).bits

/-- One element of a reduction: the left fold in ascending rank, then the conversion to FMT (R325). -/
def collReduce (tick : Nat) (g : Group) (rop fmt : Nat) (mine : List Byte) (i : Nat) : FRes :=
  let u := fmtUnit fmt
  let x (r : Nat) : Nat :=
    let e := collElem tick g u mine r i
    if fmt = 13 then e else (decElem fmt e).bits
  let v := (List.range (g.nrank - 1)).foldl (fun a r => collStep rop fmt a (x (r + 1))) (x 0)
  if fmt = 13 then ⟨v, 0#6⟩ else encElem fmt true v

/-- The elements of OUT with the flags of the final conversions. -/
def collResult (tick : Nat) (g : Group) (b mine : List Byte) : List FRes :=
  let u := fmtUnit (collFmt b)
  match collOp b with
  | 0 => (List.range (collCount b)).map (collReduce tick g (collRop b) (collFmt b) mine)
  | 1 => (List.range (collCount b)).map fun i => collReduce tick g (collRop b) (collFmt b) mine (g.myrank * collCount b + i)
  | 2 => (List.range (collCount b * g.nrank)).map fun i => ⟨collElem tick g u mine (i / collCount b) (i % collCount b), 0#6⟩
  | _ => (List.range (collCount b)).map fun i => ⟨collElem tick g u mine (collRoot b) i, 0#6⟩

def State.setColl (s : State) (id : Nat) (c : Collective) : State := { s with eng := { s.eng with colls := s.eng.colls.put id c } }

/-- Bytes into local memory, at their home. -/
def State.collLand (s : State) (asid : Nat) (ps : List (Nat × Byte)) : State :=
  ((s.strays asid (ps.map (·.1))).gatherHome (ps.map (·.1))).homeWrite ps

/-- A collective ends: its command as it is then, and the bytes of OUT. Those in local memory that a reproducible launch's leaves appear at
the commit at which it completes (R124, R126). -/
def State.collWrite (s : State) (id : Nat) (c : Collective) (ps : List (Nat × Byte)) : State :=
  let loc := ps.filter fun e => !isRemote e.1
  let pages := pagesOf ps.length [collOut c.block]
  let s := s.sendRemote none (some (.coll id)) c.asid pages (ps.filter fun e => isRemote e.1)
  if c.commit.isSome then s.setColl id { c with held := loc, pages := if loc.isEmpty then [] else pages }
  else (s.collLand c.asid loc).setColl id c

/-- OUT after a status other than 0: every byte that can be written holds a free value (R326). -/
def State.collScramble (s : State) (asid out n : Nat) : List (Nat × Byte) :=
  (List.range n).filterMap fun i => match s.collRun asid .store 1 (out + i) with
    | .ok [a] => some (a, Config.undefined8 s.tick a)
    | _ => none

/-- A collective ends with a status other than 0; `ranks` is NRANK. -/
def State.collEnd (s : State) (id : Nat) (c : Collective) (ranks status va peer : Nat) : State :=
  let n := collOutElems c.block ranks * fmtUnit (collFmt c.block)
  s.collWrite id { c with status := some (BitVec.ofNat 8 status), faultVa := BitVec.ofNat 64 va, peer := peer }
    (s.collScramble c.asid (collOut c.block) n)

/-- Perform a collective of operation `op`. The spec states neither status nor FAULTVA for a group descriptor that cannot be read: the
model ends with STATUS 4 and a free FAULTVA (DESIGN CHOICE, log entry 21). -/
def State.collRunOp (s : State) (op id : Nat) : State :=
  match s.eng.colls.find id with
  | none => s
  | some c =>
    let b := c.block
    if collOp b != op || c.status.isSome then s
    else match s.groupOf c.asid b with
      | none =>
        let s' := s.collEnd id c (s.nrankOf c.asid b) 4 (Config.undefined64 s.tick 0).toNat 0
        { s' with tick := s'.tick + 1 }
      | some g =>
        let s := s.groupTouch c.asid b
        let u := fmtUnit (collFmt b)
        match s.collRun c.asid .load (collInElems b g.nrank * u) (collIn b), s.collRun c.asid .store (collOutElems b g.nrank * u) (collOut b) with
        | .error e, _ => s.collEnd id c g.nrank e.1 e.2 0
        | _, .error e => s.collEnd id c g.nrank e.1 e.2 0
        | .ok ins, .ok outs =>
          match Config.peerMismatch s.tick with
          | some r => s.collEnd id c g.nrank 6 0 (g.accels.getD r 0)
          | none =>
            let s' := (s.gatherHome (ins.filter fun a => !isRemote a)).homeTouches (ins.filter fun a => !isRemote a)
            let mine := ins.map fun a => if isRemote a then Config.remoteByte s.tick a else s'.homeRead a
            let rs := collResult s.tick g b mine
            let c := { c with status := some 0#8, elems := collOutElems b g.nrank,
                              flags := if collFmt b = 13 then 0#6 else orAll (rs.map (·.flags)) }
            { (s'.collWrite id c (outs.zip (rs.flatMap fun r => leBytes u r.bits))) with tick := s'.tick + 1 }

def execAllReduce (id : Nat) (s : State) : Out := .next (s.collRunOp 0 id)
def execReduceScatter (id : Nat) (s : State) : Out := .next (s.collRunOp 1 id)
def execAllGather (id : Nat) (s : State) : Out := .next (s.collRunOp 2 id)
def execBroadcast (id : Nat) (s : State) : Out := .next (s.collRunOp 3 id)

/-- The completion record of R326. -/
def collRecord (c : Collective) : List Byte :=
  bytes64 ((c.status.getD 0#8).toNat + c.flags.toNat * 2 ^ 8) ++ bytes64 c.elems ++ bytes64 c.faultVa.toNat ++ bytes64 c.peer

/-- Has a collective come to its end: its status is known, and the owning devices have acknowledged what it wrote to them (R216)? -/
def State.collOver (s : State) (id : Nat) (c : Collective) : Bool := c.status.isSome && s.engineAcked (.coll id)

/-- What it holds for a commit lands, then the record, then the semaphore (R325). -/
def State.completeColl (s : State) (id : Nat) (c : Collective) : State :=
  let s := if c.held.isEmpty then s else s.collLand c.asid c.held
  let s := s.writeRecord c.asid (collRec c.block) (collRecord c)
  let s := if collSemv c.block && !c.mute then s.semSignal true 0 (collSem c.block) c.asid else s
  { s with eng := { s.eng with colls := s.eng.colls.erase id } }

def execCollectiveComplete (id : Nat) (s : State) : Out :=
  match s.eng.colls.find id with
  | none => .next s
  | some c => if s.collOver id c && s.freeToEnd c.launch c.commit then .next (s.completeColl id c) else .next s

/-- R325: a rank has not submitted within COLTO, in µs, of the first submission. -/
def execCollectiveTimeout (id : Nat) (s : State) : Out :=
  match s.eng.colls.find id with
  | none => .next s
  | some c =>
    if c.status.isSome || decide (s.now + Config.peerLead s.tick < c.submitted + 1000 * s.sys.colto.toNat) then .next s
    else
      let g := (s.groupOf c.asid c.block).getD ⟨1, 0, []⟩
      .next (s.collEnd id c g.nrank 7 0 (g.accels.getD (Config.peerMissing s.tick) 0))

end Sys2Proof.Machine
end

