-- ==== Sys2Proof/Machine/EvCommit.lean ====
section
/-!
DEFINITION. The commit of a reproducible launch's quantum (R122 to R127, R220, R255).
-/

namespace Sys2Proof.Machine

/-- The waves of a launch that have not exited, in ascending wave identifier. -/
def State.liveOf (s : State) (lk : Nat) : List (Nat × Wave) := (s.wavesOfLaunch lk).filter fun e => e.2.st != .exited

/-- A wave for which the commit need not wait (R123): it has ended its quantum, and its outstanding results have been written. -/
def Wave.commits (w : Wave) : Bool :=
  w.ended && !w.env.hm && w.pend.isEmpty &&
    (w.st == .ready || w.st == .parkedS || w.st == .waitReg || w.st == .waitUnreg || (w.st == .preempting && !w.pre.taken))

/-- The launch's engine commands of earlier commits. -/
def State.commitCopies (s : State) (lk : Nat) : List (Nat × Copy) :=
  s.eng.copies.filter fun e => launchOfWg e.2.wg == lk && e.2.commit.isSome
def State.commitColls (s : State) (lk : Nat) : List (Nat × Collective) :=
  s.eng.colls.filter fun e => e.2.launch == lk && e.2.commit.isSome

/-- A lease record is written, as a release at `.dev` (R306). -/
def State.putLeaseRecord (s : State) (r : LeaseRec) : State :=
  s.releaseAll.writeRecord r.asid r.addr (bytes64 r.status.toNat ++ bytes64 r.endNs ++ zeros 16)

/-- The lease records of a launch's earlier commits are written (R126). -/
def State.commitLeases (s : State) (lk : Nat) : State :=
  let mine := s.eng.leaseRecs.filter fun r => r.launch == some lk
  mine.foldl State.putLeaseRecord { s with eng := { s.eng with leaseRecs := s.eng.leaseRecs.filter fun r => r.launch != some lk } }

/-- Has every engine and queue that a held submission goes to room for one? A commit brings more than a queue holds when enough waves
submit in one quantum: the later ones then stand at it, in order, and only their waves' stall would show (R87; log entry 31). -/
def State.commitRoom (s : State) (lk : Nat) : Bool :=
  (s.liveOf lk).all fun e => e.2.fifo.all fun x => match x with
    | .engine cmd => s.engineRoom e.2.id.cluster cmd
    | _ => true

/-- Is no tile that a held ACLR or AWR writes named by a command in flight (R75)? -/
def State.commitTiles (s : State) (lk : Nat) : Bool :=
  (s.liveOf lk).all fun e => e.2.fifo.all fun x => match x with
    | .aclr t | .awr t _ _ _ => !(s.wgAt e.2.id.wgKey).tileBusy t
    | _ => true

/-- R123, R126: may the commit take place? -/
def State.mayCommit (s : State) (lk : Nat) : Bool :=
  match s.launches.find lk with
  | none => false
  | some l =>
    l.repro && !l.waiting && !(s.liveOf lk).isEmpty && ((s.liveOf lk).all fun e => e.2.commits) &&
      ((s.commitCopies lk).all fun e => s.copyOver e.1 e.2) && ((s.commitColls lk).all fun e => s.collOver e.1 e.2) &&
      (s.eng.leaseReqs.all fun r => r.launch != some lk) && s.commitRoom lk && s.commitTiles lk

/-- A held store is performed at its home. -/
def State.commitStore (s : State) (k gc : Nat) (cs : Bool) (bytes : List (Nat × Byte)) (pages : List VPage) : State :=
  if cs then s.cscrWrite (gc / 4) bytes
  else (s.homeWrite (bytes.filter fun e => !isRemote e.1)).sendStore k pages (bytes.filter fun e => isRemote e.1)

/-! ## What leaves for other devices (R215, R220, R370)

The release points and DRAIN arrivals of a quantum wait for the acknowledgement of the remote stores before them. Those go out first,
and the commit waits for the owning devices: no local effect depends on them. -/

/-- Does a held effect go to another device and answer nothing? -/
def Eff.goesOut : Eff → Bool
  | .store false _ _ bytes _ => bytes.any fun b => isRemote b.1
  | .atom false _ _ lanes _ .none _ => lanes.any fun l => l.loc.any isRemote
  | _ => false

/-- What stays of it here. -/
def Eff.stays : Eff → Eff
  | .store false nc up bytes pages => .store false nc up (bytes.filter fun b => !isRemote b.1) pages
  | .atom false op ord lanes pc .none pages => .atom false op ord (lanes.filter fun l => !l.loc.any isRemote) pc .none pages
  | e => e

/-- It goes out. -/
def State.sendOut (s : State) (k : Nat) : Eff → State
  | .store false _ _ bytes pages => s.sendStore k pages (bytes.filter fun b => isRemote b.1)
  | .atom false op _ lanes _ .none pages => s.sendAtomic k pages (remoteOps false op lanes) false
  | _ => s

/-- The remote stores of a wave go out, in program order. -/
def State.sendHeld (s : State) (k : Nat) : State :=
  let effs := (s.waveAt k).fifo
  let s := (effs.filter Eff.goesOut).foldl (fun s e => s.sendOut k e) s
  s.modWaveAt k fun w => { w with fifo := effs.map fun e => if e.goesOut then e.stays else e }

/-- The g registers that an atomic's return value goes to are written at the same commit (R123). -/
def State.settleG (s : State) (k : Nat) : State :=
  let w := s.waveAt k
  let s := s.modWaveAt k fun w => { w with fifo := w.fifo.filter fun e => match e with | .gwrite .. => false | _ => true }
  w.fifo.foldl (fun s e => match e with
    | .gwrite i v => s.modWgAt w.id.wgKey fun g => { g with g := g.g.set! i v }
    | _ => s) s

/-- One held effect is applied. -/
def State.commitEff (s : State) (k q : Nat) (e : Eff) : State :=
  let w := s.waveAt k
  let wg := w.id.wgKey
  match e with
  | .store cs _ _ bytes pages => (s.strays w.id.asid.toNat e.locals).commitStore k w.id.gcore cs bytes pages
  | .atom cs op _ lanes pc dst pages => ((s.strays w.id.asid.toNat e.locals).performAtom k w.id.gcore cs op .dev lanes pc dst pages).settleG k
  | .spmStore _ | .spmAtom .. => (s.performSpm k e).settleG k
  | .gwrite i v => s.modWgAt wg fun g => { g with g := g.g.set! i v }
  | .shedClass c => { s with waves := s.waves.map fun x =>
      if (x.2.id.wgKey == wg) = true then (x.1, { x.2 with env := { x.2.env with shedClass := c } }) else x }
  | .arrive kind b => s.arrive k (kind == .barc) b
  | .trylk .. => s
  | .unlock pa _ => (s.lockRelease k pa).2
  | .semsig dev idx n => if s.semUsable dev w.id.cluster idx w.id.asid.toNat then s.semAdd dev w.id.cluster idx n else s
  | .engine cmd => s.submit k (some q) cmd
  | .aclr t => s.modWgAt wg fun g => g.setTile t Tile.start
  | .awr t row vals lanes => s.modWgAt wg fun g => g.setTile t ((g.tile t).writeRow row vals lanes)
  | .odecl b dst =>
    let (st, s) := s.declareObj (s.wgAt wg).ext w.id.cluster w.id.asid.toNat b
    s.deliverAll k 1#64 (dst.scalVal ⟨BitVec.ofNat 64 st, false⟩)
  | .orel base dst =>
    let (st, s) := s.releaseObj w.id.asid.toNat base
    s.deliverAll k 1#64 (dst.scalVal ⟨BitVec.ofNat 64 st, false⟩)
  | .exit second => s.exitSlot k second

def Eff.isTrylk : Eff → Bool
  | .trylk .. => true
  | _ => false

/-- A wave's held effects, in program order; a TRYLK waits for the requests. -/
def State.commitWave (s : State) (q k : Nat) : State :=
  let effs := (s.waveAt k).fifo
  let s := s.modWaveAt k fun w => { w with fifo := effs.filter Eff.isTrylk }
  effs.foldl (fun s e => if (s.waves.find k).isSome then s.commitEff k q e else s) s

/-! ## Requests (R125) -/

/-- The open requests of a launch: the CLK at which each was made, and its wave. -/
def State.requests (s : State) (lk : Nat) : List (Nat × Nat) :=
  ((s.liveOf lk).flatMap fun e =>
    (match e.2.wait with | some w => [(w.clk, e.1)] | none => []) ++
      e.2.fifo.filterMap fun x => match x with | .trylk _ clk _ _ => some (clk, e.1) | _ => none).mergeSort fun a b =>
    decide (a.1 < b.1 ∨ (a.1 = b.1 ∧ a.2 ≤ b.2))

/-- Is a request satisfied; the lock is taken with it. A word that is mapped nowhere now is not looked at (log entry 85). -/
def State.tryWait (s : State) (k : Nat) (w : Wait) : Bool × State :=
  match w.kind with
  | .bar | .barc | .drain => (w.met, s)
  | .lock => match s.requestWord k w with
    | some pa => (s.moveWait k pa).lockTake k pa
    | none => (false, s)
  | .semDev => (decide (w.expect.toNat ≤ (s.semCount true 0 w.pa).toNat), s)
  | .semClu => (decide (w.expect.toNat ≤ (s.semCount false (w.pa / 256) (w.pa % 256)).toNat), s)
  | .waitv => match s.requestWord k w with
    | some pa => (s.home64 pa != w.expect.toNat, (s.moveWait k pa).homeTouch pa)
    | none => (false, s)

/-- A request that cannot be satisfied at its first commit waits, or takes DEADLOCK (R230, R236). Without room for an entry it waits
unregistered, and no walk is made for it or sees it (R241): its status then tells of the room (R222), although R128 has a run depend on
no overflow of the table (log entry 31). -/
def State.commitWait (s : State) (k : Nat) (w : Wait) : State :=
  let asid := (s.waveAt k).id.asid.toNat
  let o := w.obj asid
  let waiting (reg : Bool) : State := s.modWaveAt k fun v =>
    { (v.become (if reg then .waitReg else .waitUnreg)) with wait := some { w with registered := reg } }
  match s.entryFor o with
  | none => (waiting false).modCtxAt asid fun c => { c with ovf := c.ovf + 1 }
  | some (i, j) =>
    match (waiting true).inlineWalk k o with
    | none => (waiting true).makeEntry k o i j
    | some path =>
      let (va, s) := (s.withdraw k w).reportDeadlock asid path false false
      let second := (s.waveAt k).pcs.lastIssued
      let t := Trap.plain .deadlock (BitVec.ofNat 64 va) ((((s.waveAt k).pcs.slot second).map (·.mask)).getD 0#64)
      (s.modWaveAt k fun v => { v with wait := none }).takeTrapAt k second t

/-- Resolve one wave's request. -/
def State.resolveRequest (s : State) (k : Nat) : State :=
  let v := s.waveAt k
  match v.fifo with
  | .trylk pa _ dst _ :: _ =>
    let (got, s) := (s.modWaveAt k fun w => { w with fifo := [] }).lockTake k pa
    s.addPend k (Pend.plain (dst.scalVal ⟨if got then 0#64 else 3#64, false⟩) 1#64)
  | _ =>
    match v.wait with
    | none => s
    | some w =>
      let first := !(v.st == .waitReg || v.st == .waitUnreg || (v.st == .preempting && v.held != .ready))
      let (ok, s) := s.tryWait k w
      if ok then s.endWait k (if first then 0 else if w.registered then 1 else 2) false
      else if first then s.commitWait k w else s

/-! ## The next quantum -/

/-- A wave starts the next quantum, or its handler (R121, R255); one whose request stays open goes on waiting. -/
def State.nextQuantumOf (s : State) (clk : Word64) (k : Nat) : State :=
  match s.waves.find k with
  | none => s
  | some w =>
    if w.st == .exited then s
    else
      let w := { w with qclk := clk }
      match w.trapPend with
      | some t =>
        let w := { (w.enterHandler w.pcs.lastIssued (s.ctxAt w.id.asid.toNat).haddr t) with trapPend := none, ended := false }
        s.setWaveAt k w
      | none => s.setWaveAt k { w with ended := w.wait.isSome }

/-- The launch's cores and clusters drop what they hold of memory (R220). -/
def State.commitAcquire (s : State) (lk : Nat) : State :=
  (s.wavesOfLaunch lk).foldl (fun s e => (s.l1Invalidate e.2.id.gcore).l2DropClean e.2.id.cluster) s

/-- Everything but the remote stores, once those are acknowledged. -/
def State.commitAll (s : State) (lk : Nat) : State :=
  let l := s.launchAt lk
  let q := l.quantum
  let s := (s.commitCopies lk).foldl (fun s e => s.completeCopy e.1 e.2) s
  let s := (s.commitColls lk).foldl (fun s e => s.completeColl e.1 e.2) s
  let s := s.commitLeases lk
  let ks := (s.liveOf lk).map (·.1)
  let s := s.releaseAll
  let s := ks.foldl (fun s k => s.commitWave q k) s
  let s := ((s.requests lk).map (·.2)).foldl (fun s k => if (s.waves.find k).isSome then s.resolveRequest k else s) s
  let s := s.commitAcquire lk
  let qlog := (s.ctxAt (lk / 2 ^ 16)).qlog
  let s := ks.foldl (fun s k => s.nextQuantumOf (BitVec.ofNat 64 ((q + 1) * 2 ^ qlog)) k) s
  s.modLaunchAt lk fun l => { l with quantum := q + 1, seen := (s.hub.sem, s.hub.csem) }

/-- R123, R126. The remote stores of the quantum go out first, and the rest waits until they are acknowledged (log entry 31). What the launch's
engine commands of the commit before complete takes effect first: copies, collectives, lease records, each in the order of submission; then
the held effects. R126 names no order between the two (DESIGN CHOICE, log entry 82). -/
def execQuantumCommit (lk : Nat) (s : State) : Out :=
  if !s.mayCommit lk then .next s
  else if (s.liveOf lk).any fun e => e.2.fifo.any Eff.goesOut then .next ((s.liveOf lk).foldl (fun s e => s.sendHeld e.1) s)
  else if (s.liveOf lk).any fun e => s.unacked e.1 != 0 then .next s
  else .next (s.commitAll lk)

end Sys2Proof.Machine
end

