-- ==== Sys2Proof/Machine/EvPower.lean ====
section
/-!
DEFINITION. The power arbiter's events (R292 to R307): telemetry, the budget and the cut, restoring, forced shedding,
allowances and ballast, cluster clocks, boost leases.
-/

namespace Sys2Proof.Machine

/-! ## Control registers (R294) -/

def Power.fnom (p : Power) : Nat := p.pwcfg.toNat % 2 ^ 24
def Power.vk (p : Power) : Nat := p.pwcfg.toNat / 2 ^ 24 % 2 ^ 16
def Power.vnom (p : Power) : Nat := p.pwcfg.toNat / 2 ^ 40 % 2 ^ 16
def Power.nbp (p : Power) : Nat := p.pwcfg.toNat / 2 ^ 56 % 8
def Power.bpS (p : Power) (i : Nat) : Nat := (p.pwbp[i]?.getD 0#64).toNat % 2 ^ 16
def Power.bpP (p : Power) (i : Nat) : Nat := (p.pwbp[i]?.getD 0#64).toNat / 2 ^ 16 % 2 ^ 13
def Power.pfall (p : Power) : Nat := p.pwctl.toNat % 2 ^ 13
def Power.pstatic (p : Power) : Nat := p.pwctl.toNat / 2 ^ 13 % 2 ^ 13
def Power.hyst (p : Power) : Nat := p.pwctl.toNat / 2 ^ 26 % 2 ^ 10
def Power.thold (p : Power) : Nat := max 1 (p.pwctl.toNat / 2 ^ 36 % 2 ^ 8)
def Power.dmax (p : Power) : Nat := p.pwctl.toNat / 2 ^ 53 % 2 ^ 10

/-- CBAD: the used S values do not strictly ascend. -/
def Power.cbad (p : Power) : Bool := !((List.range p.nbp).all fun i => decide (p.bpS i < p.bpS (i + 1)))

/-! ## Telemetry (R292, R293) -/

/-- One bit of the CRC: polynomial 0x07. -/
def crcShift (c : Byte) : Byte := if c.getLsbD 7 then (c <<< 1) ^^^ 0x07#8 else c <<< 1

def crcByte (c b : Byte) : Byte := (List.range 8).foldl (fun c _ => crcShift c) (c ^^^ b)

/-- CRC-8 of R292. -/
def crc8 (bs : List Byte) : Byte := bs.foldl crcByte 0#8

/-- R293: is a frame valid? -/
def frameOk (f : List Byte) : Bool :=
  f.length == 9 && f.headD 0#8 == 0xA7#8 && f.getD 8 0#8 == crc8 ((f.drop 1).take 7) && f.getD 7 0#8 >>> 3 == 0#8

/-- A frame arrives. -/
def execStpFrame (data : List Byte) (s : State) : Out :=
  let p := s.pw
  if frameOk data then
    .next { s with pw := { p with sample := data, lastFrame := s.now, tl := false, pending := some true } }
  else
    let n := if p.stperr = 0xFFFF#16 then p.stperr else p.stperr + 1#16
    .next { s with pw := { p with stperr := n } }

/-- R293: no valid frame for 200 µs. -/
def execTelemetryLoss (s : State) : Out :=
  if s.pw.tl || decide (s.now < s.pw.lastFrame + 200000) then .next s
  else .next { s with pw := { s.pw with tl := true, pending := some false, restoreSince := none } }

/-! ## The droop curve and the budget (R295 to R297) -/

/-- target(f, v) of R295. -/
def Power.curve (p : Power) (f v : Nat) (curt : Bool) : Int :=
  let x := max (p.fnom - f) ((p.vnom - v) * p.vk / 256)
  if p.cbad then p.pfall
  else if curt || decide (p.bpS p.nbp ≤ x) then p.bpP p.nbp
  else if x ≤ p.bpS 0 then p.bpP 0
  else
    let i := ((List.range (p.nbp + 1)).filter fun i => decide (p.bpS i ≤ x)).length - 1
    p.bpP i + (((p.bpP (i + 1) : Int) - p.bpP i) * ((x : Int) - p.bpS i)) / ((p.bpS (i + 1) : Int) - p.bpS i)

def Power.statByte (p : Power) : Byte := p.sample.getD 7 0#8

/-- The target T that is in force: PFALL while telemetry is lost. -/
def Power.targetNow (p : Power) : Int :=
  if p.tl then p.pfall else p.curve (fieldOf p.sample 2 3) (fieldOf p.sample 5 2) (p.statByte.getLsbD 2)

/-- CAP: 6,500 W, or the PLIM of the active lease. -/
def Engines.cap (e : Engines) : Int := match e.lease with | some l => l.plim | none => 6500

/-- The refill of R297, in pJ. -/
def Power.refillOf (p : Power) (b : Int) : Nat := ((b - p.pstatic) * 1000000 / (max 1 p.nact : Nat)).toNat

/-- The charge of a class over the last 50 epochs, in pJ; P_c of R300 is this divided by 50 µs. -/
def Power.classEst (p : Power) (c : Nat) : Nat := (p.hist.map fun m => m.get 0 c).sum

/-- 50 µs times the power of PSTATIC and of the classes from `k` on, in pJ. -/
def Power.loadFrom (p : Power) (k : Nat) : Int :=
  (p.pstatic * 50000000 + (((List.range 8).filter fun c => decide (k ≤ c)).map p.classEst).sum : Nat)

/-- R300: the cut level after an update of B. -/
def Power.cutLevel (p : Power) : Nat :=
  if p.budget * 50000000 < p.loadFrom p.cut then
    ((List.range 8).find? fun k => decide (p.cut < k) && decide (p.loadFrom k ≤ p.budget * 50000000)).getD 8
  else p.cut

/-- Raise the cut level, recording the estimate and the time of each class that is cut. -/
def Power.raiseCut (p : Power) (now : Nat) : Power :=
  let c := p.cutLevel
  let new := (List.range 8).filter fun k => decide (p.cut ≤ k) && decide (k < c)
  if c ≤ p.cut then p
  else { p with cut := c, cutEst := new.foldl (fun m k => m.put k (p.classEst k)) p.cutEst,
                cutAt := new.foldl (fun m k => m.put k now) p.cutAt, restoreSince := none }

/-- The conditions of R302 as a sample finds them. -/
def Power.mayRestore (p : Power) : Bool :=
  decide (0 < p.cut) && !p.tl && !p.statByte.getLsbD 1 &&
    decide (p.loadFrom p.cut + ((p.cutEst.get 0 (p.cut - 1) : Nat) : Int) + p.hyst * 50000000 ≤ p.budget * 50000000)

/-- T, B, R and the counters' clipping (R295 to R297). -/
def Power.rebudget (p : Power) (cap : Int) : Power :=
  let t := p.targetNow
  let b := min t cap
  let r := p.refillOf b
  { p with target := t, budget := b, refill := r, allow := p.allow.map fun e => (e.1, min e.2 (r : Int)), pending := none }

/-- How long R302's conditions have held. -/
def Power.watchRestore (p : Power) (now : Nat) (sample : Bool) : Power :=
  if !p.mayRestore then { p with restoreSince := none }
  else if sample && p.restoreSince.isNone then { p with restoreSince := some now }
  else p

/-- R307: the lease is revoked once T falls below PLIM, and END becomes now + 200 µs. -/
def State.revokeLease (s : State) : State :=
  match s.eng.lease with
  | none => s
  | some l =>
    if s.pw.target < (l.plim : Int) ∧ !l.revoked then
      { s with eng := { s.eng with lease := some { l with endNs := s.now + 200000, revoked := true } } }
    else s

def WaitKind.isBarrier : WaitKind → Bool
  | .bar | .barc | .drain => true
  | _ => false

/-- A wave that waits at a barrier when its class is cut (R301): a barrier that has completed lets it go on first. -/
def State.cutWave (s : State) (k : Nat) : State :=
  let w := s.waveAt k
  match w.wait with
  | none => s
  | some x =>
    if !x.kind.isBarrier then s
    else if x.met && !w.repro && (w.st == .waitReg || w.st == .waitUnreg) then s.endWait k (if x.registered then 1 else 2) true
    else s.shedIfCut k

/-- R296, R300, R301. -/
def State.updateBudget (s : State) (sample : Bool) : State :=
  let p := ((s.pw.rebudget s.eng.cap).raiseCut s.now).watchRestore s.now sample
  let rose := decide (s.pw.cut < p.cut)
  let s := ({ s with pw := p }).revokeLease
  if !rose then s
  else
    let s := s.waves.keys.foldl (fun s k => if s.isCut k then s.cutWave k else s) s
    s.wgs.keys.foldl (fun s k => s.markWg k) s

def execBudgetUpdate (s : State) : Out :=
  match s.pw.pending with
  | none => .next s
  | some sample => .next (s.updateBudget sample)

/-- R302: class C − 1 is restored. Its waves return to the state before Shed (R114). -/
def execClassRestore (s : State) : Out :=
  let p := s.pw
  match p.restoreSince with
  | none => .next s
  | some t =>
    if p.cut = 0 ∨ s.now < t + p.thold * 50000 then .next s
    else
      let s := { s with pw := { p with cut := p.cut - 1, restoreSince := some s.now } }
      let back (k : Nat) (w : Wave) : Wave :=
        if s.isCut k then w
        else { w with st := if w.st == .shed then w.held else w.st }
      let s := { s with waves := s.waves.map fun (e : Nat × Wave) => (e.1, back e.1 e.2) }
      .next (s.wgs.keys.foldl (fun s k => s.markWg k) s)

/-! ## Forced shedding (R301) -/

/-- A wave goes back to its IDEM (R266): its program-counter slots and logical clock, without the results of the instructions since; those of
the instructions before it stay outstanding. It keeps the idempotent right, as it stands right after the IDEM again, and forgets what its
instruction had been waiting for (R72, R448). -/
def Wave.rewind (w : Wave) : Wave :=
  let i := w.idem
  let p := (w.pcs.setSlot i.slot ((w.pcs.slot i.slot).map fun x => { x with pc := i.pc + 4#64, mask := i.mask })).setSlot
    (!i.slot) i.other
  { w with pcs := p, qclk := i.qclk, pend := w.pend.filter (·.old), mwait := none, stallOn := [], timew := none }

/-- What a forced shed does at once (R301): a wave in handler mode or in a TIMEW is shed and goes on where it is (R254, R448), one that
holds the idempotent right at its IDEM (R266). Any other goes on to its next PHINT. -/
def State.forcedShed (s : State) (k : Nat) (w : Wave) : Option State :=
  if w.env.hm then some (s.shedWave k)
  else if w.idem.idv then some ((s.setWaveAt k w.rewind).shedWave k)
  else if w.timew.isSome then some ((s.setWaveAt k { w with timew := none }).shedWave k)
  else none

/-- R301: the cut of a wave's class has stood for TFORCE. -/
def execForcedShedStart (k : Nat) (s : State) : Out :=
  match s.waves.find k with
  | none => .next s
  | some w => if s.isForced k && w.st == .ready then .next ((s.forcedShed k w).getD s) else .next s

/-- Has a wave retired its 2 × PHINTMAX instructions without a PHINT since its class was cut for TFORCE (R301)? -/
def Wave.shedDue (w : Wave) (phintmax : Nat) : Bool := decide (2 * phintmax ≤ w.pre.sinceCut.get 0 w.env.shedClass.toNat)

/-- Must a wave under a forced shed be shed now? -/
def State.shedNow (s : State) (k : Nat) (w : Wave) : Bool :=
  w.st == .ready && s.isForced k &&
    (w.env.hm || w.idem.idv || w.timew.isSome || w.shedDue (s.wgAt w.id.wgKey).kern.phintmax)

/-- R301: a wave under a forced shed that has met no PHINT, or has come to where it is shed at once. -/
def execShedInstructionLimit (k : Nat) (s : State) : Out :=
  match s.waves.find k with
  | none => .next s
  | some w => if s.shedNow k w then .next ((s.forcedShed k w).getD (s.shedWave k)) else .next s

/-! ## Allowances and ballast (R297, R304, R305) -/

/-- The clusters that hold a resident wave. -/
def State.activeClusters (s : State) : List Nat := ((s.waves.filter fun e => e.2.resides).map fun e => e.2.id.cluster).eraseDups

/-- The ballast a cluster issues in the epoch that ends: whole slots up to its floor. -/
def State.ballastOf (s : State) (cl : Nat) : Nat :=
  let p := s.pw
  let w := s.weightOf 7 (cl / 32)
  let floor := p.last.get 0 cl - p.dmax * 1000000 / max 1 p.nact
  let short := floor - p.charge.get 0 cl
  if p.dmax = 0 ∨ p.ballastOff ∨ w = 0 then 0 else (short + w - 1) / w * w

/-- Ballast charges the module and PWBAL, not the allowance and no context (R304). -/
def State.ballast (s : State) : State :=
  let add := (s.pw.last.keys.map fun cl => (cl, s.ballastOf cl)).filter fun e => e.2 != 0
  { s with pw := { s.pw with charge := add.foldl (fun m e => m.modify 0 e.1 (· + e.2)) s.pw.charge,
                             bal := s.pw.bal + (add.map (·.2)).sum } }

/-- R305: what module draw above B in the epoch that ends does to the counters and to ballast. -/
def Power.overcap (p : Power) (now : Nat) : Power :=
  let draw : Int := (p.pstatic * 1000000 + (p.charge.map (·.2)).sum : Nat)
  let cap := p.budget * 1000000
  if draw ≤ cap then { p with ballastOff := false, overSince := none }
  else if p.ballastOff then p
  else
    let p := { p with ovsEnergy := p.ovsEnergy + (draw - cap).toNat }
    if p.overSince.isSome then p
    else { p with overSince := some now, ovsCount := if p.ovsCount = BitVec.allOnes 32 then p.ovsCount else p.ovsCount + 1#32 }

/-- The end of one epoch and the start of the next. -/
def execAllowanceEpoch (s : State) : Out :=
  if s.now / 1000 < s.pw.epoch then .next s
  else
    let s := s.ballast
    let act := s.activeClusters
    let p := s.pw.overcap s.now
    let p := { p with last := p.charge, charge := [], hist := (p.classCharge :: p.hist).take 50, classCharge := [],
                      epoch := p.epoch + 1, nact := max 1 act.length }
    let r : Nat := p.refillOf p.budget
    let allow := act.foldl (fun (m : FMap Int) cl => m.modify 0 cl fun a => min (a + (r : Int)) (r : Int)) p.allow
    .next { s with pw := { p with refill := r, allow := allow } }

/-- R305: ballast over the cap stops 20 µs after the first such epoch. -/
def execBallastOvercapLimit (s : State) : Out :=
  match s.pw.overSince with
  | none => .next s
  | some t =>
    if s.now < t + 20000 then .next s
    else .next { s with pw := { s.pw with ballastOff := true, overSince := none } }

/-! ## Cluster clocks (R303) -/

/-- A write of CLKPAT; 0 is refused. -/
def execClkpatWrite (cluster : Nat) (value : BitVec 16) (s : State) : Out :=
  if value = 0#16 ∨ 512 ≤ cluster then .next s
  else .next { s with pw := { s.pw with clkpatNext := s.pw.clkpatNext.put cluster value } }

/-- The patterns written since take effect at a group boundary of their die's clock. -/
def State.applyPatterns (s : State) : State :=
  let due (e : Nat × BitVec 16) : Bool := s.dieCyc (e.1 / 32) % 16 == 0
  let pats := (s.pw.clkpatNext.filter due).foldl (fun (m : FMap (BitVec 16)) e => m.set 0xFFFF#16 e.1 e.2) s.pw.clkpat
  { s with pw := { s.pw with clkpat := pats, clkpatNext := s.pw.clkpatNext.filter fun e => !due e } }

/-- The step by itself: of a pattern written at the very boundary, before its group's first cycle has ended. The end of the cycle before a
boundary applies the others. -/
def execClkpatApply (s : State) : Out := .next s.applyPatterns

/-! ## Boost leases (R306, R307) -/

/-- Dies change their operating point (R18). -/
def Power.setPoints (p : Power) (dies : BitVec 16) (x : OpPoint) : Power :=
  { p with points := ((List.range 16).filter dies.getLsbD).foldl (fun m d => m.set OpPoint.nominal d x) p.points }

def leaseSem (b : List Byte) : Option Nat := if (fieldOf b 20 4).testBit 10 then some (fieldOf b 20 4 % 2 ^ 10) else none

/-- The arbiter's first command from a context, and the commands after it is taken. -/
def Engines.leaseReqOf (e : Engines) (asid op : Nat) : Option (LeaseReq × Engines) :=
  match e.leaseReqs with
  | r :: t => if r.asid = asid ∧ fieldOf r.block 4 4 = op then some (r, { e with leaseReqs := t }) else none
  | [] => none

/-- The record that answers a command is left to be written. -/
def Engines.leaveRecord (e : Engines) (r : LeaseReq) (status endNs : Nat) : Engines :=
  { e with leaseRecs := e.leaseRecs ++ [⟨r.asid, fieldOf r.block 24 8, BitVec.ofNat 8 status, endNs, r.launch⟩] }

/-- The status of a request (R306). -/
def State.leaseStatus (s : State) (plim : Nat) : Nat :=
  if s.eng.lease.isSome then 1
  else if s.pw.targetNow < (plim : Int) ∨ s.pw.statByte.getLsbD 1 ∨ s.pw.tl ∨ 0 < s.pw.cut then 2
  else if s.now < s.eng.coolUntil then 3
  else 0

/-- A context asks for a lease; under one that is granted the voltage of its dies rises first (R18, R307). END of a refused request is a free
value (log entry 18). -/
def execLeaseRequest (asid : Nat) (s : State) : Out :=
  match s.eng.leaseReqOf asid 0 with
  | none => .next s
  | some (q, e) =>
    let b := q.block
    let st := s.leaseStatus (fieldOf b 12 4)
    let stop := s.now + 1000 * fieldOf b 16 4
    let dies : BitVec 16 := BitVec.ofNat 16 (fieldOf b 8 4)
    let lease : Lease := ⟨asid, fieldOf b 12 4, dies, fieldOf b 16 4, leaseSem b, stop, false, false, false⟩
    if st = 0 then
      let p := { s.pw.setPoints dies .transition with pending := some false }
      .next { s with eng := { (e.leaveRecord q 0 stop) with lease := some lease }, pw := p }
    else .next { s with eng := e.leaveRecord q st (Config.undefined64 s.tick 2).toNat, tick := s.tick + 1 }

/-- The lease is over: CAP returns to 6,500 W, the clock of its dies falls before their voltage (R18), its semaphore is incremented,
the cooldown begins (R307). -/
def State.endLease (s : State) (l : Lease) : State :=
  let s := { s with eng := { s.eng with lease := none, coolUntil := s.now + 1000 * l.dur },
                    pw := { s.pw.setPoints l.dies .transition with pending := some false } }
  match l.sem with
  | some n => s.semSignal true 0 n l.asid
  | none => s

/-- A context gives its lease back. -/
def execLeaseRelease (asid : Nat) (s : State) : Out :=
  match s.eng.leaseReqOf asid 1 with
  | none => .next s
  | some (q, e) =>
    match e.lease with
    | some l =>
      if l.asid = asid then .next (({ s with eng := e.leaveRecord q 4 s.now }).endLease l)
      else .next { s with eng := e.leaveRecord q 5 (Config.undefined64 s.tick 2).toNat, tick := s.tick + 1 }
    | none => .next { s with eng := e.leaveRecord q 5 (Config.undefined64 s.tick 2).toNat, tick := s.tick + 1 }

/-- The first lease record that no commit holds is written, as a release at `.dev` (R306). -/
def execLeaseRecordWrite (s : State) : Out :=
  match s.eng.leaseRecs.find? fun r => s.freeToEnd (r.launch.getD 0) r.launch with
  | none => .next s
  | some r => .next (({ s with eng := { s.eng with leaseRecs := s.eng.leaseRecs.erase r } }).putLeaseRecord r)

/-- The voltage has settled: the lease's dies run at 1.5 GHz (R307). -/
def execBoostClockRaise (s : State) : Out :=
  match s.eng.lease with
  | none => .next s
  | some l =>
    if l.ramped then .next s
    else .next { s with eng := { s.eng with lease := some { l with ramped := true } }, pw := s.pw.setPoints l.dies .boost }

/-- The voltage of a die that no lease holds has come down after its clock: it is at the nominal point (R18). -/
def State.voltageFall (s : State) (die : Nat) : State :=
  let held := match s.eng.lease with
    | some l => l.dies.getLsbD die
    | none => false
  if s.pw.points.get .nominal die = .transition ∧ !held then { s with pw := s.pw.setPoints (BitVec.ofNat 16 (2 ^ die)) .nominal } else s

/-- 200 µs before END, or at once when it is revoked: the notice. -/
def execLeaseNotice (s : State) : Out :=
  match s.eng.lease with
  | none => .next s
  | some l =>
    if l.noticed || decide (s.now + 200000 < l.endNs) then .next s
    else
      let s := { s with eng := { s.eng with lease := some { l with noticed := true } } }
      match l.sem with
      | some n => .next (s.semSignal true 0 n l.asid)
      | none => .next s

/-- The lease ends at END, after its notice. -/
def execLeaseEnd (s : State) : Out :=
  match s.eng.lease with
  | none => .next s
  | some l => if s.now < l.endNs || !l.noticed then .next s else .next (s.endLease l)

end Sys2Proof.Machine
end

