-- ==== Sys2Proof/Machine/EvPreempt.lean ====
section
/-!
DEFINITION. Pre-emption: the request (R260), the idempotent right (R266), the save with its image (R261 to R263), the restore
(R264).
-/

namespace Sys2Proof.Machine

/-! ## Taking waves (R260) -/

/-- Does a request send the wave back to its IDEM: it holds the idempotent right outside handler mode and is Ready, parked at an S
marker or waiting (R254, R266)? -/
def Wave.restarts (w : Wave) : Bool :=
  w.idem.idv && !w.env.hm && !w.pre.shed && (w.held == .ready || w.held == .parkedS || w.held == .waitReg || w.held == .waitUnreg)

/-- Does a request save the wave in full at once: it is not Ready, or in handler mode, or in a TIMEW (R114, R254, R448)? -/
def Wave.fullNow (w : Wave) : Bool := w.held != .ready || w.pre.shed || w.env.hm || w.timew.isSome

/-- Is a wave under a request taken now? One in MWAIT first completes it (R406). -/
def Wave.taken (w : Wave) : Bool := w.st == .preempting && !w.pre.taken && w.mwait.isNone && (w.restarts || w.fullNow)

/-- Under a request a wave is taken: back at its IDEM, where it waits for nothing any more, or at once with a full save. -/
def State.takeWave (s : State) (k : Nat) : State :=
  let w := s.waveAt k
  if !w.taken then s
  else if w.restarts then
    (s.dropEntry k).setWaveAt k { w.rewind with
      held := .ready, wait := none, pre := { w.pre with taken := true, full := false, lsm := w.idem.lsm, ranges := w.idem.ranges } }
  else s.setWaveAt k { w with timew := none, pre := { w.pre with taken := true, full := true } }

/-- A wave meets a request. A wait whose condition has held ends first (R115); one that is Resident has its initial state loaded and
is taken at once. -/
def State.requestWave (s : State) (k : Nat) : State :=
  let w : Wave := s.waveAt k
  let s : State := match w.wait with
    | some x =>
      if x.met && !w.repro && (w.st == WaveSt.waitReg || w.st == WaveSt.waitUnreg) then s.endWait k (if x.registered then 1 else 2) true else s
    | none => s
  let w : Wave := s.waveAt k
  let pre : Preempt := { w.pre with shed := w.st == WaveSt.shed, taken := false, full := false, since := 0 }
  match w.st with
  | .exited => s
  | .resident => s.setWaveAt k { w with
      regs := startRegs (s.launchAt w.id.launchKey).packet, st := .preempting, held := .ready,
      pre := { pre with taken := true, full := true } }
  | .shed => (s.setWaveAt k { w with st := .preempting, pre := pre }).takeWave k
  | st => (s.setWaveAt k { w with st := .preempting, held := st, pre := pre }).takeWave k

/-! ## The image (R261 to R263) -/

def halfMask (m : Lanes) (hi : Bool) : Nat := (if hi then m >>> 32 else m).toNat % 2 ^ 32

/-- Bits of a list, lowest first, as bytes. -/
def bitBytes (l : List Bool) : List Byte := leBytes (l.length / 8) (l.foldr (fun b n => (if b then 1 else 0) + 2 * n) 0)

def slotBytes (x : Option PcSlot) (hi : Bool) : List Byte :=
  match x with
  | none => zeros 32
  | some p => bytes64 p.pc.toNat ++ bytes64 (halfMask p.mask hi) ++ bytes64 p.seq ++ bytes64 (1 + bit p.waiting 1)

/-- The state code of WST. -/
def Wave.wstCode (w : Wave) : Nat :=
  if w.pre.shed then 4
  else match w.held with
    | .parkedFault => 1
    | .waitReg => 2
    | .waitUnreg => 3
    | _ => 0

def Wave.half (w : Wave) (hi : Bool) : Half := if hi then w.hi else w.lo
def Wave.setHalf (w : Wave) (hi : Bool) (h : Half) : Wave := if hi then { w with hi := h } else { w with lo := h }

/-- The logical segments that are saved. -/
def Wave.savedSegs (w : Wave) (seg : Nat) : List Nat := (List.range seg).filter fun n => w.pre.full || w.pre.lsm.getLsbD n

def Wave.wst (w : Wave) (h : Half) (seg : Nat) : Nat :=
  w.wstCode + bit w.env.hm 3 + bit w.idem.idv 4 + bit w.pre.full 5 + w.pcs.depth % 2 ^ 13 * 2 ^ 6 + w.regs.wbase.toNat * 2 ^ 19 +
    ((w.savedSegs seg).map fun n => 2 ^ n).sum * 2 ^ 27 + h.turn.toNat * 2 ^ 35

def codebookHead (c : Codebook) : Nat := bit c.valid 0 + c.iw % 16 * 2 + c.ef % 8 * 2 ^ 5

def codebookBytes (c : Codebook) : List Byte :=
  let es := (List.range 256).map fun i => c.entries.get LaneVal.zero i
  (es.flatMap fun e => leBytes 4 e.bits.toNat) ++ bitBytes (es.map (·.p)) ++ zeros 32

def Regs.segBytes (r : Regs) (n : Nat) (hi : Bool) : List Byte :=
  let vs := (List.range 1024).map fun i =>
    r.v.get LaneVal.zero (64 * (32 * n + i / 32) + i % 32 + if hi then 32 else 0)
  (vs.flatMap fun v => leBytes 4 v.bits.toNat) ++ bitBytes (vs.map (·.p))

/-- The scalar registers as one half of a pair has them (R105). -/
def Regs.scalars (r : Regs) (hi : Bool) : List ScalVal :=
  (List.range 48).map fun i => (if hi then r.sHi.find i else none).getD (r.s[i]?.getD ScalVal.zero)

/-- A wave record (R263); of a pair, that of one half. -/
def Wave.record (w : Wave) (seg : Nat) (hi : Bool) : List Byte :=
  let h := w.half hi
  let r := w.regs
  slotBytes w.pcs.slot0 hi ++ slotBytes w.pcs.slot1 hi ++ bytes64 (w.wst h seg) ++ bytes64 w.pcs.nextSeq ++ bytes64 w.qclk.toNat ++
    bytes64 w.idem.pc.toNat ++
    bytes64 w.env.fmode.toNat ++ bytes64 h.fflags.toNat ++ bytes64 w.env.ftv.toNat ++
    bytes64 (w.env.shedClass.toNat + 8 * w.env.shedBase.toNat) ++
    bytes64 w.env.cause.toNat ++ bytes64 w.env.epc.toNat ++ bytes64 h.faddr.toNat ++ bytes64 h.fmask.toNat ++
    (h.pois.toList.flatMap fun x => bytes64 x.toNat) ++
    ((r.scalars hi).flatMap fun x => bytes64 x.bits.toNat) ++ leBytes 8 (numOfBytes (bitBytes ((r.scalars hi).map (·.p)))) ++
    ((r.p.toList.drop 1).flatMap fun p => leBytes 4 (halfMask p.val hi) ++ leBytes 4 (halfMask p.poi hi)) ++
    (r.b.toList.flatMap fun x => leBytes 32 x.toNat) ++ (r.m.toList.flatMap fun x => leBytes 16 x.toNat) ++
    (w.cb.toList.flatMap fun c => bytes64 (codebookHead c)) ++
    bytes64 (halfMask w.env.hsaveMask hi) ++ bytes64 (bit w.env.hsaveSlot 0) ++ zeros 112 ++
    (w.cb.toList.flatMap codebookBytes) ++ (w.savedSegs seg).flatMap fun n => r.segBytes n hi

def tileBytes (t : Tile) : List Byte :=
  let es := (List.range 1024).map fun i => t.elems.get LaneVal.zero i
  (es.flatMap fun e => leBytes 4 e.bits.toNat) ++ bitBytes (es.map (·.p)) ++
    (t.rs.toList.flatMap fun x => leBytes 2 x.toNat) ++ (t.cs.toList.flatMap fun x => leBytes 2 x.toNat)

def pageBytes (m : FMap LaneVal) (n : Nat) : List Byte :=
  let ws := (List.range 1024).map fun i => m.get LaneVal.zero (1024 * n + i)
  (ws.flatMap fun w => leBytes 4 w.bits.toNat) ++ bitBytes (ws.map (·.p))

/-- The waves of a workgroup that have not exited, in ascending index. -/
def State.liveWaves (s : State) (wg : Nat) : List (Nat × Wave) := (s.wavesOfWg wg).filter fun e => e.2.st != .exited

/-- The scratchpad pages that are saved. -/
def savedPages (ws : List Wave) (pages : Nat) : List Nat :=
  (List.range pages).filter fun n => ws.any fun w => w.pre.full || w.pre.ranges.any fun r => decide (r.1 ≤ n ∧ n < r.1 + r.2)

def imageHead (g : Wg) (ws : List Wave) (pages : List Nat) (size : Nat) : List Byte :=
  let mask := ws.foldl (fun m w => m ||| w.id.bits) 0#32
  leBytes 4 0x01000153 ++ leBytes 4 g.index.toNat ++ bytes64 g.ltag.toNat ++ bytes64 size ++ leBytes 4 mask.toNat ++
    leBytes 4 ((List.range 32).map fun t => bit (g.tile t).sat t).sum ++ (g.g.toList.flatMap fun x => bytes64 x.bits.toNat) ++
    bytes64 (numOfBytes (bitBytes (g.g.toList.map (·.p)))) ++ bytes64 g.kern.acct ++
    (g.bars.toList.flatMap fun x => leBytes 4 x.toNat) ++ leBytes 16 (pages.map fun n => 2 ^ n).sum ++ zeros 64

/-- The image after its header. -/
def imageBody (g : Wg) (ws : List Wave) (pages : List Nat) : List Byte :=
  ((List.range g.kern.acct).flatMap fun t => tileBytes (g.tile t)) ++ (pages.flatMap fun n => pageBytes g.scratch n) ++
    ws.flatMap fun w => w.record g.kern.seg false ++ if w.id.paired then w.record g.kern.seg true else []

/-- A workgroup image. -/
def imageBytes (g : Wg) (ws : List Wave) : List Byte :=
  let pages := savedPages ws g.kern.pages
  let body := imageBody g ws pages
  imageHead g ws pages (256 + body.length) ++ body

/-- The size of the smallest image the workgroup can have: no page and no segment saved. -/
def Kernel.leastImage (k : Kernel) (halves : Nat) : Nat := 256 + 4352 * k.acct + 5888 * halves

/-- The lowest free run of whole 4 KiB units of the save area (R261). -/
def Ctx.imageRun (c : Ctx) (wg size : Nat) : Option Nat :=
  let taken := (c.images.filter fun e => e.1 != wg).map (·.2)
  ((List.range (c.saveSize / 4096 + 1)).map fun i => c.saveBase + 4096 * i).find? fun a =>
    decide (a + size ≤ c.saveBase + c.saveSize) && taken.all fun t => decide (a + size ≤ t.1) || decide (t.1 + t.2 ≤ a)

def Ctx.placeImage (c : Ctx) (wg base len : Nat) : Ctx := { c with images := c.images.filter (fun e => e.1 != wg) ++ [(wg, base, len)] }

def units4k (n : Nat) : Nat := (n + 4095) / 4096 * 4096

/-! ## The request -/

/-- A pre-emption request: whether it is accepted, and the state. One is refused when no run is free for the smallest image that can
come of it; whether the image as it will be has a run is seen when it is written (R261, log entry 50). -/
def State.preempt (s : State) (wg : Nat) : Bool × State :=
  match s.wgs.find wg with
  | none => (false, s)
  | some g =>
    if !(g.st == .placed || g.st == .shedding || g.st == .shed) || (s.liveWaves wg).isEmpty then (false, s)
    else
      let halves := ((s.liveWaves wg).map fun e => if e.2.id.paired then 2 else 1).sum
      match (s.ctxAt g.asid.toNat).imageRun wg (units4k (g.kern.leastImage halves)) with
      | none => (false, s)
      | some _ =>
        let s := s.setWgAt wg { g with st := .preempting, preReq := true }
        (true, (s.liveWaves wg).foldl (fun s e => s.requestWave e.1) s)

/-- The greatest base priority of a workgroup's waves. -/
def State.basePrio (s : State) (wg : Nat) : Nat := (s.liveWaves wg).foldl (fun m e => max m e.2.env.shedBase.toNat) 0

/-- R142, R260: may the scheduler or the power arbiter ask for this workgroup: a launch of greater priority waits for room, or the
workgroup is shed? -/
def State.mayPreempt (s : State) (wg : Nat) : Bool :=
  (s.wgAt wg).st == .shed || s.launches.any fun e => e.2.waiting && decide (s.basePrio wg < e.2.prio.toNat)

def execPreemptionRequest (wg : Nat) (s : State) : Out := if s.mayPreempt wg then .next (s.preempt wg).2 else .next s

/-- R260: a wave is taken: at its IDEM, in another state, or after 2 × PHINTMAX instructions. -/
def execPreemptInstructionLimit (k : Nat) (s : State) : Out :=
  match s.waves.find k with
  | none => .next s
  | some w =>
    if w.st != .preempting || w.pre.taken || w.mwait.isSome then .next s
    else if w.taken then .next (s.takeWave k)
    else if 2 * (s.wgAt w.id.wgKey).kern.phintmax ≤ w.pre.since then
      .next (s.setWaveAt k { w with pre := { w.pre with taken := true, full := true } })
    else .next s

/-! ## The save (R260) -/

/-- What is finished before a wave's record is written: results, codebooks, stores, and the release at `.dev` (R208). What a
reproducible wave holds for its commit stays held; its earlier commits are released. -/
def State.quiesce (s : State) (k : Nat) : State :=
  let s := s.flushPend k
  let s := s.modWaveAt k fun w => { w with cb := w.cb.map fun c => { c with ready := c.valid, remote := [], pages := [] }, mwait := none, stallOn := [],
                                           held := if w.held == .parkedS then .ready else w.held }
  let s := if (s.waveAt k).repro then s else s.drainFifo k
  (s.releaseCaches k 4).flushPend k

def CycEff.slot : CycEff → Nat
  | .g n _ _ _ => n
  | .cls n _ _ => n
  | .shed n _ _ _ => n
  | .hstat n _ _ _ => n
  | .reap n _ => n

/-- What stood over to the end of the cycle takes effect (R112, R144, R311, R417, R439). -/
def State.applyCycEff (s : State) : CycEff → State
  | .g _ wg i v => if (s.wgs.find wg).isSome then s.modWgAt wg fun g => { g with g := g.g.set! i v } else s
  | .cls _ wg c => { s with waves := s.waves.map fun (e : Nat × Wave) =>
      if (e.2.id.wgKey == wg) = true then (e.1, { e.2 with env := { e.2.env with shedClass := c } }) else e }
  | .shed _ k c b =>
    if (s.waves.find k).isNone then s
    else
      let s := s.modWaveAt k fun w => { w with env := { w.env with shedClass := c, shedBase := b } }
      s.modWaveAt k fun w => { w with env := { w.env with eff := BitVec.ofNat 3 (s.inheritedEff s.waves.length k) } }
  | .hstat _ _ asid m => s.modCtxAt asid fun c => { c with ilr := c.ilr && !m.getLsbD 0, ilf := c.ilf && !m.getLsbD 1 }
  | .reap _ wg => s.reap wg

/-- Such effects take place in the order of their slots, the highest last (R112). -/
def State.applyCycEffs (s : State) (l : List CycEff) : State :=
  (l.mergeSort fun a b => decide (a.slot ≤ b.slot)).foldl (fun s e => s.applyCycEff e) s

/-- Does an effect act on this workgroup or one of its waves? -/
def State.cycOfWg (s : State) (wg : Nat) : CycEff → Bool
  | .g _ w _ _ | .cls _ w _ => w == wg
  | .shed _ k _ _ => (s.waveAt k).id.wgKey == wg
  | .hstat .. | .reap .. => false

/-- A workgroup that is saved takes what this cycle still has to write into its g registers and its waves (R112, R144). -/
def State.settleWg (s : State) (wg : Nat) : State :=
  ({ s with endOfCycle := s.endOfCycle.filter fun e => !s.cycOfWg wg e }).applyCycEffs (s.endOfCycle.filter (s.cycOfWg wg))

/-- No run of the save area holds the image: the request is refused after all, and the workgroup goes on where it was taken (R261). A wave that
was Shed is so again only if its class is still cut (R114). -/
def State.refuseSave (s : State) (wg : Nat) : State :=
  let back (cut : Bool) (w : Wave) : Wave :=
    { w with st := if w.pre.shed && cut then .shed else w.held, pre := { w.pre with taken := false, full := false } }
  let ks := ((s.liveWaves wg).filter fun e => e.2.st == .preempting).map (·.1)
  let s := ks.foldl (fun s k => (s.modWaveAt k (back (s.isCut k))).shedIfCut k) s
  let s := s.modWgAt wg fun g => { g with st := .placed, preReq := false }
  let s := if s.sys.actPre = some wg then
      { s with sys := { s.sys with actCmd := s.sys.actCmd.set 0#64 0 0x102#64, actPre := none } }
    else s
  s.markWg wg

/-- May the image be written: every wave taken, no matrix command, no copy on the allocation (R78, R90)? -/
def State.maySave (s : State) (wg : Nat) : Bool :=
  (s.wgAt wg).st == .preempting && !(s.liveWaves wg).isEmpty && ((s.liveWaves wg).all fun e => e.2.st == .preempting && e.2.pre.taken) &&
    (s.wgAt wg).mma.isEmpty && !(s.eng.copies.any fun e => e.2.wg == wg && !e.2.finished && ((copyDesc e.2.block).ssp || (copyDesc e.2.block).dsp))

def execWorkgroupSave (wg : Nat) (s : State) : Out :=
  if !s.maySave wg then .next s
  else
    let s := ((s.wavesOfWg wg).foldl (fun s e => s.quiesce e.1) s).settleWg wg
    let g := s.wgAt wg
    let ws := s.liveWaves wg
    let img := imageBytes g (ws.map (·.2))
    let size := units4k img.length
    match (s.ctxAt g.asid.toNat).imageRun wg size with
    | none => .next (s.refuseSave wg)
    | some a =>
      let s := s.modCtxAt g.asid.toNat fun c => c.placeImage wg a size
      let s := s.gatherHome ((List.range img.length).map (a + ·))
      let s := s.homeWrite (((List.range img.length).map (a + ·)).zip img)
      let s := ws.foldl (fun s e => s.modWaveAt e.1 fun w => { w with st := .saved }) s
      let s := s.setWgAt wg { g with st := .saved, segs := [], pages := [], tilesPhys := [], ext := [], scratch := [], tiles := [],
                                     image := some (a, img.length), preReq := false }
      .next (s.endActPre (· == wg)).suspendLocks

/-! ## The restore (R264) -/

/-- Bit `i` of a field. -/
def bitAt (b : List Byte) (off i : Nat) : Bool := (b.getD (off + i / 8) 0#8).getLsbD (i % 8)

def num64 (b : List Byte) (off : Nat) : Word64 := BitVec.ofNat 64 (fieldOf b off 8)

/-- A half's 32 lanes, placed. -/
def placeHalf (old new : Lanes) (hi : Bool) : Lanes :=
  if hi then (old &&& 0xFFFFFFFF#64) ||| (new <<< 32) else (old &&& ~~~0xFFFFFFFF#64) ||| (new &&& 0xFFFFFFFF#64)

def slotOf (old : Option PcSlot) (b : List Byte) (off : Nat) (hi : Bool) : Option PcSlot :=
  if !bitAt b (off + 24) 0 then none
  else
    let m := placeHalf ((old.map (·.mask)).getD 0#64) (num64 b (off + 8)) hi
    some ⟨num64 b off, m, fieldOf b (off + 16) 8, bitAt b (off + 24) 1⟩

def codebookOf (b : List Byte) (i : Nat) : Codebook :=
  let h := fieldOf b (0x560 + 8 * i) 8
  let at_ := 0x600 + 1088 * i
  { valid := h.testBit 0, ready := h.testBit 0, iw := h / 2 % 16, ef := h / 2 ^ 5 % 8,
    entries := (List.range 256).foldl (fun m n =>
      m.set LaneVal.zero n ⟨BitVec.ofNat 32 (fieldOf b (at_ + 4 * n) 4), bitAt b (at_ + 1024) n⟩) [], remote := [], pages := [] }

/-- The vector registers of the saved segments. -/
def loadSegs (v : FMap LaneVal) (b : List Byte) (segs : List Nat) (hi : Bool) : FMap LaneVal :=
  ((List.range segs.length).zip segs).foldl (fun v e =>
    let at_ := 0x1700 + 4224 * e.1
    (List.range 1024).foldl (fun v i =>
      v.set LaneVal.zero (64 * (32 * e.2 + i / 32) + i % 32 + if hi then 32 else 0)
        ⟨BitVec.ofNat 32 (fieldOf b (at_ + 4 * i) 4), bitAt b (at_ + 4096) i⟩) v) v

def wstSegs (b : List Byte) : List Nat := (List.range 8).filter fun n => bitAt b 0x40 (27 + n)

/-- Load a wave's registers and environment from its record, or one half of a pair. -/
def Wave.loadRecord (w : Wave) (b : List Byte) (hi : Bool) : Wave :=
  let wst := fieldOf b 0x40 8
  let preds : Vector PredVal 8 := Vector.ofFn fun i =>
    let o := w.regs.p[i]
    if i.val = 0 then o
    else ⟨placeHalf o.val (BitVec.ofNat 64 (fieldOf b (0x2A8 + 8 * (i.val - 1)) 4)) hi,
          placeHalf o.poi (BitVec.ofNat 64 (fieldOf b (0x2AC + 8 * (i.val - 1)) 4)) hi⟩
  let scal (i : Nat) : ScalVal := ⟨num64 b (0x120 + 8 * i), bitAt b 0x2A0 i⟩
  let regs : Regs :=
    { v := loadSegs w.regs.v b (wstSegs b) hi,
      s := if hi then w.regs.s else Vector.ofFn fun i => scal i.val,
      sHi := if hi then (List.range 48).foldl (fun m i => if w.regs.s[i]? = some (scal i) then m else m.put i (scal i)) [] else [],
      p := preds,
      b := Vector.ofFn fun i => BitVec.ofNat 256 (fieldOf b (0x2E0 + 32 * i.val) 32),
      m := Vector.ofFn fun i => BitVec.ofNat 128 (fieldOf b (0x4E0 + 16 * i.val) 16),
      wbase := BitVec.ofNat 8 (wst / 2 ^ 19) }
  let half : Half :=
    { fflags := (num64 b 0x68).setWidth 6, faddr := num64 b 0x90, fmask := num64 b 0x98,
      pois := Vector.ofFn fun i => num64 b (0xA0 + 8 * i.val), turn := BitVec.ofNat 4 (wst / 2 ^ 35) }
  let env : Env :=
    { w.env with fmode := (num64 b 0x60).setWidth 6, ftv := (num64 b 0x70).setWidth 8, shedClass := (num64 b 0x78).setWidth 3,
                 shedBase := (num64 b 0x78).extractLsb' 3 3, cause := num64 b 0x80, epc := num64 b 0x88, hm := wst.testBit 3,
                 hsaveSlot := bitAt b 0x588 0, hsaveMask := placeHalf w.env.hsaveMask (num64 b 0x580) hi }
  let pcs : Pcs :=
    { w.pcs with slot0 := slotOf w.pcs.slot0 b 0 hi, slot1 := slotOf w.pcs.slot1 b 0x20 hi, nextSeq := fieldOf b 0x48 8,
                 depth := wst / 2 ^ 6 % 2 ^ 13 }
  ({ w with regs := regs, env := env, pcs := pcs, cb := Vector.ofFn fun i => codebookOf b i.val, qclk := num64 b 0x50,
            idem := { w.idem with idv := wst.testBit 4, pc := num64 b 0x58 } }).setHalf hi half

/-- The state that WST records; a wave whose wait DEADLOCK has ended meanwhile is Ready. -/
def Wave.recorded (w : Wave) (b : List Byte) : WaveSt :=
  match fieldOf b 0x40 1 % 8 with
  | 1 => .parkedFault
  | 2 => if w.wait.isSome then .waitReg else .ready
  | 3 => if w.wait.isSome then .waitUnreg else .ready
  | 4 => .shed
  | _ => .ready

def loadTile (b : List Byte) (at_ : Nat) (sat : Bool) : Tile :=
  { elems := (List.range 1024).foldl (fun m i =>
      m.set LaneVal.zero i ⟨BitVec.ofNat 32 (fieldOf b (at_ + 4 * i) 4), bitAt b (at_ + 4096) i⟩) [],
    sat := sat,
    rs := Vector.ofFn fun i => BitVec.ofNat 16 (fieldOf b (at_ + 4224 + 2 * i.val) 2),
    cs := Vector.ofFn fun i => BitVec.ofNat 16 (fieldOf b (at_ + 4288 + 2 * i.val) 2) }

def loadPage (m : FMap LaneVal) (b : List Byte) (at_ n : Nat) : FMap LaneVal :=
  (List.range 1024).foldl (fun m i =>
    m.set LaneVal.zero (1024 * n + i) ⟨BitVec.ofNat 32 (fieldOf b (at_ + 4 * i) 4), bitAt b (at_ + 4096) i⟩) m

/-- The saved pages that the header names, and where the wave records begin. -/
def imagePages (b : List Byte) : List Nat := (List.range 128).filter fun n => bitAt b 0xB0 n
def imageRecords (b : List Byte) : Nat := 256 + 4352 * (fieldOf b 0x68 1 % 64) + 4224 * (imagePages b).length

/-- Load what a workgroup's waves share. An arrival withdrawn meanwhile stays withdrawn. -/
def Wg.loadImage (g : Wg) (b : List Byte) : Wg :=
  let nt := fieldOf b 0x68 1 % 64
  let pages := imagePages b
  let g := (List.range nt).foldl (fun g t => g.setTile t (loadTile b (256 + 4352 * t) (bitAt b 0x1C t))) g
  { g with
    scratch := ((List.range pages.length).zip pages).foldl (fun m e => loadPage m b (256 + 4352 * nt + 4224 * e.1) e.2) [],
    g := Vector.ofFn fun i => ⟨num64 b (0x20 + 8 * i.val), bitAt b 0x60 i.val⟩,
    bars := Vector.ofFn fun i => g.bars[i] &&& BitVec.ofNat 32 (fieldOf b (0x70 + 4 * i.val) 4) }

/-- The core a saved workgroup is restored on: of a cluster launch, its own (R238); else by R142 on its own die (R24). Where that die has
failed it receives no placements any more (R25), and the workgroup goes where R24 would place it (log entry 50). -/
def State.restoreCore (s : State) (wg : Nat) : Option Nat × List Nat :=
  let g := s.wgAt wg
  if g.clustered then
    let gc := 4 * (32 * g.die + g.core / 4) + g.cwg.toNat
    if s.sys.chlth.getLsbD g.die && s.fitsCore g.kern gc then
      if !g.kern.ws || s.gateAdmits g.die wg then (some gc, []) else (none, [g.die])
    else (none, [])
  else if s.sys.chlth.getLsbD g.die then s.findCore g.kern [g.die] wg
  else match s.placeClass g.kern with
    | none => (none, [])
    | some cls => s.findCore g.kern (s.healthyDies cls) wg

/-- One wave of a restored workgroup: its registers, its state, an acquire at `.dev` (R208), and a DEADLOCK that waited for its
slot. One that was Shed goes back to the state before that when its class is no longer cut (R114). `at_` is where its record begins. -/
def State.restoreWave (s : State) (g : Wg) (gr : Grant) (gc : Nat) (img : List Byte) (at_ k : Nat) : State :=
  let w := s.waveAt k
  let i := if w.id.paired then w.id.index.toNat / 2 else w.id.index.toNat
  let b := img.drop at_
  let blank : Regs := { Regs.start with p := w.regs.p }
  let w := ({ w with regs := blank }).loadRecord b false
  let w := if w.id.paired then w.loadRecord (b.drop (0x1700 + 4224 * (wstSegs b).length)) true else w
  let st := w.recorded b
  let w := { w with id := { waveIdOf g gr gc i with wg := w.id.wg, index := w.id.index }, st := st,
                    held := if st == .shed then w.held else st, pre := Preempt.start, age := 0, mwait := none, stallOn := [] }
  let s := (s.setWaveAt k w).acquireCaches w.id 4
  match w.trapPend with
  | some t =>
    if w.id.repro && (s.ctxAt w.id.asid.toNat).vectors w.env.hm t then s
    else (s.modWaveAt k fun w => { w with trapPend := none }).takeTrapAt k w.pcs.lastIssued t
  | none => if st == .shed && !s.isCut k then s.modWaveAt k fun w => { w with st := w.held } else s.shedIfCut k

/-- A wave takes MCHK from outside its instructions, with the physical address of the error, or 0 (R250). -/
def State.mchkWave (s : State) (k pa : Nat) : State :=
  let w := s.waveAt k
  s.takeTrapAt k w.pcs.lastIssued (Trap.plain .mchk (BitVec.ofNat 64 pa) (BitVec.ofNat 64 (2 ^ w.lanes - 1)))

/-- Restore a workgroup on a core; an unreadable image ends its waves with MCHK. A cluster barrier's completion that was held for it
reaches every participant (R238). -/
def State.restoreOn (s : State) (wg gc : Nat) : State :=
  let g := s.wgAt wg
  let asid := g.asid.toNat
  let (a, n) := g.image.getD (0, 0)
  let gr := s.grant g.kern gc
  let args := pktArgs (s.launchAt (launchOfWg wg)).packet
  let pas := (List.range n).map (a + ·)
  let s := ((g.kern.records args).foldl (fun s a => s.hubTouch asid a 32) (s.gatherHome pas)).homeTouches pas
  let img := pas.map s.homeRead
  let s := s.modCtxAt asid fun c => { c with images := c.images.filter fun e => e.1 != wg }
  let g := { g with st := .placed, die := gc / 128, core := gc % 128, segs := gr.segs, pages := gr.pages, tilesPhys := gr.tiles,
                    image := none, ext := s.extentTable asid args g.kern }
  let ws := s.liveWaves wg
  match pas.find? s.ueAt with
  | some x => ws.foldl (fun s e => s.mchkWave e.1 x) ((s.setWgAt wg g).gateLeave (.wg wg))
  | none =>
    let s := (s.setWgAt wg (g.loadImage img)).gateLeave (.wg wg)
    let r := ws.foldl (fun (r : Nat × State) e =>
      let len := 0x1700 + 4224 * (wstSegs (img.drop r.1)).length
      (r.1 + (if e.2.id.paired then 2 * len else len), r.2.restoreWave g gr gc img r.1 e.1)) (imageRecords img, s)
    ((r.2.resumeLocks asid gc).markWg wg).completeCbars wg

/-- Does another saved workgroup come first: one of a greater restore priority that can be restored now (R234)? -/
def State.restoresFirst (s : State) (wg : Nat) : Bool :=
  s.wgs.any fun e => e.1 != wg && e.2.st == .saved && decide (s.restorePrio wg < s.restorePrio e.1) && (s.restoreCore e.1).1.isSome

def execWorkgroupRestore (wg : Nat) (s : State) : Out :=
  match s.wgs.find wg with
  | none => .next s
  | some g =>
    if g.st != .saved || s.restoresFirst wg then .next s
    else
      let r := s.restoreCore wg
      let s := r.2.foldl (fun s d => s.gateJoin d (.wg wg)) s
      match r.1 with
      | none => .next s
      | some gc => .next (s.restoreOn wg gc)

end Sys2Proof.Machine
end

