-- ==== Sys2Proof/Machine/EvMem.lean ====
section
/-!
DEFINITION. Invalidation tickets as they are delivered and acknowledged (R286 to R289), and changes of cluster scratch (R188,
R189).
-/

namespace Sys2Proof.Machine

/-! ## Invalidation -/

def State.setTickets (s : State) (asid : Nat) (t : Tickets) : State := { s with tlbs := { s.tlbs with tickets := s.tlbs.tickets.put asid t } }

/-- Does a ticket cover a piece? A length of zero covers the whole address space. -/
def Ticket.hits (t : Ticket) (p : Piece) : Bool := t.len == 0 || (decide (p.vbase < t.start + t.len) && decide (t.start < p.vlim))

/-- An extent entry that an invalidation has dropped: it covers no address and reads as zero, V clear (log entry 36). -/
def Piece.gone : Piece :=
  { asid := 0, vbase := 0, vlim := 0, pbase := 0, r := false, w := false, x := false, mt := 0#2, decl := 0 }

/-- Does a ticket cover a virtual page? -/
def Ticket.hitsPage (t : Ticket) (page : Nat) : Bool :=
  t.len == 0 || (decide (4096 * page < t.start + t.len) && decide (t.start < 4096 * page + 4096))

/-- Every extent table and range TLB drops the pieces of an ASID that a ticket covers. The other extents keep their entries (R273). -/
def State.dropPieces (s : State) (asid : Nat) (t : Ticket) : State :=
  let keep (p : Piece) : Bool := !(p.asid == asid && t.hits p)
  let drop (p : Piece) : Piece := if keep p = true then p else Piece.gone
  let prune (m : FMap (List Piece)) : FMap (List Piece) := m.map fun (e : Nat × List Piece) => (e.1, e.2.filter keep)
  { s with
    wgs := s.wgs.map fun (e : Nat × Wg) => (e.1, { e.2 with ext := e.2.ext.map drop }),
    launches := s.launches.map fun (e : Nat × Launch) => (e.1, { e.2 with ext := e.2.ext.map drop }),
    tlbs := { s.tlbs with cluster := prune s.tlbs.cluster, die := prune s.tlbs.die } }

/-- The pages of an access that a ticket covers are marked with it: of several tickets that overtake a page, the lowest one stands, as
tickets are acknowledged in their order (R287). -/
def Ticket.mark (t : Ticket) (ps : List VPage) : List VPage :=
  ps.map fun p => if (p.2 = 0 ∨ t.num < p.2) ∧ t.hitsPage p.1 = true then (p.1, t.num) else p

/-- Has this ticket overtaken one of the pages: was the access translated under the old mapping? -/
def overtaken (n : Nat) (ps : List VPage) : Bool := ps.any fun p => p.2 == n

/-- The pages of an effect, marked by a ticket. -/
def Eff.mark (t : Ticket) : Eff → Eff
  | .store cs nc up bytes ps => .store cs nc up bytes (t.mark ps)
  | .atom cs op ord lanes pc dst ps => .atom cs op ord lanes pc dst (t.mark ps)
  | .trylk pa clk dst ps => .trylk pa clk dst (t.mark ps)
  | .unlock pa ps => .unlock pa (t.mark ps)
  | e => e

/-- The pages of an effect. -/
def Eff.pages : Eff → List VPage
  | .store _ _ _ _ ps => ps
  | .atom _ _ _ _ _ _ ps => ps
  | .trylk _ _ _ ps => ps
  | .unlock _ ps => ps
  | _ => []

/-- What a wave has in its FIFO, or holds for its commit, and its reads of remote memory that are under way. -/
def Wave.markOut (w : Wave) (t : Ticket) : Wave :=
  { w with fifo := w.fifo.map (Eff.mark t), pend := w.pend.map fun p => { p with pages := t.mark p.pages },
           cb := w.cb.map fun c => { c with pages := t.mark c.pages } }

/-- Every access of a context that has been translated and not yet performed is marked where a ticket overtakes it: those of its waves, the
stores and atomics that have left for other devices, and what engine commands hold for a commit. -/
def State.markOut (s : State) (asid : Nat) (t : Ticket) : State :=
  { s with
    waves := s.waves.map fun (e : Nat × Wave) => if e.2.id.asid.toNat == asid then (e.1, e.2.markOut t) else e,
    eng := { s.eng with
      outbox := s.eng.outbox.map fun x => if x.asid == asid then { x with pages := t.mark x.pages } else x,
      copies := s.eng.copies.map fun (e : Nat × Copy) => if e.2.asid == asid then (e.1, { e.2 with pages := t.mark e.2.pages }) else e,
      colls := s.eng.colls.map fun (e : Nat × Collective) => if e.2.asid == asid then (e.1, { e.2 with pages := t.mark e.2.pages }) else e } }

/-- The waits on words that a ticket covers are translated anew, and the belay table's objects follow them (R289). -/
def State.moveWaits (s : State) (asid : Nat) (t : Ticket) : State :=
  let s := s.waves.foldl (fun s e => match e.2.wait with
    | some x =>
      if e.2.id.asid.toNat == asid && (x.kind == .lock || x.kind == .waitv) && t.hitsPage (x.key.toNat / 4096) then
        s.moveWait e.1 ((s.waitWordAt e.1 x).getD nowhere)
      else s
    | none => s) s
  let place (n : Nat) (o : ObjEnt) : Nat :=
    (((s.belay.waits.find? fun e => e.2.obj == n).bind fun e => (s.waveAt e.2.waiter).wait).map (·.pa)).getD o.pa
  { s with belay := { s.belay with objs := s.belay.objs.map fun (e : Nat × ObjEnt) =>
      if e.2.asid == asid && (e.2.kind == .lock || e.2.kind == .waitv) then (e.1, { e.2 with pa := place e.1 e.2 }) else e } }

/-- R286: the invalidation reaches every unit. -/
def execAtinvDelivery (asid ticket : Nat) (s : State) : Out :=
  let ts := s.ticketsOf asid
  match ts.open_.find? fun t => t.num == ticket && !t.delivered with
  | none => .next s
  | some t =>
    let t' := { t with delivered := true }
    let s := s.setTickets asid { ts with open_ := ts.open_.map fun u => if u.num = ticket then t' else u }
    .next (((s.dropPieces asid t).markOut asid t).moveWaits asid t)

/-- Has a wave an access that the ticket has overtaken and that is not performed: in its FIFO, held for a commit, or a read of remote
memory? -/
def Wave.accessOut (w : Wave) (n : Nat) : Bool :=
  (w.fifo.any fun e => overtaken n e.pages) || (w.pend.any fun p => overtaken n p.pages) || w.cb.toList.any fun c => overtaken n c.pages

/-- Is an access that the ticket has overtaken still on its way (R287)? One to another device is until that has acknowledged it. -/
def State.accessOut (s : State) (asid n : Nat) : Bool :=
  (s.waves.any fun e => e.2.id.asid.toNat == asid && e.2.accessOut n) ||
    (s.eng.outbox.any fun x => x.asid == asid && !x.acked && overtaken n x.pages) ||
    (s.eng.copies.any fun e => e.2.asid == asid && overtaken n e.2.pages) ||
    s.eng.colls.any fun e => e.2.asid == asid && overtaken n e.2.pages

/-- Every write-combining buffer and slice writes back, and every L1 and clean line is dropped: the old frames' lines, and, as the
model does not record which lines those are, all others with them (log entry 40). -/
def State.flushAll (s : State) : State :=
  let s := s.releaseAll
  { s with caches := { s.caches with l1 := [], l2 := s.caches.l2.filter fun e => e.2.dirty } }

def State.opnd (s : State) (n : Nat) : Word64 := s.sys.actOpnd.get 0#64 n
def State.setOpnd (s : State) (n : Nat) (x : Word64) : State := { s with sys := { s.sys with actOpnd := s.sys.actOpnd.set 0#64 n x } }

/-- The status a read of CMD returns (R317). -/
def State.setAct (s : State) (n status reason : Nat) : State :=
  { s with sys := { s.sys with actCmd := s.sys.actCmd.set 0#64 n (BitVec.ofNat 64 (status + 256 * reason)) } }

/-- Action 3 issues its ticket, which its OPND reads from then on (R317). -/
def State.actTicket (s : State) (asid va n : Nat) : State :=
  let (num, s) := s.newTicket asid va n
  (s.setOpnd 3 (BitVec.ofNat 64 num)).setAct 3 0 0

/-- An action 3 that waits goes on once its ASID has fewer than 16 tickets open (R286, R317). The registers speak of the latest action alone:
an older one leaves them as they are. -/
def State.settleInv (s : State) : State :=
  match s.sys.actInv.findIdx? fun e => decide ((s.ticketsOf e.1).open_.length < 16) with
  | none => s
  | some i =>
    match s.sys.actInv[i]? with
    | none => s
    | some (asid, va, n) =>
      let latest := i + 1 == s.sys.actInv.length && s.sys.actCmd.get 0#64 3 == 1#64
      let s := { s with sys := { s.sys with actInv := s.sys.actInv.eraseIdx i } }
      if latest then s.actTicket asid va n else (s.newTicket asid va n).2

/-- Action 5 of the management registers ends with the ticket it waits for (R317). -/
def State.settleSync (s : State) : State :=
  match s.sys.actSync with
  | some (asid, t) =>
    if t ≤ (s.ticketsOf asid).acked then { s with sys := { s.sys with actSync := none, actCmd := s.sys.actCmd.put 5 0#64 } } else s
  | none => s

/-- R287: the oldest ticket of an ASID is acknowledged. -/
def execAtinvAcknowledge (asid ticket : Nat) (s : State) : Out :=
  let ts := s.ticketsOf asid
  match ts.open_ with
  | [] => .next s
  | t :: rest =>
    if t.num != ticket || !t.delivered || s.accessOut asid t.num then .next s
    else .next ((s.flushAll.setTickets asid { ts with acked := t.num, open_ := rest }).settleSync).settleInv

/-! ## Cluster scratch -/

def State.setCsctl (s : State) (cl : Nat) (c : CsCtl) : State := { s with caches := { s.caches with csctl := s.caches.csctl.set CsCtl.reset cl c } }

/-- R188. -/
def execCsctlWrite (cluster : Nat) (value : BitVec 64) (s : State) : Out :=
  let c := s.csctlAt cluster
  let ways : BitVec 4 := value.setWidth 4
  let owner : BitVec 10 := value.extractLsb' 4 10
  if 512 ≤ cluster then .next s
  else if c.pend || decide (12 < ways.toNat) then .next (s.setCsctl cluster { c with err := true })
  else .next (s.setCsctl cluster { c with
    ways := ways, owner := owner, err := c.err && !value.getLsbD 17, pend := ways != c.ways || owner != c.owner })

/-- Is a wave of the context resident on a core of the cluster? -/
def State.residentIn (s : State) (cl asid : Nat) : Bool :=
  s.waves.any fun e => e.2.resides && e.2.id.cluster == cl && e.2.id.asid.toNat == asid

/-- R189: the scratch after a change: ways that leave are empty, ways that join are zero, a new owner finds zeros. -/
def State.carve (s : State) (cl : Nat) (c : CsCtl) : State :=
  let keep (k : Nat) : Bool := keyUnit k != cl ||
    (c.curOwner == c.owner.toNat && decide (keyAddr k < 2 ^ 18 * min c.cur c.ways.toNat))
  { s with caches := { s.caches with cscr := s.caches.cscr.filter fun e => keep e.1 } }

/-- The lines of a slice that find no place in `ways` ways leave it, written back; which of a set they are is free (R189). -/
def State.narrowL2 (s : State) (cl ways : Nat) : State :=
  (linesOf ((s.caches.l2.filter fun e => keyUnit e.1 == cl).map fun e => keyAddr e.1)).foldl (fun s line =>
    let ls := setLines s.caches.l2 cl 2048 line
    if ways < ls.length then
      match ls[Config.victim s.tick line % ls.length]? with
      | some v => s.evictL2 cl v
      | none => s
    else s) s

/-- R189: a pending change completes. Ways that become scratch are written back and empty. -/
def execCsctlChangeComplete (cluster : Nat) (s : State) : Out :=
  let c := s.csctlAt cluster
  let waits := decide (c.ways.toNat < c.cur) || c.owner.toNat != c.curOwner
  if !c.pend || (waits && s.residentIn cluster c.curOwner) then .next s
  else .next (((s.narrowL2 cluster (16 - c.ways.toNat)).carve cluster c).setCsctl cluster { c with cur := c.ways.toNat, curOwner := c.owner.toNat, pend := false })

end Sys2Proof.Machine
end

