-- ==== Sys2Proof/Machine/EvSystem.lean ====
section
/-!
DEFINITION. System events: semaphore configuration (R227), contexts (R318, R267, R330), starts (R327), dies (R25, R328), errors (R268),
device time (R321), the actions of the management registers (R317) and the registers that only store their fields (R316),
attestation (R329).
-/

namespace Sys2Proof.Machine

/-! ## Semaphore configuration -/

def semcfgMask (v : Word64) : Word64 := v &&& 0x7FF#64

/-- Does a command of an engine of a cluster name this semaphore, device or cluster? -/
def namesSem (dev : Bool) (index : Nat) (d : Bool) (cluster i : Nat) : Bool := d == dev && (if d then i else 256 * cluster + i) == index

/-- Increments that are still on their way to a semaphore from its previous owner's waves, engines and launches are discarded (R227): held
SEMSIGs, and those of commands and launches that have ended and have not completed. -/
def State.dropIncrements (s : State) (dev : Bool) (index owner : Nat) : State :=
  let names := namesSem dev index
  let signal (w : Wave) : Eff → Bool
    | .semsig d i _ => names d w.id.cluster i
    | _ => false
  let mine (w : Wave) : Wave := if w.id.asid.toNat == owner then { w with fifo := w.fifo.filter fun x => !signal w x } else w
  let copy (c : Copy) : Copy :=
    let d := copyDesc c.block
    { c with mute := c.mute || (c.asid == owner && c.finished && d.semv && names d.semd c.cluster d.semidx) }
  let coll (c : Collective) : Collective :=
    { c with mute := c.mute || (c.asid == owner && c.status.isSome && collSemv c.block && names true 0 (collSem c.block)) }
  let launch (k : Nat) (l : Launch) : Launch :=
    { l with mute := l.mute || (k / 2 ^ 16 == owner && l.over && pktSigv l.packet && names true 0 (pktSigidx l.packet)) }
  { s with
    waves := s.waves.map fun (e : Nat × Wave) => (e.1, mine e.2),
    launches := s.launches.map fun (e : Nat × Launch) => (e.1, launch e.1 e.2),
    eng := { s.eng with copies := s.eng.copies.map (fun (e : Nat × Copy) => (e.1, copy e.2)),
                        colls := s.eng.colls.map fun (e : Nat × Collective) => (e.1, coll e.2) } }

/-- R227: a write that changes the owner or the enabled bit zeroes the count and discards the increments on their way. -/
def execSemcfgWrite (dev : Bool) (index : Nat) (value : BitVec 64) (s : State) : Out :=
  let v := semcfgMask value
  let h := s.hub
  if (if dev then 1024 else 2 ^ 17) ≤ index then .next s
  else
    let old := if dev then h.semcfg.get 0#64 index else h.csemcfg.get 0#64 index
    let s := if old = v then s else s.dropIncrements dev index (old.toNat % 2 ^ 10)
    .next { s with hub :=
      if dev then { h with semcfg := h.semcfg.set 0#64 index v, sem := if old = v then h.sem else h.sem.erase index }
      else { h with csemcfg := h.csemcfg.set 0#64 index v, csem := if old = v then h.csem else h.csem.erase index } }

/-! ## Contexts -/

/-- The descriptor's rules (R318), its index apart. -/
def descriptorBad (b : List Byte) : Bool :=
  fieldOf b 0 4 != 0x010001C7 || fieldOf b 7 1 != 0 || fieldOf b 8 8 % 512 != 0 || fieldOf b 0x10 8 % 4 != 0 ||
    highBits (fieldOf b 0x1C 4) 10 || fieldOf b 0x20 8 % 512 != 0 || fieldOf b 0x28 4 == 0 || decide (256 < fieldOf b 0x28 4) ||
    decide (8192 < fieldOf b 0x2C 2) || decide (2048 < fieldOf b 0x2E 2) || fieldOf b 0x30 8 % 4096 != 0 ||
    fieldOf b 0x38 8 % 4096 != 0 || fieldOf b 0x40 8 % 2 ^ 21 != 0 || fieldOf b 0x48 8 % 2 ^ 21 != 0 || (b.drop 0x68).any (· != 0#8)

/-- The context that a descriptor describes, newly live (log entry 13). A default function-table version other than 1 or 2 is taken
as 1 (R52). -/
def ctxOf (addr : Nat) (b : List Byte) : Ctx :=
  let ctl := fieldOf b 4 4
  { Ctx.dead with
    live := true, stat := 0#3, addr := addr, repro := ctl.testBit 10, qlog := ctl / 2 ^ 11 % 32,
    ftvDefault := if ctl / 2 ^ 16 % 2 ^ 8 = 2 then 2#8 else 1#8,
    root := fieldOf b 8 8, haddr := BitVec.ofNat 64 (fieldOf b 0x10 8), hvec := BitVec.ofNat 32 (fieldOf b 0x18 4),
    fsem := fieldOf b 0x1C 4, recBase := fieldOf b 0x20 8, recSlots := fieldOf b 0x28 4, wquota := fieldOf b 0x2C 2,
    oquota := fieldOf b 0x2E 2, saveBase := fieldOf b 0x30 8, saveSize := fieldOf b 0x38 8, poolBase := fieldOf b 0x40 8,
    poolSize := fieldOf b 0x48 8, dstkBase := fieldOf b 0x50 8, dstkSize := fieldOf b 0x58 8, ckpt := fieldOf b 0x60 8 }

/-- The hub reads bytes at their home by physical address (R198); none where one cannot be read. -/
def State.physRead (s : State) (pa n : Nat) : Option (List Byte × State) :=
  let pas := (List.range n).map (pa + ·)
  if pas.any fun a => isRemote a || s.ueAt a then none
  else
    let s := (s.gatherHome pas).homeTouches pas
    some (pas.map s.homeRead, s)

/-- The hub reads and checks the descriptor at `addr` (R318). -/
def State.activate (s : State) (asid addr : Nat) : State :=
  let refuse (s : State) (st : BitVec 3) : State := s.setCtxAt asid { Ctx.dead with stat := st, addr := addr }
  match s.physRead addr 256 with
  | none => refuse s 1#3
  | some (b, s) =>
    if descriptorBad b then refuse s 1#3
    else if fieldOf b 4 4 % 2 ^ 10 != asid then refuse s 2#3
    else s.setCtxAt asid (ctxOf addr b)

/-- ADDR of a value written to CTXDESC. -/
def ctxAddr (value : BitVec 64) : Nat := value.toNat / 2 ^ 8 % 2 ^ 44 * 2 ^ 8

/-- A write of CTXDESC with V = 1. -/
def execContextActivate (asid : Nat) (value : BitVec 64) (s : State) : Out :=
  if 1024 ≤ asid ∨ !value.getLsbD 0 then .next s
  else if (s.ctxAt asid).live then .next (s.modCtxAt asid fun c => { c with stat := 3#3 })
  else .next (s.activate asid (ctxAddr value))

/-- A context's workgroups leave the gates, also those that hold a place there and have not been placed yet (R92). -/
def State.gateLeaveAll (s : State) (asid : Nat) : State :=
  let other : GateReq → Bool
    | .wg k => k / 2 ^ 64 != asid
    | .copy _ => true
  { s with eng := { s.eng with gates := s.eng.gates.map fun (e : Nat × List GateReq) => (e.1, e.2.filter other) } }

/-- The waves of a context go, with what they have retired performed first where no commit holds it (R255, R267). -/
def State.endWaves (s : State) (asid : Nat) : State :=
  let mine (e : Nat × Wave) : Bool := e.2.id.asid.toNat == asid
  let s := (s.waves.filter mine).foldl (fun s e => if e.2.repro then s else s.drainFifo e.1) s
  let s := (s.gateLeaveAll asid).endActPre (· / 2 ^ 64 == asid)
  { s with
    waves := s.waves.filter fun e => !mine e,
    wgs := s.wgs.filter fun e => e.2.asid.toNat != asid,
    launches := s.launches.filter fun e => e.1 / 2 ^ 16 != asid }

/-- The context's commands at the engines and in the queues are abandoned (R90, R267). -/
def State.endCommands (s : State) (asid : Nat) : State :=
  let s := (s.eng.copies.filter fun e => e.2.asid == asid).foldl (fun s e => s.gateLeave (.copy e.1)) s
  let s := match s.eng.lease with | some l => if l.asid = asid then s.endLease l else s | none => s
  let e := s.eng
  { s with
    eng := { e with copies := e.copies.filter fun x => x.2.asid != asid, colls := e.colls.filter fun x => x.2.asid != asid,
                    leaseReqs := e.leaseReqs.filter fun x => x.asid != asid, leaseRecs := e.leaseRecs.filter fun x => x.asid != asid },
    hub := { s.hub with queues := s.hub.queues.map fun (q : Nat × List (Nat × List Byte)) => (q.1, q.2.filter fun p => p.1 != asid) } }

/-- Its table entries, locks and objects go (R233, R192, R315). -/
def State.endHoldings (s : State) (asid : Nat) : State :=
  let s := (s.harts.objs.filter fun e => e.2.asid == asid).foldl (fun s e => s.revoke e.1 e.2) s
  { s with
    belay := { s.belay with waits := s.belay.waits.filter fun e => e.2.asid != asid, objs := s.belay.objs.filter fun e => e.2.asid != asid },
    caches := { s.caches with locks := s.caches.locks.filter fun l => l.asid != asid } }

/-- The counts of the semaphores that it owns are zero (R227). -/
def State.zeroSems (s : State) (asid : Nat) : State :=
  let owns (cfg : Word64) : Bool := cfg.toNat % 2 ^ 10 == asid
  let h := s.hub
  { s with
    hub := { h with sem := h.sem.filter fun e => !((h.semcfg.find e.1).any owns),
                    csem := h.csem.filter fun e => !((h.csemcfg.find e.1).any owns) } }

/-- A kill (R267): everything of the context ends; its descriptor's address stays. -/
def State.killContext (s : State) (asid : Nat) : State :=
  let addr := (s.ctxAt asid).addr
  ((((s.endWaves asid).endCommands asid).endHoldings asid).zeroSems asid).setCtxAt asid { Ctx.dead with addr := addr }

/-- A write of CTXDESC with V = 0: a live context is killed, and ADDR is stored (R267, R318). -/
def execContextKill (write : CtxdescWrite) (s : State) : Out :=
  if 1024 ≤ write.asid ∨ write.value.getLsbD 0 then .next s
  else
    let s := if (s.ctxAt write.asid).live then s.killContext write.asid else s
    .next (s.modCtxAt write.asid fun c => { c with addr := ctxAddr write.value })

/-! ## Recovery (R330) -/

/-- Entry `n` of a checkpoint directory: source, destination, length (log entry 23). -/
def ckptEntry (b : List Byte) : Nat × Nat × Nat := (fieldOf b 0 8, fieldOf b 8 8, fieldOf b 16 8)

/-- One entry is copied back. -/
def State.copyBack (s : State) (e : Nat × Nat × Nat) : State :=
  match s.physRead e.1 e.2.2 with
  | none => s
  | some (bs, s) => (s.gatherHome ((List.range e.2.2).map (e.2.1 + ·))).homeWrite (((List.range e.2.2).map (e.2.1 + ·)).zip bs)

def State.copyCheckpoint (s : State) (ckpt : Nat) : State :=
  match s.physRead ckpt 64 with
  | none => s
  | some (h, s) =>
    if h.headD 0#8 != 0xC5#8 then s
    else (List.range (fieldOf h 1 1)).foldl (fun s n => match s.physRead (ckpt + 64 + 32 * n) 32 with
      | some (b, s) => s.copyBack (ckptEntry b)
      | none => s) s

/-- The fault report leaves on the lowest-numbered link-up Ethernet port. -/
def State.reportFault (s : State) (asid cause die : Nat) : State :=
  match (List.range 2).find? fun p => s.eth.up.get false p with
  | none => s
  | some p => { s with sys := { s.sys with reports := s.sys.reports ++ [⟨p, s.eth.reportQueue, asid, cause, die, s.time⟩] } }

/-- Containment (R267, R330): the context's waves, commands and holdings end, its save-area images and records are freed; nothing else
of it changes, its semaphores' counts included. -/
def State.contain (s : State) (asid : Nat) : State :=
  (((s.endWaves asid).endCommands asid).endHoldings asid).modCtxAt asid fun c =>
    { c with images := [], dstacks := [], nextRec := 0, dlrec := 0#64, fault := none }

/-- A context goes live again with the descriptor it had: its launch ports are clear and its pool is free (R130, R283). -/
def Ctx.relive (c : Ctx) : Ctx := { c with port := [], pstat := [], poolUsed := [] }

/-- R330: a context that names a checkpoint directory is contained, restored and live again, and its fault semaphore counts. -/
def execContextRecovery (asid : Nat) (s : State) : Out :=
  let c := s.ctxAt asid
  match c.fault with
  | none => .next s
  | some (cause, die) =>
    if !c.live || c.ckpt == 0 then .next s
    else
      let s := (((s.contain asid).reportFault asid cause die).copyCheckpoint c.ckpt).modCtxAt asid Ctx.relive
      .next (s.semSignal true 0 c.fsem asid)

/-! ## Starts (R327) -/

/-- The machine after a cold start of kind `last`, with a new attestation key (R329). -/
def State.coldState (s : State) (last : BitVec 2) (chlth : BitVec 16) (qhlth : BitVec 4) : State :=
  { State.reset with
    now := s.now, tick := s.tick, agenda := s.agenda,
    sys := { Sys.reset with last := last, chlth := chlth, qhlth := qhlth, attestKey := s.sys.attestKey + 1,
                             reports := s.sys.reports, attest := s.sys.attest } }

/-- The machine after a warm start: HBM and weight stores keep their contents, DIEHLTH and the attestation key stay. Invalidation tickets count
from the last cold start (R286, R462); with no translation left all are acknowledged. -/
def State.warmState (s : State) : State :=
  let c := s.coldState 2#2 s.sys.chlth s.sys.qhlth
  { c with tlbs := { c.tlbs with tickets := s.tlbs.tickets.map fun (e : Nat × Tickets) => (e.1, ⟨e.2.issued, e.2.issued, []⟩) },
           mem := s.mem, caches := { c.caches with weights := s.caches.weights, ue := s.caches.ue, wsUe := s.caches.wsUe },
           sys := { c.sys with boots := s.sys.boots + 1#16, attestKey := s.sys.attestKey } }

/-- Must a warm start be performed as a cold start? -/
def State.warmRefused (s : State) (paramsOk : Bool) : Bool := s.sys.underVolt || !paramsOk || s.sys.boots == 0xFFFF#16

def execWarmStart (paramsOk : Bool) (chlth : BitVec 16) (qhlth : BitVec 4) (s : State) : Out :=
  if s.warmRefused paramsOk then .next (s.coldState 1#2 chlth qhlth) else .next s.warmState

def execColdStart (chlth : BitVec 16) (qhlth : BitVec 4) (s : State) : Out := .next (s.coldState 1#2 chlth qhlth)
def execPowerOn (chlth : BitVec 16) (qhlth : BitVec 4) (s : State) : Out := .next (s.coldState 0#2 chlth qhlth)
def execRackBusUndervoltage (s : State) : Out := .next { s with sys := { s.sys with underVolt := true } }

/-! ## Dies (R25, R328) -/

/-- Each wave that a test picks takes MCHK. -/
def State.mchkAll (s : State) (p : Wave → Bool) (pa : Nat) : State :=
  (s.waves.filter fun e => e.2.st != .exited && p e.2).foldl (fun s e => if (s.waves.find e.1).isSome then s.mchkWave e.1 pa else s) s

/-- A die goes: its health bit clears, each wave resident on it takes MCHK. -/
def State.failDie (s : State) (die : Nat) : State :=
  let s := { s with sys := { s.sys with chlth := s.sys.chlth &&& ~~~(BitVec.twoPow 16 die) } }
  s.mchkAll (fun w => w.resides && w.id.die.toNat == die) 0

def execDieDisable (die : Nat) (s : State) : Out := if 16 ≤ die then .next s else .next (s.failDie die)
def execDieFailure (die : Nat) (s : State) : Out := if 16 ≤ die then .next s else .next (s.failDie die)

/-! ## Errors (R268) -/

/-- A UE token for data that no instruction is reading: its slot is a free value (log entry 18). -/
def State.restToken (s : State) (addr : Nat) : Word32 × State :=
  (tokenOf 0x05#8 ((Config.undefined64 s.tick 3).setWidth 4) addr, { s with tick := s.tick + 1 })

/-- A UE token in a register of a wave, with an origin entry. The address of the instruction is that of the wave's next one. -/
def State.regToken (s : State) (k lane : Nat) : Word32 × State :=
  let pc := (((s.waveAt k).pcs.slot (s.waveAt k).pcs.lastIssued).map (·.pc)).getD 0#64
  let r := s.makeTokens k pc [(lane, 0x05#8, 0)]
  ((r.1.headD (0, 0#32)).2, r.2)

def State.scratchError (s : State) (wg word : Nat) : State :=
  match s.wgs.find wg with
  | none => s
  | some g =>
    let (t, s) := s.restToken (4 * word)
    s.setWgAt wg { g with scratch := g.scratch.set LaneVal.zero word ⟨t, true⟩ }

def State.tileError (s : State) (wg t elem : Nat) : State :=
  match s.wgs.find wg with
  | none => s
  | some g =>
    let (tok, s) := s.restToken 0
    s.setWgAt wg (g.setTile t { g.tile t with elems := (g.tile t).elems.set LaneVal.zero elem ⟨tok, true⟩ })

def State.regError (s : State) (k lane : Nat) (put : Word32 → Wave → Wave) : State :=
  if (s.waves.find k).isNone then s
  else
    let (t, s) := s.regToken k lane
    s.modWaveAt k (put t)

/-- What an uncorrectable error comes to, by where it is found. One in a g register takes its origin entry in the workgroup's lowest live
wave; FAULTVA for a descriptor that cannot be read is a free value (DESIGN CHOICE, log entry 18). -/
def State.uncorrected (s : State) : ErrSite → State
  | .global pa => { s with caches := { s.caches with ue := s.caches.ue.put (pa / 64) 0#64 } }
  | .weight die byte => { s with caches := { s.caches with wsUe := (2 ^ 30 * die + byte) :: s.caches.wsUe } }
  | .scratch wg word => s.scratchError wg word
  | .tile wg t elem => s.tileError wg t elem
  | .vreg k reg lane => s.regError k lane fun t w =>
      { w with regs := { w.regs with v := w.regs.v.set LaneVal.zero (64 * reg + lane) ⟨t, true⟩ } }
  | .sreg k i => s.regError k 0 fun t w => { w with regs := { w.regs with s := w.regs.s.set! i ⟨t.setWidth 64, true⟩ } }
  | .greg wg i => match s.wgs.find wg with
    | none => s
    | some g =>
      let (t, s) := match (s.liveWaves wg).head? with
        | some e => s.regToken e.1 0
        | none => s.restToken 0
      s.setWgAt wg { g with g := g.g.set! i ⟨t.setWidth 64, true⟩ }
  | .preg k i lane => if i = 0 then s else s.regError k lane fun _ w =>
      { w with regs := w.regs.writePred i ⟨0#64, BitVec.twoPow 64 lane⟩ (BitVec.twoPow 64 lane) }
  | .critical k pa => if ((s.waves.find k).map Wave.resides).getD false then s.mchkWave k pa else s
  | .copy id => match s.eng.copies.find id with
    | none => s
    | some c =>
      if c.finished then s
      else { (s.setCopy id (c.stop 4 0#32 (Config.undefined64 s.tick 4).toNat)) with tick := s.tick + 1 }
  | .collective id => match s.eng.colls.find id with
    | none => s
    | some c =>
      if c.status.isSome then s
      else
        let s' := s.collEnd id c (s.nrankOf c.asid c.block) 4 (Config.undefined64 s.tick 5).toNat 0
        { s' with tick := s'.tick + 1 }
  | .contexts asids => s.mchkAll (fun w => asids.contains w.id.asid.toNat) 0
  | .die d =>
    let asids := ((s.waves.filter fun e => e.2.resides && e.2.id.die.toNat == d).map fun e => e.2.id.asid.toNat).eraseDups
    s.mchkAll (fun w => asids.contains w.id.asid.toNat) 0

/-- R268. -/
def execUncorrectedError (site : ErrSite) (s : State) : Out := .next (s.uncorrected site)

def execCorrectedError (asid : Option Nat) (s : State) : Out :=
  let s := { s with sys := { s.sys with corrected := s.sys.corrected + 1 } }
  match asid with
  | some a => if (s.ctxAt a).live then .next (s.modCtxAt a fun c => { c with cec := c.cec + 1 }) else .next s
  | none => .next s

/-! ## Device time (R321) -/

/-- The frequency correction is limited to 500 ppm either way, in units of 2^-32. -/
def clampRate (x : Int) : Int := max (-2147483) (min 2147483 x)

def execTadjRate (value : BitVec 32) (s : State) : Out := .next { s with sys := { s.sys with rate := clampRate value.toInt } }
def execTadjStep (value : BitVec 31) (s : State) : Out := .next { s with now := s.now + value.toNat }

/-! ## Actions (R317) -/

def cmdAsid (cmd : BitVec 64) : Nat := cmd.toNat % 2 ^ 10

/-- Action 0. Its CMD reads 1 while the workgroup is being saved, and 2 when the request is refused, at once or when the image finds no
room (R261, log entry 50). -/
def execActPreempt (s : State) : Out :=
  let x := s.opnd 0
  let wg := wgKeyOf (x.toNat % 2 ^ 10) (x.toNat / 2 ^ 16 % 2 ^ 16) (x.toNat / 2 ^ 32)
  let r := s.preempt wg
  let s := if r.1 then r.2.setAct 0 0 0 else r.2.setAct 0 2 1
  .next { s with sys := { s.sys with actPre := if r.1 then some wg else none } }

/-- Actions 1 and 2: what they do to a wave that is Parked-fault. -/
def State.actPark (s : State) (n : Nat) (cmd : BitVec 64) (act : State → Nat → State) : State :=
  match s.resolve (cmdAsid cmd) (s.opnd n) with
  | none => s.setAct n 2 2
  | some k => if (s.waveAt k).st = .parkedFault then (act s k).setAct n 0 0 else s.setAct n 2 1

def execActPkres (cmd : BitVec 64) (s : State) : Out := .next (s.actPark 1 cmd State.resume)
def execActPkill (cmd : BitVec 64) (s : State) : Out := .next (s.actPark 2 cmd State.pkill)

/-- Action 3 takes its length and ASID from action 4's registers; a seventeenth ticket waits. -/
def execActAtinv (s : State) : Out :=
  let va := (s.opnd 3).toNat
  let n := (s.opnd 4).toNat
  let asid := cmdAsid (s.sys.actCmd.get 0#64 4)
  if atinvBad va n then .next (s.setAct 3 2 1)
  else if 16 ≤ (s.ticketsOf asid).open_.length then
    let s := s.setAct 3 1 0
    .next { s with sys := { s.sys with actInv := s.sys.actInv ++ [(asid, va, n)] } }
  else .next (s.actTicket asid va n)

def execActAtsync (cmd : BitVec 64) (s : State) : Out :=
  let asid := cmdAsid cmd
  let x := (s.opnd 5).toNat
  let t := s.ticketsOf asid
  let waits := decide (x ≤ t.issued ∧ t.acked < x)
  let s := if t.issued < x then s.setAct 5 2 1 else s.setAct 5 (if waits then 1 else 0) 0
  .next { s with sys := { s.sys with actSync := if waits then some (asid, x) else none } }

def execActEnergyCredit (cmd : BitVec 64) (s : State) : Out :=
  let asid := cmdAsid cmd
  if (s.ctxAt asid).live then
    .next ((s.modCtxAt asid fun c => { c with bal := c.bal + (s.opnd 6).toInt }).setAct 6 0 0)
  else .next (s.setAct 6 2 1)

/-- Action 7 on a frame of the pool: `mark` takes it, else it goes back. -/
def State.poolAction (s : State) (cmd : BitVec 64) (mark : Bool) : State :=
  let asid := cmdAsid cmd
  let c := s.ctxAt asid
  let f := (s.opnd 7).toNat
  let big := cmd.getLsbD 16
  let size := if big then 2 ^ 21 else 4096
  let ns := frameNumbers f big
  if !c.live then s.setAct 7 2 1
  else if f % size != 0 || decide (f < c.poolBase) || decide (c.poolBase + c.poolSize < f + size) then s.setAct 7 2 2
  else if mark then
    if ns.any c.poolUsed.contains then s.setAct 7 2 1
    else (s.setCtxAt asid { c with poolUsed := c.poolUsed ++ ns }).setAct 7 0 0
  else if ns.all c.poolUsed.contains then
    (s.setCtxAt asid { c with poolUsed := c.poolUsed.filter fun n => !ns.contains n }).setAct 7 0 0
  else s.setAct 7 2 1

def execActPoolFrameReturn (cmd : BitVec 64) (s : State) : Out := if cmd.getLsbD 17 then .next s else .next (s.poolAction cmd false)
def execActPoolFrameMarkInUse (cmd : BitVec 64) (s : State) : Out := if cmd.getLsbD 17 then .next (s.poolAction cmd true) else .next s

/-- Action 8: a breakpoint at an address, or single-stepping of the context, set or cleared (log entry 12). -/
def execActBreakpoint (cmd : BitVec 64) (s : State) : Out :=
  let asid := cmdAsid cmd
  let on := cmd.getLsbD 16
  let a := (s.opnd 8).toNat
  let c := s.ctxAt asid
  if !c.live then .next (s.setAct 8 2 1)
  else
    let rest := c.breaks.filter (· != a)
    let c := if cmd.getLsbD 17 then { c with step := on } else { c with breaks := if on then rest ++ [a] else rest }
    .next ((s.setCtxAt asid c).setAct 8 0 0)

/-! ## Registers that only store (R316) -/

/-- Replace the bits of a mask. -/
def maskWrite (old new mask : Word64) : Word64 := (old &&& ~~~mask) ||| (new &&& mask)

/-- PWCTL (R294): a TFORCE above 300 keeps the old one. -/
def pwctlWrite (old v : Word64) : Word64 :=
  let tforce : Word64 := 0x1FF#64 <<< 44
  if 300 < v.toNat / 2 ^ 44 % 2 ^ 9 then maskWrite old v ((0x7FFFFFFFFFFFFFFF#64) &&& ~~~tforce) else v &&& 0x7FFFFFFFFFFFFFFF#64

def State.mgmtWrite (s : State) (v : Word64) : MgmtReg → State
  | .colto => { s with sys := { s.sys with colto := v } }
  | .lqcfg q => if 256 ≤ q then s else { s with hub := { s.hub with lqcfg := s.hub.lqcfg.set 0#64 q (v &&& 0x3FFF#64) } }
  | .pwcfg => { s with pw := { s.pw with pwcfg := v &&& 0x07FFFFFFFFFFFFFF#64 } }
  | .pwbp n => { s with pw := { s.pw with pwbp := s.pw.pwbp.set! n (v &&& 0x1FFFFFFF#64) } }
  | .pwctl => { s with pw := { s.pw with pwctl := pwctlWrite s.pw.pwctl v } }
  | .pwstat => { s with pw := { s.pw with stperr := s.pw.stperr &&& ~~~(v.extractLsb' 16 16) } }
  | .pwew ic cls => if 8 ≤ ic ∨ 4 ≤ cls then s else { s with pw := { s.pw with pwew := s.pw.pwew.put (4 * ic + cls) (v.setWidth 24) } }
  | .actOpnd n => if 9 ≤ n then s else s.setOpnd n v
  | .act4Cmd => { s with sys := { s.sys with actCmd := s.sys.actCmd.set 0#64 4 v } }
  | .accelerator => { s with eng := { s.eng with accel := v.toNat % 2 ^ 10 } }
  | .reportQueue => { s with eth := { s.eth with reportQueue := v.toNat % 256 } }

def execMgmtRegisterWrite (reg : MgmtReg) (value : BitVec 64) (s : State) : Out := .next (s.mgmtWrite value reg)

/-! ## Attestation (R329) -/

/-- The signed part of a report. -/
def State.attestBody (s : State) (nonce : List Byte) : List Byte :=
  [0xA7#8, s.sys.last.setWidth 8] ++ leBytes 2 s.sys.boots.toNat ++ nonce ++ Config.firmwareDigests ++
    bytes64 (s.sys.chlth.toNat + 2 ^ 16 * s.sys.qhlth.toNat)

/-- The signature of a report by the attestation key, r and then s, 48 bytes each. -/
def State.attestSign (s : State) (b : List Byte) : List Byte :=
  leBytes 48 (Config.signatureR s.sys.attestKey s.tick b).toNat ++ leBytes 48 (Config.signatureS s.sys.attestKey s.tick b).toNat

/-- The certificate chain that is read from the identity element: the device's own, then the attestation key's public half with the device
identity key's signature on it (the form is open, log entry 19). -/
def State.certificates (s : State) : List (List Byte) :=
  [Config.certificateChain, Config.attestPublic s.sys.attestKey, Config.attestEndorsement s.sys.attestKey]

def execAttestationReport (nonce : List Byte) (s : State) : Out :=
  if nonce.length != 48 then .next s
  else
    let b := s.attestBody nonce
    .next { s with sys := { s.sys with attest := s.sys.attest ++ [b ++ s.attestSign b] } }

end Sys2Proof.Machine
end

