-- ==== Sys2Proof/Machine/EvHost.lean ====
section
/-!
DEFINITION. Events of the application cores and the links: gctx (R313), coherent accesses, probes and releases (R194 to R198),
Ethernet rings (R319), accesses from and to other devices (R219, R322, R323), link failures (R325, R330).
-/

namespace Sys2Proof.Machine

/-! ## gctx -/

def State.hartModeOf (s : State) (hart : Nat) : HartMode := s.harts.mode.get .m hart

/-- May the mode use gctx and the management registers (R313, R316)? -/
def HartMode.system : HartMode → Bool
  | .m | .hs => true
  | .u | .vs | .vu => false

/-- A hart takes an exception (R313, R316): what it does then is its own instruction set's. -/
def State.hartRaise (s : State) (hart : Nat) (x : HartExc) : State :=
  { s with harts := { s.harts with exc := s.harts.exc.put hart x } }

/-- What a hart's load returns. -/
def State.hartResult (s : State) (hart : Nat) (x : Word64) : State :=
  { s with harts := { s.harts with result := s.harts.result.set 0#64 hart x } }

/-- What a hart's load from memory returns. -/
def State.hartLoaded (s : State) (hart : Nat) (bs : List Byte) : State :=
  { s with harts := { s.harts with data := s.harts.data.put hart bs } }

/-- A hart's own instructions change its registers; misa is fixed (R312, log entry 66). -/
def State.hartRun (s : State) (hart : Nat) (r : HartRegs) : State :=
  if 128 ≤ hart then s
  else { s with harts := { s.harts with regs := s.harts.regs.put hart { r with csr := r.csr.put 0x301 misa } } }

/-- A hart changes its mode. -/
def State.setHartMode (s : State) (hart : Nat) (m : HartMode) : State :=
  if 128 ≤ hart then s else { s with harts := { s.harts with mode := s.harts.mode.set .m hart m } }

/-- A hart reads gctx. -/
def State.gctxRead (s : State) (hart : Nat) : State :=
  if 128 ≤ hart then s
  else if (s.hartModeOf hart).system then s.hartResult hart (s.harts.gctx.get 0#64 hart)
  else s.hartRaise hart .illegalInstruction

/-- A hart reads its time CSR: device time (R320). -/
def State.timeRead (s : State) (hart : Nat) : State :=
  if 128 ≤ hart then s else s.hartResult hart (BitVec.ofNat 64 s.time)

/-- R313: bits 9 to 0 and 15 are stored. -/
def execGctxWrite (hart : Nat) (value : BitVec 64) (s : State) : Out :=
  if 128 ≤ hart then .next s
  else if !(s.hartModeOf hart).system then .next (s.hartRaise hart .illegalInstruction)
  else .next { s with harts := { s.harts with gctx := s.harts.gctx.set 0#64 hart (value &&& 0x83FF#64) } }

/-- A hart's fence with predecessor and successor sets rw: its binding is now that of gctx (R313). -/
def State.hartFence (s : State) (hart : Nat) : State :=
  { s with harts := { s.harts with bound := s.harts.bound.set 0#64 hart (s.harts.gctx.get 0#64 hart) } }

/-- The context whose objects a hart's accesses use: its own, or context 0. -/
def State.hartAsid (s : State) (hart : Nat) : Nat :=
  let g := s.bindingOf hart
  if g.getLsbD 15 then g.toNat % 2 ^ 10 else 0

/-! ## Coherent accesses (R194, R196, R197) -/

/-- The object of a context that covers a line. -/
def State.objOf (s : State) (asid line : Nat) : Option (Nat × CohObj) :=
  s.harts.objs.find? fun e => e.2.asid == asid && e.2.covers line

/-- Make the default object of a line: the lines of its aligned 4 KiB that no object of the context covers. -/
def State.makeDefault (s : State) (asid line : Nat) : State :=
  let lines := ((List.range 64).map (line / 64 * 64 + ·)).filter fun l => (s.objOf asid l).isNone
  let die := homeDie (64 * line)
  (s.objRoom die).putObj ⟨asid, false, line / 64 * 4096, lines, die, [], 0#16, 0⟩

def seqKey (hart obj : Nat) : Nat := hart + 128 * obj

/-- Grant an object to a hart: the sequence number rises, and the hart keeps it (R197). -/
def State.grantObj (s : State) (k : Nat) (hart : Nat) (st : Mesi) : State :=
  match s.harts.objs.find k with
  | none => s
  | some o =>
    let seq := o.seq + 1#16
    let o := { o with seq := seq, granted := s.harts.grants + 1, holders := o.holders.filter (fun h => h.1 != hart) ++ [(hart, st)] }
    { s with harts := { s.harts with objs := s.harts.objs.put k o, grants := s.harts.grants + 1,
                                     seqs := s.harts.seqs.put (seqKey hart k) seq } }

/-- The other harts that hold an object. -/
def CohObj.others (o : CohObj) (hart : Nat) : List (Nat × Mesi) := o.holders.filter fun h => h.1 != hart

def CohObj.stateOf (o : CohObj) (hart : Nat) : Option Mesi := (o.holders.find? fun h => h.1 == hart).map (·.2)

/-- A hart asks to read an object: others in E or M are probed to S; it is granted E alone, S with others. -/
def State.grantRead (s : State) (k : Nat) (o : CohObj) (hart : Nat) : State :=
  let s := if (o.others hart).any fun h => h.2 != .s then s.probeShared k o else s
  s.grantObj k hart (if (o.others hart).isEmpty then .e else .s)

/-- A hart asks to write an object: every other holder is probed to I, then M is granted. Its own lines stay. -/
def State.grantWrite (s : State) (k : Nat) (o : CohObj) (hart : Nat) : State :=
  let mine := s.harts.lines.filter fun e => e.1 / 2 ^ 46 == hart && o.covers (e.1 % 2 ^ 46)
  let s := if (o.others hart).isEmpty then s else s.probeInvalid k o
  let s := { s with harts := { s.harts with lines := mine.foldl (fun (m : FMap HLine) (e : Nat × HLine) => m.put e.1 e.2) s.harts.lines } }
  s.grantObj k hart .m

/-- The line in a hart's cache, fetched from its home when absent. -/
def State.fetchLine (s : State) (hart line : Nat) (st : Mesi) : HLine × State :=
  match s.harts.lines.find (hartKey hart line) with
  | some l => (l, s)
  | none =>
    let l : HLine := ⟨(List.range 64).map fun i => s.homeRead (64 * line + i), st⟩
    (l, { s with harts := { s.harts with lines := s.harts.lines.put (hartKey hart line) l } })

def State.setLine (s : State) (hart line : Nat) (l : HLine) : State :=
  { s with harts := { s.harts with lines := s.harts.lines.put (hartKey hart line) l } }

/-- The state in which a line is fetched under a grant. -/
def Mesi.clean : Mesi → Mesi
  | .s => .s
  | _ => .e

/-- A hart's load of `n` bytes, or its store, within one 64-byte line. A value wait on the line is tested when the hart stores, which is before its line is
written back (R229; log entry 34). -/
def State.hartAccess (s : State) (hart pa n : Nat) (data : Option (List Byte)) : State :=
  let line := pa / 64
  let asid := s.hartAsid hart
  let s := if (s.objOf asid line).isSome then s else s.makeDefault asid line
  match s.objOf asid line with
  | none => s
  | some (k, o) =>
    match data with
    | none =>
      let s := if (o.stateOf hart).isSome then s else s.grantRead k o hart
      let (l, s) := s.fetchLine hart line (((((s.objOf asid line).bind fun e => e.2.stateOf hart)).map Mesi.clean).getD .s)
      s.hartLoaded hart ((l.data.drop (pa % 64)).take n)
    | some d =>
      let s := if o.stateOf hart == some .m || o.stateOf hart == some .e then s else s.grantWrite k o hart
      let (l, s) := s.fetchLine hart line .e
      let bytes := ((List.range d.length).zip d).foldl (fun (m : List Byte) e => m.set (pa % 64 + e.1) e.2) l.data
      let s := s.setLine hart line ⟨bytes, .m⟩
      let s : State := { s with harts := { s.harts with objs := s.harts.objs.map fun (e : Nat × CohObj) =>
          if (e.1 == k) = true then (e.1, { e.2 with holders := e.2.holders.map fun h => if h.1 = hart then (hart, .m) else h }) else e } }
      s.retestValues (((List.range d.length).map (pa + ·)).zip d)

/-- The application cores' own memory (R27, R312): local, and neither HBM nor a management register. Where it lies the spec does not
say (DESIGN CHOICE, log entry 22). -/
def isAppMem (pa : Nat) : Bool := decide (4 ≤ homeDie pa) && !isRemote pa && !isMgmt pa

/-- R196: a hart's access of `n` bytes to local memory, inside one line; Zicboz's store is one of 64 zero bytes (R312). The application cores' own
memory needs no object. What a hart does about data that cannot be read or an absent run (R268, R463) the spec does not say: it takes an
access fault (DESIGN CHOICE, log entry 22). What it does where its die's table is full of declared objects and none covers the line (R194) the
spec does not say either: the model drops the access, with no result and no exception (DESIGN CHOICE, log entry 89). -/
def execHartCoherentAccess (hart pa n : Nat) (data : Option (List Byte)) (s : State) : Out :=
  let sized := match data with | some d => d.length == n | none => true
  let die := homeDie pa
  let full := decide (65536 ≤ (s.harts.objs.filter fun e => e.2.die == die && e.2.declared).length) && (s.objOf (s.hartAsid hart) (pa / 64)).isNone
  if 128 ≤ hart ∨ n = 0 ∨ 64 < pa % 64 + n ∨ !sized then .next s
  else if isAppMem pa then .next (match data with
    | some d => s.homeWrite (((List.range n).map (pa + ·)).zip d)
    | none => s.hartLoaded hart ((List.range n).map fun i => s.homeRead (pa + i)))
  else if 4 ≤ die then .next s
  else if s.ueAt pa then .next (s.hartRaise hart (if data.isSome then .storeAccess else .loadAccess))
  else if full then .next s
  else .next (s.hartAccess hart pa n data)

/-- Zicbom (R312): a hart writes a block of its cache back when it is dirty, and keeps it clean or drops it. -/
def State.hartBlock (s : State) (hart line : Nat) (drop : Bool) : State :=
  match s.harts.lines.find (hartKey hart line) with
  | none => s
  | some l =>
    let s := if l.st == .m then s.writeBackLine line l else s
    { s with harts := { s.harts with
        lines := if drop then s.harts.lines.erase (hartKey hart line) else s.harts.lines.put (hartKey hart line) { l with st := l.st.clean } } }

/-- One hart gives up or shares an object; its M lines are written back first. -/
def State.hartProbe (s : State) (k : Nat) (o : CohObj) (hart : Nat) (toI : Bool) : State :=
  let mine (e : Nat × HLine) : Bool := e.1 / 2 ^ 46 == hart && o.covers (e.1 % 2 ^ 46)
  let s := s.harts.lines.foldl (fun s e => if mine e && e.2.st == .m then s.writeBackLine (e.1 % 2 ^ 46) e.2 else s) s
  let lines := if toI then s.harts.lines.filter fun e => !mine e
    else s.harts.lines.map fun (e : Nat × HLine) => if mine e = true then (e.1, { e.2 with st := .s }) else e
  let holders := if toI then o.holders.filter fun h => h.1 != hart else o.holders.map fun h => if h.1 = hart then (hart, .s) else h
  { s with harts := { s.harts with lines := lines, objs := s.harts.objs.put k { o with holders := holders } } }

/-- R197: is a probe's number older than the hart's? -/
def staleProbe (mine probe : BitVec 16) : Bool := decide (1 ≤ (mine - probe).toNat ∧ (mine - probe).toNat ≤ 32767)

/-- The object that holds a line for a hart. -/
def State.heldBy (s : State) (hart line : Nat) : Option (Nat × CohObj) :=
  s.harts.objs.find? fun e => e.2.covers line && (e.2.stateOf hart).isSome

/-- R197: a probe arrives; a stale one changes nothing. -/
def execCoherenceProbe (hart line : Nat) (seq : BitVec 16) (toI : Bool) (s : State) : Out :=
  match s.heldBy hart line with
  | none => .next s
  | some (k, o) =>
    if staleProbe (s.harts.seqs.get 0#16 (seqKey hart k)) seq then .next s else .next (s.hartProbe k o hart toI)

/-- R198: a hart gives an object up by itself. -/
def execObjectEvictRelease (hart line : Nat) (s : State) : Out :=
  match s.heldBy hart line with
  | none => .next s
  | some (k, o) => .next (s.hartProbe k o hart true)

/-! ## Ethernet (R319) -/

def ethKey (port : Nat) (tx : Bool) (queue : Nat) : Nat := 512 * port + (if tx then 256 else 0) + queue

def EthQ.desc (q : EthQ) : Nat := q.base + 16 * q.next
def EthQ.step (q : EthQ) : EthQ := { q with next := (q.next + 1) % max 1 q.entries }

def State.homeBytes (s : State) (pa n : Nat) : List Byte := (List.range n).map fun i => s.homeRead (pa + i)
def State.homePut (s : State) (pa : Nat) (bs : List Byte) : State := s.homeWrite (((List.range bs.length).map (pa + ·)).zip bs)

/-- A descriptor's buffer, length and flags. -/
def State.ethDesc (s : State) (pa : Nat) : Nat × Nat × Nat :=
  let b := s.homeBytes pa 16
  (fieldOf b 0 8, fieldOf b 8 2, fieldOf b 10 2)

/-- A frame's bytes are placed in a buffer: they reach the application cores' memory only (R319). -/
def State.framePut (s : State) (pa : Nat) (bs : List Byte) : State :=
  s.homeWrite ((((List.range bs.length).map (pa + ·)).zip bs).filter fun (e : Nat × Byte) => isAppMem e.1)

/-- A queue is configured: its ring, which lies in the application cores' memory, and the hart that owns it. -/
def State.ethConfig (s : State) (port : Nat) (tx : Bool) (queue base entries owner : Nat) : State :=
  if 2 ≤ port ∨ 256 ≤ queue ∨ 128 ≤ owner ∨ entries = 0 ∨ !((List.range (16 * entries)).all fun i => isAppMem (base + i)) then s
  else { s with eth := { s.eth with queues := s.eth.queues.put (ethKey port tx queue) ⟨base, entries, 0, owner⟩ } }

/-- A descriptor goes back to its hart with a length, the end-of-frame flag and a timestamp. -/
def State.ethReturn (s : State) (pa len : Nat) (eof : Bool) : State :=
  s.homePut (pa + 8) (leBytes 2 len ++ leBytes 2 (bit eof 1 + 4) ++ leBytes 4 (s.time % 2 ^ 32))

/-- Place a frame in a ring, piece by piece; `fuel` bounds the descriptors. None when the ring has too few of the port's. -/
def State.ethPlace (s : State) (key : Nat) : Nat → List Byte → Option State
  | 0, _ => none
  | fuel + 1, data =>
    match s.eth.queues.find key with
    | none => none
    | some q =>
      let d := s.ethDesc q.desc
      if !d.2.2.testBit 0 || d.2.1 == 0 then none
      else
        let piece := data.take d.2.1
        let rest := data.drop d.2.1
        let s := (s.framePut d.1 piece).ethReturn q.desc piece.length rest.isEmpty
        let s := { s with eth := { s.eth with queues := s.eth.queues.put key q.step } }
        if rest.isEmpty then some s else s.ethPlace key fuel rest

def execEthernetReceive (port queue : Nat) (data : List Byte) (s : State) : Out :=
  if 2 ≤ port ∨ 256 ≤ queue ∨ data.isEmpty ∨ 9216 < data.length then .next s
  else .next ((s.ethPlace (ethKey port false queue) data.length data).getD s)

/-- Collect the port-owned descriptors of one frame and give them back. -/
def State.ethTake (s : State) (key : Nat) : Nat → List Byte → Option (List Byte × State)
  | 0, _ => none
  | fuel + 1, acc =>
    match s.eth.queues.find key with
    | none => none
    | some q =>
      let d := s.ethDesc q.desc
      if !d.2.2.testBit 0 then none
      else
        let acc := acc ++ s.homeBytes d.1 d.2.1
        let s := s.ethReturn q.desc d.2.1 (d.2.2.testBit 1)
        let s := { s with eth := { s.eth with queues := s.eth.queues.put key q.step } }
        if d.2.2.testBit 1 then some (acc, s) else s.ethTake key fuel acc

def execEthernetTransmit (port queue : Nat) (s : State) : Out :=
  let key := ethKey port true queue
  match s.ethTake key (((s.eth.queues.find key).map (·.entries)).getD 0) [] with
  | none => .next s
  | some (frame, s') =>
    if 2 ≤ port ∨ 256 ≤ queue ∨ 9216 < frame.length then .next s
    else .next { s' with eth := { s'.eth with sent := s'.eth.sent ++ [(port, frame)] } }

/-! ## Other devices -/

/-- The reply of this module to another device. -/
def State.reply (s : State) (bs : List Byte) : State := { s with eng := { s.eng with replies := s.eng.replies ++ [bs] } }

/-- R219, R322: an access from another device is performed at the home; loads and atomics are answered. One that meets data which cannot be
read gets an error response, an answer of no bytes (R268, R323, R463; DESIGN CHOICE, log entry 8). -/
def State.remoteServe (s : State) (pa : Nat) : RemoteOp → State
  | .load n =>
    if ((List.range n).map (pa + ·)).any s.ueAt then s.reply []
    else (s.homeTouches ((List.range n).map (pa + ·))).reply (s.homeBytes pa n)
  | .store data => if ((List.range data.length).map (pa + ·)).any s.absentAt then s.reply [] else s.homePut pa data
  | .atomic op x y =>
    if (fourAt pa).any s.ueAt then s.reply []
    else
    let s := s.homeTouches (fourAt pa)
    let old := word32Of (s.homeBytes pa 4)
    (s.homePut pa (leBytes 4 (atomNew op old x y).toNat)).reply (leBytes 4 old.toNat)

def execRemoteAccessIncoming (pa : Nat) (op : RemoteOp) (s : State) : Out :=
  if isRemote pa || isMgmt pa then .next s else .next (s.remoteServe pa op)

/-- Another device acknowledges a store or atomic of this module (R185, R370). -/
def State.remoteAck (s : State) (n : Nat) : State :=
  match s.eng.outbox[n]? with
  | none => s
  | some x =>
    if x.acked then s
    else { s with eng := { s.eng with outbox := s.eng.outbox.set n { x with acked := true } } }

/-- A token takes the place of a lane's value in a result on its way. -/
def RegVal.poison (t : Word32) (l : Nat) : RegVal → RegVal
  | .vec r vals => .vec r (vals.set l ⟨t, true⟩)
  | .scal i _ => .scal i ⟨t.setWidth 64, true⟩
  | .scalHi i _ => .scalHi i ⟨t.setWidth 64, true⟩
  | .heldG i _ => .heldG i ⟨t.setWidth 64, true⟩
  | .wgreg i _ => .wgreg i ⟨t.setWidth 64, true⟩
  | v => v

/-- The origin slot of one half for an instruction: the one it has taken, or one taken now for the lowest failing lane (R245). -/
def Half.originFor (h : Half) (held : Option (BitVec 4)) (f : Option (Nat × BitVec 8 × Nat)) (pc : BitVec 24) : Option (BitVec 4) × Half :=
  match held, f with
  | none, some f => (some h.turn, h.takeOrigin f.2.1 (f.1 % 32) pc f.2.2)
  | held, _ => (held, h)

/-- A g register's value that is held for a commit is replaced: the last one that the wave holds (R123). -/
def replaceHeld (i : Nat) (v : ScalVal) (l : List Eff) : List Eff :=
  let hit (e : Eff) : Bool := match e with
    | .gwrite j _ => i == j
    | _ => false
  match l.reverse.findIdx? hit with
  | some n => l.set (l.length - 1 - n) (.gwrite i v)
  | none => l

/-- The results of an instruction go on with UE tokens in some lanes (R323); RLD data ends its wave (R268). -/
def State.failLanes (s : State) (k index : Nat) (p : Pend) (fs : List (Nat × BitVec 8 × Nat)) : State :=
  let w := s.waveAt k
  let pc := BitVec.ofNat 24 ((p.pc - (s.wgAt w.id.wgKey).kern.text).toNat / 4)
  let lo := w.lo.originFor p.originLo (lowestFault fs false) pc
  let hi := w.hi.originFor p.originHi (lowestFault fs true) pc
  let toks := fs.map fun f => (f.1, tokenOf f.2.1 ((if 32 ≤ f.1 then hi.1 else lo.1).getD 0#4) f.2.2)
  let writes := p.writes.map fun v => toks.foldl (fun v t => v.poison t.2 t.1) v
  let p := { p with writes := writes, originLo := lo.1, originHi := hi.1,
                    remote := p.remote.filter fun e => !(fs.any fun f => f.1 == e.1) }
  let fifo := writes.foldl (fun l v => match v with
    | .heldG i v => if v.p then replaceHeld i v l else l
    | _ => l) w.fifo
  s.setWaveAt k { w with lo := lo.2, hi := hi.2, fifo := fifo, pend := w.pend.set index p }

/-- The lanes of a result whose remote read fails get UE tokens (R323). -/
def State.failLoad (s : State) (k index : Nat) (lanes : Lanes) : State :=
  match (s.waves.find k).bind fun w => w.pend[index]? with
  | none => s
  | some p =>
    let hit := p.remote.filter fun e => inLanes (lanes &&& p.remaining) e.1
    let rld := p.writes.any fun v => match v with
      | .brec _ _ => true
      | _ => false
    match hit with
    | [] => s
    | e :: _ => if rld then s.mchkWave k e.2 else s.failLanes k index p (hit.map fun e => (e.1, 0x05#8, e.2))

/-- A store or atomic that has left and has not been acknowledged is lost; of a store or ATOMN the wave's next `.sys` release
reports it. -/
def State.failStore (s : State) (index : Nat) : State :=
  match s.eng.outbox[index]? with
  | none => s
  | some e =>
    let pa := ((e.bytes.map (·.1) ++ e.atomic.map (·.2.1)).headD 0)
    if e.acked then s
    else
      let s := { s with eng := { s.eng with outbox := s.eng.outbox.eraseIdx index } }
      match e.wave with
      | none => s
      | some k =>
        if (s.waves.find k).isNone then s
        else s.modWaveAt k fun w =>
          { w with remoteFail := if e.reports then some (w.remoteFail.getD pa) else w.remoteFail }

/-- A remote read of a running copy fails, at the first remote byte of the next unit's source: STATUS 4 (R323). -/
def State.failCopy (s : State) (id : Nat) : State :=
  match s.eng.copies.find id with
  | none => s
  | some c =>
    let d := copyDesc c.block
    if !c.started || c.finished || d.ssp then s
    else
      let src := d.srcAt c.unit
      match s.copyRead c d src.1 src.2 with
      | .ok _ pas => match pas.findIdx? fun x => isRemote x.1 with
        | some i => s.setCopy id (c.stop 4 0#32 (src.1 + i))
        | none => s
      | _ => s

/-- A codebook's entries that were read from remote memory become UE tokens, with one origin entry (R245, R268, R323). -/
def State.failCodebook (s : State) (k slot : Nat) : State :=
  match (s.waves.find k).bind fun w => w.cb[slot]? with
  | none => s
  | some c =>
    match c.remote with
    | [] => s
    | e :: _ =>
      let (toks, s) := s.makeTokens k e.2.2 [(0, 0x05#8, e.2.1)]
      let n := (toks.headD (0, 0#32)).2.extractLsb' 20 4
      let entries := c.remote.foldl (fun m x => m.set LaneVal.zero x.1 ⟨tokenOf 0x05#8 n x.2.1, true⟩) c.entries
      s.modWaveAt k fun w => w.setCb slot { c with entries := entries, remote := [] }

/-- A collective's read of byte `byte` of its own IN, in remote memory, fails: STATUS 4, with the address of that byte (R326). -/
def State.failColl (s : State) (id byte : Nat) : State :=
  match s.eng.colls.find id with
  | none => s
  | some c =>
    let b := c.block
    match s.groupOf c.asid b with
    | none => s
    | some g =>
      if c.status.isSome then s
      else match s.collRun c.asid .load (collInElems b g.nrank * fmtUnit (collFmt b)) (collIn b) with
        | .error _ => s
        | .ok pas => if (pas[byte]?).any isRemote then s.collEnd id c g.nrank 4 (collIn b + byte) 0 else s

def execRemoteAccessFailure (site : RemoteFail) (s : State) : Out :=
  match site with
  | .load k index lanes => .next (s.failLoad k index lanes)
  | .store index => .next (s.failStore index)
  | .copy id => .next (s.failCopy id)
  | .codebook k slot => .next (s.failCodebook k slot.toNat)
  | .collective id byte => .next (s.failColl id byte)

/-- R325, R330: a link goes down or comes up; the collectives that use it end with STATUS 5, PEER a rank of the group. -/
def execLinkFailure (ethernet : Bool) (port : Nat) (up : Bool) (colls : List Nat) (s : State) : Out :=
  let s := if ethernet && decide (port < 2) then { s with eth := { s.eth with up := s.eth.up.put port up } } else s
  if up then .next s
  else .next (colls.foldl (fun s id => match s.eng.colls.find id with
    | none => s
    | some c =>
      if c.status.isSome then s
      else
        let g := (s.groupOf c.asid c.block).getD ⟨1, 0, []⟩
        s.collEnd id c g.nrank 5 0 (g.accels.getD (Config.peerMissing s.tick) 0)) s)

end Sys2Proof.Machine
end

