-- ==== Sys2Proof/Machine/Xw.lean ====
section
/-!
DEFINITION. Major 31: the XW prefix (R160, R162, R459).
-/

namespace Sys2Proof.Machine

/-- XW stands in the issue latch for the instruction after it, which issues with it as one; before another XW it raises ILLOP. -/
def execXw (x : Xw) (s : State) : Out :=
  s.guarded (if s.iss.pfx.isSome then some (s.wordTrap .illop) else none) fun s =>
    .next { s with iss := { s.iss with pfx := some x } }

end Sys2Proof.Machine
end

