-- ==== Sys2Proof/Machine/Dispatch.lean ====
section
/-!
DEFINITION. One arm for each constructor of `Instr`: its meaning.
-/

namespace Sys2Proof.Machine

def exec (i : Instr) (s : State) : Host.Outcome State Fault Refusal :=
  match i with
  | .nop x0 => Sys2Proof.Machine.execNop x0 s
  | .trap x0 x1 => Sys2Proof.Machine.execTrap x0 x1 s
  | .eret x0 => Sys2Proof.Machine.execEret x0 s
  | .getsr x0 x1 x2 => Sys2Proof.Machine.execGetsr x0 x1 x2 s
  | .setsr x0 x1 x2 => Sys2Proof.Machine.execSetsr x0 x1 x2 s
  | .iclk x0 x1 x2 x3 => Sys2Proof.Machine.execIclk x0 x1 x2 x3 s
  | .icul x0 x1 x2 x3 => Sys2Proof.Machine.execIcul x0 x1 x2 x3 s
  | .atinv x0 x1 x2 x3 => Sys2Proof.Machine.execAtinv x0 x1 x2 x3 s
  | .atsync x0 x1 x2 => Sys2Proof.Machine.execAtsync x0 x1 x2 s
  | .mapr x0 x1 x2 x3 => Sys2Proof.Machine.execMapr x0 x1 x2 x3 s
  | .pkres x0 x1 x2 => Sys2Proof.Machine.execPkres x0 x1 x2 s
  | .pkill x0 x1 x2 => Sys2Proof.Machine.execPkill x0 x1 x2 s
  | .jmpr x0 x1 => Sys2Proof.Machine.execJmpr x0 x1 s
  | .callr x0 x1 => Sys2Proof.Machine.execCallr x0 x1 s
  | .ret x0 => Sys2Proof.Machine.execRet x0 s
  | .exit x0 => Sys2Proof.Machine.execExit x0 s
  | .join x0 => Sys2Proof.Machine.execJoin x0 s
  | .wbase x0 x1 => Sys2Proof.Machine.execWbase x0 x1 s
  | .phint x0 x1 x2 x3 => Sys2Proof.Machine.execPhint x0 x1 x2 x3 s
  | .idem x0 x1 x2 x3 => Sys2Proof.Machine.execIdem x0 x1 x2 x3 s
  | .qend x0 => Sys2Proof.Machine.execQend x0 s
  | .add x0 x1 x2 x3 => Sys2Proof.Machine.execAdd x0 x1 x2 x3 s
  | .sub x0 x1 x2 x3 => Sys2Proof.Machine.execSub x0 x1 x2 x3 s
  | .mul x0 x1 x2 x3 => Sys2Proof.Machine.execMul x0 x1 x2 x3 s
  | .mulh x0 x1 x2 x3 => Sys2Proof.Machine.execMulh x0 x1 x2 x3 s
  | .mulhU x0 x1 x2 x3 => Sys2Proof.Machine.execMulhU x0 x1 x2 x3 s
  | .mad x0 x1 x2 x3 => Sys2Proof.Machine.execMad x0 x1 x2 x3 s
  | .and x0 x1 x2 x3 => Sys2Proof.Machine.execAnd x0 x1 x2 x3 s
  | .or x0 x1 x2 x3 => Sys2Proof.Machine.execOr x0 x1 x2 x3 s
  | .xor x0 x1 x2 x3 => Sys2Proof.Machine.execXor x0 x1 x2 x3 s
  | .shl x0 x1 x2 x3 => Sys2Proof.Machine.execShl x0 x1 x2 x3 s
  | .shr x0 x1 x2 x3 => Sys2Proof.Machine.execShr x0 x1 x2 x3 s
  | .sar x0 x1 x2 x3 => Sys2Proof.Machine.execSar x0 x1 x2 x3 s
  | .min x0 x1 x2 x3 => Sys2Proof.Machine.execMin x0 x1 x2 x3 s
  | .minU x0 x1 x2 x3 => Sys2Proof.Machine.execMinU x0 x1 x2 x3 s
  | .max x0 x1 x2 x3 => Sys2Proof.Machine.execMax x0 x1 x2 x3 s
  | .maxU x0 x1 x2 x3 => Sys2Proof.Machine.execMaxU x0 x1 x2 x3 s
  | .abs x0 x1 x2 => Sys2Proof.Machine.execAbs x0 x1 x2 s
  | .clz x0 x1 x2 => Sys2Proof.Machine.execClz x0 x1 x2 s
  | .popc x0 x1 x2 => Sys2Proof.Machine.execPopc x0 x1 x2 s
  | .bfe x0 x1 x2 x3 => Sys2Proof.Machine.execBfe x0 x1 x2 x3 s
  | .bfeU x0 x1 x2 x3 => Sys2Proof.Machine.execBfeU x0 x1 x2 x3 s
  | .bfi x0 x1 x2 x3 => Sys2Proof.Machine.execBfi x0 x1 x2 x3 s
  | .sel x0 x1 x2 x3 => Sys2Proof.Machine.execSel x0 x1 x2 x3 s
  | .div x0 x1 x2 x3 => Sys2Proof.Machine.execDiv x0 x1 x2 x3 s
  | .divU x0 x1 x2 x3 => Sys2Proof.Machine.execDivU x0 x1 x2 x3 s
  | .rem x0 x1 x2 x3 => Sys2Proof.Machine.execRem x0 x1 x2 x3 s
  | .remU x0 x1 x2 x3 => Sys2Proof.Machine.execRemU x0 x1 x2 x3 s
  | .addSat x0 x1 x2 x3 => Sys2Proof.Machine.execAddSat x0 x1 x2 x3 s
  | .subSat x0 x1 x2 x3 => Sys2Proof.Machine.execSubSat x0 x1 x2 x3 s
  | .addi x0 x1 x2 x3 => Sys2Proof.Machine.execAddi x0 x1 x2 x3 s
  | .andi x0 x1 x2 x3 => Sys2Proof.Machine.execAndi x0 x1 x2 x3 s
  | .ori x0 x1 x2 x3 => Sys2Proof.Machine.execOri x0 x1 x2 x3 s
  | .xori x0 x1 x2 x3 => Sys2Proof.Machine.execXori x0 x1 x2 x3 s
  | .tsti x0 x1 x2 x3 => Sys2Proof.Machine.execTsti x0 x1 x2 x3 s
  | .shli x0 x1 x2 x3 => Sys2Proof.Machine.execShli x0 x1 x2 x3 s
  | .shri x0 x1 x2 x3 => Sys2Proof.Machine.execShri x0 x1 x2 x3 s
  | .sari x0 x1 x2 x3 => Sys2Proof.Machine.execSari x0 x1 x2 x3 s
  | .roti x0 x1 x2 x3 => Sys2Proof.Machine.execRoti x0 x1 x2 x3 s
  | .cmpi x0 x1 x2 x3 x4 => Sys2Proof.Machine.execCmpi x0 x1 x2 x3 x4 s
  | .movi x0 x1 x2 => Sys2Proof.Machine.execMovi x0 x1 x2 s
  | .fadd x0 x1 x2 x3 x4 => Sys2Proof.Machine.execFadd x0 x1 x2 x3 x4 s
  | .fsub x0 x1 x2 x3 x4 => Sys2Proof.Machine.execFsub x0 x1 x2 x3 x4 s
  | .fmul x0 x1 x2 x3 x4 => Sys2Proof.Machine.execFmul x0 x1 x2 x3 x4 s
  | .fma x0 x1 x2 x3 x4 => Sys2Proof.Machine.execFma x0 x1 x2 x3 x4 s
  | .fmin x0 x1 x2 x3 x4 => Sys2Proof.Machine.execFmin x0 x1 x2 x3 x4 s
  | .fmax x0 x1 x2 x3 x4 => Sys2Proof.Machine.execFmax x0 x1 x2 x3 x4 s
  | .fdiv x0 x1 x2 x3 x4 => Sys2Proof.Machine.execFdiv x0 x1 x2 x3 x4 s
  | .fsqrt x0 x1 x2 x3 => Sys2Proof.Machine.execFsqrt x0 x1 x2 x3 s
  | .fexp x0 x1 x2 x3 => Sys2Proof.Machine.execFexp x0 x1 x2 x3 s
  | .flog x0 x1 x2 x3 => Sys2Proof.Machine.execFlog x0 x1 x2 x3 s
  | .frcp x0 x1 x2 x3 => Sys2Proof.Machine.execFrcp x0 x1 x2 x3 s
  | .frsq x0 x1 x2 x3 => Sys2Proof.Machine.execFrsq x0 x1 x2 x3 s
  | .fsin x0 x1 x2 x3 => Sys2Proof.Machine.execFsin x0 x1 x2 x3 s
  | .fcos x0 x1 x2 x3 => Sys2Proof.Machine.execFcos x0 x1 x2 x3 s
  | .ftanh x0 x1 x2 x3 => Sys2Proof.Machine.execFtanh x0 x1 x2 x3 s
  | .ferf x0 x1 x2 x3 => Sys2Proof.Machine.execFerf x0 x1 x2 x3 s
  | .cvt x0 x1 x2 x3 x4 => Sys2Proof.Machine.execCvt x0 x1 x2 x3 x4 s
  | .mxq x0 x1 x2 x3 => Sys2Proof.Machine.execMxq x0 x1 x2 x3 s
  | .mxdq x0 x1 x2 x3 => Sys2Proof.Machine.execMxdq x0 x1 x2 x3 s
  | .terq x0 x1 x2 => Sys2Proof.Machine.execTerq x0 x1 x2 s
  | .frnd x0 x1 x2 x3 => Sys2Proof.Machine.execFrnd x0 x1 x2 x3 s
  | .icmp x0 x1 x2 x3 x4 => Sys2Proof.Machine.execIcmp x0 x1 x2 x3 x4 s
  | .icmpU x0 x1 x2 x3 x4 => Sys2Proof.Machine.execIcmpU x0 x1 x2 x3 x4 s
  | .fcmp x0 x1 x2 x3 x4 => Sys2Proof.Machine.execFcmp x0 x1 x2 x3 x4 s
  | .plog x0 x1 x2 x3 x4 => Sys2Proof.Machine.execPlog x0 x1 x2 x3 x4 s
  | .red x0 x1 x2 x3 => Sys2Proof.Machine.execRed x0 x1 x2 x3 s
  | .redFadd x0 x1 x2 => Sys2Proof.Machine.execRedFadd x0 x1 x2 s
  | .scan x0 x1 x2 x3 => Sys2Proof.Machine.execScan x0 x1 x2 x3 s
  | .ballot x0 x1 x2 => Sys2Proof.Machine.execBallot x0 x1 x2 s
  | .voteAll x0 x1 x2 => Sys2Proof.Machine.execVoteAll x0 x1 x2 s
  | .voteAny x0 x1 x2 => Sys2Proof.Machine.execVoteAny x0 x1 x2 s
  | .voteUni x0 x1 x2 => Sys2Proof.Machine.execVoteUni x0 x1 x2 s
  | .elect x0 x1 => Sys2Proof.Machine.execElect x0 x1 s
  | .shfl x0 x1 x2 x3 => Sys2Proof.Machine.execShfl x0 x1 x2 x3 s
  | .ld x0 x1 x2 x3 x4 x5 x6 x7 => Sys2Proof.Machine.execLd x0 x1 x2 x3 x4 x5 x6 x7 s
  | .ldx x0 x1 x2 x3 x4 x5 => Sys2Proof.Machine.execLdx x0 x1 x2 x3 x4 x5 s
  | .pref x0 x1 x2 x3 => Sys2Proof.Machine.execPref x0 x1 x2 x3 s
  | .st x0 x1 x2 x3 x4 x5 => Sys2Proof.Machine.execSt x0 x1 x2 x3 x4 x5 s
  | .stx x0 x1 x2 x3 x4 => Sys2Proof.Machine.execStx x0 x1 x2 x3 x4 s
  | .atom x0 x1 x2 x3 x4 x5 => Sys2Proof.Machine.execAtom x0 x1 x2 x3 x4 x5 s
  | .atomn x0 x1 x2 x3 x4 x5 => Sys2Proof.Machine.execAtomn x0 x1 x2 x3 x4 x5 s
  | .lds x0 x1 x2 x3 x4 => Sys2Proof.Machine.execLds x0 x1 x2 x3 x4 s
  | .sts x0 x1 x2 x3 x4 => Sys2Proof.Machine.execSts x0 x1 x2 x3 x4 s
  | .atoms x0 x1 x2 x3 x4 => Sys2Proof.Machine.execAtoms x0 x1 x2 x3 x4 s
  | .rld x0 x1 x2 => Sys2Proof.Machine.execRld x0 x1 x2 s
  | .rset x0 x1 x2 x3 => Sys2Proof.Machine.execRset x0 x1 x2 x3 s
  | .rget x0 x1 x2 x3 => Sys2Proof.Machine.execRget x0 x1 x2 x3 s
  | .rchk x0 x1 x2 x3 x4 => Sys2Proof.Machine.execRchk x0 x1 x2 x3 x4 s
  | .mma x0 x1 x2 x3 x4 x5 x6 x7 x8 => Sys2Proof.Machine.execMma x0 x1 x2 x3 x4 x5 x6 x7 x8 s
  | .mwait x0 x1 => Sys2Proof.Machine.execMwait x0 x1 s
  | .mqry x0 x1 x2 x3 => Sys2Proof.Machine.execMqry x0 x1 x2 x3 s
  | .maps x0 x1 x2 => Sys2Proof.Machine.execMaps x0 x1 x2 s
  | .aclr x0 x1 => Sys2Proof.Machine.execAclr x0 x1 s
  | .ard x0 x1 x2 x3 x4 => Sys2Proof.Machine.execArd x0 x1 x2 x3 x4 s
  | .awr x0 x1 x2 x3 => Sys2Proof.Machine.execAwr x0 x1 x2 x3 s
  | .ast x0 x1 x2 x3 x4 => Sys2Proof.Machine.execAst x0 x1 x2 x3 x4 s
  | .tcopy x0 x1 => Sys2Proof.Machine.execTcopy x0 x1 s
  | .ecmd x0 x1 => Sys2Proof.Machine.execEcmd x0 x1 s
  | .semwait x0 x1 x2 x3 => Sys2Proof.Machine.execSemwait x0 x1 x2 x3 s
  | .semsig x0 x1 x2 => Sys2Proof.Machine.execSemsig x0 x1 x2 s
  | .semrd x0 x1 x2 => Sys2Proof.Machine.execSemrd x0 x1 x2 s
  | .launch x0 x1 => Sys2Proof.Machine.execLaunch x0 x1 s
  | .fence x0 x1 x2 => Sys2Proof.Machine.execFence x0 x1 x2 s
  | .bar x0 x1 x2 => Sys2Proof.Machine.execBar x0 x1 x2 s
  | .barc x0 x1 x2 => Sys2Proof.Machine.execBarc x0 x1 x2 s
  | .drain x0 x1 x2 => Sys2Proof.Machine.execDrain x0 x1 x2 s
  | .odecl x0 x1 x2 => Sys2Proof.Machine.execOdecl x0 x1 x2 s
  | .orel x0 x1 x2 => Sys2Proof.Machine.execOrel x0 x1 x2 s
  | .lock x0 x1 x2 => Sys2Proof.Machine.execLock x0 x1 x2 s
  | .trylk x0 x1 x2 => Sys2Proof.Machine.execTrylk x0 x1 x2 s
  | .unlock x0 x1 x2 => Sys2Proof.Machine.execUnlock x0 x1 x2 s
  | .wreg x0 x1 x2 => Sys2Proof.Machine.execWreg x0 x1 x2 s
  | .waitv x0 x1 x2 => Sys2Proof.Machine.execWaitv x0 x1 x2 s
  | .wdone x0 => Sys2Proof.Machine.execWdone x0 s
  | .wqry x0 x1 => Sys2Proof.Machine.execWqry x0 x1 s
  | .pcls x0 x1 => Sys2Proof.Machine.execPcls x0 x1 s
  | .ebud x0 x1 x2 x3 => Sys2Proof.Machine.execEbud x0 x1 x2 x3 s
  | .wld x0 x1 x2 x3 x4 => Sys2Proof.Machine.execWld x0 x1 x2 x3 x4 s
  | .cbset x0 x1 x2 x3 x4 => Sys2Proof.Machine.execCbset x0 x1 x2 x3 x4 s
  | .wschk x0 x1 x2 x3 x4 => Sys2Proof.Machine.execWschk x0 x1 x2 x3 x4 s
  | .rnd x0 x1 x2 => Sys2Proof.Machine.execRnd x0 x1 x2 s
  | .chkp x0 x1 => Sys2Proof.Machine.execChkp x0 x1 s
  | .ispoi x0 x1 x2 => Sys2Proof.Machine.execIspoi x0 x1 x2 s
  | .mkpoi x0 x1 x2 => Sys2Proof.Machine.execMkpoi x0 x1 x2 s
  | .timew x0 x1 x2 => Sys2Proof.Machine.execTimew x0 x1 x2 s
  | .br x0 x1 x2 x3 => Sys2Proof.Machine.execBr x0 x1 x2 x3 s
  | .bru x0 x1 x2 x3 => Sys2Proof.Machine.execBru x0 x1 x2 x3 s
  | .call x0 x1 => Sys2Proof.Machine.execCall x0 x1 s
  | .xw x0 => Sys2Proof.Machine.execXw x0 s
  | .waveResultWriteback x0 x1 x2 => Sys2Proof.Machine.execWaveResultWriteback x0 x1 x2 s
  | .storeFifoDrain x0 => Sys2Proof.Machine.execStoreFifoDrain x0 s
  | .wcbLineWrite x0 x1 => Sys2Proof.Machine.execWcbLineWrite x0 x1 s
  | .homeAccess x0 x1 => Sys2Proof.Machine.execHomeAccess x0 x1 s
  | .mmaCommandStart x0 x1 => Sys2Proof.Machine.execMmaCommandStart x0 x1 s
  | .mmaCommandRetire x0 x1 => Sys2Proof.Machine.execMmaCommandRetire x0 x1 s
  | .codebookSlotReady x0 x1 => Sys2Proof.Machine.execCodebookSlotReady x0 x1 s
  | .weightStoreRefresh x0 x1 => Sys2Proof.Machine.execWeightStoreRefresh x0 x1 s
  | .tcopyStart x0 => Sys2Proof.Machine.execTcopyStart x0 s
  | .tcopyUnit x0 => Sys2Proof.Machine.execTcopyUnit x0 s
  | .tcopyComplete x0 => Sys2Proof.Machine.execTcopyComplete x0 s
  | .weightStoreGateAdmit x0 => Sys2Proof.Machine.execWeightStoreGateAdmit x0 s
  | .launchPortStage x0 x1 x2 => Sys2Proof.Machine.execLaunchPortStage x0 x1 x2 s
  | .launchPortEnqueue x0 x1 x2 => Sys2Proof.Machine.execLaunchPortEnqueue x0 x1 x2 s
  | .kernelTableReplace x0 x1 x2 => Sys2Proof.Machine.execKernelTableReplace x0 x1 x2 s
  | .kernelTableClear x0 x1 => Sys2Proof.Machine.execKernelTableClear x0 x1 s
  | .launchDispatch x0 => Sys2Proof.Machine.execLaunchDispatch x0 s
  | .workgroupPlace x0 => Sys2Proof.Machine.execWorkgroupPlace x0 s
  | .waveStart x0 => Sys2Proof.Machine.execWaveStart x0 s
  | .launchComplete x0 => Sys2Proof.Machine.execLaunchComplete x0 s
  | .leaseRequest x0 => Sys2Proof.Machine.execLeaseRequest x0 s
  | .leaseRelease x0 => Sys2Proof.Machine.execLeaseRelease x0 s
  | .leaseRecordWrite => Sys2Proof.Machine.execLeaseRecordWrite s
  | .boostClockRaise => Sys2Proof.Machine.execBoostClockRaise s
  | .leaseNotice => Sys2Proof.Machine.execLeaseNotice s
  | .leaseEnd => Sys2Proof.Machine.execLeaseEnd s
  | .allReduce x0 => Sys2Proof.Machine.execAllReduce x0 s
  | .reduceScatter x0 => Sys2Proof.Machine.execReduceScatter x0 s
  | .allGather x0 => Sys2Proof.Machine.execAllGather x0 s
  | .broadcast x0 => Sys2Proof.Machine.execBroadcast x0 s
  | .collectiveComplete x0 => Sys2Proof.Machine.execCollectiveComplete x0 s
  | .collectiveTimeout x0 => Sys2Proof.Machine.execCollectiveTimeout x0 s
  | .quantumCommit x0 => Sys2Proof.Machine.execQuantumCommit x0 s
  | .waitConditionMet x0 => Sys2Proof.Machine.execWaitConditionMet x0 s
  | .clusterBarrierHeldRelease x0 x1 => Sys2Proof.Machine.execClusterBarrierHeldRelease x0 x1 s
  | .lockRetry x0 => Sys2Proof.Machine.execLockRetry x0 s
  | .waitvRetest x0 => Sys2Proof.Machine.execWaitvRetest x0 s
  | .priorityInheritanceUpdate => Sys2Proof.Machine.execPriorityInheritanceUpdate s
  | .deadlockScan => Sys2Proof.Machine.execDeadlockScan s
  | .shedExemptionReturn x0 => Sys2Proof.Machine.execShedExemptionReturn x0 s
  | .stpFrame x0 => Sys2Proof.Machine.execStpFrame x0 s
  | .telemetryLoss => Sys2Proof.Machine.execTelemetryLoss s
  | .budgetUpdate => Sys2Proof.Machine.execBudgetUpdate s
  | .classRestore => Sys2Proof.Machine.execClassRestore s
  | .forcedShedStart x0 => Sys2Proof.Machine.execForcedShedStart x0 s
  | .shedInstructionLimit x0 => Sys2Proof.Machine.execShedInstructionLimit x0 s
  | .allowanceEpoch => Sys2Proof.Machine.execAllowanceEpoch s
  | .ballastOvercapLimit => Sys2Proof.Machine.execBallastOvercapLimit s
  | .clkpatWrite x0 x1 => Sys2Proof.Machine.execClkpatWrite x0 x1 s
  | .clkpatApply => Sys2Proof.Machine.execClkpatApply s
  | .preemptionRequest x0 => Sys2Proof.Machine.execPreemptionRequest x0 s
  | .preemptInstructionLimit x0 => Sys2Proof.Machine.execPreemptInstructionLimit x0 s
  | .workgroupSave x0 => Sys2Proof.Machine.execWorkgroupSave x0 s
  | .workgroupRestore x0 => Sys2Proof.Machine.execWorkgroupRestore x0 s
  | .atinvDelivery x0 x1 => Sys2Proof.Machine.execAtinvDelivery x0 x1 s
  | .atinvAcknowledge x0 x1 => Sys2Proof.Machine.execAtinvAcknowledge x0 x1 s
  | .timewExpire x0 => Sys2Proof.Machine.execTimewExpire x0 s
  | .csctlWrite x0 x1 => Sys2Proof.Machine.execCsctlWrite x0 x1 s
  | .csctlChangeComplete x0 => Sys2Proof.Machine.execCsctlChangeComplete x0 s
  | .semcfgWrite x0 x1 x2 => Sys2Proof.Machine.execSemcfgWrite x0 x1 x2 s
  | .contextActivate x0 x1 => Sys2Proof.Machine.execContextActivate x0 x1 s
  | .contextKill x0 => Sys2Proof.Machine.execContextKill x0 s
  | .warmStart x0 x1 x2 => Sys2Proof.Machine.execWarmStart x0 x1 x2 s
  | .coldStart x0 x1 => Sys2Proof.Machine.execColdStart x0 x1 s
  | .powerOn x0 x1 => Sys2Proof.Machine.execPowerOn x0 x1 s
  | .dieDisable x0 => Sys2Proof.Machine.execDieDisable x0 s
  | .dieFailure x0 => Sys2Proof.Machine.execDieFailure x0 s
  | .uncorrectedError x0 => Sys2Proof.Machine.execUncorrectedError x0 s
  | .correctedError x0 => Sys2Proof.Machine.execCorrectedError x0 s
  | .contextRecovery x0 => Sys2Proof.Machine.execContextRecovery x0 s
  | .tadjRate x0 => Sys2Proof.Machine.execTadjRate x0 s
  | .tadjStep x0 => Sys2Proof.Machine.execTadjStep x0 s
  | .actPreempt => Sys2Proof.Machine.execActPreempt s
  | .actPkres x0 => Sys2Proof.Machine.execActPkres x0 s
  | .actPkill x0 => Sys2Proof.Machine.execActPkill x0 s
  | .actAtinv => Sys2Proof.Machine.execActAtinv s
  | .actAtsync x0 => Sys2Proof.Machine.execActAtsync x0 s
  | .actEnergyCredit x0 => Sys2Proof.Machine.execActEnergyCredit x0 s
  | .actPoolFrameReturn x0 => Sys2Proof.Machine.execActPoolFrameReturn x0 s
  | .actPoolFrameMarkInUse x0 => Sys2Proof.Machine.execActPoolFrameMarkInUse x0 s
  | .actBreakpoint x0 => Sys2Proof.Machine.execActBreakpoint x0 s
  | .attestationReport x0 => Sys2Proof.Machine.execAttestationReport x0 s
  | .mgmtRegisterWrite x0 x1 => Sys2Proof.Machine.execMgmtRegisterWrite x0 x1 s
  | .gctxWrite x0 x1 => Sys2Proof.Machine.execGctxWrite x0 x1 s
  | .hartCoherentAccess x0 x1 x2 x3 => Sys2Proof.Machine.execHartCoherentAccess x0 x1 x2 x3 s
  | .coherenceProbe x0 x1 x2 x3 => Sys2Proof.Machine.execCoherenceProbe x0 x1 x2 x3 s
  | .objectEvictRelease x0 x1 => Sys2Proof.Machine.execObjectEvictRelease x0 x1 s
  | .ethernetReceive x0 x1 x2 => Sys2Proof.Machine.execEthernetReceive x0 x1 x2 s
  | .ethernetTransmit x0 x1 => Sys2Proof.Machine.execEthernetTransmit x0 x1 s
  | .remoteAccessIncoming x0 x1 => Sys2Proof.Machine.execRemoteAccessIncoming x0 x1 s
  | .remoteAccessFailure x0 => Sys2Proof.Machine.execRemoteAccessFailure x0 s
  | .linkFailure x0 x1 x2 x3 => Sys2Proof.Machine.execLinkFailure x0 x1 x2 x3 s
  | .rackBusUndervoltage => Sys2Proof.Machine.execRackBusUndervoltage s

end Sys2Proof.Machine
end

