-- ==== Sys2Proof/Machine/Mgmt.lean ====
section
/-!
DEFINITION. What a load of a management register returns (R316, R317): a view of the state. A load changes nothing, so no step stands for
it. The decoding of offsets, and the harts' loads and stores, are in HartIo.lean.
-/

namespace Sys2Proof.Machine

/-- The management registers by name. R316 gives the power block one offset and its registers no offsets of their own. A cluster is
numbered 32 * die + cluster; `word` is an 8-byte word of an entry. -/
inductive MgmtView where
  | mgid | rstctl | diehlth | tadj | colto
  | ctxdesc (asid : Nat)
  | lqcfg (queue : Nat)
  | semcfg (n : Nat)
  | csemcfg (cluster i : Nat)
  | pwcfg
  | pwbp (n : Nat)
  | pwctl | pwstat
  | pwew (ic cls : Nat)
  | pwbal | pwovsEnergy | pwovsCount
  | csctl (cluster : Nat)
  | clkpat (cluster : Nat)
  | waitEntry (n word : Nat)
  | objEntry (n word : Nat)
  | actOpnd (n : Nat)
  | actCmd (n : Nat)
  | extent (gcore slot entry word : Nat)
  | unnamed
deriving DecidableEq, Repr

/-- An 8-byte word of a wide entry. -/
def dwordOf (x word : Nat) : Word64 := BitVec.ofNat 64 (x / 2 ^ (64 * word))

/-- A wait entry's 128 bits (R230). -/
def State.waitEntBits (s : State) (e : WaitEnt) : Nat :=
  let w := s.waveAt e.waiter
  1 + e.kind.code * 2 + w.env.shedClass.toNat * 2 ^ 4 + w.env.eff.toNat * 2 ^ 7 + e.asid * 2 ^ 10 + e.obj * 2 ^ 20 +
    w.id.handle.toNat % 2 ^ 48 * 2 ^ 32 + e.stamp % 2 ^ 32 * 2 ^ 80

/-- HV and HOLDER: the one holder, or the one that has left (R231, R233). -/
def State.holderOf (s : State) (e : ObjEnt) : Option Word64 :=
  match e.holder, s.holders ⟨e.kind, e.asid, e.key, e.pa⟩ with
  | some h, _ => some h
  | none, [k] => some (s.waveAt k).id.handle
  | none, _ => none

/-- An object entry's 256 bits (R231). -/
def State.objEntBits (s : State) (n : Nat) (e : ObjEnt) : Nat :=
  let h := s.holderOf e
  1 + e.kind.code * 2 + h.isSome.toNat * 2 ^ 4 + e.orph.toNat * 2 ^ 5 + e.held.toNat * 2 ^ 6 +
    (s.belay.waits.filter fun x => x.2.obj == n).length * 2 ^ 8 + e.asid * 2 ^ 22 + e.key.toNat * 2 ^ 64 +
    (h.getD 0#64).toNat % 2 ^ 48 * 2 ^ 128

/-- An extent entry's 256 bits (R273). An entry that covers no address is not valid. -/
def Piece.bits (p : Piece) : Nat :=
  p.vbase % 2 ^ 57 + p.vlim % 2 ^ 57 * 2 ^ 64 + p.pbase % 2 ^ 52 * 2 ^ 128 + p.r.toNat * 2 ^ 192 + p.w.toNat * 2 ^ 193 +
    p.mt.toNat * 2 ^ 194 + p.decl % 16 * 2 ^ 196 + (decide (p.vbase < p.vlim)).toNat * 2 ^ 200

/-- The placed workgroup on a core whose lowest wave slot is `slot` (R316). An exited wave holds no slot (R113). -/
def State.wgAtSlot (s : State) (gcore slot : Nat) : Option Wg :=
  (s.wgs.find? fun e => 128 * e.2.die + e.2.core == gcore && e.2.st != .saved && e.2.st != .killed && e.2.st != .completed &&
    ((s.liveWaves e.1).flatMap fun w => w.2.id.slot.toNat :: (if w.2.id.paired then [w.2.id.slotHi.toNat] else [])).min? == some slot).map (·.2)

/-- Is the workgroup that action 0 named still being saved (R317)? -/
def State.preempting (s : State) : Bool :=
  match s.sys.actPre.bind s.wgs.find with
  | some g => g.st == .preempting
  | none => false

/-- An 8-byte load of a register. An offset that names none reads as zero, as do the write-only fields. -/
def State.mgmtRead (s : State) : MgmtView → Word64
  | .mgid => BitVec.ofNat 64 (0x4724 + Config.siliconStep.toNat * 2 ^ 16 + 21 * 2 ^ 24)
  | .rstctl => BitVec.ofNat 64 (s.sys.last.toNat * 4 + s.sys.boots.toNat * 2 ^ 16)
  | .diehlth => BitVec.ofNat 64 (s.sys.chlth.toNat + s.sys.qhlth.toNat * 2 ^ 16)
  | .tadj => (BitVec.ofInt 32 s.sys.rate).setWidth 64
  | .colto => s.sys.colto
  | .ctxdesc a =>
    let c := s.ctxAt a
    BitVec.ofNat 64 (c.live.toNat + c.stat.toNat * 2 + c.addr)
  | .lqcfg q => s.hub.lqcfg.get 0#64 q
  | .semcfg n => s.hub.semcfg.get 0#64 n
  | .csemcfg cl i => s.hub.csemcfg.get 0#64 (256 * cl + i)
  | .pwcfg => s.pw.pwcfg
  | .pwbp n => (s.pw.pwbp[n]?).getD 0#64
  | .pwctl => s.pw.pwctl
  | .pwstat => BitVec.ofNat 64 (s.pw.tl.toNat + s.pw.cbad.toNat * 2 + s.pw.stperr.toNat * 2 ^ 16)
  | .pwew ic cls => ((s.pw.pwew.get 0#24 (4 * ic + cls))).setWidth 64
  | .pwbal => BitVec.ofNat 64 (min s.pw.bal (2 ^ 64 - 1))
  | .pwovsEnergy => BitVec.ofNat 64 (min (s.pw.ovsEnergy / 1000000) (2 ^ 64 - 1))
  | .pwovsCount => s.pw.ovsCount.setWidth 64
  | .csctl cl =>
    let c := s.caches.csctl.get CsCtl.reset cl
    BitVec.ofNat 64 (c.ways.toNat + c.curOwner % 2 ^ 10 * 2 ^ 4 + c.pend.toNat * 2 ^ 16 + c.err.toNat * 2 ^ 17 + c.cur * 2 ^ 20)
  | .clkpat cl => (s.pw.clkpat.get 0xFFFF#16 cl).setWidth 64
  | .waitEntry n word => ((s.belay.waits.find n).map fun e => dwordOf (s.waitEntBits e) word).getD 0#64
  | .objEntry n word => ((s.belay.objs.find n).map fun e => dwordOf (s.objEntBits n e) word).getD 0#64
  | .actOpnd n => s.opnd n
  | .actCmd n => if n = 0 ∧ s.preempting then 1#64 else s.sys.actCmd.get 0#64 n
  | .extent gc slot entry word => ((s.wgAtSlot gc slot).bind fun g => (g.ext[entry]?).map fun p => dwordOf p.bits word).getD 0#64
  | .unnamed => 0#64

/-- A load by hart `h` from a launch port (R130): 8 bytes at offset 0 of its own window read PSTAT, any other load zero. -/
def State.portRead (s : State) (asid h offset size : Nat) : Word64 :=
  if s.portOpen asid h && offset == 64 * h && size == 8 then (s.ctxAt asid).pstat.get 0#64 h else 0#64

end Sys2Proof.Machine
end

