-- ==== Sys2Proof/Machine/HartIo.lean ====
section
/-!
DEFINITION. The harts' loads and stores to the management registers and the launch ports (R314, R316): which register an offset names, what
a store to it does, and what a load of it returns.
-/

namespace Sys2Proof.Machine

def mgBase : Nat := 0x7F00000000000

/-- The entry of `size` bytes that an offset lies in, in a block of `n` entries from `base`, and the offset inside it. -/
def inBlock (base size n off : Nat) : Option (Nat × Nat) :=
  if base ≤ off ∧ off < base + size * n then some ((off - base) / size, (off - base) % size) else none

/-- A register of the power block, by its number (log entry 19). -/
def powerView (n : Nat) : MgmtView :=
  if n = 0 then .pwcfg
  else if n ≤ 8 then .pwbp (n - 1)
  else if n = 9 then .pwctl
  else if n = 10 then .pwstat
  else if n ≤ 42 then .pwew ((n - 11) / 4) ((n - 11) % 4)
  else if n = 43 then .pwbal
  else if n = 44 then .pwovsEnergy
  else if n = 45 then .pwovsCount
  else .unnamed

/-- An entry of 8 bytes, met at its start. -/
def dwordEntry (e : Nat × Nat) (f : Nat → MgmtView) : MgmtView := if e.2 = 0 then f e.1 else .unnamed

/-- A dword of a wider entry. -/
def wordEntry (e : Nat × Nat) (f : Nat → Nat → MgmtView) : MgmtView := if e.2 % 8 = 0 then f e.1 (e.2 / 8) else .unnamed

/-- The register at an offset from MGBASE (R316); launch ports apart. -/
def mgmtAt (off : Nat) : MgmtView :=
  if off = 0 then .mgid
  else if off = 0x1000 then .rstctl
  else if off = 0x2000 then .diehlth
  else if off = 0x3000 then .tadj
  else if off = 0x4000 then .colto
  else match inBlock 0x10000 8 1024 off with
  | some e => dwordEntry e .ctxdesc
  | none => match inBlock 0x20000 8 256 off with
  | some e => dwordEntry e .lqcfg
  | none => match inBlock 0x30000 8 1024 off with
  | some e => dwordEntry e .semcfg
  | none => match inBlock 0x100000 8 131072 off with
  | some e => dwordEntry e fun n => .csemcfg (n / 256) (n % 256)
  | none => match inBlock 0x200000 0x10000 1 off with
  | some e => ((Config.powerReg e.2).map powerView).getD .unnamed
  | none => match inBlock 0x210000 8 512 off with
  | some e => dwordEntry e .csctl
  | none => match inBlock 0x220000 8 512 off with
  | some e => dwordEntry e .clkpat
  | none => match inBlock 0x400000 16 8192 off with
  | some e => wordEntry e .waitEntry
  | none => match inBlock 0x600000 32 2048 off with
  | some e => wordEntry e .objEntry
  | none => match inBlock 0xC00000 16 9 off with
  | some e => wordEntry e fun n w => if w = 0 then .actOpnd n else .actCmd n
  | none => match inBlock 0x4000000 2048 98304 off with
  | some e => wordEntry e fun n w => .extent (n / 48) (n % 48) (w / 4) (w % 4)
  | none => .unnamed

/-- A write of RSTCTL: COLD takes precedence over WARM (R327). What the die tests of a cold start find is free. -/
def State.startWrite (s : State) (v : Word64) : Out :=
  let chlth : BitVec 16 := (Config.undefined64 s.tick 6).setWidth 16
  let qhlth : BitVec 4 := (Config.undefined64 s.tick 7).setWidth 4
  if v.getLsbD 1 then exec (.coldStart chlth qhlth) s
  else if v.getLsbD 0 then exec (.warmStart ((Config.undefined64 s.tick 8).getLsbD 0) chlth qhlth) s
  else .next s

/-- A write of TADJ: the rate, and the step applied once (R321). -/
def State.timeWrite (s : State) (v : Word64) : Out :=
  match exec (.tadjRate (v.setWidth 32)) s with
  | .next s => exec (.tadjStep (v.extractLsb' 32 31)) s
  | o => o

/-- A write of ACTn CMD (R317). -/
def State.actWrite (s : State) (n : Nat) (v : Word64) : Out :=
  match n with
  | 0 => exec .actPreempt s
  | 1 => exec (.actPkres v) s
  | 2 => exec (.actPkill v) s
  | 3 => exec .actAtinv s
  | 4 => exec (.mgmtRegisterWrite .act4Cmd v) s
  | 5 => exec (.actAtsync v) s
  | 6 => exec (.actEnergyCredit v) s
  | 7 => if v.getLsbD 17 then exec (.actPoolFrameMarkInUse v) s else exec (.actPoolFrameReturn v) s
  | 8 => exec (.actBreakpoint v) s
  | _ => .next s

/-- An 8-byte store to a register; read-only and unnamed ones ignore it (R316). -/
def State.mgmtStore (s : State) (v : Word64) : MgmtView → Out
  | .rstctl => s.startWrite v
  | .diehlth => .next ((List.range 16).foldl (fun s d => if v.getLsbD d then s.failDie d else s) s)
  | .tadj => s.timeWrite v
  | .colto => exec (.mgmtRegisterWrite .colto v) s
  | .ctxdesc a => if v.getLsbD 0 then exec (.contextActivate a v) s else exec (.contextKill ⟨a, v⟩) s
  | .lqcfg q => exec (.mgmtRegisterWrite (.lqcfg q) v) s
  | .semcfg n => exec (.semcfgWrite true n v) s
  | .csemcfg cl i => exec (.semcfgWrite false (256 * cl + i) v) s
  | .pwcfg => exec (.mgmtRegisterWrite .pwcfg v) s
  | .pwbp n => exec (.mgmtRegisterWrite (.pwbp n) v) s
  | .pwctl => exec (.mgmtRegisterWrite .pwctl v) s
  | .pwstat => exec (.mgmtRegisterWrite .pwstat v) s
  | .pwew ic cls => exec (.mgmtRegisterWrite (.pwew ic cls) v) s
  | .csctl cl => exec (.csctlWrite cl v) s
  | .clkpat cl => exec (.clkpatWrite cl (v.setWidth 16)) s
  | .actOpnd n => exec (.mgmtRegisterWrite (.actOpnd n) v) s
  | .actCmd n => s.actWrite n v
  | .mgid | .pwbal | .pwovsEnergy | .pwovsCount | .waitEntry _ _ | .objEntry _ _ | .extent _ _ _ _ | .unnamed => .next s

/-- The launch port that an offset from MGBASE lies in: its context and the offset inside it (R130, R316). -/
def portAt (off : Nat) : Option (Nat × Nat) := inBlock 0x10000000 0x2000 1024 off

/-- A hart stores to the block (R314, R316): to a window of its own at a launch port in any mode; to a register in M or HS mode, 8
aligned bytes. A store of another size, or to another hart's window, is discarded. -/
def State.hartStore (s : State) (hart pa : Nat) (data : List Byte) : Out :=
  if 128 ≤ hart ∨ !isMgmt pa then .next s
  else
    let off := pa - mgBase
    match portAt off with
    | some (asid, o) =>
      if o / 64 != hart then .next s
      else if o % 64 + data.length ≤ 0x38 then exec (.launchPortStage asid o data) s
      else exec (.launchPortEnqueue asid o data) s
    | none =>
      if !(s.hartModeOf hart).system then .next (s.hartRaise hart .storeAccess)
      else if data.length = 8 then s.mgmtStore (BitVec.ofNat 64 (numOfBytes data)) (mgmtAt off)
      else .next s

/-- A hart loads `n` bytes from the block (R130, R316): a load that is not of 8 bytes returns zero. -/
def State.hartLoad (s : State) (hart pa n : Nat) : State :=
  if 128 ≤ hart ∨ !isMgmt pa then s
  else
    let off := pa - mgBase
    match portAt off with
    | some (asid, o) => s.hartResult hart (s.portRead asid hart o n)
    | none =>
      if !(s.hartModeOf hart).system then s.hartRaise hart .loadAccess
      else s.hartResult hart (if n = 8 then s.mgmtRead (mgmtAt off) else 0#64)

end Sys2Proof.Machine
end

