-- ==== Sys2Proof/Machine/Issue.lean ====
section
/-!
DEFINITION. Issuing (R106, R145, R160, R290, R298): which wave and slot issue, the fetch, the charge, what a cycle of the master
clock does, and the agents that may move.
-/

namespace Sys2Proof.Machine

/-! ## What an issue charges (R298) -/

/-- The instruction class, and whether the form is one that charges it in full: a scalar form of classes 1 to 3 charges class 0. -/
def weightClass : Instr → Nat × Bool
  | .nop _ | .trap _ _ | .eret _ | .getsr _ _ _ | .setsr _ _ _ | .iclk _ _ _ _ | .icul _ _ _ _ | .atinv _ _ _ _
  | .atsync _ _ _ | .mapr _ _ _ _ | .pkres _ _ _ | .pkill _ _ _ | .jmpr _ _ | .callr _ _ | .ret _ | .exit _ | .join _
  | .wbase _ _ | .phint _ _ _ _ | .idem _ _ _ _ | .qend _ | .rld _ _ _ | .rset _ _ _ _ | .rget _ _ _ _
  | .rchk _ _ _ _ _ | .mwait _ _ | .mqry _ _ _ _ | .maps _ _ _ | .tcopy _ _ | .ecmd _ _ | .semwait _ _ _ _
  | .semsig _ _ _ | .semrd _ _ _ | .launch _ _ | .fence _ _ _ | .bar _ _ _ | .barc _ _ _ | .drain _ _ _ | .odecl _ _ _
  | .orel _ _ _ | .lock _ _ _ | .trylk _ _ _ | .unlock _ _ _ | .wreg _ _ _ | .waitv _ _ _ | .wdone _ | .wqry _ _
  | .pcls _ _ | .ebud _ _ _ _ | .br _ _ _ _ | .bru _ _ _ _ | .call _ _ | .xw _ | .waveResultWriteback _ _ _
  | .storeFifoDrain _ | .wcbLineWrite _ _ | .homeAccess _ _ | .mmaCommandStart _ _ | .mmaCommandRetire _ _
  | .codebookSlotReady _ _ | .weightStoreRefresh _ _ | .tcopyStart _ | .tcopyUnit _ | .tcopyComplete _
  | .weightStoreGateAdmit _ | .launchPortStage _ _ _ | .launchPortEnqueue _ _ _ | .kernelTableReplace _ _ _
  | .kernelTableClear _ _ | .launchDispatch _ | .workgroupPlace _ | .waveStart _ | .launchComplete _ | .leaseRequest _
  | .leaseRelease _ | .leaseRecordWrite | .boostClockRaise | .leaseNotice | .leaseEnd | .allReduce _ | .reduceScatter _
  | .allGather _ | .broadcast _ | .collectiveComplete _ | .collectiveTimeout _ | .quantumCommit _ | .waitConditionMet _
  | .clusterBarrierHeldRelease _ _ | .lockRetry _ | .waitvRetest _ | .priorityInheritanceUpdate | .deadlockScan
  | .shedExemptionReturn _ | .stpFrame _ | .telemetryLoss | .budgetUpdate | .classRestore | .forcedShedStart _
  | .shedInstructionLimit _ | .allowanceEpoch | .ballastOvercapLimit | .clkpatWrite _ _ | .clkpatApply
  | .preemptionRequest _ | .preemptInstructionLimit _ | .workgroupSave _ | .workgroupRestore _ | .atinvDelivery _ _
  | .atinvAcknowledge _ _ | .timewExpire _ | .csctlWrite _ _ | .csctlChangeComplete _ | .semcfgWrite _ _ _
  | .contextActivate _ _ | .contextKill _ | .warmStart _ _ _ | .coldStart _ _ | .powerOn _ _ | .dieDisable _
  | .dieFailure _ | .uncorrectedError _ | .correctedError _ | .contextRecovery _ | .tadjRate _ | .tadjStep _
  | .actPreempt | .actPkres _ | .actPkill _ | .actAtinv | .actAtsync _ | .actEnergyCredit _ | .actPoolFrameReturn _
  | .actPoolFrameMarkInUse _ | .actBreakpoint _ | .attestationReport _ | .mgmtRegisterWrite _ _ | .gctxWrite _ _
  | .hartCoherentAccess _ _ _ _ | .coherenceProbe _ _ _ _ | .objectEvictRelease _ _ | .ethernetReceive _ _ _
  | .ethernetTransmit _ _ | .remoteAccessIncoming _ _ | .remoteAccessFailure _ | .linkFailure _ _ _ _
  | .rackBusUndervoltage => (0, true)
  | .plog _ _ _ _ _ | .voteAll _ _ _ | .voteAny _ _ _ | .voteUni _ _ _ | .elect _ _ => (1, false)
  | .tsti _ _ a _ | .cmpi _ _ a _ _ | .movi _ a _ | .ballot _ a _ | .chkp _ a | .ispoi _ _ a => (1, [a].any Opd.isVec)
  | .abs _ a b | .clz _ a b | .popc _ a b | .addi _ a b _ | .andi _ a b _ | .ori _ a b _ | .xori _ a b _
  | .shli _ a b _ | .shri _ a b _ | .sari _ a b _ | .roti _ a b _ | .icmp _ _ a b _ | .icmpU _ _ a b _
  | .fcmp _ _ a b _ | .red _ a b _ | .redFadd _ a b | .scan _ a b _ | .rnd _ a b | .mkpoi _ a b | .timew _ a b => (1, [a, b].any Opd.isVec)
  | .add _ a b c | .sub _ a b c | .mul _ a b c | .mulh _ a b c | .mulhU _ a b c | .mad _ a b c | .and _ a b c
  | .or _ a b c | .xor _ a b c | .shl _ a b c | .shr _ a b c | .sar _ a b c | .min _ a b c | .minU _ a b c
  | .max _ a b c | .maxU _ a b c | .bfe _ a b c | .bfeU _ a b c | .bfi _ a b c | .sel _ a b c | .addSat _ a b c
  | .subSat _ a b c | .shfl _ a b c => (1, [a, b, c].any Opd.isVec)
  | .cvt _ a b _ _ | .mxq _ a b _ | .mxdq _ a b _ | .terq _ a b | .frnd _ a b _ => (2, [a, b].any Opd.isVec)
  | .fadd _ a b c _ | .fsub _ a b c _ | .fmul _ a b c _ | .fma _ a b c _ | .fmin _ a b c _ | .fmax _ a b c _ => (2, [a, b, c].any Opd.isVec)
  | .fsqrt _ a b _ | .fexp _ a b _ | .flog _ a b _ | .frcp _ a b _ | .frsq _ a b _ | .fsin _ a b _ | .fcos _ a b _
  | .ftanh _ a b _ | .ferf _ a b _ => (3, [a, b].any Opd.isVec)
  | .div _ a b c | .divU _ a b c | .rem _ a b c | .remU _ a b c | .fdiv _ a b c _ => (3, [a, b, c].any Opd.isVec)
  | .ld _ _ _ _ _ _ _ _ | .ldx _ _ _ _ _ _ | .pref _ _ _ _ | .st _ _ _ _ _ _ | .stx _ _ _ _ _ | .atom _ _ _ _ _ _
  | .atomn _ _ _ _ _ _ | .cbset _ _ _ _ _ => (4, true)
  | .lds _ _ _ _ _ | .sts _ _ _ _ _ | .atoms _ _ _ _ _ | .aclr _ _ | .ard _ _ _ _ _ | .awr _ _ _ _ | .ast _ _ _ _ _
  | .wld _ _ _ _ _ | .wschk _ _ _ _ _ => (5, true)
  | .mma _ _ _ _ _ _ _ _ _ => (6, true)

/-- The weight of an issue, in pJ, on the die of the wave; an MMA charges for each of its cycles, one that traps class 0. -/
def State.issueWeight (s : State) (i : WaveId) (con : Nat) (trapped : Bool) (x : Instr) : Nat :=
  let c := weightClass x
  let die := i.die.toNat
  let one :=
    if c.1 = 6 then (if trapped then s.weightOf 0 die else s.weightOf 6 die * mmaCycles con (dieClass die))
    else if c.2 then s.weightOf c.1 die else s.weightOf 0 die
  if i.paired then 2 * one else one

/-- Charge an issue to the cluster, the context, the launch and the withholding class. -/
def State.chargeIssue (s : State) (i : WaveId) (cls pj : Nat) : State :=
  let s := s.chargeEnergy i.asid.toNat i.launchKey pj
  { s with pw := { s.pw with
      allow := s.pw.allow.modify 0 i.cluster (· - (pj : Int)),
      charge := s.pw.charge.modify 0 i.cluster (· + pj),
      classCharge := s.pw.classCharge.modify 0 cls (· + pj) } }

/-! ## Fetch and run -/

/-- A trap of the fetch: IFETCH with the fetch address, or MCHK with the damaged address (R250, R268, R290). -/
def State.fetchTrap (s : State) (va : Nat) : FetchRes → Trap
  | .ue pa => s.mchk pa
  | _ => Trap.plain .ifetch (BitVec.ofNat 64 va) s.mask

/-- Fetch the instruction at `va`, both words of an MMA, and decode it. A failure is a trap and the state to take it in. -/
def State.fetchInstr (s : State) (va : Nat) : Except (Trap × State) (Instr × State) :=
  match s.fetchWord va with
  | .error r => .error (s.fetchTrap va r, s)
  | .ok (w, s) =>
    let s := { s with iss := { s.iss with word := w } }
    if hasSecondWord w then
      match s.fetchWord (va + 4) with
      | .error r => .error (s.fetchTrap (va + 4) r, s)
      | .ok (w1, s) =>
        match decodeWords w w1 with
        | .ok i => .ok (i, s)
        | .error _ => .error (s.wordTrap .undef, s)
    else match decodeWords w 0#32 with
      | .ok i => .ok (i, s)
      | .error _ => .error (s.wordTrap .undef, s)

def isXw : Instr → Bool
  | .xw _ => true
  | _ => false

/-- What an issue comes to: the instruction that ran, if any, and the outcome. -/
structure Ran where
  instr : Option Instr
  out : Out

/-- Fetch, decode and run the instruction of the issue latch; a prefix runs with the instruction after it. -/
def State.runIssue (s : State) : Ran :=
  match s.fetchInstr s.pc.toNat with
  | .error (t, s) => ⟨none, .next (s.takeTrap t)⟩
  | .ok (i, s) =>
    if !isXw i then ⟨some i, exec i s⟩
    else match exec i s with
      | .next s =>
        match s.fetchInstr (s.pc.toNat + 4) with
        | .error (t, s) => ⟨none, .next (s.takeTrap t)⟩
        | .ok (j, s) => ⟨some j, exec j s⟩
      | o => ⟨some i, o⟩

/-- A breakpoint or single-step stands before the instruction (R250, log entry 12). -/
def State.breaks (s : State) : Bool := s.ctx.step || s.ctx.breaks.contains s.pc.toNat

/-- BREAK is taken before the instruction. -/
def State.takeBreak (s : State) : State := s.takeTrap (Trap.plain .brk 0#64 s.mask)

/-- The schedulers that an issue takes: both of a pair's. -/
def WaveId.issuers (i : WaveId) : List Nat :=
  (4 * i.gcore + i.sched.toNat) :: if i.paired then [4 * i.gcore + i.sched.toNat + 1] else []

/-- After an issue: nothing more for a stall; else the charge, the wave's age, and its schedulers have issued. -/
def State.afterIssue (s : State) (k : Nat) (slot : Bool) (i : WaveId) (cls pj : Nat) : State :=
  if s.iss.out = .stalled then { s with iss := Issue.none }
  else
    let s := s.chargeIssue i cls pj
    let s := if (s.waves.find k).isSome then
        s.modWaveAt k fun w => { w with age := 0, since := 0, pcs := { w.pcs with lastIssued := slot } }
      else s
    { s with iss := Issue.none, issuedNow := s.issuedNow ++ i.issuers }

/-- The slot that would issue next (R106, R253): in handler mode the trapped one; else the eligible one, in turn when both are. -/
def Wave.nextSlot (w : Wave) : Option Bool :=
  let can (b : Bool) : Bool := match w.pcs.slot b with
    | some x => !x.waiting && (!w.env.hm || b == w.env.hsaveSlot)
    | none => false
  match can false, can true with
  | true, true => some (!w.pcs.lastIssued)
  | true, false => some false
  | false, true => some true
  | false, false => none

/-- The issue latch set for a wave and slot. -/
def State.latch (s : State) (k : Nat) (slot : Bool) : State := { s with iss := ⟨k, slot, 0#32, none, .pending⟩ }

/-- One issue of a wave. BREAK is of the lowest priority: it is taken where the instruction raises nothing else, and charges the
instruction's own weight (R298). -/
def State.issueSlot (s : State) (k : Nat) (slot : Bool) : Out :=
  let w := s.waveAt k
  let cls := s.withholdClass k
  let con := (s.wgAt w.id.wgKey).kern.con.toNat
  let s := s.latch k slot
  let r := s.runIssue
  match r.out with
  | .next t =>
    let charge (trapped : Bool) : Nat := t.issueWeight w.id con trapped (r.instr.getD (.nop false))
    if s.breaks && t.iss.out != .trapped then .next (s.takeBreak.afterIssue k slot w.id cls (charge true))
    else .next (t.afterIssue k slot w.id cls (charge (t.iss.out == .trapped)))
  | o => o

/-! ## Who may issue (R145) -/

/-- Does the running master cycle of its die reach the cluster (R303)? -/
def State.delivered (s : State) (cl : Nat) : Bool := (s.pw.clkpat.get 0xFFFF#16 cl).getLsbD (s.dieCyc (cl / 32) % 16)

/-- Is a wave withheld by its cluster's allowance (R297)? -/
def State.withheld (s : State) (k : Nat) (w : Wave) : Bool :=
  decide (s.withholdClass k < withholdLevel (s.pw.allow.get 0 w.id.cluster) s.pw.refill)

/-- Has a pre-emption or a forced shed come to where it takes the wave: it issues nothing more before that (R260, R301)? -/
def State.isTaken (s : State) (k : Nat) (w : Wave) : Bool :=
  w.taken || s.shedNow k w ||
    (w.st == .preempting && w.mwait.isNone && decide (2 * (s.wgAt w.id.wgKey).kern.phintmax ≤ w.pre.since))

/-- May a wave issue in this scheduler cycle, as far as itself goes? -/
def State.mayIssue (s : State) (k : Nat) (w : Wave) : Bool :=
  !s.isTaken k w && w.runs && w.nextSlot.isSome && !w.ended && w.timew.isNone && !w.stalled && decide (4 ≤ w.since) && s.delivered w.id.cluster &&
    !(w.id.issuers.any s.issuedNow.contains) && !s.withheld k w

/-- Does `a` come before `b`: the greater EFF, then the greater age, then the lower slot? -/
def issueBefore (a b : Nat × Wave) : Bool :=
  let e (x : Nat × Wave) := x.2.env.eff.toNat
  decide (e b < e a) || (e a == e b && (decide (b.2.age < a.2.age) || (a.2.age == b.2.age && decide (a.2.id.slot.toNat < b.2.id.slot.toNat))))

/-- The scheduler that selects a wave: of a pair, that of its first half. -/
def WaveId.home (i : WaveId) : Nat := 4 * i.gcore + i.sched.toNat

/-- Is `e` the one that its scheduler selects among the candidates? -/
def bestOf (cand : List (Nat × Wave)) (e : Nat × Wave) : Bool :=
  cand.all fun f => f.1 == e.1 || f.2.id.home != e.2.id.home || issueBefore e f

/-- The instruction that a wave would issue next, its prefix apart. -/
def State.upcoming (s : State) (k : Nat) (w : Wave) : Option Instr :=
  w.nextSlot.bind fun slot =>
    let s := s.latch k slot
    match s.fetchInstr s.pc.toNat with
    | .error _ => none
    | .ok (i, t) => if isXw i then (match t.fetchInstr (s.pc.toNat + 4) with | .ok (j, _) => some j | .error _ => none) else some i

/-- The tile that an ACLR or AWR acts on. -/
def clearsTile : Instr → Option (BitVec 5)
  | .aclr _ t | .awr _ t _ _ => some t
  | _ => none

/-- Of an MMA and an ACLR or AWR on its tile that issue in one cycle the MMA is first: does `e` wait for one of these waves (R403)? -/
def State.yields (s : State) (best : List (Nat × Wave)) (e : Nat × Wave) : Bool :=
  best.any fun f => f.1 != e.1 && f.2.id.wgKey == e.2.id.wgKey &&
    match (s.upcoming e.1 e.2).bind clearsTile, s.upcoming f.1 f.2 with
    | some t, some (.mma _ _ _ _ _ _ acc _ _) => acc == t
    | _, _ => false

/-- The waves that their schedulers choose now. A pair that scheduler 2j selects leaves scheduler 2j + 1 nothing: R145 says so, and where
four or more ready pairs fill every cycle of scheduler 2j, an unpaired wave of scheduler 2j + 1 is then held beyond the 64 cycles of R146.
The two rules conflict there, and the model follows R145 (DESIGN CHOICE, log entry 90). -/
def State.chosen (s : State) : List Nat :=
  let cand := s.waves.filter fun e => s.mayIssue e.1 e.2
  let best := cand.filter fun e => bestOf cand e &&
    !(cand.any fun f => f.2.id.paired && f.2.id.home + 1 == e.2.id.home && bestOf cand f)
  (best.filter fun e => !s.yields best e).map (·.1)

/-! ## A cycle of the master clock -/

/-- The die whose clock an effect follows. -/
def State.cycDie (s : State) : CycEff → Nat
  | .g _ wg _ _ | .cls _ wg _ | .reap _ wg => (s.wgAt wg).die
  | .shed _ k _ _ | .hstat _ k _ _ => (s.waveAt k).id.die.toNat

/-- The effects of the dies that a test picks; a wave that waits at a barrier and whose class is cut from now on is shed (R301). -/
def State.applyCycle (s : State) (p : Nat → Bool) : State :=
  let due := s.endOfCycle.filter fun e => p (s.cycDie e)
  let s' := { s with endOfCycle := s.endOfCycle.filter fun e => !p (s.cycDie e) }
  let s := s'.applyCycEffs due
  s.waves.foldl (fun s e => if e.2.wait.isSome && s.isCut e.1 then s.cutWave e.1 else s) s

/-- Device time moves on by a free amount, corrected by TADJ.RATE (R321). -/
def State.passTime (s : State) : State :=
  let e := Config.elapsedNs s.tick
  let x := s.sys.frac + (e : Int) * s.sys.rate
  { s with now := s.now + (e + x / 2 ^ 32).toNat, sys := { s.sys with frac := x % 2 ^ 32 } }

/-- The end of a master cycle on the dies that a test picks: ages rise where the cluster's pattern delivers it (R145). -/
def State.endCycle (s : State) (p : Nat → Bool) : State :=
  let s := s.applyCycle p
  let age (w : Wave) : Wave :=
    let w := { w with stalled := false }
    if s.delivered w.id.cluster then { w with age := min 255 (w.age + 1), since := w.since + 1 } else w
  { s with
    waves := s.waves.map fun (e : Nat × Wave) => (e.1, if p e.2.id.die.toNat = true then age e.2 else e.2),
    issuedNow := s.issuedNow.filter fun n => !p (n / 512) }

/-- One cycle of the master clock of every die. A pattern that has been written takes effect at the group boundary (R303). -/
def State.tickCycle (s : State) : State :=
  let s := s.endCycle fun _ => true
  ({ s with cyc := s.cyc + 1 }).applyPatterns.passTime

/-- One more cycle of a die whose clock a boost lease has raised (R18); how many there are is left open (log entry 86). -/
def State.tickDie (s : State) (die : Nat) : State :=
  if s.pw.points.get .nominal die = .boost then
    let s := s.endCycle fun d => d == die
    ({ s with pw := { s.pw with extra := s.pw.extra.modify 0 die (· + 1) } }).applyPatterns
  else s

/-! ## The machine's own steps -/

/-- The steps of the waves: results, queues, waits, sheds, weights. -/
def Wave.ownSteps (k : Nat) (lanes : Lanes) (w : Wave) : List Instr :=
  ((List.range w.pend.length).flatMap fun n => [.waveResultWriteback k n (BitVec.allOnes 64), .waveResultWriteback k n lanes]) ++
    ([.storeFifoDrain k, .timewExpire k, .waitConditionMet k, .lockRetry k, .waitvRetest k, .shedExemptionReturn k, .waveStart k,
      .forcedShedStart k, .shedInstructionLimit k, .preemptInstructionLimit k] ++
      (List.range 4).map fun n => .codebookSlotReady k (BitVec.ofNat 2 n))

/-- The steps of the workgroups: the matrix unit's commands, and pre-emption. -/
def Wg.ownSteps (k : Nat) (g : Wg) : List Instr :=
  (g.mma.flatMap fun c => [.mmaCommandStart k c.cid, .mmaCommandRetire k c.cid]) ++
    [.preemptionRequest k, .workgroupSave k, .workgroupRestore k]

/-- The steps of a launch `l`. -/
def State.launchSteps (s : State) (l : Nat) : List Instr :=
  [.workgroupPlace (wgKeyOf (l / 2 ^ 16) (l % 2 ^ 16) (s.launchAt l).nextWg), .launchComplete l, .quantumCommit l] ++
    (List.range 8).map fun b => .clusterBarrierHeldRelease l b

/-- The steps of the caches, the weight store and the engines. -/
def State.engineSteps (s : State) : List Instr :=
  List.flatten [
    s.caches.wcb.map fun e => .wcbLineWrite (keyUnit e.1) (keyAddr e.1 / 128),
    (s.caches.l2.filter fun e => e.2.dirty).map fun e => .homeAccess (keyUnit e.1) (keyAddr e.1 / 128),
    (List.range 16).flatMap fun d => (List.range 16).map fun b => .weightStoreRefresh d b,
    s.eng.copies.flatMap fun e => [.tcopyStart e.2.cluster, .tcopyUnit e.1, .tcopyComplete e.1],
    s.eng.gates.map fun e => .weightStoreGateAdmit e.1,
    s.hub.queues.map fun e => .launchDispatch e.1,
    s.eng.leaseReqs.flatMap fun e => [.leaseRequest e.asid, .leaseRelease e.asid],
    s.eng.colls.flatMap fun e => [.allReduce e.1, .reduceScatter e.1, .allGather e.1, .broadcast e.1, .collectiveComplete e.1,
      .collectiveTimeout e.1]]

/-- The steps of the system around them. -/
def State.systemSteps (s : State) : List Instr :=
  List.flatten [
    [.leaseRecordWrite, .boostClockRaise, .leaseNotice, .leaseEnd, .priorityInheritanceUpdate, .deadlockScan, .telemetryLoss,
      .budgetUpdate, .classRestore, .allowanceEpoch, .ballastOvercapLimit, .clkpatApply],
    s.tlbs.tickets.flatMap fun e => e.2.open_.flatMap fun t => [.atinvDelivery e.1 t.num, .atinvAcknowledge e.1 t.num],
    s.caches.csctl.map fun e => .csctlChangeComplete e.1,
    s.ctxs.map fun e => .contextRecovery e.1,
    s.eth.queues.map fun e => .ethernetTransmit (e.1 / 512) (e.1 % 256)]

/-- The steps that the machine may make by itself, as far as their operands go. -/
def State.ownSteps (s : State) : List Instr :=
  List.flatten [
    s.waves.flatMap fun e => e.2.ownSteps e.1 (BitVec.ofNat 64 (Config.schedule (s.tick + 1))),
    s.wgs.flatMap fun e => e.2.ownSteps e.1,
    s.launches.keys.flatMap s.launchSteps,
    s.engineSteps,
    s.systemSteps]

/-- Would a step change anything? -/
def State.moves (s : State) (i : Instr) : Bool :=
  match exec i s with
  | .next t => t != s
  | _ => false

/-- What the caches and fetch units may do by themselves, and what the links and the dies' supplies do: give up a line, fetch ahead (R178,
R191, R291), acknowledge (R185), come down (R18). -/
def State.cacheSteps (s : State) : List Agent :=
  List.flatten [
    s.caches.l1.map fun e => .evictL1 (keyUnit e.1) (keyAddr e.1 / 128),
    s.caches.l2.map fun e => .evictL2 (keyUnit e.1) (keyAddr e.1 / 128),
    s.caches.ic.map fun e => .evictIc (keyUnit e.1) (keyAddr e.1 / 128),
    ((List.range s.eng.outbox.length).filter fun n => (s.eng.outbox[n]?.map fun x => !x.acked).getD false).map .remoteAck,
    s.pw.points.map fun e => .voltageFall e.1,
    s.waves.flatMap fun e => ([e.2.pcs.slot0, e.2.pcs.slot1].filterMap id).map fun x =>
      .fetchAhead e.2.id.gcore e.2.id.asid.toNat (x.pc.toNat / 128 * 128 + 128)]

/-- Has every scheduler of a die issued that can in this cycle (R145)? -/
def State.dieIdle (s : State) (die : Nat) : Bool := !(s.chosen.any fun k => (s.waveAt k).id.die.toNat == die)

/-- Everyone who may move; time passes only when no scheduler can issue, a die's own extra cycles when none of the die can. -/
def State.movers (s : State) : List Agent :=
  let ks := s.chosen
  ks.map Agent.issue ++ ((s.ownSteps.filter s.moves).map Agent.event) ++ s.cacheSteps ++
    (s.pw.points.filter fun e => e.2 == .boost && s.dieIdle e.1).map (fun e => .tickDie e.1) ++ if ks.isEmpty then [.tick] else []

/-- Who moves next (log entry 2): the first of the agenda, else one of the movers, freely chosen. -/
def State.mover (s : State) : Agent :=
  let l := s.movers
  l.getD (Config.schedule s.tick % l.length) .tick

/-- Give up a line of an instruction cache, unless it is locked. -/
def State.evictIc (s : State) (unit line : Nat) : State := if s.icLocked unit line then s else s.dropIc unit line

/-- R291: prefetch, only by a translation that a TLB holds. -/
def State.fetchAhead (s : State) (core asid va : Nat) : State :=
  let held := (s.tlbs.cluster.get [] (core / 4)) ++ s.tlbs.die.get [] (core / 128)
  match held.find? fun p => p.holds asid va with
  | some p =>
    let pa := p.addr va
    if p.x && p.mt == 0#2 && !isRemote pa && !isMgmt pa && (s.ueIn (pa / 128 * 128) 128).isNone then s.fillIc core asid (pa / 128) else s
  | none => s

def isStep (i : Instr) : Bool := (encode i).isNone

/-- One agent moves. An issue of a wave that its scheduler does not choose, a cycle that would pass over a wave that is chosen, or an
instruction taken for a step, changes nothing (R145, R146). -/
def State.act (s : State) : Agent → Out
  | .issue k =>
    match s.waves.find k with
    | none => .next s
    | some w =>
      match w.nextSlot with
      | none => .next s
      | some slot => if s.chosen.contains k then s.issueSlot k slot else .next s
  | .event i => if isStep i then exec i s else .next s
  | .tick => .next (if s.chosen.isEmpty then s.tickCycle else s)
  | .evictL1 gc line => .next (s.evictL1 gc line)
  | .evictL2 cl line => .next (s.evictL2 cl line)
  | .evictIc gc line => .next (s.evictIc gc line)
  | .fetchAhead core asid va => .next (s.fetchAhead core asid va)
  | .hartRun h r => .next (s.hartRun h r)
  | .hartBlock h line drop => .next (s.hartBlock h line drop)
  | .hartFence h => .next (s.hartFence h)
  | .remoteAck n => .next (s.remoteAck n)
  | .voltageFall d => .next (s.voltageFall d)
  | .tickDie d => .next (if s.dieIdle d then s.tickDie d else s)
  | .hartMode h m => .next (s.setHartMode h m)
  | .gctxRead h => .next (s.gctxRead h)
  | .timeRead h => .next (s.timeRead h)
  | .hartLoad h pa n => .next (s.hartLoad h pa n)
  | .hartStore h pa data => s.hartStore h pa data
  | .ethQueue port tx queue base entries owner => .next (s.ethConfig port tx queue base entries owner)

/-! ## Placing an instruction -/

/-- Where the model's own program stands: its context, its wave, its range-table node and its page (log entry 1). -/
def bootAsid : Nat := 1
def bootWave : Nat := waveKeyOf bootAsid 0 0
def bootNode : Nat := 0x100000
def bootVa : Nat := 0x10000
def bootPa : Nat := 0x200000

def bootKernel : Kernel := { Kernel.blank with text := BitVec.ofNat 64 bootVa, width := 3#3, cls := 0#2, nat := true }

def bootWg : Wg :=
  { Wg.blank with asid := BitVec.ofNat 10 bootAsid, kern := bootKernel, st := .placed, segs := [[0, 1]] }

def bootWaveId : WaveId := { Wave.blank.id with asid := BitVec.ofNat 10 bootAsid }

def bootWaveVal : Wave := { (freshWave bootWaveId bootKernel 0#3 1#8 0) with st := .ready, since := 4 }

/-- The range-table node that maps the program's page, readable and executable. -/
def bootNodeBytes : List (Nat × Byte) :=
  [(bootNode, 0xB7#8), (bootNode + 2, 1#8)] ++ bytePairs (bootNode + 0x20) 8 bootVa ++ bytePairs (bootNode + 0x28) 8 (bootVa + 4096) ++
    bytePairs (bootNode + 0x30) 8 bootPa ++ bytePairs (bootNode + 0x38) 8 11

/-- A program is loaded from outside: a live context, its launch, one workgroup of one Ready wave, and the node. -/
def State.boot (s : State) : State :=
  let c : Ctx := { Ctx.dead with live := true, root := bootNode }
  let l : Launch := { Launch.blank with kern := bootKernel, nextWg := 1 }
  let s := (((s.setCtxAt bootAsid c).setLaunchAt (launchKeyOf bootAsid 0) l).setWgAt (wgKeyOf bootAsid 0 0) bootWg).setWaveAt
    bootWave bootWaveVal
  (s.memWrite bootNodeBytes)

/-- Write an instruction's bytes where a fetch finds them. -/
def State.placeCode (s : State) (pa n w : Nat) : State :=
  let s := s.memWrite (bytePairs pa n w)
  { s with
    caches := { s.caches with
      ic := s.caches.ic.filter fun e => !(decide (pa < keyAddr e.1 + 4) && decide (keyAddr e.1 < pa + n)),
      ue := s.caches.ue.filter fun e => !(decide (pa < 64 * e.1 + 64) && decide (64 * e.1 < pa + n)) },
    harts := { s.harts with lines := s.harts.lines.filter fun e =>
      !(decide (pa < 64 * (e.1 % 2 ^ 46) + 64) && decide (64 * (e.1 % 2 ^ 46) < pa + n)) } }

/-- Where the first agent of the agenda would fetch: a wave that may issue, on an address that translates. -/
def State.fetchPlace (s : State) : Option Nat :=
  match s.agenda with
  | .issue k :: _ =>
    (s.waves.find k).bind fun w => w.nextSlot.bind fun slot =>
      if !s.chosen.contains k then none
      else
        let s := s.latch k slot
        match s.fetchXlat w.id.cluster w.id.asid.toNat s.pc.toNat with
        | .ok pa => if s.absentAt pa then none else some pa
        | _ => none
  | _ => none

end Sys2Proof.Machine
end

