-- ==== Sys2Proof/Machine/Step.lean ====
section
/-!
DEFINITION. The step of the machine, and how an instruction is placed where the next step fetches it.
-/

namespace Sys2Proof.Machine

/-- One step: the first of the agenda moves, or, where the agenda is empty, one of those who may move. The free values move on. -/
def step (s : State) : Host.Outcome State Fault Refusal :=
  match s.agenda with
  | a :: rest => ({ s with tick := s.tick + 1, agenda := rest }).act a
  | [] => ({ s with tick := s.tick + 1 }).act s.mover

/-- The state with an instruction placed so that the next step runs it: at the fetch address of the wave that the agenda lets
issue next, or else in a program of its own (log entry 1). -/
def State.withFetchWord (s : State) (nbits w : Nat) : State :=
  match s.fetchPlace with
  | some pa => s.placeCode pa 8 (w % 2 ^ nbits)
  | none => { (s.boot.placeCode bootPa 8 (w % 2 ^ nbits)) with agenda := [.issue bootWave] }

end Sys2Proof.Machine
end

