-- ==== Sys2Proof/Safety.lean ====
section
/-!
DEFINITION. What counts as a sound state of the machine and a safe run, and the terms in which claims speak of an
instruction's result and of all that it leaves as it was.
-/

namespace Sys2Proof.Machine

/-- The memories of the state keep their canonical form: equal contents are equal data. -/
def State.MemoryWf (s : State) : Prop := s.mem.wf = true

/-- A run is safe as long as every step answers a next state. -/
def safeFor (n : Nat) (s : State) : Prop :=
  match n with
  | 0 => True
  | n + 1 => ∃ t, step s = .next t ∧ safeFor n t

end Sys2Proof.Machine

namespace Sys2Proof.Claims

open Sys2Proof.Machine

/-- `exec` answers a next state, and `P` holds of it. -/
def Goes (i : Instr) (s : State) (P : State → Prop) : Prop := ∃ t, exec i s = .next t ∧ P t

/-! ## Going on -/

/-- The issuing slot `n` words further on; a prefix is one word more (R106, R160). -/
def forward (s : State) (p : Pcs) (n : Nat) : Pcs :=
  match p.slot s.iss.slot with
  | some x => p.setSlot s.iss.slot (some { x with pc := s.pc + BitVec.ofNat 64 (4 * n + if s.iss.pfx.isSome then 4 else 0) })
  | none => p

/-- QCLK after a retirement: one more, but for a handler's instructions (R121). -/
def nextQclk (w : Wave) : Word64 := if w.env.hm then w.qclk else w.qclk + 1#64

/-- `w` as its retirement leaves it: QCLK, the quantum's end in reproducible mode, the counts of a pre-emption, nothing that it is still
stalled on, and Parked when SW is set and results are outstanding (R121, R122, R147, R260, R301, R406). `dueClasses` are those that have been cut
for TFORCE. -/
def retired (s : State) (w : Wave) (sw : Bool) : Wave :=
  let parks := sw && (!w.pend.isEmpty || w.fifo.any Eff.returns)
  { w with
    qclk := nextQclk w, ended := w.ended || (w.repro && (nextQclk w).toNat % 2 ^ s.ctx.qlog == 0),
    pre := { w.pre with since := w.pre.since + 1, sinceCut := s.dueClasses.map fun c => (c, w.pre.sinceCut.get 0 c + 1) }, mwait := none, stallOn := [],
    st := if parks && w.st != .preempting then .parkedS else w.st,
    held := if parks && w.st == .preempting then .parkedS else w.held }

/-- `s` after the issuing wave, grown to `w`, retired an instruction of `n` words, `g` being left to the end of the cycle. -/
def goneOn (s : State) (w : Wave) (g : List CycEff) (sw : Bool) (n : Nat) : State :=
  { s with waves := s.waves.put s.iss.cur (retired s { w with pcs := forward s w.pcs n } sw),
           endOfCycle := s.endOfCycle ++ g, iss := { s.iss with out := .retired } }

/-- Every byte of memory reads as before, at its home and through every core's caches. -/
def SameBytes (s t : State) : Prop := ∀ core a, t.homeRead a = s.homeRead a ∧ t.cachedByte core a = s.cachedByte core a

/-- The state after an instruction that changed its own wave to `w`, left `g` to the end of the cycle and retired: nothing else of the
machine differs, and no byte of memory. -/
def Went (s : State) (w : Wave) (g : List CycEff) (sw : Bool) (n : Nat) (t : State) : Prop :=
  t = goneOn s w g sw n ∧ SameBytes s t

/-! ## Results -/

/-- `r` holds the values `x` in destination `d` in the lanes `m`, and elsewhere what `r0` holds (R148, R157). The upper half of a pair has
a copy of its own of a scalar register where a value at lane 32 differs from that at lane 0 (R105, R383). -/
structure Holds (r0 r : Regs) (d : Dest) (m : List Nat) (x : Nat → ScalVal) : Prop where
  vec : ∀ reg l, l < 64 → r.v.get LaneVal.zero (64 * reg + l) =
    if d = .vec reg ∧ l ∈ m then ⟨(x l).bits.setWidth 32, (x l).p⟩ else r0.v.get LaneVal.zero (64 * reg + l)
  scal : ∀ i, i < 48 → r.s[i]? = if d = .scal i then some (x 0) else r0.s[i]?
  upper : ∀ i, i < 48 → r.sHi.find i = if d = .scal i then (if 32 ∈ m ∧ x 32 ≠ x 0 then some (x 32) else none) else r0.sHi.find i
  rest : r.p = r0.p ∧ r.b = r0.b ∧ r.m = r0.m ∧ r.wbase = r0.wbase

/-- The value that a g register takes: of a pair's two, that of the half with the higher slot (R112). -/
def sharedOf (s : State) (m : List Nat) (x : Nat → ScalVal) : ScalVal :=
  if 32 ∈ m ∧ s.wave.id.slot.toNat < s.wave.id.slotHi.toNat ∧ s.wave.id.paired then x 32 else x 0

/-- `ws` writes the values `x` to `d` in the lanes `m`; a g register's value that a reproducible wave holds for its commit is held from
now on, and only noted here (R123). -/
def WritesAs (s : State) (ws : List RegVal) (d : Dest) (m : List Nat) (x : Nat → ScalVal) : Prop :=
  match d with
  | .none => ws = []
  | .vec r => ∃ vals, ws = [.vec r vals] ∧ ∀ l ∈ m, l < 64 → vals.getD l LaneVal.zero = ⟨(x l).bits.setWidth 32, (x l).p⟩
  | .scal i => ws = .scal i (x 0) :: if 32 ∈ m then [.scalHi i (x 32)] else []
  | .wgreg i => ws = [if s.wave.repro then .heldG i (sharedOf s m x) else .wgreg i (sharedOf s m x)]

/-- The lanes in which a result is outstanding: those of a vector register, else lane 0. -/
def pendLanes (d : Dest) (m : List Nat) : List Nat :=
  match d with
  | .vec _ => m
  | _ => [0]

/-- `p` is the promise of the values `x` in `d` in the lanes `m` (R164). -/
structure Promises (s : State) (p : Pend) (d : Dest) (m : List Nat) (x : Nat → ScalVal) : Prop where
  lanes : ∀ l, p.remaining.getLsbD l = decide (l < 64 ∧ l ∈ pendLanes d m)
  local_ : p.remote = [] ∧ p.originLo = none ∧ p.originHi = none
  writes : WritesAs s p.writes d m x

/-- `p` is the promise of the values `x k` in register `k` of a group of `n` registers from `d` on, in the lanes `m`, of which those
in `far` come from remote memory, for the instruction that now issues (R151, R164, R245, R323). -/
structure PromisesGroup (s : State) (p : Pend) (d : Dest) (n : Nat) (m : List Nat) (far : List (Nat × Nat)) (x : Nat → Nat → ScalVal) :
    Prop where
  lanes : ∀ l, p.remaining.getLsbD l = decide (l < 64 ∧ l ∈ pendLanes d m)
  remote : p.remote = far
  origin : (far ≠ [] → p.pc = s.pc) ∧ p.originLo = none ∧ p.originHi = none
  writes : ∃ ws : Nat → List RegVal, p.writes = (List.range n).flatMap ws ∧ ∀ k < n, WritesAs s (ws k) (destShift d k) m (x k)

/-- What a write to a g register leaves: an effect of the end of the cycle (R112, R311), in reproducible mode a held one, which a
variable-latency instruction holds from its issue on (R123). -/
def gEffects (s : State) (late : Bool) (d : Dest) (x : ScalVal) : List CycEff × List Eff :=
  match d with
  | .wgreg i =>
    if s.wave.repro then ([], [.gwrite i x]) else if late then ([], []) else ([.g s.wave.id.topSlot s.wave.id.wgKey i x], [])
  | _ => ([], [])

def Dest.isG : Dest → Bool
  | .wgreg _ => true
  | _ => false

/-- Wave `w` is the issuing wave of `s` with the result `x` in `d` in the lanes `m`: at once, or `late` as an outstanding result; its
two halves aside, the rest of the wave is as it was. -/
structure Result (s : State) (late : Bool) (d : Dest) (m : List Nat) (x : Nat → ScalVal) (w : Wave) (g : List CycEff) : Prop where
  now : Holds s.wave.regs w.regs (if late then .none else d) m x
  later : if late ∧ d ≠ .none then ∃ p, w.pend = s.wave.pend ++ [p] ∧ Promises s p d m x else w.pend = s.wave.pend
  shared : g = (gEffects s late d (sharedOf s m x)).1 ∧ w.fifo = s.wave.fifo ++ (gEffects s late d (sharedOf s m x)).2
  idem : w.idem = if Dest.isG d then { s.wave.idem with idv := false } else s.wave.idem
  rest : w = { s.wave with regs := w.regs, pend := w.pend, fifo := w.fifo, idem := w.idem, lo := w.lo, hi := w.hi }

/-- The value of a lane result: a token passed on, a value, or a new token that names the half's next origin slot (R243, R244). -/
def valueOf (s : State) (l : Nat) : LRes → ScalVal
  | .tok t => ⟨t.setWidth 64, true⟩
  | .val x _ => ⟨x, false⟩
  | .fresh code a _ => ⟨(code ++ (if 32 ≤ l then s.wave.hi.turn else s.wave.lo.turn) ++ BitVec.ofNat 20 a).setWidth 64, true⟩

/-- The flags that the results of one half raise (R39). -/
def flagsOf (m : List Nat) (up : Bool) (r : Nat → LRes) : BitVec 6 :=
  (m.filter fun l => decide (32 ≤ l) == up).foldl (fun f l => f ||| (r l).flags) 0#6

/-- The new token a lane result asks for: its lane, code and address. -/
def faultOf (r : Nat → LRes) (l : Nat) : Option (Nat × BitVec 8 × Nat) :=
  match r l with | .fresh c a _ => some (l, c, a) | _ => none

/-- A half after results `r` in the lanes `m`: their flags, and one origin entry for the lowest lane with a new token (R39, R245). -/
def halfAfter (s : State) (h : Half) (m : List Nat) (up : Bool) (r : Nat → LRes) : Half :=
  let h := { h with fflags := h.fflags ||| flagsOf m up r }
  match (m.filter fun l => decide (32 ≤ l) == up).findSome? (faultOf r) with
  | some (l, c, a) => h.takeOrigin c (l % 32) (BitVec.ofNat 24 ((s.pc - s.wg.kern.text).toNat / 4)) a
  | none => h

/-- `t` is `s` after an instruction with the lane results `r` in `d`: the values, the flags and the new tokens, and nothing else. -/
def Computes (s : State) (sw late : Bool) (d : Dest) (m : List Nat) (r : Nat → LRes) (t : State) : Prop :=
  ∃ w g, Result s late d m (fun l => valueOf s l (r l)) w g ∧ w.lo = halfAfter s s.wave.lo m false r ∧
    w.hi = halfAfter s s.wave.hi m true r ∧ Went s w g sw 1 t

/-- The lanes that stand for a scalar instruction: lane 0, and lane 32 for the upper half of a pair whose halves hold different copies of
some scalar register (R105, R383). -/
def scalarLanes (s : State) : List Nat := if s.wave.id.paired ∧ s.wave.regs.sHi ≠ [] then [0, 32] else [0]

/-- The lanes an instruction works in: the active lanes, or those of a scalar one. -/
def laneList (s : State) (vector : Bool) : List Nat := if vector then (List.range 64).filter s.active.getLsbD else scalarLanes s

/-- `r` holds the truths `x` in predicate `p` in the lanes `m` (none: a poisoned lane), elsewhere what `r0` holds; p0 is not written
(R148, R332). -/
structure PredHolds (r0 r : Regs) (p : Nat) (m : List Nat) (x : Nat → Option Bool) : Prop where
  val : ∀ i l, 0 < i → i < 8 → l < 64 → (r.p[i]?.getD PredVal.false).val.getLsbD l =
    if i = p ∧ l ∈ m then x l == some true else (r0.p[i]?.getD PredVal.false).val.getLsbD l
  poi : ∀ i l, 0 < i → i < 8 → l < 64 → (r.p[i]?.getD PredVal.false).poi.getLsbD l =
    if i = p ∧ l ∈ m then (x l).isNone else (r0.p[i]?.getD PredVal.false).poi.getLsbD l
  zero : r.p[0]? = r0.p[0]?
  rest : r.v = r0.v ∧ r.s = r0.s ∧ r.sHi = r0.sHi ∧ r.b = r0.b ∧ r.m = r0.m ∧ r.wbase = r0.wbase

/-- `t` is `s` after a compare with the truths `x` in `p` in the active lanes, and the flags `lo` and `hi`. -/
def Compares (s : State) (sw : Bool) (p : Nat) (m : List Nat) (x : Nat → Option Bool) (lo hi : BitVec 6) (t : State) : Prop :=
  ∃ r, PredHolds s.wave.regs r p m x ∧
    Went s { s.wave with regs := r, lo := { s.wave.lo with fflags := s.wave.lo.fflags ||| lo },
                         hi := { s.wave.hi with fflags := s.wave.hi.fflags ||| hi } } [] sw 1 t

/-- `t` is `s` after an instruction that left the truths `x` in `p` in the lanes `m` as an outstanding result (R164). -/
def ComparesLate (s : State) (sw : Bool) (p : Nat) (m : List Nat) (x : Nat → Option Bool) (t : State) : Prop :=
  ∃ (v : PredVal) (rem : Lanes), (∀ l, rem.getLsbD l = decide (l < 64 ∧ l ∈ m)) ∧
    (∀ l ∈ m, l < 64 → v.val.getLsbD l = (x l == some true) ∧ v.poi.getLsbD l = (x l).isNone) ∧
    Went s { s.wave with pend := s.wave.pend ++ [Pend.plain [.pred p v] rem] } [] sw 1 t

end Sys2Proof.Claims
end

