-- ==== Sys2Proof/Certificates/Slice0/Obligations.lean ====
section
/-!
DEFINITION. The statements: what the rules of the spec say the instructions and the machine do.

The definitions of `Sys2Proof.Claims` below say in the spec's terms what a family computes; each statement's docstring cites the rules it
formalises. Every statement that names an instruction's effect has as its conclusion that `exec` answers a next state.
-/

namespace Sys2Proof.Claims

open Sys2Proof.Machine

/-! ## Lane by lane -/

/-- A value of a function at an instruction's width: 32 bits in a lane, 64 bits for a scalar instruction (R157, R331). -/
def atWidth (vector : Bool) (f : (w : Nat) → BitVec w → BitVec w → BitVec w → BitVec w) (x y z : Word64) : Word64 :=
  if vector then (f 32 (x.setWidth 32) (y.setWidth 32) (z.setWidth 32)).setWidth 64 else f 64 x y z

/-- An integer instruction: its marker, operands, whether it reads D, and its value from A, B and D at width `w`. -/
structure IntOp where
  sw : Bool
  d : Opd
  a : Opd
  b : Option Opd
  readsD : Bool
  f : (w : Nat) → BitVec w → BitVec w → BitVec w → BitVec w

/-- The bounds of the signed numbers of `w` bits, and a number clamped to them (R337). -/
def clampInt (w : Nat) (x : Int) : Int := if x < -2 ^ (w - 1) then -2 ^ (w - 1) else if 2 ^ (w - 1) - 1 < x then 2 ^ (w - 1) - 1 else x

/-- Position and length of a field, from B (R355): the position is at most w, and the field does not reach beyond w. -/
def posOf (w : Nat) (b : BitVec w) : Nat := min (b.toNat % 256) w
def lenOf (w : Nat) (b : BitVec w) : Nat := min (b.toNat / 256 % 256) (w - posOf w b)

/-- An unsigned field read as a signed one of `n` bits. -/
def asSigned (n x : Nat) : Int := if 0 < n ∧ 2 ^ (n - 1) ≤ x then x - 2 ^ n else x

/-- The integer instructions of major 2 that go on in every lane, as arithmetic on the values of the operands (R333 to R339, R355,
R356, R363, R399, R432, R445). -/
def intOp : Instr → Option IntOp
  | .add sw d a b => some ⟨sw, d, a, some b, false, fun w x y _ => BitVec.ofInt w (x.toInt + y.toInt)⟩
  | .sub sw d a b => some ⟨sw, d, a, some b, false, fun w x y _ => BitVec.ofInt w (x.toInt - y.toInt)⟩
  | .mul sw d a b => some ⟨sw, d, a, some b, false, fun w x y _ => BitVec.ofInt w (x.toInt * y.toInt)⟩
  | .mulh sw d a b => some ⟨sw, d, a, some b, false, fun w x y _ => BitVec.ofInt w (x.toInt * y.toInt / 2 ^ w)⟩
  | .mulhU sw d a b => some ⟨sw, d, a, some b, false, fun w x y _ => BitVec.ofNat w (x.toNat * y.toNat / 2 ^ w)⟩
  | .mad sw d a b => some ⟨sw, d, a, some b, true, fun w x y z => BitVec.ofInt w (x.toInt * y.toInt + z.toInt)⟩
  | .and sw d a b => some ⟨sw, d, a, some b, false, fun w x y _ => BitVec.ofFnLE fun i : Fin w => x[i] && y[i]⟩
  | .or sw d a b => some ⟨sw, d, a, some b, false, fun w x y _ => BitVec.ofFnLE fun i : Fin w => x[i] || y[i]⟩
  | .xor sw d a b => some ⟨sw, d, a, some b, false, fun w x y _ => BitVec.ofFnLE fun i : Fin w => x[i] != y[i]⟩
  | .shl sw d a b => some ⟨sw, d, a, some b, false, fun w x y _ => BitVec.ofNat w (x.toNat * 2 ^ (y.toNat % w))⟩
  | .shr sw d a b => some ⟨sw, d, a, some b, false, fun w x y _ => BitVec.ofNat w (x.toNat / 2 ^ (y.toNat % w))⟩
  | .sar sw d a b => some ⟨sw, d, a, some b, false, fun w x y _ => BitVec.ofInt w (x.toInt / 2 ^ (y.toNat % w))⟩
  | .min sw d a b => some ⟨sw, d, a, some b, false, fun w x y _ => BitVec.ofInt w (min x.toInt y.toInt)⟩
  | .minU sw d a b => some ⟨sw, d, a, some b, false, fun w x y _ => BitVec.ofNat w (min x.toNat y.toNat)⟩
  | .max sw d a b => some ⟨sw, d, a, some b, false, fun w x y _ => BitVec.ofInt w (max x.toInt y.toInt)⟩
  | .maxU sw d a b => some ⟨sw, d, a, some b, false, fun w x y _ => BitVec.ofNat w (max x.toNat y.toNat)⟩
  | .abs sw d a => some ⟨sw, d, a, none, false, fun w x _ _ => BitVec.ofNat w x.toInt.natAbs⟩
  | .clz sw d a => some ⟨sw, d, a, none, false, fun w x _ _ =>
      BitVec.ofNat w ((List.range w).takeWhile fun i => !x.getLsbD (w - 1 - i)).length⟩
  | .popc sw d a => some ⟨sw, d, a, none, false, fun w x _ _ => BitVec.ofNat w ((List.range w).countP fun i => x.getLsbD i)⟩
  | .bfe sw d a b => some ⟨sw, d, a, some b, false, fun w x y _ =>
      BitVec.ofInt w (asSigned (lenOf w y) (x.toNat / 2 ^ posOf w y % 2 ^ lenOf w y))⟩
  | .bfeU sw d a b => some ⟨sw, d, a, some b, false, fun w x y _ => BitVec.ofNat w (x.toNat / 2 ^ posOf w y % 2 ^ lenOf w y)⟩
  | .bfi sw d a b => some ⟨sw, d, a, some b, true, fun w x y z => BitVec.ofFnLE fun i : Fin w =>
      if posOf w y ≤ i.val ∧ i.val < posOf w y + lenOf w y then x.getLsbD (i.val - posOf w y) else z[i]⟩
  | .addSat sw d a b => some ⟨sw, d, a, some b, false, fun w x y _ => BitVec.ofInt w (clampInt w (x.toInt + y.toInt))⟩
  | .subSat sw d a b => some ⟨sw, d, a, some b, false, fun w x y _ => BitVec.ofInt w (clampInt w (x.toInt - y.toInt))⟩
  | _ => none

/-- The operands of an integer instruction as the checks of R170 see them. -/
def regForm (d a : Opd) (b : Option Opd) : Form :=
  { a := some { o := a }, b := b.map fun o => { o := o }, dst := some { o := d } }

/-- The value of an operand that an instruction may lack. -/
def maybeB (s : State) (vector : Bool) (b : Option Opd) (l : Nat) : ScalVal :=
  match b with
  | some o => s.srcB vector o l
  | none => ScalVal.zero

/-- R331: the first token among A, B, D (where it is read) and the guard, else a value of the three. -/
def fromSources (s : State) (vector : Bool) (d a : Opd) (b : Option Opd) (readsD : Bool) (f : Word64 → Word64 → Word64 → LRes) (l : Nat) : LRes :=
  let x := s.srcA vector a l
  let y := maybeB s vector b l
  let z := if readsD then s.srcD vector d l else ScalVal.zero
  match firstTok [x.tok, y.tok, z.tok, s.guardTok l] with
  | some t => .tok t
  | none => f x.bits y.bits z.bits

end Sys2Proof.Claims

section

open Sys2Proof Sys2Proof.Machine Sys2Proof.Claims

/-- R331, R333 and the entries of the integer instructions: the value, the tokens, the frame, and that the instruction completes. -/
def Obligations.IntegerResults : Prop :=
  ∀ (i : Instr) (o : IntOp) (s : State), intOp i = some o → s.issuing = true → s.formTrap (regForm o.d o.a o.b) false = none →
    Goes i s (Computes s o.sw false (s.dest o.d) (laneList s (regForm o.d o.a o.b).isVec)
      (fromSources s (regForm o.d o.a o.b).isVec o.d o.a o.b o.readsD fun x y z =>
        .val (atWidth (regForm o.d o.a o.b).isVec o.f x y z) 0#6))

end

namespace Sys2Proof.Claims

open Sys2Proof.Machine

/-- The divisions: quotient towards zero and the remainder of the dividend's sign, or the unsigned ones (R368, R428). -/
def divOp : Instr → Option IntOp
  | .div sw d a b => some ⟨sw, d, a, some b, false, fun w x y _ => BitVec.ofInt w (x.toInt.tdiv y.toInt)⟩
  | .divU sw d a b => some ⟨sw, d, a, some b, false, fun w x y _ => BitVec.ofNat w (x.toNat / y.toNat)⟩
  | .rem sw d a b => some ⟨sw, d, a, some b, false, fun w x y _ => BitVec.ofInt w (x.toInt - y.toInt * x.toInt.tdiv y.toInt)⟩
  | .remU sw d a b => some ⟨sw, d, a, some b, false, fun w x y _ => BitVec.ofNat w (x.toNat - y.toNat * (x.toNat / y.toNat))⟩
  | _ => none

/-- Is a divisor zero at the instruction's width? -/
def zeroAt (vector : Bool) (y : Word64) : Bool := if vector then y.toNat % 2 ^ 32 == 0 else y.toNat == 0

/-- An instruction with an immediate: its marker, operands, how it takes a prefix, the immediate's 64-bit value, and the result from A
and the immediate at width `w`. -/
structure ImmOp where
  sw : Bool
  d : Opd
  a : Opd
  xw : XwRule
  k : Word64
  f : (w : Nat) → BitVec w → BitVec w → BitVec w

/-- R162: an immediate of `n` bits, ten bits wider at its top under a prefix. -/
def wideBits (s : State) {n : Nat} (i : BitVec n) : Nat := (match s.iss.pfx with | some x => x.immhi.toNat * 2 ^ n | none => 0) + i.toNat
def wideLen (s : State) (n : Nat) : Nat := if s.iss.pfx.isSome then n + 10 else n

/-- Sign-extended and zero-extended, to 64 bits. -/
def wideS (s : State) {n : Nat} (i : BitVec n) : Word64 := BitVec.ofInt 64 (asSigned (wideLen s n) (wideBits s i))
def wideU (s : State) {n : Nat} (i : BitVec n) : Word64 := BitVec.ofNat 64 (wideBits s i)

/-- The instructions with an immediate operand that write D (R338, R340, R414, R431, R433, R458). -/
def immOp (s : State) : Instr → Option ImmOp
  | .addi sw d a i => some ⟨sw, d, a, .wide, wideS s i, fun w x k => BitVec.ofInt w (x.toInt + k.toInt)⟩
  | .andi sw d a i => some ⟨sw, d, a, .wide, wideU s i, fun w x k => BitVec.ofFnLE fun j : Fin w => x[j] && k[j]⟩
  | .ori sw d a i => some ⟨sw, d, a, .wide, wideU s i, fun w x k => BitVec.ofFnLE fun j : Fin w => x[j] || k[j]⟩
  | .xori sw d a i => some ⟨sw, d, a, .wide, wideU s i, fun w x k => BitVec.ofFnLE fun j : Fin w => x[j] != k[j]⟩
  | .shli sw d a c => some ⟨sw, d, a, .plain, c.setWidth 64, fun w x k => BitVec.ofNat w (x.toNat * 2 ^ (k.toNat % w))⟩
  | .shri sw d a c => some ⟨sw, d, a, .plain, c.setWidth 64, fun w x k => BitVec.ofNat w (x.toNat / 2 ^ (k.toNat % w))⟩
  | .sari sw d a c => some ⟨sw, d, a, .plain, c.setWidth 64, fun w x k => BitVec.ofInt w (x.toInt / 2 ^ (k.toNat % w))⟩
  | .roti sw d a c => some ⟨sw, d, a, .plain, c.setWidth 64, fun w x k =>
      BitVec.ofNat w (x.toNat * 2 ^ (k.toNat % w) + x.toNat / 2 ^ (w - k.toNat % w))⟩
  | _ => none

def immRegForm (d a : Opd) (x : XwRule) : Form := { a := some { o := a }, dst := some { o := d }, xw := x }

/-- SEL's result in a lane (R435): by the prefix's predicate, true in every lane without one. -/
def selResult (s : State) (vector : Bool) (a b : Opd) (l : Nat) : LRes :=
  let p := s.readPred s.xw.pred.toNat
  if s.xw.pred ≠ 0#3 ∧ p.poi.getLsbD l then .tok 0#32
  else
    let x := if s.xw.pred = 0#3 ∨ p.val.getLsbD l ≠ s.xw.pneg then s.srcA vector a l else s.srcB vector b l
    if x.p then .tok (x.bits.setWidth 32) else .val x.bits 0#6

/-- Is a condition true of two numbers? -/
def condTrue (c : ICond) (x y : Int) : Bool :=
  match c with
  | .eq => x = y | .ne => x ≠ y | .lt => x < y | .le => x ≤ y | .gt => x > y | .ge => x ≥ y

/-- A value as a signed number at the compare's width. -/
def signedOf (vector : Bool) (x : Word64) : Int := if vector then asSigned 32 (x.toNat % 2 ^ 32) else asSigned 64 x.toNat

/-- A compare: its marker, destination, operands as the checks see them, whether it takes the tokens of B, and its truth in a lane. -/
structure CmpOp where
  sw : Bool
  p : BitVec 3
  form : Form
  toks : Nat → List (Option Word32)
  truth : Nat → Bool

def cmpRegForm (a : Opd) (b : Option Opd) (x : XwRule) : Form := { a := some { o := a }, b := b.map fun o => { o := o }, xw := x }

/-- The integer compares (R364, R387, R451). -/
def cmpOp (s : State) : Instr → Option CmpOp
  | .tsti sw p a i => let f := cmpRegForm a none .wide
    some ⟨sw, p, f, fun l => [(s.srcA f.isVec a l).tok], fun l => ((s.srcA f.isVec a l).bits.toNat &&& wideBits s i) ≠ 0⟩
  | .cmpi sw p a c i => let f := cmpRegForm a none .wide
    some ⟨sw, p, f, fun l => [(s.srcA f.isVec a l).tok], fun l =>
      condTrue c (signedOf f.isVec (s.srcA f.isVec a l).bits) (asSigned (wideLen s 9) (wideBits s i))⟩
  | .icmp sw p a b c => let f := cmpRegForm a (some b) .plain
    some ⟨sw, p, f, fun l => [(s.srcA f.isVec a l).tok, (s.srcB f.isVec b l).tok], fun l =>
      condTrue c (signedOf f.isVec (s.srcA f.isVec a l).bits) (signedOf f.isVec (s.srcB f.isVec b l).bits)⟩
  | .icmpU sw p a b c => let f := cmpRegForm a (some b) .plain
    some ⟨sw, p, f, fun l => [(s.srcA f.isVec a l).tok, (s.srcB f.isVec b l).tok], fun l =>
      condTrue c (s.srcA f.isVec a l).bits.toNat (s.srcB f.isVec b l).bits.toNat⟩
  | _ => none

/-- The truth of a lane, none where a source or the guard is poisoned (R332). -/
def truthOf (s : State) (toks : Nat → List (Option Word32)) (truth : Nat → Bool) (l : Nat) : Option Bool :=
  if (firstTok (toks l ++ [s.guardTok l])).isSome then none else some (truth l)

/-- The active lanes, ascending. -/
def activeList (s : State) : List Nat := (List.range 64).filter s.active.getLsbD

/-- Predicate logic on one lane (R168, R418). -/
def logicTrue (o : PlogOp) (x y : Bool) : Bool :=
  match o with
  | .and => x && y | .or => x || y | .xor => x != y | .andn => x && !y | .orn => x || !y | .not => !x | .mov => x | .xnor => x == y

def logicReadsB (o : PlogOp) : Bool := o != .not && o != .mov

end Sys2Proof.Claims

section

open Sys2Proof Sys2Proof.Machine Sys2Proof.Claims

/-- R368, R428: DIV and REM, signed and unsigned. -/
def Obligations.DivisionResults : Prop :=
  ∀ (i : Instr) (o : IntOp) (s : State), divOp i = some o → s.issuing = true → s.formTrap (regForm o.d o.a o.b) false = none →
    Goes i s (Computes s o.sw true (s.dest o.d) (laneList s (regForm o.d o.a o.b).isVec)
      (fromSources s (regForm o.d o.a o.b).isVec o.d o.a o.b false fun x y z =>
        if zeroAt (regForm o.d o.a o.b).isVec y then .fresh 0x04#8 0 0#6
        else .val (atWidth (regForm o.d o.a o.b).isVec o.f x y z) 0#6))

/-- R338, R340, R414, R431, R433, R458, with R162's wide immediates; R404. -/
def Obligations.ImmediateResults : Prop :=
  (∀ (i : Instr) (s : State) (o : ImmOp), immOp s i = some o → s.issuing = true → s.formTrap (immRegForm o.d o.a o.xw) false = none →
     Goes i s (Computes s o.sw false (s.dest o.d) (laneList s (immRegForm o.d o.a o.xw).isVec)
       (fromSources s (immRegForm o.d o.a o.xw).isVec o.d o.a none false fun x _ _ =>
         .val (atWidth (immRegForm o.d o.a o.xw).isVec (fun w x k _ => o.f w x k) x o.k 0#64) 0#6))) ∧
  (∀ (sw : Bool) (d : Opd) (i : BitVec 19) (s : State), s.issuing = true →
     s.formTrap { dst := some { o := d }, xw := .wide } false = none →
     Goes (.movi sw d i) s (Computes s sw false (s.dest d) (laneList s d.isVec) fun l =>
       match s.guardTok l with
       | some t => .tok t
       | none => .val (atWidth d.isVec (fun _ x _ _ => x) (wideS s i) 0#64 0#64) 0#6))

/-- R364, R387, R451, with R332's poison. -/
def Obligations.IntegerCompares : Prop :=
  ∀ (i : Instr) (s : State) (o : CmpOp), cmpOp s i = some o → s.issuing = true → s.formTrap o.form false = none →
    Goes i s (Compares s o.sw o.p.toNat (activeList s) (truthOf s o.toks o.truth) 0#6 0#6)

/-- R435; R418. -/
def Obligations.SelectionsAndPredicates : Prop :=
  (∀ (sw : Bool) (d a b : Opd) (s : State), s.issuing = true →
     s.formTrap (regForm d a (some b)) (s.xw.pred != 0#3 && !(regForm d a (some b)).isVec) = none →
     Goes (.sel sw d a b) s (Computes s sw false (s.dest d)
       (if (regForm d a (some b)).isVec then (List.range 64).filter s.mask.getLsbD else scalarLanes s)
       (selResult s (regForm d a (some b)).isVec a b))) ∧
  (∀ (sw : Bool) (d a b : BitVec 3) (o : PlogOp) (s : State), s.issuing = true → s.formTrap {} false = none →
     Goes (.plog sw d a b o) s (Compares s sw d.toNat ((List.range 64).filter s.mask.getLsbD) (fun l =>
       let x := s.readPred a.toNat
       let y := s.readPred b.toNat
       if x.poi.getLsbD l ∨ (logicReadsB o ∧ y.poi.getLsbD l) then none
       else some (logicTrue o (x.val.getLsbD l) (y.val.getLsbD l))) 0#6 0#6))

end

namespace Sys2Proof.Claims

open Sys2Proof.Machine

/-- A floating-point instruction: its marker, whether its result is an outstanding one, operands, whether it reads D, type, and its
result on one element. -/
structure FloatOp where
  sw : Bool
  late : Bool
  d : Opd
  a : Opd
  b : Option Opd
  readsD : Bool
  t : FType
  f : FFmt → FEnv → Fp → Fp → Fp → FRes

/-- The floating-point operations of R377 and R378, each the exact result of its elements rounded once. -/
def floatOp : Instr → Option FloatOp
  | .fadd sw d a b t => some ⟨sw, false, d, a, some b, false, t, fun f e x y _ => faddF f e x y⟩
  | .fsub sw d a b t => some ⟨sw, false, d, a, some b, false, t, fun f e x y _ => faddF f e x y.negate⟩
  | .fmul sw d a b t => some ⟨sw, false, d, a, some b, false, t, fun f e x y _ => fmulF f e x y⟩
  | .fma sw d a b t => some ⟨sw, false, d, a, some b, true, t, fun f e x y z => fmaF f e x y z⟩
  | .fmin sw d a b t => some ⟨sw, false, d, a, some b, false, t, fun f e x y _ => fminmaxF false f e x y⟩
  | .fmax sw d a b t => some ⟨sw, false, d, a, some b, false, t, fun f e x y _ => fminmaxF true f e x y⟩
  | .fdiv sw d a b t => some ⟨sw, true, d, a, some b, false, t, fun f e x y _ => fdivF f e x y⟩
  | .fsqrt sw d a t => some ⟨sw, true, d, a, none, false, t, fun f e x _ _ => fsqrtF f e x⟩
  | _ => none

/-- The environment that FMODE names (R38): rounding mode, FTZ, DAZ, SAT8, TSAT. -/
def floatEnv (s : State) : FEnv :=
  let m := s.wave.env.fmode
  ⟨match m.toNat % 4 with | 0 => .rne | 1 => .rtz | 2 => .rup | _ => .rdn, m.getLsbD 2, m.getLsbD 3, m.getLsbD 4, m.getLsbD 5⟩

def floatFmt : FType → FFmt
  | .f32 => fp32 | .f16x2 => fp16 | .bf16x2 => bf16

/-- The result of an operation on the elements of a type, packed: one FP32, or two halves, the lower one first; the flags of both. -/
def onElements (t : FType) (f : (Nat → Nat) → FRes) : LRes :=
  match t with
  | .f32 => let r := f fun x => x % 2 ^ 32
    .val (BitVec.ofNat 64 r.bits) r.flags
  | _ => let r0 := f fun x => x % 2 ^ 16
    let r1 := f fun x => x / 2 ^ 16 % 2 ^ 16
    .val (BitVec.ofNat 64 (r0.bits + 2 ^ 16 * r1.bits)) (r0.flags ||| r1.flags)

/-- The functions of R381, with FTV's version of their tables. -/
def functionOp : Instr → Option (Bool × Opd × Opd × FType × FfnOp)
  | .fexp sw d a t => some (sw, d, a, t, .exp)
  | .flog sw d a t => some (sw, d, a, t, .log)
  | .frcp sw d a t => some (sw, d, a, t, .rcp)
  | .frsq sw d a t => some (sw, d, a, t, .rsq)
  | .fsin sw d a t => some (sw, d, a, t, .sin)
  | .fcos sw d a t => some (sw, d, a, t, .cos)
  | .ftanh sw d a t => some (sw, d, a, t, .tanh)
  | .ferf sw d a t => some (sw, d, a, t, .erf)
  | _ => none

/-- The value of a finite number. -/
def numVal (neg : Bool) (m : Nat) (e : Int) : ℚ := (if neg then -1 else 1) * m * (2 : ℚ) ^ e

/-- Less, for two values neither of which is a NaN; the zeros are equal (R379). -/
def floatLess : Fp → Fp → Bool
  | .inf n1, .inf n2 => n1 && !n2
  | .inf n1, .num _ _ _ => n1
  | .num _ _ _, .inf n2 => !n2
  | .num n1 m1 e1, .num n2 m2 e2 => numVal n1 m1 e1 < numVal n2 m2 e2
  | _, _ => false

/-- FCMP's truth and flags (R379): an ordering compare of a NaN is invalid, any other only of a signalling NaN. -/
def floatCond (c : FCond) (x y : Fp) : Bool × BitVec 6 :=
  let nan := x.isNan || y.isNan
  let lt := floatLess x y
  let gt := floatLess y x
  let some' := if x.isSnan || y.isSnan then 0x01#6 else 0#6
  let any' := if nan then 0x01#6 else 0#6
  match c with
  | .eq => (!nan && !lt && !gt, some')
  | .ne => (nan || lt || gt, some')
  | .lt => (!nan && lt, any')
  | .le => (!nan && !gt, any')
  | .gt => (!nan && gt, any')
  | .ge => (!nan && !lt, any')
  | .ord => (!nan, some')
  | .uno => (nan, some')

/-- FCMP in a lane: none where a source or the guard is poisoned. -/
def floatCompare (s : State) (vector : Bool) (a b : Opd) (c : FCond) (l : Nat) : Option (Bool × BitVec 6) :=
  let x := s.srcA vector a l
  let y := s.srcB vector b l
  if (firstTok [x.tok, y.tok, s.guardTok l]).isSome then none
  else some (floatCond c (fsrc fp32 (floatEnv s) (x.bits.toNat % 2 ^ 32)) (fsrc fp32 (floatEnv s) (y.bits.toNat % 2 ^ 32)))

/-- The flags of one half's lanes. -/
def compareFlags (s : State) (up : Bool) (x : Nat → Option (Bool × BitVec 6)) : BitVec 6 :=
  ((activeList s).filter fun l => decide (32 ≤ l) == up).foldl (fun f l => f ||| ((x l).map (·.2)).getD 0#6) 0#6

/-- A saturating result (R47): under TSAT a saturation event gives a CONV token and records SV alone. -/
def saturated (s : State) (r : FRes) : LRes :=
  if (floatEnv s).tsat ∧ r.flags.getLsbD 5 then .fresh 0x07#8 0 0x20#6 else .val (BitVec.ofNat 64 r.bits) r.flags

/-- The conversions that work lane by lane: marker, D, A, B as an operand, the further condition of their encoding, and the result from
the low 32 bits of A and B. -/
def convertOp (s : State) : Instr → Option (Bool × Opd × Opd × Option Opd × Bool × (Nat → Nat → LRes))
  | .cvt sw d a b p => if cvtTwoSource p
      then some (sw, d, a, some (Opd.ofCode b), false, fun x y => saturated s (cvtLane p (floatEnv s) x y 0))
      else some (sw, d, a, none, decide (cvtMaxSel p < b.toNat), fun x _ => saturated s (cvtLane p (floatEnv s) x 0 b.toNat))
  | .frnd sw d a b => some (sw, d, a, none, decide (4 < b.toNat), fun x _ =>
      let r := frnd (if b = 4#7 then (floatEnv s).rm else Rm.ofBits (b.setWidth 2)) (floatEnv s) x
      .val (BitVec.ofNat 64 r.bits) r.flags)
  | .mxdq sw d a b => some (sw, d, a, none, decide (1 < b.toNat), fun x _ =>
      .val (BitVec.ofNat 64 (if b = 0#7 then mxdq mxInt8 (x / 256 % 256) (asSigned 8 (x % 256))
        else mxdq mxI4 (x / 256 % 256) (asSigned 4 (x % 16)))) 0#6)
  | _ => none

/-- A block instruction over the lanes of a hardware wave: its form, its further condition, the tokens of a lane, and the codes, one for
each of the 32 lanes, with the flags, from the first lane of the hardware wave. -/
structure BlockOp where
  sw : Bool
  d : Opd
  form : Form
  bad : Bool
  toks : Nat → List (Option Word32)
  block : Nat → List Nat × BitVec 6

/-- A source in a lane that is active, else +0.0. -/
def orZero (s : State) (l : Nat) (x : ScalVal) : Nat := if s.active.getLsbD l then x.bits.toNat % 2 ^ 32 else 0

/-- MXQ and TERQ (R408, R409, R447): each lane's result is the scale and the lane's codes. -/
def blockOp (s : State) : Instr → Option BlockOp
  | .mxq sw d a b => some ⟨sw, d, { regForm d a none with xln := true }, !isVecReg d || decide (1 < b.toNat),
      fun l => [(s.srcA true a l).tok], fun h =>
        let r := mxq (if b = 0#7 then mxInt8 else mxI4) ((List.range 32).map fun i => orZero s (h + i) (s.srcA true a (h + i)))
        (r.2.1.map fun n => r.1 * 256 + (n % 256).toNat, r.2.2)⟩
  | .terq sw d a => some ⟨sw, d, { a := some { o := a, nv := 4 }, dst := some { o := d }, xln := true }, !isVecReg d || !isVecReg a,
      fun l => (List.range 4).map fun j => (s.terqSrc a j l).tok, fun h =>
        let r := terq ((List.range 32).flatMap fun i => (List.range 4).map fun j => orZero s (h + i) (s.terqSrc a j (h + i)))
        ((List.range 32).map fun i => r.1 * 2 ^ 16 + r.2.1.getD (4 * i) 0 + 4 * r.2.1.getD (4 * i + 1) 0 +
          16 * r.2.1.getD (4 * i + 2) 0 + 64 * r.2.1.getD (4 * i + 3) 0, r.2.2)⟩
  | _ => none

/-- The active lanes of the hardware waves that the wave has (R105), and those of one of them. -/
def heldLanes (s : State) : List Nat := (activeList s).filter fun l => decide (l < s.wave.lanes)
def laneWave (s : State) (l : Nat) : List Nat := (activeList s).filter fun x => x / 32 = l / 32

/-- A lane's part of a block: the hardware wave's first token, else its codes; the flags are raised once, by the lowest lane. -/
def blockPart (s : State) (o : BlockOp) (l : Nat) : LRes :=
  match (laneWave s l).findSome? fun x => firstTok (o.toks x ++ [s.guardTok x]) with
  | some t => .tok t
  | none => .val (BitVec.ofNat 64 ((o.block (l / 32 * 32)).1.getD (l % 32) 0)) (if (laneWave s l).head? = some l then (o.block (l / 32 * 32)).2 else 0#6)

end Sys2Proof.Claims

section

open Sys2Proof Sys2Proof.Machine Sys2Proof.Claims

/-- R377, R378. -/
def Obligations.FloatResults : Prop :=
  ∀ (i : Instr) (o : FloatOp) (s : State), floatOp i = some o → s.issuing = true → s.formTrap (regForm o.d o.a o.b) false = none →
    Goes i s (Computes s o.sw o.late (s.dest o.d) (laneList s (regForm o.d o.a o.b).isVec)
      (fromSources s (regForm o.d o.a o.b).isVec o.d o.a o.b o.readsD fun x y z => onElements o.t fun e =>
        let src (v : Word64) : Fp := fsrc (floatFmt o.t) (floatEnv s) (e v.toNat)
        o.f (floatFmt o.t) (floatEnv s) (src x) (src y) (src z)))

/-- R381, with R52's version. -/
def Obligations.FunctionResults : Prop :=
  ∀ (i : Instr) (sw : Bool) (d a : Opd) (t : FType) (op : FfnOp) (s : State), functionOp i = some (sw, d, a, t, op) → s.issuing = true →
    s.formTrap (regForm d a none) false = none →
    Goes i s (Computes s sw true (s.dest d) (laneList s (regForm d a none).isVec)
      (fromSources s (regForm d a none).isVec d a none false fun x _ _ => onElements t fun e =>
        ffnElem op s.wave.env.ftv.toNat (floatFmt t) (floatEnv s) (e x.toNat)))

/-- R379. -/
def Obligations.FloatCompares : Prop :=
  ∀ (sw : Bool) (p : BitVec 3) (a b : Opd) (c : FCond) (s : State), s.issuing = true →
    s.formTrap (cmpRegForm a (some b) .plain) false = none →
    Goes (.fcmp sw p a b c) s (Compares s sw p.toNat (activeList s)
      (fun l => (floatCompare s (cmpRegForm a (some b) .plain).isVec a b c l).map (·.1))
      (compareFlags s false (floatCompare s (cmpRegForm a (some b) .plain).isVec a b c))
      (compareFlags s true (floatCompare s (cmpRegForm a (some b) .plain).isVec a b c)))

/-- R45, R47, R49, R51. -/
def Obligations.ConversionResults : Prop :=
  ∀ (i : Instr) (s : State) (sw : Bool) (d a : Opd) (b : Option Opd) (bad : Bool) (f : Nat → Nat → LRes),
    convertOp s i = some (sw, d, a, b, bad, f) → s.issuing = true → s.formTrap (regForm d a b) bad = none →
    Goes i s (Computes s sw false (s.dest d) (laneList s (regForm d a b).isVec)
      (fromSources s (regForm d a b).isVec d a b false fun x y _ => f (x.toNat % 2 ^ 32) (y.toNat % 2 ^ 32)))

/-- R409, R447. -/
def Obligations.BlockQuantisation : Prop :=
  ∀ (i : Instr) (s : State) (o : BlockOp), blockOp s i = some o → s.issuing = true → s.formTrap o.form o.bad = none →
    Goes i s (Computes s o.sw false (s.dest o.d) (heldLanes s) (blockPart s o))

end

namespace Sys2Proof.Claims

open Sys2Proof.Machine

/-- A correct rounding of num/den to an integer (R38): down, up, towards zero, or to the nearest with ties to even. -/
def RoundsTo (rm : Rm) (neg : Bool) (num den r : Nat) : Prop :=
  let down := r * den ≤ num ∧ num < (r + 1) * den
  let up := num ≤ r * den ∧ r * den < num + den
  match rm with
  | .rtz => down
  | .rup => if neg then down else up
  | .rdn => if neg then up else down
  | .rne => 2 * (r * den) ≤ 2 * num + den ∧ 2 * num ≤ 2 * (r * den) + den ∧
      (2 * (r * den) = 2 * num + den ∨ 2 * num = 2 * (r * den) + den → r % 2 = 0)

/-- NV when one of two sources is a signalling NaN. -/
def nvOf (x y : Fp) : BitVec 6 := if x.isSnan || y.isSnan then 0x01#6 else 0#6

/-- The environment of a rounding mode and a SAT8 bit, without FTZ, DAZ and TSAT. -/
def envOf (rm : Rm) (sat8 : Bool) : FEnv := ⟨rm, false, false, sat8, false⟩

/-- The block of R50's example (R48). -/
def exampleBlock : List Nat := [0x407F5C29, 0x40400000, 0x3E99999A, 0xBC23D70A, 0xC07F5C29] ++ List.replicate 27 0

end Sys2Proof.Claims

section

open Sys2Proof Sys2Proof.Machine Sys2Proof.Claims

/-- R31, R38, R46, R48 to R51, R53, R54, R378, at their corner values. -/
def Obligations.ArithmeticLaws : Prop :=
  (∀ (f : FFmt) (env : FEnv) (x y d : Fp), x.isNan = true ∨ y.isNan = true →
    (∀ op ∈ [faddF, fsubF, fmulF, fdivF], op f env x y = ⟨f.nanBits, nvOf x y⟩) ∧
    fmaF f env x y d = ⟨f.nanBits, if d.isSnan then 0x01#6 else nvOf x y⟩) ∧
  (∀ (f : FFmt) (env : FEnv) (q : Bool), fsqrtF f env (.nan q) = ⟨f.nanBits, nvOf (.nan q) (.nan q)⟩) ∧
  (∀ (f : FFmt) (env : FEnv) (n1 n2 : Bool) (m : Nat) (e e2 : Int) (d : Fp),
    let invalid : FRes := ⟨f.nanBits, 0x01#6⟩
    faddF f env (.inf n1) (.inf (!n1)) = invalid ∧ fsubF f env (.inf n1) (.inf n1) = invalid ∧
    fmulF f env (.inf n1) (.num n2 0 e) = invalid ∧ fmulF f env (.num n2 0 e) (.inf n1) = invalid ∧
    fmaF f env (.inf n1) (.num n2 0 e) d = invalid ∧ fmaF f env (.num n2 0 e) (.inf n1) d = invalid ∧
    fdivF f env (.num n1 0 e) (.num n2 0 e2) = invalid ∧ fdivF f env (.inf n1) (.inf n2) = invalid ∧
    (0 < m → fdivF f env (.num n1 m e) (.num n2 0 e2) = ⟨f.signBits (n1 != n2) + f.infBits, 0x02#6⟩) ∧
    (0 < m → fsqrtF f env (.num true m e) = invalid) ∧ fsqrtF f env (.inf true) = invalid ∧
    fsqrtF f env (.num n1 0 e) = ⟨f.signBits n1, 0#6⟩ ∧ fsqrtF f env (.inf false) = ⟨f.infBits, 0#6⟩) ∧
  (∀ (f : FFmt) (env : FEnv) (n : Bool) (m : Nat) (e e2 : Int),
    faddF f env (.num n m e) (.num (!n) m e) = ⟨f.signBits (decide (env.rm = .rdn)), 0#6⟩ ∧
    fsubF f env (.num n m e) (.num n m e) = ⟨f.signBits (decide (env.rm = .rdn)), 0#6⟩ ∧
    faddF f env (.num n 0 e) (.num n 0 e2) = ⟨f.signBits n, 0#6⟩) ∧
  (∀ (f : FFmt) (env : FEnv) (isMax q q2 : Bool) (x : Fp) (e e2 : Int),
    (x.isNan = false →
      (fminmaxF isMax f env (.nan q) x).bits = (giveSource f env x).bits ∧ (fminmaxF isMax f env x (.nan q)).bits = (giveSource f env x).bits ∧
      (fminmaxF isMax f env (.nan q) x).flags.getLsbD 0 = q) ∧
    fminmaxF isMax f env (.nan q) (.nan q2) = ⟨f.nanBits, if q || q2 then 0x01#6 else 0#6⟩ ∧
    fminmaxF isMax f env (.num true 0 e) (.num false 0 e2) = ⟨f.signBits (!isMax), 0#6⟩ ∧
    fminmaxF isMax f env (.num false 0 e) (.num true 0 e2) = ⟨f.signBits (!isMax), 0#6⟩) ∧
  (∀ (rm : Rm) (neg : Bool) (num den : Nat), 0 < den →
    RoundsTo rm neg num den (roundQuot rm neg num den false).1 ∧ ((roundQuot rm neg num den false).2 = true ↔ num % den ≠ 0)) ∧
  (∀ (rm : Rm) (sat8 neg : Bool) (f : FFmt), f = fp32 ∨ f = fp16 ∨ f = bf16 →
    let x := f.decode (f.signBits neg + f.maxBits)
    faddF f (envOf rm sat8) x x = ⟨f.signBits neg + (if rm = .rne ∨ (rm = .rup ∧ neg = false) ∨ (rm = .rdn ∧ neg = true) then f.infBits
      else f.maxBits), 0x14#6⟩) ∧
  (∀ rm : Rm, faddF fp32 (envOf rm false) (fp32.decode 0x3F800000) (fp32.decode 0x33800000) =
    ⟨if rm = .rup then 0x3F800001 else 0x3F800000, 0x10#6⟩) ∧
  (∀ sat8 : Bool, cvtFF fp32 e4m3 (envOf .rne sat8) 0x43960000 = ⟨0x79, 0x10#6⟩ ∧
    cvtFF fp32 e4m3 (envOf .rne sat8) 0x43FA0000 = (if sat8 then ⟨0x7E, 0x34#6⟩ else ⟨0x7F, 0x14#6⟩) ∧
    cvtFF fp32 e4m3 (envOf .rne sat8) 0xFF800000 = (if sat8 then ⟨0xFE, 0x34#6⟩ else ⟨0x7F, 0x14#6⟩) ∧
    cvtFF fp32 e5m2 (envOf .rne sat8) 0xFF800000 = ⟨0xFC, 0#6⟩ ∧
    cvtFF fp32 e5m2 (envOf .rne sat8) 0x47727000 = (if sat8 then ⟨0x7B, 0x34#6⟩ else ⟨0x7C, 0x14#6⟩)) ∧
  ((∀ (env : FEnv) (lo hi : Int) (bits : Nat), (fsrc fp32 env bits).isNan = true → f32ToInt env lo hi bits = (0, 0x21#6)) ∧
    f32ToInt (envOf .rne false) (-2 ^ 31) (2 ^ 31 - 1) 0x4F800000 = (2 ^ 31 - 1, 0x21#6) ∧
    f32ToInt (envOf .rne false) (-2 ^ 31) (2 ^ 31 - 1) 0xFF800000 = (-2 ^ 31, 0x21#6) ∧
    f32ToInt (envOf .rne false) (-2 ^ 31) (2 ^ 31 - 1) 0x40200000 = (2, 0x10#6) ∧
    f32ToInt (envOf .rdn false) 0 (2 ^ 32 - 1) 0xBF000000 = (0, 0x31#6) ∧
    ∀ (w : Nat) (x : Int), 0 < w → -(2 ^ (w - 1)) ≤ x → x < 2 ^ (w - 1) → clampToInt w x = ⟨(x % 2 ^ w).toNat, 0#6⟩ ∧
      clampToInt w (2 ^ (w - 1) + x.natAbs) = ⟨2 ^ (w - 1) - 1, 0x20#6⟩) ∧
  (toL16 (fp32.decode 0x40400000) = ⟨0x032C, 0x10#6⟩ ∧ toL16 (fp32.decode 0xC0400000) = ⟨0x832C, 0x10#6⟩ ∧ l16ToL8 0x032C = ⟨0x0D, 0x10#6⟩ ∧
    (∀ neg : Bool, toL16 (.inf neg) = ⟨0xC000, 0x01#6⟩ ∧ toL16 (.nan neg) = ⟨0xC000, 0x01#6⟩ ∧ ∀ e, toL16 (.num neg 0 e) = ⟨0x4000, 0#6⟩) ∧
    toL16 (fp32.decode 1) = ⟨0x4000, 0x18#6⟩ ∧ l16ToL8 0x3FFF = ⟨0x3F, 0x34#6⟩ ∧ l16ToL8 0xC000 = ⟨0xC0, 0#6⟩ ∧ l8ToL16 0x0D = 0x0340 ∧
    fromL16 0x0200 = ⟨0x40000000, 0#6⟩) ∧
  (∀ (fmt : MxFmt) (xs : List Nat), (∃ x ∈ xs, finiteF32 x = false) →
    mxq fmt xs = (0xFF, List.replicate xs.length 0, 0x01#6) ∧ terq xs = (0x7FC0, List.replicate xs.length 0, 0x01#6)) ∧
  (mxq mxInt8 exampleBlock = (0x80, [127, 96, 10, 0, -128] ++ List.replicate 27 0, 0x10#6) ∧
    mxq mxI4 exampleBlock = (0x80, [7, 6, 1, 0, -8] ++ List.replicate 27 0, 0x10#6) ∧ mxdq mxInt8 0x80 127 = 0x407E0000) ∧
  (∀ (fmt : MxFmt) (n : Int), fmt = mxInt8 ∨ fmt = mxI4 → -(2 ^ (fmt.width - 1)) ≤ n → n < 2 ^ (fmt.width - 1) →
    mxdq fmt 0xFF n = 0x7FC00000 ∧ ∀ e, e < 254 → ∃ neg m x, fp32.decode (mxdq fmt e n) = .num neg m x ∧
      numVal neg m x = n * (2 : ℚ) ^ ((e : Int) - 127 - fmt.frac)) ∧
  (∀ (xs : List Nat), ∀ c ∈ (terq xs).2.1, c = 0 ∨ c = 1 ∨ c = 3) ∧
  (∀ (rm : Rm) (env : FEnv) (bits : Nat), (frnd rm env bits).flags = nvOf (fsrc fp32 env bits) (fsrc fp32 env bits) ∧
    (env.daz = false → frnd .rne env 0xBE99999A = ⟨0x80000000, 0#6⟩ ∧ frnd .rup env 0x40200000 = ⟨0x40400000, 0#6⟩)) ∧
  (∀ rm : Rm,
    ffnElem .exp 2 fp32 (envOf rm false) 0 = ⟨0x3F800000, 0#6⟩ ∧ ffnElem .exp 2 fp32 (envOf rm false) 0x40400000 = ⟨0x41000000, 0#6⟩ ∧
    ffnElem .log 2 fp32 (envOf rm false) 0x3F800000 = ⟨0, 0#6⟩ ∧ ffnElem .log 2 fp32 (envOf rm false) 0x41000000 = ⟨0x40400000, 0#6⟩ ∧
    ffnElem .rcp 2 fp32 (envOf rm false) 0x40000000 = ⟨0x3F000000, 0#6⟩ ∧
    ffnElem .rcp 2 fp32 (envOf rm false) 0x40400000 = ⟨if rm = .rne ∨ rm = .rup then 0x3EAAAAAB else 0x3EAAAAAA, 0x10#6⟩ ∧
    ffnElem .rsq 2 fp32 (envOf rm false) 0x40800000 = ⟨0x3F000000, 0#6⟩ ∧ ffnElem .sin 2 fp32 (envOf rm false) 0x3F000000 = ⟨0x3F800000, 0#6⟩ ∧
    ffnElem .cos 2 fp32 (envOf rm false) 0x3F800000 = ⟨0xBF800000, 0#6⟩ ∧ ffnElem .tanh 2 fp32 (envOf rm false) 0x80000000 = ⟨0x80000000, 0#6⟩)

end

namespace Sys2Proof.Claims

open Sys2Proof.Machine

/-! ## Segments -/

/-- The lanes in a segment: the declared width (R103, R104). -/
def segWidth (s : State) : Nat := max 1 (match s.wg.kern.width.toNat with | 1 => 8 | 2 => 16 | 3 => 32 | 4 => 64 | _ => 0)

/-- The lanes of whole segments that the wave has, and the active ones of a lane's segment, ascending. -/
def inSegment (s : State) (l : Nat) : Bool := decide (l < s.wave.lanes / segWidth s * segWidth s)
def segLanes (s : State) : List Nat := (activeList s).filter (inSegment s)
def segmentOf (s : State) (l : Nat) : List Nat := (segLanes s).filter fun x => x / segWidth s == l / segWidth s

/-- The tokens of A and the guard in a lane. -/
def laneToks (s : State) (a : Opd) (l : Nat) : Option Word32 := firstTok [(s.srcA true a l).tok, s.guardTok l]

/-- The low 32 bits of A in a lane. -/
def low32 (s : State) (a : Opd) (l : Nat) : Word32 := (s.srcA true a l).bits.setWidth 32

/-- A reduction as one function of all the values, with its result for none (R426). -/
def reduced (o : RedOp) (xs : List Word32) : Word32 :=
  match o with
  | .add => BitVec.ofNat 32 (xs.map BitVec.toNat).sum
  | .min => BitVec.ofInt 32 ((xs.map BitVec.toInt).foldr min (2 ^ 31 - 1))
  | .max => BitVec.ofInt 32 ((xs.map BitVec.toInt).foldr max (-2 ^ 31))
  | .minu => BitVec.ofNat 32 ((xs.map BitVec.toNat).foldr min (2 ^ 32 - 1))
  | .maxu => BitVec.ofNat 32 ((xs.map BitVec.toNat).foldr max 0)
  | .and => BitVec.ofFnLE fun i : Fin 32 => xs.all fun x => x[i]
  | .or => BitVec.ofFnLE fun i : Fin 32 => xs.any fun x => x[i]
  | .xor => BitVec.ofFnLE fun i : Fin 32 => (xs.countP fun x => x[i]) % 2 == 1

/-- The active lanes of segment `n`. -/
def segment (s : State) (n : Nat) : List Nat := (segLanes s).filter fun x => x / segWidth s == n

/-- Where a reduction's segments go (R426), from each one's value and flags: each to its active lanes in a vector D; else to the scalar,
extended, or side by side. -/
def placed (s : State) (d a : Opd) (signed : Bool) (value : Nat → Word32 × BitVec 6) (l : Nat) : LRes :=
  let w := segWidth s
  if isVecReg d then
    match (segment s (l / w)).findSome? (laneToks s a) with
    | some t => .tok t
    | none => .val ((value (l / w)).1.setWidth 64) (value (l / w)).2
  else
    match (segLanes s).findSome? (laneToks s a) with
    | some t => .tok t
    | none =>
      let ns := List.range (s.wave.lanes / w)
      let flags := (ns.map fun n => (value n).2).foldl (· ||| ·) 0#6
      if w = 8 ∨ w = 16 then .val (BitVec.ofNat 64 (ns.map fun n => (value n).1.toNat % 2 ^ w * 2 ^ (w * n)).sum) flags
      else
        let x := if ns.isEmpty then 0#32 else (value 0).1
        .val (if signed then BitVec.ofInt 64 x.toInt else BitVec.ofNat 64 x.toNat) flags

/-- R427's tree over the lanes of segment `n`, absent lanes left out. -/
def treeSum (s : State) (a : Opd) (n : Nat) : Word32 × BitVec 6 :=
  let leaves := (List.range (segWidth s)).map fun i =>
    let l := n * segWidth s + i
    (if s.active.getLsbD l then some (low32 s a l).toNat else none, 0#6)
  match faddTree (floatEnv s) 6 leaves with
  | (some x, f) :: _ => (BitVec.ofNat 32 x, f)
  | _ => (0#32, 0#6)

/-- The flags of the segments that have no token, where a scalar D takes another segment's token (R427). -/
def spareFlags (s : State) (d a : Opd) : BitVec 6 :=
  if isVecReg d then 0#6
  else (((List.range (s.wave.lanes / segWidth s)).filter fun n => ((segment s n).findSome? (laneToks s a)).isNone).map fun n =>
    (treeSum s a n).2).foldl (· ||| ·) 0#6

/-- The state with flags added to those of the lower half. -/
def flagged (s : State) (f : BitVec 6) : State := s.setWave { s.wave with lo := { s.wave.lo with fflags := s.wave.lo.fflags ||| f } }

/-- The lanes a reduction or a shuffle writes. -/
def placedLanes (s : State) (d : Opd) : List Nat := if isVecReg d then segLanes s else [0]

/-- The reduction that a scan makes of the values up to a lane (R434). -/
def scanOp : ScanOp → RedOp
  | .add => .add | .min => .min | .max => .max | .xor => .xor

/-- A vote over the lanes of a segment (R452). -/
def voteTrue : Instr → Option (Bool × BitVec 3 × BitVec 3 × (List Bool → Bool))
  | .voteAll sw d a => some (sw, d, a, fun l => !l.contains false)
  | .voteAny sw d a => some (sw, d, a, fun l => l.contains true)
  | .voteUni sw d a => some (sw, d, a, fun l => !(l.contains false && l.contains true))
  | _ => none

/-- Is a predicate or the guard poisoned in one of these lanes? -/
def anyPoisoned (s : State) (p : Nat) (ls : List Nat) : Bool := ls.any fun l => (s.readPred p).poi.getLsbD l || (s.guardTok l).isSome

def xlnRegForm (d a : Opd) : Form := { a := some { o := a }, dst := some { o := d }, mixing := false, xln := true }

/-- R430's mixing of the seed and the counter, as arithmetic modulo 2^64. -/
def mixed (k c : Nat) : Nat :=
  let m (z n f : Nat) : Nat := (z ^^^ (z / 2 ^ n)) * f % 2 ^ 64
  let z := m (m ((k + c * 0x9E3779B97F4A7C15) % 2 ^ 64) 30 0xBF58476D1CE4E5B9) 27 0x94D049BB133111EB
  z ^^^ (z / 2 ^ 31)

end Sys2Proof.Claims

section

open Sys2Proof Sys2Proof.Machine Sys2Proof.Claims

/-- R425, R426; R427. -/
def Obligations.Reductions : Prop :=
  (∀ (sw : Bool) (d a : Opd) (o : RedOp) (s : State), s.issuing = true → s.formTrap (xlnRegForm d a) false = none →
     Goes (.red sw d a o) s (Computes s sw true (s.dest d) (placedLanes s d)
       (placed s d a (o == .add || o == .min || o == .max) fun n => (reduced o ((segment s n).map (low32 s a)), 0#6)))) ∧
  (∀ (sw : Bool) (d a : Opd) (s : State), s.issuing = true → s.formTrap (xlnRegForm d a) false = none →
     Goes (.redFadd sw d a) s (Computes (flagged s (spareFlags s d a)) sw true (s.dest d) (placedLanes s d) (placed s d a false (treeSum s a))))

/-- R434. -/
def Obligations.Scans : Prop :=
  ∀ (sw : Bool) (d a : Opd) (o : ScanOp) (s : State), s.issuing = true → s.formTrap (xlnRegForm d a) (!isVecReg d) = none →
    Goes (.scan sw d a o) s (Computes s sw true (s.dest d) (segLanes s) fun l =>
      let upTo := (segmentOf s l).filter (· ≤ l)
      match upTo.findSome? (laneToks s a) with
      | some t => .tok t
      | none => .val ((reduced (scanOp o) (upTo.map (low32 s a))).setWidth 64) 0#6)

/-- R351, R374, R452. -/
def Obligations.VotesAndBallots : Prop :=
  (∀ (sw : Bool) (d : Opd) (p : BitVec 3) (s : State), s.issuing = true →
    s.formTrap { dst := some { o := d }, mixing := false, xln := true } (!d.sgz) = none →
    Goes (.ballot sw d p) s (Computes s sw true (s.dest d) [0] fun _ =>
      if anyPoisoned s p.toNat (activeList s) then .tok 0#32
      else .val (BitVec.ofFnLE fun i : Fin 64 => s.active[i] && (s.readPred p.toNat).val[i]) 0#6)) ∧
  (∀ (i : Instr) (sw : Bool) (d a : BitVec 3) (f : List Bool → Bool) (s : State), voteTrue i = some (sw, d, a, f) → s.issuing = true →
    s.formTrap { xln := true } false = none →
    Goes i s (ComparesLate s sw d.toNat (segLanes s) fun l =>
      if anyPoisoned s a.toNat (segmentOf s l) then none else some (f ((segmentOf s l).map (s.readPred a.toNat).val.getLsbD)))) ∧
  (∀ (sw : Bool) (p : BitVec 3) (s : State), s.issuing = true → s.formTrap { xln := true } false = none →
    Goes (.elect sw p) s (ComparesLate s sw p.toNat (segLanes s) fun l => some (decide (∀ x ∈ segmentOf s l, l ≤ x))))

/-- R440. -/
def Obligations.Shuffle : Prop :=
  ∀ (sw : Bool) (d a b : Opd) (s : State), s.issuing = true →
    s.formTrap { regForm d a (some b) with mixing := false, xln := true } (!isVecReg d) = none →
    Goes (.shfl sw d a b) s (Computes s sw true (s.dest d) (activeList s) fun l =>
      let i := s.srcB true b l
      let x := s.srcA true a (l - l % segWidth s + i.bits.toNat % segWidth s)
      match firstTok [i.tok, if i.p then none else x.tok, s.guardTok l] with
      | some t => .tok t
      | none => .val x.bits 0#6)

/-- R362, R389, R402. -/
def Obligations.PoisonInstructions : Prop :=
  (∀ (sw : Bool) (p : BitVec 3) (a : Opd) (s : State), s.issuing = true → s.formTrap { a := some { o := a } } false = none →
    Goes (.ispoi sw p a) s (Compares s sw p.toNat (activeList s) (fun l => some (s.srcA a.isVec a l).p) 0#6 0#6)) ∧
  (∀ (sw : Bool) (d a : Opd) (s : State), s.issuing = true → s.formTrap (regForm d a none) false = none →
    Goes (.mkpoi sw d a) s (Computes s sw false (s.dest d) (laneList s (regForm d a none).isVec) fun l =>
      .tok ((s.srcA (regForm d a none).isVec a l).bits.setWidth 32))) ∧
  (∀ (sw : Bool) (a : Opd) (s : State), s.issuing = true → s.formTrap { a := some { o := a } } false = none →
    (∀ l ∈ laneList s a.isVec, firstTok [(s.srcA a.isVec a l).tok, s.guardTok l] = none) →
    Goes (.chkp sw a) s (Went s s.wave [] sw 1))

/-- R430. -/
def Obligations.RandomValues : Prop :=
  ∀ (sw : Bool) (d a : Opd) (s : State), s.issuing = true → s.formTrap (regForm d a none) false = none →
    Goes (.rnd sw d a) s (Computes s sw false (s.dest d) (if (regForm d a none).isVec then activeList s else [0]) fun l =>
      match firstTok [(s.srcA (regForm d a none).isVec a l).tok, s.guardTok l] with
      | some t => .tok t
      | none =>
        let z := mixed ((s.srcA (regForm d a none).isVec a l).bits.toNat + 2 ^ 32 * (s.wave.id.wid + l / 32)) (64 * s.wave.qclk.toNat + l)
        .val (BitVec.ofNat 64 (if (regForm d a none).isVec then z % 2 ^ 32 else z)) 0#6)

end

namespace Sys2Proof.Claims

open Sys2Proof.Machine

/-! ## Global memory -/

/-- The instruction ran from `s0`: `s0` is `s` after the named maintenance of caches, FIFO and TLBs; its own wave then changed to `w`. -/
def Ran (s0 : State) (w : Wave) (sw : Bool) (t : State) : Prop := Went s0 w [] sw 1 t

/-- A wave but for its wait, of which the home marks that its condition has held (R229), and for what it counts as on its way to its home
(R370). -/
def noWait (w : Wave) : Wave := { w with wait := none, left := [] }

/-- `u` is `s` after memory, the caches and what they do at the homes have changed: the harts' lines, the value waits that a write
meets, and the acknowledgements that waves count (R198, R229, R370). -/
def OnlyMemory (s u : State) : Prop :=
  u = { s with mem := u.mem, caches := u.caches, harts := u.harts, waves := u.waves, belay := u.belay } ∧
    ∀ k, (u.waves.find k).map noWait = (s.waves.find k).map noWait

/-- A load: marker, D, offset, record, ORD, `.spec`, the number of registers, its form and further condition, the shape of its access,
and register `k` of the value of `n` bytes with the flags of its conversion. -/
structure LoadOp where
  sw : Bool
  d : Opd
  o : Opd
  r : BitVec 4
  c : OrdCode
  spec : Bool
  nr : Nat
  form : Form
  bad : Bool
  shape : LoadShape
  reg : Nat → Nat → Nat → Word64
  flags : Nat → Nat → BitVec 6

def byteCount (z : MemSize) : Nat := match z with | .b8 => 1 | .b16 => 2 | .b32 => 4 | .b64 => 8 | .b128 => 16

/-- Registers that `n` bytes fill in a lane and in scalar registers (R151). -/
def regCount (vector : Bool) (n : Nat) : Nat := if vector then (n + 3) / 4 else (n + 7) / 8

/-- An operand with the group that `n` bytes fill. -/
def memGroup (o : Opd) (n : Nat) : Grp := { o := o, nv := regCount true n, ns := regCount false n }

/-- Register `k` of a loaded value: extended to the group, lanes of 32 bits or scalars of 64 (R394). -/
def loadedReg (vector sx : Bool) (n k x : Nat) : Word64 :=
  let v : Int := if sx then asSigned (8 * n) x else x
  if vector then BitVec.ofInt 64 (v / 2 ^ (32 * k) % 2 ^ 32) else BitVec.ofInt 64 (v / 2 ^ (64 * k))

/-- LD and LDX (R393 to R396). LDX's element is the model's decoding of the record's format. -/
def loadOp (s : State) : Instr → Option LoadOp
  | .ld sw d o r c e x z =>
    let n := byteCount z
    let f : Form := { a := some { o := o }, dst := some (memGroup d n) }
    some ⟨sw, d, o, r, c, e, regCount f.isVec n, f, false, ldShape (s.brec r) n x, fun k _ v => loadedReg f.isVec x n k v, fun _ _ => 0#6⟩
  | .ldx sw d o r c e =>
    let fmt := recFmt (s.brec r)
    let f : Form := { a := some { o := o }, dst := some { o := d } }
    some ⟨sw, d, o, r, c, e, 1, f, fmt == 0 || fmt == 14 || fmt == 15, ldxShape (s.brec r),
      fun _ off v => (ldxRegs fmt f.isVec off v).1.getD 0 0#64, fun off v => (ldxRegs fmt f.isVec off v).2⟩
  | _ => none

/-- The address checks of a load, lane by lane; a lane whose offset or guard is poisoned makes none. -/
def loadChecksOf (s : State) (i : LoadOp) : List (Nat × LaneChk) := s.loadChecks i.form.isVec i.o (s.brec i.r) i.shape i.spec

/-- The state a load reads: its lanes' translations in the TLBs, and the atomics performed that wait on its bytes (R200, R280). -/
def loadFrom (s : State) (i : LoadOp) : State :=
  let cs := loadChecksOf s i
  (s.touchTlbs (s.brec i.r) ((cs.filter fun e => !e.2.pas.isEmpty).map fun e => i.shape.addr (s.offsetOf i.o e.1).bits.toNat)).settleAtomics
    (recScratch (s.brec i.r)) (chkPas cs)

/-- That state after the load's own effect on the caches, and its acquire (R185, R201). -/
def loadTo (s : State) (i : LoadOp) : State :=
  let cs := loadChecksOf s i
  (((loadFrom s i).loadsTouch (recScratch (s.brec i.r)) (i.c == .nc) false (chkPas (cs.filter fun e => !e.2.uncached))).loadsTouch
    (recScratch (s.brec i.r)) false true (chkPas (cs.filter (·.2.uncached)))).acquireAt (ordScope i.c)

/-- What a lane of a load comes to: a token of the offset or the guard; the bytes' value; a UE token where a byte cannot be read; under
`.spec` a token for the failure; zero for a lane out of bounds under BND 1. `pick` says what to make of the value. -/
def loadedLane (s : State) (i : LoadOp) (k l : Nat) : LRes :=
  let s1 := loadFrom s i
  let x := s1.offsetOf i.o l
  match firstTok [x.tok, s1.guardTok l] with
  | some t => .tok t
  | none =>
    match chkOf (loadChecksOf s i) l with
    | .ok pas u =>
      match s1.loadNum s1.overlay (recScratch (s.brec i.r)) u pas with
      | .error a => .fresh 0x05#8 a 0#6
      | .ok v => .val (i.reg k x.bits.toNat v) (i.flags x.bits.toNat v)
    | .bad c a => .fresh (tokenCode c) a 0#6
    | .null => .val 0#64 0#6

/-- A store: marker, data, offset, record, ORD, bytes of the data group, bytes stored, their alignment, the further condition, and the
stored bytes' number with the flags of its conversion. -/
structure StoreOp where
  sw : Bool
  d : Opd
  o : Opd
  r : BitVec 4
  c : OrdCode
  regBytes : Nat
  n : Nat
  align : Nat
  bad : Bool
  enc : Nat → FRes

/-- ST and STX (R441 to R443). -/
def storeOp (s : State) : Instr → Option StoreOp
  | .st sw d o r c z => some ⟨sw, d, o, r, c, byteCount z, byteCount z, byteCount z, false, fun x => ⟨x, 0#6⟩⟩
  | .stx sw d o r c =>
    let fmt := recFmt (s.brec r)
    some ⟨sw, d, o, r, c, 4, max 1 (fmtUnit fmt), fmtAlign fmt, fmt == 0 || fmtElems fmt != 1 || decide (14 ≤ fmt),
      stxEnc fmt (floatEnv s).sat8⟩
  | _ => none

def StoreOp.form (i : StoreOp) : Form := { a := some { o := i.o }, data := some (memGroup i.d i.regBytes) }
def StoreOp.checks (i : StoreOp) (s : State) : List (Nat × LaneChk) :=
  s.storeChecks i.form.isVec i.o (s.brec i.r) i.n i.align .store

/-- The address and byte pairs that the lanes of a store write, lane after lane, lowest byte first (R5, R199): the addresses are those
that the checks found, the data are read from `u`, the state after a scoped store's release. -/
def StoreOp.bytes (i : StoreOp) (u : State) (checks : List (Nat × LaneChk)) : List (Nat × Byte) :=
  checks.flatMap fun e => match e.2 with
    | .ok pas _ => pas.zip (leBytes i.n (i.enc (u.dataNum i.form.isVec i.d i.regBytes e.1)).bits)
    | _ => []

/-- Did a lane's check pass? -/
def passed : LaneChk → Bool
  | .ok _ _ => true
  | _ => false

def StoreOp.flags (i : StoreOp) (s u : State) (up : Bool) : BitVec 6 :=
  ((i.checks s).filter fun e => passed e.2 && decide (32 ≤ e.1) == up).foldl
    (fun f e => f ||| (i.enc (u.dataNum i.form.isVec i.d i.regBytes e.1)).flags) 0#6

/-- The checks of a store or atomic all pass: operands, addresses, poison, and at `.sys` no failed remote store (R250). -/
def storePasses (s : State) (f : Form) (bad : Bool) (checks : List (Nat × LaneChk)) (tok : Nat → Option Word32) (c : OrdCode) : Prop :=
  s.formTrap f bad = none ∧ s.pickTrap f.isVec (chkFails checks) = none ∧ s.lanePoison f.isVec tok = none ∧ s.sysFail (ordScope c) = none

/-- The lanes of a wave's own half of a pair, or of the other (R105): those of one that is no pair are all below 32. -/
def halfLanes {α : Type} (up : Bool) (l : List (Nat × α)) : List (Nat × α) := l.filter fun e => decide (32 ≤ e.1) == up

/-- An instruction's entries of the store FIFO, one for each half of a pair with lanes to serve (R105), the lower half's first; one
where there is no lane at all. -/
def perHalf {α : Type} (l : List (Nat × α)) (entry : Bool → List (Nat × α) → Eff) : List Eff :=
  if halfLanes true l = [] then [entry false (halfLanes false l)]
  else if halfLanes false l = [] then [entry true (halfLanes true l)]
  else [entry false (halfLanes false l), entry true (halfLanes true l)]

/-- The store FIFO, of a pair that of each half, has room for `n` more entries (R105, R184). -/
def fifoRooms (s : State) (n : Nat) : Prop :=
  ∀ up : Bool, (s.wave.fifo.filter fun e => e.takesEntry && e.upper == up).length + n ≤ 64

/-- It has room for one more. -/
def fifoRoom (s : State) : Prop := fifoRooms s 1

/-- Nothing holds a store or atomic back after its release, which leads to `u`: the FIFO has room for one more entry (R184), and a `.sys`
release waits for no other device's acknowledgement (R185). -/
def hasRoom (u : State) (c : OrdCode) : Prop :=
  fifoRoom u ∧ (c = .sys → u.wave.repro = false → u.unacked u.iss.cur = 0)

/-- The pages of the accesses of `n` bytes that the lanes' checks found good, in global memory (R287). -/
def accessPages (u : State) (o : Opd) (r : BufRec) (n : Nat) (checks : List (Nat × LaneChk)) : List VPage :=
  if recScratch r then [] else pagesOf n ((checks.filter fun e => !e.2.pas.isEmpty).map fun e => recAddr r (u.offsetOf o e.1).bits.toNat)

/-- An atomic's operands as the checks see them. -/
def atomForm (d o : Opd) (p : AtomOp) (ret : Bool) : Form :=
  let g : Grp := { o := d, nv := if p = .cas then 2 else 1, ns := if p = .cas then 2 else 1 }
  { a := some { o := o }, data := some g, dst := if ret then some g else none }

def atomIllegal (d o : Opd) (r : BufRec) (c : OrdCode) (p : AtomOp) : Bool :=
  recBad r || c == .nc || c == .ord7 || !dataReg d || (p == .cas && d == .zero) || (o.isVec && d.isScalarReg)

/-- The new value of a word from the old one and the operands x and y (R345). -/
def atomValue (p : AtomOp) (old x y : Word32) : Word32 :=
  match p with
  | .add => BitVec.ofNat 32 (old.toNat + x.toNat)
  | .sub => BitVec.ofInt 32 (old.toInt - x.toInt)
  | .min => BitVec.ofInt 32 (Min.min old.toInt x.toInt)
  | .max => BitVec.ofInt 32 (Max.max old.toInt x.toInt)
  | .minu => BitVec.ofNat 32 (Min.min old.toNat x.toNat)
  | .maxu => BitVec.ofNat 32 (Max.max old.toNat x.toNat)
  | .and => BitVec.ofFnLE fun i : Fin 32 => old[i] && x[i]
  | .or => BitVec.ofFnLE fun i : Fin 32 => old[i] || x[i]
  | .xor => BitVec.ofFnLE fun i : Fin 32 => old[i] != x[i]
  | .xchg => x
  | .cas => if old = x then y else old
  | .fadd => BitVec.ofNat 32 (faddF fp32 ⟨.rne, false, false, true, false⟩ (fp32.decode old.toNat) (fp32.decode x.toNat)).bits

/-- A word after the lanes of an atomic, in their order: those that name its address change it (R346). -/
def wordAfter (p : AtomOp) (lanes : List AtomLane) (a : Nat) (w : Word32) : Word32 :=
  lanes.foldl (fun w l => if l.loc = some a then atomValue p w l.x l.y else w) w

/-- The lanes of an atomic before a lane. -/
def lanesBefore (lanes : List AtomLane) (n : Nat) : List AtomLane := lanes.takeWhile fun l => l.lane != n

/-- The word at an address, lowest byte first (R5). -/
def wordAt (f : Nat → Byte) (a : Nat) : Word32 := f (a + 3) ++ f (a + 2) ++ f (a + 1) ++ f a

/-- The old value that a lane of an atomic returns, from what its words hold before (R346): what the lanes before it leave, 0 out of
bounds. -/
def oldValue (p : AtomOp) (lanes : List AtomLane) (word : Nat → Word32) (l : AtomLane) : Word32 :=
  match l.loc with
  | some a => wordAfter p (lanesBefore lanes l.lane) a (word a)
  | none => 0#32

/-- The wave after has the old values as one more outstanding result (R346): in the lanes of a vector register, or zero-extended in a
scalar one. -/
def returnsOld (w w' : Wave) (dst : Dest) (lanes : List AtomLane) (old : AtomLane → Word32) : Prop :=
  (dst = .none → w'.pend = w.pend) ∧
  (∀ r, dst = .vec r → ∃ p vals, w'.pend = w.pend ++ [p] ∧ p.writes = [.vec r vals] ∧ p.remote = [] ∧
    (∀ n, p.remaining.getLsbD n = decide (n < 64 ∧ n ∈ lanes.map (·.lane))) ∧ ∀ l ∈ lanes, vals.getD l.lane LaneVal.zero = ⟨old l, false⟩) ∧
  (∀ i l, dst = .scal i → lanes = [l] → l.lane = 0 → ∃ p, w'.pend = w.pend ++ [p] ∧ p.writes = [.scal i ⟨(old l).setWidth 64, false⟩] ∧
    p.remote = [] ∧ p.remaining = 1#64)

/-- ATOM and ATOMN (R345 to R347), and whether it returns the old values. -/
def atomicOp : Instr → Option (Bool × Bool × Opd × Opd × BitVec 4 × OrdCode × AtomOp)
  | .atom sw d o r c p => some (sw, true, d, o, r, c, p)
  | .atomn sw d o r c p => some (sw, false, d, o, r, c, p)
  | _ => none

end Sys2Proof.Claims

section

open Sys2Proof Sys2Proof.Machine Sys2Proof.Claims

/-- R394, R396: what a load promises, in which lanes, and from what state. That the value is that of the bytes at the issue is the model's
choice (DESIGN CHOICE, log entry 6): R206 and R394 name no such moment. -/
def Obligations.LoadResults : Prop :=
  ∀ (i : Instr) (s : State) (o : LoadOp), i.WellFormed → loadOp s i = some o → s.issuing = true →
    s.formTrap o.form (o.bad || recBad (s.brec o.r) || o.c == .ord7 || !dataReg o.d) = none →
    s.pickTrap o.form.isVec (specFails o.spec (chkFails (loadChecksOf s o))) = none →
    Goes i s fun t => ∃ w, Ran (loadTo s o) w o.sw t ∧
      let u := loadTo s o
      let m := laneList s o.form.isVec
      w = { u.wave with pend := w.pend, fifo := w.fifo, idem := if Dest.isG (s.dest o.d) then { u.wave.idem with idv := false } else u.wave.idem,
                        lo := halfAfter u u.wave.lo m false (loadedLane s o 0), hi := halfAfter u u.wave.hi m true (loadedLane s o 0) } ∧
      (if s.dest o.d = .none then w.pend = u.wave.pend
      else ∃ p, w.pend = u.wave.pend ++ [p] ∧
        PromisesGroup u p (s.dest o.d) o.nr m (remoteLanes (loadChecksOf s o)) (fun k l => valueOf u l (loadedLane s o k l))) ∧
      w.fifo = u.wave.fifo ++ (List.range o.nr).flatMap fun k =>
        (gEffects u true (destShift (s.dest o.d) k) (sharedOf u m fun l => valueOf u l (loadedLane s o k l))).2

/-- R419: PREF never raises an address trap and leaves the wave's registers. -/
def Obligations.Prefetch : Prop :=
  ∀ (sw : Bool) (o : Opd) (r : BitVec 4) (c : OrdCode) (s : State), s.issuing = true →
    s.formTrap { a := some { o := o } } (c != .plain && c != .clu && c != .dev) = none →
    Goes (.pref sw o r c) s fun t => ∃ u tlbs, Ran u u.wave sw t ∧ OnlyMemory { s with tlbs := tlbs } u ∧
      (s.harts.lines = [] → ∀ a, (∀ e ∈ s.caches.l2, keyUnit e.1 = s.wave.id.cluster → keyAddr e.1 = a → e.2.dirty = false) →
        u.homeRead a = s.homeRead a) ∧
      (c = .dev → u.caches = s.caches ∧ u.mem = s.mem ∧ u.harts = s.harts ∧ u.waves = s.waves)

/-- R105, R442, R443. -/
def Obligations.StoreEntries : Prop :=
  ∀ (i : Instr) (s : State) (o : StoreOp), storeOp s i = some o → s.issuing = true →
    storePasses s o.form (o.bad || recBad (s.brec o.r) || o.c == .ord7 || !dataReg o.d || (o.o.isVec && !o.d.isVec && decide (4 < o.regBytes)))
      (o.checks s) (s.storeTok o.form.isVec o.d o.o o.regBytes) o.c →
    hasRoom (s.releaseAt (ordScope o.c)) o.c →
    Goes i s fun t => ∃ tlbs w, Ran { (s.releaseAt (ordScope o.c)) with tlbs := tlbs } w o.sw t ∧
      let r := s.releaseAt (ordScope o.c)
      let u := r.wave
      w = { u with fifo := u.fifo ++ perHalf (o.checks s) fun up cs => .store (recScratch (s.brec o.r))
                     (o.c == .nc || chkUncached (o.checks s)) up (o.bytes r cs) (accessPages r o.o (s.brec o.r) o.n cs),
                   lo := { u.lo with fflags := u.lo.fflags ||| o.flags s r false },
                   hi := { u.hi with fflags := u.hi.fflags ||| o.flags s r true }, idem := { u.idem with idv := false } }

/-- R346, R347. That a scoped atomic is performed, with the whole FIFO before it, in its own step before it retires is the model's choice
(DESIGN CHOICE, log entry 6): R184, R201 and R347 ask only for the order. -/
def Obligations.AtomicEntries : Prop :=
  ∀ (i : Instr) (s : State) (sw ret : Bool) (d o : Opd) (r : BitVec 4) (c : OrdCode) (p : AtomOp),
    atomicOp i = some (sw, ret, d, o, r, c, p) → s.issuing = true →
    let f := atomForm d o p ret
    let checks := (s.storeChecks f.isVec o (s.brec r) 4 4 .atomic).filter fun e => f.isVec || e.1 == 0
    let u := s.releaseAt (ordScope c)
    storePasses s f (atomIllegal d o (s.brec r) c p) checks (s.atomTok f.isVec d o p) c → hasRoom u c →
    Goes i s fun t => ∃ tlbs w, w = { u.wave with
        fifo := u.wave.fifo ++ perHalf checks fun _ cs => .atom (recScratch (s.brec r)) p c (cs.map (u.atomLane f.isVec d)) u.pc
          (if ret then u.dest d else .none) (accessPages u o (s.brec r) 4 cs),
        idem := { u.wave.idem with idv := false } } ∧
      let v : State := { (u.setWave w) with tlbs := tlbs }
      let v := if ordScope c ≠ 0 ∧ ¬ u.wave.repro then v.drainFifo v.iss.cur else v
      let v := if ret then v.acquireAt (ordScope c) else v
      ∃ t0, Ran v v.wave sw t0 ∧ t = if ret then t0.endQuantum else t0

end

namespace Sys2Proof.Claims

open Sys2Proof.Machine

/-! ## The scratchpad -/

/-- The scratchpad words as the wave sees them: the workgroup's, with what the wave itself holds performed on them (R124). -/
def seenWords (s : State) : FMap LaneVal := s.spmView

/-- The token of an offset or a guard in a lane. -/
def offsetTok (s : State) (o : Opd) (l : Nat) : Option Word32 := firstTok [(s.offsetOf o l).tok, s.guardTok l]

/-- Bytes of one scratchpad word, from byte `b` on, `n` of them; a poisoned word gives its token (R180). -/
def wordPart (w : LaneVal) (b n : Nat) : LaneVal := if w.p then w else ⟨BitVec.ofNat 32 (w.bits.toNat / 2 ^ (8 * b) % 2 ^ (8 * n)), false⟩

/-- Register `k` of what LDS of `n` bytes at `a` reads (R180, R395). -/
def ldsValue (m : FMap LaneVal) (vector : Bool) (n a k : Nat) : ScalVal :=
  let word (i : Nat) : LaneVal := m.get LaneVal.zero i
  let wide (w : LaneVal) : ScalVal := ⟨w.bits.setWidth 64, w.p⟩
  if n < 4 then wide (wordPart (word (a / 4)) (a % 4) n)
  else if vector then wide (word (a / 4 + k))
  else if n = 4 then wide (word (a / 4))
  else
    let lo := word (a / 4 + 2 * k)
    let hi := word (a / 4 + 2 * k + 1)
    if lo.p then wide lo else if hi.p then wide hi else ⟨BitVec.ofNat 64 (lo.bits.toNat + 2 ^ 32 * hi.bits.toNat), false⟩

/-- The words that a scratchpad store leaves, from the words before it (R180): a whole word takes the value and its P bit; bytes are
written into a plain word and leave a poisoned one. -/
def spmAfter (m : FMap LaneVal) (e : Eff) : FMap LaneVal := spmEff m e

/-- A scratchpad word after the lanes of an ATOMS, in their order: those that name it change it, but a poisoned word stays (R180, R348). -/
def spmWordAfter (p : AtomOp) (lanes : List AtomLane) (i : Nat) (w : LaneVal) : LaneVal :=
  lanes.foldl (fun w l => if l.loc = some i ∧ w.p = false then ⟨atomValue p w.bits l.x l.y, false⟩ else w) w

/-- The lanes of an ATOMS (R345, R348): each active lane's word, x from D and y from D+1, or one for a scalar instruction. -/
def spmLanes (s : State) (vector : Bool) (d o : Opd) : List AtomLane :=
  (if vector then activeList s else [0]).map fun l => ⟨l, some ((s.offsetOf o l).bits.toNat / 4), (s.dataOf vector d 0 l).bits.setWidth 32,
    (s.dataOf vector d 1 l).bits.setWidth 32, false⟩

/-- The scratchpad instruction's checks all pass: operands, addresses, poison. -/
def spmPasses (s : State) (f : Form) (bad : Bool) (o : Opd) (n : Nat) (skip : Nat → Bool) (tok : Nat → Option Word32) : Prop :=
  s.formTrap f bad = none ∧ s.pickTrap f.isVec (s.spmFails f.isVec o n skip) = none ∧ s.lanePoison f.isVec tok = none

end Sys2Proof.Claims

section

open Sys2Proof Sys2Proof.Machine Sys2Proof.Claims

/-- R395. That the words are those of the issue is the model's choice (DESIGN CHOICE, log entry 6). -/
def Obligations.ScratchpadLoads : Prop :=
  ∀ (sw : Bool) (d o : Opd) (c : OrdCode) (z : MemSize) (s : State), s.issuing = true →
    let n := byteCount z
    let f : Form := { a := some { o := o }, dst := some (memGroup d n) }
    s.formTrap f (!(c == .plain || c == .wg) || !dataReg d) = none →
    s.pickTrap f.isVec (s.spmFails f.isVec o n fun l => (offsetTok s o l).isSome) = none →
    Goes (.lds sw d o c z) s fun t => ∃ w, Ran (s.acquireAt (ordScope c)) w sw t ∧
      w = { s.wave with pend := w.pend, fifo := w.fifo, idem := if Dest.isG (s.dest d) then { s.wave.idem with idv := false } else s.wave.idem } ∧
      let value (k l : Nat) : ScalVal := match offsetTok s o l with
        | some t => ⟨t.setWidth 64, true⟩
        | none => ldsValue (seenWords s) f.isVec n (s.offsetOf o l).bits.toNat k
      (if s.dest d = .none then w.pend = s.wave.pend
      else ∃ p, w.pend = s.wave.pend ++ [p] ∧ PromisesGroup s p (s.dest d) (regCount f.isVec n) (laneList s f.isVec) [] value) ∧
      w.fifo = s.wave.fifo ++ (List.range (regCount f.isVec n)).flatMap fun k =>
        (gEffects s true (destShift (s.dest d) k) (sharedOf s (laneList s f.isVec) (value k))).2

/-- R345 and R346, with R5's byte order, at the point where the entry leaves the FIFO (R184, R209); R345's table and R348's order on the scratchpad, with R180's poison. That ATOMS is performed at its issue is the model's choice (DESIGN
CHOICE, log entry 6). -/
def Obligations.AtomicPerformance : Prop :=
  (∀ (k : Nat) (s : State) (cs : Bool) (p : AtomOp) (ord : OrdCode) (lanes : List AtomLane) (pc : Word64) (dst : Dest) (pages : List VPage)
     (rest : List Eff), leavesNext s.tick (s.waveAt k).fifo = some (.atom cs p ord lanes pc dst pages, rest) → (s.waveAt k).repro = false →
     (lanes.map (·.lane)).Nodup → (∀ l ∈ lanes, l.lane < 64) →
     (∀ l ∈ lanes, ∀ a, l.loc = some a → a % 4 = 0 ∧ a < 2 ^ 51 ∧ (cs = false → s.ueAt a = false)) →
     (cs = false → s.caches.l1 = [] ∧ s.caches.wcb = [] ∧ s.caches.l2 = [] ∧ s.harts.lines = []) →
     let gc := (s.waveAt k).id.gcore
     let word (s : State) (a : Nat) : Word32 := wordAt (if cs then s.cscrByte (gc / 4) else s.cachedByte gc) a
     Goes (.storeFifoDrain k) s fun t => ∃ u : State, t = u.reap (s.waveAt k).id.wgKey ∧ (u.waveAt k).fifo = rest ∧
       (∀ a, a % 4 = 0 → a < 2 ^ 51 → word u a = wordAfter p lanes a (word s a)) ∧
       returnsOld (s.waveAt k) (u.waveAt k) dst lanes (oldValue p lanes (word s))) ∧
  (∀ (sw : Bool) (d o : Opd) (c : OrdCode) (p : AtomOp) (s : State), s.issuing = true →
     let f : Form := { atomForm d o p true with data := none }
     spmPasses s f (!(c == .plain || c == .wg) || !dataReg d || (p == .cas && d == .zero) || (o.isVec && d.isScalarReg)) o 4
       (fun l => (s.offsetOf o l).p) (s.atomTok f.isVec d o p) →
     (s.wave.repro = false → Goes (.atoms sw d o c p) s fun t =>
       let r := s.releaseAt (ordScope c)
       let lanes := spmLanes s f.isVec d o
       let g := r.wgAt r.wave.id.wgKey
       ∃ words pend,
         let u := (r.setWgAt r.wave.id.wgKey { g with scratch := words }).setWave
           { r.wave with pend := pend, idem := { r.wave.idem with idv := false } }
         let v := u.acquireAt (ordScope c)
         Ran v v.wave sw t ∧
         (∀ i, words.get LaneVal.zero i = spmWordAfter p lanes i (g.scratch.get LaneVal.zero i)) ∧
         (if s.dest d = .none then pend = r.wave.pend
         else ∃ q, pend = r.wave.pend ++ [q] ∧ Promises r q (s.dest d) (lanes.map (·.lane)) fun l =>
           let i := (s.offsetOf o l).bits.toNat / 4
           let w := spmWordAfter p (lanesBefore lanes l) i (g.scratch.get LaneVal.zero i)
           ⟨w.bits.setWidth 64, w.p⟩)) ∧
     (s.wave.repro = true → fifoRoom s → Goes (.atoms sw d o c p) s fun t => ∃ t0,
       Ran s { s.wave with fifo := s.wave.fifo ++ [.spmAtom p (spmLanes s f.isVec d o) (s.dest d)],
                           idem := { s.wave.idem with idv := false } } sw t0 ∧ t = t0.endQuantum))

/-- R444; R180's two rules for stores to scratchpad words. -/
def Obligations.ScratchpadStores : Prop :=
  (∀ (sw : Bool) (d o : Opd) (c : OrdCode) (z : MemSize) (s : State), s.issuing = true →
     let n := byteCount z
     let f : Form := { a := some { o := o }, data := some (memGroup d n) }
     spmPasses s f (!(c == .plain || c == .wg) || !dataReg d || (o.isVec && !d.isVec && decide (4 < n))) o n
       (fun l => (s.offsetOf o l).p) (offsetTok s o) →
     let e : Eff := .spmStore ((laneList s f.isVec).flatMap fun l => s.stsWords f.isVec d (s.offsetOf o l).bits.toNat n l)
     (s.wave.repro = false →
       let u := s.releaseAt (ordScope c)
       let g := u.wgAt u.wave.id.wgKey
       Goes (.sts sw d o c z) s fun t =>
         let v := u.setWgAt u.wave.id.wgKey { g with scratch := spmAfter g.scratch e }
         Ran v v.wave sw t) ∧
     (s.wave.repro = true → fifoRoom s →
       Goes (.sts sw d o c z) s (Ran s { s.wave with fifo := s.wave.fifo ++ [e] } sw))) ∧
  ((∀ (m : FMap LaneVal) (i j : Nat) (v : LaneVal),
     (spmAfter m (.spmStore [(i, .whole v)])).get LaneVal.zero j = if j = i then v else m.get LaneVal.zero j) ∧
   (∀ (m : FMap LaneVal) (i j : Nat) (bs : List (Nat × Byte)), (m.get LaneVal.zero i).p = true →
     (spmAfter m (.spmStore [(i, .bytes bs)])).get LaneVal.zero j = m.get LaneVal.zero j))

/-- R422, R423, R424. That RLD takes its bytes at the issue is the model's choice (DESIGN CHOICE, log entry 6). -/
def Obligations.RecordInstructions : Prop :=
  (∀ (sw : Bool) (b : BitVec 4) (a : Opd) (s : State), s.issuing = true → s.sysTrap (!a.sgz) [a] = none →
    let va := (s.sval a).toNat
    let c := s.blockChk va 32 .loadMem
    let pas := c.pas
    va % 32 = 0 → s.chkTrap c = none → s.ueTrap pas = none →
    Goes (.rld sw b a) s fun t =>
      let u := (s.lookupTouch s.wg.ext s.wave.id.cluster s.asid va).settleAtomics false pas
      let v := u.loadsTouch false false c.uncached pas
      Ran v { v.wave with pend := v.wave.pend ++ [{ Pend.plain [.brec b.toNat (BitVec.ofNat 256 (u.readNum c))] 1#64 with
        remote := remoteOf pas, pc := s.pc, pages := if (remoteOf pas).isEmpty then [] else pagesOf 32 [va] }] } sw t) ∧
  (∀ (sw : Bool) (r : BitVec 4) (q : BitVec 2) (b : Opd) (s : State), s.issuing = true → s.sysTrap (!b.sgz) [b] = none →
    Goes (.rset sw r q b) s fun t => ∃ regs, Ran s { s.wave with regs := regs } sw t ∧
      regs = { s.wave.regs with b := regs.b } ∧ (∀ i : BitVec 4, i ≠ r → regs.b[i.toNat]? = s.wave.regs.b[i.toNat]?) ∧
      ∀ j : Fin 256, (regs.b[r.toNat]?.getD 0#256)[j] =
        if j.val / 64 = q.toNat then (s.sval b).getLsbD (j.val % 64) else (s.brec r)[j]) ∧
  (∀ (sw : Bool) (d : Opd) (r : BitVec 4) (q : BitVec 2) (s : State), s.issuing = true → s.sysTrap (!d.sgz) [] = none →
    Goes (.rget sw d r q) s (Computes s sw false (s.dest d) [0] fun _ =>
      .val (BitVec.ofFnLE fun j : Fin 64 => (s.brec r).getLsbD (64 * q.toNat + j.val)) 0#6)) ∧
  (∀ (sw : Bool) (z : MemSize) (p : BitVec 3) (a : Opd) (r : BitVec 4) (s : State), s.issuing = true →
    s.formTrap { a := some { o := a }, xw := .no } false = none →
    Goes (.rchk sw z p a r) s (Compares s sw p.toNat ((List.range 64).filter s.mask.getLsbD) (fun l =>
      let x := s.offsetOf a l
      let va := recAddr (s.brec r) x.bits.toNat
      if x.p then none else some (decide (va % byteCount z = 0) && s.inBounds (s.brec r) va (byteCount z) &&
        (!recScratch (s.brec r) || decide ((s.csctlAt s.wave.id.cluster).curOwner = s.asid)))) 0#6 0#6))

end

namespace Sys2Proof.Claims

open Sys2Proof.Machine

/-! ## Matrix commands and accumulators -/

/-- Bytes of one row of an operand, and of its row of scales (R60, R63 to R65), by the contract's code. -/
def matRowBytes (con : Nat) (b : Bool) : Nat × Nat :=
  match Contract.ofCode con with
  | some c => (if b then c.rowB else c.rowA, c.rowScale)
  | none => (0, 0)

/-- R60: an operand map is valid and its 32 rows, and those of its scales, lie within the scratchpad allocation. -/
def MapFits (m : BitVec 128) (row srow limit : Nat) : Prop :=
  let base := m.toNat % 2 ^ 19
  let stride := m.toNat / 2 ^ 32 % 2 ^ 16
  let sbase := m.toNat / 2 ^ 64 % 2 ^ 19
  let sstride := m.toNat / 2 ^ 96 % 2 ^ 16
  m.toNat / 2 ^ 127 = 1 ∧ base % 16 = 0 ∧ stride % 16 = 0 ∧ row ≤ stride ∧ base + 31 * stride + row ≤ limit ∧
    (srow ≠ 0 → sbase % 4 = 0 ∧ sstride % 4 = 0 ∧ srow ≤ sstride ∧ sbase + 31 * sstride + srow ≤ limit)

/-- The commands of the wave's workgroup that a command id names: 0x3F names all. -/
def named (s : State) (cid : BitVec 6) : List (BitVec 6) := ((s.wg.mma.map (·.cid)).filter fun c => cid == 0x3F#6 || c == cid)

/-- Element (i, j) of an accumulator tile. -/
def elem (t : Tile) (i j : Nat) : LaneVal := t.elems.get LaneVal.zero (32 * i + j)

/-- What a tile of the wave's workgroup holds from now on, as its commands in flight retire (R75): only what it holds now, where none names it. -/
def tilesSeen (s : State) (t : Nat) : List Tile := s.tileValues s.wave.id.wgKey t

/-- No command in flight names the tile. -/
def tileIdle (s : State) (t : Nat) : Prop := ∀ c ∈ s.wg.mma, c.tile ≠ t

/-- `e` is element (i, j) of tile `t` as ARD and AST return it: under C.TER multiplied by its row's and column's scale unless raw; a
poisoned one as it is. Element and scales are each one of the values that the tile takes (R75, R407). -/
def Returned (s : State) (raw : Bool) (t i j : Nat) (e : LaneVal) : Prop :=
  ∃ x ∈ tilesSeen s t, ∃ y ∈ tilesSeen s t, ∃ z ∈ tilesSeen s t,
    e = { x with rs := y.rs, cs := z.cs }.readElem (s.wg.kern.con == 4#3 && !raw) i j

/-- The state after a read of the tile that had a choice: its free values are used up. -/
def afterRead (s : State) (t : Nat) : State := s.picked (tilesSeen s t)

end Sys2Proof.Claims

section

open Sys2Proof Sys2Proof.Machine Sys2Proof.Claims

/-- R60, R69 to R71, R401, R406, R407. The model's choices: a waiting MWAIT, and an MQRY in reproducible mode, go on once the commands have
retired that were in flight when it first issued, whatever was issued since (log entry 62), and what a command has seen of the scratchpad at
its issue is recorded (log entry 34). -/
def Obligations.MatrixCommands : Prop :=
  (∀ (sw : Bool) (cid p1 p2 : BitVec 6) (ma mb : BitVec 3) (acc : BitVec 5) (z na : Bool) (s : State), s.issuing = true →
    s.iss.pfx = none → 1 ≤ s.wg.kern.con.toNat → s.wg.kern.con.toNat ≤ 5 →
    cid ≠ 0x3F#6 → p1 ≠ cid → p2 ≠ cid → acc.toNat < s.wg.kern.acct →
    MapFits (s.wave.regs.m[ma.toNat]?.getD 0#128) (matRowBytes s.wg.kern.con.toNat false).1 (matRowBytes s.wg.kern.con.toNat false).2 s.spmLimit →
    MapFits (s.wave.regs.m[mb.toNat]?.getD 0#128) (matRowBytes s.wg.kern.con.toNat true).1 (matRowBytes s.wg.kern.con.toNat true).2 s.spmLimit →
    named s cid = [] → s.mmaQueued s.wg.die s.wg.core < 16 →
    Goes (.mma sw cid p1 p2 ma mb acc z na) s fun t => ∃ c : MmaCmd,
      c.cid = cid ∧ c.tile = acc.toNat ∧ c.z = z ∧ c.na = na ∧ c.started = false ∧ c.wave = s.iss.cur ∧ c.clk = s.wave.qclk.toNat ∧
      c.preds = [p1, p2].filter (fun p => decide (p ≠ 0x3F#6 ∧ named s p ≠ [])) ∧
      c.seen = s.spmView ∧
      c.mapA = s.wave.regs.m[ma.toNat]?.getD 0#128 ∧ c.mapB = s.wave.regs.m[mb.toNat]?.getD 0#128 ∧
      Went (s.setWg { s.wg with mma := s.wg.mma ++ [c] }) s.wave [] sw 2 t) ∧
  (∀ (sw : Bool) (c : BitVec 6) (s : State), s.issuing = true → s.iss.pfx = none →
    (s.wave.mwait = none ∧ named s c = [] ∨ s.wave.mwait = some []) →
    Goes (.mwait sw c) s (Went s { s.wave with mwait := none } [] sw 1)) ∧
  (∀ (sw : Bool) (c : BitVec 6) (d : Opd) (t : BitVec 5) (s : State), s.issuing = true → s.formTrap { xw := .no } (!d.sz) = none →
    t.toNat < s.wg.kern.acct → (s.wave.id.repro = true → s.wave.mwait = none ∧ named s c = [] ∨ s.wave.mwait = some []) →
    (tileIdle s t.toNat → tilesSeen s t.toNat = [s.wg.tile t.toNat]) ∧
    Goes (.mqry sw c d t) s fun u => ∃ x ∈ tilesSeen s t.toNat, Computes (afterRead s t.toNat) sw false (s.dest d) [0] (fun _ =>
      .val (BitVec.ofNat 64 ((if named s c = [] ∨ s.wave.id.repro = true then 0 else 1) + if x.sat then 2 else 0)) 0#6) u) ∧
  (∀ (sw : Bool) (m : BitVec 3) (i : Fin 48) (s : State) (x y : ScalVal), s.issuing = true → s.iss.pfx = none → i.val % 2 = 0 →
    s.wave.regs.s[i.val]?.getD ScalVal.zero = x → s.wave.regs.s[i.val + 1]?.getD ScalVal.zero = y → x.p = false → y.p = false →
    y.bits.toNat / 2 ^ 63 * 2 ^ 127 + y.bits.toNat / 2 ^ 32 % 2 ^ 16 * 2 ^ 96 + y.bits.toNat % 2 ^ 19 * 2 ^ 64 +
      x.bits.toNat / 2 ^ 32 % 2 ^ 16 * 2 ^ 32 + x.bits.toNat % 2 ^ 19 = y.bits.toNat * 2 ^ 64 + x.bits.toNat →
    Goes (.maps sw m (.s i)) s fun t => ∃ regs, Went s { s.wave with regs := regs } [] sw 1 t ∧
      regs = { s.wave.regs with m := regs.m } ∧
      ∀ j : Nat, j < 8 → regs.m[j]? = if j = m.toNat then some (BitVec.ofNat 128 (y.bits.toNat * 2 ^ 64 + x.bits.toNat)) else s.wave.regs.m[j]?)

/-- R336, R341, R342, R350, with R75 and R77. -/
def Obligations.AccumulatorInstructions : Prop :=
  (∀ (sw : Bool) (t : BitVec 5) (s : State), s.issuing = true → s.iss.pfx = none → t.toNat < s.wg.kern.acct →
    tileIdle s t.toNat → s.wave.repro = false →
    Goes (.aclr sw t) s fun u => ∃ g, Went (s.setWg g) s.wave [] sw 1 u ∧ g = { s.wg with tiles := g.tiles } ∧
      (∀ k, k ≠ t.toNat → g.tile k = s.wg.tile k) ∧ (g.tile t.toNat).sat = false ∧ (∀ i j, elem (g.tile t.toNat) i j = LaneVal.zero) ∧
      ∀ i : Fin 32, (g.tile t.toNat).rs[i] = 0x3F80#16 ∧ (g.tile t.toNat).cs[i] = 0x3F80#16) ∧
  (∀ (sw : Bool) (t : BitVec 5) (a : Opd) (r : BitVec 5) (s : State), s.issuing = true →
    s.formTrap { a := some { o := a } } (!a.isVec) = none → t.toNat < s.wg.kern.acct → tileIdle s t.toNat →
    s.wave.repro = false →
    Goes (.awr sw t a r) s fun u => ∃ g, Went (s.setWg g) s.wave [] sw 1 u ∧ g = { s.wg with tiles := g.tiles } ∧
      (∀ k, k ≠ t.toNat → g.tile k = s.wg.tile k) ∧
      g.tile t.toNat = { s.wg.tile t.toNat with elems := (g.tile t.toNat).elems } ∧
      ∀ i j, i < 32 → j < 32 → elem (g.tile t.toNat) i j =
        if i = r.toNat ∧ s.active.getLsbD j then
          match firstTok [(s.srcA true a j).tok, s.guardTok j] with
          | some k => ⟨k, true⟩
          | none => ⟨(s.srcA true a j).bits.setWidth 32, false⟩
        else elem (s.wg.tile t.toNat) i j) ∧
  (∀ (sw : Bool) (d : Opd) (t : BitVec 5) (x : Bool) (r : BitVec 5) (s : State), s.issuing = true →
    s.formTrap { dst := some { o := d } } (!isVecReg d) = none → t.toNat < s.wg.kern.acct →
    (tileIdle s t.toNat → tilesSeen s t.toNat = [s.wg.tile t.toNat]) ∧
    Goes (.ard sw d t x r) s fun u => ∃ e : Nat → LaneVal, (∀ j, Returned s x t.toNat r.toNat j (e j)) ∧
      Computes (afterRead s t.toNat) sw true (s.dest d) (laneList s true) (fun l =>
        match firstTok [(e (l % 32)).tok, s.guardTok l] with
        | some k => .tok k
        | none => .val ((e (l % 32)).bits.setWidth 64) 0#6) u) ∧
  (∀ (sw x : Bool) (t : BitVec 5) (o : Opd) (b : BitVec 4) (s : State), s.issuing = true →
    s.formTrap { xw := .no } (!o.sgz || recBad (s.brec b)) = none → (s.readScal (s.ref o)).p = false →
    let off := (s.sval o).toNat
    let chk (i j : Nat) := s.checkLane (s.brec b) (recAddr (s.brec b) (off + (32 * i + j))) 4 4 .storeMem
    (∀ i j, i < 32 → j < 32 → passed (chk i j) = true ∧ ∀ y ∈ tilesSeen s t.toNat, (elem y i j).p = false) → t.toNat < s.wg.kern.acct →
    fifoRooms s 32 →
    Goes (.ast sw x t o b) s fun u => ∃ tlbs rows, ∃ e : Nat → Nat → LaneVal, (∀ i j, i < 32 → j < 32 → Returned s x t.toNat i j (e i j)) ∧
      Ran { (afterRead s t.toNat) with tlbs := tlbs }
        { s.wave with fifo := s.wave.fifo ++ rows, idem := { s.wave.idem with idv := false } } sw u ∧
      rows.length = 32 ∧ ∀ i, i < 32 → ∃ nc pages, rows[i]? = some (Eff.store (recScratch (s.brec b)) nc false
        ((List.range 32).flatMap fun j => (chk i j).pas.zip (leBytes 4 (e i j).bits.toNat)) pages))

end

namespace Sys2Proof.Claims

open Sys2Proof.Machine

/-! ## Engines, semaphores, barriers, locks and value waits -/

/-- A submission: marker, address operand, the check of its block's translation, the field that is refused, the scope of its release,
and the command. -/
structure Submission where
  sw : Bool
  a : Opd
  chk : LaneChk
  bad : Option Nat
  scope : Nat
  cmd : EngCmd

/-- TCOPY (R446), ECMD (R373), LAUNCH (R392). -/
def submission (s : State) : Instr → Option Submission
  | .tcopy sw a =>
    let c := s.engChk (s.sval a).toNat
    let b := s.chkBytes c
    some ⟨sw, a, c, copyCheck b s.spmLimit, (copyDesc b).scope, .tcopy b⟩
  | .ecmd sw a =>
    let c := s.engChk (s.sval a).toNat
    let b := s.chkBytes c
    some ⟨sw, a, c, (ecmdOf b).1, 4, (ecmdOf b).2⟩
  | .launch sw a =>
    let c := s.xlatRange (s.sval a).toNat 64 .load
    let b := s.chkBytes c
    some ⟨sw, a, c, s.packetCheck b s.asid, 4, .launch b⟩
  | _ => none

/-- `u` is `v` after the command reached its engine or queue from the issuing wave. -/
def Accepted (v : State) (cmd : EngCmd) (u : State) : Prop :=
  match cmd with
  | .tcopy b => ∃ c : Copy, c.block = b ∧ c.asid = v.asid ∧ c.wg = v.wave.id.wgKey ∧ c.cluster = v.wave.id.cluster ∧ c.started = false ∧
      c.finished = false ∧ c.done = 0 ∧ c.status = 0#8 ∧ c.flags = 0#6 ∧ c.commit = none ∧
      u = { v with eng := { v.eng with copies := v.eng.copies.put v.eng.nextCopy c, nextCopy := v.eng.nextCopy + 1 } }
  | .collective b => ∃ c : Collective, c.block = b ∧ c.asid = v.asid ∧ c.submitted = v.now ∧ c.status = none ∧ c.flags = 0#6 ∧ c.commit = none ∧
      c.launch = v.wave.id.launchKey ∧ u = { v with eng := { v.eng with colls := v.eng.colls.put v.eng.nextColl c, nextColl := v.eng.nextColl + 1 } }
  | .power b => u = { v with eng := { v.eng with leaseReqs := v.eng.leaseReqs ++ [⟨v.asid, b, none⟩] } }
  | .table b =>
      u = { v with ctxs := u.ctxs, caches := { v.caches with ic := u.caches.ic }, mem := u.mem, harts := u.harts } ∧
      (v.harts.lines = [] → SameBytes v u) ∧
      (∀ a, a ≠ v.asid → u.ctxAt a = v.ctxAt a) ∧ u.ctx = { v.ctx with kit := u.ctx.kit } ∧
      ∀ k, u.ctx.kit.find k = if k = fieldOf b 8 4 then (if fieldOf b 4 4 = 0 then some (fieldOf b 16 8) else none) else v.ctx.kit.find k
  | .launch b =>
      let queued := v.hub.queues.get [] (pktQueue b) ++ [(v.asid, b)]
      u = { v with hub := { v.hub with queues := v.hub.queues.put (pktQueue b) queued } }

/-- The wave with its idempotent right cleared (R266). -/
def noRight (w : Wave) : Wave := { w with idem := { w.idem with idv := false } }

/-- The 8-byte word that an address operand names, where its checks pass. -/
def wordPa (s : State) (a : Opd) : Nat := (s.xlatRange (s.sval a).toNat 8 .atomic).head

/-- The state in which a lock instruction that starts from `v` looks at its word: brought home, and read there (R198). -/
def lockAt (s v : State) (a : Opd) : State := (v.bringHome (s.sval a).toNat (wordPa s a)).homeTouch (wordPa s a)

/-- The state in which WAITV looks at its declared word, translated anew (R289). -/
def waitvAt (s : State) (x : WaitDecl) : State :=
  (s.lookupTouch s.wg.ext s.wave.id.cluster s.asid x.va.toNat).homeTouch s.declChk.head

/-- The issuing wave as it waits, registered. -/
def asWaiting (s : State) (w : Wait) : State :=
  { (s.modWaveAt s.iss.cur fun v => { (v.become .waitReg) with wait := some { w with registered := true } }) with
    iss := { s.iss with out := .waits } }

/-- A deadlock record of an inline walk (R240): form, edges, pairs, flags, zeros, the time, zeros, then for each wave of the cycle its
handle with the wait's KIND and the key of the object it waits on, and zeros to the end. -/
def cycleRecord (s : State) (path : List (Nat × ObjRef)) (flags : Nat) : List Byte :=
  let pairs := (path.take 16).flatMap fun e =>
    leBytes 8 ((s.waveAt e.1).id.handle.toNat + e.2.kind.code * 2 ^ 56) ++ leBytes 8 e.2.key.toNat
  [0xD1#8, BitVec.ofNat 8 path.length, BitVec.ofNat 8 (min path.length 16), BitVec.ofNat 8 (flags + if 16 < path.length then 2 else 0)] ++
    List.replicate 4 0#8 ++ leBytes 8 s.time ++ List.replicate 48 0#8 ++ pairs ++ List.replicate (448 - pairs.length) 0#8

/-- `v` is `s` after a deadlock record of 512 bytes took the next slot of its context's area, at `va` (R240): the slots go on in turn; the
bytes stand at their home and DLREC names them where the whole slot can be written, and nothing else changes where it cannot. -/
def RecordWritten (s : State) (asid va : Nat) (bytes : List Byte) (v : State) : Prop :=
  let c := s.ctxAt asid
  let u := s.setCtxAt asid { c with nextRec := (c.nextRec + 1) % max 1 c.recSlots }
  va = c.recBase + 512 * c.nextRec ∧
    (∀ pas, u.hubAddrs asid va 512 .store (· == 0#2) = some pas →
      v = (u.homeWrite (pas.zip bytes)).modCtxAt asid fun c => { c with dlrec := BitVec.ofNat 64 va }) ∧
    (u.hubAddrs asid va 512 .store (· == 0#2) = none → v = u)

/-- The state with a wave's arrival at a barrier withdrawn, where the waiting instruction had made one (R236). -/
def withdrawn (k : Nat) (arrival : Option (Bool × Nat)) (s : State) : State :=
  match arrival with
  | some (cluster, b) =>
    let i := (s.waveAt k).id
    s.modWgAt i.wgKey fun g =>
      if cluster then { g with cbars := g.cbars.set! b (g.cbars[b]! &&& ~~~i.bits) } else { g with bars := g.bars.set! b (g.bars[b]! &&& ~~~i.bits) }
  | none => s

/-- Does a wait entry stand for a wave that waits, outside reproducible mode, for the lock word at `pa`? -/
def waitsForLock (s : State) (pa : Nat) (e : WaitEnt) : Prop :=
  e.kind = .lock ∧ (s.waveAt e.waiter).repro = false ∧ ∃ w, (s.waveAt e.waiter).wait = some w ∧ w.pa = pa ∧ w.met = false

/-- R228: one waiter comes before another at an UNLOCK by the greater PRIO.EFF, then the earlier registration. -/
def lockBefore (s : State) (a b : WaitEnt) : Prop :=
  let eff (x : WaitEnt) := (s.waveAt x.waiter).env.eff.toNat
  eff b < eff a ∨ (eff a = eff b ∧ a.stamp < b.stamp)

/-- `t` is `v` after the issuing wave made its request for `w` in reproducible mode: the wait notes QCLK, the quantum has ended, and QCLK is
at its next multiple (R121, R122, R125). -/
def Requests (v : State) (w : Wait) (t : State) : Prop :=
  ∃ q : Word64, q.toNat = (v.wave.qclk.toNat / 2 ^ v.ctx.qlog + 1) * 2 ^ v.ctx.qlog % 2 ^ 64 ∧
    t = { (v.setWave { v.wave with wait := some { w with registered := false, clk := v.wave.qclk.toNat }, ended := true, qclk := q }) with
          iss := { v.iss with out := .waits } }

/-- A wave's lock word: bit 63 and its handle (R228). -/
def lockWord (s : State) : Nat := 2 ^ 63 + s.wave.id.handle.toNat

/-- BAR, BARC and DRAIN: marker, destination, barrier, whether it is a cluster barrier, the scopes of its release and acquire. -/
def barrierOp : Instr → Option (Bool × Opd × Nat × Bool × Nat × Nat)
  | .bar sw d n => some (sw, d, n.toNat, false, 1, 1)
  | .barc sw d n => some (sw, d, n.toNat, true, 2, 2)
  | .drain sw d n => some (sw, d, n.toNat, false, 4, 1)
  | _ => none

/-- The barrier's ILLOP conditions: D, a diverged wave or one in handler mode, and for BARC a barrier above 7 or no cluster launch. -/
def barrierBad (s : State) (d : Opd) (n : Nat) (cluster : Bool) : Bool :=
  !d.sz || (s.wave.pcs.slot (!s.iss.slot)).isSome || s.wave.pcs.depth != 0 || s.wave.env.hm ||
    (cluster && (decide (7 < n) || !s.wave.id.clustered))

/-- The state after a barrier's release and the wave's arrival, which may have completed it. -/
def arrivedAt (s : State) (n : Nat) (cluster : Bool) (rel : Nat) : State :=
  let r := s.release s.iss.cur rel
  (r.setWave (noRight r.wave)).arrive s.iss.cur cluster n

/-- Is any of the wave's arrival bits at a barrier still set? -/
def stillThere (s : State) (cluster : Bool) (n : Nat) : Bool :=
  let g := s.wgAt s.wave.id.wgKey
  (List.range 32).any fun i => (if cluster then g.cbars[n]! else g.bars[n]!).getLsbD i && s.wave.id.bits.getLsbD i

end Sys2Proof.Claims

section

open Sys2Proof Sys2Proof.Machine Sys2Proof.Claims

/-- R373, R392, R446. -/
def Obligations.EngineSubmissions : Prop :=
  ∀ (i : Instr) (s : State) (o : Submission), submission s i = some o → s.issuing = true → s.submitTrap o.a o.chk o.scope o.bad = none →
    let r := s.blockTouch (s.sval o.a).toNat o.chk
    (r.wave.repro = false → r.engineRoom r.wave.id.cluster o.cmd = true →
      (o.scope = 5 → (r.release s.iss.cur 5).unacked s.iss.cur = 0) →
      Goes i s fun t => ∃ u, Accepted (r.release s.iss.cur o.scope) o.cmd u ∧ Ran u (noRight (r.release s.iss.cur o.scope).wave) o.sw t) ∧
    (r.wave.repro = true →
      Goes i s fun t => ∃ t0, Ran r { (noRight r.wave) with fifo := r.wave.fifo ++ [.engine o.cmd] } o.sw t0 ∧ t = t0.endQuantum)

/-- R438. -/
def Obligations.Semaphores : Prop :=
  (∀ (sw : Bool) (d a b : Opd) (s : State), s.issuing = true → s.semTrap (!d.sgz || !a.sg || !b.sgz) [a, b] (s.selOf a) = none →
    let dev := (s.sval a).getLsbD 10
    s.wave.repro = false → (s.sval b).toNat % 2 ^ 32 ≤ (s.semCount dev s.wave.id.cluster ((s.sval a).toNat % 1024)).toNat →
    Goes (.semwait sw d a b) s (Computes (s.acquire s.iss.cur (if dev then 4 else 2)) sw false (s.dest d) [0] fun _ => .val 0#64 0#6)) ∧
  (∀ (sw : Bool) (d a b : Opd) (s : State), s.issuing = true → s.semTrap (!d.sgz || !a.sg || !b.sgz) [a, b] (s.selOf a) = none →
    let dev := (s.sval a).getLsbD 10
    let idx := (s.sval a).toNat % 1024
    let asked (w : Wait) : Prop := w.kind = (if dev then .semDev else .semClu) ∧ w.pa = (if dev then idx else 256 * s.wave.id.cluster + idx) ∧
      w.expect.toNat = (s.sval b).toNat % 2 ^ 32 ∧ w.dst = s.dest d ∧ w.met = false ∧ w.sw = sw
    (s.wave.repro = false → (s.semCount dev s.wave.id.cluster idx).toNat < (s.sval b).toNat % 2 ^ 32 →
      Goes (.semwait sw d a b) s fun t => ∃ w, asked w ∧ t = s.beginWait w id) ∧
    (s.wave.repro = true → Goes (.semwait sw d a b) s fun t => ∃ w, asked w ∧ Requests s w t)) ∧
  (∀ (sw : Bool) (a b : Opd) (s : State), s.issuing = true → s.semTrap (!a.sg || !b.sg) [a, b] (s.selOf a) = none →
    let dev := (s.sval a).getLsbD 10
    let idx := (s.sval a).toNat % 1024
    (s.wave.repro = false → Goes (.semsig sw a b) s fun t =>
      let v := (s.setWave (noRight s.wave)).release s.iss.cur (if dev then 4 else 2)
      let u := v.semAdd dev s.wave.id.cluster idx ((s.sval b).setWidth 32)
      Ran u u.wave sw t ∧ (t.semCount dev s.wave.id.cluster idx).toNat =
        ((s.semCount dev s.wave.id.cluster idx).toNat + (s.sval b).toNat) % 2 ^ 32) ∧
    (s.wave.repro = true → Goes (.semsig sw a b) s
      (Ran s { (noRight s.wave) with fifo := s.wave.fifo ++ [.semsig dev idx ((s.sval b).setWidth 32)] } sw))) ∧
  (∀ (sw : Bool) (d a : Opd) (s : State), s.issuing = true → s.semTrap (!d.sgz || !a.sg) [a] (s.selOf a) = none →
    let dev := (s.sval a).getLsbD 10
    let idx := (s.sval a).toNat % 1024
    let committed := (s.launchAt s.wave.id.launchKey).seen
    let atCommit : Word32 := if dev then committed.1.get 0#32 idx else committed.2.get 0#32 (256 * s.wave.id.cluster + idx)
    let own := (s.wave.fifo.filterMap fun e => match e with
      | .semsig d i x => if d = dev ∧ i = idx then some x.toNat else none
      | _ => none).sum
    Goes (.semrd sw d a) s (Computes s sw true (s.dest d) [0] fun _ =>
      .val (BitVec.ofNat 64 (if s.wave.repro then (atCommit.toNat + own) % 2 ^ 32 else (s.semCount dev s.wave.id.cluster idx).toNat)) 0#6))

/-- R202 with R185. That every outstanding result is written first, also those that R202 does not make the fence wait for (a division, a
function, an LDS under an acquire), is the model's choice (log entry 28, DESIGN CHOICE). -/
def Obligations.Fences : Prop :=
  ∀ (sw : Bool) (k : FenceKind) (scope : BitVec 3) (s : State), s.issuing = true → s.iss.pfx = none → 1 ≤ scope.toNat → scope.toNat ≤ 5 →
    (k ≠ .acq → scope.toNat = 5 → s.wave.remoteFail = none) → (∀ p ∈ s.wave.pend, p.remote = []) →
    (k ≠ .acq → scope.toNat = 5 → s.wave.repro = false → (s.settle.release s.iss.cur 5).unacked s.iss.cur = 0) →
    Goes (.fence sw k scope) s fun t =>
      let r := if k = .acq then s.settle else s.settle.release s.iss.cur scope.toNat
      let u := if k = .rel then r else r.acquire s.iss.cur scope.toNat
      Ran u u.wave sw t ∧ t.wave.pend = [] ∧
      (s.wave.repro = false → k ≠ .acq → t.wave.fifo = []) ∧
      (s.wave.repro = false → k ≠ .rel → ∀ e ∈ t.caches.l1, keyUnit e.1 ≠ s.wave.id.gcore)

/-- R353, R354, R370 with R223 and R224. -/
def Obligations.Barriers : Prop :=
  ∀ (i : Instr) (s : State) (sw : Bool) (d : Opd) (n : Nat) (cl : Bool) (rel acq : Nat),
    barrierOp i = some (sw, d, n, cl, rel, acq) → s.issuing = true → s.formTrap { xw := .no } (barrierBad s d n cl) = none →
    (rel = 4 → s.wave.repro = false → (s.release s.iss.cur 4).unacked s.iss.cur = 0) →
    (s.wave.repro = false → stillThere (arrivedAt s n cl rel) cl n = false →
      Goes i s fun t => ∃ t0, Computes ((arrivedAt s n cl rel).acquire s.iss.cur acq) sw false (s.dest d) [0] (fun _ => .val 0#64 0#6) t0 ∧
        t = t0.shedIfCut s.iss.cur) ∧
    (s.wave.repro = false → stillThere (arrivedAt s n cl rel) cl n = true →
      Goes i s fun t => ∃ w : Wait, w.dst = s.dest d ∧ w.key = s.barKey cl n ∧ w.met = false ∧ w.sw = sw ∧
        t = ((arrivedAt s n cl rel).beginWait w fun u => u.setArrival s.iss.cur cl n false).shedIfCut s.iss.cur) ∧
    (s.wave.repro = true →
      Goes i s fun t => ∃ (w : Wait) (u : State), w.dst = s.dest d ∧ w.key = s.barKey cl n ∧ w.met = false ∧ w.sw = sw ∧
        Requests (s.setWave { (noRight s.wave) with fifo := s.wave.fifo ++ [.arrive w.kind n] }) w u ∧ t = u.shedIfCut s.iss.cur)

/-- R230, R231, R233, R236, R239, R240. That the lowest free entries are taken, and that stamps count from 1 without a gap, is the model's choice
(log entry 61, DESIGN CHOICE); R223. -/
def Obligations.WaitsAndCompletion : Prop :=
  (∀ (s : State) (w : Wait) (arrival : Option (Bool × Nat)),
     let k := s.iss.cur
     let o := w.obj s.asid
     let t := s.beginWait w (withdrawn k arrival)
     (s.entryFor o = none → t.iss.out = .waits ∧ (t.waveAt k).wait = some { w with registered := false } ∧
       (t.ctxAt s.asid).ovf = s.ctx.ovf + 1 ∧ t.belay = s.belay) ∧
     (∀ i j, s.entryFor o = some (i, j) → (asWaiting s w).inlineWalk k o = none →
       t.iss.out = .waits ∧ (t.waveAt k).wait = some { w with registered := true } ∧
       i < 8192 ∧ s.belay.waits.find i = none ∧ (∀ i', i' < i → (s.belay.waits.find i').isSome) ∧
       t.belay.waits.find i = some ⟨w.kind, s.asid, j, k, s.ctx.stamp + 1⟩ ∧ (t.belay.objs.find j).isSome ∧
       ((∃ x, (j, x) ∈ s.belay.objs ∧ x.kind.objKind = w.kind.objKind ∧ x.asid = s.asid ∧ x.key = w.key) ∨
         (j < 2048 ∧ s.belay.objs.find j = none ∧ ∀ j', j' < j → (s.belay.objs.find j').isSome)) ∧
       ∀ i', i' ≠ i → t.belay.waits.find i' = s.belay.waits.find i') ∧
     (∀ e path, s.entryFor o = some e → (asWaiting s w).inlineWalk k o = some path →
       ∃ va v, RecordWritten (withdrawn k arrival s) s.asid va (cycleRecord (withdrawn k arrival s) path 0) v ∧
         t = v.takeTrap ⟨.deadlock, BitVec.ofNat 64 va, BitVec.ofNat 64 va, s.mask⟩ ∧ t.iss.out = .trapped ∧
         (∀ x, s.wave.pcs.slot s.iss.slot = some x → s.wave.pend = [] → s.wave.fifo.any Eff.returns = false → s.wave.id.repro = false →
           s.wave.wait = none →
           (t.waveAt k).env.cause = 0x0A#64 ∧ (t.waveAt k).env.epc = x.pc ∧ (t.waveAt k).lo.faddr = BitVec.ofNat 64 va ∧
           (t.waveAt k).wait = none ∧ ∀ e ∈ t.belay.waits, e ∈ s.belay.waits))) ∧
  (∀ (s : State) (wg : Nat),
     (∀ b, b < 16 → ((s.completeBars wg).wgAt wg).bars[b]! =
       if (s.wgAt wg).bars[b]! ≠ 0#32 ∧ ∀ i, i < 32 → (s.liveMask wg).getLsbD i → (s.wgAt wg).bars[b]!.getLsbD i then 0#32
       else (s.wgAt wg).bars[b]!) ∧
     ∀ g, g ≠ wg → (s.completeBars wg).wgs.find g = s.wgs.find g)

/-- R398, R450 with R122, R124, R125 and R228. -/
def Obligations.Locks : Prop :=
  (∀ (sw : Bool) (d a : Opd) (s : State), s.issuing = true → s.lockTrap d a = none → s.wave.repro = false →
    let h := lockAt s s a
    let taken := h.homeWrite64 (wordPa s a) (lockWord s)
    let u := lockAt s (s.setWave (noRight s.wave)) a
    (h.home64 (wordPa s a) = 0 → Goes (.lock sw d a) s
      (Computes ((taken.setWave (noRight taken.wave)).acquire s.iss.cur 4) sw false (s.dest d) [0] fun _ => .val 0#64 0#6)) ∧
    (u.home64 (wordPa s a) = 0 → Goes (.trylk sw d a) s
      (Computes ((u.homeWrite64 (wordPa s a) (lockWord s)).acquire s.iss.cur 4) sw true (s.dest d) [0] fun _ => .val 0#64 0#6)) ∧
    (u.home64 (wordPa s a) ≠ 0 → Goes (.trylk sw d a) s (Computes u sw true (s.dest d) [0] fun _ => .val 3#64 0#6)) ∧
    (u.lockView (wordPa s a) ≠ lockWord s → Goes (.unlock sw d a) s (Computes u sw false (s.dest d) [0] fun _ => .val 3#64 0#6)) ∧
    (u.lockView (wordPa s a) = lockWord s →
      let g := (u.release s.iss.cur 4).homeTouch (wordPa s a)
      g.home64 (wordPa s a) = lockWord s →
      ((∀ e ∈ g.belay.waits, ¬ waitsForLock g (wordPa s a) e.2) → Goes (.unlock sw d a) s
        (Computes (g.homeWrite64 (wordPa s a) 0) sw false (s.dest d) [0] fun _ => .val 0#64 0#6)) ∧
      (∀ e ∈ g.belay.waits, waitsForLock g (wordPa s a) e.2 →
        (∀ f ∈ g.belay.waits, f ≠ e → waitsForLock g (wordPa s a) f.2 → lockBefore g e.2 f.2) → Goes (.unlock sw d a) s
          (Computes ((g.homeWrite64 (wordPa s a) (2 ^ 63 + (g.waveAt e.2.waiter).id.handle.toNat)).setMet e.2.waiter) sw false (s.dest d) [0]
            fun _ => .val 0#64 0#6)))) ∧
  (∀ (sw : Bool) (d a : Opd) (s : State), s.issuing = true → s.lockTrap d a = none →
    let w : Wait := { kind := .lock, key := s.sval a, pa := wordPa s a, expect := 0#64, dst := s.dest d, registered := false, met := false, clk := 0,
                      sw := sw }
    let v := s.bringHome (s.sval a).toNat (wordPa s a)
    let pages := pagesOf 8 [(s.sval a).toNat]
    (s.wave.repro = false → (lockAt s s a).home64 (wordPa s a) ≠ 0 → Goes (.lock sw d a) s fun t => t = (lockAt s s a).beginWait w id) ∧
    (s.wave.repro = true →
      Goes (.lock sw d a) s (Requests v w) ∧
      Goes (.trylk sw d a) s (fun t => ∃ t0, Ran v { (noRight v.wave) with
        fifo := v.wave.fifo ++ [.trylk (wordPa s a) s.wave.qclk.toNat (s.dest d) pages] } sw t0 ∧ t = t0.endQuantum) ∧
      let u := lockAt s (s.setWave (noRight s.wave)) a
      (u.lockView (wordPa s a) = lockWord s → Goes (.unlock sw d a) s
        (Computes (u.setWave { u.wave with fifo := u.wave.fifo ++ [.unlock (wordPa s a) pages] }) sw false (s.dest d) [0] fun _ => .val 0#64 0#6)) ∧
      (u.lockView (wordPa s a) ≠ lockWord s → Goes (.unlock sw d a) s (Computes u sw false (s.dest d) [0] fun _ => .val 3#64 0#6))))

/-- R454, R455 with R242. -/
def Obligations.ValueWaits : Prop :=
  (∀ (sw : Bool) (a b : Opd) (s : State), s.issuing = true →
    let y := s.readScal (s.ref b)
    let c := s.xlatRange (s.sval a).toNat 8 .loadMem
    s.wordTrapOf (!a.sg || !b.sgz) [a, b] a (!y.p && decide (2 ^ 48 ≤ y.bits.toNat)) false c = none →
    Goes (.wreg sw a b) s fun t => ∃ tlbs, Ran { s with tlbs := tlbs } { s.wave with wreg := some ⟨s.sval a, c.head, s.sval b⟩ } sw t) ∧
  (∀ (sw : Bool) (d a : Opd) (s : State) (x : WaitDecl), s.issuing = true → s.wave.wreg = some x → s.waitvTrap d a = none →
    s.wave.repro = false → (waitvAt s x).home64 s.declChk.head ≠ (s.sval a).toNat →
    Goes (.waitv sw d a) s (Computes ((waitvAt s x).acquire s.iss.cur 4) sw false (s.dest d) [0] fun _ => .val 0#64 0#6)) ∧
  (∀ (sw : Bool) (d a : Opd) (s : State) (x : WaitDecl), s.issuing = true → s.wave.wreg = some x → s.waitvTrap d a = none →
    let w : Wait := { kind := .waitv, key := x.va, pa := s.declChk.head, expect := s.sval a, dst := s.dest d, registered := false, met := false,
                      clk := 0, sw := sw }
    (s.wave.repro = false → (waitvAt s x).home64 s.declChk.head = (s.sval a).toNat →
      Goes (.waitv sw d a) s fun t => t = (waitvAt s x).beginWait w id) ∧
    (s.wave.repro = true → Goes (.waitv sw d a) s
      (Requests (s.lookupTouch s.wg.ext s.wave.id.cluster s.asid x.va.toNat) w))) ∧
  (∀ (sw : Bool) (s : State), s.issuing = true → s.iss.pfx = none →
    Goes (.wdone sw) s (Went s { s.wave with wreg := none } [] sw 1)) ∧
  (∀ (sw : Bool) (d : Opd) (s : State), s.issuing = true → s.formTrap { xw := .no } (!d.sgz) = none →
    Goes (.wqry sw d) s (Computes s sw true (s.dest d) [0] fun _ =>
      let unregistered := s.waves.countP fun e => e.2.id.asid.toNat == s.asid && e.2.under == .waitUnreg && e.2.wait.any (!·.met)
      let count (n : Nat) : Nat := min n 0xFFFF
      .val (BitVec.ofNat 64 (count unregistered + s.belay.waits.countP (fun e => e.2.asid == s.asid) * 2 ^ 16 +
        s.belay.objs.countP (fun e => e.2.asid == s.asid) * 2 ^ 32 + count s.ctx.ovf * 2 ^ 48)) 0#6))

end

namespace Sys2Proof.Claims

open Sys2Proof.Machine

/-! ## Power, the weight store, control flow -/

/-- EBUD on a balance and a reserve (R311): the result, and the reserve it leaves. -/
def budget (bal rsv : Int) (x op : Nat) : Word64 × Int :=
  if op = 0 then (if x + rsv ≤ bal then (0#64, rsv + x) else (1#64, rsv))
  else if op = 1 then (if x ≤ rsv then (0#64, rsv - x) else (1#64, rsv))
  else (BitVec.ofInt 64 (if op = 2 then bal else rsv), rsv)

/-- Elements that one 32-bit lane of a WLD holds: one of 4 bytes, two of 2, four of 1 (R98). -/
def perLane (ef : Nat) : Nat := if ef = 0 then 1 else if ef ≤ 2 then 2 else 4

/-- What a lane of a WLD comes to (R98): a token of the address or the guard, of the first element that has one, or the elements side
by side, the first in the lowest bits. -/
def weightLane (s : State) (b : Codebook) (a : Opd) (l : Nat) : LRes :=
  let x := s.readScal (s.ref a)
  let n := perLane b.ef
  let es := (List.range n).map fun e => s.wldElem b (x.bits.toNat + (l * n + e) * b.iw)
  let bad := es.filter fun e => match e with | .val _ => false | _ => true
  match firstTok [x.tok, s.guardTok l], bad with
  | some t, _ => .tok t
  | none, .tok t :: _ => .tok t
  | none, .fresh c p :: _ => .fresh c p 0#6
  | none, _ => .val (BitVec.ofNat 64 ((List.range n).map fun e => match es[e]? with
      | some (.val v) => v % 2 ^ (32 / n) * 2 ^ (32 / n * e)
      | _ => 0).sum) 0#6

/-- R100: bank `b` is not in refresh now, and no window of it starts within the next 64 n master cycles. -/
def bankClear (cyc n b : Nat) : Bool :=
  !(decide (512 * b ≤ cyc % 8192 ∧ cyc % 8192 < 512 * b + 96)) &&
    (List.range (64 * n)).all fun j => decide ((cyc + j) % 8192 ≠ 512 * b)

/-- The values of a codebook's entries, damaged ones as UE tokens that name the wave's next origin slot (R97, R268). -/
def entryValue (s : State) : Except Nat Nat → LaneVal
  | .ok x => ⟨BitVec.ofNat 32 x, false⟩
  | .error a => ⟨0x05#8 ++ s.wave.lo.turn ++ BitVec.ofNat 20 a, true⟩

/-- The state after the issuing wave, grown to `w`, retired an instruction that left its slots at `pcs`. -/
def Jumps (s : State) (w : Wave) (pcs : Pcs) (sw : Bool) (t : State) : Prop :=
  t = { s with waves := s.waves.put s.iss.cur (retired s { w with pcs := pcs } sw), iss := { s.iss with out := .retired } } ∧ SameBytes s t

/-- The issuing wave's slots with the issuing one at `pc`. -/
def slotAt (s : State) (x : PcSlot) (pc : Word64) : Pcs := s.wave.pcs.setSlot s.iss.slot (some { x with pc := pc })

/-- The target of a branch: the offset is in words (R107). -/
def targetOf (pc : Word64) (o : BitVec 21) : Word64 := BitVec.ofInt 64 (pc.toNat + 4 * o.toInt)

/-- The lanes of the mask in which a predicate, or its negation, is true. -/
def takenLanes (s : State) (p : BitVec 3) (neg : Bool) (m : Lanes) : Lanes :=
  BitVec.ofFnLE fun l : Fin 64 => m[l] && ((s.readPred p.toNat).val[l] != neg)

/-- No lane of the mask has a poisoned predicate. -/
def predPlain (s : State) (p : BitVec 3) (m : Lanes) : Prop := ∀ l, l < 64 → m.getLsbD l → (s.readPred p.toNat).poi.getLsbD l = false

/-- The wave with the link register s46 at the address after the instruction (R359). -/
def linked (w : Wave) (pc : Word64) : Wave := { w with regs := { w.regs with s := w.regs.s.set! 46 ⟨pc + 4#64, false⟩, sHi := w.regs.sHi.erase 46 } }

/-- The bytes of a divergence-stack entry (R108). -/
def pathBytes (x : PcSlot) : List Byte :=
  leBytes 8 x.pc.toNat ++ leBytes 8 x.mask.toNat ++ leBytes 8 x.seq ++ leBytes 8 (if x.waiting then 1 else 0) ++ List.replicate 32 0#8

/-- The wave's class is cut, and has been for the TFORCE microseconds of PWCTL (R294, R301). -/
def pastForce (s : State) (k : Nat) : Prop :=
  s.isCut k = true ∧ s.pw.cutAt.get 0 (s.waveAt k).env.shedClass.toNat + 1000 * (s.pw.pwctl.toNat / 2 ^ 44 % 2 ^ 9) ≤ s.now

/-- The page ranges that a range register names (R259). -/
def pageRanges (x n : Nat) : List (Nat × Nat) := (List.range n).map fun i => (x / 2 ^ (16 * i) % 128, x / 2 ^ (16 * i + 8) % 128 + 1)

/-- The ranges of a hint: none; those of B; the whole allocation where B is poisoned. -/
def hinted (s : State) (n : BitVec 3) (b : Opd) : List (Nat × Nat) :=
  let x := s.readScal (s.ref b)
  if n = 0#3 then [] else if x.p then [(0, s.wg.kern.pages)] else pageRanges x.bits.toNat n.toNat

end Sys2Proof.Claims

section

open Sys2Proof Sys2Proof.Machine Sys2Proof.Claims

/-- R311. -/
def Obligations.PowerInstructions : Prop :=
  (∀ (sw : Bool) (a : Opd) (s : State), s.issuing = true → s.formTrap { xw := .no } (!a.isS) = none → (s.readScal (s.ref a)).p = false →
    (s.sval a).toNat < 8 →
    (s.wave.repro = false → Goes (.pcls sw a) s (Went s s.wave [.cls s.wave.id.topSlot s.wave.id.wgKey ((s.sval a).setWidth 3)] sw 1)) ∧
    (s.wave.repro = true → Goes (.pcls sw a) s (Went s { s.wave with fifo := s.wave.fifo ++ [.shedClass ((s.sval a).setWidth 3)] } [] sw 1))) ∧
  (∀ (sw : Bool) (d a b : Opd) (s : State), s.issuing = true → s.formTrap { xw := .no } (!d.isS || !a.isS || !b.isS) = none →
    (s.readScal (s.ref a)).p = false → (s.readScal (s.ref b)).p = false → (s.sval b).toNat < 4 →
    Goes (.ebud sw d a b) s
      (let r := budget s.ctx.bal s.ctx.rsv (s.sval a).toNat (s.sval b).toNat
       Computes (s.setCtxAt s.asid { s.ctx with rsv := r.2 }) sw true (s.dest d) [0] fun _ => .val r.1 0#6))

/-- R97, R98, R100, R448. That CBSET reads its table as memory stands at issue (log entry 6), and checks it as one access whose entries outside
the record read as zero under BND 1 (log entry 81), is the model's choice (DESIGN CHOICE both). -/
def Obligations.WeightInstructions : Prop :=
  (∀ (sw : Bool) (d a : Opd) (c : BitVec 4) (s : State) (b : Codebook), s.issuing = true → b = s.wave.cb[c.toNat]?.getD Codebook.empty →
    s.formTrap { a := some { o := a }, dst := some { o := d } } (!d.isVec || !a.sz || decide (3 < c.toNat) || !s.wg.kern.ws || !b.valid) = none →
    b.ready = true → s.wldRefresh b a = false →
    Goes (.wld sw d a c 0#3) s (Computes s sw true (s.dest d) (laneList s true) (weightLane s b a))) ∧
  (∀ (sw : Bool) (c o : Opd) (r : BitVec 4) (n : BitVec 3) (s : State), s.issuing = true →
    s.formTrap { xw := .no } (!c.isS || !o.sz || (n != 0#3 && n != 6#3) || recBad (s.brec r)) = none →
    let x := s.readScal (s.ref c)
    let y := s.readScal (s.ref o)
    let slot := x.bits.toNat % 4
    let iw := x.bits.toNat / 4 % 16
    let ef := x.bits.toNat / 64 % 8
    let es := 4 / perLane ef
    let k := s.cbCheck (s.brec r) (recAddr (s.brec r) y.bits.toNat) (2 ^ iw) es
    (x.p = false → x.bits.toNat < 512 → 1 ≤ iw → iw ≤ 8 → ef ≤ 4 → y.p = false → (∀ e p, k ≠ .bad e p) →
      Goes (.cbset sw c o r n) s fun t => ∃ (u : State) (w : Wave) (b : Codebook), Ran u w sw t ∧
        w = { u.wave with cb := u.wave.cb.set! slot b, lo := w.lo } ∧ b.valid = true ∧ b.ready = false ∧ b.iw = iw ∧ b.ef = ef ∧
        b.remote = (if recScratch (s.brec r) then [] else cbRemote es k.pas s.pc) ∧
        let v := (if k.pas = [] then s else s.touchTlbs (s.brec r) ((List.range (2 ^ iw)).map fun i => recAddr (s.brec r) y.bits.toNat + es * i)
          ).settleAtomics (recScratch (s.brec r)) k.pas
        let unc := match k with | .ok _ u => u | _ => false
        u = v.loadsTouch (recScratch (s.brec r)) false (n == 6#3 || unc) k.pas ∧
        let vals := v.cbEntries (recScratch (s.brec r)) unc k.pas (2 ^ iw) es
        (∀ i, i < 2 ^ iw → b.entries.get LaneVal.zero i = ((vals[i]?).map (entryValue v)).getD LaneVal.zero) ∧
        w.lo = match vals.findSome? (fun e => match e with | .error a => some a | .ok _ => none) with
          | some a => v.wave.lo.takeOrigin 0x05#8 0 (BitVec.ofNat 24 ((v.pc - v.wg.kern.text).toNat / 4)) a
          | none => u.wave.lo) ∧
    (x.p = false → x.bits.toNat < 512 → 1 ≤ iw → iw ≤ 8 → ef ≤ 4 → y.p = true →
      Goes (.cbset sw c o r n) s fun t => ∃ b : Codebook, Went s { s.wave with cb := s.wave.cb.set! slot b } [] sw 1 t ∧
        b.valid = true ∧ b.ready = false ∧ b.iw = iw ∧ b.ef = ef ∧ b.remote = [] ∧
        ∀ i, i < 2 ^ iw → b.entries.get LaneVal.zero i = ⟨y.bits.setWidth 32, true⟩) ∧
    (x.p = true →
      Goes (.cbset sw c o r n) s fun t => ∃ b : Codebook, Went s { s.wave with cb := s.wave.cb.set! slot b } [] sw 1 t ∧
        b.valid = true ∧ b.ready = false ∧ b.remote = [] ∧ ∀ i, i < 256 → b.entries.get LaneVal.zero i = ⟨x.bits.setWidth 32, true⟩)) ∧
  (∀ (sw : Bool) (p : BitVec 3) (a : Opd) (n : BitVec 4) (s : State) (b : Codebook), s.issuing = true → b = s.wave.cb[0] →
    s.formTrap { xw := .no } (p == 0#3 || !a.sz || !s.wg.kern.ws || !b.valid) = none →
    Goes (.wschk sw p a n 0#3) s (Compares s sw p.toNat ((List.range 64).filter s.mask.getLsbD) (fun _ =>
      let x := s.readScal (s.ref a)
      let bits := (if s.wave.id.paired then 64 else 32) * perLane b.ef * b.iw
      if x.p then none
      else some ((List.range 16).all fun k => !(decide (2 ^ 29 * k < x.bits.toNat + bits ∧ x.bits.toNat < 2 ^ 29 * (k + 1))) ||
        bankClear (s.dieCyc s.wave.id.die.toNat) n.toNat k)) 0#6 0#6)) ∧
  (∀ (sw : Bool) (d a : Opd) (s : State), s.issuing = true → s.sysTrap (!d.sz || !a.sg) [a] = none → s.wave.repro = false →
    ((s.sval a).toNat ≤ s.time →
      Goes (.timew sw d a) s (Computes s sw false (s.dest d) [0] fun _ => .val (BitVec.ofNat 64 s.time) 0#6)) ∧
    (s.time < (s.sval a).toNat → Goes (.timew sw d a) s fun t =>
      t = { (s.setWave { s.wave with timew := some (s.sval a, s.dest d, sw) }) with iss := { s.iss with out := .waits } })) ∧
  (∀ (sw : Bool) (d a : Opd) (s : State), s.issuing = true → s.sysTrap (!d.sz || !a.sg) [a] = none → s.wave.repro = true →
    Goes (.timew sw d a) s fun t => ∃ q : Word64, q.toNat = (s.wave.qclk.toNat / 2 ^ s.ctx.qlog + 1) * 2 ^ s.ctx.qlog % 2 ^ 64 ∧
      t = { (s.setWave { s.wave with timew := some (s.sval a, s.dest d, sw), ended := true, qclk := q }) with iss := { s.iss with out := .waits } })

/-- R107, R358 to R360, R390, R429. -/
def Obligations.Branches : Prop :=
  (∀ (sw neg : Bool) (p : BitVec 3) (o : BitVec 21) (s : State) (x : PcSlot), s.wave.pcs.slot s.iss.slot = some x → s.iss.pfx = none →
    predPlain s p x.mask →
    let t := takenLanes s p neg x.mask
    let f := takenLanes s p (!neg) x.mask
    let pathF : PcSlot := { x with pc := x.pc + 4#64, mask := f }
    let pathT : PcSlot := { pc := targetOf x.pc o, mask := t, seq := s.wave.pcs.nextSeq, waiting := false }
    (t = 0#64 → Goes (.br sw neg p o) s (Jumps s s.wave (slotAt s x (x.pc + 4#64)) sw)) ∧
    (t ≠ 0#64 → f = 0#64 → Goes (.br sw neg p o) s (Jumps s s.wave (slotAt s x (targetOf x.pc o)) sw)) ∧
    (t ≠ 0#64 → f ≠ 0#64 → s.wave.pcs.slot (!s.iss.slot) = none → Goes (.br sw neg p o) s fun u => ∃ pcs,
      Jumps s (noRight s.wave) pcs sw u ∧
      pcs = { s.wave.pcs with slot0 := pcs.slot0, slot1 := pcs.slot1, nextSeq := s.wave.pcs.nextSeq + 1 } ∧
      pcs.slot s.iss.slot = some pathF ∧ pcs.slot (!s.iss.slot) = some pathT) ∧
    (∀ y, t ≠ 0#64 → f ≠ 0#64 → s.wave.pcs.slot (!s.iss.slot) = some y → s.wave.pcs.depth < s.wg.kern.divdepth →
      Goes (.br sw neg p o) s fun u => ∃ pcs : Pcs,
        let top := s.wave.pcs.stackBase + 64 * s.wave.pcs.depth
        let path := if x.seq < y.seq then pathF else y
        pcs = { s.wave.pcs with slot0 := pcs.slot0, slot1 := pcs.slot1, nextSeq := s.wave.pcs.nextSeq + 1 } ∧
        pcs.slot s.iss.slot = some (if x.seq < y.seq then pathT else pathF) ∧
        pcs.slot (!s.iss.slot) = some (if x.seq < y.seq then y else pathT) ∧
        let v := (s.setWave { s.wave with pcs := pcs }).homeWrite (((List.range 64).map (top + ·)).zip (pathBytes path))
        Jumps v (noRight v.wave) { pcs with depth := s.wave.pcs.depth + 1 } sw u ∧
        (s.harts.lines = [] → ∀ a, (a < top ∨ top + 64 ≤ a) → u.homeRead a = s.homeRead a))) ∧
  (∀ (sw : Bool) (m : BruMode) (p : BitVec 3) (o : BitVec 21) (s : State) (x : PcSlot), s.wave.pcs.slot s.iss.slot = some x → s.iss.pfx = none →
    (m ≠ .always → predPlain s p x.mask) →
    let t := takenLanes s p false x.mask
    let goes := match m with | .always => true | .any => t != 0#64 | .all => t == x.mask | .none => t == 0#64
    Goes (.bru sw m p o) s (Jumps s s.wave (slotAt s x (if goes then targetOf x.pc o else x.pc + 4#64)) sw)) ∧
  (∀ (sw : Bool) (o : BitVec 21) (s : State) (x : PcSlot), s.wave.pcs.slot s.iss.slot = some x → s.iss.pfx = none →
    Goes (.call sw o) s (Jumps s (linked s.wave x.pc) (slotAt s x (targetOf x.pc o)) sw)) ∧
  (∀ (sw : Bool) (a : Opd) (s : State) (x : PcSlot), s.wave.pcs.slot s.iss.slot = some x → s.jumpTrap a = none →
    Goes (.jmpr sw a) s (Jumps s s.wave (slotAt s x (s.sval a)) sw) ∧
    Goes (.callr sw a) s (Jumps s (linked s.wave x.pc) (slotAt s x (s.sval a)) sw) ∧
    (a = .s 46 → Goes (.ret sw) s (Jumps s s.wave (slotAt s x (s.sval a)) sw)))

/-- R110, R376. -/
def Obligations.JoinAndExit : Prop :=
  (∀ (sw : Bool) (s : State) (x : PcSlot), s.wave.pcs.slot s.iss.slot = some x → s.iss.pfx = none →
    (s.wave.pcs.slot (!s.iss.slot) = none → Goes (.join sw) s (Jumps s s.wave (slotAt s x (x.pc + 4#64)) sw)) ∧
    ∀ y, s.wave.pcs.slot (!s.iss.slot) = some y →
      (y.waiting = false → Goes (.join sw) s
        (Jumps s (noRight s.wave) (s.wave.pcs.setSlot s.iss.slot (some { x with waiting := true })) sw)) ∧
      (y.waiting = true → y.pc = x.pc → s.wave.pcs.depth = 0 → Goes (.join sw) s fun t => ∃ pcs,
        Jumps s (noRight s.wave) pcs sw t ∧ pcs = { s.wave.pcs with slot0 := pcs.slot0, slot1 := pcs.slot1 } ∧
        pcs.slot (!s.iss.slot) = none ∧
        pcs.slot s.iss.slot = some { pc := x.pc + 4#64, mask := x.mask ||| y.mask, seq := min x.seq y.seq, waiting := false })) ∧
  (∀ (sw : Bool) (s : State) (x : PcSlot), s.wave.pcs.slot s.iss.slot = some x → s.iss.pfx = none → s.wave.env.hm = false →
    (∀ y, s.wave.repro = false → s.wave.pcs.slot (!s.iss.slot) = some y → y.waiting = false → s.wave.pcs.depth = 0 →
      Goes (.exit sw) s (Jumps s (noRight s.wave) (s.wave.pcs.setSlot s.iss.slot none) sw)) ∧
    (s.wave.repro = false → s.wave.st ≠ .exited → s.wave.pcs.slot (!s.iss.slot) = none → s.wave.pcs.depth = 0 →
      Goes (.exit sw) s fun t => ∃ u, Jumps s (noRight s.wave) (s.wave.pcs.setSlot s.iss.slot none) sw u ∧
        ((u.leave s.iss.cur).waveAt s.iss.cur).st = .exited ∧ t = (u.leave s.iss.cur).reap s.wave.id.wgKey) ∧
    (s.wave.repro = true → Goes (.exit sw) s fun t => ∃ u, Jumps s (noRight s.wave) s.wave.pcs sw u ∧
      t = (u.hold s.iss.cur (.exit s.iss.slot)).endQuantum))

end

namespace Sys2Proof.Claims

open Sys2Proof.Machine

/-! ## Traps, special registers, system instructions -/

/-- Fields side by side: each a value and the bit it starts at. -/
def packed (fs : List (Nat × Nat)) : Word64 := BitVec.ofNat 64 (fs.map fun f => f.1 * 2 ^ f.2).sum

def flag (b : Bool) : Nat := if b then 1 else 0

/-- What GETSR reads in either half of a pair (R152, R383): WINFO and LID (R102), TIME (R154), the energy meter, FTV, FMODE and FFLAGS (R38, R52), WBASE, CAUSE, EPC,
FADDR and FMASK (R251), the origin table (R245), SHED and PRIO (R144), QCLK (R121), CONTRACT (R58), WIDTH (R103), WSWIN (R93),
DLREC (R240), ALLOW (R299), LEASE (R308), HSTAT (R155). -/
def specialReg (s : State) (hi : Bool) (i : Nat) : Word64 :=
  let w := s.wave
  let d := w.id
  let h := if hi then w.hi else w.lo
  match i with
  | 0x00 => packed [(d.index.toNat + flag hi, 0), (d.nwave.toNat, 5), (flag d.paired, 11), (flag hi, 12), (d.sched.toNat + flag hi, 13),
      ((if hi then d.slotHi else d.slot).toNat, 15), (d.core.toNat, 21), (d.die.toNat, 28), (flag d.repro, 33)]
  | 0x01 => packed [(d.wg.toNat, 0), (d.cwg.toNat, 32), (flag d.clustered, 34)]
  | 0x02 => packed [(s.time, 0)]
  | 0x03 => packed [(s.ctx.meter / 10 ^ 6, 0)]
  | 0x04 => packed [(w.env.ftv.toNat, 0)]
  | 0x05 => packed [(w.env.fmode.toNat, 0)]
  | 0x06 => packed [((w.lo.fflags ||| if d.paired then w.hi.fflags else 0#6).toNat, 0)]
  | 0x07 => packed [(w.regs.wbase.toNat, 0)]
  | 0x08 => w.env.cause
  | 0x09 => w.env.epc
  | 0x0A => h.faddr
  | 0x0B => h.fmask
  | 0x1C => packed [(w.env.shedClass.toNat, 0), (w.env.shedBase.toNat, 3)]
  | 0x1D => packed [(w.env.eff.toNat, 0), (w.env.shedBase.toNat, 3), (flag (w.env.eff != w.env.shedBase), 6)]
  | 0x1E => w.qclk
  | 0x1F => packed [(s.wg.kern.con.toNat, 0), (dieClass s.wg.bindDie, 4),
      (flag ((nativeClasses s.wg.kern.con.toNat).contains (dieClass s.wg.bindDie)), 6), (s.wg.bindDie, 8)]
  | 0x20 => packed [(s.wg.kern.width.toNat, 0)]
  | 0x21 => packed [(wswin (s.dieCyc d.die.toNat), 0)]
  | 0x22 => s.ctx.dlrec
  | 0x23 => packed [(s.allowReg d.cluster, 0)]
  | 0x24 => packed [(s.leaseReg, 0)]
  | 0x25 => packed [(flag s.ctx.ilr, 0), (flag s.ctx.ilf, 1), (flag w.env.hm, 2), (min s.ctx.cec 0xFFFF, 16)]
  | n => if 0x0C ≤ n ∧ n ≤ 0x1B then h.pois[n - 0x0C]?.getD 0#64 else 0#64

/-- The wave after SETSR of a register that it holds itself; none for the others (R152, R153). -/
def regWritten (w : Wave) (i : Nat) (x : Word64) : Option Wave :=
  match i with
  | 0x04 => some { w with env := { w.env with ftv := x.setWidth 8 } }
  | 0x05 => some { w with env := { w.env with fmode := x.setWidth 6 } }
  | 0x06 => some { w with lo := { w.lo with fflags := x.setWidth 6 }, hi := { w.hi with fflags := x.setWidth 6 } }
  | 0x08 => some { w with env := { w.env with cause := x } }
  | 0x09 => some { w with env := { w.env with epc := x } }
  | 0x0A => some { w with lo := { w.lo with faddr := x }, hi := { w.hi with faddr := x } }
  | 0x0B => some { w with lo := { w.lo with fmask := x }, hi := { w.hi with fmask := x } }
  | _ => none

/-- Nothing of the wave that the access must wait for is outstanding (R38). -/
def quiet (s : State) : Prop := s.wave.pend = [] ∧ s.wave.fifo.any Eff.returns = false

/-- The wave with the trap's CAUSE, EPC, FADDR and FMASK, each half its own lanes (R251, R253). -/
def reported (w : Wave) (t : Trap) (pc : Word64) : Wave :=
  { w with env := { w.env with cause := BitVec.ofNat 64 t.cause.code, epc := pc }, mwait := none, stallOn := [],
           lo := { w.lo with faddr := t.faddr, fmask := BitVec.ofNat 64 (t.fmask.toNat % 2 ^ 32) },
           hi := { w.hi with faddr := t.faddrHi, fmask := BitVec.ofNat 64 (t.fmask.toNat / 2 ^ 32) } }

/-- The context of the issuing wave directs traps of this cause to its handler (R252). -/
def directed (s : State) (c : Cause) : Prop :=
  s.ctx.haddr ≠ 0#64 ∧ s.ctx.hvec.getLsbD c.code = true ∧ c ≠ .mchk ∧ s.wave.env.hm = false

/-- The fault record of a wave as it parked (R257). FADDR of a pair is that of the half that has failing lanes, the lower first, which is the
model's choice (log entry 24). -/
def parkRecord (s : State) (w : Wave) : List Byte :=
  [0xF1#8, w.env.cause.setWidth 8, if w.env.hm then 1#8 else 0#8] ++ List.replicate 5 0#8 ++ leBytes 8 w.id.handle.toNat ++
    leBytes 8 w.env.epc.toNat ++ leBytes 8 (if w.lo.fmask = 0#64 then w.hi.faddr else w.lo.faddr).toNat ++
    leBytes 8 (w.lo.fmask.toNat % 2 ^ 32 + w.hi.fmask.toNat % 2 ^ 32 * 2 ^ 32) ++ leBytes 8 s.time ++ List.replicate 464 0#8

/-- The state after the next slot of the issuing wave's record area took a fault record (R240, R257): at its home where the whole slot can be
written, and only the slots gone on where it cannot. -/
def recorded (s : State) (bytes : List Byte) : State :=
  let va := s.ctx.recBase + 512 * s.ctx.nextRec
  let u := s.setCtxAt s.asid { s.ctx with nextRec := (s.ctx.nextRec + 1) % max 1 s.ctx.recSlots }
  match u.hubAddrs s.asid va 512 .store (· == 0#2) with
  | some pas => u.homeWrite (pas.zip bytes)
  | none => u

/-- R226: the device semaphore is enabled and belongs to the context. -/
def ownsSem (s : State) (i : Nat) : Prop :=
  (s.hub.semcfg.get 0#64 i).getLsbD 10 = true ∧ (s.hub.semcfg.get 0#64 i).toNat % 2 ^ 10 = s.asid

/-- R195: the rules of a shape record. -/
def wellShaped (b : List Byte) : Prop :=
  let rowb := fieldOf b 8 4
  let rows := fieldOf b 12 4
  let rstr := fieldOf b 16 8
  fieldOf b 0 8 % 64 = 0 ∧ rowb ≠ 0 ∧ rowb % 64 = 0 ∧ rows ≠ 0 ∧ rstr % 64 = 0 ∧ (1 < rows → rowb ≤ rstr) ∧ fieldOf b 24 8 = 0

/-- Is `f` a frame of `page` bytes of the context's pool that is free (R285)? -/
def freeFrame (c : Ctx) (page f : Nat) : Prop :=
  (∃ i, page * (i + 1) ≤ c.poolSize ∧ f = c.poolBase + page * i) ∧ ∀ p ∈ c.poolUsed, 4096 * p / page ≠ f / page

/-- The state after MAPR mapped a leaf: the frame's bytes are zero, then the leaf names it, and the frame is in use (R285). -/
def mapped (s : State) (leaf page f : Nat) (ctl : Word64) : State :=
  let z := s.homeWrite ((List.range page).map fun i => (f + i, 0#8))
  let v := z.homeWrite (((List.range 8).map (leaf + ·)).zip (leBytes 8 (3 + 4 * flag ctl[1] + 8 * flag ctl[2] + f)))
  v.modCtxAt s.asid fun c => { c with poolUsed := c.poolUsed ++ (List.range (page / 4096)).map (f / 4096 + ·) }

/-- ICLK's or ICUL's status word (R385): the result, locked lines, locks; zero in a reproducible context (R386). -/
def lockWordOf (s : State) (res : Nat) : Word64 :=
  if s.wave.id.repro then 0#64
  else
    let ls := s.caches.locks.filter fun l => l.core == s.wave.id.gcore && l.asid == s.asid
    packed [(res, 0), ((ls.flatMap (·.lines)).eraseDups.length, 8), (ls.length, 17)]

end Sys2Proof.Claims

section

open Sys2Proof Sys2Proof.Machine Sys2Proof.Claims

/-- R240, R249 to R257, R449. That DLREC does not name the fault record is the model's choice (log entry 89); R256. -/
def Obligations.TrapsAndReturns : Prop :=
  ((∀ (s : State) (t : Trap) (x : PcSlot), s.wave.pcs.slot s.iss.slot = some x → quiet s → directed s t.cause →
     let w := reported s.wave t x.pc
     (s.wave.id.repro = false →
       s.takeTrap t =
         let e : Env := { w.env with hm := true, hsaveSlot := s.iss.slot, hsaveMask := x.mask }
         let v : Wave := { w with env := e, pcs := w.pcs.setSlot s.iss.slot (some { x with pc := s.ctx.haddr, mask := t.fmask }) }
         { (s.setWave v) with iss := { s.iss with out := .trapped } }) ∧
     (s.wave.id.repro = true → ∃ v : Wave, s.takeTrap t = { (s.setWave v) with iss := { s.iss with out := .trapped } } ∧
       v = { s.wave with trapPend := some t, ended := true, qclk := v.qclk, pcs := { s.wave.pcs with lastIssued := s.iss.slot } } ∧
       v.qclk.toNat = (s.wave.qclk.toNat / 2 ^ s.ctx.qlog + 1) * 2 ^ s.ctx.qlog % 2 ^ 64)) ∧
   (∀ (s : State) (t : Trap) (x : PcSlot), s.wave.pcs.slot s.iss.slot = some x → quiet s → t.cause ≠ .mchk → ¬ directed s t.cause →
     let u := s.takeTrap t
     let w := reported s.wave t x.pc
     let p : Preempt := { w.pre with taken := true, full := true }
     let v : Wave := if w.st = .preempting then { w with held := .parkedFault, pre := p } else { w with st := .parkedFault, held := .parkedFault }
     u.iss.out = .trapped ∧ u.wave = { v with wait := u.wave.wait } ∧
       (u.ctxAt s.asid).nextRec = (s.ctx.nextRec + 1) % max 1 s.ctx.recSlots ∧
       let r := recorded (s.setWave v) (parkRecord s v)
       (ownsSem s s.ctx.fsem → u = { (r.semAdd true 0 s.ctx.fsem 1#32) with iss := { s.iss with out := .trapped } } ∧
         (u.semCount true 0 s.ctx.fsem).toNat = ((s.semCount true 0 s.ctx.fsem).toNat + 1) % 2 ^ 32) ∧
       (¬ ownsSem s s.ctx.fsem → u = { r with iss := { s.iss with out := .trapped } })) ∧
   (∀ (sw : Bool) (c : BitVec 7) (s : State), s.issuing = true → s.iss.pfx = none →
     Goes (.trap sw c) s fun t => t = s.takeTrap ⟨.trap, c.setWidth 64, c.setWidth 64, s.mask⟩)) ∧
  ((∀ (sw : Bool) (s : State) (x : PcSlot), s.issuing = true → s.iss.pfx = none → s.wave.env.hm = true → s.wave.env.epc.toNat % 4 = 0 →
     s.wave.pcs.slot s.wave.env.hsaveSlot = some x →
     Goes (.eret sw) s fun t => t.wave.qclk = s.wave.qclk ∧ ∃ u,
       let v := if s.wave.id.repro then (s.drainFifo s.iss.cur).flushPend s.iss.cur else s
       Jumps v v.wave s.wave.pcs sw u ∧
       t = u.setWave { u.wave with
         env := { s.wave.env with hm := false },
         pcs := s.wave.pcs.setSlot s.wave.env.hsaveSlot (some { x with pc := s.wave.env.epc, mask := s.wave.env.hsaveMask }) }) ∧
   (∀ (sw : Bool) (s : State), s.issuing = true → s.wave.env.hm = false →
     exec (.eret sw) s = .next (s.takeTrap (s.wordTrap .priv))))

/-- R152, R153, R383, R439. -/
def Obligations.SpecialRegisters : Prop :=
  (∀ (sw : Bool) (d : Opd) (i : BitVec 7) (s : State), s.issuing = true →
    s.formTrap { xw := .no } (!d.sgz || decide (0x26 ≤ i.toNat)) = none → (0x08 ≤ i.toNat → i.toNat ≤ 0x0B → s.wave.env.hm = true) →
    (0x04 ≤ i.toNat → i.toNat ≤ 0x06 → quiet s) →
    Goes (.getsr sw d i) s (Computes s sw false (s.dest d) (if s.wave.id.paired then [0, 32] else [0]) fun l =>
      .val (specialReg s (decide (32 ≤ l)) i.toNat) 0#6)) ∧
  (∀ (sw : Bool) (i : BitVec 7) (a : Opd) (s : State), s.issuing = true → s.sysTrap (!a.sgz) [a] = none →
    (0x08 ≤ i.toNat → i.toNat ≤ 0x0B → s.wave.env.hm = true) → (0x04 ≤ i.toNat → i.toNat ≤ 0x06 → quiet s) →
    let x := s.sval a
    (∀ w, regWritten s.wave i.toNat x = some w → (i.toNat = 0x04 → x = 1#64 ∨ x = 2#64) →
      Goes (.setsr sw i a) s (Went s w [] sw 1)) ∧
    (i.toNat = 0x1C → x.toNat / 8 % 8 ≤ (s.launchAt s.wave.id.launchKey).prio.toNat →
      Goes (.setsr sw i a) s (Went s s.wave
        [.shed s.wave.id.topSlot s.iss.cur (BitVec.ofNat 3 x.toNat) (BitVec.ofNat 3 (x.toNat / 8))] sw 1)) ∧
    (i.toNat = 0x25 → Goes (.setsr sw i a) s
      (Went s s.wave [.hstat s.wave.id.topSlot s.iss.cur s.asid (BitVec.ofNat 2 x.toNat)] sw 1))) ∧
  (∀ (s : State) (slot k a : Nat) (m : BitVec 2), ((s.applyCycEff (.hstat slot k a m)).ctxAt a) =
    { (s.ctxAt a) with ilr := (s.ctxAt a).ilr && !m[0], ilf := (s.ctxAt a).ilf && !m[1] }) ∧
  (∀ (sw : Bool) (d a : Opd) (i : BitVec 7) (s : State), s.issuing = true → 0x08 ≤ i.toNat → i.toNat ≤ 0x0B → s.wave.env.hm = false →
    exec (.getsr sw d i) s = .next (s.takeTrap (s.wordTrap .priv)) ∧ exec (.setsr sw i a) s = .next (s.takeTrap (s.wordTrap .priv)))

/-- R258, R285, R286, R288 and the privilege of R167; R385, R386; R195, R413. That RES 2 also sets ILF is log entry 47 (DEDUCED), and the order of ODECL's statuses, a bad shape before an overlap before
a full table, log entry 48 (DEDUCED): the model's choices. -/
def Obligations.SystemInstructions : Prop :=
  ((∀ (sw : Bool) (d a b : Opd) (s : State), s.issuing = true → s.wave.env.hm = true →
     (s.sysTrap (!d.sz || !a.isS || !b.isS) [a, b] = none →
       let va := (s.sval a).toNat
       let n := (s.sval b).toNat
       let old := s.tlbs.tickets.get ⟨0, 0, []⟩ s.asid
       (va % 4096 = 0 → n % 4096 = 0 → va + n ≤ 2 ^ 57 → old.open_.length < 16 →
         Goes (.atinv sw d a b) s fun t =>
           let v := s.release s.iss.cur 4
           let new : Tickets := { old with issued := old.issued + 1, open_ := old.open_ ++ [⟨old.issued + 1, va, n, false⟩] }
           let u : State := { v with tlbs := { v.tlbs with tickets := v.tlbs.tickets.put s.asid new } }
           Computes u sw false (s.dest d) [0] (fun _ => .val (BitVec.ofNat 64 (old.issued + 1)) 0#6) t) ∧
       let page := if (s.sval b)[0] then 2 ^ 21 else 4096
       let kind := if (s.sval b)[0] then 2 else 1
       let found := s.findRange (va / page * page) 6 s.ctx.root none
       let gives (st : Nat) (u : State) : Prop :=
         Goes (.mapr sw d a b) s (Computes u sw false (s.dest d) [0] fun _ => .val (BitVec.ofNat 64 st) 0#6)
       n < 8 → (∀ x, found = .error x → (∀ p, x ≠ .ue p) → gives 3 s) ∧
         ∀ e, found = .ok e → (e.kind ≠ kind → gives 3 s) ∧
           let leaf := e.leafAddr (va / page * page)
           (e.kind = kind → s.ueIn leaf 8 = none →
             ((s.home64 leaf).testBit 0 = true → gives 1 s) ∧
             ((s.home64 leaf).testBit 0 = false →
               ((∀ f, ¬ freeFrame s.ctx page f) → gives 2 s) ∧
               (∀ f, freeFrame s.ctx page f → (∀ g, freeFrame s.ctx page g → f ≤ g) → gives 0 (mapped s leaf page f (s.sval b)))))) ∧
     (s.sysTrap (!d.sz || !a.isS) [a] = none →
       let t := s.tlbs.tickets.get ⟨0, 0, []⟩ s.asid
       let x := s.sval a
       (t.issued < x.toNat → Goes (.atsync sw d a) s (Computes s sw false (s.dest d) [0] fun _ => .val 1#64 0#6)) ∧
       (x.toNat ≤ t.issued → x.toNat ≤ t.acked → Goes (.atsync sw d a) s (Computes s sw false (s.dest d) [0] fun _ => .val 0#64 0#6)) ∧
       (s.resolve s.asid x = none →
         Goes (.pkres sw d a) s (Computes s sw false (s.dest d) [0] fun _ => .val 2#64 0#6) ∧
         Goes (.pkill sw d a) s (Computes s sw false (s.dest d) [0] fun _ => .val 2#64 0#6)) ∧
       ∀ k, s.resolve s.asid x = some k →
         ((s.waveAt k).st ≠ .parkedFault →
           Goes (.pkres sw d a) s (Computes s sw false (s.dest d) [0] fun _ => .val 1#64 0#6) ∧
           Goes (.pkill sw d a) s (Computes s sw false (s.dest d) [0] fun _ => .val 1#64 0#6)) ∧
         ((s.waveAt k).st = .parkedFault → s.wave.st ≠ .parkedFault →
           Goes (.pkres sw d a) s (Computes ((s.setWaveAt k { (s.waveAt k) with st := .ready, held := .ready }).shedIfCut k) sw false (s.dest d) [0]
             fun _ => .val 0#64 0#6) ∧
           Goes (.pkill sw d a) s fun t => ∃ v, v = s.endWave k ∧ (v.waveAt k).st = .exited ∧
             Computes { v with endOfCycle := v.endOfCycle ++ [.reap (s.waveAt k).id.topSlot (s.waveAt k).id.wgKey] } sw false (s.dest d) [0]
               (fun _ => .val 0#64 0#6) t))) ∧
   (∀ (sw : Bool) (d a b : Opd) (s : State) (i : Instr), s.issuing = true → s.wave.env.hm = false →
     i ∈ [Instr.atinv sw d a b, .atsync sw d a, .mapr sw d a b, .pkres sw d a, .pkill sw d a] →
     exec i s = .next (s.takeTrap (s.wordTrap .priv)))) ∧
  ((∀ (sw : Bool) (d a b : Opd) (s : State), s.issuing = true → s.sysTrap (!d.sz || !a.isS || !b.isS) [a, b] = none →
     let va := (s.sval a).toNat
     let n := (s.sval b).toNat
     let r := s.lockDecision va n
     ((n = 0 ∨ 2 ^ 57 < va + n) → r.1 = 3) ∧
     Goes (.iclk sw d a b) s (fun t => ∃ u : State, Computes u sw false (s.dest d) [0] (fun _ => .val (lockWordOf u r.1) 0#6) t ∧
       (r.1 = 0 → ∃ ic lock, u = { s with caches := { s.caches with ic := ic, locks := s.caches.locks ++ [lock] }, mem := u.mem, harts := u.harts } ∧
         (s.harts.lines = [] → SameBytes s u) ∧
         lock.core = s.wave.id.gcore ∧ lock.asid = s.asid ∧ lock.va = va ∧ lock.len = n ∧ lock.active = true ∧ lock.lines = r.2.eraseDups) ∧
       (r.1 = 3 → u = s) ∧
       (r.1 ≠ 0 → r.1 ≠ 3 → u = s.setCtxAt s.asid { s.ctx with ilf := true })) ∧
     Goes (.icul sw d a b) s fun t =>
       let kept := s.caches.locks.filter fun l => !(l.core == s.wave.id.gcore && l.asid == s.asid &&
         decide (n = 0 ∨ (va ≤ l.va ∧ l.va + l.len ≤ va + n)))
       let u : State := { s with caches := { s.caches with locks := kept } }
       Computes u sw false (s.dest d) [0] (fun _ => .val (lockWordOf u 0) 0#6) t) ∧
   (∀ (sw : Bool) (d a : Opd) (s : State), s.issuing = true → s.sysTrap (!d.sz || !a.sg) [a] = none →
     let base := (s.sval a).toNat
     let c := s.xlatRange base 32 .load
     let b := s.chkBytes c
     let v := s.blockTouch base c
     (base % 32 = 0 → s.chkTrap c = none → s.ueTrap c.pas = none →
       (s.wave.repro = false → Goes (.odecl sw d a) s fun t => ∃ (st : Nat) (u : State),
         Computes u sw false (s.dest d) [0] (fun _ => .val (BitVec.ofNat 64 st) 0#6) t ∧ (st ≠ 0 → u = v) ∧
         (¬ wellShaped b → st = 3) ∧ (v.shapePhys v.wg.ext v.wave.id.cluster s.asid b = none → st = 3) ∧
         (∀ lines, wellShaped b → v.shapePhys v.wg.ext v.wave.id.cluster s.asid b = some lines →
           let meets := ∃ e ∈ v.harts.objs, e.2.asid = s.asid ∧ e.2.declared = true ∧ ∃ l ∈ e.2.lines, l ∈ lines
           let full := 65536 ≤ v.harts.objs.countP fun e => e.2.die == homeDie (64 * lines.headD 0) && e.2.declared
           (meets → st = 2) ∧ (¬ meets → full → st = 1) ∧ (¬ meets → ¬ full → st = 0)) ∧
         (st = 0 → ∃ k lines, v.shapePhys v.wg.ext v.wave.id.cluster s.asid b = some lines ∧
           u.harts.objs.find k = some ⟨s.asid, true, fieldOf b 0 8, lines, homeDie (64 * lines.headD 0), [], 0#16, 0⟩ ∧
           ∀ e ∈ v.harts.objs, e.2.asid = s.asid → e.2.declared = true → ∀ l ∈ lines, l ∉ e.2.lines)) ∧
       (s.wave.repro = true → Goes (.odecl sw d a) s fun t => ∃ t0,
         Ran v { v.wave with fifo := v.wave.fifo ++ [.odecl b (s.dest d)] } sw t0 ∧ t = t0.endQuantum)) ∧
     let mine (e : Nat × CohObj) : Bool := e.2.asid == s.asid && e.2.declared && e.2.base == base
     (s.wave.repro = false → s.harts.objs.find? mine = none →
       Goes (.orel sw d a) s (Computes s sw false (s.dest d) [0] fun _ => .val 1#64 0#6)) ∧
     (∀ k o, s.wave.repro = false → s.harts.objs.find? mine = some (k, o) →
       Goes (.orel sw d a) s (Computes (s.revoke k o) sw false (s.dest d) [0] fun _ => .val 0#64 0#6) ∧
         (s.revoke k o).harts.objs.find k = none) ∧
     (s.wave.repro = true → Goes (.orel sw d a) s fun t => ∃ t0,
       Ran s { s.wave with fifo := s.wave.fifo ++ [.orel base (s.dest d)] } sw t0 ∧ t = t0.endQuantum)))

/-- R122, R150, R259, R260, R265, R411; R160, R162, R459. -/
def Obligations.HintsAndBases : Prop :=
  ((∀ (sw : Bool) (s : State), s.issuing = true → s.iss.pfx = none → Goes (.nop sw) s (Went s s.wave [] sw 1)) ∧
   (∀ (sw : Bool) (n : BitVec 3) (s : State), s.issuing = true → s.iss.pfx = none → n.toNat < 7 → n.toNat + 2 ≤ s.wg.kern.seg →
     Goes (.wbase sw n) s (Went s { s.wave with regs := { s.wave.regs with wbase := BitVec.ofNat 8 (32 * n.toNat) } } [] sw 1)) ∧
   (∀ (sw : Bool) (s : State), s.issuing = true → s.iss.pfx = none →
     (s.wave.repro = false → Goes (.qend sw) s (Went s s.wave [] sw 1)) ∧
     (s.wave.repro = true → s.wave.env.hm = false → s.wave.ended = false → Goes (.qend sw) s fun t =>
       ∃ u, Went s s.wave [] sw 1 u ∧ t = u.setWave { u.wave with ended := true, qclk := t.wave.qclk } ∧
         t.wave.qclk.toNat = (s.wave.qclk.toNat / 2 ^ s.ctx.qlog + 1) * 2 ^ s.ctx.qlog % 2 ^ 64)) ∧
   (∀ (sw : Bool) (l : BitVec 8) (n : BitVec 3) (b : Opd) (s : State), s.issuing = true → s.formTrap { xw := .no } (s.hintBad l n b) = none →
     Goes (.phint sw l n b) s fun t => ∃ u, Went s s.wave [] sw 1 u ∧
       let w : Wave := if u.wave.env.hm then u.wave else { u.wave with pre := { u.wave.pre with sinceCut := [] } }
       let taken : Wave := { w with pre := { w.pre with taken := true, full := false, lsm := l, ranges := hinted s n b } }
       (w.env.hm = false → w.st = .preempting → w.pre.taken = false → (w.held = .ready ∨ w.held = .parkedS) →
         t = { (u.setWave taken) with wgs := t.wgs }) ∧
       (w.env.hm = false → (w.st = .ready ∨ w.st = .parkedS) → pastForce u s.iss.cur →
         t = { (u.setWave { w with st := .shed, held := w.st }) with wgs := t.wgs }) ∧
       (¬ (w.env.hm = false ∧ w.st = .preempting ∧ w.pre.taken = false ∧ (w.held = .ready ∨ w.held = .parkedS)) →
         ¬ (w.env.hm = false ∧ (w.st = .ready ∨ w.st = .parkedS) ∧ pastForce u s.iss.cur) → t = { (u.setWave w) with wgs := t.wgs })) ∧
   (∀ (sw : Bool) (l : BitVec 8) (n : BitVec 3) (b : Opd) (s : State), s.issuing = true →
     s.formTrap { xw := .no } (!s.wg.kern.idm || s.hintBad l n b) = none →
     Goes (.idem sw l n b) s fun t => ∃ u, Went s s.wave [] sw 1 u ∧
       if s.wave.id.repro then t = u.setWave { u.wave with idem := { u.wave.idem with idv := false, pc := s.pc } }
       else
         let r : Idem := ⟨true, s.pc, l, hinted s n b, u.wave.qclk, s.iss.slot, s.mask, u.wave.pcs.slot (!s.iss.slot)⟩
         t = u.setWave { u.wave with pend := u.wave.pend.map fun p => { p with old := true }, idem := r })) ∧
  (∀ (x : Xw) (s : State), s.issuing = true →
     (s.iss.pfx = none → Goes (.xw x) s fun t => t = { s with iss := { s.iss with pfx := some x } }) ∧
     (∀ y, s.iss.pfx = some y → exec (.xw x) s = .next (s.takeTrap (s.wordTrap .illop))))

end

namespace Sys2Proof.Claims

open Sys2Proof.Machine

/-! ## The machine's own steps -/

/-- Lane `l` of vector register `r`. -/
def laneAt (w : Wave) (r l : Nat) : LaneVal := w.regs.v.get LaneVal.zero (64 * r + l)

/-- The scalar result of a wait or a timed wait, where it goes to an s register. -/
def gives (w : Wave) (d : Dest) (x : Word64) : Prop := ∀ r, d = .scal r → r < 48 → w.regs.s[r]? = some ⟨x, false⟩

/-- An open wait of one kind outside reproducible mode. -/
def waitsFor (w : Wave) (k : WaitKind) (x : Wait) : Prop := w.wait = some x ∧ x.kind = k ∧ x.met = false ∧ w.repro = false

/-- The start bytes of a launch port's window `h` with a store laid over them. -/
def windowBytes (m : FMap Byte) (h offset : Nat) (data : List Byte) : List Byte :=
  (List.range 64).map fun i => (stageBytes m offset data).get 0#8 (64 * h + i)

/-- A hart may store `n` bytes at an offset of the context's port: the window is its own, the store aligned and inside (R130, R314). -/
def portTakes (s : State) (asid offset n : Nat) : Prop :=
  s.portOpen asid (offset / 64) = true ∧ (n = 1 ∨ n = 2 ∨ n = 4 ∨ n = 8) ∧ offset % n = 0 ∧ offset + n ≤ 8192

/-- `t` holds the record `bytes` of a context at its address, as `u` reaches it: written where the context has W on MT 0 or MT 2 memory,
no byte of it being remote, twice the same, or in an absent run, and no hart holding a line (R88, R140). -/
def RecordAt (u t : State) (asid va : Nat) (bytes : List Byte) : Prop :=
  ∀ pas, va ≠ 0 → u.hubAddrs asid va bytes.length .store (fun m => m == 0#2 || m == 2#2) = some pas → pas.Nodup →
    (∀ a ∈ pas, a < 2 ^ 51 ∧ u.absentAt a = false) → u.harts.lines = [] → ∀ i, i < bytes.length → t.homeRead (pas.getD i 0) = bytes.getD i 0#8

/-- The bytes that a unit of a copy finds: of plain words of the scratchpad, or of local memory, none of which this copy has written
(R86, R89, R91). `ps` are the places in memory that it reads. -/
def UnitReads (s : State) (c : Copy) (ps : List (Nat × Bool)) (bs : List Byte) : Prop :=
  let d := copyDesc c.block
  let x := (d.srcAt c.unit).1
  let n := (d.srcAt c.unit).2
  if d.ssp then ps = [] ∧ (∀ a, c.alt.find (spmAlt a) = none) ∧
    (∀ i, i < n → ((s.wgAt c.wg).scratch.get LaneVal.zero ((x.toNat + i) / 4)).p = false) ∧
    bs = (List.range n).map fun i => spmByte (s.wgAt c.wg).scratch (x.toNat + i)
  else s.copyRun c .load n x = .ok ps ∧ (∀ p ∈ ps, isRemote p.1 = false ∧ c.alt.find p.1 = none) ∧ bs = ps.map (s.copySees c)

/-- The offset of a row over dimensions of these counts and strides, the first running fastest (R86). -/
def strideSum (dims : List (Nat × Int)) (row : Nat) : Int :=
  ((List.range dims.length).map fun j =>
    ((row / ((dims.take j).map (·.1)).prod % (dims.getD j (1, 0)).1 : Nat) : Int) * (dims.getD j (1, 0)).2).sum

/-- Which of two cores is taken first among those that fit: the cluster with fewer occupied slots, then its number; in a cluster the core with
fewer, then its number (R142). -/
def takenFirst (s : State) (a b : Nat) : Prop :=
  let cl (x : Nat) := s.clusterLoad (x / 4)
  let co (x : Nat) := (s.usedSlots x).length
  cl a < cl b ∨ (cl a = cl b ∧ (a / 4 < b / 4 ∨ (a / 4 = b / 4 ∧ (co a < co b ∨ (co a = co b ∧ a ≤ b)))))

/-- A kernel-table entry after a block (R138). -/
def entryAfter (s t : State) (asid kidx : Nat) (x : Option Nat) : Prop :=
  ∀ k, (t.ctxAt asid).kit.find k = if k = kidx then x else (s.ctxAt asid).kit.find k

end Sys2Proof.Claims

section

open Sys2Proof Sys2Proof.Machine Sys2Proof.Claims

/-- R72, R93, R97, R141, R164, R184, R186, R198, R222, R228 and R229, step by step. The model's choices here: a matrix command finds each
scratchpad word as at its issue or as at its retirement (DEDUCED from R74 and R9, log entry 34), and a lock or a declared word whose address
leads nowhere is not retried (DESIGN CHOICE, log entry 85); a pair's halves have a FIFO each (R105), but entries that share a byte keep their
order (DESIGN CHOICE, log entry 24). -/
def Obligations.WaveSteps : Prop :=
  (∀ (k n : Nat) (lanes : Lanes) (s : State) (p : Pend), (s.waveAt k).pend[n]? = some p → lanes &&& p.remaining ≠ 0#64 →
    Goes (.waveResultWriteback k n lanes) s fun t =>
      let m := lanes &&& p.remaining
      let left := p.remaining &&& ~~~m
      (t.waveAt k).pend = (if left = 0#64 then (s.waveAt k).pend.eraseIdx n else (s.waveAt k).pend.set n { p with remaining := left }) ∧
      (∀ r vals l, p.writes = [.vec r vals] → l < 64 →
        laneAt (t.waveAt k) r l = if m.getLsbD l then vals.getD l LaneVal.zero else laneAt (s.waveAt k) r l) ∧
      (∀ i v, p.writes = [.scal i v] → i < 48 → (t.waveAt k).regs.s[i]? = some v) ∧ t.mem = s.mem ∧ t.caches = s.caches) ∧
  (∀ (tick : Nat) (l rest : List Eff) (e : Eff), leavesNext tick l = some (e, rest) → ∃ older newer, l = older ++ e :: newer ∧
    rest = older ++ newer ∧ ∀ x ∈ older, x.upper ≠ e.upper ∧ ∀ a ∈ x.cells, a ∉ e.cells) ∧
  (∀ (tick : Nat) (l : List Eff), l ≠ [] → (leavesNext tick l).isSome = true) ∧
  (∀ (k : Nat) (s : State) (cs nc up : Bool) (bs : List (Nat × Byte)) (pages : List VPage) (rest : List Eff),
    leavesNext s.tick (s.waveAt k).fifo = some (.store cs nc up bs pages, rest) →
    (s.waveAt k).repro = false →
    Goes (.storeFifoDrain k) s fun t => ∃ u : State, t = u.reap (s.waveAt k).id.wgKey ∧ (u.waveAt k).fifo = rest ∧
      (let on := (bs.map (·.1)).filter (u.onItsWay (s.waveAt k).id.gcore)
       cs = false → on ≠ [] → (u.waveAt k).left.getLast? = some on) ∧
      u.mem = (s.performStore k (s.waveAt k).id.gcore cs nc bs pages).mem ∧
      u.caches = (s.performStore k (s.waveAt k).id.gcore cs nc bs pages).caches) ∧
  (∀ (core line : Nat) (s : State), Goes (.wcbLineWrite core line) s fun t => OnlyMemory s t ∧
    ∀ e, e ∈ t.caches.wcb ↔ e ∈ s.caches.wcb ∧ ¬ (keyUnit e.1 = core ∧ keyAddr e.1 / 128 = line)) ∧
  (∀ (cluster line : Nat) (s : State), Goes (.homeAccess cluster line) s fun t => OnlyMemory s t ∧
    ∀ e ∈ t.caches.l2, keyUnit e.1 = cluster → keyAddr e.1 / 128 = line → e.2.dirty = false) ∧
  (∀ (wg : Nat) (cid : BitVec 6) (s : State) (c : MmaCmd), (s.wgAt wg).mma.find? (fun c => c.cid == cid) = some c → s.mmaReady wg c = true →
    Goes (.mmaCommandStart wg cid) s (fun t => ∃ g, t = s.setWgAt wg g ∧ g = { s.wgAt wg with mma := g.mma } ∧
      g.mma = (s.wgAt wg).mma.map fun d => if d.cid = cid then { d with started := true } else d) ∧
    (c.started = true → ∀ con, Contract.ofCode (s.wgAt wg).kern.con.toNat = some con →
      Goes (.mmaCommandRetire wg cid) s fun t => ∃ u : State, t = u.reap wg ∧
        (u.wgAt wg).mma = ((s.wgAt wg).mma.filter fun d => d.cid != c.cid).map (fun d => { d with preds := d.preds.filter fun p => p != c.cid }) ∧
        (∀ i, i ≠ c.tile → (u.wgAt wg).tile i = (s.wgAt wg).tile i) ∧
        let now := s.spmViewOf wg c.wave
        ∃ m : FMap LaneVal, (∀ i, m.get LaneVal.zero i = c.seen.get LaneVal.zero i ∨ m.get LaneVal.zero i = now.get LaneVal.zero i) ∧
        let rows (x : OpMap) (n : Nat) := (List.range 32).map (mmaRow m x n con.rowScale)
        (u.wgAt wg).tile c.tile = (mmaTile con c.z c.na (rows c.mapA con.rowA) (rows c.mapB con.rowB) ((s.wgAt wg).tile c.tile)).1)) ∧
  (∀ (k : Nat) (slot : BitVec 2) (s : State) (w : Wave), s.waves.find k = some w → (w.cb[slot.toNat]?.getD Codebook.empty).valid = true →
    (w.cb[slot.toNat]?.getD Codebook.empty).ready = false →
    Goes (.codebookSlotReady k slot) s fun t => ∃ b, t = s.setWaveAt k { w with cb := w.cb.set! slot.toNat b } ∧
      b = { w.cb[slot.toNat]?.getD Codebook.empty with ready := true, remote := [], pages := [] }) ∧
  (∀ (die bank : Nat) (s : State), die < 16 → bank < 16 → Goes (.weightStoreRefresh die bank) s fun t =>
    (∃ r, t = { s with eng := { s.eng with refresh := r } }) ∧
    let cyc := s.dieCyc die
    (512 * bank ≤ cyc % 8192 ∧ cyc % 8192 < 512 * bank + 96 → t.eng.refresh.find (16 * die + bank) = some (cyc / 8192 + 1)) ∧
    (¬ (512 * bank ≤ cyc % 8192 ∧ cyc % 8192 < 512 * bank + 96) → t = s) ∧
    ∀ j, j ≠ 16 * die + bank → t.eng.refresh.find j = s.eng.refresh.find j) ∧
  (∀ (k : Nat) (s : State) (x : Word64) (d : Dest) (sw : Bool) (p : PcSlot), (s.waveAt k).timew = some (x, d, sw) → (s.waveAt k).ended = false →
    (s.waveAt k).st = .ready → x.toNat ≤ s.time → (s.waveAt k).repro = false →
    (s.waveAt k).pcs.slot (s.waveAt k).pcs.lastIssued = some p →
    Goes (.timewExpire k) s fun t => (t.waveAt k).timew = none ∧ gives (t.waveAt k) d (BitVec.ofNat 64 s.time) ∧
      (t.waveAt k).pcs.slot (s.waveAt k).pcs.lastIssued = some { p with pc := p.pc + 4#64 } ∧ (t.waveAt k).qclk = nextQclk (s.waveAt k)) ∧
  (∀ (k : Nat) (s : State) (x : Wait), (s.waveAt k).wait = some x → x.met = true → (s.waveAt k).repro = false →
    (s.waveAt k).st = .waitReg ∨ (s.waveAt k).st = .waitUnreg →
    Goes (.waitConditionMet k) s fun t => (t.waveAt k).wait = none ∧ gives (t.waveAt k) x.dst (if x.registered then 1#64 else 2#64) ∧
      (t.waveAt k).st ≠ .waitReg ∧ (t.waveAt k).st ≠ .waitUnreg ∧ ∀ e ∈ t.belay.waits, e.2.waiter ≠ k) ∧
  (∀ (k : Nat) (s : State) (x : Wait), waitsFor (s.waveAt k) .lock x → x.registered = false →
    (s.waitWordAt k x = none → Goes (.lockRetry k) s (· = s)) ∧
    ∀ pa, s.waitWordAt k x = some pa →
      let u := (s.moveWait k pa).homeTouch pa
      (u.home64 pa = 0 → Goes (.lockRetry k) s fun t => (t.waveAt k).wait = some { x with pa := pa, met := true } ∧
        t.mem = (u.homeWrite64 pa (2 ^ 63 + (s.waveAt k).id.handle.toNat)).mem) ∧
      (u.home64 pa ≠ 0 → Goes (.lockRetry k) s (· = u))) ∧
  (∀ (k : Nat) (s : State) (x : Wait), waitsFor (s.waveAt k) .waitv x →
    (s.waitWordAt k x = none → Goes (.waitvRetest k) s (· = s)) ∧
    ∀ pa, s.waitWordAt k x = some pa →
      let u := (s.moveWait k pa).homeTouch pa
      (u.home64 pa ≠ x.expect.toNat → Goes (.waitvRetest k) s fun t =>
        (t.waveAt k).wait = some { x with pa := pa, met := true } ∧ t.mem = u.mem) ∧
      (u.home64 pa = x.expect.toNat → Goes (.waitvRetest k) s (· = u))) ∧
  (∀ (k : Nat) (s : State) (w : Wave), s.waves.find k = some w → w.st = .resident →
    Goes (.waveStart k) s fun t =>
      let b := (s.launchAt w.id.launchKey).packet
      ((t.waveAt k).st = .ready ∨ (t.waveAt k).st = .shed) ∧ (∀ r l, laneAt (t.waveAt k) r l = LaneVal.zero) ∧
      (∀ e ∈ t.caches.l1, keyUnit e.1 ≠ w.id.gcore) ∧
      ∀ i, i < 48 → (t.waveAt k).regs.s[i]? = some
        (if i = 0 then ⟨BitVec.ofNat 64 (pktArgs b), false⟩ else if i = 1 then ⟨BitVec.ofNat 64 (pktNwg b), false⟩
         else if i = 2 then ⟨BitVec.ofNat 64 (pktKidx b), false⟩ else ScalVal.zero))

/-- R81, R86 to R89, R92, R93, R130, R132, R135 to R138, R140, R142, step by step. -/
def Obligations.CopyAndLaunchSteps : Prop :=
  (∀ (cluster : Nat) (s : State) (id : Nat) (c : Copy), s.eng.copies.find? (fun e => e.2.cluster == cluster && !e.2.started &&
      (!(copyDesc e.2.block).nbv || decide ((copyDesc e.2.block).nbtime ≤ s.time))) = some (id, c) →
    Goes (.tcopyStart cluster) s fun t => ∃ c', t.eng.copies.find id = some c' ∧ c' = { c with started := true, arrived := c'.arrived, diesLeft := c'.diesLeft } ∧
      t = { s with eng := { s.eng with copies := s.eng.copies.put id c', gates := t.eng.gates } } ∧
      ((copyDesc c.block).dws = false → c'.arrived = c.arrived ∧ c'.diesLeft = c.diesLeft ∧ t.eng.gates = s.eng.gates) ∧
      ((copyDesc c.block).dws = true → c'.arrived = true ∧ c'.diesLeft = (copyDesc c.block).dies ∧
        ∀ d ∈ (copyDesc c.block).dies, (t.eng.gates.get [] d).contains (.copy id) = true)) ∧
  (∀ (d : CopyDesc) (unit : Nat), (∀ x ∈ d.used, 1 ≤ x.count) → 0 < d.unitsPerRow →
    (d.srcAt unit).1 = (d.src : Int) + strideSum (d.used.map fun x => (x.count, x.ss)) (unit / d.unitsPerRow) +
      ((unit % d.unitsPerRow * fmtElems d.dfmt / max 1 (fmtElems d.sfmt) * fmtUnit d.sfmt : Nat) : Int) ∧
    (d.sfmt = d.dfmt → 0 < fmtElems d.sfmt → (d.srcAt unit).2 = fmtUnit d.sfmt) ∧
    d.dstAt unit = ((if d.dws then d.dst % 2 ^ 30 else d.dst : Nat) : Int) + strideSum (d.used.map fun x => (x.count, x.ds)) (unit / d.unitsPerRow) +
      ((unit % d.unitsPerRow * fmtUnit d.dfmt : Nat) : Int)) ∧
  (∀ (id : Nat) (s : State) (c : Copy) (ps : List (Nat × Bool)) (bs : List Byte), s.eng.copies.find id = some c → c.started = true →
    c.finished = false → UnitReads s c ps bs →
    let d := copyDesc c.block
    let r := copyConvert d bs (d.firstElem c.unit % max 1 (fmtElems d.sfmt))
    let x := d.dstAt c.unit
    (d.sfmt = d.dfmt → r = (bs, 0#6)) ∧
    (d.dws = false → d.dsp = false → c.commit = none → s.harts.lines = [] →
      ∀ qs, (s.copyTouch c ps).copyRun c .store r.1.length x = .ok qs → (qs.map (·.1)).Nodup → (∀ q ∈ qs, q.1 < 2 ^ 51) →
      Goes (.tcopyUnit id) s fun t => (∀ i, i < r.1.length → t.copySees c (qs.getD i (0, false)) = r.1.getD i 0#8) ∧
        ∃ c', t.eng.copies.find id = some c' ∧ c'.unit = c.unit + 1 ∧ c'.done = c.done + 1 ∧ c'.flags = c.flags ||| r.2 ∧
          c'.finished = decide (d.units ≤ c.unit + 1)) ∧
    (d.dws = false → d.dsp = true → c.commit = none → (s.wgs.find c.wg).isSome = true →
      Goes (.tcopyUnit id) s fun t => (∀ i, i < r.1.length → spmByte (t.wgAt c.wg).scratch (x.toNat + i) = r.1.getD i 0#8 ∧
          ((t.wgAt c.wg).scratch.get LaneVal.zero ((x.toNat + i) / 4)).p = false) ∧
        ∃ c', t.eng.copies.find id = some c' ∧ c'.unit = c.unit + 1 ∧ c'.done = c.done + 1 ∧ c'.flags = c.flags ||| r.2) ∧
    (d.dws = true → ∀ die, c.die = some die →
      let bank := x.toNat / 2 ^ 26
      let busy := 512 * bank ≤ s.dieCyc die % 8192 ∧ s.dieCyc die % 8192 < 512 * bank + 96
      (busy → Goes (.tcopyUnit id) s (· = s)) ∧
      (¬ busy → Goes (.tcopyUnit id) s fun t => ∀ i, i < r.1.length → t.caches.weights.get 0#8 (2 ^ 30 * die + (x.toNat + i)) = r.1.getD i 0#8))) ∧
  (∀ (id : Nat) (s : State) (c : Copy) (st : Nat) (va : Int), s.eng.copies.find id = some c → c.started = true → c.finished = false →
    let d := copyDesc c.block
    d.dws = false → d.ssp = false → s.copyRun c .load (d.srcAt c.unit).2 (d.srcAt c.unit).1 = .error (st, va) →
    Goes (.tcopyUnit id) s fun t => ∃ c' : Copy, t = { s with eng := { s.eng with copies := s.eng.copies.put id c' } } ∧
      c' = { c with finished := true, status := BitVec.ofNat 8 st, token := 0#32, faultVa := BitVec.ofInt 64 va, admitted := [], die := none }) ∧
  (∀ (id : Nat) (s : State) (c : Copy), s.eng.copies.find id = some c → c.finished = true → c.commit = none →
    ((copyDesc c.block).scope = 5 → ∀ x ∈ s.eng.outbox, x.engine = some (.copy id) → x.acked = true) →
    Goes (.tcopyComplete id) s fun t => t.eng.copies = s.eng.copies.erase id ∧
      let d := copyDesc c.block
      let u := if 3 ≤ d.scope then s.l2WriteBack c.cluster (fun _ => true) else s
      RecordAt u t c.asid d.rec_ ([c.status, c.flags.setWidth 8, 0#8, 0#8] ++ leBytes 4 c.token.toNat ++ leBytes 8 c.done ++
        leBytes 8 c.faultVa.toNat ++ List.replicate 8 0#8) ∧
      (d.semv = true → c.mute = false → s.semUsable d.semd c.cluster d.semidx c.asid = true →
        t.semCount d.semd c.cluster d.semidx = s.semCount d.semd c.cluster d.semidx + 1#32)) ∧
  (∀ (die : Nat) (s : State) (id : Nat) (rest : List GateReq) (c : Copy), s.eng.gates.get [] die = .copy id :: rest →
    s.eng.copies.find id = some c → s.wsOn die = false →
    Goes (.weightStoreGateAdmit die) s fun t => t.eng.gates = s.eng.gates.put die rest ∧
      t.eng.copies.find id = some { c with admitted := c.admitted ++ [die] }) ∧
  (∀ (asid offset : Nat) (data : List Byte) (s : State), portTakes s asid offset data.length →
    (offset % 64 < 0x38 → Goes (.launchPortStage asid offset data) s fun t =>
      t = s.setCtxAt asid { s.ctxAt asid with port := (t.ctxAt asid).port } ∧
      ∀ i, (t.ctxAt asid).port.get 0#8 i = if offset ≤ i ∧ i < offset + data.length then data.getD (i - offset) 0#8 else (s.ctxAt asid).port.get 0#8 i) ∧
    (0x38 ≤ offset % 64 → Goes (.launchPortEnqueue asid offset data) s fun t =>
      let b := windowBytes (s.ctxAt asid).port (offset / 64) offset data
      (t.ctxAt asid).pstat.get 0#64 (offset / 64) = pstatOf (s.portSubmit asid b).1.1 (s.portSubmit asid b).1.2
        (((s.ctxAt asid).pstat.get 0#64 (offset / 64)).toNat / 2 ^ 16 + if (s.portSubmit asid b).1.1 = 1 then 1 else 0) ∧
      (∀ i, i < 64 → (t.ctxAt asid).port.get 0#8 (64 * (offset / 64) + i) = 0#8) ∧ t.hub = (s.portSubmit asid b).2.hub ∧
      (fieldOf b 0 1 ≠ 4 → s.packetCheck b asid = none → s.queueFull (pktQueue b) = false →
        t.hub.queues.get [] (pktQueue b) = s.hub.queues.get [] (pktQueue b) ++ [(asid, b)]))) ∧
  (∀ (asid kidx desc : Nat) (s : State), (s.ctxAt asid).live = true → kidx < 1024 →
    (desc ≠ 0 → desc % 256 = 0 → desc < 2 ^ 64 → Goes (.kernelTableReplace asid kidx desc) s fun t => entryAfter s t asid kidx (some desc)) ∧
    Goes (.kernelTableClear asid kidx) s fun t => entryAfter s t asid kidx none) ∧
  (∀ (s : State) (asid : Nat) (b : List Byte), let c := s.ctxAt asid
    let entry := c.kit.find (pktKidx b)
    (entry = none → s.dispatchCheck asid b = .error 5) ∧
    (∀ desc, entry = some desc → (s.hubRead asid desc 256 = none → s.dispatchCheck asid b = .error 5) ∧
      ∀ bytes, s.hubRead asid desc 256 = some bytes → let k := kernelOf bytes
        (6 ≤ k.con.toNat → s.dispatchCheck asid b = .error 2) ∧
        (k.con.toNat < 6 → kernelOk bytes = false → s.dispatchCheck asid b = .error 5) ∧
        (k.con.toNat < 6 → kernelOk bytes = true → c.repro = true → (c.qlog < 8 ∨ 16 < c.qlog) → s.dispatchCheck asid b = .error 3) ∧
        (k.con.toNat < 6 → kernelOk bytes = true → (c.repro = true → 8 ≤ c.qlog ∧ c.qlog ≤ 16) →
          (s.bindClass k.con.toNat = none → s.dispatchCheck asid b = .error 1) ∧
          ∀ cls, s.bindClass k.con.toNat = some cls → (s.tooLarge c k cls b = true → s.dispatchCheck asid b = .error 4) ∧
            (s.tooLarge c k cls b = false → s.dispatchCheck asid b =
              .ok { k with cls := BitVec.ofNat 2 cls, nat := (nativeClasses k.con.toNat).contains cls })))) ∧
  (∀ (q : Nat) (s : State) (asid : Nat) (b : List Byte), s.chosenQueue = some q → s.headOf q = some (asid, b) →
    (∀ d, s.hub.lastDispatch = some d → d + 20 ≤ s.now) →
    Goes (.launchDispatch q) s fun t =>
      t.hub.queues.get [] q = (s.hub.queues.get [] q).tail ∧ t.hub.lastDispatch = some s.now ∧
      t.hub.dispatched = s.hub.dispatched + 1 ∧
      match s.dispatchCheck asid b with
      | .ok k => (t.ctxAt asid).bal = (s.ctxAt asid).bal - pktEest b ∧ ∃ l, t.launches = s.launches.put (launchKeyOf asid (s.freeTag asid)) l ∧
          l.packet = b ∧ l.queue = q ∧ l.prio = s.queuePrio q ∧ l.kern = k ∧ l.repro = (s.ctxAt asid).repro ∧ l.order = s.hub.dispatched + 1 ∧
          l.nextWg = 0 ∧ l.done = 0 ∧ l.killed = 0 ∧ l.energy = 0 ∧ l.hold = pktEest b ∧ l.tstart = s.time ∧ l.mute = false
      | .error st => t.launches = s.launches ∧ (t.ctxAt asid).bal = (s.ctxAt asid).bal ∧ (t.ctxAt asid).rsv = (s.ctxAt asid).rsv ∧
          ∃ v : State, v = { s with hub := v.hub, ctxs := v.ctxs } ∧ (v.ctxAt asid).root = (s.ctxAt asid).root ∧
            RecordAt (v.dispatchTouch asid b).releaseAll t asid (pktRec b)
              ([BitVec.ofNat 8 st] ++ List.replicate 15 0#8 ++ leBytes 8 s.time ++ leBytes 8 s.time)) ∧
  (∀ (wg : Nat) (s : State) (l : Launch) (cls : Nat), let lk := launchOfWg wg
    let asid := lk / 2 ^ 16
    s.launches.find lk = some l → l.waiting = true → s.mayPlace lk = true → wg % 2 ^ 40 = l.nextWg → asid < 1024 → l.nextWg < 2 ^ 32 →
    l.repro = false → pktCl l.packet = false → l.kern.ws = false → l.kern.nwave ≤ 32 → s.placeClass l.kern = some cls →
    s.stacksFit asid l.kern 1 = true →
    let fits (gc : Nat) : Prop := gc / 128 ∈ s.healthyDies cls ∧ s.fitsCore l.kern gc = true
    (∀ gc0, fits gc0 → Goes (.workgroupPlace wg) s fun t => t.launches.find lk = some { l with nextWg := l.nextWg + 1 } ∧
      ∃ gc, fits gc ∧ (∀ gc', fits gc' → takenFirst s gc gc') ∧ ∃ g, t.wgs.find (wgKeyOf asid (lk % 2 ^ 16) l.nextWg) = some g ∧
        g.die = gc / 128 ∧ g.core = gc % 128 ∧ g.kern = l.kern ∧ g.st = .placed ∧ g.index = BitVec.ofNat 32 l.nextWg ∧ g.ext = l.ext ∧
        ∀ i, i < l.kern.streams →
          let w := t.waveAt (waveKeyOf asid (lk % 2 ^ 16) ((32 * l.nextWg + if l.kern.paired then 2 * i else i) % 2 ^ 32))
          w.st = .resident ∧ w.id.core = BitVec.ofNat 7 (gc % 128) ∧ w.id.die = BitVec.ofNat 5 (gc / 128) ∧ w.qclk = 0#64) ∧
    ((∀ gc, ¬ fits gc) → Goes (.workgroupPlace wg) s (· = s))) ∧
  (∀ (k : Nat) (s : State) (l : Launch), s.launches.find k = some l → l.waiting = false → pktNwg l.packet ≤ l.done →
    let asid := k / 2 ^ 16
    Goes (.launchComplete k) s fun t => t.launches = s.launches.erase k ∧
      (t.ctxAt asid).bal = (s.ctxAt asid).bal + l.hold ∧ (t.ctxAt asid).rsv = (s.ctxAt asid).rsv + (if l.fromRsv then (l.hold : Int) else 0) ∧
      (∃ v : State, v = { s with launches := v.launches, ctxs := v.ctxs } ∧ (v.ctxAt asid).root = (s.ctxAt asid).root ∧
        RecordAt v.releaseAll t asid (pktRec l.packet) ([if l.killed = 0 then 0#8 else 6#8,
          BitVec.ofNat 8 (l.kern.cls.toNat + if l.kern.nat then 4 else 0), 0#8, 0#8] ++ leBytes 4 l.done ++ leBytes 8 (l.energy / 1000000) ++
          leBytes 8 l.tstart ++ leBytes 8 s.time)) ∧
      (pktSigv l.packet = true → l.mute = false → s.semUsable true 0 (pktSigidx l.packet) asid = true →
        t.semCount true 0 (pktSigidx l.packet) = s.semCount true 0 (pktSigidx l.packet) + 1#32))

end

namespace Sys2Proof.Claims

open Sys2Proof.Machine

/-- The collective of an operation under a request number, not performed yet, with its group readable. -/
structure CollReady (s : State) (op id : Nat) (c : Collective) (g : Group) : Prop where
  listed : s.eng.colls.find id = some c
  operation : collOp c.block = op
  opened : c.status = none
  group : s.groupOf c.asid c.block = some g

/-- What IN and OUT of a collective come to, once its group has been read: the addresses of their bytes, or a status and the failing
address (R324, R326). -/
def collIns (s : State) (c : Collective) (g : Group) : Except (Nat × Nat) (List Nat) :=
  (s.groupTouch c.asid c.block).collRun c.asid .load (collInElems c.block g.nrank * fmtUnit (collFmt c.block)) (collIn c.block)
def collOuts (s : State) (c : Collective) (g : Group) : Except (Nat × Nat) (List Nat) :=
  (s.groupTouch c.asid c.block).collRun c.asid .store (collOutElems c.block g.nrank * fmtUnit (collFmt c.block)) (collOut c.block)

/-- A wave but for its waiting, and for whether its divergence stack has been stored into (R108). -/
def unstray (w : Wave) : Wave := { noWait w with pcs := { w.pcs with stray := false } }

/-- No wave differs but for a value wait that a write at its home has met (R229), and for a divergence stack that was stored into (R108). -/
def SameWaves (s t : State) : Prop := ∀ k, (t.waves.find k).map unstray = (s.waves.find k).map unstray

/-- The bytes of OUT, `n` from `out` on, that can be written, by their addresses (R326). -/
def writable (s : State) (asid out n : Nat) : List Nat :=
  (List.range n).filterMap fun i => match s.collRun asid .store 1 (out + i) with
    | .ok [a] => some a
    | _ => none

/-- `t` is `s` after request `id` came to its end as `c`, with bytes for OUT in local memory: at their homes at once, or, of a reproducible
launch, held for its commit (R126). -/
def Ends (s : State) (id : Nat) (c : Collective) (ps : List (Nat × Byte)) (t : State) : Prop :=
  (c.commit = none → t =
    let u := ((s.strays c.asid (ps.map (·.1))).gatherHome (ps.map (·.1))).homeWrite ps
    { u with eng := { u.eng with colls := u.eng.colls.put id c } }) ∧
  (c.commit ≠ none → t =
    let h : Collective := { c with held := ps, pages := if ps.isEmpty then [] else pagesOf ps.length [collOut c.block] }
    { s with eng := { s.eng with colls := s.eng.colls.put id h } })

/-- `t` is `s` after request `id` ended with a status other than 0: the bytes of OUT that can be written hold values of which nothing is said
(R326), if all of them lie in local memory. -/
def Fails (s : State) (id : Nat) (c : Collective) (ranks status : Nat) (va peer : Nat) (t : State) : Prop :=
  let out := writable s c.asid (collOut c.block) (collOutElems c.block ranks * fmtUnit (collFmt c.block))
  SameWaves s t ∧ ((∀ a ∈ out, isRemote a = false) → ∃ ps, ps.map (·.1) = out ∧
    Ends s id { c with status := some (BitVec.ofNat 8 status), faultVa := BitVec.ofNat 64 va, peer := peer } ps t)

/-- The instruction of a collective's operation. -/
def collInstr (op id : Nat) : Instr :=
  match op with
  | 0 => .allReduce id
  | 1 => .reduceScatter id
  | 2 => .allGather id
  | _ => .broadcast id

/-- What the held stores of a launch's waves write, wave by wave in the order of the waves' keys, each wave's in program order (R123). -/
def heldBytes (s : State) (lk : Nat) : List (List (Nat × Byte)) :=
  (s.liveOf lk).flatMap fun e => e.2.fifo.filterMap fun x => match x with
    | .store false _ _ bytes _ => some bytes
    | _ => none

/-- A wave gives its priority to another: it waits, through a registered entry, on an object of which the other is a holder (R234). -/
def Gives (s : State) (j k : Nat) : Prop :=
  j ≠ k ∧ (∃ w, (j, w) ∈ s.waves) ∧ s.hasEntry j = true ∧ ∃ o, s.waitsOn j = some o ∧ k ∈ s.holders o

/-- The same through a chain of so many waits. -/
def GivesThrough (s : State) : Nat → Nat → Nat → Prop
  | 0, j, k => j = k
  | n + 1, j, k => ∃ m, Gives s m k ∧ GivesThrough s n j m

/-- The first workgroups of a launch's cluster launches (R224). -/
def firstsOf (s : State) (launch : Nat) : List (Nat × Wg) :=
  s.wgs.filter fun e => launchKeyOf e.2.asid.toNat e.2.ltag.toNat == launch && e.2.clustered && e.2.cwg == 0#2

end Sys2Proof.Claims

section

open Sys2Proof Sys2Proof.Machine Sys2Proof.Claims

/-- R324 to R326. The other ranks' elements, whether and when they agree, and the status of an unreadable group are log entry 21 (DESIGN CHOICE). -/
def Obligations.CollectiveSteps : Prop :=
  (∀ (op id : Nat) (s : State) (c : Collective) (g : Group), op < 4 → CollReady s op id c g →
    let u := s.groupTouch c.asid c.block
    (∀ ins outs, collIns s c g = .ok ins → collOuts s c g = .ok outs → Goes (collInstr op id) s fun t =>
      match Config.peerMismatch u.tick with
      | none => SameWaves s t ∧ ((∀ a ∈ ins ++ outs, isRemote a = false) →
          let home := (u.gatherHome ins).homeTouches ins
          let rs := collResult u.tick g c.block (ins.map home.homeRead)
          ∃ v, Ends home id { c with status := some 0#8, elems := collOutElems c.block g.nrank,
                                     flags := if collFmt c.block = 13 then 0#6 else orAll (rs.map (·.flags)) }
              (outs.zip (rs.flatMap fun r => leBytes (fmtUnit (collFmt c.block)) r.bits)) v ∧ t = { v with tick := t.tick })
      | some r => Fails u id c g.nrank 6 0 (g.accels.getD r 0) t) ∧
    ∀ e, (collIns s c g = .error e ∨ ∃ ins, collIns s c g = .ok ins ∧ collOuts s c g = .error e) →
      Goes (collInstr op id) s (Fails u id c g.nrank e.1 e.2 0)) ∧
  (∀ (op id : Nat) (s : State) (c : Collective), op < 4 → s.eng.colls.find id = some c → collOp c.block = op → c.status = none →
    s.groupOf c.asid c.block = none → Goes (collInstr op id) s fun t =>
      ∃ va v, Fails s id c (s.nrankOf c.asid c.block) 4 va 0 v ∧ t = { v with tick := s.tick + 1 }) ∧
  (∀ (tick : Nat) (g : Group) (mine : List Byte) (i : Nat), 1 ≤ g.nrank →
    (collReduce tick g 0 13 mine i).bits = ((List.range g.nrank).map fun r => collElem tick g 4 mine r i).sum % 2 ^ 32) ∧
  (∀ (tick : Nat) (g : Group) (b mine : List Byte) (i : Nat), (collResult tick g b mine).length = collOutElems b g.nrank ∧
    (i < collCount b → collOp b = 3 →
      ((collResult tick g b mine)[i]?.map (·.bits)) = some (collElem tick g (fmtUnit (collFmt b)) mine (collRoot b) i)) ∧
    ∀ r, i < collCount b → r < g.nrank → collOp b = 2 →
      ((collResult tick g b mine)[r * collCount b + i]?.map (·.bits)) = some (collElem tick g (fmtUnit (collFmt b)) mine r i)) ∧
  (∀ (c : Collective) (st : BitVec 8), c.status = some st →
    collRecord c = leBytes 8 (st.toNat + c.flags.toNat * 2 ^ 8) ++ leBytes 8 c.elems ++ leBytes 8 c.faultVa.toNat ++ leBytes 8 c.peer) ∧
  (∀ (id : Nat) (s : State) (c : Collective), s.eng.colls.find id = some c →
    let ended := c.status ≠ none ∧ (∀ x ∈ s.eng.outbox, x.engine = some (.coll id) → x.acked = true)
    (¬ ended → Goes (.collectiveComplete id) s (· = s)) ∧
    (ended → (c.commit = none ∨ ∀ e ∈ s.wavesOfLaunch c.launch, e.2.st = .exited) → Goes (.collectiveComplete id) s fun t =>
      let u := if c.held = [] then s else
        ((s.strays c.asid (c.held.map (·.1))).gatherHome (c.held.map (·.1))).homeWrite c.held
      t.eng.colls = s.eng.colls.erase id ∧
      t.mem = (u.writeRecord c.asid (collRec c.block) (collRecord c)).mem ∧
      (collSemv c.block = true → c.mute = false → s.semUsable true 0 (collSem c.block) c.asid = true →
        t.semCount true 0 (collSem c.block) = s.semCount true 0 (collSem c.block) + 1#32) ∧
      ((collSemv c.block = false ∨ c.mute = true) → t.hub = s.hub))) ∧
  (∀ (id : Nat) (s : State) (c : Collective), s.eng.colls.find id = some c → c.status = none →
    (c.submitted + 1000 * s.sys.colto.toNat ≤ s.now + Config.peerLead s.tick → Goes (.collectiveTimeout id) s fun t =>
      ∃ ranks p, Fails s id c ranks 7 0 p t) ∧
    (s.now + Config.peerLead s.tick < c.submitted + 1000 * s.sys.colto.toNat → Goes (.collectiveTimeout id) s (· = s)))

/-- R121, R123, R233, R234, R235, R237, R238, R240. That a commit's remote stores go out before the rest of it, and that what the engines complete at
it takes effect first, is the model's choice (log entries 31 and 82, DESIGN CHOICE), and so is that a Shed wave takes DEADLOCK at once (log entry 64). -/
def Obligations.CommitAndBelaySteps : Prop :=
  (∀ (lk : Nat) (s : State) (l : Launch), s.launches.find lk = some l → s.mayCommit lk = true →
    let leaves := ∃ e ∈ s.liveOf lk, e.2.fifo.any Eff.goesOut = true
    let owed := ∃ e ∈ s.liveOf lk, s.unacked e.1 ≠ 0
    (leaves → Goes (.quantumCommit lk) s fun t => t.launches = s.launches ∧ t.mem = s.mem ∧ t.wgs = s.wgs ∧
      ∀ e ∈ s.liveOf lk, (t.waveAt e.1).fifo.any Eff.goesOut = false) ∧
    (¬ leaves → owed → Goes (.quantumCommit lk) s (· = s)) ∧
    (¬ leaves → ¬ owed → Goes (.quantumCommit lk) s fun t =>
      t.launches.find lk = some { t.launchAt lk with quantum := l.quantum + 1, seen := (t.hub.sem, t.hub.csem) } ∧
      (∀ e ∈ s.liveOf lk, ∀ w, t.waves.find e.1 = some w → w.st ≠ .exited →
        w.qclk = BitVec.ofNat 64 ((l.quantum + 1) * 2 ^ (t.ctxAt (lk / 2 ^ 16)).qlog)) ∧
      (FMap.Sorted s.waves →
        (∀ e ∈ s.liveOf lk, e.2.wait = none ∧ ∀ x ∈ e.2.fifo, ∃ nc up bytes pages, x = .store false nc up bytes pages) →
        s.commitCopies lk = [] → s.commitColls lk = [] → (∀ r ∈ s.eng.leaseRecs, r.launch ≠ some lk) →
        (s.liveOf lk).Pairwise (fun a b => a.1 < b.1) ∧ t.mem = ((heldBytes s lk).foldl (fun u bytes => u.homeWrite bytes) s.releaseAll).mem ∧
          ∀ e ∈ s.liveOf lk, (t.waveAt e.1).fifo = []))) ∧
  (∀ (launch b wg : Nat) (s : State) (g : Wg), b < 8 → s.wgs.find wg = some g → firstsOf s launch = [(wg, g)] →
    let peers := clusterPeers g.asid.toNat g.ltag.toNat g.index.toNat
    (∀ p ∈ peers, (s.wgAt p).st ≠ .saved ∧ s.liveMask p &&& ~~~(s.wgAt p).cbars[b]! = 0#32) → (∃ p ∈ peers, (s.wgAt p).cbars[b]! ≠ 0#32) →
    Goes (.clusterBarrierHeldRelease launch b) s fun t => t = s.completeCbars wg ∧ ∀ p ∈ peers, (t.wgAt p).cbars[b]! = 0#32) ∧
  (∀ s : State, Goes .priorityInheritanceUpdate s fun t => t = { s with waves := t.waves } ∧
    ∀ k w, s.waves.find k = some w → ∃ p : BitVec 3, t.waves.find k = some { w with env := { w.env with eff := p } } ∧
      (∀ n j, n ≤ s.waves.length → GivesThrough s n j k → (s.waveAt j).env.shedBase ≤ p) ∧
      ∃ n j, n ≤ s.waves.length ∧ GivesThrough s n j k ∧ (s.waveAt j).env.shedBase = p) ∧
  (∀ s : State, (s.now / 50000 = s.belay.scanned → Goes .deadlockScan s (· = s)) ∧
    (s.now / 50000 ≠ s.belay.scanned → Goes .deadlockScan s fun t => t.belay.scanned = s.now / 50000 ∧
      ((∀ k, s.cycleOf k = none) → (∀ o ∈ s.belay.objs, o.2.orph = false) →
        t = { s with belay := { s.belay with scanned := s.now / 50000 } }) ∧
      ∀ before k after path v, s.waves.keys = before ++ k :: after → (∀ j ∈ before, s.cycleOf j = none) → s.cycleOf k = some path →
        (∃ e ∈ path, e.1 = v) → (∀ e ∈ path, e.1 ≠ v → s.stampOf e.1 < s.stampOf v) →
        let u := s.deadlockWave v (path.dropWhile (fun e => e.1 != v) ++ path.takeWhile fun e => e.1 != v) false
        (∀ j ∈ after, u.cycleOf j = none) → (∀ o ∈ u.belay.objs, o.2.orph = false) →
        t = { u with belay := { u.belay with scanned := s.now / 50000 } })) ∧
  (∀ (s : State) (k : Nat) (path : List (Nat × ObjRef)) (orph : Bool),
    let w := s.waveAt k
    let t := s.deadlockWave k path orph
    let u := (match w.wait with | some x => s.withdraw k x | none => s).dropEntry k
    (t.waveAt k).wait = none ∧ (∀ e ∈ t.belay.waits, e.2.waiter ≠ k) ∧
    ∃ va v, RecordWritten u w.id.asid.toNat va (cycleRecord u path (if orph then 5 else 1)) v ∧
      let m := ((w.pcs.slot w.pcs.lastIssued).map (·.mask)).getD 0#64
      let trap : Trap := ⟨.deadlock, BitVec.ofNat 64 va, BitVec.ofNat 64 va, m⟩
      ((w.st = .waitReg ∨ w.st = .shed) →
        t = (v.setWaveAt k { (v.waveAt k) with wait := none, st := .ready, held := .ready }).takeTrapAt k w.pcs.lastIssued trap) ∧
      (w.st ≠ .waitReg → w.st ≠ .shed → t = v.setWaveAt k { (v.waveAt k) with wait := none, held := .ready, trapPend := some trap })) ∧
  (∀ (k : Nat) (s : State) (w : Wave), s.waves.find k = some w → w.env.shedClass.toNat < s.pw.cut → s.isCut k = false →
    (s.wavesOfWg w.id.wgKey).any (fun e => e.2.st == .shed) = true →
    Goes (.shedExemptionReturn k) s fun t => ∀ j v, s.waves.find j = some v →
      t.waves.find j = some (if v.id.wgKey = w.id.wgKey ∧ v.st = .shed then { v with st := v.held } else v))

end

namespace Sys2Proof.Claims

open Sys2Proof.Machine

/-- The first lease command waiting is context `asid`'s, of operation `op`, with block `b`, submitted by launch `l` if it is reproducible. -/
def leaseHead (s : State) (asid op : Nat) (b : List Byte) (l : Option Nat) : Prop :=
  s.eng.leaseReqs.head? = some ⟨asid, b, l⟩ ∧ fieldOf b 4 4 = op

/-- The lease a request gets: from now for DUR microseconds (R306). -/
def leaseFrom (s : State) (asid : Nat) (b : List Byte) : Lease :=
  { asid := asid, plim := fieldOf b 12 4, dies := BitVec.ofNat 16 (fieldOf b 8 4), dur := fieldOf b 16 4, sem := leaseSem b,
    endNs := s.now + 1000 * fieldOf b 16 4, ramped := false, noticed := false, revoked := false }

/-- The semaphore of a lease goes up by one where it has one that the context may use (R307). -/
def leaseSignals (s t : State) (l : Lease) : Prop :=
  ∀ n, l.sem = some n → s.semUsable true 0 n l.asid = true → t.semCount true 0 n = s.semCount true 0 n + 1#32

/-- The power arbiter's state where the clock or the voltage of some dies is on its way and the budget is to be set again (R18, R307). -/
def underWay (p : Power) (dies : BitVec 16) : Power := { p.setPoints dies .transition with pending := some false }

/-- What ends a lease: none is held, the clock of its dies falls, the budget is to be set again, the cooldown of its DUR begins (R307). -/
def leaseOver (s t : State) (l : Lease) : Prop :=
  t.eng.lease = none ∧ t.eng.coolUntil = s.now + 1000 * l.dur ∧ t.pw = underWay s.pw l.dies ∧ leaseSignals s t l

/-- The power drawn in the epoch that ends, in pJ, PSTATIC included (R305). -/
def drawOf (p : Power) : Int := (p.pstatic * 1000000 + (p.charge.map (·.2)).sum : Nat)

/-- What a forced shed makes of a wave at once: in handler mode or in a TIMEW it is shed where it is, with the idempotent right at its
IDEM; any other is not shed at once (R254, R301, R448). -/
def shedAtOnce (w : Wave) : Option Wave :=
  if w.env.hm then some { w with st := .shed, held := .ready }
  else if w.idem.idv then some { w.rewind with st := .shed, held := .ready }
  else if w.timew.isSome then some { w with timew := none, st := .shed, held := .ready }
  else none

/-- A wave whose class is restored goes back to the state it held (R114, R302). -/
def restored (w : Wave) : Wave := { w with st := if w.st = .shed then w.held else w.st }

end Sys2Proof.Claims

section

open Sys2Proof Sys2Proof.Machine Sys2Proof.Claims

/-- R306, R307. The order of the statuses, the increment of SEM on a release, the cooldown of the DUR asked for, the end only after a notice, and a
revoked lease's END of now plus 200 microseconds are the model's reading (log entry 52, DEDUCED); END in a refused record is a free value
(log entry 18). -/
def Obligations.LeaseSteps : Prop :=
  (∀ (asid : Nat) (s : State) (b : List Byte) (lk : Option Nat), leaseHead s asid 0 b lk →
    let ok := s.eng.lease = none ∧ (fieldOf b 12 4 : Int) ≤ s.pw.targetNow ∧ s.pw.statByte.getLsbD 1 = false ∧ s.pw.tl = false ∧ s.pw.cut = 0
    let queued (st stop : Nat) : LeaseRec := ⟨asid, fieldOf b 24 8, BitVec.ofNat 8 st, stop, lk⟩
    (ok → s.eng.coolUntil ≤ s.now → Goes (.leaseRequest asid) s fun t => t.eng.lease = some (leaseFrom s asid b) ∧
      t.eng.leaseReqs = s.eng.leaseReqs.tail ∧ t.eng.leaseRecs = s.eng.leaseRecs ++ [queued 0 (s.now + 1000 * fieldOf b 16 4)] ∧
      t.pw = underWay s.pw (leaseFrom s asid b).dies) ∧
    (¬ (ok ∧ s.eng.coolUntil ≤ s.now) → Goes (.leaseRequest asid) s fun t => t.eng.lease = s.eng.lease ∧ t.pw = s.pw ∧
      t.eng.leaseReqs = s.eng.leaseReqs.tail ∧
      ∃ stop, t.eng.leaseRecs = s.eng.leaseRecs ++ [queued (if s.eng.lease.isSome then 1 else if ¬ ok then 2 else 3) stop])) ∧
  (∀ (asid : Nat) (s : State) (b : List Byte) (lk : Option Nat), leaseHead s asid 1 b lk →
    (∀ l, s.eng.lease = some l → l.asid = asid → Goes (.leaseRelease asid) s fun t => leaseOver s t l ∧
      t.eng.leaseRecs = s.eng.leaseRecs ++ [⟨asid, fieldOf b 24 8, 4#8, s.now, lk⟩]) ∧
    ((∀ l, s.eng.lease = some l → l.asid ≠ asid) → Goes (.leaseRelease asid) s fun t => t.eng.lease = s.eng.lease ∧ t.pw = s.pw ∧
      ∃ stop, t.eng.leaseRecs = s.eng.leaseRecs ++ [⟨asid, fieldOf b 24 8, 5#8, stop, lk⟩])) ∧
  (∀ (s : State) (r : LeaseRec) (rest : List LeaseRec), s.eng.leaseRecs = r :: rest → r.launch = none → Goes .leaseRecordWrite s fun t =>
    t.eng.leaseRecs = rest ∧
    t.mem = (s.releaseAll.writeRecord r.asid r.addr (bytes64 r.status.toNat ++ bytes64 r.endNs ++ zeros 16)).mem) ∧
  (∀ (s : State) (l : Lease), s.eng.lease = some l →
    (l.ramped = false → Goes .boostClockRaise s
      (· = { s with eng := { s.eng with lease := some { l with ramped := true } }, pw := s.pw.setPoints l.dies .boost })) ∧
    (l.ramped = true → Goes .boostClockRaise s (· = s)) ∧
    (l.noticed = false → l.endNs ≤ s.now + 200000 → Goes .leaseNotice s fun t =>
      t.eng.lease = some { l with noticed := true } ∧ leaseSignals s t l) ∧
    (l.noticed = true ∨ s.now + 200000 < l.endNs → Goes .leaseNotice s (· = s)) ∧
    (l.noticed = true → l.endNs ≤ s.now → Goes .leaseEnd s fun t => leaseOver s t l) ∧
    (l.noticed = false ∨ s.now < l.endNs → Goes .leaseEnd s (· = s)))

/-- R293, R295 to R297, R300 to R305. The forced shed in handler mode and in a TIMEW, the rewind in place, and the restarted hold time are the
model's reading beside R254, R266 and R448 (log entry 46, DEDUCED); the draw of an epoch as PSTATIC plus its charges, the 50 complete epochs of P_c
and the N of the epoch's start are log entry 53 (DEDUCED). -/
def Obligations.PowerSteps : Prop :=
  (∀ (data : List Byte) (s : State), (frameOk data = true → Goes (.stpFrame data) s
      (· = { s with pw := { s.pw with sample := data, lastFrame := s.now, tl := false, pending := some true } })) ∧
    (frameOk data = false → Goes (.stpFrame data) s fun t => t = { s with pw := { s.pw with stperr := t.pw.stperr } } ∧
      t.pw.stperr.toNat = min 0xFFFF (s.pw.stperr.toNat + 1))) ∧
  (∀ s : State, s.pw.tl = false → (s.pw.lastFrame + 200000 ≤ s.now → Goes .telemetryLoss s
      (· = { s with pw := { s.pw with tl := true, pending := some false, restoreSince := none } })) ∧
    (s.now < s.pw.lastFrame + 200000 → Goes .telemetryLoss s (· = s))) ∧
  (∀ (s : State) (b : Bool), s.pw.pending = some b → Goes .budgetUpdate s fun t =>
    t.pw.target = s.pw.targetNow ∧ t.pw.budget = min s.pw.targetNow s.eng.cap ∧ t.pw.pending = none ∧
    t.pw.refill = s.pw.refillOf t.pw.budget ∧ (∀ c a, s.pw.allow.find c = some a → t.pw.allow.find c = some (min a (t.pw.refill : Int))) ∧
    (t.pw.budget * 50000000 < s.pw.loadFrom s.pw.cut → s.pw.cut < t.pw.cut ∧ t.pw.cut ≤ 8 ∨ 8 ≤ s.pw.cut) ∧
    (∀ l, s.eng.lease = some l → t.eng.lease = some (if t.pw.target < l.plim ∧ l.revoked = false then
      { l with endNs := s.now + 200000, revoked := true } else l)) ∧
    (s.pw.loadFrom s.pw.cut ≤ t.pw.budget * 50000000 → t.pw.cut = s.pw.cut ∧ t.waves = s.waves ∧ t.wgs = s.wgs) ∧
    (t.pw.cut ≠ s.pw.cut → t.pw.cut < 8 → s.pw.loadFrom t.pw.cut ≤ t.pw.budget * 50000000 ∧
      ∀ k, s.pw.cut < k → k < t.pw.cut → t.pw.budget * 50000000 < s.pw.loadFrom k)) ∧
  (∀ (s : State) (since : Nat), s.pw.restoreSince = some since → 0 < s.pw.cut →
    (since + s.pw.thold * 50000 ≤ s.now → Goes .classRestore s fun t =>
      let u := { s with pw := { s.pw with cut := s.pw.cut - 1, restoreSince := some s.now } }
      t.pw = u.pw ∧ ∀ k w, s.waves.find k = some w → t.waves.find k = some (if u.isCut k then w else restored w)) ∧
    (s.now < since + s.pw.thold * 50000 → Goes .classRestore s (· = s))) ∧
  (∀ (k : Nat) (s : State) (w : Wave), s.waves.find k = some w → pastForce s k → w.st = .ready →
    (∀ v, shedAtOnce w = some v → Goes (.forcedShedStart k) s fun t => t.waves.find k = some v ∧
      (∀ p, w.pcs.slot w.idem.slot = some p → (w.rewind).pcs.slot w.idem.slot = some { p with pc := w.idem.pc + 4#64, mask := w.idem.mask }) ∧
      w.rewind.pend = w.pend.filter (·.old) ∧ w.rewind.qclk = w.idem.qclk ∧ w.rewind.regs = w.regs) ∧
    (shedAtOnce w = none → Goes (.forcedShedStart k) s (· = s))) ∧
  (∀ (k : Nat) (s : State) (w : Wave), s.waves.find k = some w → (¬ pastForce s k ∨ w.st ≠ .ready) →
    Goes (.forcedShedStart k) s (· = s) ∧ Goes (.shedInstructionLimit k) s (· = s)) ∧
  (∀ (k : Nat) (s : State) (w : Wave), s.waves.find k = some w → pastForce s k → w.st = .ready →
    (∀ v, shedAtOnce w = some v → Goes (.shedInstructionLimit k) s fun t => t.waves.find k = some v) ∧
    (shedAtOnce w = none → 2 * (s.wgAt w.id.wgKey).kern.phintmax ≤ w.pre.sinceCut.get 0 w.env.shedClass.toNat → Goes (.shedInstructionLimit k) s fun t =>
      t.waves.find k = some { w with st := .shed, held := .ready }) ∧
    (shedAtOnce w = none → w.pre.sinceCut.get 0 w.env.shedClass.toNat < 2 * (s.wgAt w.id.wgKey).kern.phintmax → Goes (.shedInstructionLimit k) s (· = s))) ∧
  (∀ s : State, (s.now / 1000 < s.pw.epoch → Goes .allowanceEpoch s (· = s)) ∧
    (s.pw.epoch ≤ s.now / 1000 → Goes .allowanceEpoch s fun t =>
      t.pw.epoch = s.pw.epoch + 1 ∧ t.pw.nact = max 1 s.activeClusters.length ∧ t.pw.charge = [] ∧ t.pw.last = s.ballast.pw.charge ∧
      (∀ c, c ∉ s.activeClusters → t.pw.allow.find c = s.pw.allow.find c) ∧
      (∀ c ∈ s.activeClusters, t.pw.allow.get 0 c = min (s.pw.allow.get 0 c + t.pw.refill) t.pw.refill) ∧
      (drawOf s.ballast.pw ≤ s.pw.budget * 1000000 → t.pw.ovsCount = s.pw.ovsCount ∧ t.pw.ovsEnergy = s.pw.ovsEnergy ∧ t.pw.ballastOff = false) ∧
      (s.pw.budget * 1000000 < drawOf s.ballast.pw → s.pw.ballastOff = false →
        (t.pw.ovsEnergy : Int) = s.pw.ovsEnergy + (drawOf s.ballast.pw - s.pw.budget * 1000000) ∧
        t.pw.ovsCount.toNat = (if s.pw.overSince = none then min (2 ^ 32 - 1) (s.pw.ovsCount.toNat + 1) else s.pw.ovsCount.toNat)))) ∧
  (∀ (s : State) (since : Nat), s.pw.overSince = some since →
    (since + 20000 ≤ s.now → Goes .ballastOvercapLimit s (· = { s with pw := { s.pw with ballastOff := true, overSince := none } })) ∧
    (s.now < since + 20000 → Goes .ballastOvercapLimit s (· = s))) ∧
  (∀ (cluster : Nat) (v : BitVec 16) (s : State), cluster < 512 →
    (v ≠ 0#16 → Goes (.clkpatWrite cluster v) s (· = { s with pw := { s.pw with clkpatNext := s.pw.clkpatNext.put cluster v } })) ∧
    (v = 0#16 → Goes (.clkpatWrite cluster v) s (· = s))) ∧
  (∀ s : State, let due (c : Nat) : Prop := s.dieCyc (c / 32) % 16 = 0
    Goes .clkpatApply s fun t => t = { s with pw := { s.pw with clkpat := t.pw.clkpat, clkpatNext := t.pw.clkpatNext } } ∧
      (∀ e, e ∈ t.pw.clkpatNext ↔ e ∈ s.pw.clkpatNext ∧ ¬ due e.1) ∧
      (∀ c v, s.pw.clkpatNext = [(c, v)] → due c → t.pw.clkpat.get 0xFFFF#16 c = v) ∧
      ∀ c, s.pw.clkpatNext.find c = none ∨ ¬ due c → t.pw.clkpat.get 0xFFFF#16 c = s.pw.clkpat.get 0xFFFF#16 c)

end

namespace Sys2Proof.Claims

open Sys2Proof.Machine

/-- A wave is listed, once. -/
def onlyWave (s : State) (k : Nat) (w : Wave) : Prop := s.waves.filter (fun e => e.1 == k) = [(k, w)]

/-- A wave that was listed has ended: it is exited, or its workgroup has completed. -/
def waveEnded (t : State) (k : Nat) : Prop := ∀ w, t.waves.find k = some w → w.st = .exited

/-- A workgroup's state right before its image is written: its waves' results, codebooks and stores are finished (R260). -/
def quiesced (s : State) (wg : Nat) : State := ((s.wavesOfWg wg).foldl (fun s e => s.quiesce e.1) s).settleWg wg

/-- The size of the smallest image that can come of a request: no segment and no page saved (R261). -/
def leastSize (s : State) (wg : Nat) (g : Wg) : Nat :=
  units4k (g.kern.leastImage ((s.liveWaves wg).map fun e => if e.2.id.paired then 2 else 1).sum)

/-- A wave under a request that goes back to its IDEM: it holds the right, runs no handler, is not shed, and is Ready, parked at an S
marker or waiting (R254, R266). -/
def goesBack (w : Wave) : Prop :=
  w.idem.idv = true ∧ w.env.hm = false ∧ w.pre.shed = false ∧ w.held ∈ [.ready, .parkedS, .waitReg, .waitUnreg]

/-- The bytes of a workgroup's image (R262, R263). -/
def imageOf (u : State) (wg : Nat) : List Byte := imageBytes (u.wgAt wg) ((u.liveWaves wg).map (·.2))

end Sys2Proof.Claims

section

open Sys2Proof Sys2Proof.Machine Sys2Proof.Claims

/-- R260 to R264, R266. -/
def Obligations.PreemptionSteps : Prop :=
  (∀ (wg : Nat) (s : State) (g : Wg), s.wgs.find wg = some g → g.st = .placed ∨ g.st = .shedding ∨ g.st = .shed →
    s.liveWaves wg ≠ [] → s.mayPreempt wg = true →
    ((s.ctxAt g.asid.toNat).imageRun wg (leastSize s wg g) ≠ none → Goes (.preemptionRequest wg) s fun t =>
      t.wgs.find wg = some { g with st := .preempting, preReq := true } ∧
      ∀ k w, s.waves.find k = some w → (k, w) ∈ s.liveWaves wg → (t.waveAt k).st = .preempting) ∧
    ((s.ctxAt g.asid.toNat).imageRun wg (leastSize s wg g) = none → Goes (.preemptionRequest wg) s (· = s))) ∧
  (∀ (c : Ctx) (wg size a : Nat), c.imageRun wg size = some a → c.saveBase ≤ a ∧ a + size ≤ c.saveBase + c.saveSize ∧
    ∀ e ∈ c.images, e.1 ≠ wg → a + size ≤ e.2.1 ∨ e.2.1 + e.2.2 ≤ a) ∧
  (∀ (k : Nat) (s : State) (w : Wave), s.waves.find k = some w → w.st = .preempting → w.pre.taken = false →
    (w.mwait.isSome = true → Goes (.preemptInstructionLimit k) s (· = s)) ∧
    (w.mwait = none → goesBack w → Goes (.preemptInstructionLimit k) s
      (· = (s.dropEntry k).setWaveAt k { w.rewind with
        held := .ready, wait := none, pre := { w.pre with taken := true, full := false, lsm := w.idem.lsm, ranges := w.idem.ranges } })) ∧
    (w.mwait = none → ¬ goesBack w → (w.held ≠ .ready ∨ w.pre.shed = true ∨ w.env.hm = true ∨ w.timew.isSome = true) →
      Goes (.preemptInstructionLimit k) s
        (· = s.setWaveAt k { w with timew := none, pre := { w.pre with taken := true, full := true } })) ∧
    (w.mwait = none → w.idem.idv = false → w.held = .ready → w.env.hm = false → w.timew = none → w.pre.shed = false →
      (2 * (s.wgAt w.id.wgKey).kern.phintmax ≤ w.pre.since → Goes (.preemptInstructionLimit k) s
        (· = s.setWaveAt k { w with pre := { w.pre with taken := true, full := true } })) ∧
      (w.pre.since < 2 * (s.wgAt w.id.wgKey).kern.phintmax → Goes (.preemptInstructionLimit k) s (· = s)))) ∧
  (∀ (wg : Nat) (s : State), s.maySave wg = true →
    let u := quiesced s wg
    let img := imageOf u wg
    ((u.ctxAt (u.wgAt wg).asid.toNat).imageRun wg (units4k img.length) = none → (∀ e ∈ u.liveWaves wg, (u.waveAt e.1).held ≠ .preempting) →
      Goes (.workgroupSave wg) s fun t => (t.wgAt wg).preReq = false ∧ (t.wgAt wg).st ∈ [.placed, .shedding, .shed] ∧
        ∀ e ∈ u.liveWaves wg, (t.waveAt e.1).st ≠ .preempting) ∧
    ∀ a, (u.ctxAt (u.wgAt wg).asid.toNat).imageRun wg (units4k img.length) = some a → Goes (.workgroupSave wg) s fun t =>
      t.wgs.find wg = some { u.wgAt wg with st := .saved, segs := [], pages := [], tilesPhys := [], ext := [], scratch := [], tiles := [], image := some (a, img.length), preReq := false } ∧
      (∀ e ∈ u.liveWaves wg, (t.waveAt e.1).st = .saved) ∧
      (let pas := (List.range img.length).map (a + ·)
       t.mem = ((u.gatherHome pas).homeWrite (pas.zip img)).mem)) ∧
  (∀ (wg gc a n : Nat) (s : State) (g : Wg), s.wgs.find wg = some g → g.st = .saved → s.restoresFirst wg = false → s.restoreCore wg = (some gc, []) →
    g.image = some (a, n) → (∀ i, i < n → (s.gatherHome ((List.range n).map (a + ·))).ueAt (a + i) = false) →
    (∀ e ∈ s.waves, e.2.trapPend = none) → (∀ e ∈ s.liveWaves wg, (s.waveAt e.1).held ≠ .saved) → Goes (.workgroupRestore wg) s fun t =>
      (∃ g', t.wgs.find wg = some g' ∧ g'.die = gc / 128 ∧ g'.core = gc % 128 ∧ g'.image = none ∧
        (g'.st = .placed ∨ g'.st = .shedding ∨ g'.st = .shed)) ∧
      ∀ e ∈ s.liveWaves wg, (t.waveAt e.1).st ≠ .saved) ∧
  (∀ (wg : Nat) (s : State) (g : Wg), s.wgs.find wg = some g → g.st = .saved → (s.restoreCore wg).1 = none →
    Goes (.workgroupRestore wg) s fun t => t.wgs = s.wgs ∧ t.waves = s.waves ∧ t.mem = s.mem) ∧
  (∀ (w v : Wave) (seg : Nat) (rest : List Byte),
    let r := v.loadRecord (w.record seg false ++ rest) false
    r.qclk = w.qclk ∧ r.env.fmode = w.env.fmode ∧ r.env.ftv = w.env.ftv ∧ r.env.cause = w.env.cause ∧ r.env.epc = w.env.epc ∧
    r.idem.pc = w.idem.pc ∧ r.regs.s = w.regs.s)

end

namespace Sys2Proof.Claims

open Sys2Proof.Machine

/-- The status field a read of an action's CMD gives: 0 done, 1 running, 2 refused, with the reason in bits 15 to 8 (R317). -/
def actStatus (t : State) (n : Nat) : Word64 := t.sys.actCmd.get 0#64 n

/-- What every start leaves: no wave, workgroup, launch or context, no cached line, the time running on (R327). -/
def Started (s t : State) : Prop :=
  t.waves = [] ∧ t.wgs = [] ∧ t.launches = [] ∧ t.ctxs = [] ∧ t.hub = State.reset.hub ∧ t.caches.l1 = [] ∧ t.caches.l2 = [] ∧
    t.caches.wcb = [] ∧ t.now = s.now

/-- A cold start: HBM and the weight stores hold nothing (R327). -/
def ColdStarted (s t : State) (last : BitVec 2) (chlth : BitVec 16) (qhlth : BitVec 4) : Prop :=
  Started s t ∧ t.mem = State.reset.mem ∧ t.caches.weights = [] ∧ t.sys.last = last ∧ t.sys.boots = 0#16 ∧ t.sys.chlth = chlth ∧
    t.sys.qhlth = qhlth ∧ t.sys.attestKey = s.sys.attestKey + 1

/-- A value with its P bit set and a token of an uncorrectable error (R243, R268). -/
def ueToken (v : LaneVal) : Prop := v.p = true ∧ v.bits.extractLsb' 24 8 = 0x05#8

/-- What a ticket marks in a wave: its held and queued accesses, its outstanding reads of remote memory, and those of its codebooks (R287). -/
def marked (x : Ticket) (w : Wave) : Wave :=
  { w with fifo := w.fifo.map (Eff.mark x), pend := w.pend.map fun p => { p with pages := x.mark p.pages },
           cb := w.cb.map fun c => { c with pages := x.mark c.pages } }

/-- An access of the context that ticket `n` has overtaken is not performed yet: in a FIFO or held for a commit, a read of remote memory, one
that another device has not acknowledged, or what an engine command holds for a commit (R287). -/
def stillOut (s : State) (asid n : Nat) : Prop :=
  (∃ e ∈ s.waves, e.2.id.asid.toNat = asid ∧ ((∃ f ∈ e.2.fifo, overtaken n f.pages = true) ∨ (∃ p ∈ e.2.pend, overtaken n p.pages = true) ∨
    ∃ c ∈ e.2.cb.toList, overtaken n c.pages = true)) ∨
  (∃ o ∈ s.eng.outbox, o.asid = asid ∧ o.acked = false ∧ overtaken n o.pages = true) ∨
  (∃ e ∈ s.eng.copies, e.2.asid = asid ∧ overtaken n e.2.pages = true) ∨ ∃ e ∈ s.eng.colls, e.2.asid = asid ∧ overtaken n e.2.pages = true

end Sys2Proof.Claims

section

open Sys2Proof Sys2Proof.Machine Sys2Proof.Claims

/-- R25, R267, R268, R286, R318, R321, R327, R328, R330. What a recovery keeps (the kernel table, BAL, the semaphores' counts) and that a warm
start drops the dirty lines of the caches is the model's reading (log entry 54, DEDUCED). -/
def Obligations.SystemSteps : Prop :=
  (∀ (asid : Nat) (v : BitVec 64) (s : State), asid < 1024 → v.getLsbD 0 = true →
    let addr := v.toNat / 2 ^ 8 % 2 ^ 44 * 2 ^ 8
    ((s.ctxAt asid).live = true → Goes (.contextActivate asid v) s (· = s.setCtxAt asid { s.ctxAt asid with stat := 3#3 })) ∧
    ((s.ctxAt asid).live = false →
      (s.physRead addr 256 = none → Goes (.contextActivate asid v) s (· = s.setCtxAt asid { Ctx.dead with stat := 1#3, addr := addr })) ∧
      ∀ b u, s.physRead addr 256 = some (b, u) →
        (descriptorBad b = true → Goes (.contextActivate asid v) s (· = u.setCtxAt asid { Ctx.dead with stat := 1#3, addr := addr })) ∧
        (descriptorBad b = false → fieldOf b 4 4 % 2 ^ 10 ≠ asid →
          Goes (.contextActivate asid v) s (· = u.setCtxAt asid { Ctx.dead with stat := 2#3, addr := addr })) ∧
        (descriptorBad b = false → fieldOf b 4 4 % 2 ^ 10 = asid → Goes (.contextActivate asid v) s fun t =>
          let c := t.ctxAt asid
          c.live = true ∧ c.stat = 0#3 ∧ c.addr = addr ∧ (c.ftvDefault = if fieldOf b 4 4 / 2 ^ 16 % 2 ^ 8 = 2 then 2#8 else 1#8) ∧ c.repro = (fieldOf b 4 4).testBit 10 ∧ c.qlog = fieldOf b 4 4 / 2 ^ 11 % 32 ∧
          c.root = fieldOf b 8 8 ∧ c.haddr.toNat = fieldOf b 16 8 ∧ c.saveBase = fieldOf b 0x30 8 ∧ c.saveSize = fieldOf b 0x38 8 ∧
          t = u.setCtxAt asid c))) ∧
  (∀ (asid : Nat) (v : BitVec 64) (s : State), asid < 1024 → v.getLsbD 0 = false → (s.ctxAt asid).live = false →
    Goes (.contextKill ⟨asid, v⟩) s (· = s.setCtxAt asid { s.ctxAt asid with addr := v.toNat / 2 ^ 8 % 2 ^ 44 * 2 ^ 8 })) ∧
  (∀ (asid : Nat) (v : BitVec 64) (s : State), asid < 1024 → v.getLsbD 0 = false → (s.ctxAt asid).live = true → Goes (.contextKill ⟨asid, v⟩) s fun t =>
    t.ctxAt asid = { Ctx.dead with addr := v.toNat / 2 ^ 8 % 2 ^ 44 * 2 ^ 8 } ∧ (∀ e ∈ t.waves, e.2.id.asid.toNat ≠ asid) ∧
    (∀ e ∈ t.wgs, e.2.asid.toNat ≠ asid) ∧ (∀ e ∈ t.launches, e.1 / 2 ^ 16 ≠ asid) ∧ (∀ e ∈ t.eng.copies, e.2.asid ≠ asid) ∧
    (∀ e ∈ t.eng.colls, e.2.asid ≠ asid) ∧ (∀ e ∈ t.belay.waits, e.2.asid ≠ asid) ∧ (∀ e ∈ t.belay.objs, e.2.asid ≠ asid) ∧
    (∀ l ∈ t.caches.locks, l.asid ≠ asid) ∧
    ∀ k w, s.waves.find k = some w → w.id.asid.toNat ≠ asid → (t.waves.find k).map (·.regs) = some w.regs) ∧
  (∀ (asid cause die : Nat) (s : State), (s.ctxAt asid).fault = some (cause, die) → (s.ctxAt asid).live = true → (s.ctxAt asid).ckpt ≠ 0 →
    let c := s.ctxAt asid
    let u := ((s.contain asid).reportFault asid cause die).copyCheckpoint c.ckpt
    Goes (.contextRecovery asid) s fun t => t.mem = u.mem ∧ (∀ e ∈ t.waves, e.2.id.asid.toNat ≠ asid) ∧ (∀ e ∈ t.wgs, e.2.asid.toNat ≠ asid) ∧
      t.ctxAt asid = { c with images := [], dstacks := [], nextRec := 0, dlrec := 0#64, fault := none, port := [], pstat := [], poolUsed := [] } ∧
      ((∃ p, p < 2 ∧ s.eth.up.get false p = true) → t.sys.reports.length = s.sys.reports.length + 1) ∧
      ((∀ l, s.eng.lease = some l → l.asid ≠ asid) → s.semUsable true 0 c.fsem asid = true →
        t.semCount true 0 c.fsem = s.semCount true 0 c.fsem + 1#32)) ∧
  (∀ (ok : Bool) (h : BitVec 16) (q : BitVec 4) (s : State),
    (s.sys.underVolt = true ∨ ok = false ∨ s.sys.boots = 0xFFFF#16 → Goes (.warmStart ok h q) s fun t => ColdStarted s t 1#2 h q) ∧
    (s.sys.underVolt = false → ok = true → s.sys.boots ≠ 0xFFFF#16 → Goes (.warmStart ok h q) s fun t => Started s t ∧ t.mem = s.mem ∧
      t.caches.weights = s.caches.weights ∧ t.caches.ue = s.caches.ue ∧ t.sys.last = 2#2 ∧ t.sys.boots = s.sys.boots + 1#16 ∧
      t.sys.chlth = s.sys.chlth ∧ t.sys.attestKey = s.sys.attestKey ∧
      ∀ a, t.ticketsOf a = ⟨(s.ticketsOf a).issued, (s.ticketsOf a).issued, []⟩) ∧
    (∀ v : Word64, v.getLsbD 1 = true → ∃ h q, s.mgmtStore v .rstctl = exec (.coldStart h q) s) ∧
    Goes (.coldStart h q) s (fun t => ColdStarted s t 1#2 h q) ∧ Goes (.powerOn h q) s (fun t => ColdStarted s t 0#2 h q) ∧
    Goes .rackBusUndervoltage s (· = { s with sys := { s.sys with underVolt := true } })) ∧
  (∀ (i : Instr) (die : Nat) (s : State), i = .dieDisable die ∨ i = .dieFailure die → die < 16 → Goes i s fun t =>
    (∀ d, d < 16 → t.sys.chlth.getLsbD d = (s.sys.chlth.getLsbD d && d != die)) ∧
    ∀ k w, onlyWave s k w → w.resides = true → w.id.die.toNat = die → waveEnded t k) ∧
  (∀ (s : State),
    (∀ pa, Goes (.uncorrectedError (.global pa)) s (· = { s with caches := { s.caches with ue := s.caches.ue.put (pa / 64) 0#64 } })) ∧
    (∀ wg word g, s.wgs.find wg = some g → Goes (.uncorrectedError (.scratch wg word)) s fun t =>
      ueToken ((t.wgAt wg).scratch.get LaneVal.zero word) ∧ ∀ a, a ≠ word → (t.wgAt wg).scratch.find a = g.scratch.find a) ∧
    (∀ k r l w, s.waves.find k = some w → l < 64 → Goes (.uncorrectedError (.vreg k r l)) s fun t =>
      ueToken ((t.waveAt k).regs.v.get LaneVal.zero (64 * r + l)) ∧
      ∀ j, j ≠ 64 * r + l → (t.waveAt k).regs.v.find j = w.regs.v.find j) ∧
    (∀ id c, s.eng.copies.find id = some c → c.finished = false → Goes (.uncorrectedError (.copy id)) s fun t =>
      ∃ c', t.eng.copies.find id = some c' ∧ c'.finished = true ∧ c'.status = 4#8 ∧ c'.block = c.block) ∧
    (∀ wg i g, s.wgs.find wg = some g → i < 8 → Goes (.uncorrectedError (.greg wg i)) s fun t =>
      ∃ v, (t.wgAt wg).g[i]? = some v ∧ v.p = true ∧ v.bits.extractLsb' 24 8 = 0x05#8) ∧
    (∀ id c, s.eng.colls.find id = some c → c.status = none → Goes (.uncorrectedError (.collective id)) s fun t =>
      ∃ ranks va v, Fails s id c ranks 4 va 0 v ∧ t = { v with tick := s.tick + 1 }) ∧
    (∀ k pa w, onlyWave s k w → w.resides = true → Goes (.uncorrectedError (.critical k pa)) s fun t => waveEnded t k)) ∧
  (∀ (asid : Option Nat) (s : State), Goes (.correctedError asid) s fun t => t.sys.corrected = s.sys.corrected + 1 ∧
    (∀ a, asid = some a → (s.ctxAt a).live = true → (t.ctxAt a).cec = (s.ctxAt a).cec + 1) ∧ t.mem = s.mem ∧ t.waves = s.waves) ∧
  (∀ (v : BitVec 32) (d : BitVec 31) (s : State),
    Goes (.tadjRate v) s (fun t => t = { s with sys := { s.sys with rate := t.sys.rate } } ∧ -2147483 ≤ t.sys.rate ∧ t.sys.rate ≤ 2147483 ∧
      (-2147483 ≤ v.toInt → v.toInt ≤ 2147483 → t.sys.rate = v.toInt)) ∧
    Goes (.tadjStep d) s (· = { s with now := s.now + d.toNat }))

/-- R188, R189, R227, R286, R287, R294, R316, R317, R329. Refusing an action on a context that is not live with REASON 1 (log entry 71), dropping
every line of every L1 at an acknowledgement (log entry 40), and CMD 0 reading 1 while a workgroup is being saved (log entry 50) are the model's
choices. -/
def Obligations.ManagementSteps : Prop :=
  (∀ (index : Nat) (v : BitVec 64) (s : State), (index < 1024 → Goes (.semcfgWrite true index v) s fun t =>
      t.hub.semcfg.get 0#64 index = v &&& 0x7FF#64 ∧
      (t.semCount true 0 index = if s.hub.semcfg.get 0#64 index = v &&& 0x7FF#64 then s.semCount true 0 index else 0#32) ∧
      (s.hub.semcfg.get 0#64 index ≠ v &&& 0x7FF#64 → ∀ e ∈ t.waves, e.2.id.asid.toNat = (s.hub.semcfg.get 0#64 index).toNat % 2 ^ 10 →
        ∀ n, Eff.semsig true index n ∉ e.2.fifo)) ∧
    (index < 2 ^ 17 → Goes (.semcfgWrite false index v) s fun t => t.hub.csemcfg.get 0#64 index = v &&& 0x7FF#64 ∧
      t.hub.csem.get 0#32 index = if s.hub.csemcfg.get 0#64 index = v &&& 0x7FF#64 then s.hub.csem.get 0#32 index else 0#32)) ∧
  (∀ (cl : Nat) (v : BitVec 64) (s : State), cl < 512 →
    let c := s.csctlAt cl
    let ways : BitVec 4 := v.setWidth 4
    let owner : BitVec 10 := v.extractLsb' 4 10
    (c.pend = true ∨ 12 < ways.toNat → Goes (.csctlWrite cl v) s fun t => t.csctlAt cl = { c with err := true }) ∧
    (c.pend = false → ways.toNat ≤ 12 → Goes (.csctlWrite cl v) s fun t => t.csctlAt cl =
      { c with ways := ways, owner := owner, err := c.err && !v.getLsbD 17, pend := decide (ways ≠ c.ways ∨ owner ≠ c.owner) }) ∧
    (c.pend = true → s.residentIn cl c.curOwner = false ∨ (c.cur ≤ c.ways.toNat ∧ c.owner.toNat = c.curOwner) →
      Goes (.csctlChangeComplete cl) s fun t =>
        t.csctlAt cl = { c with cur := c.ways.toNat, curOwner := c.owner.toNat, pend := false } ∧
        ∀ a, a < 2 ^ 52 → t.cscrByte cl a =
          if c.curOwner = c.owner.toNat ∧ a < 2 ^ 18 * min c.cur c.ways.toNat then s.cscrByte cl a else 0#8)) ∧
  (∀ (asid n : Nat) (x : Ticket) (s : State), (s.ticketsOf asid).open_.find? (fun t => t.num == n && !t.delivered) = some x →
    Goes (.atinvDelivery asid n) s fun t =>
      (∀ y ∈ (t.ticketsOf asid).open_, y.num = n → y.delivered = true) ∧
      (∀ k i : Nat, ((t.launchAt k).ext[i]?) = ((s.launchAt k).ext[i]?).map fun p => if p.asid = asid ∧ x.hits p = true then Piece.gone else p) ∧
      (∀ k i : Nat, ((t.wgAt k).ext[i]?) = ((s.wgAt k).ext[i]?).map fun p => if p.asid = asid ∧ x.hits p = true then Piece.gone else p) ∧
      (∀ e ∈ t.tlbs.cluster, ∀ p ∈ e.2, ¬ (p.asid = asid ∧ x.hits p = true)) ∧
      (∀ e ∈ t.tlbs.die, ∀ p ∈ e.2, ¬ (p.asid = asid ∧ x.hits p = true)) ∧ t.mem = s.mem ∧
      (t.eng.outbox = s.eng.outbox.map fun o => if o.asid = asid then { o with pages := x.mark o.pages } else o) ∧
      ∀ k w, s.waves.find k = some w → ∃ wait, t.waves.find k =
        some { (if w.id.asid.toNat = asid then marked x w else w) with wait := wait }) ∧
  (∀ (asid : Nat) (x : Ticket) (rest : List Ticket) (s : State), (s.ticketsOf asid).open_ = x :: rest →
    (x.delivered = true → ¬ stillOut s asid x.num → Goes (.atinvAcknowledge asid x.num) s fun t =>
      let u : Tickets := { s.ticketsOf asid with acked := x.num, open_ := rest }
      t.caches.l1 = [] ∧ t.mem = s.releaseAll.mem ∧ (t.ticketsOf asid).acked = x.num ∧ (s.sys.actInv = [] → t.ticketsOf asid = u) ∧
      (∀ n, s.sys.actSync = some (asid, n) → n ≤ x.num → t.sys.actSync = none ∧ actStatus t 5 = 0#64) ∧
      ∀ va n q, s.sys.actInv = (asid, va, n) :: q → rest.length < 16 → t.sys.actInv = q ∧
        t.ticketsOf asid = { u with issued := u.issued + 1, open_ := rest ++ [⟨u.issued + 1, va, n, false⟩] } ∧
        (q = [] → actStatus s 3 = 1#64 → actStatus t 3 = 0#64 ∧ t.opnd 3 = BitVec.ofNat 64 (u.issued + 1)) ∧
        ((q ≠ [] ∨ actStatus s 3 ≠ 1#64) → actStatus t 3 = actStatus s 3 ∧ t.opnd 3 = s.opnd 3)) ∧
    (x.delivered = false ∨ stillOut s asid x.num → Goes (.atinvAcknowledge asid x.num) s (· = s))) ∧
  (∀ s : State,
    let x := s.opnd 0
    let r := s.preempt (wgKeyOf (x.toNat % 2 ^ 10) (x.toNat / 2 ^ 16 % 2 ^ 16) (x.toNat / 2 ^ 32))
    Goes .actPreempt s fun t => t.wgs = r.2.wgs ∧ t.waves = r.2.waves ∧ (actStatus t 0 = if r.1 then 0#64 else 0x102#64) ∧
      t.mgmtRead (.actCmd 0) = if r.1 then 1#64 else 0x102#64) ∧
  (∀ (cmd : BitVec 64) (s : State),
    (s.resolve (cmdAsid cmd) (s.opnd 1) = none → Goes (.actPkres cmd) s fun t => actStatus t 1 = 0x202#64 ∧ t.waves = s.waves) ∧
    (s.resolve (cmdAsid cmd) (s.opnd 2) = none → Goes (.actPkill cmd) s fun t => actStatus t 2 = 0x202#64 ∧ t.waves = s.waves) ∧
    (∀ k, s.resolve (cmdAsid cmd) (s.opnd 1) = some k →
      ((s.waveAt k).st = .parkedFault → Goes (.actPkres cmd) s fun t => actStatus t 1 = 0#64 ∧
        ((t.waveAt k).st = .ready ∨ (t.waveAt k).st = .shed) ∧ (t.waveAt k).regs = (s.waveAt k).regs) ∧
      ((s.waveAt k).st ≠ .parkedFault → Goes (.actPkres cmd) s fun t => actStatus t 1 = 0x102#64 ∧ t.waves = s.waves)) ∧
    (∀ k w, s.resolve (cmdAsid cmd) (s.opnd 2) = some k → onlyWave s k w →
      (w.st = .parkedFault → Goes (.actPkill cmd) s fun t => actStatus t 2 = 0#64 ∧ waveEnded t k) ∧
      (w.st ≠ .parkedFault → Goes (.actPkill cmd) s fun t => actStatus t 2 = 0x102#64 ∧ t.waves = s.waves))) ∧
  (∀ s : State,
    let va := (s.opnd 3).toNat
    let n := (s.opnd 4).toNat
    let asid := cmdAsid (s.sys.actCmd.get 0#64 4)
    let ts := s.ticketsOf asid
    (atinvBad va n = true → Goes .actAtinv s fun t => actStatus t 3 = 0x102#64 ∧ t.tlbs = s.tlbs) ∧
    (atinvBad va n = false → 16 ≤ ts.open_.length → Goes .actAtinv s fun t => actStatus t 3 = 1#64 ∧ t.tlbs = s.tlbs ∧
      t.sys.actInv = s.sys.actInv ++ [(asid, va, n)]) ∧
    (atinvBad va n = false → ts.open_.length < 16 → Goes .actAtinv s fun t => actStatus t 3 = 0#64 ∧
      t.opnd 3 = BitVec.ofNat 64 (ts.issued + 1) ∧
      t.ticketsOf asid = { ts with issued := ts.issued + 1, open_ := ts.open_ ++ [⟨ts.issued + 1, va, n, false⟩] })) ∧
  (∀ (cmd : BitVec 64) (s : State),
    let asid := cmdAsid cmd
    let ts := s.ticketsOf asid
    Goes (.actAtsync cmd) s (fun t => actStatus t 5 =
      (if ts.issued < (s.opnd 5).toNat then 0x102#64 else if (s.opnd 5).toNat ≤ ts.acked then 0#64 else 1#64)) ∧
    ((s.ctxAt asid).live = true → Goes (.actEnergyCredit cmd) s fun t => actStatus t 6 = 0#64 ∧
      (t.ctxAt asid).bal = (s.ctxAt asid).bal + (s.opnd 6).toInt) ∧
    ((s.ctxAt asid).live = false → Goes (.actEnergyCredit cmd) s fun t => actStatus t 6 = 0x102#64 ∧ t.ctxs = s.ctxs) ∧
    ((s.ctxAt asid).live = false → Goes (.actBreakpoint cmd) s fun t => actStatus t 8 = 0x102#64 ∧ t.ctxs = s.ctxs) ∧
    ((s.ctxAt asid).live = true → Goes (.actBreakpoint cmd) s fun t => actStatus t 8 = 0#64 ∧
      (cmd.getLsbD 17 = true → (t.ctxAt asid).step = cmd.getLsbD 16 ∧ (t.ctxAt asid).breaks = (s.ctxAt asid).breaks) ∧
      (cmd.getLsbD 17 = false → ∀ a, a ∈ (t.ctxAt asid).breaks ↔
        if a = (s.opnd 8).toNat then cmd.getLsbD 16 = true else a ∈ (s.ctxAt asid).breaks))) ∧
  (∀ (cmd : BitVec 64) (s : State),
    let asid := cmdAsid cmd
    let c := s.ctxAt asid
    let f := (s.opnd 7).toNat
    let size := if cmd.getLsbD 16 then 2 ^ 21 else 4096
    let ns := frameNumbers f (cmd.getLsbD 16)
    let inPool := f % size = 0 ∧ c.poolBase ≤ f ∧ f + size ≤ c.poolBase + c.poolSize
    (cmd.getLsbD 17 = false → (c.live = false → Goes (.actPoolFrameReturn cmd) s fun t => actStatus t 7 = 0x102#64 ∧ t.ctxs = s.ctxs) ∧
      (c.live = true → ¬ inPool → Goes (.actPoolFrameReturn cmd) s fun t => actStatus t 7 = 0x202#64 ∧ t.ctxs = s.ctxs) ∧
      (c.live = true → inPool → (∃ n ∈ ns, n ∉ c.poolUsed) → Goes (.actPoolFrameReturn cmd) s fun t => actStatus t 7 = 0x102#64 ∧ t.ctxs = s.ctxs) ∧
      (c.live = true → inPool → (∀ n ∈ ns, n ∈ c.poolUsed) → Goes (.actPoolFrameReturn cmd) s fun t => actStatus t 7 = 0#64 ∧
        ∀ n, n ∈ (t.ctxAt asid).poolUsed ↔ n ∈ c.poolUsed ∧ n ∉ ns)) ∧
    (cmd.getLsbD 17 = true → (c.live = false → Goes (.actPoolFrameMarkInUse cmd) s fun t => actStatus t 7 = 0x102#64 ∧ t.ctxs = s.ctxs) ∧
      (c.live = true → ¬ inPool → Goes (.actPoolFrameMarkInUse cmd) s fun t => actStatus t 7 = 0x202#64 ∧ t.ctxs = s.ctxs) ∧
      (c.live = true → inPool → (∃ n ∈ ns, n ∈ c.poolUsed) → Goes (.actPoolFrameMarkInUse cmd) s fun t => actStatus t 7 = 0x102#64 ∧ t.ctxs = s.ctxs) ∧
      (c.live = true → inPool → (∀ n ∈ ns, n ∉ c.poolUsed) → Goes (.actPoolFrameMarkInUse cmd) s fun t => actStatus t 7 = 0#64 ∧
        ∀ n, n ∈ (t.ctxAt asid).poolUsed ↔ n ∈ c.poolUsed ∨ n ∈ ns))) ∧
  (∀ (v : BitVec 64) (s : State),
    Goes (.mgmtRegisterWrite .colto v) s (· = { s with sys := { s.sys with colto := v } }) ∧
    (∀ q, q < 256 → Goes (.mgmtRegisterWrite (.lqcfg q) v) s fun t => t.hub.lqcfg.get 0#64 q = v &&& 0x3FFF#64 ∧
      ∀ j, j ≠ q → t.hub.lqcfg.get 0#64 j = s.hub.lqcfg.get 0#64 j) ∧
    Goes (.mgmtRegisterWrite .pwcfg v) s (fun t => t.pw = { s.pw with pwcfg := v &&& 0x07FFFFFFFFFFFFFF#64 }) ∧
    (∀ n, n < 8 → Goes (.mgmtRegisterWrite (.pwbp n) v) s fun t => t.pw.pwbp[n]? = some (v &&& 0x1FFFFFFF#64)) ∧
    Goes (.mgmtRegisterWrite .pwctl v) s (fun t => t.pw.tforce = (if 300 < v.toNat / 2 ^ 44 % 2 ^ 9 then s.pw.tforce else v.toNat / 2 ^ 44 % 2 ^ 9) ∧
      t.pw.pfall = v.toNat % 2 ^ 13 ∧ t.pw.pstatic = v.toNat / 2 ^ 13 % 2 ^ 13 ∧ t.pw.dmax = v.toNat / 2 ^ 53 % 2 ^ 10) ∧
    Goes (.mgmtRegisterWrite .pwstat v) s (fun t => t.pw.stperr = s.pw.stperr &&& ~~~(v.extractLsb' 16 16)) ∧
    (∀ n, n < 9 → Goes (.mgmtRegisterWrite (.actOpnd n) v) s fun t => t.opnd n = v) ∧
    Goes (.mgmtRegisterWrite .act4Cmd v) s (fun t => actStatus t 4 = v)) ∧
  (∀ n, (n < 1024 → mgmtAt (0x10000 + 8 * n) = .ctxdesc n ∧ mgmtAt (0x30000 + 8 * n) = .semcfg n) ∧
    (n < 256 → mgmtAt (0x20000 + 8 * n) = .lqcfg n) ∧ (n < 512 → mgmtAt (0x210000 + 8 * n) = .csctl n ∧ mgmtAt (0x220000 + 8 * n) = .clkpat n)) ∧
  (∀ (hart off : Nat) (data : List Byte) (s : State), hart < 128 → off < 0x10000000 →
    ((s.hartModeOf hart).system = true → data.length = 8 →
      s.hartStore hart (0x7F00000000000 + off) data = s.mgmtStore (BitVec.ofNat 64 (numOfBytes data)) (mgmtAt off)) ∧
    ((s.hartModeOf hart).system = true → data.length ≠ 8 → s.hartStore hart (0x7F00000000000 + off) data = .next s) ∧
    ((s.hartModeOf hart).system = false → s.hartStore hart (0x7F00000000000 + off) data = .next (s.hartRaise hart .storeAccess))) ∧
  (∀ (nonce : List Byte) (s : State), nonce.length = 48 → Goes (.attestationReport nonce) s fun t =>
    ∃ b, t.sys.attest = s.sys.attest ++ [b ++ s.attestSign b] ∧ (s.attestSign b).length = 96 ∧ b.head? = some 0xA7#8 ∧ fieldOf b 2 2 = s.sys.boots.toNat ∧
      (b.drop 4).take 48 = nonce ∧ t.sys = { s.sys with attest := t.sys.attest })

end

namespace Sys2Proof.Claims

open Sys2Proof.Machine

/-- A hart's access to local memory inside one line that the table can serve (R194, R196). -/
def hartServed (s : State) (hart pa n : Nat) : Prop :=
  hart < 128 ∧ 0 < n ∧ pa % 64 + n ≤ 64 ∧ homeDie pa < 4 ∧ s.ueAt pa = false ∧
    ((s.objOf (s.hartAsid hart) (pa / 64)).isSome = true ∨
      (s.harts.objs.filter fun e => e.2.die == homeDie pa && e.2.declared).length < 65536)

/-- An object's hart gives it up, or keeps it shared (R197, R198). -/
def hartDrops (s t : State) (k : Nat) (o : CohObj) (hart : Nat) : Prop :=
  t.harts.objs.find k = some { o with holders := o.holders.filter fun h => h.1 != hart } ∧
    (∀ e ∈ t.harts.lines, ¬ (e.1 / 2 ^ 46 = hart ∧ o.covers (e.1 % 2 ^ 46) = true)) ∧ t.waves = s.waves

end Sys2Proof.Claims

section

open Sys2Proof Sys2Proof.Machine Sys2Proof.Claims

/-- R194, R196 to R198, R219, R313, R319, R322, R323, R325. The application cores' memory and their access faults are log entry 22, a full table
log entry 89, and the error responses log entry 8 (DESIGN CHOICE). -/
def Obligations.HartAndLinkSteps : Prop :=
  (∀ (h : Nat) (v : BitVec 64) (s : State), h < 128 →
    ((s.hartModeOf h).system = true → Goes (.gctxWrite h v) s fun t =>
      t.harts.gctx.get 0#64 h = v &&& 0x83FF#64 ∧ t = { s with harts := { s.harts with gctx := t.harts.gctx } }) ∧
    ((s.hartModeOf h).system = false → Goes (.gctxWrite h v) s (· = s.hartRaise h .illegalInstruction))) ∧
  (∀ (h pa n : Nat) (s : State), h < 128 → 0 < n → pa % 64 + n ≤ 64 → isAppMem pa = true →
    Goes (.hartCoherentAccess h pa n none) s (fun t => t.harts.data.find h = some ((List.range n).map fun i => s.homeRead (pa + i)) ∧
      t = { s with harts := { s.harts with data := t.harts.data } }) ∧
    ∀ d, d.length = n → Goes (.hartCoherentAccess h pa n (some d)) s (· = s.homePut pa d)) ∧
  (∀ (h pa n : Nat) (s : State), h < 128 → 0 < n → pa % 64 + n ≤ 64 → homeDie pa < 4 → s.ueAt pa = true →
    Goes (.hartCoherentAccess h pa n none) s (· = s.hartRaise h .loadAccess) ∧
    ∀ d, d.length = n → Goes (.hartCoherentAccess h pa n (some d)) s (· = s.hartRaise h .storeAccess)) ∧
  (∀ (h pa n : Nat) (data : Option (List Byte)) (s : State), hartServed s h pa n → (∀ d, data = some d → d.length = n) →
    Goes (.hartCoherentAccess h pa n data) s (fun t => (t.objOf (s.hartAsid h) (pa / 64)).isSome = true ∧
      (∃ l, t.harts.lines.find (hartKey h (pa / 64)) = some l ∧
        (data = none → t.harts.data.find h = some ((l.data.drop (pa % 64)).take n))) ∧ SameWaves s t) ∧
    ∀ k o, s.objOf (s.hartAsid h) (pa / 64) = some (k, o) → s.harts.objs.find k = some o →
      (data = none → Goes (.hartCoherentAccess h pa n data) s fun t =>
        ∃ o', t.harts.objs.find k = some o' ∧ (o'.stateOf h).isSome = true ∧ (o.stateOf h = none →
          o'.stateOf h = some (if (o.others h).isEmpty then .e else .s))) ∧
      ∀ d, data = some d → (∀ e ∈ s.harts.lines, e.2.data.length = 64) → Goes (.hartCoherentAccess h pa n data) s fun t =>
        (∃ l, t.harts.lines.find (hartKey h (pa / 64)) = some l ∧ l.st = .m ∧ ∀ i, i < n → l.data[pa % 64 + i]? = d[i]?) ∧
        ∃ o', t.harts.objs.find k = some o' ∧ o'.stateOf h = some .m ∧
          (o.stateOf h ≠ some .m → o.stateOf h ≠ some .e → o'.holders = [(h, .m)])) ∧
  (∀ (h line : Nat) (seq : BitVec 16) (s : State) (k : Nat) (o : CohObj), s.heldBy h line = some (k, o) →
    (∀ toI, staleProbe (s.harts.seqs.get 0#16 (seqKey h k)) seq = true → Goes (.coherenceProbe h line seq toI) s (· = s)) ∧
    (staleProbe (s.harts.seqs.get 0#16 (seqKey h k)) seq = false →
      Goes (.coherenceProbe h line seq true) s (fun t => hartDrops s t k o h) ∧
      Goes (.coherenceProbe h line seq false) s fun t =>
        t.harts.objs.find k = some { o with holders := o.holders.map fun x => if x.1 = h then (h, .s) else x } ∧
        ∀ e ∈ t.harts.lines, e.1 / 2 ^ 46 = h → o.covers (e.1 % 2 ^ 46) = true → e.2.st = .s) ∧
    Goes (.objectEvictRelease h line) s fun t => hartDrops s t k o h) ∧
  (∀ (port queue : Nat) (s : State) (q : EthQ), port < 2 → queue < 256 →
    (∀ data, s.eth.queues.find (ethKey port false queue) = some q → 0 < data.length → data.length ≤ 9216 →
      ((s.ethDesc q.desc).2.2.testBit 0 = true → data.length ≤ (s.ethDesc q.desc).2.1 → Goes (.ethernetReceive port queue data) s fun t =>
        t.mem = ((s.framePut (s.ethDesc q.desc).1 data).ethReturn q.desc data.length true).mem ∧
        t.eth = { s.eth with queues := s.eth.queues.put (ethKey port false queue) q.step }) ∧
      ((s.ethDesc q.desc).2.2.testBit 0 = false → Goes (.ethernetReceive port queue data) s (· = s))) ∧
    (s.eth.queues.find (ethKey port true queue) = some q → 0 < q.entries → (s.ethDesc q.desc).2.1 ≤ 9216 →
      ((s.ethDesc q.desc).2.2.testBit 0 = true → (s.ethDesc q.desc).2.2.testBit 1 = true → Goes (.ethernetTransmit port queue) s fun t =>
        t.eth.sent = s.eth.sent ++ [(port, s.homeBytes (s.ethDesc q.desc).1 (s.ethDesc q.desc).2.1)] ∧
        t.mem = (s.ethReturn q.desc (s.ethDesc q.desc).2.1 true).mem) ∧
      ((s.ethDesc q.desc).2.2.testBit 0 = false → Goes (.ethernetTransmit port queue) s (· = s)))) ∧
  (∀ (pa : Nat) (s : State), isRemote pa = false → isMgmt pa = false →
    let read (n : Nat) : State := s.homeTouches ((List.range n).map (pa + ·))
    (∀ n, ((∀ i, i < n → s.ueAt (pa + i) = false) → Goes (.remoteAccessIncoming pa (.load n)) s fun t =>
        t.eng.replies = s.eng.replies ++ [(read n).homeBytes pa n]) ∧
      ((∃ i, i < n ∧ s.ueAt (pa + i) = true) → Goes (.remoteAccessIncoming pa (.load n)) s (· = s.reply []))) ∧
    (∀ bs, ((∀ i, i < bs.length → s.absentAt (pa + i) = false) → Goes (.remoteAccessIncoming pa (.store bs)) s (· = s.homePut pa bs)) ∧
      ((∃ i, i < bs.length ∧ s.absentAt (pa + i) = true) → Goes (.remoteAccessIncoming pa (.store bs)) s (· = s.reply []))) ∧
    (∀ op x y, ((∀ i, i < 4 → s.ueAt (pa + i) = false) → Goes (.remoteAccessIncoming pa (.atomic op x y)) s fun t =>
        t.eng.replies = s.eng.replies ++ [(read 4).homeBytes pa 4] ∧
        t.mem = ((read 4).homePut pa (leBytes 4 (atomNew op (word32Of ((read 4).homeBytes pa 4)) x y).toNat)).mem) ∧
      ((∃ i, i < 4 ∧ s.ueAt (pa + i) = true) → Goes (.remoteAccessIncoming pa (.atomic op x y)) s (· = s.reply [])))) ∧
  (∀ (k n : Nat) (lanes : Lanes) (s : State) (w : Wave) (p : Pend) (r : Nat) (vals : List LaneVal), s.waves.find k = some w → w.pend[n]? = some p →
    p.writes = [.vec r vals] →
    let hit (l : Nat) : Prop := ∃ e ∈ p.remote, e.1 = l ∧ inLanes (lanes &&& p.remaining) l = true
    Goes (.remoteAccessFailure (.load k n lanes)) s fun t => ∃ p' vals', (t.waveAt k).pend[n]? = some p' ∧ p'.writes = [.vec r vals'] ∧
      p'.remaining = p.remaining ∧ vals'.length = vals.length ∧
      ∀ l, l < vals.length → (hit l → (vals'.getD l LaneVal.zero).p = true) ∧ (¬ hit l → vals'.getD l LaneVal.zero = vals.getD l LaneVal.zero)) ∧
  (∀ (n k : Nat) (s : State) (e : Sent) (w : Wave), s.eng.outbox[n]? = some e → e.wave = some k → s.waves.find k = some w →
    (e.acked = true → Goes (.remoteAccessFailure (.store n)) s (· = s)) ∧
    (e.acked = false → Goes (.remoteAccessFailure (.store n)) s fun t => t.eng.outbox = s.eng.outbox.eraseIdx n ∧
      let pa := (e.bytes.map (·.1) ++ e.atomic.map (·.2.1)).headD 0
      t.waves.find k = some { w with remoteFail := if e.reports then some (w.remoteFail.getD pa) else w.remoteFail })) ∧
  (∀ (k : Nat) (slot : BitVec 2) (s : State) (w : Wave) (c : Codebook), s.waves.find k = some w → w.cb[slot.toNat]? = some c → c.remote ≠ [] →
    Goes (.remoteAccessFailure (.codebook k slot)) s fun t => ∃ c', (t.waveAt k).cb[slot.toNat]? = some c' ∧ c'.remote = [] ∧
      ∀ n, (c'.entries.get LaneVal.zero n) = c.entries.get LaneVal.zero n ∨
        (∃ x ∈ c.remote, x.1 = n) ∧ (c'.entries.get LaneVal.zero n).p = true) ∧
  (∀ (id i a : Nat) (s : State) (c : Collective) (g : Group) (pas : List Nat), s.eng.colls.find id = some c → c.status = none →
    s.groupOf c.asid c.block = some g →
    s.collRun c.asid .load (collInElems c.block g.nrank * fmtUnit (collFmt c.block)) (collIn c.block) = .ok pas →
    pas[i]? = some a → isRemote a = true → Goes (.remoteAccessFailure (.collective id i)) s (Fails s id c g.nrank 4 (collIn c.block + i) 0)) ∧
  (∀ (id i : Nat) (s : State) (c : Copy) (bs : List Byte) (pas : List (Nat × Bool)), s.eng.copies.find id = some c → c.started = true →
    c.finished = false → (copyDesc c.block).ssp = false → pas.findIdx? (fun x => isRemote x.1) = some i →
    let src := (copyDesc c.block).srcAt c.unit
    s.copyRead c (copyDesc c.block) src.1 src.2 = .ok bs pas →
    Goes (.remoteAccessFailure (.copy id)) s fun t => ∃ c', t.eng.copies.find id = some c' ∧ c'.finished = true ∧ c'.status = 4#8 ∧
      c'.faultVa = BitVec.ofInt 64 (src.1 + i)) ∧
  (∀ (eth : Bool) (port : Nat) (up : Bool) (s : State),
    Goes (.linkFailure eth port up []) s (fun t => t = { s with eth := t.eth } ∧
      (eth = true → port < 2 → t.eth.up.find port = some up) ∧ (eth = false ∨ 2 ≤ port → t.eth = s.eth)) ∧
    ∀ id c, s.eng.colls.find id = some c → c.status = none → Goes (.linkFailure eth port false [id]) s fun t =>
      ∃ c', t.eng.colls.find id = some c' ∧ c'.status = some 5#8 ∧ c'.block = c.block)

end

namespace Sys2Proof.Claims

open Sys2Proof.Machine

/-- |s(A)|, at width `w` (R334). -/
def absOf (w : Nat) (x : BitVec w) : BitVec w := BitVec.ofNat w x.toInt.natAbs

/-- The form of a one-source integer instruction. -/
def oneSource (d a : Opd) : Form := { a := some { o := a }, dst := some { o := d } }

/-- A one-source integer instruction that does not read D: it writes `f w A`, in each lane or in the scalar. -/
def OneSource (i : Instr) (sw : Bool) (d a : Opd) (s : State) (f : (w : Nat) → BitVec w → BitVec w) : Prop :=
  s.issuing = true → s.formTrap (oneSource d a) false = none →
    Goes i s (Computes s sw false (s.dest d) (laneList s (oneSource d a).isVec)
      (fromSources s (oneSource d a).isVec d a none false fun x y z => .val (atWidth (oneSource d a).isVec (fun w x _ _ => f w x) x y z) 0#6))

/-- The zero bits above the highest set bit, at width `w` (R363). -/
def clzOf (w : Nat) (x : BitVec w) : BitVec w :=
  BitVec.ofNat w ((List.range w).takeWhile fun i => !x.getLsbD (w - 1 - i)).length

end Sys2Proof.Claims

section

open Sys2Proof Sys2Proof.Machine Sys2Proof.Claims

/-- R334, R363. -/
def Obligations.AbsAndClzEntries : Prop :=
  (∀ (sw : Bool) (d a : Opd), encode (.abs sw d a) = some (rWord sw 2#5 d.code a.code 0#7 16#5, none) ∧
    encode (.clz sw d a) = some (rWord sw 2#5 d.code a.code 0#7 17#5, none)) ∧
  decodeWords 0x08286010#32 0#32 = .ok (.abs false (.v 5#6) (.v 6#6)) ∧
  (∀ (sw : Bool) (d a : Opd) (s : State), OneSource (.abs sw d a) sw d a s absOf ∧ OneSource (.clz sw d a) sw d a s clzOf) ∧
  (∀ (w : Nat) (x : BitVec w), 0 < w → (x.toInt ≠ -2 ^ (w - 1) → (absOf w x).toInt = |x.toInt|) ∧
    (x.toInt = -2 ^ (w - 1) → absOf w x = x)) ∧
  (∀ (w : Nat) (x : BitVec w) (i : Nat), i < w → x.getLsbD i = true → (∀ j, i < j → j < w → x.getLsbD j = false) →
    (clzOf w x).toNat = w - 1 - i) ∧
  (∀ w, 0 < w → (clzOf w 0#w).toNat = w)

/-- R456. -/
def Obligations.WbaseEntry : Prop :=
  (∀ (sw : Bool) (n : BitVec 3), encode (.wbase sw n) = some (rWord sw 1#5 0#7 (0#4 ++ n) 0#7 5#5, none) ∧
    decodeWords (rWord sw 1#5 0#7 (0#4 ++ n) 0#7 5#5) 0#32 = .ok (.wbase sw n)) ∧
  (∀ (sw : Bool) (n : BitVec 3) (s : State), s.issuing = true → s.iss.pfx = none → n ≠ 7#3 → n.toNat + 2 ≤ s.wg.kern.seg →
    Goes (.wbase sw n) s (Went s { s.wave with regs := { s.wave.regs with wbase := BitVec.ofNat 8 (32 * n.toNat) } } [] sw 1)) ∧
  (∀ (sw : Bool) (n : BitVec 3) (s : State), s.issuing = true → s.iss.pfx = none → n ≠ 7#3 → s.wg.kern.seg < n.toNat + 2 →
    exec (.wbase sw n) s = .next (s.takeTrap ⟨.segovf, s.iss.word.setWidth 64, s.iss.word.setWidth 64, s.mask⟩)) ∧
  (∀ (n : BitVec 3) (s : State), s.wave.regs.wbase = BitVec.ofNat 8 (32 * n.toNat) →
    (∀ hi, s.srRead hi 0x07 = BitVec.ofNat 64 (32 * n.toNat)) ∧ (∀ h seg, s.wave.wst h seg / 2 ^ 19 % 2 ^ 8 = 32 * n.toNat) ∧
    ∀ c, s.ref (.v c) = .vec (32 * n.toNat + c.toNat)) ∧
  (∀ (sw : Bool) (n : BitVec 3) (s : State), s.issuing = true → n = 7#3 ∨ s.iss.pfx.isSome = true →
    exec (.wbase sw n) s = .next (s.takeTrap ⟨.illop, s.iss.word.setWidth 64, s.iss.word.setWidth 64, s.mask⟩)) ∧
  (∀ (sw : Bool) (d a b : BitVec 7), a.extractLsb' 3 4 ≠ 0#4 ∨ d ≠ 0#7 ∨ b ≠ 0#7 →
    hasSecondWord (rWord sw 1#5 d a b 5#5) = false ∧ ∃ e, decodeWords (rWord sw 1#5 d a b 5#5) 0#32 = .error e) ∧
  (∀ (s v : State) (w : Word32) (e : DecErr), s.fetchWord s.pc.toNat = .ok (w, v) → hasSecondWord w = false →
    decodeWords w 0#32 = .error e →
    let u := { v with iss := { v.iss with word := w } }
    s.runIssue.out = .next (u.takeTrap ⟨.undef, w.setWidth 64, w.setWidth 64, u.mask⟩))

end

namespace Sys2Proof.Claims

open Sys2Proof.Machine

/-- The state that a step hands to the agent that moves: the agenda's first entry taken, the free values moved on. -/
def afterPick (s : State) : State := { s with tick := s.tick + 1, agenda := s.agenda.tail }

/-- Who moves: the head of the agenda, or the free choice among those who may (log entry 2). -/
def whoMoves (s : State) : Agent := s.agenda.head?.getD s.mover

/-- The outcome of an issue in which `i` ran in `v`: a next state is `exec`'s with what follows every issue; a stop is `exec`'s. -/
def IssueRuns (s : State) (k : Nat) (slot : Bool) (w : Wave) (i : Instr) (v : State) : Prop :=
  let con := (s.wgAt w.id.wgKey).kern.con.toNat
  (∀ t, exec i v = .next t → s.issueSlot k slot = .next (t.afterIssue k slot w.id (s.withholdClass k)
    (t.issueWeight w.id con (t.iss.out == .trapped) i))) ∧
  (∀ f, exec i v = .fault f → s.issueSlot k slot = .fault f) ∧ ∀ r, exec i v = .refused r → s.issueSlot k slot = .refused r

end Sys2Proof.Claims

section

open Sys2Proof Sys2Proof.Machine Sys2Proof.Claims

/-- R160, R161, R167 to R169. -/
def Obligations.EncodeThenDecode : Prop :=
  (∀ (i : Instr) (w : Word32) (o : Option Word32), i.WellFormed → encode i = some (w, o) →
    decodeWords w (o.getD 0#32) = .ok i ∧ hasSecondWord w = o.isSome ∧
    ∀ rest : List Byte, decodeBytes (bytesOfWord32 w ++ (o.map bytesOfWord32).getD [] ++ rest) = .ok (i, rest)) ∧
  ∀ i : Instr, isStep i = true ↔ encode i = none

/-- R160, R161, R167 to R169. -/
def Obligations.DecodeThenEncode : Prop :=
  (∀ (w : Word32) (i : Instr), hasSecondWord w = false → decodeWords w 0#32 = .ok i → i.WellFormed ∧ encode i = some (w, none)) ∧
  ∀ (w w1 : Word32) (i : Instr), hasSecondWord w = true → decodeWords w w1 = .ok i → i.WellFormed ∧ encode i = some (w, some w1)

/-- The examples of the instruction entries. -/
def Obligations.ExampleWords : Prop :=
  decodeWords 0x08286010#32 0#32 = .ok (.abs false (.v 5#6) (.v 6#6)) ∧
  decodeWords 0x3C202180#32 0#32 = .ok (.atom false (.v 4#6) (.v 2#6) 1#4 .dev .add) ∧
  decodeWords 0x6A800010#32 0#32 = .ok (.br false true 2#3 16#21) ∧
  decodeWords 0x62347201#32 0#32 = .ok (.cbset false (.s 6) (.s 7) 2#4 0#3) ∧
  decodeWords 0x024C68E5#32 0#32 = .ok (.iclk false (.s 9) (.s 6) (.s 7)) ∧
  decodeWords 0x34202118#32 0#32 = .ok (.ld false (.v 4#6) (.v 2#6) 1#4 .plain true true .b8) ∧
  decodeWords 0x48894003#32 0#32 = .ok (.maps false 1#3 (.s 10)) ∧
  decodeWords 0x1C1FFFFF#32 0#32 = .ok (.movi false (.v 3#6) 0x7FFFF#19) ∧
  decodeWords 0x28286018#32 0#32 = .ok (.mxq false (.v 5#6) (.v 6#6) 0#7) ∧
  decodeWords 0x44882063#32 0#32 = .ok (.rchk false .b32 1#3 (.v 2#6) 3#4) ∧
  decodeWords 0x32286000#32 0#32 = .ok (.red false (.s 5) (.v 6#6) .add) ∧
  decodeWords 0x04006005#32 0#32 = .ok (.wbase false 6#3)

/-- R106, R145, R160, R290, R298. The order of the agents is the model's (log entry 2), and so are the fetch through the instruction cache's words
(log entry 39), that no instruction of a wave runs without a slot (log entry 70), and that BREAK is taken where the instruction does not trap, also
where it stalls and in a handler (log entry 12) (DESIGN CHOICE). -/
def Obligations.StepRunsTheInstruction : Prop :=
  (∀ s : State, step s = (afterPick s).act (whoMoves s)) ∧
  (∀ (s : State) (i : Instr), (isStep i = true → s.act (.event i) = exec i s) ∧ (isStep i = false → s.act (.event i) = .next s)) ∧
  (∀ (s : State) (k : Nat) (w : Wave), s.waves.find k = some w →
    (s.chosen.contains k = false → s.act (.issue k) = .next s) ∧
    (∀ slot, w.nextSlot = some slot → s.chosen.contains k = true → s.act (.issue k) = s.issueSlot k slot) ∧
    (s.chosen.contains k = true → ∃ v, (k, v) ∈ s.waves ∧ s.mayIssue k v = true) ∧
    (s.withheld k w = true ∨ w.runs = false ∨ s.delivered w.id.cluster = false → s.mayIssue k w = false)) ∧
  (∀ (s : State) (k : Nat) (slot : Bool) (w : Wave), s.waves.find k = some w → (s.latch k slot).breaks = true →
    let l := s.latch k slot
    ∀ i v t, l.fetchInstr l.pc.toNat = .ok (i, v) → isXw i = false → exec i v = .next t →
      s.issueSlot k slot = .next ((if t.iss.out = .trapped then t else l.takeTrap ⟨.brk, 0#64, 0#64, l.mask⟩).afterIssue k slot w.id
        (s.withholdClass k) (t.issueWeight w.id (s.wgAt w.id.wgKey).kern.con.toNat true i))) ∧
  (∀ (s : State) (k : Nat) (slot : Bool) (w : Wave), s.waves.find k = some w → (s.latch k slot).breaks = false →
    let l := s.latch k slot
    (∀ i v, l.fetchInstr l.pc.toNat = .ok (i, v) → isXw i = false → IssueRuns s k slot w i v) ∧
    (∀ x v u j t, l.fetchInstr l.pc.toNat = .ok (.xw x, v) → exec (.xw x) v = .next u → u.fetchInstr (u.pc.toNat + 4) = .ok (j, t) →
      IssueRuns s k slot w j t) ∧
    (∀ e v, l.fetchInstr l.pc.toNat = .error (e, v) → ∃ pj, s.issueSlot k slot =
      .next ((v.takeTrap e).afterIssue k slot w.id (s.withholdClass k) pj))) ∧
  (∀ (s v : State) (va : Nat) (w : Word32) (i : Instr), s.fetchWord va = .ok (w, v) →
    let u := { v with iss := { v.iss with word := w } }
    (decodeBytes (bytesOfWord32 w) = .ok (i, []) → s.fetchInstr va = .ok (i, u)) ∧
    (∀ w1 t, hasSecondWord w = true → u.fetchWord (va + 4) = .ok (w1, t) →
      decodeBytes (bytesOfWord32 w ++ bytesOfWord32 w1) = .ok (i, []) → s.fetchInstr va = .ok (i, t))) ∧
  (∀ (s : State) (va pa : Nat), s.fetchXlat s.wave.id.cluster s.wave.id.asid.toNat va = .ok pa →
    let held := s.caches.ic.find (unitKey (icUnit s.wave.id.gcore s.wave.id.asid.toNat) pa)
    held.isSome = true ∨ s.ueAt pa = false →
    ∃ v, s.fetchWord va = .ok (match held with
      | some e => e.word
      | none => word32Of ((fourAt pa).map s.homeRead), v) ∧ v.waves = s.waves ∧ v.wgs = s.wgs ∧ v.ctxs = s.ctxs) ∧
  (∀ (t : State) (k : Nat) (slot : Bool) (id : WaveId) (cls pj : Nat), t.iss.out ≠ .stalled →
    let r := t.afterIssue k slot id cls pj
    r.mem = t.mem ∧ r.iss = Issue.none ∧ r.issuedNow = t.issuedNow ++ id.issuers ∧
      r.pw.allow.get 0 id.cluster = t.pw.allow.get 0 id.cluster - (pj : Int) ∧ (∀ j, j ≠ k → r.waves.find j = t.waves.find j) ∧
      ∀ v, t.waves.find k = some v →
        let p : Pcs := { v.pcs with lastIssued := slot }
        r.waves.find k = some { v with age := 0, since := 0, pcs := p }) ∧
  (∀ (i : Instr) (s : State), (encode i).isSome = true → s.issuing = false → exec i s = .fault .noSlot)

/-- The canonical form of memory and R321; device time is the count's low 64 bits (log entry 3, DESIGN CHOICE). -/
def Obligations.StepsKeepTheInvariant : Prop :=
  ∀ s : State, s.mem.wf = true → ∃ t, step s = .next t ∧ t.mem.wf = true ∧ s.now ≤ t.now

/-- The values the spec gives for the start of R327, and the model's of log entries 3 to 5, 14, 15 and 16 (DESIGN CHOICE). -/
def Obligations.ResetState : Prop :=
  let s := State.reset
  s.mem.wf = true ∧ s.waves = [] ∧ s.wgs = [] ∧ s.launches = [] ∧
  (∀ asid, (s.ctxAt asid).live = false ∧ (s.ctxAt asid).stat = 0#3) ∧ s.caches.l1 = [] ∧ s.caches.l2 = [] ∧ s.caches.wcb = [] ∧
  s.caches.ic = [] ∧ (∀ n, s.semCount true 0 n = 0#32 ∧ s.hub.semcfg.get 0#64 n = 0#64) ∧ (∀ a, s.homeRead a = 0#8) ∧
  s.sys.last = 0#2 ∧ s.sys.boots = 0#16 ∧ s.sys.chlth = 0xFFFF#16 ∧ s.sys.rate = 0 ∧ s.sys.colto = 1000000#64 ∧ s.pw.tl = true ∧
  s.pw.cut = 0 ∧ s.eng.lease = none ∧ s.eth.up.get false 0 = true ∧ s.eth.up.get false 1 = true ∧ s.now = 0

end
end

