-- ==== Sys2Proof/Laws/Encode.lean ====
section
/-!
SUPPORT. Reading back the fields of an encoded word: the bits of each format, its fields, and the codes of each kind of field.
-/

namespace Sys2Proof

/-! ## Formats -/

theorem getLsbD_rWord (sw : Bool) (major : BitVec 5) (d : BitVec 7) (a : BitVec 7) (b : BitVec 7) (fn : BitVec 5) (i : Nat) :
    (rWord sw major d a b fn).getLsbD i = if i < 5 then fn.getLsbD i else if i < 12 then b.getLsbD (i - 5) else if i < 19 then a.getLsbD (i - 12) else if i < 26 then d.getLsbD (i - 19) else if i < 31 then major.getLsbD (i - 26) else (decide (i = 31) && sw) := by
  have h : (BitVec.ofBool sw ++ major ++ d ++ a ++ b ++ fn : BitVec (1+5+7+7+7+5)).getLsbD i = if i < 5 then fn.getLsbD i else if i < 12 then b.getLsbD (i - 5) else if i < 19 then a.getLsbD (i - 12) else if i < 26 then d.getLsbD (i - 19) else if i < 31 then major.getLsbD (i - 26) else (decide (i = 31) && sw) := by
    simp only [BitVec.getLsbD_append, BitVec.getLsbD_ofBool]
    repeat' split
    all_goals first | omega | rfl | (congr 1; omega) | (congr 2; (try simp); omega)
  exact h

@[simp] theorem fSw_rWord (sw : Bool) (major : BitVec 5) (d : BitVec 7) (a : BitVec 7) (b : BitVec 7) (fn : BitVec 5) : fSw (rWord sw major d a b fn) = sw := by
  rw [fSw, getLsbD_rWord]; simp

@[simp] theorem fMajor_rWord (sw : Bool) (major : BitVec 5) (d : BitVec 7) (a : BitVec 7) (b : BitVec 7) (fn : BitVec 5) : fMajor (rWord sw major d a b fn) = major := by
  apply BitVec.eq_of_getLsbD_eq
  intro i hi
  simp only [fMajor, BitVec.getLsbD_extractLsb', getLsbD_rWord]
  repeat' split
  all_goals first | omega | simp [hi]

@[simp] theorem fD_rWord (sw : Bool) (major : BitVec 5) (d : BitVec 7) (a : BitVec 7) (b : BitVec 7) (fn : BitVec 5) : fD (rWord sw major d a b fn) = d := by
  apply BitVec.eq_of_getLsbD_eq
  intro i hi
  simp only [fD, BitVec.getLsbD_extractLsb', getLsbD_rWord]
  repeat' split
  all_goals first | omega | simp [hi]

@[simp] theorem fA_rWord (sw : Bool) (major : BitVec 5) (d : BitVec 7) (a : BitVec 7) (b : BitVec 7) (fn : BitVec 5) : fA (rWord sw major d a b fn) = a := by
  apply BitVec.eq_of_getLsbD_eq
  intro i hi
  simp only [fA, BitVec.getLsbD_extractLsb', getLsbD_rWord]
  repeat' split
  all_goals first | omega | simp [hi]

@[simp] theorem fB_rWord (sw : Bool) (major : BitVec 5) (d : BitVec 7) (a : BitVec 7) (b : BitVec 7) (fn : BitVec 5) : fB (rWord sw major d a b fn) = b := by
  apply BitVec.eq_of_getLsbD_eq
  intro i hi
  simp only [fB, BitVec.getLsbD_extractLsb', getLsbD_rWord]
  repeat' split
  all_goals first | omega | simp [hi]

@[simp] theorem fFn_rWord (sw : Bool) (major : BitVec 5) (d : BitVec 7) (a : BitVec 7) (b : BitVec 7) (fn : BitVec 5) : fFn (rWord sw major d a b fn) = fn := by
  apply BitVec.eq_of_getLsbD_eq
  intro i hi
  simp only [fFn, BitVec.getLsbD_extractLsb', getLsbD_rWord]
  repeat' split
  all_goals first | omega | simp [hi]

theorem getLsbD_iWord (sw : Bool) (major : BitVec 5) (d : BitVec 7) (a : BitVec 7) (imm : BitVec 12) (i : Nat) :
    (iWord sw major d a imm).getLsbD i = if i < 12 then imm.getLsbD i else if i < 19 then a.getLsbD (i - 12) else if i < 26 then d.getLsbD (i - 19) else if i < 31 then major.getLsbD (i - 26) else (decide (i = 31) && sw) := by
  have h : (BitVec.ofBool sw ++ major ++ d ++ a ++ imm : BitVec (1+5+7+7+12)).getLsbD i = if i < 12 then imm.getLsbD i else if i < 19 then a.getLsbD (i - 12) else if i < 26 then d.getLsbD (i - 19) else if i < 31 then major.getLsbD (i - 26) else (decide (i = 31) && sw) := by
    simp only [BitVec.getLsbD_append, BitVec.getLsbD_ofBool]
    repeat' split
    all_goals first | omega | rfl | (congr 1; omega) | (congr 2; (try simp); omega)
  exact h

@[simp] theorem fSw_iWord (sw : Bool) (major : BitVec 5) (d : BitVec 7) (a : BitVec 7) (imm : BitVec 12) : fSw (iWord sw major d a imm) = sw := by
  rw [fSw, getLsbD_iWord]; simp

@[simp] theorem fMajor_iWord (sw : Bool) (major : BitVec 5) (d : BitVec 7) (a : BitVec 7) (imm : BitVec 12) : fMajor (iWord sw major d a imm) = major := by
  apply BitVec.eq_of_getLsbD_eq
  intro i hi
  simp only [fMajor, BitVec.getLsbD_extractLsb', getLsbD_iWord]
  repeat' split
  all_goals first | omega | simp [hi]

@[simp] theorem fD_iWord (sw : Bool) (major : BitVec 5) (d : BitVec 7) (a : BitVec 7) (imm : BitVec 12) : fD (iWord sw major d a imm) = d := by
  apply BitVec.eq_of_getLsbD_eq
  intro i hi
  simp only [fD, BitVec.getLsbD_extractLsb', getLsbD_iWord]
  repeat' split
  all_goals first | omega | simp [hi]

@[simp] theorem fA_iWord (sw : Bool) (major : BitVec 5) (d : BitVec 7) (a : BitVec 7) (imm : BitVec 12) : fA (iWord sw major d a imm) = a := by
  apply BitVec.eq_of_getLsbD_eq
  intro i hi
  simp only [fA, BitVec.getLsbD_extractLsb', getLsbD_iWord]
  repeat' split
  all_goals first | omega | simp [hi]

@[simp] theorem fImm_iWord (sw : Bool) (major : BitVec 5) (d : BitVec 7) (a : BitVec 7) (imm : BitVec 12) : fImm (iWord sw major d a imm) = imm := by
  apply BitVec.eq_of_getLsbD_eq
  intro i hi
  simp only [fImm, BitVec.getLsbD_extractLsb', getLsbD_iWord]
  repeat' split
  all_goals first | omega | simp [hi]

theorem getLsbD_bWord (sw : Bool) (major : BitVec 5) (cond : BitVec 5) (off : BitVec 21) (i : Nat) :
    (bWord sw major cond off).getLsbD i = if i < 21 then off.getLsbD i else if i < 26 then cond.getLsbD (i - 21) else if i < 31 then major.getLsbD (i - 26) else (decide (i = 31) && sw) := by
  have h : (BitVec.ofBool sw ++ major ++ cond ++ off : BitVec (1+5+5+21)).getLsbD i = if i < 21 then off.getLsbD i else if i < 26 then cond.getLsbD (i - 21) else if i < 31 then major.getLsbD (i - 26) else (decide (i = 31) && sw) := by
    simp only [BitVec.getLsbD_append, BitVec.getLsbD_ofBool]
    repeat' split
    all_goals first | omega | rfl | (congr 1; omega) | (congr 2; (try simp); omega)
  exact h

@[simp] theorem fSw_bWord (sw : Bool) (major : BitVec 5) (cond : BitVec 5) (off : BitVec 21) : fSw (bWord sw major cond off) = sw := by
  rw [fSw, getLsbD_bWord]; simp

@[simp] theorem fMajor_bWord (sw : Bool) (major : BitVec 5) (cond : BitVec 5) (off : BitVec 21) : fMajor (bWord sw major cond off) = major := by
  apply BitVec.eq_of_getLsbD_eq
  intro i hi
  simp only [fMajor, BitVec.getLsbD_extractLsb', getLsbD_bWord]
  repeat' split
  all_goals first | omega | simp [hi]

@[simp] theorem fCond_bWord (sw : Bool) (major : BitVec 5) (cond : BitVec 5) (off : BitVec 21) : fCond (bWord sw major cond off) = cond := by
  apply BitVec.eq_of_getLsbD_eq
  intro i hi
  simp only [fCond, BitVec.getLsbD_extractLsb', getLsbD_bWord]
  repeat' split
  all_goals first | omega | simp [hi]

@[simp] theorem fOff_bWord (sw : Bool) (major : BitVec 5) (cond : BitVec 5) (off : BitVec 21) : fOff (bWord sw major cond off) = off := by
  apply BitVec.eq_of_getLsbD_eq
  intro i hi
  simp only [fOff, BitVec.getLsbD_extractLsb', getLsbD_bWord]
  repeat' split
  all_goals first | omega | simp [hi]

theorem getLsbD_mWord (sw : Bool) (major : BitVec 5) (data : BitVec 7) (offset : BitVec 7) (r : BitVec 4) (ord : BitVec 3) (fn : BitVec 5) (i : Nat) :
    (mWord sw major data offset r ord fn).getLsbD i = if i < 5 then fn.getLsbD i else if i < 8 then ord.getLsbD (i - 5) else if i < 12 then r.getLsbD (i - 8) else if i < 19 then offset.getLsbD (i - 12) else if i < 26 then data.getLsbD (i - 19) else if i < 31 then major.getLsbD (i - 26) else (decide (i = 31) && sw) := by
  have h : (BitVec.ofBool sw ++ major ++ data ++ offset ++ r ++ ord ++ fn : BitVec (1+5+7+7+4+3+5)).getLsbD i = if i < 5 then fn.getLsbD i else if i < 8 then ord.getLsbD (i - 5) else if i < 12 then r.getLsbD (i - 8) else if i < 19 then offset.getLsbD (i - 12) else if i < 26 then data.getLsbD (i - 19) else if i < 31 then major.getLsbD (i - 26) else (decide (i = 31) && sw) := by
    simp only [BitVec.getLsbD_append, BitVec.getLsbD_ofBool]
    repeat' split
    all_goals first | omega | rfl | (congr 1; omega) | (congr 2; (try simp); omega)
  exact h

@[simp] theorem fSw_mWord (sw : Bool) (major : BitVec 5) (data : BitVec 7) (offset : BitVec 7) (r : BitVec 4) (ord : BitVec 3) (fn : BitVec 5) : fSw (mWord sw major data offset r ord fn) = sw := by
  rw [fSw, getLsbD_mWord]; simp

@[simp] theorem fMajor_mWord (sw : Bool) (major : BitVec 5) (data : BitVec 7) (offset : BitVec 7) (r : BitVec 4) (ord : BitVec 3) (fn : BitVec 5) : fMajor (mWord sw major data offset r ord fn) = major := by
  apply BitVec.eq_of_getLsbD_eq
  intro i hi
  simp only [fMajor, BitVec.getLsbD_extractLsb', getLsbD_mWord]
  repeat' split
  all_goals first | omega | simp [hi]

@[simp] theorem fD_mWord (sw : Bool) (major : BitVec 5) (data : BitVec 7) (offset : BitVec 7) (r : BitVec 4) (ord : BitVec 3) (fn : BitVec 5) : fD (mWord sw major data offset r ord fn) = data := by
  apply BitVec.eq_of_getLsbD_eq
  intro i hi
  simp only [fD, BitVec.getLsbD_extractLsb', getLsbD_mWord]
  repeat' split
  all_goals first | omega | simp [hi]

@[simp] theorem fA_mWord (sw : Bool) (major : BitVec 5) (data : BitVec 7) (offset : BitVec 7) (r : BitVec 4) (ord : BitVec 3) (fn : BitVec 5) : fA (mWord sw major data offset r ord fn) = offset := by
  apply BitVec.eq_of_getLsbD_eq
  intro i hi
  simp only [fA, BitVec.getLsbD_extractLsb', getLsbD_mWord]
  repeat' split
  all_goals first | omega | simp [hi]

@[simp] theorem mWord_r (sw : Bool) (major : BitVec 5) (data : BitVec 7) (offset : BitVec 7) (r : BitVec 4) (ord : BitVec 3) (fn : BitVec 5) : (mWord sw major data offset r ord fn).extractLsb' 8 4 = r := by
  apply BitVec.eq_of_getLsbD_eq
  intro i hi
  simp only [BitVec.getLsbD_extractLsb', getLsbD_mWord]
  repeat' split
  all_goals first | omega | simp [hi]

@[simp] theorem mWord_ord (sw : Bool) (major : BitVec 5) (data : BitVec 7) (offset : BitVec 7) (r : BitVec 4) (ord : BitVec 3) (fn : BitVec 5) : (mWord sw major data offset r ord fn).extractLsb' 5 3 = ord := by
  apply BitVec.eq_of_getLsbD_eq
  intro i hi
  simp only [BitVec.getLsbD_extractLsb', getLsbD_mWord]
  repeat' split
  all_goals first | omega | simp [hi]

@[simp] theorem fFn_mWord (sw : Bool) (major : BitVec 5) (data : BitVec 7) (offset : BitVec 7) (r : BitVec 4) (ord : BitVec 3) (fn : BitVec 5) : fFn (mWord sw major data offset r ord fn) = fn := by
  apply BitVec.eq_of_getLsbD_eq
  intro i hi
  simp only [fFn, BitVec.getLsbD_extractLsb', getLsbD_mWord]
  repeat' split
  all_goals first | omega | simp [hi]

theorem getLsbD_mcWord (sw : Bool) (cid : BitVec 6) (mid : BitVec 12) (sub : BitVec 8) (i : Nat) :
    (mcWord sw cid mid sub).getLsbD i = if i < 8 then sub.getLsbD i else if i < 20 then mid.getLsbD (i - 8) else if i < 26 then cid.getLsbD (i - 20) else if i < 31 then (18#5).getLsbD (i - 26) else (decide (i = 31) && sw) := by
  have h : (BitVec.ofBool sw ++ (18#5) ++ cid ++ mid ++ sub : BitVec (1+5+6+12+8)).getLsbD i = if i < 8 then sub.getLsbD i else if i < 20 then mid.getLsbD (i - 8) else if i < 26 then cid.getLsbD (i - 20) else if i < 31 then (18#5).getLsbD (i - 26) else (decide (i = 31) && sw) := by
    simp only [BitVec.getLsbD_append, BitVec.getLsbD_ofBool]
    repeat' split
    all_goals first | omega | rfl | (congr 1; omega) | (congr 2; (try simp); omega)
  exact h

@[simp] theorem fSw_mcWord (sw : Bool) (cid : BitVec 6) (mid : BitVec 12) (sub : BitVec 8) : fSw (mcWord sw cid mid sub) = sw := by
  rw [fSw, getLsbD_mcWord]; simp

@[simp] theorem fMajor_mcWord (sw : Bool) (cid : BitVec 6) (mid : BitVec 12) (sub : BitVec 8) : fMajor (mcWord sw cid mid sub) = (18#5) := by
  apply BitVec.eq_of_getLsbD_eq
  intro i hi
  simp only [fMajor, BitVec.getLsbD_extractLsb', getLsbD_mcWord]
  repeat' split
  all_goals first | omega | simp [hi]

@[simp] theorem mcWord_cid (sw : Bool) (cid : BitVec 6) (mid : BitVec 12) (sub : BitVec 8) : (mcWord sw cid mid sub).extractLsb' 20 6 = cid := by
  apply BitVec.eq_of_getLsbD_eq
  intro i hi
  simp only [BitVec.getLsbD_extractLsb', getLsbD_mcWord]
  repeat' split
  all_goals first | omega | simp [hi]

@[simp] theorem mcWord_mid (sw : Bool) (cid : BitVec 6) (mid : BitVec 12) (sub : BitVec 8) : (mcWord sw cid mid sub).extractLsb' 8 12 = mid := by
  apply BitVec.eq_of_getLsbD_eq
  intro i hi
  simp only [BitVec.getLsbD_extractLsb', getLsbD_mcWord]
  repeat' split
  all_goals first | omega | simp [hi]

@[simp] theorem mcWord_sub (sw : Bool) (cid : BitVec 6) (mid : BitVec 12) (sub : BitVec 8) : (mcWord sw cid mid sub).extractLsb' 0 8 = sub := by
  apply BitVec.eq_of_getLsbD_eq
  intro i hi
  simp only [BitVec.getLsbD_extractLsb', getLsbD_mcWord]
  repeat' split
  all_goals first | omega | simp [hi]

@[simp] theorem fMajor_xwWord (x : Xw) : fMajor (xwWord x) = 31#5 := by
  apply BitVec.eq_of_getLsbD_eq
  intro i hi
  have h : (0#1 ++ 31#5 ++ x.permA ++ x.argA ++ x.permB ++ x.argB ++ x.pred ++ BitVec.ofBool x.pneg ++ x.immhi :
      BitVec (1+5+3+3+3+3+3+1+10)).getLsbD (26 + i) = (31#5).getLsbD i := by
    simp only [BitVec.getLsbD_append]
    repeat' split
    all_goals first | omega | (congr 1; omega)
  simp only [fMajor, BitVec.getLsbD_extractLsb', hi, decide_true, Bool.true_and]
  exact h

/-! ## Words and bytes -/

/-- The four bytes of a word are the word again. -/
theorem word32OfBytes_bytesOfWord32 (w : Word32) :
    word32OfBytes (w.extractLsb' 0 8) (w.extractLsb' 8 8) (w.extractLsb' 16 8) (w.extractLsb' 24 8) = w := by
  apply BitVec.eq_of_getLsbD_eq
  intro i hi
  have h : (w.extractLsb' 24 8 ++ w.extractLsb' 16 8 ++ w.extractLsb' 8 8 ++ w.extractLsb' 0 8 : BitVec (8+8+8+8)).getLsbD i = w.getLsbD i := by
    simp only [BitVec.getLsbD_append, BitVec.getLsbD_extractLsb']
    by_cases h1 : i < 8
    · simp [h1]
    · by_cases h2 : i < 16
      · simp [h1, show i - 8 < 8 by omega, show 8 + (i - 8) = i by omega]
      · by_cases h3 : i < 24
        · simp [h1, show ¬ i - 8 < 8 by omega, show i - 8 - 8 < 8 by omega, show 16 + (i - 8 - 8) = i by omega]
        · simp [h1, show ¬ i - 8 < 8 by omega, show ¬ i - 8 - 8 < 8 by omega, show i - 8 - 8 - 8 < 8 by omega,
            show 24 + (i - 8 - 8 - 8) = i by omega]
  exact h

/-! ## Codes -/

@[simp] theorem Opd.ofCode_code (o : Opd) : Opd.ofCode o.code = o := by
  cases o with
  | v c => revert c; decide
  | s c => revert c; decide
  | g c => revert c; decide
  | bad c => revert c; decide
  | _ => rfl
@[simp] theorem Opd.code_ofCode (c : BitVec 7) : (Opd.ofCode c).code = c := by revert c; decide
@[simp] theorem ICond.ofCode_code (c : ICond) : ICond.ofCode c.code = some c := by cases c <;> rfl
@[simp] theorem FType.ofCode_code (c : FType) : FType.ofCode c.code = some c := by cases c <;> rfl
@[simp] theorem CvtPair.ofCode_code (c : CvtPair) : CvtPair.ofCode c.code = some c := by cases c <;> rfl
@[simp] theorem MemSize.ofCode_code (c : MemSize) : MemSize.ofCode c.code = some c := by cases c <;> rfl
@[simp] theorem AtomOp.ofCode_code (c : AtomOp) : AtomOp.ofCode c.code = some c := by cases c <;> rfl
@[simp] theorem FenceKind.ofCode_code (c : FenceKind) : FenceKind.ofCode c.code = some c := by cases c <;> rfl
@[simp] theorem FCond.ofCode_code (c : FCond) : FCond.ofCode c.code = c := by cases c <;> rfl
@[simp] theorem PlogOp.ofCode_code (c : PlogOp) : PlogOp.ofCode c.code = c := by cases c <;> rfl
@[simp] theorem OrdCode.ofCode_code (c : OrdCode) : OrdCode.ofCode c.code = c := by cases c <;> rfl
@[simp] theorem RedOp.ofCode_code (c : RedOp) : RedOp.ofCode c.code = c := by cases c <;> rfl
@[simp] theorem ScanOp.ofCode_code (c : ScanOp) : ScanOp.ofCode c.code = c := by cases c <;> rfl
@[simp] theorem BruMode.ofCode_code (c : BruMode) : BruMode.ofCode c.code = c := by cases c <;> rfl
@[simp] theorem FCond.code_ofCode (c : BitVec 3) : (FCond.ofCode c).code = c := by revert c; decide
@[simp] theorem PlogOp.code_ofCode (c : BitVec 3) : (PlogOp.ofCode c).code = c := by revert c; decide
@[simp] theorem OrdCode.code_ofCode (c : BitVec 3) : (OrdCode.ofCode c).code = c := by revert c; decide
@[simp] theorem RedOp.code_ofCode (c : BitVec 3) : (RedOp.ofCode c).code = c := by revert c; decide
@[simp] theorem ScanOp.code_ofCode (c : BitVec 2) : (ScanOp.ofCode c).code = c := by revert c; decide
@[simp] theorem BruMode.code_ofCode (c : BitVec 2) : (BruMode.ofCode c).code = c := by revert c; decide
theorem ICond.code_of_ofCode (c : BitVec 3) (x : ICond) (h : ICond.ofCode c = some x) : x.code = c := by
  have h1 : ∀ c : BitVec 3, (ICond.ofCode c).all (fun x => x.code == c) = true := by decide
  have h2 := h1 c
  simpa [h] using h2
theorem FType.code_of_ofCode (c : BitVec 2) (x : FType) (h : FType.ofCode c = some x) : x.code = c := by
  have h1 : ∀ c : BitVec 2, (FType.ofCode c).all (fun x => x.code == c) = true := by decide
  have h2 := h1 c
  simpa [h] using h2
theorem CvtPair.code_of_ofCode (c : BitVec 5) (x : CvtPair) (h : CvtPair.ofCode c = some x) : x.code = c := by
  have h1 : ∀ c : BitVec 5, (CvtPair.ofCode c).all (fun x => x.code == c) = true := by decide
  have h2 := h1 c
  simpa [h] using h2
theorem MemSize.code_of_ofCode (c : BitVec 3) (x : MemSize) (h : MemSize.ofCode c = some x) : x.code = c := by
  have h1 : ∀ c : BitVec 3, (MemSize.ofCode c).all (fun x => x.code == c) = true := by decide
  have h2 := h1 c
  simpa [h] using h2
theorem AtomOp.code_of_ofCode (c : BitVec 4) (x : AtomOp) (h : AtomOp.ofCode c = some x) : x.code = c := by
  have h1 : ∀ c : BitVec 4, (AtomOp.ofCode c).all (fun x => x.code == c) = true := by decide
  have h2 := h1 c
  simpa [h] using h2
theorem FenceKind.code_of_ofCode (c : BitVec 2) (x : FenceKind) (h : FenceKind.ofCode c = some x) : x.code = c := by
  have h1 : ∀ c : BitVec 2, (FenceKind.ofCode c).all (fun x => x.code == c) = true := by decide
  have h2 := h1 c
  simpa [h] using h2

end Sys2Proof
end

