-- ==== Sys2Proof/Laws/FMap.lean ====
section
/-!
SUPPORT. Laws of sparse storage: what a read gives after a write, and that canonical writes keep the canonical form.
-/

namespace Sys2Proof.Machine.FMap

variable {α : Type}

@[simp] theorem find_nil (k : Nat) : find ([] : FMap α) k = none := rfl

theorem find_cons (j : Nat) (v : α) (t : FMap α) (k : Nat) : find ((j, v) :: t) k = if j = k then some v else find t k := rfl

@[simp] theorem find_put_same (m : FMap α) (k : Nat) (v : α) : find (put m k v) k = some v := by
  induction m with
  | nil => simp [put, find_cons]
  | cons e t ih =>
    obtain ⟨j, x⟩ := e
    simp only [put]
    split
    · simp [find_cons]
    · split
      · simp [find_cons]
      · rename_i h; simp [find_cons, h, ih]

theorem find_put_other (m : FMap α) {k j : Nat} (v : α) (h : j ≠ k) : find (put m k v) j = find m j := by
  induction m with
  | nil => simp [put, find_cons, h.symm]
  | cons e t ih =>
    obtain ⟨i, x⟩ := e
    simp only [put]
    split
    · simp [find_cons, h.symm]
    · split
      · rename_i hi; subst hi; simp [find_cons, h.symm]
      · simp [find_cons, ih]

@[simp] theorem find_erase_same (m : FMap α) (k : Nat) : find (erase m k) k = none := by
  induction m with
  | nil => rfl
  | cons e t ih =>
    obtain ⟨j, x⟩ := e
    by_cases h : j = k
    · subst h; simpa [erase] using ih
    · simp only [erase, List.filter_cons, bne_iff_ne, ne_eq, h, not_false_eq_true, if_true, find_cons, if_false]; exact ih

theorem find_erase_other (m : FMap α) {k j : Nat} (h : j ≠ k) : find (erase m k) j = find m j := by
  induction m with
  | nil => rfl
  | cons e t ih =>
    obtain ⟨i, x⟩ := e
    by_cases hi : i = k
    · subst hi; simpa [erase, find_cons, h.symm] using ih
    · simp only [erase, List.filter_cons, bne_iff_ne, ne_eq, hi, not_false_eq_true, if_true, find_cons]
      split
      · rfl
      · exact ih

@[simp] theorem get_put_same (d : α) (m : FMap α) (k : Nat) (v : α) : get d (put m k v) k = v := by simp [get]

theorem get_put_other (d : α) (m : FMap α) {k j : Nat} (v : α) (h : j ≠ k) : get d (put m k v) j = get d m j := by
  simp [get, find_put_other m v h]

@[simp] theorem get_set_same [DecidableEq α] (d : α) (m : FMap α) (k : Nat) (v : α) : get d (set d m k v) k = v := by
  unfold set; split
  · rename_i h; simp [get, h]
  · simp

theorem get_set_other [DecidableEq α] (d : α) (m : FMap α) {k j : Nat} (v : α) (h : j ≠ k) :
    get d (set d m k v) j = get d m j := by
  unfold set; split
  · simp [get, find_erase_other m h]
  · exact get_put_other d m v h

theorem get_set [DecidableEq α] (d : α) (m : FMap α) (k j : Nat) (v : α) :
    get d (set d m k v) j = if j = k then v else get d m j := by
  split
  · rename_i h; subst h; simp
  · rename_i h; exact get_set_other d m v h

/-! ## The canonical form -/

theorem mem_put (m : FMap α) (k : Nat) (v : α) (e : Nat × α) (h : e ∈ put m k v) : e = (k, v) ∨ e ∈ m := by
  induction m with
  | nil => simpa [put] using h
  | cons x t ih =>
    obtain ⟨j, y⟩ := x
    simp only [put] at h
    split at h
    · simpa using h
    · split at h
      · simp only [List.mem_cons] at h ⊢; tauto
      · simp only [List.mem_cons] at h ⊢
        rcases h with h | h
        · exact Or.inr (Or.inl h)
        · rcases ih h with h | h <;> tauto

theorem sorted_put (m : FMap α) (k : Nat) (v : α) (h : Sorted m) : Sorted (put m k v) := by
  unfold Sorted at *
  induction m with
  | nil => simp [put]
  | cons x t ih =>
    obtain ⟨j, y⟩ := x
    rw [List.pairwise_cons] at h
    simp only [put]
    split
    · rename_i hk
      rw [List.pairwise_cons]
      refine ⟨fun e he => ?_, List.pairwise_cons.2 h⟩
      rcases List.mem_cons.1 he with he | he
      · subst he; exact hk
      · exact Nat.lt_trans hk (h.1 e he)
    · split
      · rename_i hj; subst hj; exact List.pairwise_cons.2 ⟨h.1, h.2⟩
      · rename_i hk hj
        rw [List.pairwise_cons]
        refine ⟨fun e he => ?_, ih h.2⟩
        rcases mem_put t k v e he with he | he
        · subst he; simp only; omega
        · exact h.1 e he

theorem sorted_erase (m : FMap α) (k : Nat) (h : Sorted m) : Sorted (erase m k) := List.Pairwise.filter _ h

/-- A canonical write keeps the canonical form. -/
theorem canon_set [DecidableEq α] (d : α) (m : FMap α) (k : Nat) (v : α) (h : Canon d m) : Canon d (set d m k v) := by
  unfold set; split
  · exact ⟨sorted_erase m k h.1, fun e he => h.2 e (List.mem_filter.1 he).1⟩
  · rename_i hv
    refine ⟨sorted_put m k v h.1, fun e he => ?_⟩
    rcases mem_put m k v e he with he | he
    · subst he; exact hv
    · exact h.2 e he

theorem canon_nil (d : α) : Canon d ([] : FMap α) := ⟨List.Pairwise.nil, fun _ h => nomatch h⟩

end Sys2Proof.Machine.FMap
end

