-- ==== Sys2Proof/Laws/State.lean ====
section
/-!
SUPPORT. What each update of a part of the state leaves in each field, so that no proof unfolds a record update; reading a part back after
writing it; the laws of memory.
-/

namespace Sys2Proof.Machine

/-! ### setWaveAt -/

@[simp] theorem State.setWaveAt_mem (s : State) (k : Nat) (w : Wave) : (s.setWaveAt k w).mem = s.mem := rfl
@[simp] theorem State.setWaveAt_waves (s : State) (k : Nat) (w : Wave) : (s.setWaveAt k w).waves = s.waves.put k w := rfl
@[simp] theorem State.setWaveAt_wgs (s : State) (k : Nat) (w : Wave) : (s.setWaveAt k w).wgs = s.wgs := rfl
@[simp] theorem State.setWaveAt_launches (s : State) (k : Nat) (w : Wave) : (s.setWaveAt k w).launches = s.launches := rfl
@[simp] theorem State.setWaveAt_ctxs (s : State) (k : Nat) (w : Wave) : (s.setWaveAt k w).ctxs = s.ctxs := rfl
@[simp] theorem State.setWaveAt_hub (s : State) (k : Nat) (w : Wave) : (s.setWaveAt k w).hub = s.hub := rfl
@[simp] theorem State.setWaveAt_belay (s : State) (k : Nat) (w : Wave) : (s.setWaveAt k w).belay = s.belay := rfl
@[simp] theorem State.setWaveAt_caches (s : State) (k : Nat) (w : Wave) : (s.setWaveAt k w).caches = s.caches := rfl
@[simp] theorem State.setWaveAt_tlbs (s : State) (k : Nat) (w : Wave) : (s.setWaveAt k w).tlbs = s.tlbs := rfl
@[simp] theorem State.setWaveAt_eng (s : State) (k : Nat) (w : Wave) : (s.setWaveAt k w).eng = s.eng := rfl
@[simp] theorem State.setWaveAt_pw (s : State) (k : Nat) (w : Wave) : (s.setWaveAt k w).pw = s.pw := rfl
@[simp] theorem State.setWaveAt_sys (s : State) (k : Nat) (w : Wave) : (s.setWaveAt k w).sys = s.sys := rfl
@[simp] theorem State.setWaveAt_harts (s : State) (k : Nat) (w : Wave) : (s.setWaveAt k w).harts = s.harts := rfl
@[simp] theorem State.setWaveAt_eth (s : State) (k : Nat) (w : Wave) : (s.setWaveAt k w).eth = s.eth := rfl
@[simp] theorem State.setWaveAt_now (s : State) (k : Nat) (w : Wave) : (s.setWaveAt k w).now = s.now := rfl
@[simp] theorem State.setWaveAt_cyc (s : State) (k : Nat) (w : Wave) : (s.setWaveAt k w).cyc = s.cyc := rfl
@[simp] theorem State.setWaveAt_issuedNow (s : State) (k : Nat) (w : Wave) : (s.setWaveAt k w).issuedNow = s.issuedNow := rfl
@[simp] theorem State.setWaveAt_endOfCycle (s : State) (k : Nat) (w : Wave) : (s.setWaveAt k w).endOfCycle = s.endOfCycle := rfl
@[simp] theorem State.setWaveAt_tick (s : State) (k : Nat) (w : Wave) : (s.setWaveAt k w).tick = s.tick := rfl
@[simp] theorem State.setWaveAt_iss (s : State) (k : Nat) (w : Wave) : (s.setWaveAt k w).iss = s.iss := rfl
@[simp] theorem State.setWaveAt_agenda (s : State) (k : Nat) (w : Wave) : (s.setWaveAt k w).agenda = s.agenda := rfl

/-! ### setWave -/

@[simp] theorem State.setWave_mem (s : State) (w : Wave) : (s.setWave w).mem = s.mem := rfl
@[simp] theorem State.setWave_waves (s : State) (w : Wave) : (s.setWave w).waves = s.waves.put s.iss.cur w := rfl
@[simp] theorem State.setWave_wgs (s : State) (w : Wave) : (s.setWave w).wgs = s.wgs := rfl
@[simp] theorem State.setWave_launches (s : State) (w : Wave) : (s.setWave w).launches = s.launches := rfl
@[simp] theorem State.setWave_ctxs (s : State) (w : Wave) : (s.setWave w).ctxs = s.ctxs := rfl
@[simp] theorem State.setWave_hub (s : State) (w : Wave) : (s.setWave w).hub = s.hub := rfl
@[simp] theorem State.setWave_belay (s : State) (w : Wave) : (s.setWave w).belay = s.belay := rfl
@[simp] theorem State.setWave_caches (s : State) (w : Wave) : (s.setWave w).caches = s.caches := rfl
@[simp] theorem State.setWave_tlbs (s : State) (w : Wave) : (s.setWave w).tlbs = s.tlbs := rfl
@[simp] theorem State.setWave_eng (s : State) (w : Wave) : (s.setWave w).eng = s.eng := rfl
@[simp] theorem State.setWave_pw (s : State) (w : Wave) : (s.setWave w).pw = s.pw := rfl
@[simp] theorem State.setWave_sys (s : State) (w : Wave) : (s.setWave w).sys = s.sys := rfl
@[simp] theorem State.setWave_harts (s : State) (w : Wave) : (s.setWave w).harts = s.harts := rfl
@[simp] theorem State.setWave_eth (s : State) (w : Wave) : (s.setWave w).eth = s.eth := rfl
@[simp] theorem State.setWave_now (s : State) (w : Wave) : (s.setWave w).now = s.now := rfl
@[simp] theorem State.setWave_cyc (s : State) (w : Wave) : (s.setWave w).cyc = s.cyc := rfl
@[simp] theorem State.setWave_issuedNow (s : State) (w : Wave) : (s.setWave w).issuedNow = s.issuedNow := rfl
@[simp] theorem State.setWave_endOfCycle (s : State) (w : Wave) : (s.setWave w).endOfCycle = s.endOfCycle := rfl
@[simp] theorem State.setWave_tick (s : State) (w : Wave) : (s.setWave w).tick = s.tick := rfl
@[simp] theorem State.setWave_iss (s : State) (w : Wave) : (s.setWave w).iss = s.iss := rfl
@[simp] theorem State.setWave_agenda (s : State) (w : Wave) : (s.setWave w).agenda = s.agenda := rfl

/-! ### modWaveAt -/

@[simp] theorem State.modWaveAt_mem (s : State) (k : Nat) (f : Wave → Wave) : (s.modWaveAt k f).mem = s.mem := rfl
@[simp] theorem State.modWaveAt_waves (s : State) (k : Nat) (f : Wave → Wave) : (s.modWaveAt k f).waves = s.waves.put k (f (s.waveAt k)) := rfl
@[simp] theorem State.modWaveAt_wgs (s : State) (k : Nat) (f : Wave → Wave) : (s.modWaveAt k f).wgs = s.wgs := rfl
@[simp] theorem State.modWaveAt_launches (s : State) (k : Nat) (f : Wave → Wave) : (s.modWaveAt k f).launches = s.launches := rfl
@[simp] theorem State.modWaveAt_ctxs (s : State) (k : Nat) (f : Wave → Wave) : (s.modWaveAt k f).ctxs = s.ctxs := rfl
@[simp] theorem State.modWaveAt_hub (s : State) (k : Nat) (f : Wave → Wave) : (s.modWaveAt k f).hub = s.hub := rfl
@[simp] theorem State.modWaveAt_belay (s : State) (k : Nat) (f : Wave → Wave) : (s.modWaveAt k f).belay = s.belay := rfl
@[simp] theorem State.modWaveAt_caches (s : State) (k : Nat) (f : Wave → Wave) : (s.modWaveAt k f).caches = s.caches := rfl
@[simp] theorem State.modWaveAt_tlbs (s : State) (k : Nat) (f : Wave → Wave) : (s.modWaveAt k f).tlbs = s.tlbs := rfl
@[simp] theorem State.modWaveAt_eng (s : State) (k : Nat) (f : Wave → Wave) : (s.modWaveAt k f).eng = s.eng := rfl
@[simp] theorem State.modWaveAt_pw (s : State) (k : Nat) (f : Wave → Wave) : (s.modWaveAt k f).pw = s.pw := rfl
@[simp] theorem State.modWaveAt_sys (s : State) (k : Nat) (f : Wave → Wave) : (s.modWaveAt k f).sys = s.sys := rfl
@[simp] theorem State.modWaveAt_harts (s : State) (k : Nat) (f : Wave → Wave) : (s.modWaveAt k f).harts = s.harts := rfl
@[simp] theorem State.modWaveAt_eth (s : State) (k : Nat) (f : Wave → Wave) : (s.modWaveAt k f).eth = s.eth := rfl
@[simp] theorem State.modWaveAt_now (s : State) (k : Nat) (f : Wave → Wave) : (s.modWaveAt k f).now = s.now := rfl
@[simp] theorem State.modWaveAt_cyc (s : State) (k : Nat) (f : Wave → Wave) : (s.modWaveAt k f).cyc = s.cyc := rfl
@[simp] theorem State.modWaveAt_issuedNow (s : State) (k : Nat) (f : Wave → Wave) : (s.modWaveAt k f).issuedNow = s.issuedNow := rfl
@[simp] theorem State.modWaveAt_endOfCycle (s : State) (k : Nat) (f : Wave → Wave) : (s.modWaveAt k f).endOfCycle = s.endOfCycle := rfl
@[simp] theorem State.modWaveAt_tick (s : State) (k : Nat) (f : Wave → Wave) : (s.modWaveAt k f).tick = s.tick := rfl
@[simp] theorem State.modWaveAt_iss (s : State) (k : Nat) (f : Wave → Wave) : (s.modWaveAt k f).iss = s.iss := rfl
@[simp] theorem State.modWaveAt_agenda (s : State) (k : Nat) (f : Wave → Wave) : (s.modWaveAt k f).agenda = s.agenda := rfl

/-! ### setWgAt -/

@[simp] theorem State.setWgAt_mem (s : State) (k : Nat) (g : Wg) : (s.setWgAt k g).mem = s.mem := rfl
@[simp] theorem State.setWgAt_waves (s : State) (k : Nat) (g : Wg) : (s.setWgAt k g).waves = s.waves := rfl
@[simp] theorem State.setWgAt_wgs (s : State) (k : Nat) (g : Wg) : (s.setWgAt k g).wgs = s.wgs.put k g := rfl
@[simp] theorem State.setWgAt_launches (s : State) (k : Nat) (g : Wg) : (s.setWgAt k g).launches = s.launches := rfl
@[simp] theorem State.setWgAt_ctxs (s : State) (k : Nat) (g : Wg) : (s.setWgAt k g).ctxs = s.ctxs := rfl
@[simp] theorem State.setWgAt_hub (s : State) (k : Nat) (g : Wg) : (s.setWgAt k g).hub = s.hub := rfl
@[simp] theorem State.setWgAt_belay (s : State) (k : Nat) (g : Wg) : (s.setWgAt k g).belay = s.belay := rfl
@[simp] theorem State.setWgAt_caches (s : State) (k : Nat) (g : Wg) : (s.setWgAt k g).caches = s.caches := rfl
@[simp] theorem State.setWgAt_tlbs (s : State) (k : Nat) (g : Wg) : (s.setWgAt k g).tlbs = s.tlbs := rfl
@[simp] theorem State.setWgAt_eng (s : State) (k : Nat) (g : Wg) : (s.setWgAt k g).eng = s.eng := rfl
@[simp] theorem State.setWgAt_pw (s : State) (k : Nat) (g : Wg) : (s.setWgAt k g).pw = s.pw := rfl
@[simp] theorem State.setWgAt_sys (s : State) (k : Nat) (g : Wg) : (s.setWgAt k g).sys = s.sys := rfl
@[simp] theorem State.setWgAt_harts (s : State) (k : Nat) (g : Wg) : (s.setWgAt k g).harts = s.harts := rfl
@[simp] theorem State.setWgAt_eth (s : State) (k : Nat) (g : Wg) : (s.setWgAt k g).eth = s.eth := rfl
@[simp] theorem State.setWgAt_now (s : State) (k : Nat) (g : Wg) : (s.setWgAt k g).now = s.now := rfl
@[simp] theorem State.setWgAt_cyc (s : State) (k : Nat) (g : Wg) : (s.setWgAt k g).cyc = s.cyc := rfl
@[simp] theorem State.setWgAt_issuedNow (s : State) (k : Nat) (g : Wg) : (s.setWgAt k g).issuedNow = s.issuedNow := rfl
@[simp] theorem State.setWgAt_endOfCycle (s : State) (k : Nat) (g : Wg) : (s.setWgAt k g).endOfCycle = s.endOfCycle := rfl
@[simp] theorem State.setWgAt_tick (s : State) (k : Nat) (g : Wg) : (s.setWgAt k g).tick = s.tick := rfl
@[simp] theorem State.setWgAt_iss (s : State) (k : Nat) (g : Wg) : (s.setWgAt k g).iss = s.iss := rfl
@[simp] theorem State.setWgAt_agenda (s : State) (k : Nat) (g : Wg) : (s.setWgAt k g).agenda = s.agenda := rfl

/-! ### setWg -/

@[simp] theorem State.setWg_mem (s : State) (g : Wg) : (s.setWg g).mem = s.mem := rfl
@[simp] theorem State.setWg_waves (s : State) (g : Wg) : (s.setWg g).waves = s.waves := rfl
@[simp] theorem State.setWg_wgs (s : State) (g : Wg) : (s.setWg g).wgs = s.wgs.put s.wave.id.wgKey g := rfl
@[simp] theorem State.setWg_launches (s : State) (g : Wg) : (s.setWg g).launches = s.launches := rfl
@[simp] theorem State.setWg_ctxs (s : State) (g : Wg) : (s.setWg g).ctxs = s.ctxs := rfl
@[simp] theorem State.setWg_hub (s : State) (g : Wg) : (s.setWg g).hub = s.hub := rfl
@[simp] theorem State.setWg_belay (s : State) (g : Wg) : (s.setWg g).belay = s.belay := rfl
@[simp] theorem State.setWg_caches (s : State) (g : Wg) : (s.setWg g).caches = s.caches := rfl
@[simp] theorem State.setWg_tlbs (s : State) (g : Wg) : (s.setWg g).tlbs = s.tlbs := rfl
@[simp] theorem State.setWg_eng (s : State) (g : Wg) : (s.setWg g).eng = s.eng := rfl
@[simp] theorem State.setWg_pw (s : State) (g : Wg) : (s.setWg g).pw = s.pw := rfl
@[simp] theorem State.setWg_sys (s : State) (g : Wg) : (s.setWg g).sys = s.sys := rfl
@[simp] theorem State.setWg_harts (s : State) (g : Wg) : (s.setWg g).harts = s.harts := rfl
@[simp] theorem State.setWg_eth (s : State) (g : Wg) : (s.setWg g).eth = s.eth := rfl
@[simp] theorem State.setWg_now (s : State) (g : Wg) : (s.setWg g).now = s.now := rfl
@[simp] theorem State.setWg_cyc (s : State) (g : Wg) : (s.setWg g).cyc = s.cyc := rfl
@[simp] theorem State.setWg_issuedNow (s : State) (g : Wg) : (s.setWg g).issuedNow = s.issuedNow := rfl
@[simp] theorem State.setWg_endOfCycle (s : State) (g : Wg) : (s.setWg g).endOfCycle = s.endOfCycle := rfl
@[simp] theorem State.setWg_tick (s : State) (g : Wg) : (s.setWg g).tick = s.tick := rfl
@[simp] theorem State.setWg_iss (s : State) (g : Wg) : (s.setWg g).iss = s.iss := rfl
@[simp] theorem State.setWg_agenda (s : State) (g : Wg) : (s.setWg g).agenda = s.agenda := rfl

/-! ### modWgAt -/

@[simp] theorem State.modWgAt_mem (s : State) (k : Nat) (f : Wg → Wg) : (s.modWgAt k f).mem = s.mem := rfl
@[simp] theorem State.modWgAt_waves (s : State) (k : Nat) (f : Wg → Wg) : (s.modWgAt k f).waves = s.waves := rfl
@[simp] theorem State.modWgAt_wgs (s : State) (k : Nat) (f : Wg → Wg) : (s.modWgAt k f).wgs = s.wgs.put k (f (s.wgAt k)) := rfl
@[simp] theorem State.modWgAt_launches (s : State) (k : Nat) (f : Wg → Wg) : (s.modWgAt k f).launches = s.launches := rfl
@[simp] theorem State.modWgAt_ctxs (s : State) (k : Nat) (f : Wg → Wg) : (s.modWgAt k f).ctxs = s.ctxs := rfl
@[simp] theorem State.modWgAt_hub (s : State) (k : Nat) (f : Wg → Wg) : (s.modWgAt k f).hub = s.hub := rfl
@[simp] theorem State.modWgAt_belay (s : State) (k : Nat) (f : Wg → Wg) : (s.modWgAt k f).belay = s.belay := rfl
@[simp] theorem State.modWgAt_caches (s : State) (k : Nat) (f : Wg → Wg) : (s.modWgAt k f).caches = s.caches := rfl
@[simp] theorem State.modWgAt_tlbs (s : State) (k : Nat) (f : Wg → Wg) : (s.modWgAt k f).tlbs = s.tlbs := rfl
@[simp] theorem State.modWgAt_eng (s : State) (k : Nat) (f : Wg → Wg) : (s.modWgAt k f).eng = s.eng := rfl
@[simp] theorem State.modWgAt_pw (s : State) (k : Nat) (f : Wg → Wg) : (s.modWgAt k f).pw = s.pw := rfl
@[simp] theorem State.modWgAt_sys (s : State) (k : Nat) (f : Wg → Wg) : (s.modWgAt k f).sys = s.sys := rfl
@[simp] theorem State.modWgAt_harts (s : State) (k : Nat) (f : Wg → Wg) : (s.modWgAt k f).harts = s.harts := rfl
@[simp] theorem State.modWgAt_eth (s : State) (k : Nat) (f : Wg → Wg) : (s.modWgAt k f).eth = s.eth := rfl
@[simp] theorem State.modWgAt_now (s : State) (k : Nat) (f : Wg → Wg) : (s.modWgAt k f).now = s.now := rfl
@[simp] theorem State.modWgAt_cyc (s : State) (k : Nat) (f : Wg → Wg) : (s.modWgAt k f).cyc = s.cyc := rfl
@[simp] theorem State.modWgAt_issuedNow (s : State) (k : Nat) (f : Wg → Wg) : (s.modWgAt k f).issuedNow = s.issuedNow := rfl
@[simp] theorem State.modWgAt_endOfCycle (s : State) (k : Nat) (f : Wg → Wg) : (s.modWgAt k f).endOfCycle = s.endOfCycle := rfl
@[simp] theorem State.modWgAt_tick (s : State) (k : Nat) (f : Wg → Wg) : (s.modWgAt k f).tick = s.tick := rfl
@[simp] theorem State.modWgAt_iss (s : State) (k : Nat) (f : Wg → Wg) : (s.modWgAt k f).iss = s.iss := rfl
@[simp] theorem State.modWgAt_agenda (s : State) (k : Nat) (f : Wg → Wg) : (s.modWgAt k f).agenda = s.agenda := rfl

/-! ### setCtxAt -/

@[simp] theorem State.setCtxAt_mem (s : State) (a : Nat) (c : Ctx) : (s.setCtxAt a c).mem = s.mem := rfl
@[simp] theorem State.setCtxAt_waves (s : State) (a : Nat) (c : Ctx) : (s.setCtxAt a c).waves = s.waves := rfl
@[simp] theorem State.setCtxAt_wgs (s : State) (a : Nat) (c : Ctx) : (s.setCtxAt a c).wgs = s.wgs := rfl
@[simp] theorem State.setCtxAt_launches (s : State) (a : Nat) (c : Ctx) : (s.setCtxAt a c).launches = s.launches := rfl
@[simp] theorem State.setCtxAt_ctxs (s : State) (a : Nat) (c : Ctx) : (s.setCtxAt a c).ctxs = s.ctxs.put a c := rfl
@[simp] theorem State.setCtxAt_hub (s : State) (a : Nat) (c : Ctx) : (s.setCtxAt a c).hub = s.hub := rfl
@[simp] theorem State.setCtxAt_belay (s : State) (a : Nat) (c : Ctx) : (s.setCtxAt a c).belay = s.belay := rfl
@[simp] theorem State.setCtxAt_caches (s : State) (a : Nat) (c : Ctx) : (s.setCtxAt a c).caches = s.caches := rfl
@[simp] theorem State.setCtxAt_tlbs (s : State) (a : Nat) (c : Ctx) : (s.setCtxAt a c).tlbs = s.tlbs := rfl
@[simp] theorem State.setCtxAt_eng (s : State) (a : Nat) (c : Ctx) : (s.setCtxAt a c).eng = s.eng := rfl
@[simp] theorem State.setCtxAt_pw (s : State) (a : Nat) (c : Ctx) : (s.setCtxAt a c).pw = s.pw := rfl
@[simp] theorem State.setCtxAt_sys (s : State) (a : Nat) (c : Ctx) : (s.setCtxAt a c).sys = s.sys := rfl
@[simp] theorem State.setCtxAt_harts (s : State) (a : Nat) (c : Ctx) : (s.setCtxAt a c).harts = s.harts := rfl
@[simp] theorem State.setCtxAt_eth (s : State) (a : Nat) (c : Ctx) : (s.setCtxAt a c).eth = s.eth := rfl
@[simp] theorem State.setCtxAt_now (s : State) (a : Nat) (c : Ctx) : (s.setCtxAt a c).now = s.now := rfl
@[simp] theorem State.setCtxAt_cyc (s : State) (a : Nat) (c : Ctx) : (s.setCtxAt a c).cyc = s.cyc := rfl
@[simp] theorem State.setCtxAt_issuedNow (s : State) (a : Nat) (c : Ctx) : (s.setCtxAt a c).issuedNow = s.issuedNow := rfl
@[simp] theorem State.setCtxAt_endOfCycle (s : State) (a : Nat) (c : Ctx) : (s.setCtxAt a c).endOfCycle = s.endOfCycle := rfl
@[simp] theorem State.setCtxAt_tick (s : State) (a : Nat) (c : Ctx) : (s.setCtxAt a c).tick = s.tick := rfl
@[simp] theorem State.setCtxAt_iss (s : State) (a : Nat) (c : Ctx) : (s.setCtxAt a c).iss = s.iss := rfl
@[simp] theorem State.setCtxAt_agenda (s : State) (a : Nat) (c : Ctx) : (s.setCtxAt a c).agenda = s.agenda := rfl

/-! ### modCtxAt -/

@[simp] theorem State.modCtxAt_mem (s : State) (a : Nat) (f : Ctx → Ctx) : (s.modCtxAt a f).mem = s.mem := rfl
@[simp] theorem State.modCtxAt_waves (s : State) (a : Nat) (f : Ctx → Ctx) : (s.modCtxAt a f).waves = s.waves := rfl
@[simp] theorem State.modCtxAt_wgs (s : State) (a : Nat) (f : Ctx → Ctx) : (s.modCtxAt a f).wgs = s.wgs := rfl
@[simp] theorem State.modCtxAt_launches (s : State) (a : Nat) (f : Ctx → Ctx) : (s.modCtxAt a f).launches = s.launches := rfl
@[simp] theorem State.modCtxAt_ctxs (s : State) (a : Nat) (f : Ctx → Ctx) : (s.modCtxAt a f).ctxs = s.ctxs.put a (f (s.ctxAt a)) := rfl
@[simp] theorem State.modCtxAt_hub (s : State) (a : Nat) (f : Ctx → Ctx) : (s.modCtxAt a f).hub = s.hub := rfl
@[simp] theorem State.modCtxAt_belay (s : State) (a : Nat) (f : Ctx → Ctx) : (s.modCtxAt a f).belay = s.belay := rfl
@[simp] theorem State.modCtxAt_caches (s : State) (a : Nat) (f : Ctx → Ctx) : (s.modCtxAt a f).caches = s.caches := rfl
@[simp] theorem State.modCtxAt_tlbs (s : State) (a : Nat) (f : Ctx → Ctx) : (s.modCtxAt a f).tlbs = s.tlbs := rfl
@[simp] theorem State.modCtxAt_eng (s : State) (a : Nat) (f : Ctx → Ctx) : (s.modCtxAt a f).eng = s.eng := rfl
@[simp] theorem State.modCtxAt_pw (s : State) (a : Nat) (f : Ctx → Ctx) : (s.modCtxAt a f).pw = s.pw := rfl
@[simp] theorem State.modCtxAt_sys (s : State) (a : Nat) (f : Ctx → Ctx) : (s.modCtxAt a f).sys = s.sys := rfl
@[simp] theorem State.modCtxAt_harts (s : State) (a : Nat) (f : Ctx → Ctx) : (s.modCtxAt a f).harts = s.harts := rfl
@[simp] theorem State.modCtxAt_eth (s : State) (a : Nat) (f : Ctx → Ctx) : (s.modCtxAt a f).eth = s.eth := rfl
@[simp] theorem State.modCtxAt_now (s : State) (a : Nat) (f : Ctx → Ctx) : (s.modCtxAt a f).now = s.now := rfl
@[simp] theorem State.modCtxAt_cyc (s : State) (a : Nat) (f : Ctx → Ctx) : (s.modCtxAt a f).cyc = s.cyc := rfl
@[simp] theorem State.modCtxAt_issuedNow (s : State) (a : Nat) (f : Ctx → Ctx) : (s.modCtxAt a f).issuedNow = s.issuedNow := rfl
@[simp] theorem State.modCtxAt_endOfCycle (s : State) (a : Nat) (f : Ctx → Ctx) : (s.modCtxAt a f).endOfCycle = s.endOfCycle := rfl
@[simp] theorem State.modCtxAt_tick (s : State) (a : Nat) (f : Ctx → Ctx) : (s.modCtxAt a f).tick = s.tick := rfl
@[simp] theorem State.modCtxAt_iss (s : State) (a : Nat) (f : Ctx → Ctx) : (s.modCtxAt a f).iss = s.iss := rfl
@[simp] theorem State.modCtxAt_agenda (s : State) (a : Nat) (f : Ctx → Ctx) : (s.modCtxAt a f).agenda = s.agenda := rfl

/-! ### setLaunchAt -/

@[simp] theorem State.setLaunchAt_mem (s : State) (k : Nat) (l : Launch) : (s.setLaunchAt k l).mem = s.mem := rfl
@[simp] theorem State.setLaunchAt_waves (s : State) (k : Nat) (l : Launch) : (s.setLaunchAt k l).waves = s.waves := rfl
@[simp] theorem State.setLaunchAt_wgs (s : State) (k : Nat) (l : Launch) : (s.setLaunchAt k l).wgs = s.wgs := rfl
@[simp] theorem State.setLaunchAt_launches (s : State) (k : Nat) (l : Launch) : (s.setLaunchAt k l).launches = s.launches.put k l := rfl
@[simp] theorem State.setLaunchAt_ctxs (s : State) (k : Nat) (l : Launch) : (s.setLaunchAt k l).ctxs = s.ctxs := rfl
@[simp] theorem State.setLaunchAt_hub (s : State) (k : Nat) (l : Launch) : (s.setLaunchAt k l).hub = s.hub := rfl
@[simp] theorem State.setLaunchAt_belay (s : State) (k : Nat) (l : Launch) : (s.setLaunchAt k l).belay = s.belay := rfl
@[simp] theorem State.setLaunchAt_caches (s : State) (k : Nat) (l : Launch) : (s.setLaunchAt k l).caches = s.caches := rfl
@[simp] theorem State.setLaunchAt_tlbs (s : State) (k : Nat) (l : Launch) : (s.setLaunchAt k l).tlbs = s.tlbs := rfl
@[simp] theorem State.setLaunchAt_eng (s : State) (k : Nat) (l : Launch) : (s.setLaunchAt k l).eng = s.eng := rfl
@[simp] theorem State.setLaunchAt_pw (s : State) (k : Nat) (l : Launch) : (s.setLaunchAt k l).pw = s.pw := rfl
@[simp] theorem State.setLaunchAt_sys (s : State) (k : Nat) (l : Launch) : (s.setLaunchAt k l).sys = s.sys := rfl
@[simp] theorem State.setLaunchAt_harts (s : State) (k : Nat) (l : Launch) : (s.setLaunchAt k l).harts = s.harts := rfl
@[simp] theorem State.setLaunchAt_eth (s : State) (k : Nat) (l : Launch) : (s.setLaunchAt k l).eth = s.eth := rfl
@[simp] theorem State.setLaunchAt_now (s : State) (k : Nat) (l : Launch) : (s.setLaunchAt k l).now = s.now := rfl
@[simp] theorem State.setLaunchAt_cyc (s : State) (k : Nat) (l : Launch) : (s.setLaunchAt k l).cyc = s.cyc := rfl
@[simp] theorem State.setLaunchAt_issuedNow (s : State) (k : Nat) (l : Launch) : (s.setLaunchAt k l).issuedNow = s.issuedNow := rfl
@[simp] theorem State.setLaunchAt_endOfCycle (s : State) (k : Nat) (l : Launch) : (s.setLaunchAt k l).endOfCycle = s.endOfCycle := rfl
@[simp] theorem State.setLaunchAt_tick (s : State) (k : Nat) (l : Launch) : (s.setLaunchAt k l).tick = s.tick := rfl
@[simp] theorem State.setLaunchAt_iss (s : State) (k : Nat) (l : Launch) : (s.setLaunchAt k l).iss = s.iss := rfl
@[simp] theorem State.setLaunchAt_agenda (s : State) (k : Nat) (l : Launch) : (s.setLaunchAt k l).agenda = s.agenda := rfl

/-! ### modLaunchAt -/

@[simp] theorem State.modLaunchAt_mem (s : State) (k : Nat) (f : Launch → Launch) : (s.modLaunchAt k f).mem = s.mem := rfl
@[simp] theorem State.modLaunchAt_waves (s : State) (k : Nat) (f : Launch → Launch) : (s.modLaunchAt k f).waves = s.waves := rfl
@[simp] theorem State.modLaunchAt_wgs (s : State) (k : Nat) (f : Launch → Launch) : (s.modLaunchAt k f).wgs = s.wgs := rfl
@[simp] theorem State.modLaunchAt_launches (s : State) (k : Nat) (f : Launch → Launch) : (s.modLaunchAt k f).launches = s.launches.put k (f (s.launchAt k)) := rfl
@[simp] theorem State.modLaunchAt_ctxs (s : State) (k : Nat) (f : Launch → Launch) : (s.modLaunchAt k f).ctxs = s.ctxs := rfl
@[simp] theorem State.modLaunchAt_hub (s : State) (k : Nat) (f : Launch → Launch) : (s.modLaunchAt k f).hub = s.hub := rfl
@[simp] theorem State.modLaunchAt_belay (s : State) (k : Nat) (f : Launch → Launch) : (s.modLaunchAt k f).belay = s.belay := rfl
@[simp] theorem State.modLaunchAt_caches (s : State) (k : Nat) (f : Launch → Launch) : (s.modLaunchAt k f).caches = s.caches := rfl
@[simp] theorem State.modLaunchAt_tlbs (s : State) (k : Nat) (f : Launch → Launch) : (s.modLaunchAt k f).tlbs = s.tlbs := rfl
@[simp] theorem State.modLaunchAt_eng (s : State) (k : Nat) (f : Launch → Launch) : (s.modLaunchAt k f).eng = s.eng := rfl
@[simp] theorem State.modLaunchAt_pw (s : State) (k : Nat) (f : Launch → Launch) : (s.modLaunchAt k f).pw = s.pw := rfl
@[simp] theorem State.modLaunchAt_sys (s : State) (k : Nat) (f : Launch → Launch) : (s.modLaunchAt k f).sys = s.sys := rfl
@[simp] theorem State.modLaunchAt_harts (s : State) (k : Nat) (f : Launch → Launch) : (s.modLaunchAt k f).harts = s.harts := rfl
@[simp] theorem State.modLaunchAt_eth (s : State) (k : Nat) (f : Launch → Launch) : (s.modLaunchAt k f).eth = s.eth := rfl
@[simp] theorem State.modLaunchAt_now (s : State) (k : Nat) (f : Launch → Launch) : (s.modLaunchAt k f).now = s.now := rfl
@[simp] theorem State.modLaunchAt_cyc (s : State) (k : Nat) (f : Launch → Launch) : (s.modLaunchAt k f).cyc = s.cyc := rfl
@[simp] theorem State.modLaunchAt_issuedNow (s : State) (k : Nat) (f : Launch → Launch) : (s.modLaunchAt k f).issuedNow = s.issuedNow := rfl
@[simp] theorem State.modLaunchAt_endOfCycle (s : State) (k : Nat) (f : Launch → Launch) : (s.modLaunchAt k f).endOfCycle = s.endOfCycle := rfl
@[simp] theorem State.modLaunchAt_tick (s : State) (k : Nat) (f : Launch → Launch) : (s.modLaunchAt k f).tick = s.tick := rfl
@[simp] theorem State.modLaunchAt_iss (s : State) (k : Nat) (f : Launch → Launch) : (s.modLaunchAt k f).iss = s.iss := rfl
@[simp] theorem State.modLaunchAt_agenda (s : State) (k : Nat) (f : Launch → Launch) : (s.modLaunchAt k f).agenda = s.agenda := rfl

/-! ### memWrite -/

@[simp] theorem State.memWrite_mem (s : State) (l : List (Nat × Byte)) : (s.memWrite l).mem = l.foldl (fun m e => m.write e.1 e.2) s.mem := rfl
@[simp] theorem State.memWrite_waves (s : State) (l : List (Nat × Byte)) : (s.memWrite l).waves = s.waves := rfl
@[simp] theorem State.memWrite_wgs (s : State) (l : List (Nat × Byte)) : (s.memWrite l).wgs = s.wgs := rfl
@[simp] theorem State.memWrite_launches (s : State) (l : List (Nat × Byte)) : (s.memWrite l).launches = s.launches := rfl
@[simp] theorem State.memWrite_ctxs (s : State) (l : List (Nat × Byte)) : (s.memWrite l).ctxs = s.ctxs := rfl
@[simp] theorem State.memWrite_hub (s : State) (l : List (Nat × Byte)) : (s.memWrite l).hub = s.hub := rfl
@[simp] theorem State.memWrite_belay (s : State) (l : List (Nat × Byte)) : (s.memWrite l).belay = s.belay := rfl
@[simp] theorem State.memWrite_caches (s : State) (l : List (Nat × Byte)) : (s.memWrite l).caches = s.caches := rfl
@[simp] theorem State.memWrite_tlbs (s : State) (l : List (Nat × Byte)) : (s.memWrite l).tlbs = s.tlbs := rfl
@[simp] theorem State.memWrite_eng (s : State) (l : List (Nat × Byte)) : (s.memWrite l).eng = s.eng := rfl
@[simp] theorem State.memWrite_pw (s : State) (l : List (Nat × Byte)) : (s.memWrite l).pw = s.pw := rfl
@[simp] theorem State.memWrite_sys (s : State) (l : List (Nat × Byte)) : (s.memWrite l).sys = s.sys := rfl
@[simp] theorem State.memWrite_harts (s : State) (l : List (Nat × Byte)) : (s.memWrite l).harts = s.harts := rfl
@[simp] theorem State.memWrite_eth (s : State) (l : List (Nat × Byte)) : (s.memWrite l).eth = s.eth := rfl
@[simp] theorem State.memWrite_now (s : State) (l : List (Nat × Byte)) : (s.memWrite l).now = s.now := rfl
@[simp] theorem State.memWrite_cyc (s : State) (l : List (Nat × Byte)) : (s.memWrite l).cyc = s.cyc := rfl
@[simp] theorem State.memWrite_issuedNow (s : State) (l : List (Nat × Byte)) : (s.memWrite l).issuedNow = s.issuedNow := rfl
@[simp] theorem State.memWrite_endOfCycle (s : State) (l : List (Nat × Byte)) : (s.memWrite l).endOfCycle = s.endOfCycle := rfl
@[simp] theorem State.memWrite_tick (s : State) (l : List (Nat × Byte)) : (s.memWrite l).tick = s.tick := rfl
@[simp] theorem State.memWrite_iss (s : State) (l : List (Nat × Byte)) : (s.memWrite l).iss = s.iss := rfl
@[simp] theorem State.memWrite_agenda (s : State) (l : List (Nat × Byte)) : (s.memWrite l).agenda = s.agenda := rfl

/-! ### send -/

@[simp] theorem State.send_mem (s : State) (x : Sent) : (s.send x).mem = s.mem := rfl
@[simp] theorem State.send_waves (s : State) (x : Sent) : (s.send x).waves = s.waves := rfl
@[simp] theorem State.send_wgs (s : State) (x : Sent) : (s.send x).wgs = s.wgs := rfl
@[simp] theorem State.send_launches (s : State) (x : Sent) : (s.send x).launches = s.launches := rfl
@[simp] theorem State.send_ctxs (s : State) (x : Sent) : (s.send x).ctxs = s.ctxs := rfl
@[simp] theorem State.send_hub (s : State) (x : Sent) : (s.send x).hub = s.hub := rfl
@[simp] theorem State.send_belay (s : State) (x : Sent) : (s.send x).belay = s.belay := rfl
@[simp] theorem State.send_caches (s : State) (x : Sent) : (s.send x).caches = s.caches := rfl
@[simp] theorem State.send_tlbs (s : State) (x : Sent) : (s.send x).tlbs = s.tlbs := rfl
@[simp] theorem State.send_eng (s : State) (x : Sent) : (s.send x).eng = { s.eng with outbox := s.eng.outbox ++ [x] } := rfl
@[simp] theorem State.send_pw (s : State) (x : Sent) : (s.send x).pw = s.pw := rfl
@[simp] theorem State.send_sys (s : State) (x : Sent) : (s.send x).sys = s.sys := rfl
@[simp] theorem State.send_harts (s : State) (x : Sent) : (s.send x).harts = s.harts := rfl
@[simp] theorem State.send_eth (s : State) (x : Sent) : (s.send x).eth = s.eth := rfl
@[simp] theorem State.send_now (s : State) (x : Sent) : (s.send x).now = s.now := rfl
@[simp] theorem State.send_cyc (s : State) (x : Sent) : (s.send x).cyc = s.cyc := rfl
@[simp] theorem State.send_issuedNow (s : State) (x : Sent) : (s.send x).issuedNow = s.issuedNow := rfl
@[simp] theorem State.send_endOfCycle (s : State) (x : Sent) : (s.send x).endOfCycle = s.endOfCycle := rfl
@[simp] theorem State.send_tick (s : State) (x : Sent) : (s.send x).tick = s.tick := rfl
@[simp] theorem State.send_iss (s : State) (x : Sent) : (s.send x).iss = s.iss := rfl
@[simp] theorem State.send_agenda (s : State) (x : Sent) : (s.send x).agenda = s.agenda := rfl

/-! ### Reading back -/

theorem State.waveAt_setWaveAt_same (s : State) (k : Nat) (w : Wave) : (s.setWaveAt k w).waveAt k = w := by
  simp [State.waveAt]
theorem State.waveAt_setWaveAt_other (s : State) {k j : Nat} (w : Wave) (h : j ≠ k) : (s.setWaveAt k w).waveAt j = s.waveAt j := by
  simp [State.waveAt, FMap.get_put_other _ _ _ h]
@[simp] theorem State.wgAt_setWaveAt (s : State) (k j : Nat) (w : Wave) : (s.setWaveAt k w).wgAt j = s.wgAt j := rfl
@[simp] theorem State.ctxAt_setWaveAt (s : State) (k j : Nat) (w : Wave) : (s.setWaveAt k w).ctxAt j = s.ctxAt j := rfl
@[simp] theorem State.launchAt_setWaveAt (s : State) (k j : Nat) (w : Wave) : (s.setWaveAt k w).launchAt j = s.launchAt j := rfl

theorem State.wgAt_setWgAt_same (s : State) (k : Nat) (g : Wg) : (s.setWgAt k g).wgAt k = g := by
  simp [State.wgAt]
theorem State.wgAt_setWgAt_other (s : State) {k j : Nat} (g : Wg) (h : j ≠ k) : (s.setWgAt k g).wgAt j = s.wgAt j := by
  simp [State.wgAt, FMap.get_put_other _ _ _ h]
@[simp] theorem State.waveAt_setWgAt (s : State) (k j : Nat) (g : Wg) : (s.setWgAt k g).waveAt j = s.waveAt j := rfl
@[simp] theorem State.ctxAt_setWgAt (s : State) (k j : Nat) (g : Wg) : (s.setWgAt k g).ctxAt j = s.ctxAt j := rfl
@[simp] theorem State.launchAt_setWgAt (s : State) (k j : Nat) (g : Wg) : (s.setWgAt k g).launchAt j = s.launchAt j := rfl

theorem State.ctxAt_setCtxAt_same (s : State) (k : Nat) (c : Ctx) : (s.setCtxAt k c).ctxAt k = c := by
  simp [State.ctxAt]
theorem State.ctxAt_setCtxAt_other (s : State) {k j : Nat} (c : Ctx) (h : j ≠ k) : (s.setCtxAt k c).ctxAt j = s.ctxAt j := by
  simp [State.ctxAt, FMap.get_put_other _ _ _ h]
@[simp] theorem State.waveAt_setCtxAt (s : State) (k j : Nat) (c : Ctx) : (s.setCtxAt k c).waveAt j = s.waveAt j := rfl
@[simp] theorem State.wgAt_setCtxAt (s : State) (k j : Nat) (c : Ctx) : (s.setCtxAt k c).wgAt j = s.wgAt j := rfl
@[simp] theorem State.launchAt_setCtxAt (s : State) (k j : Nat) (c : Ctx) : (s.setCtxAt k c).launchAt j = s.launchAt j := rfl

theorem State.launchAt_setLaunchAt_same (s : State) (k : Nat) (l : Launch) : (s.setLaunchAt k l).launchAt k = l := by
  simp [State.launchAt]
theorem State.launchAt_setLaunchAt_other (s : State) {k j : Nat} (l : Launch) (h : j ≠ k) : (s.setLaunchAt k l).launchAt j = s.launchAt j := by
  simp [State.launchAt, FMap.get_put_other _ _ _ h]
@[simp] theorem State.waveAt_setLaunchAt (s : State) (k j : Nat) (l : Launch) : (s.setLaunchAt k l).waveAt j = s.waveAt j := rfl
@[simp] theorem State.wgAt_setLaunchAt (s : State) (k j : Nat) (l : Launch) : (s.setLaunchAt k l).wgAt j = s.wgAt j := rfl
@[simp] theorem State.ctxAt_setLaunchAt (s : State) (k j : Nat) (l : Launch) : (s.setLaunchAt k l).ctxAt j = s.ctxAt j := rfl

/-! ### Memory -/

theorem Memory.read_write_same (m : Memory) (a : Nat) (b : Byte) : (m.write a b).read a = b := FMap.get_set_same _ _ _ _

theorem Memory.read_write_other (m : Memory) {a c : Nat} (b : Byte) (h : c ≠ a) : (m.write a b).read c = m.read c :=
  FMap.get_set_other _ _ _ h

theorem Memory.wf_iff (m : Memory) : m.wf = true ↔ FMap.Canon 0#8 m := by
  simp [Memory.wf, FMap.Canon, FMap.Sorted, List.all_eq_true]

/-- A write keeps the canonical form. -/
theorem Memory.wf_write (m : Memory) (a : Nat) (b : Byte) (h : m.wf = true) : (m.write a b).wf = true :=
  (Memory.wf_iff _).2 (FMap.canon_set _ _ _ _ ((Memory.wf_iff _).1 h))

/-- Writing many bytes leaves every other address as it was. -/
theorem State.memWrite_read_other (s : State) (l : List (Nat × Byte)) (a : Nat) (h : ∀ e ∈ l, e.1 ≠ a) :
    (s.memWrite l).mem.read a = s.mem.read a := by
  simp only [State.memWrite]
  induction l generalizing s with
  | nil => rfl
  | cons e t ih =>
    have h1 := ih { s with mem := s.mem.write e.1 e.2 } fun x hx => h x (List.mem_cons_of_mem _ hx)
    simp only [List.foldl_cons]
    exact h1.trans (Memory.read_write_other _ _ (h e (List.mem_cons_self ..)).symm)

/-- Where the addresses of a write differ, each reads as what was written. -/
theorem State.memWrite_read (s : State) (l : List (Nat × Byte)) (hd : (l.map (·.1)).Nodup) (e : Nat × Byte) (he : e ∈ l) :
    (s.memWrite l).mem.read e.1 = e.2 := by
  induction l generalizing s with
  | nil => simp at he
  | cons x t ih =>
    rw [List.map_cons, List.nodup_cons] at hd
    rcases List.mem_cons.1 he with rfl | h
    · have := State.memWrite_read_other { s with mem := s.mem.write e.1 e.2 } t e.1 fun y hy hc =>
        hd.1 (hc ▸ List.mem_map_of_mem hy)
      exact this.trans (Memory.read_write_same _ _ _)
    · exact ih { s with mem := s.mem.write x.1 x.2 } hd.2 h

end Sys2Proof.Machine
end

