-- ==== Sys2Proof/Laws/KeepsMem.lean ====
section
/-!
SUPPORT. Every operation and every meaning keeps the memory's canonical form and does not turn device time back, and no
meaning stops.
-/

namespace Sys2Proof.Machine

theorem Memory.write_wf {m : Memory} (h : m.wf = true) (a : Nat) (b : Byte) : (m.write a b).wf = true := by
  rw [Memory.wf_iff] at *; exact FMap.canon_set _ _ _ _ h

end Sys2Proof.Machine

namespace Sys2Proof.Laws.KeepsMem

open Sys2Proof Sys2Proof.Machine

/-- Memory is in canonical form, and device time is at least `lo`. -/
def Sane (lo : Nat) (s : State) : Prop := s.mem.wf = true ∧ lo ≤ s.now

/-- A meaning goes on, in a sane state. -/
def Good (lo : Nat) (o : Out) : Prop := ∃ t, o = .next t ∧ Sane lo t

@[simp] theorem sane_mk (lo : Nat) (mem waves wgs launches ctxs hub belay caches tlbs eng pw sys harts eth now cyc issuedNow endOfCycle
    tick iss agenda) : Sane lo ⟨mem, waves, wgs, launches, ctxs, hub, belay, caches, tlbs, eng, pw, sys, harts, eth, now, cyc, issuedNow,
    endOfCycle, tick, iss, agenda⟩ ↔ mem.wf = true ∧ lo ≤ now := Iff.rfl

@[simp] theorem sane_iff (lo : Nat) (s : State) : (s.mem.wf = true ∧ lo ≤ s.now) ↔ Sane lo s := Iff.rfl

@[simp] theorem good_next_iff (lo : Nat) (t : State) : Good lo (.next t) ↔ Sane lo t := by
  simp [Good]

theorem good_next {lo : Nat} {t : State} (h : Sane lo t) : Good lo (.next t) := ⟨t, rfl, h⟩

theorem foldl_wf {lo : Nat} {β : Type} (f : State → β → State) (l : List β) (s : State) (h : Sane lo s)
    (hf : ∀ s b, Sane lo s → Sane lo (f s b)) : Sane lo (l.foldl f s) := by
  induction l generalizing s with
  | nil => exact h
  | cons b t ih => exact ih _ (hf s b h)

theorem foldl_wf2 {lo : Nat} {β γ : Type} (f : γ × State → β → γ × State) (l : List β) (s : γ × State) (h : Sane lo s.2)
    (hf : ∀ s b, Sane lo s.2 → Sane lo (f s b).2) : Sane lo (l.foldl f s).2 := by
  induction l generalizing s with
  | nil => exact h
  | cons b t ih => exact ih _ (hf s b h)

theorem foldl_wf3 {lo : Nat} {β γ δ : Type} (f : γ × δ × State → β → γ × δ × State) (l : List β) (s : γ × δ × State) (h : Sane lo s.2.2)
    (hf : ∀ s b, Sane lo s.2.2 → Sane lo (f s b).2.2) : Sane lo (l.foldl f s).2.2 := by
  induction l generalizing s with
  | nil => exact h
  | cons b t ih => exact ih _ (hf s b h)

@[simp] theorem ite_wf {lo : Nat} (c : Prop) [Decidable c] {a b : State} (ha : Sane lo a) (hb : Sane lo b) :
    Sane lo (if c then a else b) := by split <;> assumption

@[simp] theorem State_strays_wf {lo : Nat} (x0 : State) (x1 : Nat) (x2 : List Nat) (h0 : Sane lo x0) : Sane lo (State.strays
    x0 x1 x2) := by
  simp [State.strays, *]

@[simp] theorem State_setWaveAt_wf {lo : Nat} (x0 : State) (x1 : Nat) (x2 : Wave) (h0 : Sane lo x0) : Sane lo
    (State.setWaveAt x0 x1 x2) := by
  unfold State.setWaveAt
  exact h0

@[simp] theorem State_modWaveAt_wf {lo : Nat} (x0 : State) (x1 : Nat) (x2 : Wave → Wave) (h0 : Sane lo x0) : Sane lo
    (State.modWaveAt x0 x1 x2) := by
  unfold State.modWaveAt
  exact h0

@[simp] theorem State_countLeft_wf {lo : Nat} (x0 : State) (x1 : Nat) (x2 : List Nat) (h0 : Sane lo x0) : Sane lo
    (State.countLeft x0 x1 x2) := by
  simp [State.countLeft, *]

@[simp] theorem State_cscrWrite_wf {lo : Nat} (x0 : State) (x1 : Nat) (x2 : List (Nat × Byte)) (h0 : Sane lo x0) : Sane lo
    (State.cscrWrite x0 x1 x2) := by
  unfold State.cscrWrite
  exact h0

@[simp] theorem State_send_wf {lo : Nat} (x0 : State) (x1 : Sent) (h0 : Sane lo x0) : Sane lo (State.send x0 x1) := by
  simp [State.send, *]

@[simp] theorem State_sendRemote_wf {lo : Nat} (x0 : State) (x1 : Option Nat) (x2 : Option EngRef) (x3 : Nat) (x4 : List
    VPage) (x5 : List (Nat × Byte)) (h0 : Sane lo x0) : Sane lo (State.sendRemote x0 x1 x2 x3 x4 x5) := by
  unfold State.sendRemote
  try dsimp only
  repeat' (first
    | (with_reducible assumption) | (simp only [sane_mk, sane_iff]) | (intro _) | (with_reducible apply foldl_wf) |
    (with_reducible apply foldl_wf2) | (with_reducible apply foldl_wf3) | (with_reducible apply State_send_wf) |
    (with_reducible apply ite_wf) | split)

@[simp] theorem State_sendStore_wf {lo : Nat} (x0 : State) (x1 : Nat) (x2 : List VPage) (x3 : List (Nat × Byte)) (h0 : Sane
    lo x0) : Sane lo (State.sendStore x0 x1 x2 x3) := by
  simp [State.sendStore, *]

@[simp] theorem State_ackBytes_wf {lo : Nat} (x0 : State) (x1 : Nat) (x2 : List Nat) (h0 : Sane lo x0) : Sane lo
    (State.ackBytes x0 x1 x2) := by
  simp [State.ackBytes, *]

@[simp] theorem State_memWrite_wf {lo : Nat} (s : State) (l : List (Nat × Byte)) (h : Sane lo s) : Sane lo (s.memWrite l) := by
  unfold State.memWrite
  refine ⟨?_, h.2⟩
  have h := h.1
  simp only
  generalize s.mem = m at h
  induction l generalizing m with
  | nil => exact h
  | cons b t ih => exact ih _ (Memory.write_wf h _ _)

@[simp] theorem State_writeBackLine_wf {lo : Nat} (x0 : State) (x1 : Nat) (x2 : HLine) (h0 : Sane lo x0) : Sane lo
    (State.writeBackLine x0 x1 x2) := by
  simp [State.writeBackLine, *]

@[simp] theorem State_writeBackObj_wf {lo : Nat} (x0 : State) (x1 : CohObj) (h0 : Sane lo x0) : Sane lo (State.writeBackObj
    x0 x1) := by
  unfold State.writeBackObj
  refine foldl_wf _ _ _ (by simp [*]) ?_; intros; simp [*]

@[simp] theorem State_probeInvalid_wf {lo : Nat} (x0 : State) (x1 : Nat) (x2 : CohObj) (h0 : Sane lo x0) : Sane lo
    (State.probeInvalid x0 x1 x2) := by
  simp [State.probeInvalid, *]

@[simp] theorem State_dropEntry_wf {lo : Nat} (x0 : State) (x1 : Nat) (h0 : Sane lo x0) : Sane lo (State.dropEntry x0 x1) :=
    by
  unfold State.dropEntry
  exact h0

@[simp] theorem State_setMet_wf {lo : Nat} (x0 : State) (x1 : Nat) (h0 : Sane lo x0) : Sane lo (State.setMet x0 x1) := by
  unfold State.setMet
  exact h0

@[simp] theorem State_retestValues_wf {lo : Nat} (x0 : State) (x1 : List (Nat × Byte)) (h0 : Sane lo x0) : Sane lo
    (State.retestValues x0 x1) := by
  unfold State.retestValues
  try dsimp only
  repeat' (first
    | (with_reducible assumption) | (simp only [sane_mk, sane_iff]) | (intro _) | (with_reducible apply foldl_wf) |
    (with_reducible apply foldl_wf2) | (with_reducible apply foldl_wf3) | (with_reducible apply State_setMet_wf) |
    (with_reducible apply ite_wf) | split)

@[simp] theorem State_homeWrite_wf {lo : Nat} (x0 : State) (x1 : List (Nat × Byte)) (h0 : Sane lo x0) : Sane lo
    (State.homeWrite x0 x1) := by
  unfold State.homeWrite
  try dsimp only
  repeat' (first
    | (with_reducible assumption) | (simp only [sane_mk, sane_iff]) | (intro _) | (with_reducible apply foldl_wf) |
    (with_reducible apply foldl_wf2) | (with_reducible apply foldl_wf3) | (with_reducible apply State_probeInvalid_wf) |
    (with_reducible apply State_retestValues_wf) | (with_reducible apply State_memWrite_wf) | (with_reducible apply ite_wf) |
    split)

@[simp] theorem State_l2Drop_wf {lo : Nat} (x0 : State) (x1 : Nat) (x2 : Nat → Bool) (h0 : Sane lo x0) : Sane lo
    (State.l2Drop x0 x1 x2) := by
  unfold State.l2Drop
  exact h0

@[simp] theorem State_l2WriteBack_wf {lo : Nat} (x0 : State) (x1 : Nat) (x2 : Nat → Bool) (h0 : Sane lo x0) : Sane lo
    (State.l2WriteBack x0 x1 x2) := by
  simp [State.l2WriteBack, *]

@[simp] theorem State_evictL2_wf {lo : Nat} (x0 : State) (x1 : Nat) (x2 : Nat) (h0 : Sane lo x0) : Sane lo (State.evictL2 x0
    x1 x2) := by
  simp [State.evictL2, *]

@[simp] theorem State_roomL2_wf {lo : Nat} (x0 : State) (x1 : Nat) (x2 : Nat) (h0 : Sane lo x0) : Sane lo (State.roomL2 x0 x1
    x2) := by
  unfold State.roomL2
  try dsimp only
  repeat' (first
    | (with_reducible assumption) | (simp only [sane_mk, sane_iff]) | (intro _) | (with_reducible apply foldl_wf) |
    (with_reducible apply foldl_wf2) | (with_reducible apply foldl_wf3) | (with_reducible apply State_evictL2_wf) |
    (with_reducible apply ite_wf) | split)

@[simp] theorem State_sliceWrite_wf {lo : Nat} (x0 : State) (x1 : Nat) (x2 : List (Nat × Byte)) (h0 : Sane lo x0) : Sane lo
    (State.sliceWrite x0 x1 x2) := by
  unfold State.sliceWrite
  try dsimp only
  repeat' (first
    | (with_reducible assumption) | (simp only [sane_mk, sane_iff]) | (intro _) | (with_reducible apply foldl_wf) |
    (with_reducible apply foldl_wf2) | (with_reducible apply foldl_wf3) | (with_reducible apply State_roomL2_wf) |
    (with_reducible apply ite_wf) | split)

@[simp] theorem State_wcbWriteLine_wf {lo : Nat} (x0 : State) (x1 : Nat) (x2 : Nat) (h0 : Sane lo x0) : Sane lo
    (State.wcbWriteLine x0 x1 x2) := by
  unfold State.wcbWriteLine
  try dsimp only
  repeat' (first
    | (with_reducible assumption) | (simp only [sane_mk, sane_iff]) | (intro _) | (with_reducible apply foldl_wf) |
    (with_reducible apply foldl_wf2) | (with_reducible apply foldl_wf3) | (with_reducible apply State_ackBytes_wf) |
    (with_reducible apply State_homeWrite_wf) | (with_reducible apply State_sliceWrite_wf) | (with_reducible apply ite_wf) |
    split)

@[simp] theorem State_roomWcb_wf {lo : Nat} (x0 : State) (x1 : Nat) (x2 : Nat) (h0 : Sane lo x0) : Sane lo (State.roomWcb x0
    x1 x2) := by
  unfold State.roomWcb
  try dsimp only
  repeat' (first
    | (with_reducible assumption) | (simp only [sane_mk, sane_iff]) | (intro _) | (with_reducible apply foldl_wf) |
    (with_reducible apply foldl_wf2) | (with_reducible apply foldl_wf3) | (with_reducible apply State_wcbWriteLine_wf) |
    (with_reducible apply ite_wf) | split)

@[simp] theorem State_arriveLocal_wf {lo : Nat} (x0 : State) (x1 : Nat) (x2 : Bool) (x3 : List (Nat × Byte)) (h0 : Sane lo
    x0) : Sane lo (State.arriveLocal x0 x1 x2 x3) := by
  unfold State.arriveLocal
  try dsimp only
  repeat' (first
    | (with_reducible assumption) | (simp only [sane_mk, sane_iff]) | (intro _) | (with_reducible apply foldl_wf) |
    (with_reducible apply foldl_wf2) | (with_reducible apply foldl_wf3) | (with_reducible apply State_roomWcb_wf) |
    (with_reducible apply ite_wf) | split)

@[simp] theorem State_performStore_wf {lo : Nat} (x0 : State) (x1 : Nat) (x2 : Nat) (x3 : Bool) (x4 : Bool) (x5 : List (Nat ×
    Byte)) (x6 : List VPage) (h0 : Sane lo x0) : Sane lo (State.performStore x0 x1 x2 x3 x4 x5 x6) := by
  unfold State.performStore
  try dsimp only
  repeat' (first
    | (with_reducible assumption) | (simp only [sane_mk, sane_iff]) | (intro _) | (with_reducible apply foldl_wf) |
    (with_reducible apply foldl_wf2) | (with_reducible apply foldl_wf3) | (with_reducible apply State_cscrWrite_wf) |
    (with_reducible apply State_sendStore_wf) | (with_reducible apply State_arriveLocal_wf) | (with_reducible apply ite_wf) |
    split)

@[simp] theorem State_probeShared_wf {lo : Nat} (x0 : State) (x1 : Nat) (x2 : CohObj) (h0 : Sane lo x0) : Sane lo
    (State.probeShared x0 x1 x2) := by
  simp [State.probeShared, *]

@[simp] theorem State_homeTouch_wf {lo : Nat} (x0 : State) (x1 : Nat) (h0 : Sane lo x0) : Sane lo (State.homeTouch x0 x1) :=
    by
  unfold State.homeTouch
  refine foldl_wf _ _ _ (by simp [*]) ?_; intros; simp [*]

@[simp] theorem State_homeTouches_wf {lo : Nat} (x0 : State) (x1 : List Nat) (h0 : Sane lo x0) : Sane lo (State.homeTouches
    x0 x1) := by
  unfold State.homeTouches
  try dsimp only
  repeat' (first
    | (with_reducible assumption) | (simp only [sane_mk, sane_iff]) | (intro _) | (with_reducible apply foldl_wf) |
    (with_reducible apply foldl_wf2) | (with_reducible apply foldl_wf3) | (with_reducible apply State_homeTouch_wf) |
    (with_reducible apply ite_wf) | split)

@[simp] theorem State_fillL2_wf {lo : Nat} (x0 : State) (x1 : Nat) (x2 : Nat) (h0 : Sane lo x0) : Sane lo (State.fillL2 x0 x1
    x2) := by
  unfold State.fillL2
  try dsimp only
  repeat' (first
    | (with_reducible assumption) | (simp only [sane_mk, sane_iff]) | (intro _) | (with_reducible apply foldl_wf) |
    (with_reducible apply foldl_wf2) | (with_reducible apply foldl_wf3) | (with_reducible apply State_homeTouches_wf) |
    (with_reducible apply State_roomL2_wf) | (with_reducible apply ite_wf) | split)

@[simp] theorem State_evictL1_wf {lo : Nat} (x0 : State) (x1 : Nat) (x2 : Nat) (h0 : Sane lo x0) : Sane lo (State.evictL1 x0
    x1 x2) := by
  unfold State.evictL1
  exact h0

@[simp] theorem State_roomL1_wf {lo : Nat} (x0 : State) (x1 : Nat) (x2 : Nat) (h0 : Sane lo x0) : Sane lo (State.roomL1 x0 x1
    x2) := by
  unfold State.roomL1
  try dsimp only
  repeat' (first
    | (with_reducible assumption) | (simp only [sane_mk, sane_iff]) | (intro _) | (with_reducible apply foldl_wf) |
    (with_reducible apply foldl_wf2) | (with_reducible apply foldl_wf3) | (with_reducible apply State_evictL1_wf) |
    (with_reducible apply ite_wf) | split)

@[simp] theorem State_fillL1_wf {lo : Nat} (x0 : State) (x1 : Nat) (x2 : Nat) (h0 : Sane lo x0) : Sane lo (State.fillL1 x0 x1
    x2) := by
  simp [State.fillL1, *]

@[simp] theorem State_loadTouch_wf {lo : Nat} (x0 : State) (x1 : Nat) (x2 : Bool) (x3 : Bool) (x4 : List Nat) (h0 : Sane lo
    x0) : Sane lo (State.loadTouch x0 x1 x2 x3 x4) := by
  unfold State.loadTouch
  try dsimp only
  repeat' (first
    | (with_reducible assumption) | (simp only [sane_mk, sane_iff]) | (intro _) | (with_reducible apply foldl_wf) |
    (with_reducible apply foldl_wf2) | (with_reducible apply foldl_wf3) | (with_reducible apply State_homeTouches_wf) |
    (with_reducible apply State_fillL1_wf) | (with_reducible apply ite_wf) | split)

@[simp] theorem State_flushToHome_wf {lo : Nat} (x0 : State) (x1 : Nat) (x2 : Nat) (h0 : Sane lo x0) : Sane lo
    (State.flushToHome x0 x1 x2) := by
  unfold State.flushToHome
  dsimp only
  repeat' (first
    | (with_reducible assumption) | (simp only [sane_mk, sane_iff]) | (intro _) | (with_reducible apply foldl_wf)
    | (with_reducible apply foldl_wf2) | (with_reducible apply foldl_wf3) | (with_reducible apply State_wcbWriteLine_wf)
    | (with_reducible apply State_l2Drop_wf) | (with_reducible apply State_l2WriteBack_wf) | split)

@[simp] theorem State_atomAt_wf {lo : Nat} (x0 : State) (x1 : Nat) (x2 : Bool) (x3 : AtomOp) (x4 : OrdCode) (x5 : Nat) (x6 :
    Word32) (x7 : Word32) (h0 : Sane lo x0) : Sane lo (State.atomAt x0 x1 x2 x3 x4 x5 x6 x7).2 := by
  unfold State.atomAt
  try dsimp only
  repeat' (first
    | (with_reducible assumption) | (simp only [sane_mk, sane_iff]) | (intro _) | (with_reducible apply foldl_wf) |
    (with_reducible apply foldl_wf2) | (with_reducible apply foldl_wf3) | (with_reducible apply State_cscrWrite_wf) |
    (with_reducible apply State_loadTouch_wf) | (with_reducible apply State_wcbWriteLine_wf) | (with_reducible apply
    State_sliceWrite_wf) | (with_reducible apply State_fillL2_wf) | (with_reducible apply State_flushToHome_wf) |
    (with_reducible apply State_homeWrite_wf) | (with_reducible apply ite_wf) | split)

@[simp] theorem State_sendAtomic_wf {lo : Nat} (x0 : State) (x1 : Nat) (x2 : List VPage) (x3 : List (AtomOp × Nat × Word32 ×
    Word32)) (x4 : Bool) (h0 : Sane lo x0) : Sane lo (State.sendAtomic x0 x1 x2 x3 x4) := by
  unfold State.sendAtomic
  try dsimp only
  repeat' (first
    | (with_reducible assumption) | (simp only [sane_mk, sane_iff]) | (intro _) | (with_reducible apply foldl_wf) |
    (with_reducible apply foldl_wf2) | (with_reducible apply foldl_wf3) | (with_reducible apply State_send_wf) |
    (with_reducible apply ite_wf) | split)

@[simp] theorem State_makeTokens_wf {lo : Nat} (x0 : State) (x1 : Nat) (x2 : Word64) (x3 : List (Nat × BitVec 8 × Nat)) (h0 :
    Sane lo x0) : Sane lo (State.makeTokens x0 x1 x2 x3).2 := by
  unfold State.makeTokens
  exact h0

@[simp] theorem State_noteG_wf {lo : Nat} (x0 : State) (x1 : Nat) (x2 : List RegVal) (h0 : Sane lo x0) : Sane lo (State.noteG
    x0 x1 x2) := by
  simp [State.noteG, *]

@[simp] theorem State_hold_wf {lo : Nat} (x0 : State) (x1 : Nat) (x2 : Eff) (h0 : Sane lo x0) : Sane lo (State.hold x0 x1 x2)
    := by
  unfold State.hold
  exact h0

@[simp] theorem State_holdG_wf {lo : Nat} (x0 : State) (x1 : Nat) (x2 : List RegVal) (h0 : Sane lo x0) : Sane lo (State.holdG
    x0 x1 x2) := by
  unfold State.holdG
  try dsimp only
  repeat' (first
    | (with_reducible assumption) | (simp only [sane_mk, sane_iff]) | (intro _) | (with_reducible apply foldl_wf) |
    (with_reducible apply foldl_wf2) | (with_reducible apply foldl_wf3) | (with_reducible apply State_hold_wf) |
    (with_reducible apply ite_wf) | split)

@[simp] theorem State_addPend_wf {lo : Nat} (x0 : State) (x1 : Nat) (x2 : Pend) (h0 : Sane lo x0) : Sane lo (State.addPend x0
    x1 x2) := by
  unfold State.addPend
  try dsimp only
  repeat' (first
    | (with_reducible assumption) | (simp only [sane_mk, sane_iff]) | (intro _) | (with_reducible apply foldl_wf) |
    (with_reducible apply foldl_wf2) | (with_reducible apply foldl_wf3) | (with_reducible apply State_noteG_wf) |
    (with_reducible apply State_modWaveAt_wf) | (with_reducible apply State_holdG_wf) | (with_reducible apply ite_wf) |
    split)

@[simp] theorem State_performAtom_wf {lo : Nat} (x0 : State) (x1 : Nat) (x2 : Nat) (x3 : Bool) (x4 : AtomOp) (x5 : OrdCode)
    (x6 : List AtomLane) (x7 : Word64) (x8 : Dest) (x9 : List VPage) (h0 : Sane lo x0) : Sane lo (State.performAtom x0 x1 x2
    x3 x4 x5 x6 x7 x8 x9) := by
  unfold State.performAtom
  try dsimp only
  repeat' (first
    | (with_reducible assumption) | (simp only [sane_mk, sane_iff]) | (intro _) | (with_reducible apply foldl_wf) |
    (with_reducible apply foldl_wf2) | (with_reducible apply foldl_wf3) | (with_reducible apply State_atomAt_wf) |
    (with_reducible apply State_sendAtomic_wf) | (with_reducible apply State_makeTokens_wf) | (with_reducible apply
    State_addPend_wf) | (with_reducible apply ite_wf) | split)

@[simp] theorem State_performMem_wf {lo : Nat} (x0 : State) (x1 : Nat) (x2 : Eff) (h0 : Sane lo x0) : Sane lo
    (State.performMem x0 x1 x2) := by
  unfold State.performMem
  try dsimp only
  repeat' (first
    | (with_reducible assumption) | (simp only [sane_mk, sane_iff]) | (intro _) | (with_reducible apply foldl_wf) |
    (with_reducible apply foldl_wf2) | (with_reducible apply foldl_wf3) | (with_reducible apply State_strays_wf) |
    (with_reducible apply State_countLeft_wf) | (with_reducible apply State_performStore_wf) | (with_reducible apply
    State_performAtom_wf) | (with_reducible apply ite_wf) | split)

@[simp] theorem State_drainFifo_wf {lo : Nat} (x0 : State) (x1 : Nat) (h0 : Sane lo x0) : Sane lo (State.drainFifo x0 x1) :=
    by
  unfold State.drainFifo
  refine foldl_wf _ _ _ (by simp [*]) ?_; intros; simp [*]

@[simp] theorem State_deliver_wf {lo : Nat} (x0 : State) (x1 : Nat) (x2 : Lanes) (x3 : RegVal) (h0 : Sane lo x0) : Sane lo
    (State.deliver x0 x1 x2 x3) := by
  unfold State.deliver
  split <;> simp [*]

@[simp] theorem State_deliverAll_wf {lo : Nat} (x0 : State) (x1 : Nat) (x2 : Lanes) (x3 : List RegVal) (h0 : Sane lo x0) :
    Sane lo (State.deliverAll x0 x1 x2 x3) := by
  unfold State.deliverAll
  refine foldl_wf _ _ _ (by simp [*]) ?_; intros; simp [*]

@[simp] theorem State_flushPend_wf {lo : Nat} (x0 : State) (x1 : Nat) (h0 : Sane lo x0) : Sane lo (State.flushPend x0 x1) :=
    by
  unfold State.flushPend
  refine foldl_wf _ _ _ (by simp [*]) ?_; intros; simp [*]

@[simp] theorem State_setCtxAt_wf {lo : Nat} (x0 : State) (x1 : Nat) (x2 : Ctx) (h0 : Sane lo x0) : Sane lo (State.setCtxAt
    x0 x1 x2) := by
  unfold State.setCtxAt
  exact h0

@[simp] theorem State_modCtxAt_wf {lo : Nat} (x0 : State) (x1 : Nat) (x2 : Ctx → Ctx) (h0 : Sane lo x0) : Sane lo
    (State.modCtxAt x0 x1 x2) := by
  unfold State.modCtxAt
  exact h0

@[simp] theorem State_endActPre_wf {lo : Nat} (x0 : State) (x1 : Nat → Bool) (h0 : Sane lo x0) : Sane lo (State.endActPre x0
    x1) := by
  simp [State.endActPre, *]

@[simp] theorem State_setLaunchAt_wf {lo : Nat} (x0 : State) (x1 : Nat) (x2 : Launch) (h0 : Sane lo x0) : Sane lo
    (State.setLaunchAt x0 x1 x2) := by
  unfold State.setLaunchAt
  exact h0

@[simp] theorem State_modLaunchAt_wf {lo : Nat} (x0 : State) (x1 : Nat) (x2 : Launch → Launch) (h0 : Sane lo x0) : Sane lo
    (State.modLaunchAt x0 x1 x2) := by
  unfold State.modLaunchAt
  exact h0

@[simp] theorem State_reap_wf {lo : Nat} (x0 : State) (x1 : Nat) (h0 : Sane lo x0) : Sane lo (State.reap x0 x1) := by
  unfold State.reap
  repeat' (first
    | assumption | (simp only [sane_mk, sane_iff]) | (exact foldl_wf _ _ _ (by assumption) (by intros; simp [*]))
    | (simp [*]; done) | (simp [*] at *; done) | split)

@[simp] theorem State_orphan_wf {lo : Nat} (x0 : State) (x1 : Nat) (h0 : Sane lo x0) : Sane lo (State.orphan x0 x1) := by
  unfold State.orphan
  exact h0

@[simp] theorem State_suspendLocks_wf {lo : Nat} (x0 : State) (h0 : Sane lo x0) : Sane lo (State.suspendLocks x0) := by
  unfold State.suspendLocks
  exact h0

@[simp] theorem State_setWgAt_wf {lo : Nat} (x0 : State) (x1 : Nat) (x2 : Wg) (h0 : Sane lo x0) : Sane lo (State.setWgAt x0
    x1 x2) := by
  unfold State.setWgAt
  exact h0

@[simp] theorem State_markWg_wf {lo : Nat} (x0 : State) (x1 : Nat) (h0 : Sane lo x0) : Sane lo (State.markWg x0 x1) := by
  unfold State.markWg
  split <;> simp [*]

@[simp] theorem State_releaseBarrier_wf {lo : Nat} (x0 : State) (x1 : List Nat) (x2 : Bool) (x3 : Nat) (h0 : Sane lo x0) :
    Sane lo (State.releaseBarrier x0 x1 x2 x3) := by
  unfold State.releaseBarrier
  repeat' (first
    | (with_reducible assumption) | (simp only [sane_mk, sane_iff]) | (intro _) | (with_reducible apply foldl_wf)
    | (with_reducible apply foldl_wf2) | (with_reducible apply foldl_wf3) | (with_reducible apply State_dropEntry_wf)
    | (with_reducible apply State_modWaveAt_wf) | (with_reducible apply ite_wf) | (with_reducible apply good_next) | split)

@[simp] theorem State_modWgAt_wf {lo : Nat} (x0 : State) (x1 : Nat) (x2 : Wg → Wg) (h0 : Sane lo x0) : Sane lo (State.modWgAt
    x0 x1 x2) := by
  unfold State.modWgAt
  exact h0

@[simp] theorem State_completeCbars_wf {lo : Nat} (x0 : State) (x1 : Nat) (h0 : Sane lo x0) : Sane lo (State.completeCbars x0
    x1) := by
  unfold State.completeCbars
  dsimp only
  repeat' (first
    | (with_reducible assumption) | (simp only [sane_mk, sane_iff]) | (intro _) | (with_reducible apply foldl_wf)
    | (with_reducible apply foldl_wf2) | (with_reducible apply foldl_wf3) | (with_reducible apply State_releaseBarrier_wf)
    | (with_reducible apply State_modWgAt_wf) | (with_reducible apply ite_wf) | split)

@[simp] theorem State_completeBars_wf {lo : Nat} (x0 : State) (x1 : Nat) (h0 : Sane lo x0) : Sane lo (State.completeBars x0
    x1) := by
  unfold State.completeBars
  dsimp only
  repeat' (first
    | (with_reducible assumption) | (simp only [sane_mk, sane_iff]) | (intro _) | (with_reducible apply foldl_wf)
    | (with_reducible apply foldl_wf2) | (with_reducible apply foldl_wf3) | (with_reducible apply State_releaseBarrier_wf)
    | (with_reducible apply State_setWgAt_wf) | (with_reducible apply ite_wf) | split)

@[simp] theorem State_leave_wf {lo : Nat} (x0 : State) (x1 : Nat) (h0 : Sane lo x0) : Sane lo (State.leave x0 x1) := by
  unfold State.leave
  try dsimp only
  repeat' (first
    | (with_reducible assumption) | (simp only [sane_mk, sane_iff]) | (intro _) | (with_reducible apply foldl_wf) |
    (with_reducible apply foldl_wf2) | (with_reducible apply foldl_wf3) | (with_reducible apply State_dropEntry_wf) |
    (with_reducible apply State_orphan_wf) | (with_reducible apply State_setWaveAt_wf) | (with_reducible apply
    State_suspendLocks_wf) | (with_reducible apply State_markWg_wf) | (with_reducible apply State_completeCbars_wf) |
    (with_reducible apply State_completeBars_wf) | (with_reducible apply ite_wf) | split)

@[simp] theorem State_endWave_wf {lo : Nat} (x0 : State) (x1 : Nat) (h0 : Sane lo x0) : Sane lo (State.endWave x0 x1) := by
  unfold State.endWave
  try dsimp only
  repeat' (first
    | (with_reducible assumption) | (simp only [sane_mk, sane_iff]) | (intro _) | (with_reducible apply foldl_wf) |
    (with_reducible apply foldl_wf2) | (with_reducible apply foldl_wf3) | (with_reducible apply State_modWaveAt_wf) |
    (with_reducible apply State_modLaunchAt_wf) | (with_reducible apply State_leave_wf) | (with_reducible apply ite_wf) |
    split)

@[simp] theorem State_killWave_wf {lo : Nat} (x0 : State) (x1 : Nat) (h0 : Sane lo x0) : Sane lo (State.killWave x0 x1) := by
  simp [State.killWave, *]

@[simp] theorem State_noteFault_wf {lo : Nat} (x0 : State) (x1 : Nat) (h0 : Sane lo x0) : Sane lo (State.noteFault x0 x1) :=
    by
  unfold State.noteFault
  exact h0

@[simp] theorem State_nextRecord_wf {lo : Nat} (x0 : State) (x1 : Nat) (h0 : Sane lo x0) : Sane lo (State.nextRecord x0 x1).2
    := by
  unfold State.nextRecord
  exact h0

@[simp] theorem State_wakeSem_wf {lo : Nat} (x0 : State) (x1 : Bool) (x2 : Nat) (x3 : Nat) (h0 : Sane lo x0) : Sane lo
    (State.wakeSem x0 x1 x2 x3) := by
  unfold State.wakeSem
  try dsimp only
  repeat' (first
    | (with_reducible assumption) | (simp only [sane_mk, sane_iff]) | (intro _) | (with_reducible apply foldl_wf) |
    (with_reducible apply foldl_wf2) | (with_reducible apply foldl_wf3) | (with_reducible apply State_setMet_wf) |
    (with_reducible apply ite_wf) | split)

@[simp] theorem State_semAdd_wf {lo : Nat} (x0 : State) (x1 : Bool) (x2 : Nat) (x3 : Nat) (x4 : Word32) (h0 : Sane lo x0) :
    Sane lo (State.semAdd x0 x1 x2 x3 x4) := by
  simp [State.semAdd, *]

@[simp] theorem State_semSignal_wf {lo : Nat} (x0 : State) (x1 : Bool) (x2 : Nat) (x3 : Nat) (x4 : Nat) (h0 : Sane lo x0) :
    Sane lo (State.semSignal x0 x1 x2 x3 x4) := by
  simp [State.semSignal, *]

@[simp] theorem State_hubWrite_wf {lo : Nat} (x0 : State) (x1 : Nat) (x2 : Nat) (x3 : List Byte) (h0 : Sane lo x0) : Sane lo
    (State.hubWrite x0 x1 x2 x3).2 := by
  unfold State.hubWrite
  try dsimp only
  repeat' (first
    | (with_reducible assumption) | (simp only [sane_mk, sane_iff]) | (intro _) | (with_reducible apply foldl_wf) |
    (with_reducible apply foldl_wf2) | (with_reducible apply foldl_wf3) | (with_reducible apply State_homeWrite_wf) |
    (with_reducible apply ite_wf) | split)

@[simp] theorem State_parkFault_wf {lo : Nat} (x0 : State) (x1 : Nat) (x2 : Bool) (x3 : Trap) (h0 : Sane lo x0) : Sane lo
    (State.parkFault x0 x1 x2 x3) := by
  unfold State.parkFault
  try dsimp only
  repeat' (first
    | (with_reducible assumption) | (simp only [sane_mk, sane_iff]) | (intro _) | (with_reducible apply foldl_wf) |
    (with_reducible apply foldl_wf2) | (with_reducible apply foldl_wf3) | (with_reducible apply State_setWaveAt_wf) |
    (with_reducible apply State_nextRecord_wf) | (with_reducible apply State_semSignal_wf) | (with_reducible apply
    State_hubWrite_wf) | (with_reducible apply ite_wf) | split)

@[simp] theorem State_takeTrapAt_wf {lo : Nat} (x0 : State) (x1 : Nat) (x2 : Bool) (x3 : Trap) (h0 : Sane lo x0) : Sane lo
    (State.takeTrapAt x0 x1 x2 x3) := by
  unfold State.takeTrapAt
  dsimp only
  repeat' (first
    | (with_reducible assumption) | (simp only [sane_mk, sane_iff]) | (intro _) | (with_reducible apply foldl_wf)
    | (with_reducible apply foldl_wf2) | (with_reducible apply foldl_wf3) | (with_reducible apply State_drainFifo_wf)
    | (with_reducible apply State_flushPend_wf) | (with_reducible apply State_killWave_wf)
    | (with_reducible apply State_noteFault_wf) | (with_reducible apply State_setWaveAt_wf)
    | (with_reducible apply State_parkFault_wf) | (with_reducible apply ite_wf) | split)

@[simp] theorem State_takeTrap_wf {lo : Nat} (x0 : State) (x1 : Trap) (h0 : Sane lo x0) : Sane lo (State.takeTrap x0 x1) :=
    by
  simp [State.takeTrap, *]

@[simp] theorem State_guarded_good {lo : Nat} (s : State) (t : Option Trap) (body : State → Out) (hi : s.issuing = true) (h : Sane lo s)
    (hb : Good lo (body s)) : Good lo (s.guarded t body) := by
  unfold State.guarded
  cases t <;> simp [*]

@[simp] theorem State_setWave_wf {lo : Nat} (x0 : State) (x1 : Wave) (h0 : Sane lo x0) : Sane lo (State.setWave x0 x1) := by
  unfold State.setWave
  exact h0

@[simp] theorem State_retireAt_wf {lo : Nat} (x0 : State) (x1 : Bool) (h0 : Sane lo x0) : Sane lo (State.retireAt x0 x1) :=
    by
  unfold State.retireAt
  exact h0

@[simp] theorem State_setPc_wf {lo : Nat} (x0 : State) (x1 : Word64) (h0 : Sane lo x0) : Sane lo (State.setPc x0 x1) := by
  unfold State.setPc
  dsimp only
  repeat' (first
    | (with_reducible assumption) | (simp only [sane_mk, sane_iff]) | (intro _) | (with_reducible apply foldl_wf)
    | (with_reducible apply foldl_wf2) | (with_reducible apply foldl_wf3) | (with_reducible apply State_setWave_wf)
    | (with_reducible apply ite_wf) | (with_reducible apply good_next) | split)

@[simp] theorem State_retireN_wf {lo : Nat} (x0 : State) (x1 : Bool) (x2 : Nat) (h0 : Sane lo x0) : Sane lo (State.retireN x0
    x1 x2) := by
  simp [State.retireN, *]

@[simp] theorem State_retire_wf {lo : Nat} (x0 : State) (x1 : Bool) (h0 : Sane lo x0) : Sane lo (State.retire x0 x1) := by
  simp [State.retire, *]

@[simp] theorem execNop_good {lo : Nat} (x0 : Bool) (x1 : State) (hi : x1.issuing = true) (h1 : Sane lo x1) : Good lo
    (execNop x0 x1) := by
  simp [execNop, *]

@[simp] theorem execTrap_good {lo : Nat} (x0 : Bool) (x1 : BitVec 7) (x2 : State) (hi : x2.issuing = true) (h2 : Sane lo x2)
    : Good lo (execTrap x0 x1 x2) := by
  simp [execTrap, *]

@[simp] theorem execEret_good {lo : Nat} (x0 : Bool) (x1 : State) (hi : x1.issuing = true) (h1 : Sane lo x1) : Good lo
    (execEret x0 x1) := by
  unfold execEret
  try dsimp only
  repeat' (first
    | (with_reducible assumption) | (simp only [sane_mk, sane_iff]) | (intro _) | (with_reducible apply foldl_wf) |
    (with_reducible apply foldl_wf2) | (with_reducible apply foldl_wf3) | (with_reducible apply State_guarded_good) |
    (with_reducible apply State_flushPend_wf) | (with_reducible apply State_drainFifo_wf) | (with_reducible apply
    State_retireAt_wf) | (with_reducible apply State_setWave_wf) | (with_reducible apply ite_wf) | (with_reducible apply
    good_next) | split)

@[simp] theorem State_writeReg_wf {lo : Nat} (x0 : State) (x1 : Nat) (x2 : Lanes) (x3 : RegVal) (h0 : Sane lo x0) : Sane lo
    (State.writeReg x0 x1 x2 x3) := by
  unfold State.writeReg
  try dsimp only
  repeat' (first
    | (with_reducible assumption) | (simp only [sane_mk, sane_iff]) | (intro _) | (with_reducible apply foldl_wf) |
    (with_reducible apply foldl_wf2) | (with_reducible apply foldl_wf3) | (with_reducible apply State_hold_wf) |
    (with_reducible apply State_deliver_wf) | (with_reducible apply ite_wf) | split)

@[simp] theorem State_writeRegs_wf {lo : Nat} (x0 : State) (x1 : Nat) (x2 : Lanes) (x3 : List RegVal) (h0 : Sane lo x0) :
    Sane lo (State.writeRegs x0 x1 x2 x3) := by
  unfold State.writeRegs
  try dsimp only
  repeat' (first
    | (with_reducible assumption) | (simp only [sane_mk, sane_iff]) | (intro _) | (with_reducible apply foldl_wf) |
    (with_reducible apply foldl_wf2) | (with_reducible apply foldl_wf3) | (with_reducible apply State_writeReg_wf) |
    (with_reducible apply ite_wf) | split)

@[simp] theorem State_stall_wf {lo : Nat} (x0 : State) (h0 : Sane lo x0) : Sane lo (State.stall x0) := by
  unfold State.stall
  exact h0

@[simp] theorem State_settle_wf {lo : Nat} (x0 : State) (h0 : Sane lo x0) : Sane lo (State.settle x0) := by
  unfold State.settle
  split <;> simp [*]

@[simp] theorem State_settled_good {lo : Nat} (s : State) (body : State → Out) (h : Sane lo s)
    (hb : ∀ t, Sane lo t → Good lo (body t)) : Good lo (s.settled body) := by
  unfold State.settled
  split
  · exact good_next (by simp [h])
  · exact hb _ (State_settle_wf _ h)

@[simp] theorem execGetsr_good {lo : Nat} (x0 : Bool) (x1 : Opd) (x2 : BitVec 7) (x3 : State) (hi : x3.issuing = true) (h3 :
    Sane lo x3) : Good lo (execGetsr x0 x1 x2 x3) := by
  unfold execGetsr
  try dsimp only
  repeat' (first
    | (with_reducible assumption) | (simp only [sane_mk, sane_iff]) | (intro _) | (with_reducible apply foldl_wf) |
    (with_reducible apply foldl_wf2) | (with_reducible apply foldl_wf3) | (with_reducible apply State_guarded_good) |
    (with_reducible apply State_retire_wf) | (with_reducible apply State_noteG_wf) | (with_reducible apply
    State_writeRegs_wf) | (with_reducible apply State_settled_good) | (with_reducible apply ite_wf) | (with_reducible apply
    good_next) | split)

@[simp] theorem State_srWrite_wf {lo : Nat} (x0 : State) (x1 : Nat) (x2 : Word64) (h0 : Sane lo x0) : Sane lo (State.srWrite
    x0 x1 x2) := by
  unfold State.srWrite
  split <;> simp [*]

@[simp] theorem execSetsr_good {lo : Nat} (x0 : Bool) (x1 : BitVec 7) (x2 : Opd) (x3 : State) (hi : x3.issuing = true) (h3 :
    Sane lo x3) : Good lo (execSetsr x0 x1 x2 x3) := by
  unfold execSetsr
  try dsimp only
  repeat' (first
    | (with_reducible assumption) | (simp only [sane_mk, sane_iff]) | (intro _) | (with_reducible apply foldl_wf) |
    (with_reducible apply foldl_wf2) | (with_reducible apply foldl_wf3) | (with_reducible apply State_guarded_good) |
    (with_reducible apply State_retire_wf) | (with_reducible apply State_srWrite_wf) | (with_reducible apply
    State_settled_good) | (with_reducible apply ite_wf) | (with_reducible apply good_next) | split)

@[simp] theorem State_dropIc_wf {lo : Nat} (x0 : State) (x1 : Nat) (x2 : Nat) (h0 : Sane lo x0) : Sane lo (State.dropIc x0 x1
    x2) := by
  unfold State.dropIc
  exact h0

@[simp] theorem State_roomIc_wf {lo : Nat} (x0 : State) (x1 : Nat) (x2 : Nat) (h0 : Sane lo x0) : Sane lo (State.roomIc x0 x1
    x2) := by
  unfold State.roomIc
  try dsimp only
  repeat' (first
    | (with_reducible assumption) | (simp only [sane_mk, sane_iff]) | (intro _) | (with_reducible apply foldl_wf) |
    (with_reducible apply foldl_wf2) | (with_reducible apply foldl_wf3) | (with_reducible apply State_dropIc_wf) |
    (with_reducible apply ite_wf) | split)

@[simp] theorem State_fillIc_wf {lo : Nat} (x0 : State) (x1 : Nat) (x2 : Nat) (x3 : Nat) (h0 : Sane lo x0) : Sane lo
    (State.fillIc x0 x1 x2 x3) := by
  unfold State.fillIc
  try dsimp only
  repeat' (first
    | (with_reducible assumption) | (simp only [sane_mk, sane_iff]) | (intro _) | (with_reducible apply foldl_wf) |
    (with_reducible apply foldl_wf2) | (with_reducible apply foldl_wf3) | (with_reducible apply State_homeTouches_wf) |
    (with_reducible apply State_roomIc_wf) | (with_reducible apply ite_wf) | split)

/-- The waves and the issue latch stand as they are. -/
def SameIss (s t : State) : Prop := t.waves = s.waves ∧ t.iss = s.iss

theorem sameIss_foldl {β : Type} (f : State → β → State) (l : List β) (s : State) (hf : ∀ s b, SameIss s (f s b)) :
    SameIss s (l.foldl f s) := by
  induction l generalizing s with
  | nil => exact ⟨rfl, rfl⟩
  | cons b t ih => exact ⟨(ih _).1.trans (hf s b).1, (ih _).2.trans (hf s b).2⟩

theorem State_writeBackObj_sameIss (s : State) (o : CohObj) : SameIss s (s.writeBackObj o) :=
  sameIss_foldl _ _ _ fun s b => by split <;> exact ⟨rfl, rfl⟩

theorem State_homeTouches_sameIss (s : State) (l : List Nat) : SameIss s (s.homeTouches l) :=
  sameIss_foldl _ _ _ fun s _ => sameIss_foldl _ _ _ fun s e => by
    split
    · exact State_writeBackObj_sameIss s e.2
    · exact ⟨rfl, rfl⟩

theorem State_roomIc_sameIss (s : State) (u line : Nat) : SameIss s (s.roomIc u line) := by
  unfold State.roomIc
  dsimp only
  repeat' split
  all_goals exact ⟨rfl, rfl⟩

theorem State_fillIc_sameIss (s : State) (core asid line : Nat) : SameIss s (s.fillIc core asid line) := by
  unfold State.fillIc
  dsimp only
  split
  · exact ⟨rfl, rfl⟩
  · have a := State_roomIc_sameIss s (icUnit core asid) line
    have b := State_homeTouches_sameIss (s.roomIc (icUnit core asid) line)
    exact ⟨(b _).1.trans a.1, (b _).2.trans a.2⟩

@[simp] theorem State_writeScal_wf {lo : Nat} (x0 : State) (x1 : Nat) (x2 : Dest) (x3 : Word64) (h0 : Sane lo x0) : Sane lo
    (State.writeScal x0 x1 x2 x3) := by
  simp [State.writeScal, *]

@[simp] theorem execIclk_good {lo : Nat} (x0 : Bool) (x1 : Opd) (x2 : Opd) (x3 : Opd) (x4 : State) (hi : x4.issuing = true)
    (h4 : Sane lo x4) : Good lo (execIclk x0 x1 x2 x3 x4) := by
  unfold execIclk
  dsimp only
  repeat' (first
    | (with_reducible assumption) | (simp only [sane_mk, sane_iff]) | (intro _) | (with_reducible apply foldl_wf)
    | (with_reducible apply foldl_wf2) | (with_reducible apply foldl_wf3) | (with_reducible apply State_guarded_good)
    | (with_reducible apply State_fillIc_wf) | (with_reducible apply State_modCtxAt_wf)
    | (with_reducible apply State_retire_wf) | (with_reducible apply State_writeScal_wf) | (with_reducible apply ite_wf)
    | (with_reducible apply good_next) | split)

@[simp] theorem execIcul_good {lo : Nat} (x0 : Bool) (x1 : Opd) (x2 : Opd) (x3 : Opd) (x4 : State) (hi : x4.issuing = true)
    (h4 : Sane lo x4) : Good lo (execIcul x0 x1 x2 x3 x4) := by
  unfold execIcul
  dsimp only
  repeat' (first
    | (with_reducible assumption) | (simp only [sane_mk, sane_iff]) | (intro _) | (with_reducible apply foldl_wf)
    | (with_reducible apply foldl_wf2) | (with_reducible apply foldl_wf3) | (with_reducible apply State_guarded_good)
    | (with_reducible apply State_retire_wf) | (with_reducible apply State_writeScal_wf) | (with_reducible apply ite_wf)
    | (with_reducible apply good_next) | split)

@[simp] theorem State_newTicket_wf {lo : Nat} (x0 : State) (x1 : Nat) (x2 : Nat) (x3 : Nat) (h0 : Sane lo x0) : Sane lo
    (State.newTicket x0 x1 x2 x3).2 := by
  unfold State.newTicket
  exact h0

@[simp] theorem State_wcbDrain_wf {lo : Nat} (x0 : State) (x1 : Nat) (h0 : Sane lo x0) : Sane lo (State.wcbDrain x0 x1) := by
  unfold State.wcbDrain
  refine foldl_wf _ _ _ (by simp [*]) ?_; intros; simp [*]

@[simp] theorem State_releaseCaches_wf {lo : Nat} (x0 : State) (x1 : Nat) (x2 : Nat) (h0 : Sane lo x0) : Sane lo
    (State.releaseCaches x0 x1 x2) := by
  unfold State.releaseCaches
  try dsimp only
  repeat' (first
    | (with_reducible assumption) | (simp only [sane_mk, sane_iff]) | (intro _) | (with_reducible apply foldl_wf) |
    (with_reducible apply foldl_wf2) | (with_reducible apply foldl_wf3) | (with_reducible apply State_wcbDrain_wf) |
    (with_reducible apply State_l2WriteBack_wf) | (with_reducible apply State_modWaveAt_wf) | (with_reducible apply ite_wf) |
    split)

@[simp] theorem State_release_wf {lo : Nat} (x0 : State) (x1 : Nat) (x2 : Nat) (h0 : Sane lo x0) : Sane lo (State.release x0
    x1 x2) := by
  unfold State.release
  try dsimp only
  repeat' (first
    | (with_reducible assumption) | (simp only [sane_mk, sane_iff]) | (intro _) | (with_reducible apply foldl_wf) |
    (with_reducible apply foldl_wf2) | (with_reducible apply foldl_wf3) | (with_reducible apply State_releaseCaches_wf) |
    (with_reducible apply State_drainFifo_wf) | (with_reducible apply ite_wf) | split)

@[simp] theorem execAtinv_good {lo : Nat} (x0 : Bool) (x1 : Opd) (x2 : Opd) (x3 : Opd) (x4 : State) (hi : x4.issuing = true)
    (h4 : Sane lo x4) : Good lo (execAtinv x0 x1 x2 x3 x4) := by
  unfold execAtinv
  dsimp only
  repeat' (first
    | (with_reducible assumption) | (simp only [sane_mk, sane_iff]) | (intro _) | (with_reducible apply foldl_wf)
    | (with_reducible apply foldl_wf2) | (with_reducible apply foldl_wf3) | (with_reducible apply State_guarded_good)
    | (with_reducible apply State_stall_wf) | (with_reducible apply State_newTicket_wf)
    | (with_reducible apply State_release_wf) | (with_reducible apply State_retire_wf)
    | (with_reducible apply State_writeScal_wf) | (with_reducible apply ite_wf) | (with_reducible apply good_next) | split)

@[simp] theorem execAtsync_good {lo : Nat} (x0 : Bool) (x1 : Opd) (x2 : Opd) (x3 : State) (hi : x3.issuing = true) (h3 : Sane
    lo x3) : Good lo (execAtsync x0 x1 x2 x3) := by
  unfold execAtsync
  dsimp only
  repeat' (first
    | (with_reducible assumption) | (simp only [sane_mk, sane_iff]) | (intro _) | (with_reducible apply foldl_wf)
    | (with_reducible apply foldl_wf2) | (with_reducible apply foldl_wf3) | (with_reducible apply State_guarded_good)
    | (with_reducible apply State_stall_wf) | (with_reducible apply State_retire_wf)
    | (with_reducible apply State_writeScal_wf) | (with_reducible apply ite_wf) | (with_reducible apply good_next) | split)

theorem State_mapr_wf {lo : Nat} (s s' : State) (va n : Nat) (ctl : Word64) (h : Sane lo s) (he : s.mapr va ctl = .ok (n, s')) :
    Sane lo s' := by
  unfold State.mapr at he
  dsimp only at he
  repeat' split at he
  all_goals first
    | (cases he; done)
    | (cases he; exact h)
    | (cases he; refine State_modCtxAt_wf _ _ _ ?_; exact State_homeWrite_wf _ _ (State_homeWrite_wf _ _ h))

@[simp] theorem execMapr_good {lo : Nat} (sw : Bool) (d a b : Opd) (s : State) (hi : s.issuing = true) (h : Sane lo s) :
    Good lo (execMapr sw d a b s) := by
  unfold execMapr
  refine State_guarded_good _ _ _ hi h ?_
  split
  · rename_i st s' he
    have hs := State_mapr_wf s s' _ _ _ h he
    exact good_next (by simp [hs])
  · exact good_next h

@[simp] theorem State_shedWave_wf {lo : Nat} (x0 : State) (x1 : Nat) (h0 : Sane lo x0) : Sane lo (State.shedWave x0 x1) := by
  simp [State.shedWave, *]

@[simp] theorem State_shedIfCut_wf {lo : Nat} (x0 : State) (x1 : Nat) (h0 : Sane lo x0) : Sane lo (State.shedIfCut x0 x1) :=
    by
  simp [State.shedIfCut, *]

@[simp] theorem State_resume_wf {lo : Nat} (x0 : State) (x1 : Nat) (h0 : Sane lo x0) : Sane lo (State.resume x0 x1) := by
  simp [State.resume, *]

@[simp] theorem execPkres_good {lo : Nat} (x0 : Bool) (x1 : Opd) (x2 : Opd) (x3 : State) (hi : x3.issuing = true) (h3 : Sane
    lo x3) : Good lo (execPkres x0 x1 x2 x3) := by
  unfold execPkres
  dsimp only
  repeat' (first
    | (with_reducible assumption) | (simp only [sane_mk, sane_iff]) | (intro _) | (with_reducible apply foldl_wf)
    | (with_reducible apply foldl_wf2) | (with_reducible apply foldl_wf3) | (with_reducible apply State_guarded_good)
    | (with_reducible apply State_resume_wf) | (with_reducible apply State_retire_wf)
    | (with_reducible apply State_writeScal_wf) | (with_reducible apply ite_wf) | (with_reducible apply good_next) | split)

@[simp] theorem State_pkill_wf {lo : Nat} (x0 : State) (x1 : Nat) (h0 : Sane lo x0) : Sane lo (State.pkill x0 x1) := by
  simp [State.pkill, *]

@[simp] theorem execPkill_good {lo : Nat} (x0 : Bool) (x1 : Opd) (x2 : Opd) (x3 : State) (hi : x3.issuing = true) (h3 : Sane
    lo x3) : Good lo (execPkill x0 x1 x2 x3) := by
  unfold execPkill
  try dsimp only
  repeat' (first
    | (with_reducible assumption) | (simp only [sane_mk, sane_iff]) | (intro _) | (with_reducible apply foldl_wf) |
    (with_reducible apply foldl_wf2) | (with_reducible apply foldl_wf3) | (with_reducible apply State_guarded_good) |
    (with_reducible apply State_pkill_wf) | (with_reducible apply State_retire_wf) | (with_reducible apply
    State_writeScal_wf) | (with_reducible apply ite_wf) | (with_reducible apply good_next) | split)

@[simp] theorem execJmpr_good {lo : Nat} (x0 : Bool) (x1 : Opd) (x2 : State) (hi : x2.issuing = true) (h2 : Sane lo x2) :
    Good lo (execJmpr x0 x1 x2) := by
  unfold execJmpr
  repeat' (first
    | (with_reducible assumption) | (simp only [sane_mk, sane_iff]) | (intro _) | (with_reducible apply foldl_wf)
    | (with_reducible apply foldl_wf2) | (with_reducible apply foldl_wf3) | (with_reducible apply State_guarded_good)
    | (with_reducible apply State_retireAt_wf) | (with_reducible apply State_setPc_wf) | (with_reducible apply ite_wf)
    | (with_reducible apply good_next) | split)

@[simp] theorem State_link_wf {lo : Nat} (x0 : State) (h0 : Sane lo x0) : Sane lo (State.link x0) := by
  unfold State.link
  exact h0

@[simp] theorem execCallr_good {lo : Nat} (x0 : Bool) (x1 : Opd) (x2 : State) (hi : x2.issuing = true) (h2 : Sane lo x2) :
    Good lo (execCallr x0 x1 x2) := by
  unfold execCallr
  repeat' (first
    | (with_reducible assumption) | (simp only [sane_mk, sane_iff]) | (intro _) | (with_reducible apply foldl_wf)
    | (with_reducible apply foldl_wf2) | (with_reducible apply foldl_wf3) | (with_reducible apply State_guarded_good)
    | (with_reducible apply State_retireAt_wf) | (with_reducible apply State_setPc_wf) | (with_reducible apply State_link_wf)
    | (with_reducible apply ite_wf) | (with_reducible apply good_next) | split)

@[simp] theorem execRet_good {lo : Nat} (x0 : Bool) (x1 : State) (hi : x1.issuing = true) (h1 : Sane lo x1) : Good lo
    (execRet x0 x1) := by
  unfold execRet
  repeat' (first
    | (with_reducible assumption) | (simp only [sane_mk, sane_iff]) | (intro _) | (with_reducible apply foldl_wf)
    | (with_reducible apply foldl_wf2) | (with_reducible apply foldl_wf3) | (with_reducible apply State_guarded_good)
    | (with_reducible apply State_retireAt_wf) | (with_reducible apply State_setPc_wf) | (with_reducible apply ite_wf)
    | (with_reducible apply good_next) | split)

@[simp] theorem State_endQuantum_wf {lo : Nat} (x0 : State) (h0 : Sane lo x0) : Sane lo (State.endQuantum x0) := by
  simp [State.endQuantum, *]

@[simp] theorem State_settleSlots_wf {lo : Nat} (x0 : State) (x1 : Nat) (x2 : Bool) (h0 : Sane lo x0) : Sane lo
    (State.settleSlots x0 x1 x2) := by
  unfold State.settleSlots
  try dsimp only
  repeat' (first
    | (with_reducible assumption) | (simp only [sane_mk, sane_iff]) | (intro _) | (with_reducible apply foldl_wf) |
    (with_reducible apply foldl_wf2) | (with_reducible apply foldl_wf3) | (with_reducible apply State_setWaveAt_wf) |
    (with_reducible apply State_homeTouches_wf) | (with_reducible apply State_takeTrapAt_wf) | (with_reducible apply ite_wf)
    | split)

@[simp] theorem State_exitSlot_wf {lo : Nat} (x0 : State) (x1 : Nat) (x2 : Bool) (h0 : Sane lo x0) : Sane lo (State.exitSlot
    x0 x1 x2) := by
  unfold State.exitSlot
  dsimp only
  repeat' (first
    | (with_reducible assumption) | (simp only [sane_mk, sane_iff]) | (intro _) | (with_reducible apply foldl_wf)
    | (with_reducible apply foldl_wf2) | (with_reducible apply foldl_wf3) | (with_reducible apply State_settleSlots_wf)
    | (with_reducible apply State_setWaveAt_wf) | (with_reducible apply State_reap_wf)
    | (with_reducible apply State_leave_wf) | (with_reducible apply ite_wf) | split)

@[simp] theorem execExit_good {lo : Nat} (x0 : Bool) (x1 : State) (hi : x1.issuing = true) (h1 : Sane lo x1) : Good lo
    (execExit x0 x1) := by
  unfold execExit
  dsimp only
  repeat' (first
    | (with_reducible assumption) | (simp only [sane_mk, sane_iff]) | (intro _) | (with_reducible apply foldl_wf)
    | (with_reducible apply foldl_wf2) | (with_reducible apply foldl_wf3) | (with_reducible apply State_guarded_good)
    | (with_reducible apply State_retireAt_wf) | (with_reducible apply State_setWave_wf)
    | (with_reducible apply State_endQuantum_wf) | (with_reducible apply State_hold_wf)
    | (with_reducible apply State_exitSlot_wf) | (with_reducible apply ite_wf) | (with_reducible apply good_next) | split)

@[simp] theorem execJoin_good {lo : Nat} (x0 : Bool) (x1 : State) (hi : x1.issuing = true) (h1 : Sane lo x1) : Good lo
    (execJoin x0 x1) := by
  unfold execJoin
  dsimp only
  repeat' (first
    | (with_reducible assumption) | (simp only [sane_mk, sane_iff]) | (intro _) | (with_reducible apply foldl_wf)
    | (with_reducible apply foldl_wf2) | (with_reducible apply foldl_wf3) | (with_reducible apply State_guarded_good)
    | (with_reducible apply State_retireAt_wf) | (with_reducible apply State_setWave_wf)
    | (with_reducible apply State_settleSlots_wf) | (with_reducible apply State_retire_wf) | (with_reducible apply ite_wf)
    | (with_reducible apply good_next) | split)

@[simp] theorem execWbase_good {lo : Nat} (x0 : Bool) (x1 : BitVec 3) (x2 : State) (hi : x2.issuing = true) (h2 : Sane lo x2)
    : Good lo (execWbase x0 x1 x2) := by
  unfold execWbase
  dsimp only
  repeat' (first
    | (with_reducible assumption) | (simp only [sane_mk, sane_iff]) | (intro _) | (with_reducible apply foldl_wf)
    | (with_reducible apply foldl_wf2) | (with_reducible apply foldl_wf3) | (with_reducible apply State_guarded_good)
    | (with_reducible apply State_retire_wf) | (with_reducible apply State_setWave_wf) | (with_reducible apply ite_wf)
    | (with_reducible apply good_next) | split)

@[simp] theorem execPhint_good {lo : Nat} (x0 : Bool) (x1 : BitVec 8) (x2 : BitVec 3) (x3 : Opd) (x4 : State) (hi :
    x4.issuing = true) (h4 : Sane lo x4) : Good lo (execPhint x0 x1 x2 x3 x4) := by
  unfold execPhint
  dsimp only
  repeat' (first
    | (with_reducible assumption) | (simp only [sane_mk, sane_iff]) | (intro _) | (with_reducible apply foldl_wf)
    | (with_reducible apply foldl_wf2) | (with_reducible apply foldl_wf3) | (with_reducible apply State_guarded_good)
    | (with_reducible apply State_retire_wf) | (with_reducible apply State_markWg_wf)
    | (with_reducible apply State_setWave_wf) | (with_reducible apply ite_wf) | (with_reducible apply good_next) | split)

@[simp] theorem execIdem_good {lo : Nat} (x0 : Bool) (x1 : BitVec 8) (x2 : BitVec 3) (x3 : Opd) (x4 : State) (hi : x4.issuing
    = true) (h4 : Sane lo x4) : Good lo (execIdem x0 x1 x2 x3 x4) := by
  unfold execIdem
  dsimp only
  repeat' (first
    | (with_reducible assumption) | (simp only [sane_mk, sane_iff]) | (intro _) | (with_reducible apply foldl_wf)
    | (with_reducible apply foldl_wf2) | (with_reducible apply foldl_wf3) | (with_reducible apply State_guarded_good)
    | (with_reducible apply State_retire_wf) | (with_reducible apply State_setWave_wf) | (with_reducible apply ite_wf)
    | (with_reducible apply good_next) | split)

@[simp] theorem execQend_good {lo : Nat} (x0 : Bool) (x1 : State) (hi : x1.issuing = true) (h1 : Sane lo x1) : Good lo
    (execQend x0 x1) := by
  unfold execQend
  repeat' (first
    | (with_reducible assumption) | (simp only [sane_mk, sane_iff]) | (intro _) | (with_reducible apply foldl_wf)
    | (with_reducible apply foldl_wf2) | (with_reducible apply foldl_wf3) | (with_reducible apply State_guarded_good)
    | (with_reducible apply State_endQuantum_wf) | (with_reducible apply State_retire_wf) | (with_reducible apply ite_wf)
    | (with_reducible apply good_next) | split)

@[simp] theorem State_orFlags_wf {lo : Nat} (x0 : State) (x1 : Nat) (x2 : BitVec 6) (x3 : BitVec 6) (h0 : Sane lo x0) : Sane
    lo (State.orFlags x0 x1 x2 x3) := by
  unfold State.orFlags
  exact h0

@[simp] theorem State_putResults_wf {lo : Nat} (x0 : State) (x1 : Bool) (x2 : Dest) (x3 : List (Nat × LRes)) (h0 : Sane lo
    x0) : Sane lo (State.putResults x0 x1 x2 x3) := by
  unfold State.putResults
  try dsimp only
  repeat' (first
    | (with_reducible assumption) | (simp only [sane_mk, sane_iff]) | (intro _) | (with_reducible apply foldl_wf) |
    (with_reducible apply foldl_wf2) | (with_reducible apply foldl_wf3) | (with_reducible apply State_makeTokens_wf) |
    (with_reducible apply State_orFlags_wf) | (with_reducible apply State_addPend_wf) | (with_reducible apply State_noteG_wf)
    | (with_reducible apply State_writeRegs_wf) | (with_reducible apply ite_wf) | split)

@[simp] theorem State_compute_good {lo : Nat} (x0 : State) (x1 : Bool) (x2 : Bool) (x3 : Form) (x4 : Bool) (x5 : Opd) (x6 :
    State → Nat → LRes) (hi : x0.issuing = true) (h0 : Sane lo x0) : Good lo (State.compute x0 x1 x2 x3 x4 x5 x6) := by
  unfold State.compute
  repeat' (first
    | (with_reducible assumption) | (simp only [sane_mk, sane_iff]) | (intro _) | (with_reducible apply foldl_wf)
    | (with_reducible apply foldl_wf2) | (with_reducible apply foldl_wf3) | (with_reducible apply State_guarded_good)
    | (with_reducible apply State_retire_wf) | (with_reducible apply State_putResults_wf) | (with_reducible apply ite_wf)
    | (with_reducible apply good_next) | split)

@[simp] theorem State_iop_good {lo : Nat} (x0 : State) (x1 : Bool) (x2 : Opd) (x3 : Opd) (x4 : Option Opd) (x5 : Bool) (x6 :
    IopFn) (hi : x0.issuing = true) (h0 : Sane lo x0) : Good lo (State.iop x0 x1 x2 x3 x4 x5 x6) := by
  simp [State.iop, *]

@[simp] theorem execAdd_good {lo : Nat} (x0 : Bool) (x1 : Opd) (x2 : Opd) (x3 : Opd) (x4 : State) (hi : x4.issuing = true)
    (h4 : Sane lo x4) : Good lo (execAdd x0 x1 x2 x3 x4) := by
  simp [execAdd, *]

@[simp] theorem execSub_good {lo : Nat} (x0 : Bool) (x1 : Opd) (x2 : Opd) (x3 : Opd) (x4 : State) (hi : x4.issuing = true)
    (h4 : Sane lo x4) : Good lo (execSub x0 x1 x2 x3 x4) := by
  simp [execSub, *]

@[simp] theorem execMul_good {lo : Nat} (x0 : Bool) (x1 : Opd) (x2 : Opd) (x3 : Opd) (x4 : State) (hi : x4.issuing = true)
    (h4 : Sane lo x4) : Good lo (execMul x0 x1 x2 x3 x4) := by
  simp [execMul, *]

@[simp] theorem execMulh_good {lo : Nat} (x0 : Bool) (x1 : Opd) (x2 : Opd) (x3 : Opd) (x4 : State) (hi : x4.issuing = true)
    (h4 : Sane lo x4) : Good lo (execMulh x0 x1 x2 x3 x4) := by
  simp [execMulh, *]

@[simp] theorem execMulhU_good {lo : Nat} (x0 : Bool) (x1 : Opd) (x2 : Opd) (x3 : Opd) (x4 : State) (hi : x4.issuing = true)
    (h4 : Sane lo x4) : Good lo (execMulhU x0 x1 x2 x3 x4) := by
  simp [execMulhU, *]

@[simp] theorem execMad_good {lo : Nat} (x0 : Bool) (x1 : Opd) (x2 : Opd) (x3 : Opd) (x4 : State) (hi : x4.issuing = true)
    (h4 : Sane lo x4) : Good lo (execMad x0 x1 x2 x3 x4) := by
  simp [execMad, *]

@[simp] theorem execAnd_good {lo : Nat} (x0 : Bool) (x1 : Opd) (x2 : Opd) (x3 : Opd) (x4 : State) (hi : x4.issuing = true)
    (h4 : Sane lo x4) : Good lo (execAnd x0 x1 x2 x3 x4) := by
  simp [execAnd, *]

@[simp] theorem execOr_good {lo : Nat} (x0 : Bool) (x1 : Opd) (x2 : Opd) (x3 : Opd) (x4 : State) (hi : x4.issuing = true) (h4
    : Sane lo x4) : Good lo (execOr x0 x1 x2 x3 x4) := by
  simp [execOr, *]

@[simp] theorem execXor_good {lo : Nat} (x0 : Bool) (x1 : Opd) (x2 : Opd) (x3 : Opd) (x4 : State) (hi : x4.issuing = true)
    (h4 : Sane lo x4) : Good lo (execXor x0 x1 x2 x3 x4) := by
  simp [execXor, *]

@[simp] theorem execShl_good {lo : Nat} (x0 : Bool) (x1 : Opd) (x2 : Opd) (x3 : Opd) (x4 : State) (hi : x4.issuing = true)
    (h4 : Sane lo x4) : Good lo (execShl x0 x1 x2 x3 x4) := by
  simp [execShl, *]

@[simp] theorem execShr_good {lo : Nat} (x0 : Bool) (x1 : Opd) (x2 : Opd) (x3 : Opd) (x4 : State) (hi : x4.issuing = true)
    (h4 : Sane lo x4) : Good lo (execShr x0 x1 x2 x3 x4) := by
  simp [execShr, *]

@[simp] theorem execSar_good {lo : Nat} (x0 : Bool) (x1 : Opd) (x2 : Opd) (x3 : Opd) (x4 : State) (hi : x4.issuing = true)
    (h4 : Sane lo x4) : Good lo (execSar x0 x1 x2 x3 x4) := by
  simp [execSar, *]

@[simp] theorem execMin_good {lo : Nat} (x0 : Bool) (x1 : Opd) (x2 : Opd) (x3 : Opd) (x4 : State) (hi : x4.issuing = true)
    (h4 : Sane lo x4) : Good lo (execMin x0 x1 x2 x3 x4) := by
  simp [execMin, *]

@[simp] theorem execMinU_good {lo : Nat} (x0 : Bool) (x1 : Opd) (x2 : Opd) (x3 : Opd) (x4 : State) (hi : x4.issuing = true)
    (h4 : Sane lo x4) : Good lo (execMinU x0 x1 x2 x3 x4) := by
  simp [execMinU, *]

@[simp] theorem execMax_good {lo : Nat} (x0 : Bool) (x1 : Opd) (x2 : Opd) (x3 : Opd) (x4 : State) (hi : x4.issuing = true)
    (h4 : Sane lo x4) : Good lo (execMax x0 x1 x2 x3 x4) := by
  simp [execMax, *]

@[simp] theorem execMaxU_good {lo : Nat} (x0 : Bool) (x1 : Opd) (x2 : Opd) (x3 : Opd) (x4 : State) (hi : x4.issuing = true)
    (h4 : Sane lo x4) : Good lo (execMaxU x0 x1 x2 x3 x4) := by
  simp [execMaxU, *]

@[simp] theorem execAbs_good {lo : Nat} (x0 : Bool) (x1 : Opd) (x2 : Opd) (x3 : State) (hi : x3.issuing = true) (h3 : Sane lo
    x3) : Good lo (execAbs x0 x1 x2 x3) := by
  simp [execAbs, *]

@[simp] theorem execClz_good {lo : Nat} (x0 : Bool) (x1 : Opd) (x2 : Opd) (x3 : State) (hi : x3.issuing = true) (h3 : Sane lo
    x3) : Good lo (execClz x0 x1 x2 x3) := by
  simp [execClz, *]

@[simp] theorem execPopc_good {lo : Nat} (x0 : Bool) (x1 : Opd) (x2 : Opd) (x3 : State) (hi : x3.issuing = true) (h3 : Sane
    lo x3) : Good lo (execPopc x0 x1 x2 x3) := by
  simp [execPopc, *]

@[simp] theorem execBfe_good {lo : Nat} (x0 : Bool) (x1 : Opd) (x2 : Opd) (x3 : Opd) (x4 : State) (hi : x4.issuing = true)
    (h4 : Sane lo x4) : Good lo (execBfe x0 x1 x2 x3 x4) := by
  simp [execBfe, *]

@[simp] theorem execBfeU_good {lo : Nat} (x0 : Bool) (x1 : Opd) (x2 : Opd) (x3 : Opd) (x4 : State) (hi : x4.issuing = true)
    (h4 : Sane lo x4) : Good lo (execBfeU x0 x1 x2 x3 x4) := by
  simp [execBfeU, *]

@[simp] theorem execBfi_good {lo : Nat} (x0 : Bool) (x1 : Opd) (x2 : Opd) (x3 : Opd) (x4 : State) (hi : x4.issuing = true)
    (h4 : Sane lo x4) : Good lo (execBfi x0 x1 x2 x3 x4) := by
  simp [execBfi, *]

@[simp] theorem execSel_good {lo : Nat} (x0 : Bool) (x1 : Opd) (x2 : Opd) (x3 : Opd) (x4 : State) (hi : x4.issuing = true)
    (h4 : Sane lo x4) : Good lo (execSel x0 x1 x2 x3 x4) := by
  unfold execSel
  dsimp only
  repeat' (first
    | (with_reducible assumption) | (simp only [sane_mk, sane_iff]) | (intro _) | (with_reducible apply foldl_wf)
    | (with_reducible apply foldl_wf2) | (with_reducible apply foldl_wf3) | (with_reducible apply State_guarded_good)
    | (with_reducible apply State_retire_wf) | (with_reducible apply State_putResults_wf) | (with_reducible apply ite_wf)
    | (with_reducible apply good_next) | split)

@[simp] theorem State_division_good {lo : Nat} (x0 : State) (x1 : Bool) (x2 : Opd) (x3 : Opd) (x4 : Opd) (x5 : IopFn) (hi :
    x0.issuing = true) (h0 : Sane lo x0) : Good lo (State.division x0 x1 x2 x3 x4 x5) := by
  simp [State.division, *]

@[simp] theorem execDiv_good {lo : Nat} (x0 : Bool) (x1 : Opd) (x2 : Opd) (x3 : Opd) (x4 : State) (hi : x4.issuing = true)
    (h4 : Sane lo x4) : Good lo (execDiv x0 x1 x2 x3 x4) := by
  simp [execDiv, *]

@[simp] theorem execDivU_good {lo : Nat} (x0 : Bool) (x1 : Opd) (x2 : Opd) (x3 : Opd) (x4 : State) (hi : x4.issuing = true)
    (h4 : Sane lo x4) : Good lo (execDivU x0 x1 x2 x3 x4) := by
  simp [execDivU, *]

@[simp] theorem execRem_good {lo : Nat} (x0 : Bool) (x1 : Opd) (x2 : Opd) (x3 : Opd) (x4 : State) (hi : x4.issuing = true)
    (h4 : Sane lo x4) : Good lo (execRem x0 x1 x2 x3 x4) := by
  simp [execRem, *]

@[simp] theorem execRemU_good {lo : Nat} (x0 : Bool) (x1 : Opd) (x2 : Opd) (x3 : Opd) (x4 : State) (hi : x4.issuing = true)
    (h4 : Sane lo x4) : Good lo (execRemU x0 x1 x2 x3 x4) := by
  simp [execRemU, *]

@[simp] theorem execAddSat_good {lo : Nat} (x0 : Bool) (x1 : Opd) (x2 : Opd) (x3 : Opd) (x4 : State) (hi : x4.issuing = true)
    (h4 : Sane lo x4) : Good lo (execAddSat x0 x1 x2 x3 x4) := by
  simp [execAddSat, *]

@[simp] theorem execSubSat_good {lo : Nat} (x0 : Bool) (x1 : Opd) (x2 : Opd) (x3 : Opd) (x4 : State) (hi : x4.issuing = true)
    (h4 : Sane lo x4) : Good lo (execSubSat x0 x1 x2 x3 x4) := by
  simp [execSubSat, *]

@[simp] theorem State_immOp_good {lo : Nat} (x0 : State) (x1 : Bool) (x2 : Opd) (x3 : Opd) (x4 : XwRule) (x5 : Word64) (x6 :
    IopFn) (hi : x0.issuing = true) (h0 : Sane lo x0) : Good lo (State.immOp x0 x1 x2 x3 x4 x5 x6) := by
  simp [State.immOp, *]

@[simp] theorem execAddi_good {lo : Nat} (x0 : Bool) (x1 : Opd) (x2 : Opd) (x3 : BitVec 12) (x4 : State) (hi : x4.issuing =
    true) (h4 : Sane lo x4) : Good lo (execAddi x0 x1 x2 x3 x4) := by
  simp [execAddi, *]

@[simp] theorem execAndi_good {lo : Nat} (x0 : Bool) (x1 : Opd) (x2 : Opd) (x3 : BitVec 10) (x4 : State) (hi : x4.issuing =
    true) (h4 : Sane lo x4) : Good lo (execAndi x0 x1 x2 x3 x4) := by
  simp [execAndi, *]

@[simp] theorem execOri_good {lo : Nat} (x0 : Bool) (x1 : Opd) (x2 : Opd) (x3 : BitVec 10) (x4 : State) (hi : x4.issuing =
    true) (h4 : Sane lo x4) : Good lo (execOri x0 x1 x2 x3 x4) := by
  simp [execOri, *]

@[simp] theorem execXori_good {lo : Nat} (x0 : Bool) (x1 : Opd) (x2 : Opd) (x3 : BitVec 10) (x4 : State) (hi : x4.issuing =
    true) (h4 : Sane lo x4) : Good lo (execXori x0 x1 x2 x3 x4) := by
  simp [execXori, *]

@[simp] theorem State_putPred_wf {lo : Nat} (x0 : State) (x1 : Bool) (x2 : Nat) (x3 : List (Nat × Option Bool)) (h0 : Sane lo
    x0) : Sane lo (State.putPred x0 x1 x2 x3) := by
  simp [State.putPred, *]

@[simp] theorem State_comparing_good {lo : Nat} (x0 : State) (x1 : Bool) (x2 : Form) (x3 : BitVec 3) (x4 : State → Bool → Nat
    → List (Option Word32)) (x5 : State → Bool → Nat → Bool) (hi : x0.issuing = true) (h0 : Sane lo x0) : Good lo
    (State.comparing x0 x1 x2 x3 x4 x5) := by
  unfold State.comparing
  repeat' (first
    | (with_reducible assumption) | (simp only [sane_mk, sane_iff]) | (intro _) | (with_reducible apply foldl_wf)
    | (with_reducible apply foldl_wf2) | (with_reducible apply foldl_wf3) | (with_reducible apply State_guarded_good)
    | (with_reducible apply State_retire_wf) | (with_reducible apply State_putPred_wf) | (with_reducible apply ite_wf)
    | (with_reducible apply good_next) | split)

@[simp] theorem execTsti_good {lo : Nat} (x0 : Bool) (x1 : BitVec 3) (x2 : Opd) (x3 : BitVec 10) (x4 : State) (hi :
    x4.issuing = true) (h4 : Sane lo x4) : Good lo (execTsti x0 x1 x2 x3 x4) := by
  simp [execTsti, *]

@[simp] theorem execShli_good {lo : Nat} (x0 : Bool) (x1 : Opd) (x2 : Opd) (x3 : BitVec 6) (x4 : State) (hi : x4.issuing =
    true) (h4 : Sane lo x4) : Good lo (execShli x0 x1 x2 x3 x4) := by
  simp [execShli, *]

@[simp] theorem execShri_good {lo : Nat} (x0 : Bool) (x1 : Opd) (x2 : Opd) (x3 : BitVec 6) (x4 : State) (hi : x4.issuing =
    true) (h4 : Sane lo x4) : Good lo (execShri x0 x1 x2 x3 x4) := by
  simp [execShri, *]

@[simp] theorem execSari_good {lo : Nat} (x0 : Bool) (x1 : Opd) (x2 : Opd) (x3 : BitVec 6) (x4 : State) (hi : x4.issuing =
    true) (h4 : Sane lo x4) : Good lo (execSari x0 x1 x2 x3 x4) := by
  simp [execSari, *]

@[simp] theorem execRoti_good {lo : Nat} (x0 : Bool) (x1 : Opd) (x2 : Opd) (x3 : BitVec 6) (x4 : State) (hi : x4.issuing =
    true) (h4 : Sane lo x4) : Good lo (execRoti x0 x1 x2 x3 x4) := by
  simp [execRoti, *]

@[simp] theorem execCmpi_good {lo : Nat} (x0 : Bool) (x1 : BitVec 3) (x2 : Opd) (x3 : ICond) (x4 : BitVec 9) (x5 : State) (hi
    : x5.issuing = true) (h5 : Sane lo x5) : Good lo (execCmpi x0 x1 x2 x3 x4 x5) := by
  simp [execCmpi, *]

@[simp] theorem execMovi_good {lo : Nat} (x0 : Bool) (x1 : Opd) (x2 : BitVec 19) (x3 : State) (hi : x3.issuing = true) (h3 :
    Sane lo x3) : Good lo (execMovi x0 x1 x2 x3) := by
  simp [execMovi, *]

@[simp] theorem State_fop_good {lo : Nat} (x0 : State) (x1 : Bool) (x2 : Bool) (x3 : Opd) (x4 : Opd) (x5 : Option Opd) (x6 :
    Bool) (x7 : FType) (x8 : FopFn) (hi : x0.issuing = true) (h0 : Sane lo x0) : Good lo (State.fop x0 x1 x2 x3 x4 x5 x6 x7
    x8) := by
  simp [State.fop, *]

@[simp] theorem execFadd_good {lo : Nat} (x0 : Bool) (x1 : Opd) (x2 : Opd) (x3 : Opd) (x4 : FType) (x5 : State) (hi :
    x5.issuing = true) (h5 : Sane lo x5) : Good lo (execFadd x0 x1 x2 x3 x4 x5) := by
  simp [execFadd, *]

@[simp] theorem execFsub_good {lo : Nat} (x0 : Bool) (x1 : Opd) (x2 : Opd) (x3 : Opd) (x4 : FType) (x5 : State) (hi :
    x5.issuing = true) (h5 : Sane lo x5) : Good lo (execFsub x0 x1 x2 x3 x4 x5) := by
  simp [execFsub, *]

@[simp] theorem execFmul_good {lo : Nat} (x0 : Bool) (x1 : Opd) (x2 : Opd) (x3 : Opd) (x4 : FType) (x5 : State) (hi :
    x5.issuing = true) (h5 : Sane lo x5) : Good lo (execFmul x0 x1 x2 x3 x4 x5) := by
  simp [execFmul, *]

@[simp] theorem execFma_good {lo : Nat} (x0 : Bool) (x1 : Opd) (x2 : Opd) (x3 : Opd) (x4 : FType) (x5 : State) (hi :
    x5.issuing = true) (h5 : Sane lo x5) : Good lo (execFma x0 x1 x2 x3 x4 x5) := by
  simp [execFma, *]

@[simp] theorem execFmin_good {lo : Nat} (x0 : Bool) (x1 : Opd) (x2 : Opd) (x3 : Opd) (x4 : FType) (x5 : State) (hi :
    x5.issuing = true) (h5 : Sane lo x5) : Good lo (execFmin x0 x1 x2 x3 x4 x5) := by
  simp [execFmin, *]

@[simp] theorem execFmax_good {lo : Nat} (x0 : Bool) (x1 : Opd) (x2 : Opd) (x3 : Opd) (x4 : FType) (x5 : State) (hi :
    x5.issuing = true) (h5 : Sane lo x5) : Good lo (execFmax x0 x1 x2 x3 x4 x5) := by
  simp [execFmax, *]

@[simp] theorem execFdiv_good {lo : Nat} (x0 : Bool) (x1 : Opd) (x2 : Opd) (x3 : Opd) (x4 : FType) (x5 : State) (hi :
    x5.issuing = true) (h5 : Sane lo x5) : Good lo (execFdiv x0 x1 x2 x3 x4 x5) := by
  simp [execFdiv, *]

@[simp] theorem execFsqrt_good {lo : Nat} (x0 : Bool) (x1 : Opd) (x2 : Opd) (x3 : FType) (x4 : State) (hi : x4.issuing =
    true) (h4 : Sane lo x4) : Good lo (execFsqrt x0 x1 x2 x3 x4) := by
  simp [execFsqrt, *]

@[simp] theorem State_ffn_good {lo : Nat} (x0 : State) (x1 : Bool) (x2 : Opd) (x3 : Opd) (x4 : FType) (x5 : FfnOp) (hi :
    x0.issuing = true) (h0 : Sane lo x0) : Good lo (State.ffn x0 x1 x2 x3 x4 x5) := by
  simp [State.ffn, *]

@[simp] theorem execFexp_good {lo : Nat} (x0 : Bool) (x1 : Opd) (x2 : Opd) (x3 : FType) (x4 : State) (hi : x4.issuing = true)
    (h4 : Sane lo x4) : Good lo (execFexp x0 x1 x2 x3 x4) := by
  simp [execFexp, *]

@[simp] theorem execFlog_good {lo : Nat} (x0 : Bool) (x1 : Opd) (x2 : Opd) (x3 : FType) (x4 : State) (hi : x4.issuing = true)
    (h4 : Sane lo x4) : Good lo (execFlog x0 x1 x2 x3 x4) := by
  simp [execFlog, *]

@[simp] theorem execFrcp_good {lo : Nat} (x0 : Bool) (x1 : Opd) (x2 : Opd) (x3 : FType) (x4 : State) (hi : x4.issuing = true)
    (h4 : Sane lo x4) : Good lo (execFrcp x0 x1 x2 x3 x4) := by
  simp [execFrcp, *]

@[simp] theorem execFrsq_good {lo : Nat} (x0 : Bool) (x1 : Opd) (x2 : Opd) (x3 : FType) (x4 : State) (hi : x4.issuing = true)
    (h4 : Sane lo x4) : Good lo (execFrsq x0 x1 x2 x3 x4) := by
  simp [execFrsq, *]

@[simp] theorem execFsin_good {lo : Nat} (x0 : Bool) (x1 : Opd) (x2 : Opd) (x3 : FType) (x4 : State) (hi : x4.issuing = true)
    (h4 : Sane lo x4) : Good lo (execFsin x0 x1 x2 x3 x4) := by
  simp [execFsin, *]

@[simp] theorem execFcos_good {lo : Nat} (x0 : Bool) (x1 : Opd) (x2 : Opd) (x3 : FType) (x4 : State) (hi : x4.issuing = true)
    (h4 : Sane lo x4) : Good lo (execFcos x0 x1 x2 x3 x4) := by
  simp [execFcos, *]

@[simp] theorem execFtanh_good {lo : Nat} (x0 : Bool) (x1 : Opd) (x2 : Opd) (x3 : FType) (x4 : State) (hi : x4.issuing =
    true) (h4 : Sane lo x4) : Good lo (execFtanh x0 x1 x2 x3 x4) := by
  simp [execFtanh, *]

@[simp] theorem execFerf_good {lo : Nat} (x0 : Bool) (x1 : Opd) (x2 : Opd) (x3 : FType) (x4 : State) (hi : x4.issuing = true)
    (h4 : Sane lo x4) : Good lo (execFerf x0 x1 x2 x3 x4) := by
  simp [execFerf, *]

@[simp] theorem execCvt_good {lo : Nat} (x0 : Bool) (x1 : Opd) (x2 : Opd) (x3 : BitVec 7) (x4 : CvtPair) (x5 : State) (hi :
    x5.issuing = true) (h5 : Sane lo x5) : Good lo (execCvt x0 x1 x2 x3 x4 x5) := by
  simp [execCvt, *]

@[simp] theorem State_blockOp_good {lo : Nat} (x0 : State) (x1 : Bool) (x2 : Form) (x3 : Bool) (x4 : Opd) (x5 : State → Nat →
    Option Word32) (x6 : State → Nat → List Nat × BitVec 6) (hi : x0.issuing = true) (h0 : Sane lo x0) : Good lo
    (State.blockOp x0 x1 x2 x3 x4 x5 x6) := by
  unfold State.blockOp
  repeat' (first
    | (with_reducible assumption) | (simp only [sane_mk, sane_iff]) | (intro _) | (with_reducible apply foldl_wf)
    | (with_reducible apply foldl_wf2) | (with_reducible apply foldl_wf3) | (with_reducible apply State_guarded_good)
    | (with_reducible apply State_retire_wf) | (with_reducible apply State_putResults_wf) | (with_reducible apply ite_wf)
    | (with_reducible apply good_next) | split)

@[simp] theorem execMxq_good {lo : Nat} (x0 : Bool) (x1 : Opd) (x2 : Opd) (x3 : BitVec 7) (x4 : State) (hi : x4.issuing =
    true) (h4 : Sane lo x4) : Good lo (execMxq x0 x1 x2 x3 x4) := by
  simp [execMxq, *]

@[simp] theorem execMxdq_good {lo : Nat} (x0 : Bool) (x1 : Opd) (x2 : Opd) (x3 : BitVec 7) (x4 : State) (hi : x4.issuing =
    true) (h4 : Sane lo x4) : Good lo (execMxdq x0 x1 x2 x3 x4) := by
  simp [execMxdq, *]

@[simp] theorem execTerq_good {lo : Nat} (x0 : Bool) (x1 : Opd) (x2 : Opd) (x3 : State) (hi : x3.issuing = true) (h3 : Sane
    lo x3) : Good lo (execTerq x0 x1 x2 x3) := by
  simp [execTerq, *]

@[simp] theorem execFrnd_good {lo : Nat} (x0 : Bool) (x1 : Opd) (x2 : Opd) (x3 : BitVec 7) (x4 : State) (hi : x4.issuing =
    true) (h4 : Sane lo x4) : Good lo (execFrnd x0 x1 x2 x3 x4) := by
  simp [execFrnd, *]

@[simp] theorem execIcmp_good {lo : Nat} (x0 : Bool) (x1 : BitVec 3) (x2 : Opd) (x3 : Opd) (x4 : ICond) (x5 : State) (hi :
    x5.issuing = true) (h5 : Sane lo x5) : Good lo (execIcmp x0 x1 x2 x3 x4 x5) := by
  simp [execIcmp, *]

@[simp] theorem execIcmpU_good {lo : Nat} (x0 : Bool) (x1 : BitVec 3) (x2 : Opd) (x3 : Opd) (x4 : ICond) (x5 : State) (hi :
    x5.issuing = true) (h5 : Sane lo x5) : Good lo (execIcmpU x0 x1 x2 x3 x4 x5) := by
  simp [execIcmpU, *]

@[simp] theorem execFcmp_good {lo : Nat} (x0 : Bool) (x1 : BitVec 3) (x2 : Opd) (x3 : Opd) (x4 : FCond) (x5 : State) (hi :
    x5.issuing = true) (h5 : Sane lo x5) : Good lo (execFcmp x0 x1 x2 x3 x4 x5) := by
  unfold execFcmp
  dsimp only
  repeat' (first
    | (with_reducible assumption) | (simp only [sane_mk, sane_iff]) | (intro _) | (with_reducible apply foldl_wf)
    | (with_reducible apply foldl_wf2) | (with_reducible apply foldl_wf3) | (with_reducible apply State_guarded_good)
    | (with_reducible apply State_retire_wf) | (with_reducible apply State_orFlags_wf)
    | (with_reducible apply State_putPred_wf) | (with_reducible apply ite_wf) | (with_reducible apply good_next) | split)

@[simp] theorem execPlog_good {lo : Nat} (x0 : Bool) (x1 : BitVec 3) (x2 : BitVec 3) (x3 : BitVec 3) (x4 : PlogOp) (x5 :
    State) (hi : x5.issuing = true) (h5 : Sane lo x5) : Good lo (execPlog x0 x1 x2 x3 x4 x5) := by
  unfold execPlog
  dsimp only
  repeat' (first
    | (with_reducible assumption) | (simp only [sane_mk, sane_iff]) | (intro _) | (with_reducible apply foldl_wf)
    | (with_reducible apply foldl_wf2) | (with_reducible apply foldl_wf3) | (with_reducible apply State_guarded_good)
    | (with_reducible apply State_retire_wf) | (with_reducible apply State_deliver_wf) | (with_reducible apply ite_wf)
    | (with_reducible apply good_next) | split)

@[simp] theorem execRed_good {lo : Nat} (x0 : Bool) (x1 : Opd) (x2 : Opd) (x3 : RedOp) (x4 : State) (hi : x4.issuing = true)
    (h4 : Sane lo x4) : Good lo (execRed x0 x1 x2 x3 x4) := by
  unfold execRed
  repeat' (first
    | (with_reducible assumption) | (simp only [sane_mk, sane_iff]) | (intro _) | (with_reducible apply foldl_wf)
    | (with_reducible apply foldl_wf2) | (with_reducible apply foldl_wf3) | (with_reducible apply State_guarded_good)
    | (with_reducible apply State_retire_wf) | (with_reducible apply State_putResults_wf) | (with_reducible apply ite_wf)
    | (with_reducible apply good_next) | split)

@[simp] theorem execRedFadd_good {lo : Nat} (x0 : Bool) (x1 : Opd) (x2 : Opd) (x3 : State) (hi : x3.issuing = true) (h3 :
    Sane lo x3) : Good lo (execRedFadd x0 x1 x2 x3) := by
  unfold execRedFadd
  try dsimp only
  repeat' (first
    | (with_reducible assumption) | (simp only [sane_mk, sane_iff]) | (intro _) | (with_reducible apply foldl_wf) |
    (with_reducible apply foldl_wf2) | (with_reducible apply foldl_wf3) | (with_reducible apply State_guarded_good) |
    (with_reducible apply State_retire_wf) | (with_reducible apply State_orFlags_wf) | (with_reducible apply
    State_putResults_wf) | (with_reducible apply ite_wf) | (with_reducible apply good_next) | split)

@[simp] theorem execScan_good {lo : Nat} (x0 : Bool) (x1 : Opd) (x2 : Opd) (x3 : ScanOp) (x4 : State) (hi : x4.issuing =
    true) (h4 : Sane lo x4) : Good lo (execScan x0 x1 x2 x3 x4) := by
  unfold execScan
  repeat' (first
    | (with_reducible assumption) | (simp only [sane_mk, sane_iff]) | (intro _) | (with_reducible apply foldl_wf)
    | (with_reducible apply foldl_wf2) | (with_reducible apply foldl_wf3) | (with_reducible apply State_guarded_good)
    | (with_reducible apply State_retire_wf) | (with_reducible apply State_putResults_wf) | (with_reducible apply ite_wf)
    | (with_reducible apply good_next) | split)

@[simp] theorem execBallot_good {lo : Nat} (x0 : Bool) (x1 : Opd) (x2 : BitVec 3) (x3 : State) (hi : x3.issuing = true) (h3 :
    Sane lo x3) : Good lo (execBallot x0 x1 x2 x3) := by
  unfold execBallot
  dsimp only
  repeat' (first
    | (with_reducible assumption) | (simp only [sane_mk, sane_iff]) | (intro _) | (with_reducible apply foldl_wf)
    | (with_reducible apply foldl_wf2) | (with_reducible apply foldl_wf3) | (with_reducible apply State_guarded_good)
    | (with_reducible apply State_retire_wf) | (with_reducible apply State_putResults_wf) | (with_reducible apply ite_wf)
    | (with_reducible apply good_next) | split)

@[simp] theorem State_vote_good {lo : Nat} (x0 : State) (x1 : Bool) (x2 : BitVec 3) (x3 : BitVec 3) (x4 : List Bool → Bool)
    (hi : x0.issuing = true) (h0 : Sane lo x0) : Good lo (State.vote x0 x1 x2 x3 x4) := by
  unfold State.vote
  dsimp only
  repeat' (first
    | (with_reducible assumption) | (simp only [sane_mk, sane_iff]) | (intro _) | (with_reducible apply foldl_wf)
    | (with_reducible apply foldl_wf2) | (with_reducible apply foldl_wf3) | (with_reducible apply State_guarded_good)
    | (with_reducible apply State_retire_wf) | (with_reducible apply State_putPred_wf) | (with_reducible apply ite_wf)
    | (with_reducible apply good_next) | split)

@[simp] theorem execVoteAll_good {lo : Nat} (x0 : Bool) (x1 : BitVec 3) (x2 : BitVec 3) (x3 : State) (hi : x3.issuing = true)
    (h3 : Sane lo x3) : Good lo (execVoteAll x0 x1 x2 x3) := by
  simp [execVoteAll, *]

@[simp] theorem execVoteAny_good {lo : Nat} (x0 : Bool) (x1 : BitVec 3) (x2 : BitVec 3) (x3 : State) (hi : x3.issuing = true)
    (h3 : Sane lo x3) : Good lo (execVoteAny x0 x1 x2 x3) := by
  simp [execVoteAny, *]

@[simp] theorem execVoteUni_good {lo : Nat} (x0 : Bool) (x1 : BitVec 3) (x2 : BitVec 3) (x3 : State) (hi : x3.issuing = true)
    (h3 : Sane lo x3) : Good lo (execVoteUni x0 x1 x2 x3) := by
  simp [execVoteUni, *]

@[simp] theorem execElect_good {lo : Nat} (x0 : Bool) (x1 : BitVec 3) (x2 : State) (hi : x2.issuing = true) (h2 : Sane lo x2)
    : Good lo (execElect x0 x1 x2) := by
  unfold execElect
  repeat' (first
    | (with_reducible assumption) | (simp only [sane_mk, sane_iff]) | (intro _) | (with_reducible apply foldl_wf)
    | (with_reducible apply foldl_wf2) | (with_reducible apply foldl_wf3) | (with_reducible apply State_guarded_good)
    | (with_reducible apply State_retire_wf) | (with_reducible apply State_putPred_wf) | (with_reducible apply ite_wf)
    | (with_reducible apply good_next) | split)

@[simp] theorem execShfl_good {lo : Nat} (x0 : Bool) (x1 : Opd) (x2 : Opd) (x3 : Opd) (x4 : State) (hi : x4.issuing = true)
    (h4 : Sane lo x4) : Good lo (execShfl x0 x1 x2 x3 x4) := by
  unfold execShfl
  dsimp only
  repeat' (first
    | (with_reducible assumption) | (simp only [sane_mk, sane_iff]) | (intro _) | (with_reducible apply foldl_wf)
    | (with_reducible apply foldl_wf2) | (with_reducible apply foldl_wf3) | (with_reducible apply State_guarded_good)
    | (with_reducible apply State_retire_wf) | (with_reducible apply State_putResults_wf) | (with_reducible apply ite_wf)
    | (with_reducible apply good_next) | split)

@[simp] theorem State_lookupTouch_wf {lo : Nat} (x0 : State) (x1 : List Piece) (x2 : Nat) (x3 : Nat) (x4 : Nat) (h0 : Sane lo
    x0) : Sane lo (State.lookupTouch x0 x1 x2 x3 x4) := by
  unfold State.lookupTouch
  repeat' (first
    | assumption | (simp only [sane_mk, sane_iff]) | (exact foldl_wf _ _ _ (by assumption) (by intros; simp [*]))
    | (simp [*]; done) | (simp [*] at *; done) | split)

@[simp] theorem State_touchTlbs_wf {lo : Nat} (x0 : State) (x1 : BufRec) (x2 : List Nat) (h0 : Sane lo x0) : Sane lo
    (State.touchTlbs x0 x1 x2) := by
  unfold State.touchTlbs
  repeat' (first
    | assumption | (simp only [sane_mk, sane_iff]) | (exact foldl_wf _ _ _ (by assumption) (by intros; simp [*])) | split)

@[simp] theorem State_settleAtomics_wf {lo : Nat} (x0 : State) (x1 : Bool) (x2 : List Nat) (h0 : Sane lo x0) : Sane lo
    (State.settleAtomics x0 x1 x2) := by
  unfold State.settleAtomics
  split <;> simp [*]

@[simp] theorem State_loadsTouch_wf {lo : Nat} (x0 : State) (x1 : Bool) (x2 : Bool) (x3 : Bool) (x4 : List Nat) (h0 : Sane lo
    x0) : Sane lo (State.loadsTouch x0 x1 x2 x3 x4) := by
  unfold State.loadsTouch
  try dsimp only
  repeat' (first
    | (with_reducible assumption) | (simp only [sane_mk, sane_iff]) | (intro _) | (with_reducible apply foldl_wf) |
    (with_reducible apply foldl_wf2) | (with_reducible apply foldl_wf3) | (with_reducible apply State_loadTouch_wf) |
    (with_reducible apply ite_wf) | split)

@[simp] theorem State_pendGroup_wf {lo : Nat} (x0 : State) (x1 : Dest) (x2 : Nat) (x3 : List (Nat × GRes)) (x4 : List (Nat ×
    Nat)) (x5 : List VPage) (h0 : Sane lo x0) : Sane lo (State.pendGroup x0 x1 x2 x3 x4 x5) := by
  unfold State.pendGroup
  try dsimp only
  repeat' (first
    | (with_reducible assumption) | (simp only [sane_mk, sane_iff]) | (intro _) | (with_reducible apply foldl_wf) |
    (with_reducible apply foldl_wf2) | (with_reducible apply foldl_wf3) | (with_reducible apply State_makeTokens_wf) |
    (with_reducible apply State_addPend_wf) | (with_reducible apply ite_wf) | split)

@[simp] theorem State_l1Invalidate_wf {lo : Nat} (x0 : State) (x1 : Nat) (h0 : Sane lo x0) : Sane lo (State.l1Invalidate x0
    x1) := by
  unfold State.l1Invalidate
  exact h0

@[simp] theorem State_l2DropClean_wf {lo : Nat} (x0 : State) (x1 : Nat) (h0 : Sane lo x0) : Sane lo (State.l2DropClean x0 x1)
    := by
  unfold State.l2DropClean
  exact h0

@[simp] theorem State_acquireCaches_wf {lo : Nat} (x0 : State) (x1 : WaveId) (x2 : Nat) (h0 : Sane lo x0) : Sane lo
    (State.acquireCaches x0 x1 x2) := by
  unfold State.acquireCaches
  try dsimp only
  repeat' (first
    | (with_reducible assumption) | (simp only [sane_mk, sane_iff]) | (intro _) | (with_reducible apply foldl_wf) |
    (with_reducible apply foldl_wf2) | (with_reducible apply foldl_wf3) | (with_reducible apply State_l1Invalidate_wf) |
    (with_reducible apply State_l2DropClean_wf) | (with_reducible apply ite_wf) | split)

@[simp] theorem State_acquire_wf {lo : Nat} (x0 : State) (x1 : Nat) (x2 : Nat) (h0 : Sane lo x0) : Sane lo (State.acquire x0
    x1 x2) := by
  simp [State.acquire, *]

@[simp] theorem State_acquireAt_wf {lo : Nat} (x0 : State) (x1 : Nat) (h0 : Sane lo x0) : Sane lo (State.acquireAt x0 x1) :=
    by
  simp [State.acquireAt, *]

@[simp] theorem State_load_good {lo : Nat} (x0 : State) (x1 : Bool) (x2 : Opd) (x3 : Opd) (x4 : BitVec 4) (x5 : OrdCode) (x6
    : Bool) (x7 : Bool → Nat) (x8 : Form) (x9 : Bool) (x10 : LoadShape) (hi : x0.issuing = true) (h0 : Sane lo x0) : Good lo
    (State.load x0 x1 x2 x3 x4 x5 x6 x7 x8 x9 x10) := by
  unfold State.load
  dsimp only
  repeat' (first
    | (with_reducible assumption) | (simp only [sane_mk, sane_iff]) | (intro _) | (with_reducible apply foldl_wf)
    | (with_reducible apply foldl_wf2) | (with_reducible apply foldl_wf3) | (with_reducible apply State_guarded_good)
    | (with_reducible apply State_touchTlbs_wf) | (with_reducible apply State_settleAtomics_wf)
    | (with_reducible apply State_loadsTouch_wf) | (with_reducible apply State_orFlags_wf)
    | (with_reducible apply State_pendGroup_wf) | (with_reducible apply State_retire_wf)
    | (with_reducible apply State_acquireAt_wf) | (with_reducible apply ite_wf) | (with_reducible apply good_next) | split)

@[simp] theorem execLd_good {lo : Nat} (x0 : Bool) (x1 : Opd) (x2 : Opd) (x3 : BitVec 4) (x4 : OrdCode) (x5 : Bool) (x6 :
    Bool) (x7 : MemSize) (x8 : State) (hi : x8.issuing = true) (h8 : Sane lo x8) : Good lo (execLd x0 x1 x2 x3 x4 x5 x6 x7
    x8) := by
  simp [execLd, *]

@[simp] theorem execLdx_good {lo : Nat} (x0 : Bool) (x1 : Opd) (x2 : Opd) (x3 : BitVec 4) (x4 : OrdCode) (x5 : Bool) (x6 :
    State) (hi : x6.issuing = true) (h6 : Sane lo x6) : Good lo (execLdx x0 x1 x2 x3 x4 x5 x6) := by
  simp [execLdx, *]

@[simp] theorem State_prefFill_wf {lo : Nat} (x0 : State) (x1 : OrdCode) (x2 : Nat) (h0 : Sane lo x0) : Sane lo
    (State.prefFill x0 x1 x2) := by
  unfold State.prefFill
  split <;> simp [*]

@[simp] theorem execPref_good {lo : Nat} (x0 : Bool) (x1 : Opd) (x2 : BitVec 4) (x3 : OrdCode) (x4 : State) (hi : x4.issuing
    = true) (h4 : Sane lo x4) : Good lo (execPref x0 x1 x2 x3 x4) := by
  unfold execPref
  dsimp only
  repeat' (first
    | (with_reducible assumption) | (simp only [sane_mk, sane_iff]) | (intro _) | (with_reducible apply foldl_wf)
    | (with_reducible apply foldl_wf2) | (with_reducible apply foldl_wf3) | (with_reducible apply State_guarded_good)
    | (with_reducible apply State_touchTlbs_wf) | (with_reducible apply State_retire_wf)
    | (with_reducible apply State_prefFill_wf) | (with_reducible apply ite_wf) | (with_reducible apply good_next) | split)

@[simp] theorem State_releaseAt_wf {lo : Nat} (x0 : State) (x1 : Nat) (h0 : Sane lo x0) : Sane lo (State.releaseAt x0 x1) :=
    by
  unfold State.releaseAt
  split <;> simp [*]

@[simp] theorem State_released_good {lo : Nat} (s : State) (n : Nat) (body : State → Out) (h : Sane lo s)
    (hb : ∀ t, Sane lo t → Good lo (body t)) : Good lo (s.released n body) := by
  unfold State.released
  dsimp only
  split
  · exact good_next (by simp [h])
  · exact hb _ (State_releaseAt_wf _ _ h)

@[simp] theorem State_endQuantumBefore_wf {lo : Nat} (x0 : State) (h0 : Sane lo x0) : Sane lo (State.endQuantumBefore x0) :=
    by
  unfold State.endQuantumBefore
  exact h0

@[simp] theorem State_withRoom_good {lo : Nat} (s : State) (n : Nat) (body : State → Out) (h : Sane lo s)
    (hb : Good lo (body s)) : Good lo (s.withRoom n body) := by
  unfold State.withRoom
  split
  · exact hb
  · split <;> simp [*]

@[simp] theorem State_holdAll_wf {lo : Nat} (x0 : State) (x1 : Nat) (x2 : List Eff) (h0 : Sane lo x0) : Sane lo
    (State.holdAll x0 x1 x2) := by
  simp [State.holdAll, *]

@[simp] theorem State_store_good {lo : Nat} (x0 : State) (x1 : Bool) (x2 : Opd) (x3 : Opd) (x4 : BitVec 4) (x5 : OrdCode) (x6
    : Nat) (x7 : Nat) (x8 : Nat) (x9 : Bool) (x10 : Nat → FRes) (hi : x0.issuing = true) (h0 : Sane lo x0) : Good lo
    (State.store x0 x1 x2 x3 x4 x5 x6 x7 x8 x9 x10) := by
  unfold State.store
  try dsimp only
  repeat' (first
    | (with_reducible assumption) | (simp only [sane_mk, sane_iff]) | (intro _) | (with_reducible apply foldl_wf) |
    (with_reducible apply foldl_wf2) | (with_reducible apply foldl_wf3) | (with_reducible apply State_guarded_good) |
    (with_reducible apply State_released_good) | (with_reducible apply State_withRoom_good) | (with_reducible apply
    State_touchTlbs_wf) | (with_reducible apply State_orFlags_wf) | (with_reducible apply State_holdAll_wf) | (with_reducible
    apply State_retire_wf) | (with_reducible apply State_setWave_wf) | (with_reducible apply ite_wf) | (with_reducible apply
    good_next) | split)

@[simp] theorem execSt_good {lo : Nat} (x0 : Bool) (x1 : Opd) (x2 : Opd) (x3 : BitVec 4) (x4 : OrdCode) (x5 : MemSize) (x6 :
    State) (hi : x6.issuing = true) (h6 : Sane lo x6) : Good lo (execSt x0 x1 x2 x3 x4 x5 x6) := by
  simp [execSt, *]

@[simp] theorem execStx_good {lo : Nat} (x0 : Bool) (x1 : Opd) (x2 : Opd) (x3 : BitVec 4) (x4 : OrdCode) (x5 : State) (hi :
    x5.issuing = true) (h5 : Sane lo x5) : Good lo (execStx x0 x1 x2 x3 x4 x5) := by
  simp [execStx, *]

@[simp] theorem State_atomic_good {lo : Nat} (x0 : State) (x1 : Bool) (x2 : Bool) (x3 : Opd) (x4 : Opd) (x5 : BitVec 4) (x6 :
    OrdCode) (x7 : AtomOp) (hi : x0.issuing = true) (h0 : Sane lo x0) : Good lo (State.atomic x0 x1 x2 x3 x4 x5 x6 x7) := by
  unfold State.atomic
  try dsimp only
  repeat' (first
    | (with_reducible assumption) | (simp only [sane_mk, sane_iff]) | (intro _) | (with_reducible apply foldl_wf) |
    (with_reducible apply foldl_wf2) | (with_reducible apply foldl_wf3) | (with_reducible apply State_guarded_good) |
    (with_reducible apply State_released_good) | (with_reducible apply State_withRoom_good) | (with_reducible apply
    State_touchTlbs_wf) | (with_reducible apply State_holdAll_wf) | (with_reducible apply State_setWave_wf) | (with_reducible
    apply State_drainFifo_wf) | (with_reducible apply State_acquireAt_wf) | (with_reducible apply State_retire_wf) |
    (with_reducible apply State_endQuantum_wf) | (with_reducible apply ite_wf) | (with_reducible apply good_next) | split)

@[simp] theorem execAtom_good {lo : Nat} (x0 : Bool) (x1 : Opd) (x2 : Opd) (x3 : BitVec 4) (x4 : OrdCode) (x5 : AtomOp) (x6 :
    State) (hi : x6.issuing = true) (h6 : Sane lo x6) : Good lo (execAtom x0 x1 x2 x3 x4 x5 x6) := by
  simp [execAtom, *]

@[simp] theorem execAtomn_good {lo : Nat} (x0 : Bool) (x1 : Opd) (x2 : Opd) (x3 : BitVec 4) (x4 : OrdCode) (x5 : AtomOp) (x6
    : State) (hi : x6.issuing = true) (h6 : Sane lo x6) : Good lo (execAtomn x0 x1 x2 x3 x4 x5 x6) := by
  simp [execAtomn, *]

@[simp] theorem execLds_good {lo : Nat} (x0 : Bool) (x1 : Opd) (x2 : Opd) (x3 : OrdCode) (x4 : MemSize) (x5 : State) (hi :
    x5.issuing = true) (h5 : Sane lo x5) : Good lo (execLds x0 x1 x2 x3 x4 x5) := by
  unfold execLds
  dsimp only
  repeat' (first
    | (with_reducible assumption) | (simp only [sane_mk, sane_iff]) | (intro _) | (with_reducible apply foldl_wf)
    | (with_reducible apply foldl_wf2) | (with_reducible apply foldl_wf3) | (with_reducible apply State_guarded_good)
    | (with_reducible apply State_addPend_wf) | (with_reducible apply State_retire_wf)
    | (with_reducible apply State_acquireAt_wf) | (with_reducible apply ite_wf) | (with_reducible apply good_next) | split)

@[simp] theorem State_performSpm_wf {lo : Nat} (x0 : State) (x1 : Nat) (x2 : Eff) (h0 : Sane lo x0) : Sane lo
    (State.performSpm x0 x1 x2) := by
  unfold State.performSpm
  split <;> simp [*]

@[simp] theorem execSts_good {lo : Nat} (x0 : Bool) (x1 : Opd) (x2 : Opd) (x3 : OrdCode) (x4 : MemSize) (x5 : State) (hi :
    x5.issuing = true) (h5 : Sane lo x5) : Good lo (execSts x0 x1 x2 x3 x4 x5) := by
  unfold execSts
  dsimp only
  repeat' (first
    | (with_reducible assumption) | (simp only [sane_mk, sane_iff]) | (intro _) | (with_reducible apply foldl_wf)
    | (with_reducible apply foldl_wf2) | (with_reducible apply foldl_wf3) | (with_reducible apply State_guarded_good)
    | (with_reducible apply State_withRoom_good) | (with_reducible apply State_retire_wf)
    | (with_reducible apply State_hold_wf) | (with_reducible apply State_performSpm_wf)
    | (with_reducible apply State_releaseAt_wf) | (with_reducible apply ite_wf) | (with_reducible apply good_next) | split)

@[simp] theorem execAtoms_good {lo : Nat} (x0 : Bool) (x1 : Opd) (x2 : Opd) (x3 : OrdCode) (x4 : AtomOp) (x5 : State) (hi :
    x5.issuing = true) (h5 : Sane lo x5) : Good lo (execAtoms x0 x1 x2 x3 x4 x5) := by
  unfold execAtoms
  dsimp only
  repeat' (first
    | (with_reducible assumption) | (simp only [sane_mk, sane_iff]) | (intro _) | (with_reducible apply foldl_wf)
    | (with_reducible apply foldl_wf2) | (with_reducible apply foldl_wf3) | (with_reducible apply State_guarded_good)
    | (with_reducible apply State_withRoom_good) | (with_reducible apply State_endQuantum_wf)
    | (with_reducible apply State_retire_wf) | (with_reducible apply State_setWave_wf) | (with_reducible apply State_hold_wf)
    | (with_reducible apply State_performSpm_wf) | (with_reducible apply State_releaseAt_wf)
    | (with_reducible apply State_acquireAt_wf) | (with_reducible apply ite_wf) | (with_reducible apply good_next) | split)

@[simp] theorem State_readBlock_wf {lo : Nat} (x0 : State) (x1 : Nat) (x2 : LaneChk) (h0 : Sane lo x0) : Sane lo
    (State.readBlock x0 x1 x2).2 := by
  unfold State.readBlock
  try dsimp only
  repeat' (first
    | (with_reducible assumption) | (simp only [sane_mk, sane_iff]) | (intro _) | (with_reducible apply foldl_wf) |
    (with_reducible apply foldl_wf2) | (with_reducible apply foldl_wf3) | (with_reducible apply State_settleAtomics_wf) |
    (with_reducible apply State_lookupTouch_wf) | (with_reducible apply State_loadsTouch_wf) | (with_reducible apply ite_wf)
    | split)

@[simp] theorem execRld_good {lo : Nat} (x0 : Bool) (x1 : BitVec 4) (x2 : Opd) (x3 : State) (hi : x3.issuing = true) (h3 :
    Sane lo x3) : Good lo (execRld x0 x1 x2 x3) := by
  unfold execRld
  try dsimp only
  repeat' (first
    | (with_reducible assumption) | (simp only [sane_mk, sane_iff]) | (intro _) | (with_reducible apply foldl_wf) |
    (with_reducible apply foldl_wf2) | (with_reducible apply foldl_wf3) | (with_reducible apply State_guarded_good) |
    (with_reducible apply State_readBlock_wf) | (with_reducible apply State_retire_wf) | (with_reducible apply
    State_addPend_wf) | (with_reducible apply ite_wf) | (with_reducible apply good_next) | split)

@[simp] theorem execRset_good {lo : Nat} (x0 : Bool) (x1 : BitVec 4) (x2 : BitVec 2) (x3 : Opd) (x4 : State) (hi : x4.issuing
    = true) (h4 : Sane lo x4) : Good lo (execRset x0 x1 x2 x3 x4) := by
  unfold execRset
  repeat' (first
    | (with_reducible assumption) | (simp only [sane_mk, sane_iff]) | (intro _) | (with_reducible apply foldl_wf)
    | (with_reducible apply foldl_wf2) | (with_reducible apply foldl_wf3) | (with_reducible apply State_guarded_good)
    | (with_reducible apply State_retire_wf) | (with_reducible apply State_deliver_wf) | (with_reducible apply ite_wf)
    | (with_reducible apply good_next) | split)

@[simp] theorem execRget_good {lo : Nat} (x0 : Bool) (x1 : Opd) (x2 : BitVec 4) (x3 : BitVec 2) (x4 : State) (hi : x4.issuing
    = true) (h4 : Sane lo x4) : Good lo (execRget x0 x1 x2 x3 x4) := by
  unfold execRget
  repeat' (first
    | (with_reducible assumption) | (simp only [sane_mk, sane_iff]) | (intro _) | (with_reducible apply foldl_wf)
    | (with_reducible apply foldl_wf2) | (with_reducible apply foldl_wf3) | (with_reducible apply State_guarded_good)
    | (with_reducible apply State_retire_wf) | (with_reducible apply State_writeScal_wf) | (with_reducible apply ite_wf)
    | (with_reducible apply good_next) | split)

@[simp] theorem execRchk_good {lo : Nat} (x0 : Bool) (x1 : MemSize) (x2 : BitVec 3) (x3 : Opd) (x4 : BitVec 4) (x5 : State)
    (hi : x5.issuing = true) (h5 : Sane lo x5) : Good lo (execRchk x0 x1 x2 x3 x4 x5) := by
  unfold execRchk
  repeat' (first
    | (with_reducible assumption) | (simp only [sane_mk, sane_iff]) | (intro _) | (with_reducible apply foldl_wf)
    | (with_reducible apply foldl_wf2) | (with_reducible apply foldl_wf3) | (with_reducible apply State_guarded_good)
    | (with_reducible apply State_retire_wf) | (with_reducible apply State_putPred_wf) | (with_reducible apply ite_wf)
    | (with_reducible apply good_next) | split)

@[simp] theorem State_stallOn_wf {lo : Nat} (x0 : State) (x1 : List (BitVec 6)) (h0 : Sane lo x0) : Sane lo (State.stallOn x0
    x1) := by
  simp [State.stallOn, *]

@[simp] theorem State_setWg_wf {lo : Nat} (x0 : State) (x1 : Wg) (h0 : Sane lo x0) : Sane lo (State.setWg x0 x1) := by
  unfold State.setWg
  exact h0

@[simp] theorem execMma_good {lo : Nat} (x0 : Bool) (x1 : BitVec 6) (x2 : BitVec 6) (x3 : BitVec 6) (x4 : BitVec 3) (x5 :
    BitVec 3) (x6 : BitVec 5) (x7 : Bool) (x8 : Bool) (x9 : State) (hi : x9.issuing = true) (h9 : Sane lo x9) : Good lo
    (execMma x0 x1 x2 x3 x4 x5 x6 x7 x8 x9) := by
  unfold execMma
  try dsimp only
  repeat' (first
    | (with_reducible assumption) | (simp only [sane_mk, sane_iff]) | (intro _) | (with_reducible apply foldl_wf) |
    (with_reducible apply foldl_wf2) | (with_reducible apply foldl_wf3) | (with_reducible apply State_guarded_good) |
    (with_reducible apply State_stallOn_wf) | (with_reducible apply State_retireN_wf) | (with_reducible apply State_setWg_wf)
    | (with_reducible apply ite_wf) | (with_reducible apply good_next) | split)

@[simp] theorem State_mwaiting_good {lo : Nat} (x0 : State) (x1 : BitVec 6) (x2 : State → Out) (h0 : Sane lo x0) (h2 : ∀ s,
    Sane lo s → Good lo (x2 s)) : Good lo (State.mwaiting x0 x1 x2) := by
  unfold State.mwaiting
  repeat' (first
    | assumption | (simp only [sane_mk, sane_iff]) | (exact foldl_wf _ _ _ (by assumption) (by intros; simp [*]))
    | (simp [*]; done) | (simp [*] at *; done) | split)

@[simp] theorem execMwait_good {lo : Nat} (x0 : Bool) (x1 : BitVec 6) (x2 : State) (hi : x2.issuing = true) (h2 : Sane lo x2)
    : Good lo (execMwait x0 x1 x2) := by
  unfold execMwait
  repeat' (first
    | (with_reducible assumption) | (simp only [sane_mk, sane_iff]) | (intro _) | (with_reducible apply foldl_wf)
    | (with_reducible apply foldl_wf2) | (with_reducible apply foldl_wf3) | (with_reducible apply State_guarded_good)
    | (with_reducible apply State_mwaiting_good) | (with_reducible apply State_retire_wf) | (with_reducible apply ite_wf)
    | (with_reducible apply good_next) | split)

@[simp] theorem State_picked_wf {lo : Nat} (x0 : State) (x1 : List Tile) (h0 : Sane lo x0) : Sane lo (State.picked x0 x1) :=
    by
  simp [State.picked, *]

@[simp] theorem execMqry_good {lo : Nat} (x0 : Bool) (x1 : BitVec 6) (x2 : Opd) (x3 : BitVec 5) (x4 : State) (hi : x4.issuing
    = true) (h4 : Sane lo x4) : Good lo (execMqry x0 x1 x2 x3 x4) := by
  unfold execMqry
  try dsimp only
  repeat' (first
    | (with_reducible assumption) | (simp only [sane_mk, sane_iff]) | (intro _) | (with_reducible apply foldl_wf) |
    (with_reducible apply foldl_wf2) | (with_reducible apply foldl_wf3) | (with_reducible apply State_guarded_good) |
    (with_reducible apply State_retire_wf) | (with_reducible apply State_writeScal_wf) | (with_reducible apply
    State_picked_wf) | (with_reducible apply State_mwaiting_good) | (with_reducible apply ite_wf) | (with_reducible apply
    good_next) | split)

@[simp] theorem execMaps_good {lo : Nat} (x0 : Bool) (x1 : BitVec 3) (x2 : Opd) (x3 : State) (hi : x3.issuing = true) (h3 :
    Sane lo x3) : Good lo (execMaps x0 x1 x2 x3) := by
  unfold execMaps
  dsimp only
  repeat' (first
    | (with_reducible assumption) | (simp only [sane_mk, sane_iff]) | (intro _) | (with_reducible apply foldl_wf)
    | (with_reducible apply foldl_wf2) | (with_reducible apply foldl_wf3) | (with_reducible apply State_guarded_good)
    | (with_reducible apply State_retire_wf) | (with_reducible apply State_setWave_wf) | (with_reducible apply ite_wf)
    | (with_reducible apply good_next) | split)

@[simp] theorem execAclr_good {lo : Nat} (x0 : Bool) (x1 : BitVec 5) (x2 : State) (hi : x2.issuing = true) (h2 : Sane lo x2)
    : Good lo (execAclr x0 x1 x2) := by
  unfold execAclr
  try dsimp only
  repeat' (first
    | (with_reducible assumption) | (simp only [sane_mk, sane_iff]) | (intro _) | (with_reducible apply foldl_wf) |
    (with_reducible apply foldl_wf2) | (with_reducible apply foldl_wf3) | (with_reducible apply State_guarded_good) |
    (with_reducible apply State_stallOn_wf) | (with_reducible apply State_endQuantum_wf) | (with_reducible apply
    State_retire_wf) | (with_reducible apply State_hold_wf) | (with_reducible apply State_setWg_wf) | (with_reducible apply
    ite_wf) | (with_reducible apply good_next) | split)

@[simp] theorem execArd_good {lo : Nat} (x0 : Bool) (x1 : Opd) (x2 : BitVec 5) (x3 : Bool) (x4 : BitVec 5) (x5 : State) (hi :
    x5.issuing = true) (h5 : Sane lo x5) : Good lo (execArd x0 x1 x2 x3 x4 x5) := by
  unfold execArd
  try dsimp only
  repeat' (first
    | (with_reducible assumption) | (simp only [sane_mk, sane_iff]) | (intro _) | (with_reducible apply foldl_wf) |
    (with_reducible apply foldl_wf2) | (with_reducible apply foldl_wf3) | (with_reducible apply State_guarded_good) |
    (with_reducible apply State_retire_wf) | (with_reducible apply State_putResults_wf) | (with_reducible apply
    State_picked_wf) | (with_reducible apply ite_wf) | (with_reducible apply good_next) | split)

@[simp] theorem execAwr_good {lo : Nat} (x0 : Bool) (x1 : BitVec 5) (x2 : Opd) (x3 : BitVec 5) (x4 : State) (hi : x4.issuing
    = true) (h4 : Sane lo x4) : Good lo (execAwr x0 x1 x2 x3 x4) := by
  unfold execAwr
  try dsimp only
  repeat' (first
    | (with_reducible assumption) | (simp only [sane_mk, sane_iff]) | (intro _) | (with_reducible apply foldl_wf) |
    (with_reducible apply foldl_wf2) | (with_reducible apply foldl_wf3) | (with_reducible apply State_guarded_good) |
    (with_reducible apply State_stallOn_wf) | (with_reducible apply State_endQuantum_wf) | (with_reducible apply
    State_retire_wf) | (with_reducible apply State_hold_wf) | (with_reducible apply State_setWg_wf) | (with_reducible apply
    ite_wf) | (with_reducible apply good_next) | split)

@[simp] theorem execAst_good {lo : Nat} (x0 : Bool) (x1 : Bool) (x2 : BitVec 5) (x3 : Opd) (x4 : BitVec 4) (x5 : State) (hi :
    x5.issuing = true) (h5 : Sane lo x5) : Good lo (execAst x0 x1 x2 x3 x4 x5) := by
  unfold execAst
  try dsimp only
  repeat' (first
    | (with_reducible assumption) | (simp only [sane_mk, sane_iff]) | (intro _) | (with_reducible apply foldl_wf) |
    (with_reducible apply foldl_wf2) | (with_reducible apply foldl_wf3) | (with_reducible apply State_guarded_good) |
    (with_reducible apply State_withRoom_good) | (with_reducible apply State_touchTlbs_wf) | (with_reducible apply
    State_holdAll_wf) | (with_reducible apply State_retire_wf) | (with_reducible apply State_setWave_wf) | (with_reducible apply
    State_picked_wf) | (with_reducible apply ite_wf) | (with_reducible apply good_next) | split)

@[simp] theorem State_refetchIc_wf {lo : Nat} (x0 : State) (x1 : Nat) (x2 : Nat) (x3 : Nat) (h0 : Sane lo x0) : Sane lo
    (State.refetchIc x0 x1 x2 x3) := by
  simp [State.refetchIc, *]

@[simp] theorem State_tableEffect_wf {lo : Nat} (x0 : State) (x1 : Nat) (x2 : List Byte) (h0 : Sane lo x0) : Sane lo
    (State.tableEffect x0 x1 x2) := by
  unfold State.tableEffect
  repeat' (first
    | assumption | (simp only [sane_mk, sane_iff]) | (exact foldl_wf _ _ _ (by assumption) (by intros; simp [*]))
    | (simp [*]; done) | (simp [*] at *; done) | split | (intro _) | (refine foldl_wf _ _ _ ?_ ?_))

@[simp] theorem State_enqueue_wf {lo : Nat} (x0 : State) (x1 : Nat) (x2 : List Byte) (h0 : Sane lo x0) : Sane lo
    (State.enqueue x0 x1 x2) := by
  unfold State.enqueue
  exact h0

@[simp] theorem State_submit_wf {lo : Nat} (x0 : State) (x1 : Nat) (x2 : Option Nat) (x3 : EngCmd) (h0 : Sane lo x0) : Sane
    lo (State.submit x0 x1 x2 x3) := by
  unfold State.submit
  split <;> simp [*]

@[simp] theorem State_submitCmd_good {lo : Nat} (x0 : State) (x1 : Bool) (x2 : Nat) (x3 : EngCmd) (h0 : Sane lo x0) : Good lo
    (State.submitCmd x0 x1 x2 x3) := by
  unfold State.submitCmd
  try dsimp only
  repeat' (first
    | (with_reducible assumption) | (simp only [sane_mk, sane_iff]) | (intro _) | (with_reducible apply foldl_wf) |
    (with_reducible apply foldl_wf2) | (with_reducible apply foldl_wf3) | (with_reducible apply State_stall_wf) |
    (with_reducible apply State_released_good) | (with_reducible apply State_setWave_wf) | (with_reducible apply
    State_endQuantum_wf) | (with_reducible apply State_retire_wf) | (with_reducible apply State_hold_wf) | (with_reducible
    apply State_submit_wf) | (with_reducible apply ite_wf) | (with_reducible apply good_next) | split)

@[simp] theorem State_blockTouch_wf {lo : Nat} (x0 : State) (x1 : Nat) (x2 : LaneChk) (h0 : Sane lo x0) : Sane lo
    (State.blockTouch x0 x1 x2) := by
  unfold State.blockTouch
  dsimp only
  repeat' (first
    | (with_reducible assumption) | (simp only [sane_mk, sane_iff]) | (intro _) | (with_reducible apply foldl_wf)
    | (with_reducible apply foldl_wf2) | (with_reducible apply foldl_wf3) | (with_reducible apply State_settleAtomics_wf)
    | (with_reducible apply State_lookupTouch_wf) | (with_reducible apply State_loadsTouch_wf) | split)

@[simp] theorem execTcopy_good {lo : Nat} (x0 : Bool) (x1 : Opd) (x2 : State) (hi : x2.issuing = true) (h2 : Sane lo x2) :
    Good lo (execTcopy x0 x1 x2) := by
  unfold execTcopy
  dsimp only
  repeat' (first
    | (with_reducible assumption) | (simp only [sane_mk, sane_iff]) | (intro _) | (with_reducible apply foldl_wf)
    | (with_reducible apply foldl_wf2) | (with_reducible apply foldl_wf3) | (with_reducible apply State_guarded_good)
    | (with_reducible apply State_submitCmd_good) | (with_reducible apply State_blockTouch_wf) | split)

@[simp] theorem execEcmd_good {lo : Nat} (x0 : Bool) (x1 : Opd) (x2 : State) (hi : x2.issuing = true) (h2 : Sane lo x2) :
    Good lo (execEcmd x0 x1 x2) := by
  unfold execEcmd
  dsimp only
  repeat' (first
    | (with_reducible assumption) | (simp only [sane_mk, sane_iff]) | (intro _) | (with_reducible apply foldl_wf)
    | (with_reducible apply foldl_wf2) | (with_reducible apply foldl_wf3) | (with_reducible apply State_guarded_good)
    | (with_reducible apply State_submitCmd_good) | (with_reducible apply State_blockTouch_wf) | split)

@[simp] theorem State_requestWait_wf {lo : Nat} (x0 : State) (x1 : Wait) (h0 : Sane lo x0) : Sane lo (State.requestWait x0
    x1) := by
  unfold State.requestWait
  exact h0

@[simp] theorem State_waitDone_wf {lo : Nat} (x0 : State) (x1 : Bool) (x2 : WaitKind) (x3 : Dest) (x4 : Nat) (h0 : Sane lo
    x0) : Sane lo (State.waitDone x0 x1 x2 x3 x4) := by
  unfold State.waitDone
  repeat' (first
    | (with_reducible assumption) | (simp only [sane_mk, sane_iff]) | (intro _) | (with_reducible apply foldl_wf)
    | (with_reducible apply foldl_wf2) | (with_reducible apply foldl_wf3) | (with_reducible apply State_retire_wf)
    | (with_reducible apply State_writeScal_wf) | (with_reducible apply State_acquire_wf) | split)

@[simp] theorem State_reportDeadlock_wf {lo : Nat} (x0 : State) (x1 : Nat) (x2 : List (Nat × ObjRef)) (x3 : Bool) (x4 : Bool)
    (h0 : Sane lo x0) : Sane lo (State.reportDeadlock x0 x1 x2 x3 x4).2 := by
  unfold State.reportDeadlock
  try dsimp only
  repeat' (first
    | (with_reducible assumption) | (simp only [sane_mk, sane_iff]) | (intro _) | (with_reducible apply foldl_wf) |
    (with_reducible apply foldl_wf2) | (with_reducible apply foldl_wf3) | (with_reducible apply State_nextRecord_wf) |
    (with_reducible apply State_hubWrite_wf) | (with_reducible apply State_modCtxAt_wf) | (with_reducible apply ite_wf) |
    split)

@[simp] theorem State_makeEntry_wf {lo : Nat} (x0 : State) (x1 : Nat) (x2 : ObjRef) (x3 : Nat) (x4 : Nat) (h0 : Sane lo x0) :
    Sane lo (State.makeEntry x0 x1 x2 x3 x4) := by
  unfold State.makeEntry
  exact h0

@[simp] theorem State_beginWait_wf {lo : Nat} (x0 : State) (x1 : Wait) (x2 : State → State) (h0 : Sane lo x0) (h2 : ∀ s, Sane
    lo s → Sane lo (x2 s)) : Sane lo (State.beginWait x0 x1 x2) := by
  unfold State.beginWait
  dsimp only
  repeat' (first
    | (with_reducible assumption) | (simp only [sane_mk, sane_iff]) | (intro _) | (with_reducible apply foldl_wf)
    | (with_reducible apply foldl_wf2) | (with_reducible apply foldl_wf3) | (with_reducible apply State_modWaveAt_wf)
    | (with_reducible apply State_modCtxAt_wf) | (with_reducible apply State_reportDeadlock_wf)
    | (with_reducible apply State_takeTrap_wf) | (with_reducible apply State_makeEntry_wf) | (with_reducible apply ite_wf)
    | (with_reducible apply good_next) | split | (simp [*]; done))

@[simp] theorem execSemwait_good {lo : Nat} (x0 : Bool) (x1 : Opd) (x2 : Opd) (x3 : Opd) (x4 : State) (hi : x4.issuing =
    true) (h4 : Sane lo x4) : Good lo (execSemwait x0 x1 x2 x3 x4) := by
  unfold execSemwait
  dsimp only
  repeat' (first
    | (with_reducible assumption) | (simp only [sane_mk, sane_iff]) | (intro _) | (with_reducible apply foldl_wf)
    | (with_reducible apply foldl_wf2) | (with_reducible apply foldl_wf3) | (with_reducible apply State_guarded_good)
    | (with_reducible apply State_requestWait_wf) | (with_reducible apply State_waitDone_wf)
    | (with_reducible apply State_beginWait_wf) | (with_reducible apply ite_wf) | (with_reducible apply good_next) | split
    | (simp [*]; done))

@[simp] theorem execSemsig_good {lo : Nat} (x0 : Bool) (x1 : Opd) (x2 : Opd) (x3 : State) (hi : x3.issuing = true) (h3 : Sane
    lo x3) : Good lo (execSemsig x0 x1 x2 x3) := by
  unfold execSemsig
  dsimp only
  repeat' (first
    | (with_reducible assumption) | (simp only [sane_mk, sane_iff]) | (intro _) | (with_reducible apply foldl_wf)
    | (with_reducible apply foldl_wf2) | (with_reducible apply foldl_wf3) | (with_reducible apply State_guarded_good)
    | (with_reducible apply State_setWave_wf) | (with_reducible apply State_retire_wf) | (with_reducible apply State_hold_wf)
    | (with_reducible apply State_semAdd_wf) | (with_reducible apply State_release_wf) | (with_reducible apply ite_wf)
    | (with_reducible apply good_next) | split)

@[simp] theorem execSemrd_good {lo : Nat} (x0 : Bool) (x1 : Opd) (x2 : Opd) (x3 : State) (hi : x3.issuing = true) (h3 : Sane
    lo x3) : Good lo (execSemrd x0 x1 x2 x3) := by
  unfold execSemrd
  dsimp only
  repeat' (first
    | (with_reducible assumption) | (simp only [sane_mk, sane_iff]) | (intro _) | (with_reducible apply foldl_wf)
    | (with_reducible apply foldl_wf2) | (with_reducible apply foldl_wf3) | (with_reducible apply State_guarded_good)
    | (with_reducible apply State_retire_wf) | (with_reducible apply State_addPend_wf) | (with_reducible apply ite_wf)
    | (with_reducible apply good_next) | split)

@[simp] theorem execLaunch_good {lo : Nat} (x0 : Bool) (x1 : Opd) (x2 : State) (hi : x2.issuing = true) (h2 : Sane lo x2) :
    Good lo (execLaunch x0 x1 x2) := by
  unfold execLaunch
  dsimp only
  repeat' (first
    | (with_reducible assumption) | (simp only [sane_mk, sane_iff]) | (intro _) | (with_reducible apply foldl_wf)
    | (with_reducible apply foldl_wf2) | (with_reducible apply foldl_wf3) | (with_reducible apply State_guarded_good)
    | (with_reducible apply State_submitCmd_good) | (with_reducible apply State_blockTouch_wf) | split)

@[simp] theorem execFence_good {lo : Nat} (x0 : Bool) (x1 : FenceKind) (x2 : BitVec 3) (x3 : State) (hi : x3.issuing = true)
    (h3 : Sane lo x3) : Good lo (execFence x0 x1 x2 x3) := by
  unfold execFence
  try dsimp only
  repeat' (first
    | (with_reducible assumption) | (simp only [sane_mk, sane_iff]) | (intro _) | (with_reducible apply foldl_wf) |
    (with_reducible apply foldl_wf2) | (with_reducible apply foldl_wf3) | (with_reducible apply State_guarded_good) |
    (with_reducible apply State_settled_good) | (with_reducible apply State_released_good) | (with_reducible apply
    State_retire_wf) | (with_reducible apply State_acquireAt_wf) | (with_reducible apply ite_wf) | (with_reducible apply
    good_next) | split)

@[simp] theorem State_setArrival_wf {lo : Nat} (x0 : State) (x1 : Nat) (x2 : Bool) (x3 : Nat) (x4 : Bool) (h0 : Sane lo x0) :
    Sane lo (State.setArrival x0 x1 x2 x3 x4) := by
  unfold State.setArrival
  exact h0

@[simp] theorem State_arrive_wf {lo : Nat} (x0 : State) (x1 : Nat) (x2 : Bool) (x3 : Nat) (h0 : Sane lo x0) : Sane lo
    (State.arrive x0 x1 x2 x3) := by
  unfold State.arrive
  dsimp only
  repeat' (first
    | (with_reducible assumption) | (simp only [sane_mk, sane_iff]) | (intro _) | (with_reducible apply foldl_wf)
    | (with_reducible apply foldl_wf2) | (with_reducible apply foldl_wf3) | (with_reducible apply State_setArrival_wf)
    | (with_reducible apply State_completeCbars_wf) | (with_reducible apply State_completeBars_wf)
    | (with_reducible apply ite_wf) | split)

@[simp] theorem State_barrier_good {lo : Nat} (x0 : State) (x1 : Bool) (x2 : WaitKind) (x3 : Dest) (x4 : Nat) (h0 : Sane lo
    x0) : Good lo (State.barrier x0 x1 x2 x3 x4) := by
  unfold State.barrier
  try dsimp only
  repeat' (first
    | (with_reducible assumption) | (simp only [sane_mk, sane_iff]) | (intro _) | (with_reducible apply foldl_wf) |
    (with_reducible apply foldl_wf2) | (with_reducible apply foldl_wf3) | (with_reducible apply State_shedIfCut_wf) |
    (with_reducible apply State_requestWait_wf) | (with_reducible apply State_hold_wf) | (with_reducible apply
    State_setWave_wf) | (with_reducible apply State_release_wf) | (with_reducible apply State_stall_wf) | (with_reducible
    apply State_arrive_wf) | (with_reducible apply State_beginWait_wf) | (with_reducible apply State_setArrival_wf) |
    (with_reducible apply State_waitDone_wf) | (with_reducible apply ite_wf) | (with_reducible apply good_next) | split)

@[simp] theorem execBar_good {lo : Nat} (x0 : Bool) (x1 : Opd) (x2 : BitVec 4) (x3 : State) (hi : x3.issuing = true) (h3 :
    Sane lo x3) : Good lo (execBar x0 x1 x2 x3) := by
  simp [execBar, *]

@[simp] theorem execBarc_good {lo : Nat} (x0 : Bool) (x1 : Opd) (x2 : BitVec 4) (x3 : State) (hi : x3.issuing = true) (h3 :
    Sane lo x3) : Good lo (execBarc x0 x1 x2 x3) := by
  simp [execBarc, *]

@[simp] theorem execDrain_good {lo : Nat} (x0 : Bool) (x1 : Opd) (x2 : BitVec 4) (x3 : State) (hi : x3.issuing = true) (h3 :
    Sane lo x3) : Good lo (execDrain x0 x1 x2 x3) := by
  simp [execDrain, *]

@[simp] theorem State_revoke_wf {lo : Nat} (x0 : State) (x1 : Nat) (x2 : CohObj) (h0 : Sane lo x0) : Sane lo (State.revoke x0
    x1 x2) := by
  simp [State.revoke, *]

@[simp] theorem State_objRoom_wf {lo : Nat} (x0 : State) (x1 : Nat) (h0 : Sane lo x0) : Sane lo (State.objRoom x0 x1) := by
  unfold State.objRoom
  repeat' (first
    | assumption | (simp only [sane_mk, sane_iff]) | (exact foldl_wf _ _ _ (by assumption) (by intros; simp [*]))
    | (simp [*] at *; done) | split)

@[simp] theorem State_putObj_wf {lo : Nat} (x0 : State) (x1 : CohObj) (h0 : Sane lo x0) : Sane lo (State.putObj x0 x1) := by
  unfold State.putObj
  exact h0

@[simp] theorem State_declareObj_wf {lo : Nat} (x0 : State) (x1 : List Piece) (x2 : Nat) (x3 : Nat) (x4 : List Byte) (h0 :
    Sane lo x0) : Sane lo (State.declareObj x0 x1 x2 x3 x4).2 := by
  unfold State.declareObj
  dsimp only
  repeat' (first
    | (with_reducible assumption) | (simp only [sane_mk, sane_iff]) | (intro _) | (with_reducible apply foldl_wf)
    | (with_reducible apply foldl_wf2) | (with_reducible apply foldl_wf3) | (with_reducible apply State_objRoom_wf)
    | (with_reducible apply State_revoke_wf) | (with_reducible apply State_putObj_wf) | (with_reducible apply ite_wf)
    | (with_reducible apply good_next) | split)

@[simp] theorem execOdecl_good {lo : Nat} (x0 : Bool) (x1 : Opd) (x2 : Opd) (x3 : State) (hi : x3.issuing = true) (h3 : Sane
    lo x3) : Good lo (execOdecl x0 x1 x2 x3) := by
  unfold execOdecl
  dsimp only
  repeat' (first
    | (with_reducible assumption) | (simp only [sane_mk, sane_iff]) | (intro _) | (with_reducible apply foldl_wf)
    | (with_reducible apply foldl_wf2) | (with_reducible apply foldl_wf3) | (with_reducible apply State_guarded_good)
    | (with_reducible apply State_blockTouch_wf) | (with_reducible apply State_endQuantum_wf)
    | (with_reducible apply State_retire_wf) | (with_reducible apply State_hold_wf)
    | (with_reducible apply State_declareObj_wf) | (with_reducible apply State_writeScal_wf) | (with_reducible apply ite_wf)
    | (with_reducible apply good_next) | split)

@[simp] theorem State_releaseObj_wf {lo : Nat} (x0 : State) (x1 : Nat) (x2 : Nat) (h0 : Sane lo x0) : Sane lo
    (State.releaseObj x0 x1 x2).2 := by
  unfold State.releaseObj
  split <;> simp [*]

@[simp] theorem execOrel_good {lo : Nat} (x0 : Bool) (x1 : Opd) (x2 : Opd) (x3 : State) (hi : x3.issuing = true) (h3 : Sane
    lo x3) : Good lo (execOrel x0 x1 x2 x3) := by
  unfold execOrel
  dsimp only
  repeat' (first
    | (with_reducible assumption) | (simp only [sane_mk, sane_iff]) | (intro _) | (with_reducible apply foldl_wf)
    | (with_reducible apply foldl_wf2) | (with_reducible apply foldl_wf3) | (with_reducible apply State_guarded_good)
    | (with_reducible apply State_endQuantum_wf) | (with_reducible apply State_retire_wf)
    | (with_reducible apply State_hold_wf) | (with_reducible apply State_releaseObj_wf)
    | (with_reducible apply State_writeScal_wf) | (with_reducible apply ite_wf) | (with_reducible apply good_next) | split)

@[simp] theorem State_bringHome_wf {lo : Nat} (x0 : State) (x1 : Nat) (x2 : Nat) (h0 : Sane lo x0) : Sane lo (State.bringHome
    x0 x1 x2) := by
  unfold State.bringHome
  dsimp only
  repeat' (first
    | (with_reducible assumption) | (simp only [sane_mk, sane_iff]) | (intro _) | (with_reducible apply foldl_wf)
    | (with_reducible apply foldl_wf2) | (with_reducible apply foldl_wf3) | (with_reducible apply State_lookupTouch_wf)
    | (with_reducible apply State_drainFifo_wf) | (with_reducible apply State_flushToHome_wf) | (with_reducible apply ite_wf)
    | split)

@[simp] theorem State_homeWrite64_wf {lo : Nat} (x0 : State) (x1 : Nat) (x2 : Nat) (h0 : Sane lo x0) : Sane lo
    (State.homeWrite64 x0 x1 x2) := by
  simp [State.homeWrite64, *]

@[simp] theorem State_lockTake_wf {lo : Nat} (x0 : State) (x1 : Nat) (x2 : Nat) (h0 : Sane lo x0) : Sane lo (State.lockTake
    x0 x1 x2).2 := by
  unfold State.lockTake
  try dsimp only
  repeat' (first
    | (with_reducible assumption) | (simp only [sane_mk, sane_iff]) | (intro _) | (with_reducible apply foldl_wf) |
    (with_reducible apply foldl_wf2) | (with_reducible apply foldl_wf3) | (with_reducible apply State_homeTouch_wf) |
    (with_reducible apply State_homeWrite64_wf) | (with_reducible apply ite_wf) | split)

@[simp] theorem execLock_good {lo : Nat} (x0 : Bool) (x1 : Opd) (x2 : Opd) (x3 : State) (hi : x3.issuing = true) (h3 : Sane
    lo x3) : Good lo (execLock x0 x1 x2 x3) := by
  unfold execLock
  dsimp only
  repeat' (first
    | (with_reducible assumption) | (simp only [sane_mk, sane_iff]) | (intro _) | (with_reducible apply foldl_wf)
    | (with_reducible apply foldl_wf2) | (with_reducible apply foldl_wf3) | (with_reducible apply State_guarded_good)
    | (with_reducible apply State_bringHome_wf) | (with_reducible apply State_setWave_wf)
    | (with_reducible apply State_requestWait_wf) | (with_reducible apply State_lockTake_wf)
    | (with_reducible apply State_waitDone_wf) | (with_reducible apply State_beginWait_wf) | (with_reducible apply ite_wf)
    | (with_reducible apply good_next) | split | (simp [*]; done))

@[simp] theorem execTrylk_good {lo : Nat} (x0 : Bool) (x1 : Opd) (x2 : Opd) (x3 : State) (hi : x3.issuing = true) (h3 : Sane
    lo x3) : Good lo (execTrylk x0 x1 x2 x3) := by
  unfold execTrylk
  dsimp only
  repeat' (first
    | (with_reducible assumption) | (simp only [sane_mk, sane_iff]) | (intro _) | (with_reducible apply foldl_wf)
    | (with_reducible apply foldl_wf2) | (with_reducible apply foldl_wf3) | (with_reducible apply State_guarded_good)
    | (with_reducible apply State_bringHome_wf) | (with_reducible apply State_setWave_wf)
    | (with_reducible apply State_endQuantum_wf) | (with_reducible apply State_retire_wf)
    | (with_reducible apply State_hold_wf) | (with_reducible apply State_lockTake_wf)
    | (with_reducible apply State_acquire_wf) | (with_reducible apply State_addPend_wf) | (with_reducible apply ite_wf)
    | (with_reducible apply good_next) | split)

@[simp] theorem State_lockRelease_wf {lo : Nat} (x0 : State) (x1 : Nat) (x2 : Nat) (h0 : Sane lo x0) : Sane lo
    (State.lockRelease x0 x1 x2).2 := by
  unfold State.lockRelease
  try dsimp only
  repeat' (first
    | (with_reducible assumption) | (simp only [sane_mk, sane_iff]) | (intro _) | (with_reducible apply foldl_wf) |
    (with_reducible apply foldl_wf2) | (with_reducible apply foldl_wf3) | (with_reducible apply State_homeTouch_wf) |
    (with_reducible apply State_homeWrite64_wf) | (with_reducible apply State_setMet_wf) | (with_reducible apply ite_wf) |
    split)

@[simp] theorem execUnlock_good {lo : Nat} (x0 : Bool) (x1 : Opd) (x2 : Opd) (x3 : State) (hi : x3.issuing = true) (h3 : Sane
    lo x3) : Good lo (execUnlock x0 x1 x2 x3) := by
  unfold execUnlock
  try dsimp only
  repeat' (first
    | (with_reducible assumption) | (simp only [sane_mk, sane_iff]) | (intro _) | (with_reducible apply foldl_wf) |
    (with_reducible apply foldl_wf2) | (with_reducible apply foldl_wf3) | (with_reducible apply State_guarded_good) |
    (with_reducible apply State_homeTouch_wf) | (with_reducible apply State_bringHome_wf) | (with_reducible apply
    State_setWave_wf) | (with_reducible apply State_hold_wf) | (with_reducible apply State_lockRelease_wf) | (with_reducible
    apply State_release_wf) | (with_reducible apply State_retire_wf) | (with_reducible apply State_writeScal_wf) |
    (with_reducible apply ite_wf) | (with_reducible apply good_next) | split)

@[simp] theorem execWreg_good {lo : Nat} (x0 : Bool) (x1 : Opd) (x2 : Opd) (x3 : State) (hi : x3.issuing = true) (h3 : Sane
    lo x3) : Good lo (execWreg x0 x1 x2 x3) := by
  unfold execWreg
  dsimp only
  repeat' (first
    | (with_reducible assumption) | (simp only [sane_mk, sane_iff]) | (intro _) | (with_reducible apply foldl_wf)
    | (with_reducible apply foldl_wf2) | (with_reducible apply foldl_wf3) | (with_reducible apply State_guarded_good)
    | (with_reducible apply State_lookupTouch_wf) | (with_reducible apply State_retire_wf)
    | (with_reducible apply State_setWave_wf) | (with_reducible apply ite_wf) | (with_reducible apply good_next) | split)

@[simp] theorem execWaitv_good {lo : Nat} (x0 : Bool) (x1 : Opd) (x2 : Opd) (x3 : State) (hi : x3.issuing = true) (h3 : Sane
    lo x3) : Good lo (execWaitv x0 x1 x2 x3) := by
  unfold execWaitv
  dsimp only
  repeat' (first
    | (with_reducible assumption) | (simp only [sane_mk, sane_iff]) | (intro _) | (with_reducible apply foldl_wf)
    | (with_reducible apply foldl_wf2) | (with_reducible apply foldl_wf3) | (with_reducible apply State_guarded_good)
    | (with_reducible apply State_requestWait_wf) | (with_reducible apply State_waitDone_wf)
    | (with_reducible apply State_beginWait_wf) | (with_reducible apply ite_wf) | (with_reducible apply good_next) | split
    | (simp [*]; done))

@[simp] theorem execWdone_good {lo : Nat} (x0 : Bool) (x1 : State) (hi : x1.issuing = true) (h1 : Sane lo x1) : Good lo
    (execWdone x0 x1) := by
  unfold execWdone
  dsimp only
  repeat' (first
    | (with_reducible assumption) | (simp only [sane_mk, sane_iff]) | (intro _) | (with_reducible apply foldl_wf)
    | (with_reducible apply foldl_wf2) | (with_reducible apply foldl_wf3) | (with_reducible apply State_guarded_good)
    | (with_reducible apply State_retire_wf) | (with_reducible apply State_setWave_wf) | (with_reducible apply ite_wf)
    | (with_reducible apply good_next) | split)

@[simp] theorem execWqry_good {lo : Nat} (x0 : Bool) (x1 : Opd) (x2 : State) (hi : x2.issuing = true) (h2 : Sane lo x2) :
    Good lo (execWqry x0 x1 x2) := by
  unfold execWqry
  repeat' (first
    | (with_reducible assumption) | (simp only [sane_mk, sane_iff]) | (intro _) | (with_reducible apply foldl_wf)
    | (with_reducible apply foldl_wf2) | (with_reducible apply foldl_wf3) | (with_reducible apply State_guarded_good)
    | (with_reducible apply State_retire_wf) | (with_reducible apply State_addPend_wf) | (with_reducible apply ite_wf)
    | (with_reducible apply good_next) | split)

@[simp] theorem execPcls_good {lo : Nat} (x0 : Bool) (x1 : Opd) (x2 : State) (hi : x2.issuing = true) (h2 : Sane lo x2) :
    Good lo (execPcls x0 x1 x2) := by
  unfold execPcls
  dsimp only
  repeat' (first
    | (with_reducible assumption) | (simp only [sane_mk, sane_iff]) | (intro _) | (with_reducible apply foldl_wf)
    | (with_reducible apply foldl_wf2) | (with_reducible apply foldl_wf3) | (with_reducible apply State_guarded_good)
    | (with_reducible apply State_hold_wf) | (with_reducible apply State_retire_wf) | (with_reducible apply ite_wf)
    | (with_reducible apply good_next) | split)

@[simp] theorem execEbud_good {lo : Nat} (x0 : Bool) (x1 : Opd) (x2 : Opd) (x3 : Opd) (x4 : State) (hi : x4.issuing = true)
    (h4 : Sane lo x4) : Good lo (execEbud x0 x1 x2 x3 x4) := by
  unfold execEbud
  dsimp only
  repeat' (first
    | (with_reducible assumption) | (simp only [sane_mk, sane_iff]) | (intro _) | (with_reducible apply foldl_wf)
    | (with_reducible apply foldl_wf2) | (with_reducible apply foldl_wf3) | (with_reducible apply State_guarded_good)
    | (with_reducible apply State_setCtxAt_wf) | (with_reducible apply State_retire_wf)
    | (with_reducible apply State_addPend_wf) | (with_reducible apply ite_wf) | (with_reducible apply good_next) | split)

@[simp] theorem execWld_good {lo : Nat} (x0 : Bool) (x1 : Opd) (x2 : Opd) (x3 : BitVec 4) (x4 : BitVec 3) (x5 : State) (hi :
    x5.issuing = true) (h5 : Sane lo x5) : Good lo (execWld x0 x1 x2 x3 x4 x5) := by
  unfold execWld
  dsimp only
  repeat' (first
    | (with_reducible assumption) | (simp only [sane_mk, sane_iff]) | (intro _) | (with_reducible apply foldl_wf)
    | (with_reducible apply foldl_wf2) | (with_reducible apply foldl_wf3) | (with_reducible apply State_guarded_good)
    | (with_reducible apply State_stall_wf) | (with_reducible apply State_retire_wf)
    | (with_reducible apply State_putResults_wf) | (with_reducible apply ite_wf) | (with_reducible apply good_next) | split)

@[simp] theorem State_cbLoad_wf {lo : Nat} (x0 : State) (x1 : Word64) (x2 : Bool) (x3 : BufRec) (x4 : Nat) (x5 : LaneChk) (h0
    : Sane lo x0) : Sane lo (State.cbLoad x0 x1 x2 x3 x4 x5) := by
  unfold State.cbLoad
  dsimp only
  repeat' (first
    | (with_reducible assumption) | (simp only [sane_mk, sane_iff]) | (intro _) | (with_reducible apply foldl_wf)
    | (with_reducible apply foldl_wf2) | (with_reducible apply foldl_wf3) | (with_reducible apply State_touchTlbs_wf)
    | (with_reducible apply State_settleAtomics_wf) | (with_reducible apply State_makeTokens_wf)
    | (with_reducible apply State_loadsTouch_wf) | (with_reducible apply State_setWave_wf) | (with_reducible apply ite_wf)
    | split)

@[simp] theorem execCbset_good {lo : Nat} (x0 : Bool) (x1 : Opd) (x2 : Opd) (x3 : BitVec 4) (x4 : BitVec 3) (x5 : State) (hi
    : x5.issuing = true) (h5 : Sane lo x5) : Good lo (execCbset x0 x1 x2 x3 x4 x5) := by
  unfold execCbset
  dsimp only
  repeat' (first
    | (with_reducible assumption) | (simp only [sane_mk, sane_iff]) | (intro _) | (with_reducible apply foldl_wf)
    | (with_reducible apply foldl_wf2) | (with_reducible apply foldl_wf3) | (with_reducible apply State_guarded_good)
    | (with_reducible apply State_setWave_wf) | (with_reducible apply State_cbLoad_wf)
    | (with_reducible apply State_retire_wf) | (with_reducible apply ite_wf) | (with_reducible apply good_next) | split)

@[simp] theorem execWschk_good {lo : Nat} (x0 : Bool) (x1 : BitVec 3) (x2 : Opd) (x3 : BitVec 4) (x4 : BitVec 3) (x5 : State)
    (hi : x5.issuing = true) (h5 : Sane lo x5) : Good lo (execWschk x0 x1 x2 x3 x4 x5) := by
  unfold execWschk
  dsimp only
  repeat' (first
    | (with_reducible assumption) | (simp only [sane_mk, sane_iff]) | (intro _) | (with_reducible apply foldl_wf)
    | (with_reducible apply foldl_wf2) | (with_reducible apply foldl_wf3) | (with_reducible apply State_guarded_good)
    | (with_reducible apply State_retire_wf) | (with_reducible apply State_putPred_wf) | (with_reducible apply ite_wf)
    | (with_reducible apply good_next) | split)

@[simp] theorem execRnd_good {lo : Nat} (x0 : Bool) (x1 : Opd) (x2 : Opd) (x3 : State) (hi : x3.issuing = true) (h3 : Sane lo
    x3) : Good lo (execRnd x0 x1 x2 x3) := by
  unfold execRnd
  try dsimp only
  repeat' (first
    | (with_reducible assumption) | (simp only [sane_mk, sane_iff]) | (intro _) | (with_reducible apply foldl_wf) |
    (with_reducible apply foldl_wf2) | (with_reducible apply foldl_wf3) | (with_reducible apply State_guarded_good) |
    (with_reducible apply State_retire_wf) | (with_reducible apply State_putResults_wf) | (with_reducible apply ite_wf) |
    (with_reducible apply good_next) | split)

@[simp] theorem execChkp_good {lo : Nat} (x0 : Bool) (x1 : Opd) (x2 : State) (hi : x2.issuing = true) (h2 : Sane lo x2) :
    Good lo (execChkp x0 x1 x2) := by
  simp [execChkp, *]

@[simp] theorem execIspoi_good {lo : Nat} (x0 : Bool) (x1 : BitVec 3) (x2 : Opd) (x3 : State) (hi : x3.issuing = true) (h3 :
    Sane lo x3) : Good lo (execIspoi x0 x1 x2 x3) := by
  unfold execIspoi
  dsimp only
  repeat' (first
    | (with_reducible assumption) | (simp only [sane_mk, sane_iff]) | (intro _) | (with_reducible apply foldl_wf)
    | (with_reducible apply foldl_wf2) | (with_reducible apply foldl_wf3) | (with_reducible apply State_guarded_good)
    | (with_reducible apply State_retire_wf) | (with_reducible apply State_putPred_wf) | (with_reducible apply ite_wf)
    | (with_reducible apply good_next) | split)

@[simp] theorem execMkpoi_good {lo : Nat} (x0 : Bool) (x1 : Opd) (x2 : Opd) (x3 : State) (hi : x3.issuing = true) (h3 : Sane
    lo x3) : Good lo (execMkpoi x0 x1 x2 x3) := by
  simp [execMkpoi, *]

@[simp] theorem execTimew_good {lo : Nat} (x0 : Bool) (x1 : Opd) (x2 : Opd) (x3 : State) (hi : x3.issuing = true) (h3 : Sane
    lo x3) : Good lo (execTimew x0 x1 x2 x3) := by
  unfold execTimew
  dsimp only
  repeat' (first
    | (with_reducible assumption) | (simp only [sane_mk, sane_iff]) | (intro _) | (with_reducible apply foldl_wf)
    | (with_reducible apply foldl_wf2) | (with_reducible apply foldl_wf3) | (with_reducible apply State_guarded_good)
    | (with_reducible apply State_retire_wf) | (with_reducible apply State_writeScal_wf)
    | (with_reducible apply State_setWave_wf) | (with_reducible apply ite_wf) | (with_reducible apply good_next) | split)

@[simp] theorem State_pushPath_wf {lo : Nat} (x0 : State) (x1 : Nat) (x2 : PcSlot) (h0 : Sane lo x0) : Sane lo
    (State.pushPath x0 x1 x2) := by
  simp [State.pushPath, *]

@[simp] theorem State_split_wf {lo : Nat} (x0 : State) (x1 : PcSlot) (x2 : Word64) (x3 : Lanes) (x4 : Lanes) (h0 : Sane lo
    x0) : Sane lo (State.split x0 x1 x2 x3 x4) := by
  unfold State.split
  dsimp only
  repeat' (first
    | (with_reducible assumption) | (simp only [sane_mk, sane_iff]) | (intro _) | (with_reducible apply foldl_wf)
    | (with_reducible apply foldl_wf2) | (with_reducible apply foldl_wf3) | (with_reducible apply State_setWave_wf)
    | (with_reducible apply State_pushPath_wf) | (with_reducible apply ite_wf) | (with_reducible apply good_next) | split)

@[simp] theorem execBr_good {lo : Nat} (x0 : Bool) (x1 : Bool) (x2 : BitVec 3) (x3 : BitVec 21) (x4 : State) (hi : x4.issuing
    = true) (h4 : Sane lo x4) : Good lo (execBr x0 x1 x2 x3 x4) := by
  unfold execBr
  dsimp only
  repeat' (first
    | (with_reducible assumption) | (simp only [sane_mk, sane_iff]) | (intro _) | (with_reducible apply foldl_wf)
    | (with_reducible apply foldl_wf2) | (with_reducible apply foldl_wf3) | (with_reducible apply State_guarded_good)
    | (with_reducible apply State_split_wf) | (with_reducible apply State_retireAt_wf)
    | (with_reducible apply State_setWave_wf) | (with_reducible apply State_setPc_wf) | (with_reducible apply ite_wf)
    | (with_reducible apply good_next) | split)

@[simp] theorem execBru_good {lo : Nat} (x0 : Bool) (x1 : BruMode) (x2 : BitVec 3) (x3 : BitVec 21) (x4 : State) (hi :
    x4.issuing = true) (h4 : Sane lo x4) : Good lo (execBru x0 x1 x2 x3 x4) := by
  unfold execBru
  repeat' (first
    | (with_reducible assumption) | (simp only [sane_mk, sane_iff]) | (intro _) | (with_reducible apply foldl_wf)
    | (with_reducible apply foldl_wf2) | (with_reducible apply foldl_wf3) | (with_reducible apply State_guarded_good)
    | (with_reducible apply State_retireAt_wf) | (with_reducible apply State_setPc_wf) | (with_reducible apply ite_wf)
    | (with_reducible apply good_next) | split)

@[simp] theorem execCall_good {lo : Nat} (x0 : Bool) (x1 : BitVec 21) (x2 : State) (hi : x2.issuing = true) (h2 : Sane lo x2)
    : Good lo (execCall x0 x1 x2) := by
  unfold execCall
  repeat' (first
    | (with_reducible assumption) | (simp only [sane_mk, sane_iff]) | (intro _) | (with_reducible apply foldl_wf)
    | (with_reducible apply foldl_wf2) | (with_reducible apply foldl_wf3) | (with_reducible apply State_guarded_good)
    | (with_reducible apply State_retireAt_wf) | (with_reducible apply State_setPc_wf) | (with_reducible apply State_link_wf)
    | (with_reducible apply ite_wf) | (with_reducible apply good_next) | split)

@[simp] theorem execXw_good {lo : Nat} (x0 : Xw) (x1 : State) (hi : x1.issuing = true) (h1 : Sane lo x1) : Good lo (execXw x0
    x1) := by
  simp [execXw, *]

@[simp] theorem State_toReady_wf {lo : Nat} (x0 : State) (x1 : Nat) (h0 : Sane lo x0) : Sane lo (State.toReady x0 x1) := by
  simp [State.toReady, *]

@[simp] theorem State_unpark_wf {lo : Nat} (x0 : State) (x1 : Nat) (h0 : Sane lo x0) : Sane lo (State.unpark x0 x1) := by
  unfold State.unpark
  try dsimp only
  repeat' (first
    | (with_reducible assumption) | (simp only [sane_mk, sane_iff]) | (intro _) | (with_reducible apply foldl_wf) |
    (with_reducible apply foldl_wf2) | (with_reducible apply foldl_wf3) | (with_reducible apply State_toReady_wf) |
    (with_reducible apply State_modWaveAt_wf) | (with_reducible apply ite_wf) | split)

@[simp] theorem execWaveResultWriteback_good {lo : Nat} (x0 : Nat) (x1 : Nat) (x2 : Lanes) (x3 : State) (h3 : Sane lo x3) :
    Good lo (execWaveResultWriteback x0 x1 x2 x3) := by
  unfold execWaveResultWriteback
  dsimp only
  repeat' (first
    | (with_reducible assumption) | (simp only [sane_mk, sane_iff]) | (intro _) | (with_reducible apply foldl_wf)
    | (with_reducible apply foldl_wf2) | (with_reducible apply foldl_wf3) | (with_reducible apply State_deliverAll_wf)
    | (with_reducible apply State_unpark_wf) | (with_reducible apply State_modWaveAt_wf) | (with_reducible apply ite_wf)
    | (with_reducible apply good_next) | split)

@[simp] theorem execStoreFifoDrain_good {lo : Nat} (x0 : Nat) (x1 : State) (h1 : Sane lo x1) : Good lo (execStoreFifoDrain x0
    x1) := by
  unfold execStoreFifoDrain
  dsimp only
  repeat' (first
    | (with_reducible assumption) | (simp only [sane_mk, sane_iff]) | (intro _) | (with_reducible apply foldl_wf)
    | (with_reducible apply foldl_wf2) | (with_reducible apply foldl_wf3) | (with_reducible apply State_reap_wf)
    | (with_reducible apply State_performMem_wf) | (with_reducible apply State_modWaveAt_wf) | (with_reducible apply ite_wf)
    | (with_reducible apply good_next) | split)

@[simp] theorem execWcbLineWrite_good {lo : Nat} (x0 : Nat) (x1 : Nat) (x2 : State) (h2 : Sane lo x2) : Good lo
    (execWcbLineWrite x0 x1 x2) := by
  simp [execWcbLineWrite, *]

@[simp] theorem execHomeAccess_good {lo : Nat} (x0 : Nat) (x1 : Nat) (x2 : State) (h2 : Sane lo x2) : Good lo (execHomeAccess
    x0 x1 x2) := by
  unfold execHomeAccess
  split <;> simp [*]

@[simp] theorem execMmaCommandStart_good {lo : Nat} (x0 : Nat) (x1 : BitVec 6) (x2 : State) (h2 : Sane lo x2) : Good lo
    (execMmaCommandStart x0 x1 x2) := by
  unfold execMmaCommandStart
  repeat' (first
    | assumption | (simp only [sane_mk, sane_iff]) | (exact foldl_wf _ _ _ (by assumption) (by intros; simp [*]))
    | (simp [*]; done) | split)

@[simp] theorem State_mmaRetire_wf {lo : Nat} (x0 : State) (x1 : Nat) (x2 : MmaCmd) (h0 : Sane lo x0) : Sane lo
    (State.mmaRetire x0 x1 x2) := by
  unfold State.mmaRetire
  dsimp only
  repeat' (first
    | (with_reducible assumption) | (simp only [sane_mk, sane_iff]) | (intro _) | (with_reducible apply foldl_wf)
    | (with_reducible apply foldl_wf2) | (with_reducible apply foldl_wf3) | (with_reducible apply State_setWgAt_wf)
    | (with_reducible apply State_orFlags_wf) | (with_reducible apply ite_wf) | (with_reducible apply good_next) | split)

@[simp] theorem execMmaCommandRetire_good {lo : Nat} (x0 : Nat) (x1 : BitVec 6) (x2 : State) (h2 : Sane lo x2) : Good lo
    (execMmaCommandRetire x0 x1 x2) := by
  unfold execMmaCommandRetire
  repeat' (first
    | assumption | (simp only [sane_mk, sane_iff]) | (exact foldl_wf _ _ _ (by assumption) (by intros; simp [*]))
    | (simp [*]; done) | (simp [*] at *; done) | split)

@[simp] theorem execCodebookSlotReady_good {lo : Nat} (x0 : Nat) (x1 : BitVec 2) (x2 : State) (h2 : Sane lo x2) : Good lo
    (execCodebookSlotReady x0 x1 x2) := by
  unfold execCodebookSlotReady
  repeat' (first
    | assumption | (simp only [sane_mk, sane_iff]) | (exact foldl_wf _ _ _ (by assumption) (by intros; simp [*]))
    | (simp [*]; done) | (simp [*] at *; done) | split)

@[simp] theorem execWeightStoreRefresh_good {lo : Nat} (x0 : Nat) (x1 : Nat) (x2 : State) (h2 : Sane lo x2) : Good lo
    (execWeightStoreRefresh x0 x1 x2) := by
  unfold execWeightStoreRefresh
  try dsimp only
  repeat' (first
    | (with_reducible assumption) | (simp only [sane_mk, sane_iff]) | (intro _) | (with_reducible apply foldl_wf) |
    (with_reducible apply foldl_wf2) | (with_reducible apply foldl_wf3) | (with_reducible apply ite_wf) | (with_reducible
    apply good_next) | split)

@[simp] theorem State_setCopy_wf {lo : Nat} (x0 : State) (x1 : Nat) (x2 : Copy) (h0 : Sane lo x0) : Sane lo (State.setCopy x0
    x1 x2) := by
  unfold State.setCopy
  exact h0

@[simp] theorem State_gateJoin_wf {lo : Nat} (x0 : State) (x1 : Nat) (x2 : GateReq) (h0 : Sane lo x0) : Sane lo
    (State.gateJoin x0 x1 x2) := by
  simp [State.gateJoin, *]

@[simp] theorem execTcopyStart_good {lo : Nat} (x0 : Nat) (x1 : State) (h1 : Sane lo x1) : Good lo (execTcopyStart x0 x1) :=
    by
  unfold execTcopyStart
  dsimp only
  repeat' (first
    | (with_reducible assumption) | (simp only [sane_mk, sane_iff]) | (intro _) | (with_reducible apply foldl_wf)
    | (with_reducible apply foldl_wf2) | (with_reducible apply foldl_wf3) | (with_reducible apply State_setCopy_wf)
    | (with_reducible apply State_gateJoin_wf) | (with_reducible apply ite_wf) | (with_reducible apply good_next) | split)

@[simp] theorem State_copyTouch_wf {lo : Nat} (x0 : State) (x1 : Copy) (x2 : List (Nat × Bool)) (h0 : Sane lo x0) : Sane lo
    (State.copyTouch x0 x1 x2) := by
  unfold State.copyTouch
  try dsimp only
  repeat' (first
    | (with_reducible assumption) | (simp only [sane_mk, sane_iff]) | (intro _) | (with_reducible apply foldl_wf) |
    (with_reducible apply foldl_wf2) | (with_reducible apply foldl_wf3) | (with_reducible apply State_fillL2_wf) |
    (with_reducible apply State_homeTouches_wf) | (with_reducible apply ite_wf) | split)

@[simp] theorem State_copyPut_wf {lo : Nat} (x0 : State) (x1 : Copy) (x2 : List ((Nat × Bool) × Byte)) (h0 : Sane lo x0) :
    Sane lo (State.copyPut x0 x1 x2) := by
  unfold State.copyPut
  try dsimp only
  repeat' (first
    | (with_reducible assumption) | (simp only [sane_mk, sane_iff]) | (intro _) | (with_reducible apply foldl_wf) |
    (with_reducible apply foldl_wf2) | (with_reducible apply foldl_wf3) | (with_reducible apply State_sliceWrite_wf) |
    (with_reducible apply State_homeWrite_wf) | (with_reducible apply State_l2Drop_wf) | (with_reducible apply
    State_strays_wf) | (with_reducible apply ite_wf) | split)

@[simp] theorem State_copyLand_wf {lo : Nat} (x0 : State) (x1 : Copy) (x2 : List ((Nat × Bool) × Byte)) (h0 : Sane lo x0) :
    Sane lo (State.copyLand x0 x1 x2) := by
  unfold State.copyLand
  try dsimp only
  repeat' (first
    | (with_reducible assumption) | (simp only [sane_mk, sane_iff]) | (intro _) | (with_reducible apply foldl_wf) |
    (with_reducible apply foldl_wf2) | (with_reducible apply foldl_wf3) | (with_reducible apply State_modWgAt_wf) |
    (with_reducible apply State_copyPut_wf) | (with_reducible apply ite_wf) | split)

theorem State_copyWrite_wf {lo : Nat} (s s' : State) (id : Nat) (c c' : Copy) (d : CopyDesc) (x : Int) (bs : List Byte) (h : Sane lo s)
    (he : s.copyWrite id c d x bs = .ok (c', s')) : Sane lo s' := by
  unfold State.copyWrite at he
  dsimp only at he
  split at he
  · cases he; exact h
  · split at he
    · cases he
    · cases he
      split
      · exact State_sendRemote_wf _ _ _ _ _ _ h
      · exact State_copyLand_wf _ _ _ (State_sendRemote_wf _ _ _ _ _ _ h)

@[simp] theorem State_copyUnit_wf {lo : Nat} (s : State) (id : Nat) (c : Copy) (d : CopyDesc) (h : Sane lo s) :
    Sane lo (s.copyUnit id c d) := by
  unfold State.copyUnit
  dsimp only
  split
  · exact (State_setCopy_wf s id c h : _)
  · exact State_setCopy_wf _ _ _ h
  · have ht (p : Prop) [Decidable p] (t : State) (h : Sane lo t) : Sane lo (if p then { t with tick := t.tick + 1 } else t) := by
      split <;> exact h
    split
    · exact State_setCopy_wf _ _ _ (ht _ _ (State_copyTouch_wf _ _ _ h))
    · rename_i he
      exact State_setCopy_wf _ _ _ (State_copyWrite_wf _ _ _ _ _ _ _ _ (ht _ _ (State_copyTouch_wf _ _ _ h)) he)

@[simp] theorem execTcopyUnit_good {lo : Nat} (x0 : Nat) (x1 : State) (h1 : Sane lo x1) : Good lo (execTcopyUnit x0 x1) := by
  unfold execTcopyUnit
  dsimp only
  repeat' (first
    | (with_reducible assumption) | (simp only [sane_mk, sane_iff]) | (intro _) | (with_reducible apply foldl_wf)
    | (with_reducible apply foldl_wf2) | (with_reducible apply foldl_wf3) | (with_reducible apply State_copyUnit_wf)
    | (with_reducible apply ite_wf) | (with_reducible apply good_next) | split)

@[simp] theorem State_gatherHome_wf {lo : Nat} (x0 : State) (x1 : List Nat) (h0 : Sane lo x0) : Sane lo (State.gatherHome x0
    x1) := by
  unfold State.gatherHome
  refine foldl_wf _ _ _ (by simp [*]) ?_; intros; simp [*]

@[simp] theorem State_writeRecord_wf {lo : Nat} (x0 : State) (x1 : Nat) (x2 : Nat) (x3 : List Byte) (h0 : Sane lo x0) : Sane
    lo (State.writeRecord x0 x1 x2 x3) := by
  unfold State.writeRecord
  dsimp only
  repeat' (first
    | (with_reducible assumption) | (simp only [sane_mk, sane_iff]) | (intro _) | (with_reducible apply foldl_wf)
    | (with_reducible apply foldl_wf2) | (with_reducible apply foldl_wf3) | (with_reducible apply State_sendRemote_wf)
    | (with_reducible apply State_homeWrite_wf) | (with_reducible apply State_gatherHome_wf) | (with_reducible apply ite_wf)
    | (with_reducible apply good_next) | split)

@[simp] theorem State_gateLeave_wf {lo : Nat} (x0 : State) (x1 : GateReq) (h0 : Sane lo x0) : Sane lo (State.gateLeave x0 x1)
    := by
  unfold State.gateLeave
  exact h0

@[simp] theorem State_completeCopy_wf {lo : Nat} (x0 : State) (x1 : Nat) (x2 : Copy) (h0 : Sane lo x0) : Sane lo
    (State.completeCopy x0 x1 x2) := by
  unfold State.completeCopy
  try dsimp only
  repeat' (first
    | (with_reducible assumption) | (simp only [sane_mk, sane_iff]) | (intro _) | (with_reducible apply foldl_wf) |
    (with_reducible apply foldl_wf2) | (with_reducible apply foldl_wf3) | (with_reducible apply State_copyLand_wf) |
    (with_reducible apply State_l2WriteBack_wf) | (with_reducible apply State_writeRecord_wf) | (with_reducible apply
    State_semSignal_wf) | (with_reducible apply State_reap_wf) | (with_reducible apply State_gateLeave_wf) | (with_reducible
    apply ite_wf) | split)

@[simp] theorem execTcopyComplete_good {lo : Nat} (x0 : Nat) (x1 : State) (h1 : Sane lo x1) : Good lo (execTcopyComplete x0
    x1) := by
  unfold execTcopyComplete
  repeat' (first
    | assumption | (simp only [sane_mk, sane_iff]) | (exact foldl_wf _ _ _ (by assumption) (by intros; simp [*]))
    | (simp [*]; done) | (simp [*] at *; done) | split)

@[simp] theorem State_resumeLocks_wf {lo : Nat} (x0 : State) (x1 : Nat) (x2 : Nat) (h0 : Sane lo x0) : Sane lo
    (State.resumeLocks x0 x1 x2) := by
  unfold State.resumeLocks
  dsimp only
  repeat' (first
    | (with_reducible assumption) | (simp only [sane_mk, sane_iff]) | (intro _) | (with_reducible apply foldl_wf)
    | (with_reducible apply foldl_wf2) | (with_reducible apply foldl_wf3) | (with_reducible apply State_refetchIc_wf)
    | (with_reducible apply State_modCtxAt_wf) | (with_reducible apply ite_wf) | split)

@[simp] theorem State_allocate_wf {lo : Nat} (x0 : State) (x1 : Wg) (x2 : BitVec 3) (x3 : List Piece) (x4 : Nat) (x5 : Option
    Nat) (h0 : Sane lo x0) : Sane lo (State.allocate x0 x1 x2 x3 x4 x5) := by
  unfold State.allocate
  try dsimp only
  repeat' (first
    | (with_reducible assumption) | (simp only [sane_mk, sane_iff]) | (intro _) | (with_reducible apply foldl_wf) |
    (with_reducible apply foldl_wf2) | (with_reducible apply foldl_wf3) | (with_reducible apply State_setWgAt_wf) |
    (with_reducible apply State_setWaveAt_wf) | (with_reducible apply State_modCtxAt_wf) | (with_reducible apply
    State_resumeLocks_wf) | (with_reducible apply State_gateLeave_wf) | (with_reducible apply ite_wf) | split)

theorem State_placeNext_wf {lo : Nat} (x0 : State) (x1 : Nat) (h0 : Sane lo x0) : Sane lo (State.placeNext x0 x1).state := by
  unfold State.placeNext
  try dsimp only
  repeat' (first
    | (with_reducible assumption) | (simp only [sane_mk, sane_iff]) | (intro _) | (with_reducible apply foldl_wf) |
    (with_reducible apply foldl_wf2) | (with_reducible apply foldl_wf3) | (with_reducible apply State_gateJoin_wf) |
    (with_reducible apply State_allocate_wf) | (with_reducible apply State_modLaunchAt_wf) | (with_reducible apply ite_wf) |
    split)

theorem State_placeAll_wf {lo : Nat} (s : State) (lk n : Nat) (h : Sane lo s) : Sane lo (s.placeAll lk n).state := by
  induction n generalizing s with
  | zero => exact h
  | succ n ih =>
    unfold State.placeAll
    dsimp only
    split
    · exact h
    · split
      · exact ih _ (State_placeNext_wf _ _ h)
      · exact State_placeNext_wf _ _ h

@[simp] theorem State_placeLaunch_wf {lo : Nat} (x0 : State) (x1 : Nat) (h0 : Sane lo x0) : Sane lo (State.placeLaunch x0 x1) := by
  have ht : Sane lo (x0.tryPlace x1).state := by
    unfold State.tryPlace
    dsimp only
    split
    · exact State_placeAll_wf _ _ _ h0
    · exact State_placeNext_wf _ _ h0
  unfold State.placeLaunch
  dsimp only
  split
  · exact State_modLaunchAt_wf _ _ _ ht
  · exact foldl_wf _ _ _ h0 fun _ _ h => State_gateJoin_wf _ _ _ h

@[simp] theorem execWorkgroupPlace_good {lo : Nat} (x0 : Nat) (x1 : State) (h1 : Sane lo x1) : Good lo (execWorkgroupPlace x0
    x1) := by
  unfold execWorkgroupPlace
  dsimp only
  repeat' (first
    | (with_reducible assumption) | (simp only [sane_mk, sane_iff]) | (intro _) | (with_reducible apply foldl_wf)
    | (with_reducible apply foldl_wf2) | (with_reducible apply foldl_wf3) | (with_reducible apply State_placeLaunch_wf)
    | (with_reducible apply ite_wf) | (with_reducible apply good_next) | split)

@[simp] theorem execWeightStoreGateAdmit_good {lo : Nat} (x0 : Nat) (x1 : State) (h1 : Sane lo x1) : Good lo
    (execWeightStoreGateAdmit x0 x1) := by
  unfold execWeightStoreGateAdmit
  repeat' (first
    | assumption | (simp only [sane_mk, sane_iff]) | (exact foldl_wf _ _ _ (by assumption) (by intros; simp [*]))
    | (simp [*]; done) | split)

@[simp] theorem execLaunchPortStage_good {lo : Nat} (x0 : Nat) (x1 : Nat) (x2 : List Byte) (x3 : State) (h3 : Sane lo x3) :
    Good lo (execLaunchPortStage x0 x1 x2 x3) := by
  unfold execLaunchPortStage
  split <;> simp [*]

@[simp] theorem State_portSubmit_wf {lo : Nat} (x0 : State) (x1 : Nat) (x2 : List Byte) (h0 : Sane lo x0) : Sane lo
    (State.portSubmit x0 x1 x2).2 := by
  unfold State.portSubmit
  repeat' (first
    | assumption | (simp only [sane_mk, sane_iff]) | (exact foldl_wf _ _ _ (by assumption) (by intros; simp [*]))
    | (simp [*]; done) | split)

@[simp] theorem execLaunchPortEnqueue_good {lo : Nat} (x0 : Nat) (x1 : Nat) (x2 : List Byte) (x3 : State) (h3 : Sane lo x3) :
    Good lo (execLaunchPortEnqueue x0 x1 x2 x3) := by
  unfold execLaunchPortEnqueue
  dsimp only
  repeat' (first
    | (with_reducible assumption) | (simp only [sane_mk, sane_iff]) | (intro _) | (with_reducible apply foldl_wf)
    | (with_reducible apply foldl_wf2) | (with_reducible apply foldl_wf3) | (with_reducible apply State_portSubmit_wf)
    | (with_reducible apply State_modCtxAt_wf) | (with_reducible apply ite_wf) | (with_reducible apply good_next) | split)

@[simp] theorem State_tableCommand_good {lo : Nat} (x0 : State) (x1 : Nat) (x2 : List Byte) (h0 : Sane lo x0) : Good lo
    (State.tableCommand x0 x1 x2) := by
  unfold State.tableCommand
  split <;> simp [*]

@[simp] theorem execKernelTableReplace_good {lo : Nat} (x0 : Nat) (x1 : Nat) (x2 : Nat) (x3 : State) (h3 : Sane lo x3) : Good
    lo (execKernelTableReplace x0 x1 x2 x3) := by
  simp [execKernelTableReplace, *]

@[simp] theorem execKernelTableClear_good {lo : Nat} (x0 : Nat) (x1 : Nat) (x2 : State) (h2 : Sane lo x2) : Good lo
    (execKernelTableClear x0 x1 x2) := by
  simp [execKernelTableClear, *]

@[simp] theorem State_releaseAll_wf {lo : Nat} (x0 : State) (h0 : Sane lo x0) : Sane lo (State.releaseAll x0) := by
  unfold State.releaseAll
  repeat' (first
    | assumption | (simp only [sane_mk, sane_iff]) | (exact foldl_wf _ _ _ (by assumption) (by intros; simp [*]))
    | (simp [*]; done) | split | (intro _) | (refine foldl_wf _ _ _ ?_ ?_))

@[simp] theorem State_endLaunch_wf {lo : Nat} (x0 : State) (x1 : Nat) (x2 : List Byte) (x3 : List Byte) (x4 : Bool) (h0 :
    Sane lo x0) : Sane lo (State.endLaunch x0 x1 x2 x3 x4) := by
  unfold State.endLaunch
  try dsimp only
  repeat' (first
    | (with_reducible assumption) | (simp only [sane_mk, sane_iff]) | (intro _) | (with_reducible apply foldl_wf) |
    (with_reducible apply foldl_wf2) | (with_reducible apply foldl_wf3) | (with_reducible apply State_writeRecord_wf) |
    (with_reducible apply State_releaseAll_wf) | (with_reducible apply State_semSignal_wf) | (with_reducible apply ite_wf) |
    split)

@[simp] theorem State_hubTouch_wf {lo : Nat} (x0 : State) (x1 : Nat) (x2 : Nat) (x3 : Nat) (h0 : Sane lo x0) : Sane lo
    (State.hubTouch x0 x1 x2 x3) := by
  simp [State.hubTouch, *]

@[simp] theorem State_dispatchTouch_wf {lo : Nat} (x0 : State) (x1 : Nat) (x2 : List Byte) (h0 : Sane lo x0) : Sane lo
    (State.dispatchTouch x0 x1 x2) := by
  unfold State.dispatchTouch
  try dsimp only
  repeat' (first
    | (with_reducible assumption) | (simp only [sane_mk, sane_iff]) | (intro _) | (with_reducible apply foldl_wf) |
    (with_reducible apply foldl_wf2) | (with_reducible apply foldl_wf3) | (with_reducible apply State_hubTouch_wf) |
    (with_reducible apply ite_wf) | split)

@[simp] theorem execLaunchDispatch_good {lo : Nat} (x0 : Nat) (x1 : State) (h1 : Sane lo x1) : Good lo (execLaunchDispatch x0
    x1) := by
  unfold execLaunchDispatch
  try dsimp only
  repeat' (first
    | (with_reducible assumption) | (simp only [sane_mk, sane_iff]) | (intro _) | (with_reducible apply foldl_wf) |
    (with_reducible apply foldl_wf2) | (with_reducible apply foldl_wf3) | (with_reducible apply State_setCtxAt_wf) |
    (with_reducible apply State_modCtxAt_wf) | (with_reducible apply State_endLaunch_wf) | (with_reducible apply
    State_dispatchTouch_wf) | (with_reducible apply State_setLaunchAt_wf) | (with_reducible apply ite_wf) | (with_reducible
    apply good_next) | split)

@[simp] theorem execWaveStart_good {lo : Nat} (x0 : Nat) (x1 : State) (h1 : Sane lo x1) : Good lo (execWaveStart x0 x1) := by
  unfold execWaveStart
  try dsimp only
  repeat' (first
    | (with_reducible assumption) | (simp only [sane_mk, sane_iff]) | (intro _) | (with_reducible apply foldl_wf) |
    (with_reducible apply foldl_wf2) | (with_reducible apply foldl_wf3) | (with_reducible apply State_setWaveAt_wf) |
    (with_reducible apply State_toReady_wf) | (with_reducible apply State_acquireCaches_wf) | (with_reducible apply ite_wf) |
    (with_reducible apply good_next) | split)

@[simp] theorem execLaunchComplete_good {lo : Nat} (x0 : Nat) (x1 : State) (h1 : Sane lo x1) : Good lo (execLaunchComplete x0
    x1) := by
  unfold execLaunchComplete
  repeat' (first
    | assumption | (simp only [sane_mk, sane_iff]) | (exact foldl_wf _ _ _ (by assumption) (by intros; simp [*]))
    | (simp [*]; done) | (simp [*] at *; done) | split)

@[simp] theorem execLeaseRequest_good {lo : Nat} (x0 : Nat) (x1 : State) (h1 : Sane lo x1) : Good lo (execLeaseRequest x0 x1)
    := by
  unfold execLeaseRequest
  dsimp only
  repeat' (first
    | (with_reducible assumption) | (simp only [sane_mk, sane_iff]) | (intro _) | (with_reducible apply foldl_wf)
    | (with_reducible apply foldl_wf2) | (with_reducible apply foldl_wf3) | (with_reducible apply ite_wf)
    | (with_reducible apply good_next) | split)

@[simp] theorem State_endLease_wf {lo : Nat} (x0 : State) (x1 : Lease) (h0 : Sane lo x0) : Sane lo (State.endLease x0 x1) :=
    by
  unfold State.endLease
  split <;> simp [*]

@[simp] theorem execLeaseRelease_good {lo : Nat} (x0 : Nat) (x1 : State) (h1 : Sane lo x1) : Good lo (execLeaseRelease x0 x1)
    := by
  unfold execLeaseRelease
  repeat' (first
    | assumption | (simp only [sane_mk, sane_iff]) | (exact foldl_wf _ _ _ (by assumption) (by intros; simp [*]))
    | (simp [*]; done) | split)

@[simp] theorem State_putLeaseRecord_wf {lo : Nat} (x0 : State) (x1 : LeaseRec) (h0 : Sane lo x0) : Sane lo
    (State.putLeaseRecord x0 x1) := by
  unfold State.putLeaseRecord
  simp [*]

@[simp] theorem execLeaseRecordWrite_good {lo : Nat} (x0 : State) (h0 : Sane lo x0) : Good lo (execLeaseRecordWrite x0) := by
  unfold execLeaseRecordWrite
  split
  · simp [*]
  · exact good_next (State_putLeaseRecord_wf _ _ (by simpa only [sane_mk, sane_iff] using h0))

@[simp] theorem execBoostClockRaise_good {lo : Nat} (x0 : State) (h0 : Sane lo x0) : Good lo (execBoostClockRaise x0) := by
  unfold execBoostClockRaise
  try dsimp only
  repeat' (first
    | (with_reducible assumption) | (simp only [sane_mk, sane_iff]) | (intro _) | (with_reducible apply foldl_wf) |
    (with_reducible apply foldl_wf2) | (with_reducible apply foldl_wf3) | (with_reducible apply ite_wf) | (with_reducible
    apply good_next) | split)

@[simp] theorem execLeaseNotice_good {lo : Nat} (x0 : State) (h0 : Sane lo x0) : Good lo (execLeaseNotice x0) := by
  unfold execLeaseNotice
  repeat' (first
    | assumption | (simp only [sane_mk, sane_iff]) | (exact foldl_wf _ _ _ (by assumption) (by intros; simp [*]))
    | (simp [*]; done) | (simp [*] at *; done) | split)

@[simp] theorem execLeaseEnd_good {lo : Nat} (x0 : State) (h0 : Sane lo x0) : Good lo (execLeaseEnd x0) := by
  unfold execLeaseEnd
  repeat' (first
    | assumption | (simp only [sane_mk, sane_iff]) | (exact foldl_wf _ _ _ (by assumption) (by intros; simp [*]))
    | (simp [*]; done) | split)

@[simp] theorem State_setColl_wf {lo : Nat} (x0 : State) (x1 : Nat) (x2 : Collective) (h0 : Sane lo x0) : Sane lo
    (State.setColl x0 x1 x2) := by
  unfold State.setColl
  exact h0

@[simp] theorem State_collLand_wf {lo : Nat} (x0 : State) (x1 : Nat) (x2 : List (Nat × Byte)) (h0 : Sane lo x0) : Sane lo
    (State.collLand x0 x1 x2) := by
  unfold State.collLand
  try dsimp only
  repeat' (first
    | (with_reducible assumption) | (simp only [sane_mk, sane_iff]) | (intro _) | (with_reducible apply foldl_wf) |
    (with_reducible apply foldl_wf2) | (with_reducible apply foldl_wf3) | (with_reducible apply State_homeWrite_wf) |
    (with_reducible apply State_gatherHome_wf) | (with_reducible apply State_strays_wf) | (with_reducible apply ite_wf) |
    split)

@[simp] theorem State_collWrite_wf {lo : Nat} (x0 : State) (x1 : Nat) (x2 : Collective) (x3 : List (Nat × Byte)) (h0 : Sane
    lo x0) : Sane lo (State.collWrite x0 x1 x2 x3) := by
  unfold State.collWrite
  try dsimp only
  repeat' (first
    | (with_reducible assumption) | (simp only [sane_mk, sane_iff]) | (intro _) | (with_reducible apply foldl_wf) |
    (with_reducible apply foldl_wf2) | (with_reducible apply foldl_wf3) | (with_reducible apply State_sendRemote_wf) |
    (with_reducible apply State_setColl_wf) | (with_reducible apply State_collLand_wf) | (with_reducible apply ite_wf) |
    split)

@[simp] theorem State_collEnd_wf {lo : Nat} (x0 : State) (x1 : Nat) (x2 : Collective) (x3 : Nat) (x4 : Nat) (x5 : Nat) (x6 :
    Nat) (h0 : Sane lo x0) : Sane lo (State.collEnd x0 x1 x2 x3 x4 x5 x6) := by
  simp [State.collEnd, *]

@[simp] theorem State_groupTouch_wf {lo : Nat} (x0 : State) (x1 : Nat) (x2 : List Byte) (h0 : Sane lo x0) : Sane lo
    (State.groupTouch x0 x1 x2) := by
  simp [State.groupTouch, *]

@[simp] theorem State_collRunOp_wf {lo : Nat} (x0 : State) (x1 : Nat) (x2 : Nat) (h0 : Sane lo x0) : Sane lo (State.collRunOp
    x0 x1 x2) := by
  unfold State.collRunOp
  try dsimp only
  repeat' (first
    | (with_reducible assumption) | (simp only [sane_mk, sane_iff]) | (intro _) | (with_reducible apply foldl_wf) |
    (with_reducible apply foldl_wf2) | (with_reducible apply foldl_wf3) | (with_reducible apply State_collEnd_wf) |
    (with_reducible apply State_groupTouch_wf) | (with_reducible apply State_homeTouches_wf) | (with_reducible apply
    State_gatherHome_wf) | (with_reducible apply State_collWrite_wf) | (with_reducible apply State_setColl_wf) |
    (with_reducible apply ite_wf) | split | (simp [*]; done))

@[simp] theorem execAllReduce_good {lo : Nat} (x0 : Nat) (x1 : State) (h1 : Sane lo x1) : Good lo (execAllReduce x0 x1) := by
  simp [execAllReduce, *]

@[simp] theorem execReduceScatter_good {lo : Nat} (x0 : Nat) (x1 : State) (h1 : Sane lo x1) : Good lo (execReduceScatter x0
    x1) := by
  simp [execReduceScatter, *]

@[simp] theorem execAllGather_good {lo : Nat} (x0 : Nat) (x1 : State) (h1 : Sane lo x1) : Good lo (execAllGather x0 x1) := by
  simp [execAllGather, *]

@[simp] theorem execBroadcast_good {lo : Nat} (x0 : Nat) (x1 : State) (h1 : Sane lo x1) : Good lo (execBroadcast x0 x1) := by
  simp [execBroadcast, *]

@[simp] theorem State_completeColl_wf {lo : Nat} (x0 : State) (x1 : Nat) (x2 : Collective) (h0 : Sane lo x0) : Sane lo
    (State.completeColl x0 x1 x2) := by
  unfold State.completeColl
  try dsimp only
  repeat' (first
    | (with_reducible assumption) | (simp only [sane_mk, sane_iff]) | (intro _) | (with_reducible apply foldl_wf) |
    (with_reducible apply foldl_wf2) | (with_reducible apply foldl_wf3) | (with_reducible apply State_collLand_wf) |
    (with_reducible apply State_writeRecord_wf) | (with_reducible apply State_semSignal_wf) | (with_reducible apply ite_wf) |
    split)

@[simp] theorem execCollectiveComplete_good {lo : Nat} (x0 : Nat) (x1 : State) (h1 : Sane lo x1) : Good lo
    (execCollectiveComplete x0 x1) := by
  unfold execCollectiveComplete
  repeat' (first
    | assumption | (simp only [sane_mk, sane_iff]) | (exact foldl_wf _ _ _ (by assumption) (by intros; simp [*]))
    | (simp [*]; done) | (simp [*] at *; done) | split)

@[simp] theorem execCollectiveTimeout_good {lo : Nat} (x0 : Nat) (x1 : State) (h1 : Sane lo x1) : Good lo
    (execCollectiveTimeout x0 x1) := by
  unfold execCollectiveTimeout
  try dsimp only
  repeat' (first
    | (with_reducible assumption) | (simp only [sane_mk, sane_iff]) | (intro _) | (with_reducible apply foldl_wf) |
    (with_reducible apply foldl_wf2) | (with_reducible apply foldl_wf3) | (with_reducible apply State_collEnd_wf) |
    (with_reducible apply ite_wf) | (with_reducible apply good_next) | split | (simp [*]; done))

@[simp] theorem State_sendOut_wf {lo : Nat} (x0 : State) (x1 : Nat) (x2 : Eff) (h0 : Sane lo x0) : Sane lo (State.sendOut x0
    x1 x2) := by
  unfold State.sendOut
  try dsimp only
  repeat' (first
    | (with_reducible assumption) | (simp only [sane_mk, sane_iff]) | (intro _) | (with_reducible apply foldl_wf) |
    (with_reducible apply foldl_wf2) | (with_reducible apply foldl_wf3) | (with_reducible apply State_sendStore_wf) |
    (with_reducible apply State_sendAtomic_wf) | (with_reducible apply ite_wf) | split)

@[simp] theorem State_sendHeld_wf {lo : Nat} (x0 : State) (x1 : Nat) (h0 : Sane lo x0) : Sane lo (State.sendHeld x0 x1) := by
  unfold State.sendHeld
  try dsimp only
  repeat' (first
    | (with_reducible assumption) | (simp only [sane_mk, sane_iff]) | (intro _) | (with_reducible apply foldl_wf) |
    (with_reducible apply foldl_wf2) | (with_reducible apply foldl_wf3) | (with_reducible apply State_sendOut_wf) |
    (with_reducible apply State_modWaveAt_wf) | (with_reducible apply ite_wf) | split)

@[simp] theorem State_commitLeases_wf {lo : Nat} (x0 : State) (x1 : Nat) (h0 : Sane lo x0) : Sane lo (State.commitLeases x0 x1) := by
  unfold State.commitLeases
  refine foldl_wf _ _ _ (by simpa only [sane_mk, sane_iff] using h0) ?_; intros; simp [*]

@[simp] theorem State_commitStore_wf {lo : Nat} (x0 : State) (x1 : Nat) (x2 : Nat) (x3 : Bool) (x4 : List (Nat × Byte)) (x5 :
    List VPage) (h0 : Sane lo x0) : Sane lo (State.commitStore x0 x1 x2 x3 x4 x5) := by
  unfold State.commitStore
  try dsimp only
  repeat' (first
    | (with_reducible assumption) | (simp only [sane_mk, sane_iff]) | (intro _) | (with_reducible apply foldl_wf) |
    (with_reducible apply foldl_wf2) | (with_reducible apply foldl_wf3) | (with_reducible apply State_cscrWrite_wf) |
    (with_reducible apply State_sendStore_wf) | (with_reducible apply State_homeWrite_wf) | (with_reducible apply ite_wf) |
    split)

@[simp] theorem State_settleG_wf {lo : Nat} (x0 : State) (x1 : Nat) (h0 : Sane lo x0) : Sane lo (State.settleG x0 x1) := by
  unfold State.settleG
  try dsimp only
  repeat' (first
    | (with_reducible assumption) | (simp only [sane_mk, sane_iff]) | (intro _) | (with_reducible apply foldl_wf) |
    (with_reducible apply foldl_wf2) | (with_reducible apply foldl_wf3) | (with_reducible apply State_modWaveAt_wf) |
    (with_reducible apply State_modWgAt_wf) | (with_reducible apply ite_wf) | split)

@[simp] theorem State_commitEff_wf {lo : Nat} (x0 : State) (x1 : Nat) (x2 : Nat) (x3 : Eff) (h0 : Sane lo x0) : Sane lo
    (State.commitEff x0 x1 x2 x3) := by
  unfold State.commitEff
  try dsimp only
  repeat' (first
    | (with_reducible assumption) | (simp only [sane_mk, sane_iff]) | (intro _) | (with_reducible apply foldl_wf) |
    (with_reducible apply foldl_wf2) | (with_reducible apply foldl_wf3) | (with_reducible apply State_commitStore_wf) |
    (with_reducible apply State_strays_wf) | (with_reducible apply State_settleG_wf) | (with_reducible apply
    State_performAtom_wf) | (with_reducible apply State_performSpm_wf) | (with_reducible apply State_modWgAt_wf) |
    (with_reducible apply State_arrive_wf) | (with_reducible apply State_lockRelease_wf) | (with_reducible apply
    State_semAdd_wf) | (with_reducible apply State_submit_wf) | (with_reducible apply State_declareObj_wf) | (with_reducible
    apply State_deliverAll_wf) | (with_reducible apply State_releaseObj_wf) | (with_reducible apply State_exitSlot_wf) |
    (with_reducible apply ite_wf) | split)

@[simp] theorem State_commitWave_wf {lo : Nat} (x0 : State) (x1 : Nat) (x2 : Nat) (h0 : Sane lo x0) : Sane lo
    (State.commitWave x0 x1 x2) := by
  unfold State.commitWave
  try dsimp only
  repeat' (first
    | (with_reducible assumption) | (simp only [sane_mk, sane_iff]) | (intro _) | (with_reducible apply foldl_wf) |
    (with_reducible apply foldl_wf2) | (with_reducible apply foldl_wf3) | (with_reducible apply State_modWaveAt_wf) |
    (with_reducible apply State_commitEff_wf) | (with_reducible apply ite_wf) | split)

@[simp] theorem State_moveWait_wf {lo : Nat} (x0 : State) (x1 : Nat) (x2 : Nat) (h0 : Sane lo x0) : Sane lo (State.moveWait
    x0 x1 x2) := by
  simp [State.moveWait, *]

@[simp] theorem State_tryWait_wf {lo : Nat} (x0 : State) (x1 : Nat) (x2 : Wait) (h0 : Sane lo x0) : Sane lo (State.tryWait x0
    x1 x2).2 := by
  unfold State.tryWait
  split <;> (try split) <;> simp [*]

@[simp] theorem State_endWait_wf {lo : Nat} (x0 : State) (x1 : Nat) (x2 : Nat) (x3 : Bool) (h0 : Sane lo x0) : Sane lo
    (State.endWait x0 x1 x2 x3) := by
  unfold State.endWait
  dsimp only
  repeat' (first
    | (with_reducible assumption) | (simp only [sane_mk, sane_iff]) | (intro _) | (with_reducible apply foldl_wf)
    | (with_reducible apply foldl_wf2) | (with_reducible apply foldl_wf3) | (with_reducible apply State_acquire_wf)
    | (with_reducible apply State_dropEntry_wf) | (with_reducible apply State_writeScal_wf)
    | (with_reducible apply State_modWaveAt_wf) | (with_reducible apply State_toReady_wf) | (with_reducible apply ite_wf)
    | (with_reducible apply good_next) | split)

@[simp] theorem State_withdraw_wf {lo : Nat} (x0 : State) (x1 : Nat) (x2 : Wait) (h0 : Sane lo x0) : Sane lo (State.withdraw
    x0 x1 x2) := by
  unfold State.withdraw
  try dsimp only
  repeat' (first
    | (with_reducible assumption) | (simp only [sane_mk, sane_iff]) | (intro _) | (with_reducible apply foldl_wf) |
    (with_reducible apply foldl_wf2) | (with_reducible apply foldl_wf3) | (with_reducible apply State_setArrival_wf) |
    (with_reducible apply ite_wf) | split)

@[simp] theorem State_commitWait_wf {lo : Nat} (x0 : State) (x1 : Nat) (x2 : Wait) (h0 : Sane lo x0) : Sane lo
    (State.commitWait x0 x1 x2) := by
  unfold State.commitWait
  try dsimp only
  repeat' (first
    | (with_reducible assumption) | (simp only [sane_mk, sane_iff]) | (intro _) | (with_reducible apply foldl_wf) |
    (with_reducible apply foldl_wf2) | (with_reducible apply foldl_wf3) | (with_reducible apply State_modWaveAt_wf) |
    (with_reducible apply State_modCtxAt_wf) | (with_reducible apply State_makeEntry_wf) | (with_reducible apply
    State_reportDeadlock_wf) | (with_reducible apply State_withdraw_wf) | (with_reducible apply State_takeTrapAt_wf) |
    (with_reducible apply ite_wf) | split)

@[simp] theorem State_resolveRequest_wf {lo : Nat} (x0 : State) (x1 : Nat) (h0 : Sane lo x0) : Sane lo (State.resolveRequest
    x0 x1) := by
  unfold State.resolveRequest
  dsimp only
  repeat' (first
    | (with_reducible assumption) | (simp only [sane_mk, sane_iff]) | (intro _) | (with_reducible apply foldl_wf)
    | (with_reducible apply foldl_wf2) | (with_reducible apply foldl_wf3) | (with_reducible apply State_lockTake_wf)
    | (with_reducible apply State_modWaveAt_wf) | (with_reducible apply State_addPend_wf)
    | (with_reducible apply State_tryWait_wf) | (with_reducible apply State_endWait_wf)
    | (with_reducible apply State_commitWait_wf) | (with_reducible apply ite_wf) | (with_reducible apply good_next) | split)

@[simp] theorem State_commitAcquire_wf {lo : Nat} (x0 : State) (x1 : Nat) (h0 : Sane lo x0) : Sane lo (State.commitAcquire x0
    x1) := by
  unfold State.commitAcquire
  refine foldl_wf _ _ _ (by simp [*]) ?_; intros; simp [*]

@[simp] theorem State_nextQuantumOf_wf {lo : Nat} (x0 : State) (x1 : Word64) (x2 : Nat) (h0 : Sane lo x0) : Sane lo
    (State.nextQuantumOf x0 x1 x2) := by
  unfold State.nextQuantumOf
  dsimp only
  repeat' (first
    | (with_reducible assumption) | (simp only [sane_mk, sane_iff]) | (intro _) | (with_reducible apply foldl_wf)
    | (with_reducible apply foldl_wf2) | (with_reducible apply foldl_wf3) | (with_reducible apply State_setWaveAt_wf)
    | (with_reducible apply ite_wf) | (with_reducible apply good_next) | split)

@[simp] theorem State_commitAll_wf {lo : Nat} (x0 : State) (x1 : Nat) (h0 : Sane lo x0) : Sane lo (State.commitAll x0 x1) :=
    by
  unfold State.commitAll
  try dsimp only
  repeat' (first
    | (with_reducible assumption) | (simp only [sane_mk, sane_iff]) | (intro _) | (with_reducible apply foldl_wf) |
    (with_reducible apply foldl_wf2) | (with_reducible apply foldl_wf3) | (with_reducible apply State_completeCopy_wf) |
    (with_reducible apply State_completeColl_wf) | (with_reducible apply State_commitLeases_wf) | (with_reducible apply
    State_releaseAll_wf) | (with_reducible apply State_commitWave_wf) | (with_reducible apply State_resolveRequest_wf) |
    (with_reducible apply State_commitAcquire_wf) | (with_reducible apply State_nextQuantumOf_wf) | (with_reducible apply
    State_modLaunchAt_wf) | (with_reducible apply ite_wf) | split)

@[simp] theorem execQuantumCommit_good {lo : Nat} (x0 : Nat) (x1 : State) (h1 : Sane lo x1) : Good lo (execQuantumCommit x0
    x1) := by
  unfold execQuantumCommit
  try dsimp only
  repeat' (first
    | (with_reducible assumption) | (simp only [sane_mk, sane_iff]) | (intro _) | (with_reducible apply foldl_wf) |
    (with_reducible apply foldl_wf2) | (with_reducible apply foldl_wf3) | (with_reducible apply State_sendHeld_wf) |
    (with_reducible apply State_commitAll_wf) | (with_reducible apply ite_wf) | (with_reducible apply good_next) | split)

@[simp] theorem execWaitConditionMet_good {lo : Nat} (x0 : Nat) (x1 : State) (h1 : Sane lo x1) : Good lo
    (execWaitConditionMet x0 x1) := by
  unfold execWaitConditionMet
  dsimp only
  repeat' (first
    | (with_reducible assumption) | (simp only [sane_mk, sane_iff]) | (intro _) | (with_reducible apply foldl_wf)
    | (with_reducible apply foldl_wf2) | (with_reducible apply foldl_wf3) | (with_reducible apply State_endWait_wf)
    | (with_reducible apply ite_wf) | (with_reducible apply good_next) | split)

@[simp] theorem execClusterBarrierHeldRelease_good {lo : Nat} (x0 : Nat) (x1 : Nat) (x2 : State) (h2 : Sane lo x2) : Good lo
    (execClusterBarrierHeldRelease x0 x1 x2) := by
  unfold execClusterBarrierHeldRelease
  repeat' (first
    | assumption | (simp only [sane_mk, sane_iff]) | (exact foldl_wf _ _ _ (by assumption) (by intros; simp [*]))
    | (simp [*]; done) | (simp [*] at *; done) | split | (intro _) | (refine foldl_wf _ _ _ ?_ ?_)
    | (refine foldl_wf2 _ _ _ ?_ ?_) | (refine good_next ?_))

@[simp] theorem execLockRetry_good {lo : Nat} (x0 : Nat) (x1 : State) (h1 : Sane lo x1) : Good lo (execLockRetry x0 x1) := by
  unfold execLockRetry
  try dsimp only
  repeat' (first
    | (with_reducible assumption) | (simp only [sane_mk, sane_iff]) | (intro _) | (with_reducible apply foldl_wf) |
    (with_reducible apply foldl_wf2) | (with_reducible apply foldl_wf3) | (with_reducible apply State_lockTake_wf) |
    (with_reducible apply State_moveWait_wf) | (with_reducible apply State_setMet_wf) | (with_reducible apply ite_wf) |
    (with_reducible apply good_next) | split)

@[simp] theorem execWaitvRetest_good {lo : Nat} (x0 : Nat) (x1 : State) (h1 : Sane lo x1) : Good lo (execWaitvRetest x0 x1)
    := by
  unfold execWaitvRetest
  try dsimp only
  repeat' (first
    | (with_reducible assumption) | (simp only [sane_mk, sane_iff]) | (intro _) | (with_reducible apply foldl_wf) |
    (with_reducible apply foldl_wf2) | (with_reducible apply foldl_wf3) | (with_reducible apply State_homeTouch_wf) |
    (with_reducible apply State_moveWait_wf) | (with_reducible apply State_setMet_wf) | (with_reducible apply ite_wf) |
    (with_reducible apply good_next) | split)

@[simp] theorem execPriorityInheritanceUpdate_good {lo : Nat} (x0 : State) (h0 : Sane lo x0) : Good lo
    (execPriorityInheritanceUpdate x0) := by
  simp [execPriorityInheritanceUpdate, *]

@[simp] theorem State_deadlockWave_wf {lo : Nat} (x0 : State) (x1 : Nat) (x2 : List (Nat × ObjRef)) (x3 : Bool) (h0 : Sane lo
    x0) : Sane lo (State.deadlockWave x0 x1 x2 x3) := by
  unfold State.deadlockWave
  try dsimp only
  repeat' (first
    | (with_reducible assumption) | (simp only [sane_mk, sane_iff]) | (intro _) | (with_reducible apply foldl_wf) |
    (with_reducible apply foldl_wf2) | (with_reducible apply foldl_wf3) | (with_reducible apply State_withdraw_wf) |
    (with_reducible apply State_dropEntry_wf) | (with_reducible apply State_reportDeadlock_wf) | (with_reducible apply
    State_modWaveAt_wf) | (with_reducible apply State_takeTrapAt_wf) | (with_reducible apply ite_wf) | split)

@[simp] theorem State_scanOrphans_wf {lo : Nat} (x0 : State) (h0 : Sane lo x0) : Sane lo (State.scanOrphans x0) := by
  unfold State.scanOrphans
  dsimp only
  repeat' (first
    | (with_reducible assumption) | (simp only [sane_mk, sane_iff]) | (intro _) | (with_reducible apply foldl_wf)
    | (with_reducible apply foldl_wf2) | (with_reducible apply foldl_wf3) | (with_reducible apply State_deadlockWave_wf)
    | (with_reducible apply ite_wf) | (with_reducible apply good_next) | split)

@[simp] theorem State_scanCycles_wf {lo : Nat} (x0 : State) (h0 : Sane lo x0) : Sane lo (State.scanCycles x0) := by
  unfold State.scanCycles
  dsimp only
  repeat' (first
    | (with_reducible assumption) | (simp only [sane_mk, sane_iff]) | (intro _) | (with_reducible apply foldl_wf)
    | (with_reducible apply foldl_wf2) | (with_reducible apply foldl_wf3) | (with_reducible apply State_deadlockWave_wf)
    | (with_reducible apply ite_wf) | (with_reducible apply good_next) | split)

@[simp] theorem execDeadlockScan_good {lo : Nat} (x0 : State) (h0 : Sane lo x0) : Good lo (execDeadlockScan x0) := by
  unfold execDeadlockScan
  split <;> simp [*]

@[simp] theorem State_unshedWg_wf {lo : Nat} (x0 : State) (x1 : Nat) (h0 : Sane lo x0) : Sane lo (State.unshedWg x0 x1) := by
  simp [State.unshedWg, *]

@[simp] theorem execShedExemptionReturn_good {lo : Nat} (x0 : Nat) (x1 : State) (h1 : Sane lo x1) : Good lo
    (execShedExemptionReturn x0 x1) := by
  unfold execShedExemptionReturn
  repeat' (first
    | assumption | (simp only [sane_mk, sane_iff]) | (exact foldl_wf _ _ _ (by assumption) (by intros; simp [*]))
    | (simp [*]; done) | split)

@[simp] theorem execStpFrame_good {lo : Nat} (x0 : List Byte) (x1 : State) (h1 : Sane lo x1) : Good lo (execStpFrame x0 x1)
    := by
  unfold execStpFrame
  split <;> simp [*]

@[simp] theorem execTelemetryLoss_good {lo : Nat} (x0 : State) (h0 : Sane lo x0) : Good lo (execTelemetryLoss x0) := by
  unfold execTelemetryLoss
  split <;> simp [*]

@[simp] theorem State_revokeLease_wf {lo : Nat} (x0 : State) (h0 : Sane lo x0) : Sane lo (State.revokeLease x0) := by
  unfold State.revokeLease
  split <;> simp [*]

@[simp] theorem State_cutWave_wf {lo : Nat} (x0 : State) (x1 : Nat) (h0 : Sane lo x0) : Sane lo (State.cutWave x0 x1) := by
  unfold State.cutWave
  dsimp only
  repeat' (first
    | (with_reducible assumption) | (simp only [sane_mk, sane_iff]) | (intro _) | (with_reducible apply foldl_wf)
    | (with_reducible apply foldl_wf2) | (with_reducible apply foldl_wf3) | (with_reducible apply State_endWait_wf)
    | (with_reducible apply State_shedIfCut_wf) | (with_reducible apply ite_wf) | (with_reducible apply good_next) | split)

@[simp] theorem State_updateBudget_wf {lo : Nat} (x0 : State) (x1 : Bool) (h0 : Sane lo x0) : Sane lo (State.updateBudget x0
    x1) := by
  unfold State.updateBudget
  dsimp only
  repeat' (first
    | (with_reducible assumption) | (simp only [sane_mk, sane_iff]) | (intro _) | (with_reducible apply foldl_wf)
    | (with_reducible apply foldl_wf2) | (with_reducible apply foldl_wf3) | (with_reducible apply State_revokeLease_wf)
    | (with_reducible apply State_cutWave_wf) | (with_reducible apply State_markWg_wf) | (with_reducible apply ite_wf)
    | split)

@[simp] theorem execBudgetUpdate_good {lo : Nat} (x0 : State) (h0 : Sane lo x0) : Good lo (execBudgetUpdate x0) := by
  unfold execBudgetUpdate
  split <;> simp [*]

@[simp] theorem execClassRestore_good {lo : Nat} (x0 : State) (h0 : Sane lo x0) : Good lo (execClassRestore x0) := by
  unfold execClassRestore
  dsimp only
  repeat' (first
    | (with_reducible assumption) | (simp only [sane_mk, sane_iff]) | (intro _) | (with_reducible apply foldl_wf)
    | (with_reducible apply foldl_wf2) | (with_reducible apply foldl_wf3) | (with_reducible apply State_markWg_wf)
    | (with_reducible apply ite_wf) | (with_reducible apply good_next) | split)

theorem State_forcedShed_wf {lo : Nat} (s t : State) (k : Nat) (w : Wave) (h : Sane lo s) (he : s.forcedShed k w = some t) : Sane lo t := by
  unfold State.forcedShed at he
  repeat' split at he
  all_goals first | (cases he; done) | (cases he; simp [h])

@[simp] theorem execForcedShedStart_good {lo : Nat} (k : Nat) (s : State) (h : Sane lo s) : Good lo (execForcedShedStart k s) := by
  unfold execForcedShedStart
  repeat' split
  · exact good_next h
  · rename_i w _ _
    cases he : s.forcedShed k w with
    | none => simpa [he] using good_next h
    | some t => simpa [he] using State_forcedShed_wf _ _ _ _ h he
  · exact good_next h

@[simp] theorem execShedInstructionLimit_good {lo : Nat} (k : Nat) (s : State) (h : Sane lo s) : Good lo (execShedInstructionLimit k s) := by
  unfold execShedInstructionLimit
  repeat' split
  · exact good_next h
  · rename_i w _ _
    cases he : s.forcedShed k w with
    | none => simpa [he] using State_shedWave_wf _ _ h
    | some t => simpa [he] using State_forcedShed_wf _ _ _ _ h he
  · exact good_next h

@[simp] theorem State_ballast_wf {lo : Nat} (x0 : State) (h0 : Sane lo x0) : Sane lo (State.ballast x0) := by
  unfold State.ballast
  exact h0

@[simp] theorem execAllowanceEpoch_good {lo : Nat} (x0 : State) (h0 : Sane lo x0) : Good lo (execAllowanceEpoch x0) := by
  unfold execAllowanceEpoch
  split <;> simp [*]

@[simp] theorem execBallastOvercapLimit_good {lo : Nat} (x0 : State) (h0 : Sane lo x0) : Good lo (execBallastOvercapLimit x0)
    := by
  unfold execBallastOvercapLimit
  repeat' (first
    | assumption | (simp only [sane_mk, sane_iff]) | (exact foldl_wf _ _ _ (by assumption) (by intros; simp [*]))
    | (simp [*]; done) | split)

@[simp] theorem execClkpatWrite_good {lo : Nat} (x0 : Nat) (x1 : BitVec 16) (x2 : State) (h2 : Sane lo x2) : Good lo
    (execClkpatWrite x0 x1 x2) := by
  unfold execClkpatWrite
  split <;> simp [*]

@[simp] theorem State_applyPatterns_wf {lo : Nat} (x0 : State) (h0 : Sane lo x0) : Sane lo (State.applyPatterns x0) := by
  simp [State.applyPatterns, *]

@[simp] theorem execClkpatApply_good {lo : Nat} (x0 : State) (h0 : Sane lo x0) : Good lo (execClkpatApply x0) := by
  simp [execClkpatApply, *]

@[simp] theorem State_takeWave_wf {lo : Nat} (x0 : State) (x1 : Nat) (h0 : Sane lo x0) : Sane lo (State.takeWave x0 x1) := by
  unfold State.takeWave
  try dsimp only
  repeat' (first
    | (with_reducible assumption) | (simp only [sane_mk, sane_iff]) | (intro _) | (with_reducible apply foldl_wf) |
    (with_reducible apply foldl_wf2) | (with_reducible apply foldl_wf3) | (with_reducible apply State_setWaveAt_wf) |
    (with_reducible apply State_dropEntry_wf) | (with_reducible apply ite_wf) | split)

@[simp] theorem State_requestWave_wf {lo : Nat} (x0 : State) (x1 : Nat) (h0 : Sane lo x0) : Sane lo (State.requestWave x0 x1)
    := by
  unfold State.requestWave
  try dsimp only
  repeat' (first
    | (with_reducible assumption) | (simp only [sane_mk, sane_iff]) | (intro _) | (with_reducible apply foldl_wf) |
    (with_reducible apply foldl_wf2) | (with_reducible apply foldl_wf3) | (with_reducible apply State_endWait_wf) |
    (with_reducible apply State_setWaveAt_wf) | (with_reducible apply State_takeWave_wf) | (with_reducible apply ite_wf) |
    split)

@[simp] theorem State_preempt_wf {lo : Nat} (x0 : State) (x1 : Nat) (h0 : Sane lo x0) : Sane lo (State.preempt x0 x1).2 := by
  unfold State.preempt
  dsimp only
  repeat' (first
    | (with_reducible assumption) | (simp only [sane_mk, sane_iff]) | (intro _) | (with_reducible apply foldl_wf)
    | (with_reducible apply foldl_wf2) | (with_reducible apply foldl_wf3) | (with_reducible apply State_modCtxAt_wf)
    | (with_reducible apply State_setWgAt_wf) | (with_reducible apply State_requestWave_wf) | (with_reducible apply ite_wf)
    | (with_reducible apply good_next) | split)

@[simp] theorem execPreemptionRequest_good {lo : Nat} (x0 : Nat) (x1 : State) (h1 : Sane lo x1) : Good lo
    (execPreemptionRequest x0 x1) := by
  unfold execPreemptionRequest
  split <;> simp [*]

@[simp] theorem execPreemptInstructionLimit_good {lo : Nat} (x0 : Nat) (x1 : State) (h1 : Sane lo x1) : Good lo
    (execPreemptInstructionLimit x0 x1) := by
  unfold execPreemptInstructionLimit
  try dsimp only
  repeat' (first
    | (with_reducible assumption) | (simp only [sane_mk, sane_iff]) | (intro _) | (with_reducible apply foldl_wf) |
    (with_reducible apply foldl_wf2) | (with_reducible apply foldl_wf3) | (with_reducible apply State_takeWave_wf) |
    (with_reducible apply State_setWaveAt_wf) | (with_reducible apply ite_wf) | (with_reducible apply good_next) | split)

@[simp] theorem State_applyCycEff_wf {lo : Nat} (x0 : State) (x1 : CycEff) (h0 : Sane lo x0) : Sane lo (State.applyCycEff x0
    x1) := by
  unfold State.applyCycEff
  try dsimp only
  repeat' (first
    | (with_reducible assumption) | (simp only [sane_mk, sane_iff]) | (intro _) | (with_reducible apply foldl_wf) |
    (with_reducible apply foldl_wf2) | (with_reducible apply foldl_wf3) | (with_reducible apply State_modWgAt_wf) |
    (with_reducible apply State_modWaveAt_wf) | (with_reducible apply State_modCtxAt_wf) | (with_reducible apply
    State_reap_wf) | (with_reducible apply ite_wf) | split)

@[simp] theorem State_applyCycEffs_wf {lo : Nat} (x0 : State) (x1 : List CycEff) (h0 : Sane lo x0) : Sane lo
    (State.applyCycEffs x0 x1) := by
  unfold State.applyCycEffs
  try dsimp only
  repeat' (first
    | (with_reducible assumption) | (simp only [sane_mk, sane_iff]) | (intro _) | (with_reducible apply foldl_wf) |
    (with_reducible apply foldl_wf2) | (with_reducible apply foldl_wf3) | (with_reducible apply State_applyCycEff_wf) |
    (with_reducible apply ite_wf) | split)

@[simp] theorem State_settleWg_wf {lo : Nat} (x0 : State) (x1 : Nat) (h0 : Sane lo x0) : Sane lo (State.settleWg x0 x1) := by
  simp [State.settleWg, *]

@[simp] theorem State_quiesce_wf {lo : Nat} (x0 : State) (x1 : Nat) (h0 : Sane lo x0) : Sane lo (State.quiesce x0 x1) := by
  unfold State.quiesce
  try dsimp only
  repeat' (first
    | (with_reducible assumption) | (simp only [sane_mk, sane_iff]) | (intro _) | (with_reducible apply foldl_wf) |
    (with_reducible apply foldl_wf2) | (with_reducible apply foldl_wf3) | (with_reducible apply State_flushPend_wf) |
    (with_reducible apply State_modWaveAt_wf) | (with_reducible apply State_drainFifo_wf) | (with_reducible apply
    State_releaseCaches_wf) | (with_reducible apply ite_wf) | split)

@[simp] theorem State_refuseSave_wf {lo : Nat} (x0 : State) (x1 : Nat) (h0 : Sane lo x0) : Sane lo (State.refuseSave x0 x1)
    := by
  unfold State.refuseSave
  try dsimp only
  repeat' (first
    | (with_reducible assumption) | (simp only [sane_mk, sane_iff]) | (intro _) | (with_reducible apply foldl_wf) |
    (with_reducible apply foldl_wf2) | (with_reducible apply foldl_wf3) | (with_reducible apply State_shedIfCut_wf) |
    (with_reducible apply State_modWaveAt_wf) | (with_reducible apply State_modWgAt_wf) | (with_reducible apply
    State_markWg_wf) | (with_reducible apply ite_wf) | split)

@[simp] theorem execWorkgroupSave_good {lo : Nat} (x0 : Nat) (x1 : State) (h1 : Sane lo x1) : Good lo (execWorkgroupSave x0
    x1) := by
  unfold execWorkgroupSave
  try dsimp only
  repeat' (first
    | (with_reducible assumption) | (simp only [sane_mk, sane_iff]) | (intro _) | (with_reducible apply foldl_wf) |
    (with_reducible apply foldl_wf2) | (with_reducible apply foldl_wf3) | (with_reducible apply State_settleWg_wf) |
    (with_reducible apply State_quiesce_wf) | (with_reducible apply State_refuseSave_wf) | (with_reducible apply
    State_modCtxAt_wf) | (with_reducible apply State_gatherHome_wf) | (with_reducible apply State_homeWrite_wf) |
    (with_reducible apply State_modWaveAt_wf) | (with_reducible apply State_setWgAt_wf) | (with_reducible apply
    State_suspendLocks_wf) | (with_reducible apply State_endActPre_wf) | (with_reducible apply ite_wf) | (with_reducible
    apply good_next) | split)

@[simp] theorem State_mchkWave_wf {lo : Nat} (x0 : State) (x1 : Nat) (x2 : Nat) (h0 : Sane lo x0) : Sane lo (State.mchkWave
    x0 x1 x2) := by
  simp [State.mchkWave, *]

@[simp] theorem State_restoreWave_wf {lo : Nat} (x0 : State) (x1 : Wg) (x2 : Grant) (x3 : Nat) (x4 : List Byte) (x5 : Nat)
    (x6 : Nat) (h0 : Sane lo x0) : Sane lo (State.restoreWave x0 x1 x2 x3 x4 x5 x6) := by
  unfold State.restoreWave
  try dsimp only
  repeat' (first
    | (with_reducible assumption) | (simp only [sane_mk, sane_iff]) | (intro _) | (with_reducible apply foldl_wf) |
    (with_reducible apply foldl_wf2) | (with_reducible apply foldl_wf3) | (with_reducible apply State_acquireCaches_wf) |
    (with_reducible apply State_setWaveAt_wf) | (with_reducible apply State_takeTrapAt_wf) | (with_reducible apply
    State_modWaveAt_wf) | (with_reducible apply State_shedIfCut_wf) | (with_reducible apply ite_wf) | split)

@[simp] theorem State_restoreOn_wf {lo : Nat} (x0 : State) (x1 : Nat) (x2 : Nat) (h0 : Sane lo x0) : Sane lo (State.restoreOn
    x0 x1 x2) := by
  unfold State.restoreOn
  try dsimp only
  repeat' (first
    | (with_reducible assumption) | (simp only [sane_mk, sane_iff]) | (intro _) | (with_reducible apply foldl_wf) |
    (with_reducible apply foldl_wf2) | (with_reducible apply foldl_wf3) | (with_reducible apply State_homeTouches_wf) |
    (with_reducible apply State_hubTouch_wf) | (with_reducible apply State_gatherHome_wf) | (with_reducible apply
    State_modCtxAt_wf) | (with_reducible apply State_mchkWave_wf) | (with_reducible apply State_gateLeave_wf) |
    (with_reducible apply State_setWgAt_wf) | (with_reducible apply State_restoreWave_wf) | (with_reducible apply
    State_completeCbars_wf) | (with_reducible apply State_markWg_wf) | (with_reducible apply State_resumeLocks_wf) |
    (with_reducible apply ite_wf) | split)

@[simp] theorem execWorkgroupRestore_good {lo : Nat} (x0 : Nat) (x1 : State) (h1 : Sane lo x1) : Good lo
    (execWorkgroupRestore x0 x1) := by
  unfold execWorkgroupRestore
  dsimp only
  repeat' (first
    | (with_reducible assumption) | (simp only [sane_mk, sane_iff]) | (intro _) | (with_reducible apply foldl_wf)
    | (with_reducible apply foldl_wf2) | (with_reducible apply foldl_wf3) | (with_reducible apply State_gateJoin_wf)
    | (with_reducible apply State_restoreOn_wf) | (with_reducible apply ite_wf) | (with_reducible apply good_next) | split)

@[simp] theorem State_setTickets_wf {lo : Nat} (x0 : State) (x1 : Nat) (x2 : Tickets) (h0 : Sane lo x0) : Sane lo
    (State.setTickets x0 x1 x2) := by
  unfold State.setTickets
  exact h0

@[simp] theorem State_moveWaits_wf {lo : Nat} (x0 : State) (x1 : Nat) (x2 : Ticket) (h0 : Sane lo x0) : Sane lo
    (State.moveWaits x0 x1 x2) := by
  unfold State.moveWaits
  try dsimp only
  repeat' (first
    | (with_reducible assumption) | (simp only [sane_mk, sane_iff]) | (intro _) | (with_reducible apply foldl_wf) |
    (with_reducible apply foldl_wf2) | (with_reducible apply foldl_wf3) | (with_reducible apply State_moveWait_wf) |
    (with_reducible apply ite_wf) | split)

@[simp] theorem State_markOut_wf {lo : Nat} (x0 : State) (x1 : Nat) (x2 : Ticket) (h0 : Sane lo x0) : Sane lo (State.markOut
    x0 x1 x2) := by
  simp [State.markOut, *]

@[simp] theorem State_dropPieces_wf {lo : Nat} (x0 : State) (x1 : Nat) (x2 : Ticket) (h0 : Sane lo x0) : Sane lo
    (State.dropPieces x0 x1 x2) := by
  unfold State.dropPieces
  exact h0

@[simp] theorem execAtinvDelivery_good {lo : Nat} (x0 : Nat) (x1 : Nat) (x2 : State) (h2 : Sane lo x2) : Good lo
    (execAtinvDelivery x0 x1 x2) := by
  unfold execAtinvDelivery
  try dsimp only
  repeat' (first
    | (with_reducible assumption) | (simp only [sane_mk, sane_iff]) | (intro _) | (with_reducible apply foldl_wf) |
    (with_reducible apply foldl_wf2) | (with_reducible apply foldl_wf3) | (with_reducible apply State_setTickets_wf) |
    (with_reducible apply State_moveWaits_wf) | (with_reducible apply State_markOut_wf) | (with_reducible apply
    State_dropPieces_wf) | (with_reducible apply ite_wf) | (with_reducible apply good_next) | split)

@[simp] theorem State_setAct_wf {lo : Nat} (x0 : State) (x1 : Nat) (x2 : Nat) (x3 : Nat) (h0 : Sane lo x0) : Sane lo
    (State.setAct x0 x1 x2 x3) := by
  unfold State.setAct
  exact h0

@[simp] theorem State_setOpnd_wf {lo : Nat} (x0 : State) (x1 : Nat) (x2 : Word64) (h0 : Sane lo x0) : Sane lo (State.setOpnd
    x0 x1 x2) := by
  unfold State.setOpnd
  exact h0

@[simp] theorem State_actTicket_wf {lo : Nat} (x0 : State) (x1 : Nat) (x2 : Nat) (x3 : Nat) (h0 : Sane lo x0) : Sane lo
    (State.actTicket x0 x1 x2 x3) := by
  unfold State.actTicket
  try dsimp only
  repeat' (first
    | (with_reducible assumption) | (simp only [sane_mk, sane_iff]) | (intro _) | (with_reducible apply foldl_wf) |
    (with_reducible apply foldl_wf2) | (with_reducible apply foldl_wf3) | (with_reducible apply State_newTicket_wf) |
    (with_reducible apply State_setAct_wf) | (with_reducible apply State_setOpnd_wf) | (with_reducible apply ite_wf) | split)

@[simp] theorem State_settleInv_wf {lo : Nat} (x0 : State) (h0 : Sane lo x0) : Sane lo (State.settleInv x0) := by
  unfold State.settleInv
  try dsimp only
  repeat' (first
    | (with_reducible assumption) | (simp only [sane_mk, sane_iff]) | (intro _) | (with_reducible apply foldl_wf) |
    (with_reducible apply foldl_wf2) | (with_reducible apply foldl_wf3) | (with_reducible apply State_actTicket_wf) |
    (with_reducible apply State_newTicket_wf) | (with_reducible apply ite_wf) | split)

@[simp] theorem State_settleSync_wf {lo : Nat} (x0 : State) (h0 : Sane lo x0) : Sane lo (State.settleSync x0) := by
  unfold State.settleSync
  split <;> simp [*]

@[simp] theorem State_flushAll_wf {lo : Nat} (x0 : State) (h0 : Sane lo x0) : Sane lo (State.flushAll x0) := by
  simp [State.flushAll, *]

@[simp] theorem execAtinvAcknowledge_good {lo : Nat} (x0 : Nat) (x1 : Nat) (x2 : State) (h2 : Sane lo x2) : Good lo
    (execAtinvAcknowledge x0 x1 x2) := by
  unfold execAtinvAcknowledge
  try dsimp only
  repeat' (first
    | (with_reducible assumption) | (simp only [sane_mk, sane_iff]) | (intro _) | (with_reducible apply foldl_wf) |
    (with_reducible apply foldl_wf2) | (with_reducible apply foldl_wf3) | (with_reducible apply State_settleInv_wf) |
    (with_reducible apply State_settleSync_wf) | (with_reducible apply State_setTickets_wf) | (with_reducible apply
    State_flushAll_wf) | (with_reducible apply ite_wf) | (with_reducible apply good_next) | split)

@[simp] theorem execTimewExpire_good {lo : Nat} (x0 : Nat) (x1 : State) (h1 : Sane lo x1) : Good lo (execTimewExpire x0 x1)
    := by
  unfold execTimewExpire
  dsimp only
  repeat' (first
    | (with_reducible assumption) | (simp only [sane_mk, sane_iff]) | (intro _) | (with_reducible apply foldl_wf)
    | (with_reducible apply foldl_wf2) | (with_reducible apply foldl_wf3) | (with_reducible apply State_writeScal_wf)
    | (with_reducible apply State_modWaveAt_wf) | (with_reducible apply ite_wf) | (with_reducible apply good_next) | split)

@[simp] theorem State_setCsctl_wf {lo : Nat} (x0 : State) (x1 : Nat) (x2 : CsCtl) (h0 : Sane lo x0) : Sane lo (State.setCsctl
    x0 x1 x2) := by
  unfold State.setCsctl
  exact h0

@[simp] theorem execCsctlWrite_good {lo : Nat} (x0 : Nat) (x1 : BitVec 64) (x2 : State) (h2 : Sane lo x2) : Good lo
    (execCsctlWrite x0 x1 x2) := by
  unfold execCsctlWrite
  dsimp only
  repeat' (first
    | (with_reducible assumption) | (simp only [sane_mk, sane_iff]) | (intro _) | (with_reducible apply foldl_wf)
    | (with_reducible apply foldl_wf2) | (with_reducible apply foldl_wf3) | (with_reducible apply State_setCsctl_wf)
    | (with_reducible apply ite_wf) | (with_reducible apply good_next) | split)

@[simp] theorem State_carve_wf {lo : Nat} (x0 : State) (x1 : Nat) (x2 : CsCtl) (h0 : Sane lo x0) : Sane lo (State.carve x0 x1
    x2) := by
  unfold State.carve
  exact h0

@[simp] theorem State_narrowL2_wf {lo : Nat} (x0 : State) (x1 : Nat) (x2 : Nat) (h0 : Sane lo x0) : Sane lo (State.narrowL2
    x0 x1 x2) := by
  unfold State.narrowL2
  try dsimp only
  repeat' (first
    | (with_reducible assumption) | (simp only [sane_mk, sane_iff]) | (intro _) | (with_reducible apply foldl_wf) |
    (with_reducible apply foldl_wf2) | (with_reducible apply foldl_wf3) | (with_reducible apply State_evictL2_wf) |
    (with_reducible apply ite_wf) | split)

@[simp] theorem execCsctlChangeComplete_good {lo : Nat} (x0 : Nat) (x1 : State) (h1 : Sane lo x1) : Good lo
    (execCsctlChangeComplete x0 x1) := by
  unfold execCsctlChangeComplete
  try dsimp only
  repeat' (first
    | (with_reducible assumption) | (simp only [sane_mk, sane_iff]) | (intro _) | (with_reducible apply foldl_wf) |
    (with_reducible apply foldl_wf2) | (with_reducible apply foldl_wf3) | (with_reducible apply State_setCsctl_wf) |
    (with_reducible apply State_carve_wf) | (with_reducible apply State_narrowL2_wf) | (with_reducible apply ite_wf) |
    (with_reducible apply good_next) | split)

@[simp] theorem State_dropIncrements_wf {lo : Nat} (x0 : State) (x1 : Bool) (x2 : Nat) (x3 : Nat) (h0 : Sane lo x0) : Sane lo
    (State.dropIncrements x0 x1 x2 x3) := by
  simp [State.dropIncrements, *]

@[simp] theorem execSemcfgWrite_good {lo : Nat} (x0 : Bool) (x1 : Nat) (x2 : BitVec 64) (x3 : State) (h3 : Sane lo x3) : Good
    lo (execSemcfgWrite x0 x1 x2 x3) := by
  unfold execSemcfgWrite
  repeat' (first
    | assumption | (simp only [sane_mk, sane_iff]) | (exact foldl_wf _ _ _ (by assumption) (by intros; simp [*]))
    | (simp [*]; done) | (simp [*] at *; done) | split)

theorem State_physRead_wf {lo : Nat} (s t : State) (pa n : Nat) (b : List Byte) (h : Sane lo s) (he : s.physRead pa n = some (b, t)) :
    Sane lo t := by
  unfold State.physRead at he
  dsimp only at he
  split at he
  · cases he
  · cases he; exact State_homeTouches_wf _ _ (State_gatherHome_wf _ _ h)

@[simp] theorem State_activate_wf {lo : Nat} (x0 : State) (x1 : Nat) (x2 : Nat) (h0 : Sane lo x0) : Sane lo (State.activate x0 x1 x2) := by
  unfold State.activate
  dsimp only
  split
  · exact State_setCtxAt_wf _ _ _ h0
  · rename_i he
    have ht := State_physRead_wf _ _ _ _ _ h0 he
    repeat' split
    all_goals exact State_setCtxAt_wf _ _ _ ht

@[simp] theorem execContextActivate_good {lo : Nat} (x0 : Nat) (x1 : BitVec 64) (x2 : State) (h2 : Sane lo x2) : Good lo
    (execContextActivate x0 x1 x2) := by
  unfold execContextActivate
  repeat' (first
    | assumption | (simp only [sane_mk, sane_iff]) | (exact foldl_wf _ _ _ (by assumption) (by intros; simp [*]))
    | (simp [*]; done) | (simp [*] at *; done) | split)

@[simp] theorem State_zeroSems_wf {lo : Nat} (x0 : State) (x1 : Nat) (h0 : Sane lo x0) : Sane lo (State.zeroSems x0 x1) := by
  simp [State.zeroSems, *]

@[simp] theorem State_endHoldings_wf {lo : Nat} (x0 : State) (x1 : Nat) (h0 : Sane lo x0) : Sane lo (State.endHoldings x0 x1)
    := by
  unfold State.endHoldings
  refine foldl_wf _ _ _ (by simp [*]) ?_; intros; simp [*]

@[simp] theorem State_endCommands_wf {lo : Nat} (x0 : State) (x1 : Nat) (h0 : Sane lo x0) : Sane lo (State.endCommands x0 x1)
    := by
  unfold State.endCommands
  dsimp only
  repeat' (first
    | (with_reducible assumption) | (simp only [sane_mk, sane_iff]) | (intro _) | (with_reducible apply foldl_wf)
    | (with_reducible apply foldl_wf2) | (with_reducible apply foldl_wf3) | (with_reducible apply State_gateLeave_wf)
    | (with_reducible apply State_endLease_wf) | (with_reducible apply ite_wf) | (with_reducible apply good_next) | split)

@[simp] theorem State_gateLeaveAll_wf {lo : Nat} (x0 : State) (x1 : Nat) (h0 : Sane lo x0) : Sane lo (State.gateLeaveAll x0
    x1) := by
  simp [State.gateLeaveAll, *]

@[simp] theorem State_endWaves_wf {lo : Nat} (x0 : State) (x1 : Nat) (h0 : Sane lo x0) : Sane lo (State.endWaves x0 x1) := by
  unfold State.endWaves
  repeat' (first
    | assumption | (simp only [sane_mk, sane_iff]) | (exact foldl_wf _ _ _ (by assumption) (by intros; simp [*]))
    | (simp [*]; done) | (simp [*] at *; done) | split | (intro _) | (refine foldl_wf _ _ _ ?_ ?_))

@[simp] theorem State_killContext_wf {lo : Nat} (x0 : State) (x1 : Nat) (h0 : Sane lo x0) : Sane lo (State.killContext x0 x1)
    := by
  unfold State.killContext
  try dsimp only
  repeat' (first
    | (with_reducible assumption) | (simp only [sane_mk, sane_iff]) | (intro _) | (with_reducible apply foldl_wf) |
    (with_reducible apply foldl_wf2) | (with_reducible apply foldl_wf3) | (with_reducible apply State_setCtxAt_wf) |
    (with_reducible apply State_zeroSems_wf) | (with_reducible apply State_endHoldings_wf) | (with_reducible apply
    State_endCommands_wf) | (with_reducible apply State_endWaves_wf) | (with_reducible apply ite_wf) | split)

@[simp] theorem execContextKill_good {lo : Nat} (x0 : CtxdescWrite) (x1 : State) (h1 : Sane lo x1) : Good lo
    (execContextKill x0 x1) := by
  unfold execContextKill
  try dsimp only
  repeat' (first
    | (with_reducible assumption) | (simp only [sane_mk, sane_iff]) | (intro _) | (with_reducible apply foldl_wf) |
    (with_reducible apply foldl_wf2) | (with_reducible apply foldl_wf3) | (with_reducible apply State_killContext_wf) |
    (with_reducible apply State_modCtxAt_wf) | (with_reducible apply ite_wf) | (with_reducible apply good_next) | split)

@[simp] theorem State_coldState_wf {lo : Nat} (s : State) (l : BitVec 2) (c : BitVec 16) (q : BitVec 4) (h : Sane lo s) :
    Sane lo (s.coldState l c q) := ⟨rfl, h.2⟩

@[simp] theorem State_warmState_wf {lo : Nat} (s : State) (h : Sane lo s) : Sane lo s.warmState := ⟨h.1, h.2⟩

@[simp] theorem execWarmStart_good {lo : Nat} (x0 : Bool) (x1 : BitVec 16) (x2 : BitVec 4) (x3 : State) (h3 : Sane lo x3) :
    Good lo (execWarmStart x0 x1 x2 x3) := by
  unfold execWarmStart
  split <;> simp [*]

@[simp] theorem execColdStart_good {lo : Nat} (x0 : BitVec 16) (x1 : BitVec 4) (x2 : State) (h2 : Sane lo x2) : Good lo
    (execColdStart x0 x1 x2) := by
  simp [execColdStart, *]

@[simp] theorem execPowerOn_good {lo : Nat} (x0 : BitVec 16) (x1 : BitVec 4) (x2 : State) (h2 : Sane lo x2) : Good lo
    (execPowerOn x0 x1 x2) := by
  simp [execPowerOn, *]

@[simp] theorem State_mchkAll_wf {lo : Nat} (x0 : State) (x1 : Wave → Bool) (x2 : Nat) (h0 : Sane lo x0) : Sane lo
    (State.mchkAll x0 x1 x2) := by
  unfold State.mchkAll
  refine foldl_wf _ _ _ (by simp [*]) ?_; intros; simp [*]

@[simp] theorem State_failDie_wf {lo : Nat} (x0 : State) (x1 : Nat) (h0 : Sane lo x0) : Sane lo (State.failDie x0 x1) := by
  simp [State.failDie, *]

@[simp] theorem execDieDisable_good {lo : Nat} (x0 : Nat) (x1 : State) (h1 : Sane lo x1) : Good lo (execDieDisable x0 x1) :=
    by
  unfold execDieDisable
  split <;> simp [*]

@[simp] theorem execDieFailure_good {lo : Nat} (x0 : Nat) (x1 : State) (h1 : Sane lo x1) : Good lo (execDieFailure x0 x1) :=
    by
  unfold execDieFailure
  split <;> simp [*]

@[simp] theorem State_restToken_wf {lo : Nat} (x0 : State) (x1 : Nat) (h0 : Sane lo x0) : Sane lo (State.restToken x0 x1).2
    := by
  unfold State.restToken
  exact h0

@[simp] theorem State_scratchError_wf {lo : Nat} (x0 : State) (x1 : Nat) (x2 : Nat) (h0 : Sane lo x0) : Sane lo
    (State.scratchError x0 x1 x2) := by
  unfold State.scratchError
  split <;> simp [*]

@[simp] theorem State_tileError_wf {lo : Nat} (x0 : State) (x1 : Nat) (x2 : Nat) (x3 : Nat) (h0 : Sane lo x0) : Sane lo
    (State.tileError x0 x1 x2 x3) := by
  unfold State.tileError
  split <;> simp [*]

@[simp] theorem State_regToken_wf {lo : Nat} (x0 : State) (x1 : Nat) (x2 : Nat) (h0 : Sane lo x0) : Sane lo (State.regToken
    x0 x1 x2).2 := by
  unfold State.regToken
  exact h0

@[simp] theorem State_regError_wf {lo : Nat} (x0 : State) (x1 : Nat) (x2 : Nat) (x3 : Word32 → Wave → Wave) (h0 : Sane lo x0)
    : Sane lo (State.regError x0 x1 x2 x3) := by
  unfold State.regError
  split <;> simp [*]

@[simp] theorem State_uncorrected_wf {lo : Nat} (x0 : State) (x1 : ErrSite) (h0 : Sane lo x0) : Sane lo (State.uncorrected x0
    x1) := by
  unfold State.uncorrected
  try dsimp only
  repeat' (first
    | (with_reducible assumption) | (simp only [sane_mk, sane_iff]) | (intro _) | (with_reducible apply foldl_wf) |
    (with_reducible apply foldl_wf2) | (with_reducible apply foldl_wf3) | (with_reducible apply State_scratchError_wf) |
    (with_reducible apply State_tileError_wf) | (with_reducible apply State_regError_wf) | (with_reducible apply
    State_regToken_wf) | (with_reducible apply State_restToken_wf) | (with_reducible apply State_setWgAt_wf) |
    (with_reducible apply State_mchkWave_wf) | (with_reducible apply State_setCopy_wf) | (with_reducible apply
    State_collEnd_wf) | (with_reducible apply State_mchkAll_wf) | (with_reducible apply ite_wf) | split | (simp [*]; done))

@[simp] theorem execUncorrectedError_good {lo : Nat} (x0 : ErrSite) (x1 : State) (h1 : Sane lo x1) : Good lo
    (execUncorrectedError x0 x1) := by
  simp [execUncorrectedError, *]

@[simp] theorem execCorrectedError_good {lo : Nat} (x0 : Option Nat) (x1 : State) (h1 : Sane lo x1) : Good lo
    (execCorrectedError x0 x1) := by
  unfold execCorrectedError
  dsimp only
  repeat' (first
    | (with_reducible assumption) | (simp only [sane_mk, sane_iff]) | (intro _) | (with_reducible apply foldl_wf)
    | (with_reducible apply foldl_wf2) | (with_reducible apply foldl_wf3) | (with_reducible apply State_modCtxAt_wf)
    | (with_reducible apply ite_wf) | (with_reducible apply good_next) | split)

@[simp] theorem State_copyBack_wf {lo : Nat} (x0 : State) (x1 : Nat × Nat × Nat) (h0 : Sane lo x0) : Sane lo (State.copyBack x0 x1) := by
  unfold State.copyBack
  split
  · exact h0
  · rename_i he
    exact State_homeWrite_wf _ _ (State_gatherHome_wf _ _ (State_physRead_wf _ _ _ _ _ h0 he))

@[simp] theorem State_copyCheckpoint_wf {lo : Nat} (x0 : State) (x1 : Nat) (h0 : Sane lo x0) : Sane lo (State.copyCheckpoint x0 x1) := by
  unfold State.copyCheckpoint
  split
  · exact h0
  · rename_i he
    have ht := State_physRead_wf _ _ _ _ _ h0 he
    split
    · exact ht
    · refine foldl_wf _ _ _ ht fun s n h => ?_
      split
      · rename_i he
        exact State_copyBack_wf _ _ (State_physRead_wf _ _ _ _ _ h he)
      · exact h

@[simp] theorem State_reportFault_wf {lo : Nat} (x0 : State) (x1 : Nat) (x2 : Nat) (x3 : Nat) (h0 : Sane lo x0) : Sane lo
    (State.reportFault x0 x1 x2 x3) := by
  unfold State.reportFault
  split <;> simp [*]

@[simp] theorem State_contain_wf {lo : Nat} (x0 : State) (x1 : Nat) (h0 : Sane lo x0) : Sane lo (State.contain x0 x1) := by
  unfold State.contain
  try dsimp only
  repeat' (first
    | (with_reducible assumption) | (simp only [sane_mk, sane_iff]) | (intro _) | (with_reducible apply foldl_wf) |
    (with_reducible apply foldl_wf2) | (with_reducible apply foldl_wf3) | (with_reducible apply State_modCtxAt_wf) |
    (with_reducible apply State_endHoldings_wf) | (with_reducible apply State_endCommands_wf) | (with_reducible apply
    State_endWaves_wf) | (with_reducible apply ite_wf) | split)

@[simp] theorem execContextRecovery_good {lo : Nat} (x0 : Nat) (x1 : State) (h1 : Sane lo x1) : Good lo (execContextRecovery
    x0 x1) := by
  unfold execContextRecovery
  try dsimp only
  repeat' (first
    | (with_reducible assumption) | (simp only [sane_mk, sane_iff]) | (intro _) | (with_reducible apply foldl_wf) |
    (with_reducible apply foldl_wf2) | (with_reducible apply foldl_wf3) | (with_reducible apply State_modCtxAt_wf) |
    (with_reducible apply State_copyCheckpoint_wf) | (with_reducible apply State_reportFault_wf) | (with_reducible apply
    State_contain_wf) | (with_reducible apply State_semSignal_wf) | (with_reducible apply ite_wf) | (with_reducible apply
    good_next) | split)

@[simp] theorem execTadjRate_good {lo : Nat} (x0 : BitVec 32) (x1 : State) (h1 : Sane lo x1) : Good lo (execTadjRate x0 x1)
    := by
  simp [execTadjRate, *]

@[simp] theorem execTadjStep_good {lo : Nat} (v : BitVec 31) (s : State) (h : Sane lo s) :
    Good lo (execTadjStep v s) :=
  good_next ⟨h.1, Nat.le_trans h.2 (Nat.le_add_right _ _)⟩

@[simp] theorem execActPreempt_good {lo : Nat} (x0 : State) (h0 : Sane lo x0) : Good lo (execActPreempt x0) := by
  unfold execActPreempt
  repeat' (first
    | assumption | (simp only [sane_mk, sane_iff]) | (exact foldl_wf _ _ _ (by assumption) (by intros; simp [*]))
    | (simp [*]; done) | (simp [*] at *; done) | split)

@[simp] theorem State_actPark_wf {lo : Nat} (s : State) (n : Nat) (cmd : BitVec 64) (act : State → Nat → State) (h : Sane lo s)
    (ha : ∀ s k, Sane lo s → Sane lo (act s k)) : Sane lo (s.actPark n cmd act) := by
  unfold State.actPark
  split
  · simp [*]
  · split <;> simp [*]

@[simp] theorem execActPkres_good {lo : Nat} (c : BitVec 64) (s : State) (h : Sane lo s) : Good lo (execActPkres c s) :=
  good_next (State_actPark_wf _ _ _ _ h fun s k hs => State_resume_wf s k hs)

@[simp] theorem execActPkill_good {lo : Nat} (c : BitVec 64) (s : State) (h : Sane lo s) : Good lo (execActPkill c s) :=
  good_next (State_actPark_wf _ _ _ _ h fun s k hs => State_pkill_wf s k hs)

@[simp] theorem execActAtinv_good {lo : Nat} (x0 : State) (h0 : Sane lo x0) : Good lo (execActAtinv x0) := by
  unfold execActAtinv
  try dsimp only
  repeat' (first
    | (with_reducible assumption) | (simp only [sane_mk, sane_iff]) | (intro _) | (with_reducible apply foldl_wf) |
    (with_reducible apply foldl_wf2) | (with_reducible apply foldl_wf3) | (with_reducible apply State_setAct_wf) |
    (with_reducible apply State_actTicket_wf) | (with_reducible apply ite_wf) | (with_reducible apply good_next) | split)

@[simp] theorem execActAtsync_good {lo : Nat} (x0 : BitVec 64) (x1 : State) (h1 : Sane lo x1) : Good lo (execActAtsync x0 x1)
    := by
  unfold execActAtsync
  dsimp only
  repeat' (first
    | (with_reducible assumption) | (simp only [sane_mk, sane_iff]) | (intro _) | (with_reducible apply foldl_wf)
    | (with_reducible apply foldl_wf2) | (with_reducible apply foldl_wf3) | (with_reducible apply State_setAct_wf)
    | (with_reducible apply ite_wf) | (with_reducible apply good_next) | split)

@[simp] theorem execActEnergyCredit_good {lo : Nat} (x0 : BitVec 64) (x1 : State) (h1 : Sane lo x1) : Good lo
    (execActEnergyCredit x0 x1) := by
  unfold execActEnergyCredit
  dsimp only
  repeat' (first
    | (with_reducible assumption) | (simp only [sane_mk, sane_iff]) | (intro _) | (with_reducible apply foldl_wf)
    | (with_reducible apply foldl_wf2) | (with_reducible apply foldl_wf3) | (with_reducible apply State_setAct_wf)
    | (with_reducible apply State_modCtxAt_wf) | (with_reducible apply ite_wf) | (with_reducible apply good_next) | split)

@[simp] theorem State_poolAction_wf {lo : Nat} (x0 : State) (x1 : BitVec 64) (x2 : Bool) (h0 : Sane lo x0) : Sane lo
    (State.poolAction x0 x1 x2) := by
  unfold State.poolAction
  dsimp only
  repeat' (first
    | (with_reducible assumption) | (simp only [sane_mk, sane_iff]) | (intro _) | (with_reducible apply foldl_wf)
    | (with_reducible apply foldl_wf2) | (with_reducible apply foldl_wf3) | (with_reducible apply State_setAct_wf)
    | (with_reducible apply State_setCtxAt_wf) | (with_reducible apply ite_wf) | split)

@[simp] theorem execActPoolFrameReturn_good {lo : Nat} (x0 : BitVec 64) (x1 : State) (h1 : Sane lo x1) : Good lo
    (execActPoolFrameReturn x0 x1) := by
  unfold execActPoolFrameReturn
  split <;> simp [*]

@[simp] theorem execActPoolFrameMarkInUse_good {lo : Nat} (x0 : BitVec 64) (x1 : State) (h1 : Sane lo x1) : Good lo
    (execActPoolFrameMarkInUse x0 x1) := by
  unfold execActPoolFrameMarkInUse
  split <;> simp [*]

@[simp] theorem execActBreakpoint_good {lo : Nat} (x0 : BitVec 64) (x1 : State) (h1 : Sane lo x1) : Good lo
    (execActBreakpoint x0 x1) := by
  unfold execActBreakpoint
  dsimp only
  repeat' (first
    | (with_reducible assumption) | (simp only [sane_mk, sane_iff]) | (intro _) | (with_reducible apply foldl_wf)
    | (with_reducible apply foldl_wf2) | (with_reducible apply foldl_wf3) | (with_reducible apply State_setAct_wf)
    | (with_reducible apply State_setCtxAt_wf) | (with_reducible apply ite_wf) | (with_reducible apply good_next) | split)

@[simp] theorem execAttestationReport_good {lo : Nat} (x0 : List Byte) (x1 : State) (h1 : Sane lo x1) : Good lo
    (execAttestationReport x0 x1) := by
  unfold execAttestationReport
  split <;> simp [*]

@[simp] theorem State_mgmtWrite_wf {lo : Nat} (x0 : State) (x1 : Word64) (x2 : MgmtReg) (h0 : Sane lo x0) : Sane lo
    (State.mgmtWrite x0 x1 x2) := by
  unfold State.mgmtWrite
  split <;> simp [*]

@[simp] theorem execMgmtRegisterWrite_good {lo : Nat} (x0 : MgmtReg) (x1 : BitVec 64) (x2 : State) (h2 : Sane lo x2) : Good
    lo (execMgmtRegisterWrite x0 x1 x2) := by
  simp [execMgmtRegisterWrite, *]

@[simp] theorem State_hartRaise_wf {lo : Nat} (x0 : State) (x1 : Nat) (x2 : HartExc) (h0 : Sane lo x0) : Sane lo
    (State.hartRaise x0 x1 x2) := by
  simp [State.hartRaise, *]

@[simp] theorem execGctxWrite_good {lo : Nat} (x0 : Nat) (x1 : BitVec 64) (x2 : State) (h2 : Sane lo x2) : Good lo
    (execGctxWrite x0 x1 x2) := by
  unfold execGctxWrite
  try dsimp only
  repeat' (first
    | (with_reducible assumption) | (simp only [sane_mk, sane_iff]) | (intro _) | (with_reducible apply foldl_wf) |
    (with_reducible apply foldl_wf2) | (with_reducible apply foldl_wf3) | (with_reducible apply State_hartRaise_wf) |
    (with_reducible apply ite_wf) | (with_reducible apply good_next) | split)

@[simp] theorem State_hartLoaded_wf {lo : Nat} (x0 : State) (x1 : Nat) (x2 : List Byte) (h0 : Sane lo x0) : Sane lo
    (State.hartLoaded x0 x1 x2) := by
  simp [State.hartLoaded, *]

@[simp] theorem State_makeDefault_wf {lo : Nat} (x0 : State) (x1 : Nat) (x2 : Nat) (h0 : Sane lo x0) : Sane lo
    (State.makeDefault x0 x1 x2) := by
  simp [State.makeDefault, *]

@[simp] theorem State_grantObj_wf {lo : Nat} (x0 : State) (x1 : Nat) (x2 : Nat) (x3 : Mesi) (h0 : Sane lo x0) : Sane lo
    (State.grantObj x0 x1 x2 x3) := by
  unfold State.grantObj
  split <;> simp [*]

@[simp] theorem State_grantRead_wf {lo : Nat} (x0 : State) (x1 : Nat) (x2 : CohObj) (x3 : Nat) (h0 : Sane lo x0) : Sane lo
    (State.grantRead x0 x1 x2 x3) := by
  unfold State.grantRead
  split <;> simp [*]

@[simp] theorem State_fetchLine_wf {lo : Nat} (x0 : State) (x1 : Nat) (x2 : Nat) (x3 : Mesi) (h0 : Sane lo x0) : Sane lo
    (State.fetchLine x0 x1 x2 x3).2 := by
  unfold State.fetchLine
  split <;> simp [*]

@[simp] theorem State_grantWrite_wf {lo : Nat} (x0 : State) (x1 : Nat) (x2 : CohObj) (x3 : Nat) (h0 : Sane lo x0) : Sane lo
    (State.grantWrite x0 x1 x2 x3) := by
  unfold State.grantWrite
  split <;> simp [*]

@[simp] theorem State_setLine_wf {lo : Nat} (x0 : State) (x1 : Nat) (x2 : Nat) (x3 : HLine) (h0 : Sane lo x0) : Sane lo
    (State.setLine x0 x1 x2 x3) := by
  unfold State.setLine
  exact h0

@[simp] theorem State_hartAccess_wf {lo : Nat} (x0 : State) (x1 : Nat) (x2 : Nat) (x3 : Nat) (x4 : Option (List Byte)) (h0 :
    Sane lo x0) : Sane lo (State.hartAccess x0 x1 x2 x3 x4) := by
  unfold State.hartAccess
  try dsimp only
  repeat' (first
    | (with_reducible assumption) | (simp only [sane_mk, sane_iff]) | (intro _) | (with_reducible apply foldl_wf) |
    (with_reducible apply foldl_wf2) | (with_reducible apply foldl_wf3) | (with_reducible apply State_makeDefault_wf) |
    (with_reducible apply State_grantRead_wf) | (with_reducible apply State_fetchLine_wf) | (with_reducible apply
    State_hartLoaded_wf) | (with_reducible apply State_grantWrite_wf) | (with_reducible apply State_setLine_wf) |
    (with_reducible apply State_retestValues_wf) | (with_reducible apply ite_wf) | split)

@[simp] theorem execHartCoherentAccess_good {lo : Nat} (x0 : Nat) (x1 : Nat) (x2 : Nat) (x3 : Option (List Byte)) (x4 :
    State) (h4 : Sane lo x4) : Good lo (execHartCoherentAccess x0 x1 x2 x3 x4) := by
  unfold execHartCoherentAccess
  try dsimp only
  repeat' (first
    | (with_reducible assumption) | (simp only [sane_mk, sane_iff]) | (intro _) | (with_reducible apply foldl_wf) |
    (with_reducible apply foldl_wf2) | (with_reducible apply foldl_wf3) | (with_reducible apply State_homeWrite_wf) |
    (with_reducible apply State_hartLoaded_wf) | (with_reducible apply State_hartRaise_wf) | (with_reducible apply
    State_hartAccess_wf) | (with_reducible apply ite_wf) | (with_reducible apply good_next) | split)

@[simp] theorem State_hartProbe_wf {lo : Nat} (x0 : State) (x1 : Nat) (x2 : CohObj) (x3 : Nat) (x4 : Bool) (h0 : Sane lo x0)
    : Sane lo (State.hartProbe x0 x1 x2 x3 x4) := by
  unfold State.hartProbe
  refine foldl_wf _ _ _ (by simp [*]) ?_; intros; simp [*]

@[simp] theorem execCoherenceProbe_good {lo : Nat} (x0 : Nat) (x1 : Nat) (x2 : BitVec 16) (x3 : Bool) (x4 : State) (h4 : Sane
    lo x4) : Good lo (execCoherenceProbe x0 x1 x2 x3 x4) := by
  unfold execCoherenceProbe
  repeat' (first
    | assumption | (simp only [sane_mk, sane_iff]) | (exact foldl_wf _ _ _ (by assumption) (by intros; simp [*]))
    | (simp [*]; done) | split)

@[simp] theorem execObjectEvictRelease_good {lo : Nat} (x0 : Nat) (x1 : Nat) (x2 : State) (h2 : Sane lo x2) : Good lo
    (execObjectEvictRelease x0 x1 x2) := by
  unfold execObjectEvictRelease
  split <;> simp [*]

@[simp] theorem State_homePut_wf {lo : Nat} (x0 : State) (x1 : Nat) (x2 : List Byte) (h0 : Sane lo x0) : Sane lo
    (State.homePut x0 x1 x2) := by
  simp [State.homePut, *]

@[simp] theorem State_ethReturn_wf {lo : Nat} (x0 : State) (x1 : Nat) (x2 : Nat) (x3 : Bool) (h0 : Sane lo x0) : Sane lo
    (State.ethReturn x0 x1 x2 x3) := by
  simp [State.ethReturn, *]

@[simp] theorem State_framePut_wf {lo : Nat} (x0 : State) (x1 : Nat) (x2 : List Byte) (h0 : Sane lo x0) : Sane lo
    (State.framePut x0 x1 x2) := by
  simp [State.framePut, *]

theorem State_ethPlace_wf {lo : Nat} (s s' : State) (key n : Nat) (data : List Byte) (h : Sane lo s)
    (he : s.ethPlace key n data = some s') : Sane lo s' := by
  induction n generalizing s data with
  | zero => cases he
  | succ n ih =>
    unfold State.ethPlace at he
    dsimp only at he
    repeat' split at he
    · cases he
    · cases he
    · cases he; simp [h]
    · exact ih _ _ (by simp [h]) he

@[simp] theorem execEthernetReceive_good {lo : Nat} (port queue : Nat) (data : List Byte) (s : State) (h : Sane lo s) :
    Good lo (execEthernetReceive port queue data s) := by
  unfold execEthernetReceive
  split
  · exact good_next h
  · refine good_next ?_
    cases he : s.ethPlace (ethKey port false queue) data.length data with
    | none => exact h
    | some s' => exact State_ethPlace_wf _ _ _ _ _ h he

theorem State_ethTake_wf {lo : Nat} (s s' : State) (key n : Nat) (acc l : List Byte) (h : Sane lo s)
    (he : s.ethTake key n acc = some (l, s')) : Sane lo s' := by
  induction n generalizing s acc with
  | zero => cases he
  | succ n ih =>
    unfold State.ethTake at he
    dsimp only at he
    repeat' split at he
    · cases he
    · cases he
    · cases he; simp [h]
    · exact ih _ _ (by simp [h]) he

@[simp] theorem execEthernetTransmit_good {lo : Nat} (port queue : Nat) (s : State) (h : Sane lo s) :
    Good lo (execEthernetTransmit port queue s) := by
  unfold execEthernetTransmit
  dsimp only
  split
  · exact good_next h
  · rename_i he
    have := State_ethTake_wf _ _ _ _ _ _ h he
    split <;> exact good_next (by first | exact h | exact this)

@[simp] theorem State_reply_wf {lo : Nat} (x0 : State) (x1 : List Byte) (h0 : Sane lo x0) : Sane lo (State.reply x0 x1) := by
  unfold State.reply
  exact h0

@[simp] theorem State_remoteServe_wf {lo : Nat} (x0 : State) (x1 : Nat) (x2 : RemoteOp) (h0 : Sane lo x0) : Sane lo
    (State.remoteServe x0 x1 x2) := by
  unfold State.remoteServe
  try dsimp only
  repeat' (first
    | (with_reducible assumption) | (simp only [sane_mk, sane_iff]) | (intro _) | (with_reducible apply foldl_wf) |
    (with_reducible apply foldl_wf2) | (with_reducible apply foldl_wf3) | (with_reducible apply State_reply_wf) |
    (with_reducible apply State_homeTouches_wf) | (with_reducible apply State_homePut_wf) | (with_reducible apply ite_wf) |
    split)

@[simp] theorem execRemoteAccessIncoming_good {lo : Nat} (x0 : Nat) (x1 : RemoteOp) (x2 : State) (h2 : Sane lo x2) : Good lo
    (execRemoteAccessIncoming x0 x1 x2) := by
  unfold execRemoteAccessIncoming
  split <;> simp [*]

@[simp] theorem State_failLanes_wf {lo : Nat} (x0 : State) (x1 : Nat) (x2 : Nat) (x3 : Pend) (x4 : List (Nat × BitVec 8 ×
    Nat)) (h0 : Sane lo x0) : Sane lo (State.failLanes x0 x1 x2 x3 x4) := by
  simp [State.failLanes, *]

@[simp] theorem State_failLoad_wf {lo : Nat} (x0 : State) (x1 : Nat) (x2 : Nat) (x3 : Lanes) (h0 : Sane lo x0) : Sane lo
    (State.failLoad x0 x1 x2 x3) := by
  unfold State.failLoad
  try dsimp only
  repeat' (first
    | (with_reducible assumption) | (simp only [sane_mk, sane_iff]) | (intro _) | (with_reducible apply foldl_wf) |
    (with_reducible apply foldl_wf2) | (with_reducible apply foldl_wf3) | (with_reducible apply State_mchkWave_wf) |
    (with_reducible apply State_failLanes_wf) | (with_reducible apply ite_wf) | split)

@[simp] theorem State_failStore_wf {lo : Nat} (x0 : State) (x1 : Nat) (h0 : Sane lo x0) : Sane lo (State.failStore x0 x1) :=
    by
  unfold State.failStore
  repeat' (first
    | assumption | (simp only [sane_mk, sane_iff]) | (exact foldl_wf _ _ _ (by assumption) (by intros; simp [*]))
    | (simp [*]; done) | (simp [*] at *; done) | split)

@[simp] theorem State_failCopy_wf {lo : Nat} (x0 : State) (x1 : Nat) (h0 : Sane lo x0) : Sane lo (State.failCopy x0 x1) := by
  unfold State.failCopy
  dsimp only
  repeat' (first
    | (with_reducible assumption) | (simp only [sane_mk, sane_iff]) | (intro _) | (with_reducible apply foldl_wf)
    | (with_reducible apply foldl_wf2) | (with_reducible apply foldl_wf3) | (with_reducible apply State_setCopy_wf)
    | (with_reducible apply ite_wf) | (with_reducible apply good_next) | split)

@[simp] theorem State_failCodebook_wf {lo : Nat} (x0 : State) (x1 : Nat) (x2 : Nat) (h0 : Sane lo x0) : Sane lo
    (State.failCodebook x0 x1 x2) := by
  unfold State.failCodebook
  try dsimp only
  repeat' (first
    | (with_reducible assumption) | (simp only [sane_mk, sane_iff]) | (intro _) | (with_reducible apply foldl_wf) |
    (with_reducible apply foldl_wf2) | (with_reducible apply foldl_wf3) | (with_reducible apply State_makeTokens_wf) |
    (with_reducible apply State_modWaveAt_wf) | (with_reducible apply ite_wf) | split)

@[simp] theorem State_failColl_wf {lo : Nat} (x0 : State) (x1 : Nat) (x2 : Nat) (h0 : Sane lo x0) : Sane lo (State.failColl
    x0 x1 x2) := by
  unfold State.failColl
  try dsimp only
  repeat' (first
    | (with_reducible assumption) | (simp only [sane_mk, sane_iff]) | (intro _) | (with_reducible apply foldl_wf) |
    (with_reducible apply foldl_wf2) | (with_reducible apply foldl_wf3) | (with_reducible apply State_collEnd_wf) |
    (with_reducible apply ite_wf) | split)

@[simp] theorem execRemoteAccessFailure_good {lo : Nat} (x0 : RemoteFail) (x1 : State) (h1 : Sane lo x1) : Good lo
    (execRemoteAccessFailure x0 x1) := by
  unfold execRemoteAccessFailure
  split <;> simp [*]

@[simp] theorem execLinkFailure_good {lo : Nat} (x0 : Bool) (x1 : Nat) (x2 : Bool) (x3 : List Nat) (x4 : State) (h4 : Sane lo
    x4) : Good lo (execLinkFailure x0 x1 x2 x3 x4) := by
  unfold execLinkFailure
  try dsimp only
  repeat' (first
    | (with_reducible assumption) | (simp only [sane_mk, sane_iff]) | (intro _) | (with_reducible apply foldl_wf) |
    (with_reducible apply foldl_wf2) | (with_reducible apply foldl_wf3) | (with_reducible apply State_collEnd_wf) |
    (with_reducible apply ite_wf) | (with_reducible apply good_next) | split | (simp [*]; done))

@[simp] theorem execRackBusUndervoltage_good {lo : Nat} (x0 : State) (h0 : Sane lo x0) : Good lo (execRackBusUndervoltage x0)
    := by
  simp [execRackBusUndervoltage, *]

theorem exec_good {lo : Nat} (i : Instr) (s : State) (hi : s.issuing = true) (h : Sane lo s) : Good lo (exec i s) := by
  cases i with
  | nop x0 => exact execNop_good x0 s hi h
  | trap x0 x1 => exact execTrap_good x0 x1 s hi h
  | eret x0 => exact execEret_good x0 s hi h
  | getsr x0 x1 x2 => exact execGetsr_good x0 x1 x2 s hi h
  | setsr x0 x1 x2 => exact execSetsr_good x0 x1 x2 s hi h
  | iclk x0 x1 x2 x3 => exact execIclk_good x0 x1 x2 x3 s hi h
  | icul x0 x1 x2 x3 => exact execIcul_good x0 x1 x2 x3 s hi h
  | atinv x0 x1 x2 x3 => exact execAtinv_good x0 x1 x2 x3 s hi h
  | atsync x0 x1 x2 => exact execAtsync_good x0 x1 x2 s hi h
  | mapr x0 x1 x2 x3 => exact execMapr_good x0 x1 x2 x3 s hi h
  | pkres x0 x1 x2 => exact execPkres_good x0 x1 x2 s hi h
  | pkill x0 x1 x2 => exact execPkill_good x0 x1 x2 s hi h
  | jmpr x0 x1 => exact execJmpr_good x0 x1 s hi h
  | callr x0 x1 => exact execCallr_good x0 x1 s hi h
  | ret x0 => exact execRet_good x0 s hi h
  | exit x0 => exact execExit_good x0 s hi h
  | join x0 => exact execJoin_good x0 s hi h
  | wbase x0 x1 => exact execWbase_good x0 x1 s hi h
  | phint x0 x1 x2 x3 => exact execPhint_good x0 x1 x2 x3 s hi h
  | idem x0 x1 x2 x3 => exact execIdem_good x0 x1 x2 x3 s hi h
  | qend x0 => exact execQend_good x0 s hi h
  | add x0 x1 x2 x3 => exact execAdd_good x0 x1 x2 x3 s hi h
  | sub x0 x1 x2 x3 => exact execSub_good x0 x1 x2 x3 s hi h
  | mul x0 x1 x2 x3 => exact execMul_good x0 x1 x2 x3 s hi h
  | mulh x0 x1 x2 x3 => exact execMulh_good x0 x1 x2 x3 s hi h
  | mulhU x0 x1 x2 x3 => exact execMulhU_good x0 x1 x2 x3 s hi h
  | mad x0 x1 x2 x3 => exact execMad_good x0 x1 x2 x3 s hi h
  | and x0 x1 x2 x3 => exact execAnd_good x0 x1 x2 x3 s hi h
  | or x0 x1 x2 x3 => exact execOr_good x0 x1 x2 x3 s hi h
  | xor x0 x1 x2 x3 => exact execXor_good x0 x1 x2 x3 s hi h
  | shl x0 x1 x2 x3 => exact execShl_good x0 x1 x2 x3 s hi h
  | shr x0 x1 x2 x3 => exact execShr_good x0 x1 x2 x3 s hi h
  | sar x0 x1 x2 x3 => exact execSar_good x0 x1 x2 x3 s hi h
  | min x0 x1 x2 x3 => exact execMin_good x0 x1 x2 x3 s hi h
  | minU x0 x1 x2 x3 => exact execMinU_good x0 x1 x2 x3 s hi h
  | max x0 x1 x2 x3 => exact execMax_good x0 x1 x2 x3 s hi h
  | maxU x0 x1 x2 x3 => exact execMaxU_good x0 x1 x2 x3 s hi h
  | abs x0 x1 x2 => exact execAbs_good x0 x1 x2 s hi h
  | clz x0 x1 x2 => exact execClz_good x0 x1 x2 s hi h
  | popc x0 x1 x2 => exact execPopc_good x0 x1 x2 s hi h
  | bfe x0 x1 x2 x3 => exact execBfe_good x0 x1 x2 x3 s hi h
  | bfeU x0 x1 x2 x3 => exact execBfeU_good x0 x1 x2 x3 s hi h
  | bfi x0 x1 x2 x3 => exact execBfi_good x0 x1 x2 x3 s hi h
  | sel x0 x1 x2 x3 => exact execSel_good x0 x1 x2 x3 s hi h
  | div x0 x1 x2 x3 => exact execDiv_good x0 x1 x2 x3 s hi h
  | divU x0 x1 x2 x3 => exact execDivU_good x0 x1 x2 x3 s hi h
  | rem x0 x1 x2 x3 => exact execRem_good x0 x1 x2 x3 s hi h
  | remU x0 x1 x2 x3 => exact execRemU_good x0 x1 x2 x3 s hi h
  | addSat x0 x1 x2 x3 => exact execAddSat_good x0 x1 x2 x3 s hi h
  | subSat x0 x1 x2 x3 => exact execSubSat_good x0 x1 x2 x3 s hi h
  | addi x0 x1 x2 x3 => exact execAddi_good x0 x1 x2 x3 s hi h
  | andi x0 x1 x2 x3 => exact execAndi_good x0 x1 x2 x3 s hi h
  | ori x0 x1 x2 x3 => exact execOri_good x0 x1 x2 x3 s hi h
  | xori x0 x1 x2 x3 => exact execXori_good x0 x1 x2 x3 s hi h
  | tsti x0 x1 x2 x3 => exact execTsti_good x0 x1 x2 x3 s hi h
  | shli x0 x1 x2 x3 => exact execShli_good x0 x1 x2 x3 s hi h
  | shri x0 x1 x2 x3 => exact execShri_good x0 x1 x2 x3 s hi h
  | sari x0 x1 x2 x3 => exact execSari_good x0 x1 x2 x3 s hi h
  | roti x0 x1 x2 x3 => exact execRoti_good x0 x1 x2 x3 s hi h
  | cmpi x0 x1 x2 x3 x4 => exact execCmpi_good x0 x1 x2 x3 x4 s hi h
  | movi x0 x1 x2 => exact execMovi_good x0 x1 x2 s hi h
  | fadd x0 x1 x2 x3 x4 => exact execFadd_good x0 x1 x2 x3 x4 s hi h
  | fsub x0 x1 x2 x3 x4 => exact execFsub_good x0 x1 x2 x3 x4 s hi h
  | fmul x0 x1 x2 x3 x4 => exact execFmul_good x0 x1 x2 x3 x4 s hi h
  | fma x0 x1 x2 x3 x4 => exact execFma_good x0 x1 x2 x3 x4 s hi h
  | fmin x0 x1 x2 x3 x4 => exact execFmin_good x0 x1 x2 x3 x4 s hi h
  | fmax x0 x1 x2 x3 x4 => exact execFmax_good x0 x1 x2 x3 x4 s hi h
  | fdiv x0 x1 x2 x3 x4 => exact execFdiv_good x0 x1 x2 x3 x4 s hi h
  | fsqrt x0 x1 x2 x3 => exact execFsqrt_good x0 x1 x2 x3 s hi h
  | fexp x0 x1 x2 x3 => exact execFexp_good x0 x1 x2 x3 s hi h
  | flog x0 x1 x2 x3 => exact execFlog_good x0 x1 x2 x3 s hi h
  | frcp x0 x1 x2 x3 => exact execFrcp_good x0 x1 x2 x3 s hi h
  | frsq x0 x1 x2 x3 => exact execFrsq_good x0 x1 x2 x3 s hi h
  | fsin x0 x1 x2 x3 => exact execFsin_good x0 x1 x2 x3 s hi h
  | fcos x0 x1 x2 x3 => exact execFcos_good x0 x1 x2 x3 s hi h
  | ftanh x0 x1 x2 x3 => exact execFtanh_good x0 x1 x2 x3 s hi h
  | ferf x0 x1 x2 x3 => exact execFerf_good x0 x1 x2 x3 s hi h
  | cvt x0 x1 x2 x3 x4 => exact execCvt_good x0 x1 x2 x3 x4 s hi h
  | mxq x0 x1 x2 x3 => exact execMxq_good x0 x1 x2 x3 s hi h
  | mxdq x0 x1 x2 x3 => exact execMxdq_good x0 x1 x2 x3 s hi h
  | terq x0 x1 x2 => exact execTerq_good x0 x1 x2 s hi h
  | frnd x0 x1 x2 x3 => exact execFrnd_good x0 x1 x2 x3 s hi h
  | icmp x0 x1 x2 x3 x4 => exact execIcmp_good x0 x1 x2 x3 x4 s hi h
  | icmpU x0 x1 x2 x3 x4 => exact execIcmpU_good x0 x1 x2 x3 x4 s hi h
  | fcmp x0 x1 x2 x3 x4 => exact execFcmp_good x0 x1 x2 x3 x4 s hi h
  | plog x0 x1 x2 x3 x4 => exact execPlog_good x0 x1 x2 x3 x4 s hi h
  | red x0 x1 x2 x3 => exact execRed_good x0 x1 x2 x3 s hi h
  | redFadd x0 x1 x2 => exact execRedFadd_good x0 x1 x2 s hi h
  | scan x0 x1 x2 x3 => exact execScan_good x0 x1 x2 x3 s hi h
  | ballot x0 x1 x2 => exact execBallot_good x0 x1 x2 s hi h
  | voteAll x0 x1 x2 => exact execVoteAll_good x0 x1 x2 s hi h
  | voteAny x0 x1 x2 => exact execVoteAny_good x0 x1 x2 s hi h
  | voteUni x0 x1 x2 => exact execVoteUni_good x0 x1 x2 s hi h
  | elect x0 x1 => exact execElect_good x0 x1 s hi h
  | shfl x0 x1 x2 x3 => exact execShfl_good x0 x1 x2 x3 s hi h
  | ld x0 x1 x2 x3 x4 x5 x6 x7 => exact execLd_good x0 x1 x2 x3 x4 x5 x6 x7 s hi h
  | ldx x0 x1 x2 x3 x4 x5 => exact execLdx_good x0 x1 x2 x3 x4 x5 s hi h
  | pref x0 x1 x2 x3 => exact execPref_good x0 x1 x2 x3 s hi h
  | st x0 x1 x2 x3 x4 x5 => exact execSt_good x0 x1 x2 x3 x4 x5 s hi h
  | stx x0 x1 x2 x3 x4 => exact execStx_good x0 x1 x2 x3 x4 s hi h
  | atom x0 x1 x2 x3 x4 x5 => exact execAtom_good x0 x1 x2 x3 x4 x5 s hi h
  | atomn x0 x1 x2 x3 x4 x5 => exact execAtomn_good x0 x1 x2 x3 x4 x5 s hi h
  | lds x0 x1 x2 x3 x4 => exact execLds_good x0 x1 x2 x3 x4 s hi h
  | sts x0 x1 x2 x3 x4 => exact execSts_good x0 x1 x2 x3 x4 s hi h
  | atoms x0 x1 x2 x3 x4 => exact execAtoms_good x0 x1 x2 x3 x4 s hi h
  | rld x0 x1 x2 => exact execRld_good x0 x1 x2 s hi h
  | rset x0 x1 x2 x3 => exact execRset_good x0 x1 x2 x3 s hi h
  | rget x0 x1 x2 x3 => exact execRget_good x0 x1 x2 x3 s hi h
  | rchk x0 x1 x2 x3 x4 => exact execRchk_good x0 x1 x2 x3 x4 s hi h
  | mma x0 x1 x2 x3 x4 x5 x6 x7 x8 => exact execMma_good x0 x1 x2 x3 x4 x5 x6 x7 x8 s hi h
  | mwait x0 x1 => exact execMwait_good x0 x1 s hi h
  | mqry x0 x1 x2 x3 => exact execMqry_good x0 x1 x2 x3 s hi h
  | maps x0 x1 x2 => exact execMaps_good x0 x1 x2 s hi h
  | aclr x0 x1 => exact execAclr_good x0 x1 s hi h
  | ard x0 x1 x2 x3 x4 => exact execArd_good x0 x1 x2 x3 x4 s hi h
  | awr x0 x1 x2 x3 => exact execAwr_good x0 x1 x2 x3 s hi h
  | ast x0 x1 x2 x3 x4 => exact execAst_good x0 x1 x2 x3 x4 s hi h
  | tcopy x0 x1 => exact execTcopy_good x0 x1 s hi h
  | ecmd x0 x1 => exact execEcmd_good x0 x1 s hi h
  | semwait x0 x1 x2 x3 => exact execSemwait_good x0 x1 x2 x3 s hi h
  | semsig x0 x1 x2 => exact execSemsig_good x0 x1 x2 s hi h
  | semrd x0 x1 x2 => exact execSemrd_good x0 x1 x2 s hi h
  | launch x0 x1 => exact execLaunch_good x0 x1 s hi h
  | fence x0 x1 x2 => exact execFence_good x0 x1 x2 s hi h
  | bar x0 x1 x2 => exact execBar_good x0 x1 x2 s hi h
  | barc x0 x1 x2 => exact execBarc_good x0 x1 x2 s hi h
  | drain x0 x1 x2 => exact execDrain_good x0 x1 x2 s hi h
  | odecl x0 x1 x2 => exact execOdecl_good x0 x1 x2 s hi h
  | orel x0 x1 x2 => exact execOrel_good x0 x1 x2 s hi h
  | lock x0 x1 x2 => exact execLock_good x0 x1 x2 s hi h
  | trylk x0 x1 x2 => exact execTrylk_good x0 x1 x2 s hi h
  | unlock x0 x1 x2 => exact execUnlock_good x0 x1 x2 s hi h
  | wreg x0 x1 x2 => exact execWreg_good x0 x1 x2 s hi h
  | waitv x0 x1 x2 => exact execWaitv_good x0 x1 x2 s hi h
  | wdone x0 => exact execWdone_good x0 s hi h
  | wqry x0 x1 => exact execWqry_good x0 x1 s hi h
  | pcls x0 x1 => exact execPcls_good x0 x1 s hi h
  | ebud x0 x1 x2 x3 => exact execEbud_good x0 x1 x2 x3 s hi h
  | wld x0 x1 x2 x3 x4 => exact execWld_good x0 x1 x2 x3 x4 s hi h
  | cbset x0 x1 x2 x3 x4 => exact execCbset_good x0 x1 x2 x3 x4 s hi h
  | wschk x0 x1 x2 x3 x4 => exact execWschk_good x0 x1 x2 x3 x4 s hi h
  | rnd x0 x1 x2 => exact execRnd_good x0 x1 x2 s hi h
  | chkp x0 x1 => exact execChkp_good x0 x1 s hi h
  | ispoi x0 x1 x2 => exact execIspoi_good x0 x1 x2 s hi h
  | mkpoi x0 x1 x2 => exact execMkpoi_good x0 x1 x2 s hi h
  | timew x0 x1 x2 => exact execTimew_good x0 x1 x2 s hi h
  | br x0 x1 x2 x3 => exact execBr_good x0 x1 x2 x3 s hi h
  | bru x0 x1 x2 x3 => exact execBru_good x0 x1 x2 x3 s hi h
  | call x0 x1 => exact execCall_good x0 x1 s hi h
  | xw x0 => exact execXw_good x0 s hi h
  | waveResultWriteback x0 x1 x2 => exact execWaveResultWriteback_good x0 x1 x2 s h
  | storeFifoDrain x0 => exact execStoreFifoDrain_good x0 s h
  | wcbLineWrite x0 x1 => exact execWcbLineWrite_good x0 x1 s h
  | homeAccess x0 x1 => exact execHomeAccess_good x0 x1 s h
  | mmaCommandStart x0 x1 => exact execMmaCommandStart_good x0 x1 s h
  | mmaCommandRetire x0 x1 => exact execMmaCommandRetire_good x0 x1 s h
  | codebookSlotReady x0 x1 => exact execCodebookSlotReady_good x0 x1 s h
  | weightStoreRefresh x0 x1 => exact execWeightStoreRefresh_good x0 x1 s h
  | tcopyStart x0 => exact execTcopyStart_good x0 s h
  | tcopyUnit x0 => exact execTcopyUnit_good x0 s h
  | tcopyComplete x0 => exact execTcopyComplete_good x0 s h
  | weightStoreGateAdmit x0 => exact execWeightStoreGateAdmit_good x0 s h
  | launchPortStage x0 x1 x2 => exact execLaunchPortStage_good x0 x1 x2 s h
  | launchPortEnqueue x0 x1 x2 => exact execLaunchPortEnqueue_good x0 x1 x2 s h
  | kernelTableReplace x0 x1 x2 => exact execKernelTableReplace_good x0 x1 x2 s h
  | kernelTableClear x0 x1 => exact execKernelTableClear_good x0 x1 s h
  | launchDispatch x0 => exact execLaunchDispatch_good x0 s h
  | workgroupPlace x0 => exact execWorkgroupPlace_good x0 s h
  | waveStart x0 => exact execWaveStart_good x0 s h
  | launchComplete x0 => exact execLaunchComplete_good x0 s h
  | leaseRequest x0 => exact execLeaseRequest_good x0 s h
  | leaseRelease x0 => exact execLeaseRelease_good x0 s h
  | leaseRecordWrite => exact execLeaseRecordWrite_good s h
  | boostClockRaise => exact execBoostClockRaise_good s h
  | leaseNotice => exact execLeaseNotice_good s h
  | leaseEnd => exact execLeaseEnd_good s h
  | allReduce x0 => exact execAllReduce_good x0 s h
  | reduceScatter x0 => exact execReduceScatter_good x0 s h
  | allGather x0 => exact execAllGather_good x0 s h
  | broadcast x0 => exact execBroadcast_good x0 s h
  | collectiveComplete x0 => exact execCollectiveComplete_good x0 s h
  | collectiveTimeout x0 => exact execCollectiveTimeout_good x0 s h
  | quantumCommit x0 => exact execQuantumCommit_good x0 s h
  | waitConditionMet x0 => exact execWaitConditionMet_good x0 s h
  | clusterBarrierHeldRelease x0 x1 => exact execClusterBarrierHeldRelease_good x0 x1 s h
  | lockRetry x0 => exact execLockRetry_good x0 s h
  | waitvRetest x0 => exact execWaitvRetest_good x0 s h
  | priorityInheritanceUpdate => exact execPriorityInheritanceUpdate_good s h
  | deadlockScan => exact execDeadlockScan_good s h
  | shedExemptionReturn x0 => exact execShedExemptionReturn_good x0 s h
  | stpFrame x0 => exact execStpFrame_good x0 s h
  | telemetryLoss => exact execTelemetryLoss_good s h
  | budgetUpdate => exact execBudgetUpdate_good s h
  | classRestore => exact execClassRestore_good s h
  | forcedShedStart x0 => exact execForcedShedStart_good x0 s h
  | shedInstructionLimit x0 => exact execShedInstructionLimit_good x0 s h
  | allowanceEpoch => exact execAllowanceEpoch_good s h
  | ballastOvercapLimit => exact execBallastOvercapLimit_good s h
  | clkpatWrite x0 x1 => exact execClkpatWrite_good x0 x1 s h
  | clkpatApply => exact execClkpatApply_good s h
  | preemptionRequest x0 => exact execPreemptionRequest_good x0 s h
  | preemptInstructionLimit x0 => exact execPreemptInstructionLimit_good x0 s h
  | workgroupSave x0 => exact execWorkgroupSave_good x0 s h
  | workgroupRestore x0 => exact execWorkgroupRestore_good x0 s h
  | atinvDelivery x0 x1 => exact execAtinvDelivery_good x0 x1 s h
  | atinvAcknowledge x0 x1 => exact execAtinvAcknowledge_good x0 x1 s h
  | timewExpire x0 => exact execTimewExpire_good x0 s h
  | csctlWrite x0 x1 => exact execCsctlWrite_good x0 x1 s h
  | csctlChangeComplete x0 => exact execCsctlChangeComplete_good x0 s h
  | semcfgWrite x0 x1 x2 => exact execSemcfgWrite_good x0 x1 x2 s h
  | contextActivate x0 x1 => exact execContextActivate_good x0 x1 s h
  | contextKill x0 => exact execContextKill_good x0 s h
  | warmStart x0 x1 x2 => exact execWarmStart_good x0 x1 x2 s h
  | coldStart x0 x1 => exact execColdStart_good x0 x1 s h
  | powerOn x0 x1 => exact execPowerOn_good x0 x1 s h
  | dieDisable x0 => exact execDieDisable_good x0 s h
  | dieFailure x0 => exact execDieFailure_good x0 s h
  | uncorrectedError x0 => exact execUncorrectedError_good x0 s h
  | correctedError x0 => exact execCorrectedError_good x0 s h
  | contextRecovery x0 => exact execContextRecovery_good x0 s h
  | tadjRate x0 => exact execTadjRate_good x0 s h
  | tadjStep x0 => exact execTadjStep_good x0 s h
  | actPreempt => exact execActPreempt_good s h
  | actPkres x0 => exact execActPkres_good x0 s h
  | actPkill x0 => exact execActPkill_good x0 s h
  | actAtinv => exact execActAtinv_good s h
  | actAtsync x0 => exact execActAtsync_good x0 s h
  | actEnergyCredit x0 => exact execActEnergyCredit_good x0 s h
  | actPoolFrameReturn x0 => exact execActPoolFrameReturn_good x0 s h
  | actPoolFrameMarkInUse x0 => exact execActPoolFrameMarkInUse_good x0 s h
  | actBreakpoint x0 => exact execActBreakpoint_good x0 s h
  | attestationReport x0 => exact execAttestationReport_good x0 s h
  | mgmtRegisterWrite x0 x1 => exact execMgmtRegisterWrite_good x0 x1 s h
  | gctxWrite x0 x1 => exact execGctxWrite_good x0 x1 s h
  | hartCoherentAccess x0 x1 x2 x3 => exact execHartCoherentAccess_good x0 x1 x2 x3 s h
  | coherenceProbe x0 x1 x2 x3 => exact execCoherenceProbe_good x0 x1 x2 x3 s h
  | objectEvictRelease x0 x1 => exact execObjectEvictRelease_good x0 x1 s h
  | ethernetReceive x0 x1 x2 => exact execEthernetReceive_good x0 x1 x2 s h
  | ethernetTransmit x0 x1 => exact execEthernetTransmit_good x0 x1 s h
  | remoteAccessIncoming x0 x1 => exact execRemoteAccessIncoming_good x0 x1 s h
  | remoteAccessFailure x0 => exact execRemoteAccessFailure_good x0 s h
  | linkFailure x0 x1 x2 x3 => exact execLinkFailure_good x0 x1 x2 x3 s h
  | rackBusUndervoltage => exact execRackBusUndervoltage_good s h

/-- A step of the machine goes on. -/
theorem exec_step_good {lo : Nat} (i : Instr) (s : State) (he : isStep i = true) (h : Sane lo s) : Good lo (exec i s) := by
  cases i with
  | nop _ => exact absurd he Bool.false_ne_true
  | trap _ _ => exact absurd he Bool.false_ne_true
  | eret _ => exact absurd he Bool.false_ne_true
  | getsr _ _ _ => exact absurd he Bool.false_ne_true
  | setsr _ _ _ => exact absurd he Bool.false_ne_true
  | iclk _ _ _ _ => exact absurd he Bool.false_ne_true
  | icul _ _ _ _ => exact absurd he Bool.false_ne_true
  | atinv _ _ _ _ => exact absurd he Bool.false_ne_true
  | atsync _ _ _ => exact absurd he Bool.false_ne_true
  | mapr _ _ _ _ => exact absurd he Bool.false_ne_true
  | pkres _ _ _ => exact absurd he Bool.false_ne_true
  | pkill _ _ _ => exact absurd he Bool.false_ne_true
  | jmpr _ _ => exact absurd he Bool.false_ne_true
  | callr _ _ => exact absurd he Bool.false_ne_true
  | ret _ => exact absurd he Bool.false_ne_true
  | exit _ => exact absurd he Bool.false_ne_true
  | join _ => exact absurd he Bool.false_ne_true
  | wbase _ _ => exact absurd he Bool.false_ne_true
  | phint _ _ _ _ => exact absurd he Bool.false_ne_true
  | idem _ _ _ _ => exact absurd he Bool.false_ne_true
  | qend _ => exact absurd he Bool.false_ne_true
  | add _ _ _ _ => exact absurd he Bool.false_ne_true
  | sub _ _ _ _ => exact absurd he Bool.false_ne_true
  | mul _ _ _ _ => exact absurd he Bool.false_ne_true
  | mulh _ _ _ _ => exact absurd he Bool.false_ne_true
  | mulhU _ _ _ _ => exact absurd he Bool.false_ne_true
  | mad _ _ _ _ => exact absurd he Bool.false_ne_true
  | and _ _ _ _ => exact absurd he Bool.false_ne_true
  | or _ _ _ _ => exact absurd he Bool.false_ne_true
  | xor _ _ _ _ => exact absurd he Bool.false_ne_true
  | shl _ _ _ _ => exact absurd he Bool.false_ne_true
  | shr _ _ _ _ => exact absurd he Bool.false_ne_true
  | sar _ _ _ _ => exact absurd he Bool.false_ne_true
  | min _ _ _ _ => exact absurd he Bool.false_ne_true
  | minU _ _ _ _ => exact absurd he Bool.false_ne_true
  | max _ _ _ _ => exact absurd he Bool.false_ne_true
  | maxU _ _ _ _ => exact absurd he Bool.false_ne_true
  | abs _ _ _ => exact absurd he Bool.false_ne_true
  | clz _ _ _ => exact absurd he Bool.false_ne_true
  | popc _ _ _ => exact absurd he Bool.false_ne_true
  | bfe _ _ _ _ => exact absurd he Bool.false_ne_true
  | bfeU _ _ _ _ => exact absurd he Bool.false_ne_true
  | bfi _ _ _ _ => exact absurd he Bool.false_ne_true
  | sel _ _ _ _ => exact absurd he Bool.false_ne_true
  | div _ _ _ _ => exact absurd he Bool.false_ne_true
  | divU _ _ _ _ => exact absurd he Bool.false_ne_true
  | rem _ _ _ _ => exact absurd he Bool.false_ne_true
  | remU _ _ _ _ => exact absurd he Bool.false_ne_true
  | addSat _ _ _ _ => exact absurd he Bool.false_ne_true
  | subSat _ _ _ _ => exact absurd he Bool.false_ne_true
  | addi _ _ _ _ => exact absurd he Bool.false_ne_true
  | andi _ _ _ _ => exact absurd he Bool.false_ne_true
  | ori _ _ _ _ => exact absurd he Bool.false_ne_true
  | xori _ _ _ _ => exact absurd he Bool.false_ne_true
  | tsti _ _ _ _ => exact absurd he Bool.false_ne_true
  | shli _ _ _ _ => exact absurd he Bool.false_ne_true
  | shri _ _ _ _ => exact absurd he Bool.false_ne_true
  | sari _ _ _ _ => exact absurd he Bool.false_ne_true
  | roti _ _ _ _ => exact absurd he Bool.false_ne_true
  | cmpi _ _ _ _ _ => exact absurd he Bool.false_ne_true
  | movi _ _ _ => exact absurd he Bool.false_ne_true
  | fadd _ _ _ _ _ => exact absurd he Bool.false_ne_true
  | fsub _ _ _ _ _ => exact absurd he Bool.false_ne_true
  | fmul _ _ _ _ _ => exact absurd he Bool.false_ne_true
  | fma _ _ _ _ _ => exact absurd he Bool.false_ne_true
  | fmin _ _ _ _ _ => exact absurd he Bool.false_ne_true
  | fmax _ _ _ _ _ => exact absurd he Bool.false_ne_true
  | fdiv _ _ _ _ _ => exact absurd he Bool.false_ne_true
  | fsqrt _ _ _ _ => exact absurd he Bool.false_ne_true
  | fexp _ _ _ _ => exact absurd he Bool.false_ne_true
  | flog _ _ _ _ => exact absurd he Bool.false_ne_true
  | frcp _ _ _ _ => exact absurd he Bool.false_ne_true
  | frsq _ _ _ _ => exact absurd he Bool.false_ne_true
  | fsin _ _ _ _ => exact absurd he Bool.false_ne_true
  | fcos _ _ _ _ => exact absurd he Bool.false_ne_true
  | ftanh _ _ _ _ => exact absurd he Bool.false_ne_true
  | ferf _ _ _ _ => exact absurd he Bool.false_ne_true
  | cvt _ _ _ _ _ => exact absurd he Bool.false_ne_true
  | mxq _ _ _ _ => exact absurd he Bool.false_ne_true
  | mxdq _ _ _ _ => exact absurd he Bool.false_ne_true
  | terq _ _ _ => exact absurd he Bool.false_ne_true
  | frnd _ _ _ _ => exact absurd he Bool.false_ne_true
  | icmp _ _ _ _ _ => exact absurd he Bool.false_ne_true
  | icmpU _ _ _ _ _ => exact absurd he Bool.false_ne_true
  | fcmp _ _ _ _ _ => exact absurd he Bool.false_ne_true
  | plog _ _ _ _ _ => exact absurd he Bool.false_ne_true
  | red _ _ _ _ => exact absurd he Bool.false_ne_true
  | redFadd _ _ _ => exact absurd he Bool.false_ne_true
  | scan _ _ _ _ => exact absurd he Bool.false_ne_true
  | ballot _ _ _ => exact absurd he Bool.false_ne_true
  | voteAll _ _ _ => exact absurd he Bool.false_ne_true
  | voteAny _ _ _ => exact absurd he Bool.false_ne_true
  | voteUni _ _ _ => exact absurd he Bool.false_ne_true
  | elect _ _ => exact absurd he Bool.false_ne_true
  | shfl _ _ _ _ => exact absurd he Bool.false_ne_true
  | ld _ _ _ _ _ _ _ _ => exact absurd he Bool.false_ne_true
  | ldx _ _ _ _ _ _ => exact absurd he Bool.false_ne_true
  | pref _ _ _ _ => exact absurd he Bool.false_ne_true
  | st _ _ _ _ _ _ => exact absurd he Bool.false_ne_true
  | stx _ _ _ _ _ => exact absurd he Bool.false_ne_true
  | atom _ _ _ _ _ _ => exact absurd he Bool.false_ne_true
  | atomn _ _ _ _ _ _ => exact absurd he Bool.false_ne_true
  | lds _ _ _ _ _ => exact absurd he Bool.false_ne_true
  | sts _ _ _ _ _ => exact absurd he Bool.false_ne_true
  | atoms _ _ _ _ _ => exact absurd he Bool.false_ne_true
  | rld _ _ _ => exact absurd he Bool.false_ne_true
  | rset _ _ _ _ => exact absurd he Bool.false_ne_true
  | rget _ _ _ _ => exact absurd he Bool.false_ne_true
  | rchk _ _ _ _ _ => exact absurd he Bool.false_ne_true
  | mma _ _ _ _ _ _ _ _ _ => exact absurd he Bool.false_ne_true
  | mwait _ _ => exact absurd he Bool.false_ne_true
  | mqry _ _ _ _ => exact absurd he Bool.false_ne_true
  | maps _ _ _ => exact absurd he Bool.false_ne_true
  | aclr _ _ => exact absurd he Bool.false_ne_true
  | ard _ _ _ _ _ => exact absurd he Bool.false_ne_true
  | awr _ _ _ _ => exact absurd he Bool.false_ne_true
  | ast _ _ _ _ _ => exact absurd he Bool.false_ne_true
  | tcopy _ _ => exact absurd he Bool.false_ne_true
  | ecmd _ _ => exact absurd he Bool.false_ne_true
  | semwait _ _ _ _ => exact absurd he Bool.false_ne_true
  | semsig _ _ _ => exact absurd he Bool.false_ne_true
  | semrd _ _ _ => exact absurd he Bool.false_ne_true
  | launch _ _ => exact absurd he Bool.false_ne_true
  | fence _ _ _ => exact absurd he Bool.false_ne_true
  | bar _ _ _ => exact absurd he Bool.false_ne_true
  | barc _ _ _ => exact absurd he Bool.false_ne_true
  | drain _ _ _ => exact absurd he Bool.false_ne_true
  | odecl _ _ _ => exact absurd he Bool.false_ne_true
  | orel _ _ _ => exact absurd he Bool.false_ne_true
  | lock _ _ _ => exact absurd he Bool.false_ne_true
  | trylk _ _ _ => exact absurd he Bool.false_ne_true
  | unlock _ _ _ => exact absurd he Bool.false_ne_true
  | wreg _ _ _ => exact absurd he Bool.false_ne_true
  | waitv _ _ _ => exact absurd he Bool.false_ne_true
  | wdone _ => exact absurd he Bool.false_ne_true
  | wqry _ _ => exact absurd he Bool.false_ne_true
  | pcls _ _ => exact absurd he Bool.false_ne_true
  | ebud _ _ _ _ => exact absurd he Bool.false_ne_true
  | wld _ _ _ _ _ => exact absurd he Bool.false_ne_true
  | cbset _ _ _ _ _ => exact absurd he Bool.false_ne_true
  | wschk _ _ _ _ _ => exact absurd he Bool.false_ne_true
  | rnd _ _ _ => exact absurd he Bool.false_ne_true
  | chkp _ _ => exact absurd he Bool.false_ne_true
  | ispoi _ _ _ => exact absurd he Bool.false_ne_true
  | mkpoi _ _ _ => exact absurd he Bool.false_ne_true
  | timew _ _ _ => exact absurd he Bool.false_ne_true
  | br _ _ _ _ => exact absurd he Bool.false_ne_true
  | bru _ _ _ _ => exact absurd he Bool.false_ne_true
  | call _ _ => exact absurd he Bool.false_ne_true
  | xw _ => exact absurd he Bool.false_ne_true
  | waveResultWriteback x0 x1 x2 => exact execWaveResultWriteback_good x0 x1 x2 s h
  | storeFifoDrain x0 => exact execStoreFifoDrain_good x0 s h
  | wcbLineWrite x0 x1 => exact execWcbLineWrite_good x0 x1 s h
  | homeAccess x0 x1 => exact execHomeAccess_good x0 x1 s h
  | mmaCommandStart x0 x1 => exact execMmaCommandStart_good x0 x1 s h
  | mmaCommandRetire x0 x1 => exact execMmaCommandRetire_good x0 x1 s h
  | codebookSlotReady x0 x1 => exact execCodebookSlotReady_good x0 x1 s h
  | weightStoreRefresh x0 x1 => exact execWeightStoreRefresh_good x0 x1 s h
  | tcopyStart x0 => exact execTcopyStart_good x0 s h
  | tcopyUnit x0 => exact execTcopyUnit_good x0 s h
  | tcopyComplete x0 => exact execTcopyComplete_good x0 s h
  | weightStoreGateAdmit x0 => exact execWeightStoreGateAdmit_good x0 s h
  | launchPortStage x0 x1 x2 => exact execLaunchPortStage_good x0 x1 x2 s h
  | launchPortEnqueue x0 x1 x2 => exact execLaunchPortEnqueue_good x0 x1 x2 s h
  | kernelTableReplace x0 x1 x2 => exact execKernelTableReplace_good x0 x1 x2 s h
  | kernelTableClear x0 x1 => exact execKernelTableClear_good x0 x1 s h
  | launchDispatch x0 => exact execLaunchDispatch_good x0 s h
  | workgroupPlace x0 => exact execWorkgroupPlace_good x0 s h
  | waveStart x0 => exact execWaveStart_good x0 s h
  | launchComplete x0 => exact execLaunchComplete_good x0 s h
  | leaseRequest x0 => exact execLeaseRequest_good x0 s h
  | leaseRelease x0 => exact execLeaseRelease_good x0 s h
  | leaseRecordWrite => exact execLeaseRecordWrite_good s h
  | boostClockRaise => exact execBoostClockRaise_good s h
  | leaseNotice => exact execLeaseNotice_good s h
  | leaseEnd => exact execLeaseEnd_good s h
  | allReduce x0 => exact execAllReduce_good x0 s h
  | reduceScatter x0 => exact execReduceScatter_good x0 s h
  | allGather x0 => exact execAllGather_good x0 s h
  | broadcast x0 => exact execBroadcast_good x0 s h
  | collectiveComplete x0 => exact execCollectiveComplete_good x0 s h
  | collectiveTimeout x0 => exact execCollectiveTimeout_good x0 s h
  | quantumCommit x0 => exact execQuantumCommit_good x0 s h
  | waitConditionMet x0 => exact execWaitConditionMet_good x0 s h
  | clusterBarrierHeldRelease x0 x1 => exact execClusterBarrierHeldRelease_good x0 x1 s h
  | lockRetry x0 => exact execLockRetry_good x0 s h
  | waitvRetest x0 => exact execWaitvRetest_good x0 s h
  | priorityInheritanceUpdate => exact execPriorityInheritanceUpdate_good s h
  | deadlockScan => exact execDeadlockScan_good s h
  | shedExemptionReturn x0 => exact execShedExemptionReturn_good x0 s h
  | stpFrame x0 => exact execStpFrame_good x0 s h
  | telemetryLoss => exact execTelemetryLoss_good s h
  | budgetUpdate => exact execBudgetUpdate_good s h
  | classRestore => exact execClassRestore_good s h
  | forcedShedStart x0 => exact execForcedShedStart_good x0 s h
  | shedInstructionLimit x0 => exact execShedInstructionLimit_good x0 s h
  | allowanceEpoch => exact execAllowanceEpoch_good s h
  | ballastOvercapLimit => exact execBallastOvercapLimit_good s h
  | clkpatWrite x0 x1 => exact execClkpatWrite_good x0 x1 s h
  | clkpatApply => exact execClkpatApply_good s h
  | preemptionRequest x0 => exact execPreemptionRequest_good x0 s h
  | preemptInstructionLimit x0 => exact execPreemptInstructionLimit_good x0 s h
  | workgroupSave x0 => exact execWorkgroupSave_good x0 s h
  | workgroupRestore x0 => exact execWorkgroupRestore_good x0 s h
  | atinvDelivery x0 x1 => exact execAtinvDelivery_good x0 x1 s h
  | atinvAcknowledge x0 x1 => exact execAtinvAcknowledge_good x0 x1 s h
  | timewExpire x0 => exact execTimewExpire_good x0 s h
  | csctlWrite x0 x1 => exact execCsctlWrite_good x0 x1 s h
  | csctlChangeComplete x0 => exact execCsctlChangeComplete_good x0 s h
  | semcfgWrite x0 x1 x2 => exact execSemcfgWrite_good x0 x1 x2 s h
  | contextActivate x0 x1 => exact execContextActivate_good x0 x1 s h
  | contextKill x0 => exact execContextKill_good x0 s h
  | warmStart x0 x1 x2 => exact execWarmStart_good x0 x1 x2 s h
  | coldStart x0 x1 => exact execColdStart_good x0 x1 s h
  | powerOn x0 x1 => exact execPowerOn_good x0 x1 s h
  | dieDisable x0 => exact execDieDisable_good x0 s h
  | dieFailure x0 => exact execDieFailure_good x0 s h
  | uncorrectedError x0 => exact execUncorrectedError_good x0 s h
  | correctedError x0 => exact execCorrectedError_good x0 s h
  | contextRecovery x0 => exact execContextRecovery_good x0 s h
  | tadjRate x0 => exact execTadjRate_good x0 s h
  | tadjStep x0 => exact execTadjStep_good x0 s h
  | actPreempt => exact execActPreempt_good s h
  | actPkres x0 => exact execActPkres_good x0 s h
  | actPkill x0 => exact execActPkill_good x0 s h
  | actAtinv => exact execActAtinv_good s h
  | actAtsync x0 => exact execActAtsync_good x0 s h
  | actEnergyCredit x0 => exact execActEnergyCredit_good x0 s h
  | actPoolFrameReturn x0 => exact execActPoolFrameReturn_good x0 s h
  | actPoolFrameMarkInUse x0 => exact execActPoolFrameMarkInUse_good x0 s h
  | actBreakpoint x0 => exact execActBreakpoint_good x0 s h
  | attestationReport x0 => exact execAttestationReport_good x0 s h
  | mgmtRegisterWrite x0 x1 => exact execMgmtRegisterWrite_good x0 x1 s h
  | gctxWrite x0 x1 => exact execGctxWrite_good x0 x1 s h
  | hartCoherentAccess x0 x1 x2 x3 => exact execHartCoherentAccess_good x0 x1 x2 x3 s h
  | coherenceProbe x0 x1 x2 x3 => exact execCoherenceProbe_good x0 x1 x2 x3 s h
  | objectEvictRelease x0 x1 => exact execObjectEvictRelease_good x0 x1 s h
  | ethernetReceive x0 x1 x2 => exact execEthernetReceive_good x0 x1 x2 s h
  | ethernetTransmit x0 x1 => exact execEthernetTransmit_good x0 x1 s h
  | remoteAccessIncoming x0 x1 => exact execRemoteAccessIncoming_good x0 x1 s h
  | remoteAccessFailure x0 => exact execRemoteAccessFailure_good x0 s h
  | linkFailure x0 x1 x2 x3 => exact execLinkFailure_good x0 x1 x2 x3 s h
  | rackBusUndervoltage => exact execRackBusUndervoltage_good s h

theorem State_lookupTouch_sameIss (s : State) (ext : List Piece) (cluster asid va : Nat) :
    SameIss s (s.lookupTouch ext cluster asid va) := by
  unfold State.lookupTouch
  repeat' split
  all_goals exact ⟨rfl, rfl⟩

/-- A fetch leaves the waves and the issue latch as they are. -/
theorem State_fetchWord {lo : Nat} (s s' : State) (va : Nat) (w : Word32) (h : Sane lo s) (he : s.fetchWord va = .ok (w, s')) :
    Sane lo s' ∧ SameIss s s' := by
  unfold State.fetchWord at he
  dsimp only at he
  split at he
  · split at he
    · cases he
    · simp only [Except.ok.injEq, Prod.mk.injEq] at he
      obtain ⟨-, rfl⟩ := he
      have a := State_lookupTouch_sameIss s [] s.wave.id.cluster s.wave.id.asid.toNat va
      have b := State_fillIc_sameIss (s.lookupTouch [] s.wave.id.cluster s.wave.id.asid.toNat va)
      exact ⟨State_fillIc_wf _ _ _ _ (State_lookupTouch_wf _ _ _ _ _ h), (b _ _ _).1.trans a.1, (b _ _ _).2.trans a.2⟩
  · cases he

@[simp] theorem State_chargeEnergy_wf {lo : Nat} (x0 : State) (x1 : Nat) (x2 : Nat) (x3 : Nat) (h0 : Sane lo x0) : Sane lo
    (State.chargeEnergy x0 x1 x2 x3) := by
  unfold State.chargeEnergy
  split <;> simp [*]

@[simp] theorem State_voltageFall_wf {lo : Nat} (x0 : State) (x1 : Nat) (h0 : Sane lo x0) : Sane lo (State.voltageFall x0 x1)
    := by
  simp [State.voltageFall, *]

@[simp] theorem State_setHartMode_wf {lo : Nat} (x0 : State) (x1 : Nat) (x2 : HartMode) (h0 : Sane lo x0) : Sane lo
    (State.setHartMode x0 x1 x2) := by
  simp [State.setHartMode, *]

@[simp] theorem State_hartResult_wf {lo : Nat} (x0 : State) (x1 : Nat) (x2 : Word64) (h0 : Sane lo x0) : Sane lo
    (State.hartResult x0 x1 x2) := by
  simp [State.hartResult, *]

@[simp] theorem State_timeRead_wf {lo : Nat} (x0 : State) (x1 : Nat) (h0 : Sane lo x0) : Sane lo (State.timeRead x0 x1) := by
  simp [State.timeRead, *]

@[simp] theorem State_remoteAck_wf {lo : Nat} (x0 : State) (x1 : Nat) (h0 : Sane lo x0) : Sane lo (State.remoteAck x0 x1) :=
    by
  unfold State.remoteAck
  try dsimp only
  repeat' (first
    | (with_reducible assumption) | (simp only [sane_mk, sane_iff]) | (intro _) | (with_reducible apply foldl_wf) |
    (with_reducible apply foldl_wf2) | (with_reducible apply foldl_wf3) | (with_reducible apply State_modWaveAt_wf) |
    (with_reducible apply ite_wf) | split)

@[simp] theorem State_ethConfig_wf {lo : Nat} (x0 : State) (x1 : Nat) (x2 : Bool) (x3 : Nat) (x4 : Nat) (x5 : Nat) (x6 : Nat)
    (h0 : Sane lo x0) : Sane lo (State.ethConfig x0 x1 x2 x3 x4 x5 x6) := by
  simp [State.ethConfig, *]

@[simp] theorem State_hartRun_wf {lo : Nat} (x0 : State) (x1 : Nat) (x2 : HartRegs) (h0 : Sane lo x0) : Sane lo
    (State.hartRun x0 x1 x2) := by
  simp [State.hartRun, *]

@[simp] theorem State_gctxRead_wf {lo : Nat} (x0 : State) (x1 : Nat) (h0 : Sane lo x0) : Sane lo (State.gctxRead x0 x1) := by
  unfold State.gctxRead
  try dsimp only
  repeat' (first
    | (with_reducible assumption) | (simp only [sane_mk, sane_iff]) | (intro _) | (with_reducible apply foldl_wf) |
    (with_reducible apply foldl_wf2) | (with_reducible apply foldl_wf3) | (with_reducible apply State_hartResult_wf) |
    (with_reducible apply State_hartRaise_wf) | (with_reducible apply ite_wf) | split)

@[simp] theorem State_hartBlock_wf {lo : Nat} (x0 : State) (x1 : Nat) (x2 : Nat) (x3 : Bool) (h0 : Sane lo x0) : Sane lo
    (State.hartBlock x0 x1 x2 x3) := by
  unfold State.hartBlock
  try dsimp only
  repeat' (first
    | (with_reducible assumption) | (simp only [sane_mk, sane_iff]) | (intro _) | (with_reducible apply foldl_wf) |
    (with_reducible apply foldl_wf2) | (with_reducible apply foldl_wf3) | (with_reducible apply State_writeBackLine_wf) |
    (with_reducible apply ite_wf) | split)

@[simp] theorem State_hartFence_wf {lo : Nat} (x0 : State) (x1 : Nat) (h0 : Sane lo x0) : Sane lo (State.hartFence x0 x1) :=
    by
  unfold State.hartFence
  exact h0

@[simp] theorem State_hartLoad_wf {lo : Nat} (x0 : State) (x1 : Nat) (x2 : Nat) (x3 : Nat) (h0 : Sane lo x0) : Sane lo
    (State.hartLoad x0 x1 x2 x3) := by
  unfold State.hartLoad
  try dsimp only
  repeat' (first
    | (with_reducible assumption) | (simp only [sane_mk, sane_iff]) | (intro _) | (with_reducible apply foldl_wf) |
    (with_reducible apply foldl_wf2) | (with_reducible apply foldl_wf3) | (with_reducible apply State_hartResult_wf) |
    (with_reducible apply State_hartRaise_wf) | (with_reducible apply ite_wf) | split)

theorem State_startWrite_good {lo : Nat} (s : State) (v : Word64) (h : Sane lo s) : Good lo (s.startWrite v) := by
  unfold State.startWrite
  dsimp only
  repeat' split
  · exact exec_step_good _ _ rfl h
  · exact exec_step_good _ _ rfl h
  · exact good_next h

theorem State_timeWrite_good {lo : Nat} (s : State) (v : Word64) (h : Sane lo s) : Good lo (s.timeWrite v) := by
  unfold State.timeWrite
  obtain ⟨t, ht, hw⟩ := exec_step_good (.tadjRate (v.setWidth 32)) s rfl h
  rw [ht]
  exact exec_step_good _ _ rfl hw

theorem State_actWrite_good {lo : Nat} (s : State) (n : Nat) (v : Word64) (h : Sane lo s) : Good lo (s.actWrite n v) := by
  unfold State.actWrite
  repeat' split
  all_goals first | exact good_next h | exact exec_step_good _ _ rfl h

theorem State_mgmtStore_good {lo : Nat} (s : State) (v : Word64) (r : MgmtView) (h : Sane lo s) : Good lo (s.mgmtStore v r) := by
  unfold State.mgmtStore
  repeat' split
  all_goals first
    | (with_reducible exact good_next h)
    | ((with_reducible refine exec_step_good _ _ ?_ h); rfl)
    | (with_reducible exact State_startWrite_good _ _ h)
    | (with_reducible exact State_timeWrite_good _ _ h)
    | (with_reducible exact State_actWrite_good _ _ _ h)
    | (refine good_next (foldl_wf _ _ _ h fun s d h => ?_)
       split <;> simp [*])

theorem State_hartStore_good {lo : Nat} (s : State) (hart pa : Nat) (data : List Byte) (h : Sane lo s) :
    Good lo (s.hartStore hart pa data) := by
  unfold State.hartStore
  dsimp only
  repeat' split
  all_goals first
    | (with_reducible exact good_next h)
    | ((with_reducible refine exec_step_good _ _ ?_ h); rfl)
    | (with_reducible exact good_next (State_hartRaise_wf _ _ _ h))
    | (with_reducible exact State_mgmtStore_good _ _ _ h)

@[simp] theorem State_latch_wf {lo : Nat} (x0 : State) (x1 : Nat) (x2 : Bool) (h0 : Sane lo x0) : Sane lo (State.latch x0 x1
    x2) := by
  unfold State.latch
  exact h0

/-- A fetch and decode changes of the waves and the issue latch the latch's word only. -/
theorem State_fetchInstr {lo : Nat} (s t : State) (va : Nat) (i : Instr) (h : Sane lo s) (he : s.fetchInstr va = .ok (i, t)) :
    Sane lo t ∧ t.waves = s.waves ∧ t.iss.cur = s.iss.cur ∧ t.iss.slot = s.iss.slot ∧ t.iss.pfx = s.iss.pfx := by
  unfold State.fetchInstr at he
  split at he
  · cases he
  · rename_i w s1 h1
    obtain ⟨a, b, c⟩ := State_fetchWord _ _ _ _ h h1
    dsimp only at he
    split at he
    · split at he
      · cases he
      · rename_i w2 s2 h2
        obtain ⟨a', b', c'⟩ := State_fetchWord _ _ _ _ (by simpa only [sane_mk, sane_iff] using a) h2
        split at he
        · cases he
          exact ⟨a', b'.trans b, by rw [c', c], by rw [c', c], by rw [c', c]⟩
        · cases he
    · split at he
      · cases he
        exact ⟨by simpa only [sane_mk, sane_iff] using a, b, by rw [c], by rw [c], by rw [c]⟩
      · cases he

theorem State_fetchInstr_error {lo : Nat} (s t : State) (va : Nat) (x : Trap) (h : Sane lo s) (he : s.fetchInstr va = .error (x, t)) :
    Sane lo t := by
  unfold State.fetchInstr at he
  split at he
  · cases he; exact h
  · rename_i w s1 h1
    have a : Sane lo { s1 with iss := { s1.iss with word := w } } := by
      simpa only [sane_mk, sane_iff] using (State_fetchWord _ _ _ _ h h1).1
    dsimp only at he
    split at he
    · split at he
      · cases he; exact a
      · rename_i w2 s2 h2
        have a' := State_fetchWord _ _ _ _ a h2
        split at he
        · cases he
        · cases he; exact a'.1
    · split at he
      · cases he
      · cases he; exact a

theorem State_runIssue_good {lo : Nat} (s : State) (hi : s.issuing = true) (hp : s.iss.pfx = none) (h : Sane lo s) :
    Good lo s.runIssue.out := by
  unfold State.runIssue
  split
  · rename_i t s1 e1
    exact good_next (State_takeTrap_wf _ _ (State_fetchInstr_error _ _ _ _ h e1))
  · rename_i i s1 e1
    obtain ⟨hs1, b, c, d, e⟩ := State_fetchInstr _ _ _ _ h e1
    have hi1 : s1.issuing = true := by
      simp only [State.issuing, State.wave, b, c, d] at *; exact hi
    split
    · exact exec_good _ _ hi1 hs1
    · rename_i hx
      cases i <;> simp [isXw] at hx
      rename_i x
      have hpx : s1.iss.pfx = none := by rw [e, hp]
      have : exec (.xw x) s1 = .next { s1 with iss := { s1.iss with pfx := some x } } := by
        simp [exec, execXw, State.guarded, hi1, hpx]
      rw [this]
      dsimp only
      split
      · rename_i t s2 e2
        exact good_next (State_takeTrap_wf _ _ (State_fetchInstr_error _ _ _ _ (by exact hs1) e2))
      · rename_i j s2 e2
        obtain ⟨hs2, b', c', d', -⟩ := State_fetchInstr _ _ _ _ (by exact hs1) e2
        refine exec_good _ _ ?_ hs2
        simp only [State.issuing, State.wave, b', c', d'] at *; exact hi1

@[simp] theorem State_chargeIssue_wf {lo : Nat} (x0 : State) (x1 : WaveId) (x2 : Nat) (x3 : Nat) (h0 : Sane lo x0) : Sane lo
    (State.chargeIssue x0 x1 x2 x3) := by
  simp [State.chargeIssue, *]

@[simp] theorem State_afterIssue_wf {lo : Nat} (x0 : State) (x1 : Nat) (x2 : Bool) (x3 : WaveId) (x4 : Nat) (x5 : Nat) (h0 :
    Sane lo x0) : Sane lo (State.afterIssue x0 x1 x2 x3 x4 x5) := by
  unfold State.afterIssue
  try dsimp only
  repeat' (first
    | (with_reducible assumption) | (simp only [sane_mk, sane_iff]) | (intro _) | (with_reducible apply foldl_wf) |
    (with_reducible apply foldl_wf2) | (with_reducible apply foldl_wf3) | (with_reducible apply State_chargeIssue_wf) |
    (with_reducible apply State_modWaveAt_wf) | (with_reducible apply ite_wf) | split)

@[simp] theorem State_takeBreak_wf {lo : Nat} (x0 : State) (h0 : Sane lo x0) : Sane lo (State.takeBreak x0) := by
  simp [State.takeBreak, *]

theorem State_issueSlot_good {lo : Nat} (s : State) (k : Nat) (slot : Bool) (hs : ((s.waveAt k).pcs.slot slot).isSome = true)
    (h : Sane lo s) : Good lo (s.issueSlot k slot) := by
  unfold State.issueSlot
  dsimp only
  have hl := State_latch_wf s k slot h
  obtain ⟨t, ht, hw⟩ := State_runIssue_good (s.latch k slot) hs rfl hl
  rw [ht]
  dsimp only
  split
  · exact good_next (State_afterIssue_wf _ _ _ _ _ _ (State_takeBreak_wf _ hl))
  · exact good_next (State_afterIssue_wf _ _ _ _ _ _ hw)

theorem Wave_nextSlot (w : Wave) (b : Bool) (h : w.nextSlot = some b) : (w.pcs.slot b).isSome = true := by
  unfold Wave.nextSlot at h
  dsimp only at h
  cases h0 : w.pcs.slot false <;> cases h1 : w.pcs.slot true <;> cases b <;> simp_all <;> (split at h <;> simp_all)

@[simp] theorem State_applyCycle_wf {lo : Nat} (x0 : State) (x1 : Nat → Bool) (h0 : Sane lo x0) : Sane lo (State.applyCycle
    x0 x1) := by
  unfold State.applyCycle
  try dsimp only
  repeat' (first
    | (with_reducible assumption) | (simp only [sane_mk, sane_iff]) | (intro _) | (with_reducible apply foldl_wf) |
    (with_reducible apply foldl_wf2) | (with_reducible apply foldl_wf3) | (with_reducible apply State_applyCycEffs_wf) |
    (with_reducible apply State_cutWave_wf) | (with_reducible apply ite_wf) | split)

@[simp] theorem State_endCycle_wf {lo : Nat} (x0 : State) (x1 : Nat → Bool) (h0 : Sane lo x0) : Sane lo (State.endCycle x0
    x1) := by
  unfold State.endCycle
  try dsimp only
  repeat' (first
    | (with_reducible assumption) | (simp only [sane_mk, sane_iff]) | (intro _) | (with_reducible apply foldl_wf) |
    (with_reducible apply foldl_wf2) | (with_reducible apply foldl_wf3) | (with_reducible apply State_applyCycle_wf) |
    (with_reducible apply ite_wf) | split)

@[simp] theorem State_passTime_wf {lo : Nat} (s : State) (h : Sane lo s) : Sane lo s.passTime :=
  ⟨h.1, Nat.le_trans h.2 (Nat.le_add_right _ _)⟩

@[simp] theorem State_tickCycle_wf {lo : Nat} (x0 : State) (h0 : Sane lo x0) : Sane lo (State.tickCycle x0) := by
  unfold State.tickCycle
  try dsimp only
  repeat' (first
    | (with_reducible assumption) | (simp only [sane_mk, sane_iff]) | (intro _) | (with_reducible apply foldl_wf) |
    (with_reducible apply foldl_wf2) | (with_reducible apply foldl_wf3) | (with_reducible apply State_endCycle_wf) |
    (with_reducible apply State_passTime_wf) | (with_reducible apply State_applyPatterns_wf) | (with_reducible apply ite_wf)
    | split)

@[simp] theorem State_evictIc_wf {lo : Nat} (x0 : State) (x1 : Nat) (x2 : Nat) (h0 : Sane lo x0) : Sane lo (State.evictIc x0
    x1 x2) := by
  simp [State.evictIc, *]

@[simp] theorem State_fetchAhead_wf {lo : Nat} (x0 : State) (x1 : Nat) (x2 : Nat) (x3 : Nat) (h0 : Sane lo x0) : Sane lo
    (State.fetchAhead x0 x1 x2 x3) := by
  unfold State.fetchAhead
  dsimp only
  repeat' (first
    | (with_reducible assumption) | (simp only [sane_mk, sane_iff]) | (intro _) | (with_reducible apply foldl_wf)
    | (with_reducible apply foldl_wf2) | (with_reducible apply foldl_wf3) | (with_reducible apply State_fillIc_wf)
    | (with_reducible apply ite_wf) | (with_reducible apply good_next) | split)

@[simp] theorem State_tickDie_wf {lo : Nat} (x0 : State) (x1 : Nat) (h0 : Sane lo x0) : Sane lo (State.tickDie x0 x1) := by
  unfold State.tickDie
  try dsimp only
  repeat' (first
    | (with_reducible assumption) | (simp only [sane_mk, sane_iff]) | (intro _) | (with_reducible apply foldl_wf) |
    (with_reducible apply foldl_wf2) | (with_reducible apply foldl_wf3) | (with_reducible apply State_endCycle_wf) |
    (with_reducible apply State_applyPatterns_wf) | (with_reducible apply ite_wf) | split)

theorem State_act_good {lo : Nat} (s : State) (a : Agent) (h : Sane lo s) : Good lo (s.act a) := by
  cases a with
  | issue k =>
    simp only [State.act]
    split
    · exact good_next h
    · rename_i w hw
      split
      · exact good_next h
      · rename_i slot hs
        split
        · refine State_issueSlot_good _ _ _ ?_ h
          have := Wave_nextSlot _ _ hs
          simpa [State.waveAt, FMap.get, hw] using this
        · exact good_next h
  | event i =>
    simp only [State.act]
    split
    · rename_i he; exact exec_step_good _ _ he h
    · exact good_next h
  | tick => exact good_next (ite_wf _ (State_tickCycle_wf _ h) h)
  | evictL1 a b => exact good_next (State_evictL1_wf _ _ _ h)
  | evictL2 a b => exact good_next (State_evictL2_wf _ _ _ h)
  | evictIc a b => exact good_next (State_evictIc_wf _ _ _ h)
  | fetchAhead a b c => exact good_next (State_fetchAhead_wf _ _ _ _ h)
  | hartFence a => exact good_next (State_hartFence_wf _ _ h)
  | remoteAck n => exact good_next (State_remoteAck_wf _ _ h)
  | voltageFall d => exact good_next (State_voltageFall_wf _ _ h)
  | tickDie d => exact good_next (ite_wf _ (State_tickDie_wf _ _ h) h)
  | hartRun a r => exact good_next (State_hartRun_wf _ _ _ h)
  | hartBlock a l d => exact good_next (State_hartBlock_wf _ _ _ _ h)
  | hartMode a m => exact good_next (State_setHartMode_wf _ _ _ h)
  | gctxRead a => exact good_next (State_gctxRead_wf _ _ h)
  | timeRead a => exact good_next (State_timeRead_wf _ _ h)
  | hartLoad a b c => exact good_next (State_hartLoad_wf _ _ _ _ h)
  | hartStore a b c => simp only [State.act]; exact State_hartStore_good _ _ _ _ h
  | ethQueue a b c d e f => exact good_next (State_ethConfig_wf _ _ _ _ _ _ _ h)

@[simp] theorem State_boot_wf {lo : Nat} (x0 : State) (h0 : Sane lo x0) : Sane lo (State.boot x0) := by
  unfold State.boot
  dsimp only
  repeat' (first
    | (with_reducible assumption) | (simp only [sane_mk, sane_iff]) | (intro _) | (with_reducible apply foldl_wf)
    | (with_reducible apply foldl_wf2) | (with_reducible apply foldl_wf3) | (with_reducible apply State_setWaveAt_wf)
    | (with_reducible apply State_setWgAt_wf) | (with_reducible apply State_setLaunchAt_wf)
    | (with_reducible apply State_setCtxAt_wf) | (with_reducible apply State_memWrite_wf) | split)

@[simp] theorem State_placeCode_wf {lo : Nat} (x0 : State) (x1 : Nat) (x2 : Nat) (x3 : Nat) (h0 : Sane lo x0) : Sane lo
    (State.placeCode x0 x1 x2 x3) := by
  unfold State.placeCode
  try dsimp only
  repeat' (first
    | (with_reducible assumption) | (simp only [sane_mk, sane_iff]) | (intro _) | (with_reducible apply foldl_wf) |
    (with_reducible apply foldl_wf2) | (with_reducible apply foldl_wf3) | (with_reducible apply State_memWrite_wf) |
    (with_reducible apply ite_wf) | split)

@[simp] theorem State_withFetchWord_wf {lo : Nat} (x0 : State) (x1 : Nat) (x2 : Nat) (h0 : Sane lo x0) : Sane lo
    (State.withFetchWord x0 x1 x2) := by
  unfold State.withFetchWord
  split <;> simp [*]

end Sys2Proof.Laws.KeepsMem
end

