-- ==== Sys2Proof/Laws/Ops.lean ====
section
/-!
SUPPORT. What the shared operations do: one lemma for each that says all of it, to be cited in place of unfolding.
-/

namespace Sys2Proof.Machine

theorem FMap.put_put {α : Type} (m : FMap α) (k : Nat) (v x : α) : (m.put k v).put k x = m.put k x := by
  induction m with
  | nil => simp [FMap.put]
  | cons e t ih =>
    obtain ⟨j, y⟩ := e
    simp only [FMap.put]
    by_cases h : k < j
    · simp [h, FMap.put]
    · by_cases h' : j = k
      · subst h'; simp [FMap.put]
      · simp [h, h', FMap.put, ih]

/-! ## Waves -/

@[simp] theorem State.waveAt_setWaveAt (s : State) (k : Nat) (w : Wave) : (s.setWaveAt k w).waveAt k = w := by
  simp [State.waveAt, State.setWaveAt]

@[simp] theorem State.setWaveAt_setWaveAt (s : State) (k : Nat) (w v : Wave) : (s.setWaveAt k w).setWaveAt k v = s.setWaveAt k v := by
  simp [State.setWaveAt, FMap.put_put]

@[simp] theorem State.modWaveAt_setWaveAt (s : State) (k : Nat) (w : Wave) (f : Wave → Wave) :
    (s.setWaveAt k w).modWaveAt k f = s.setWaveAt k (f w) := by
  simp [State.modWaveAt]

@[simp] theorem State.wave_setWave (s : State) (w : Wave) : (s.setWaveAt s.iss.cur w).wave = w := by
  simp [State.wave, State.setWaveAt]

theorem State.wave_def (s : State) : s.wave = s.waveAt s.iss.cur := rfl

/-! ## Registers -/

theorem mem_lanesOf (m : Lanes) (l : Nat) : l ∈ lanesOf m ↔ l < 64 ∧ m.getLsbD l = true := by
  simp [lanesOf, inLanes]

theorem Regs.writeVec_v (r : Regs) (reg : Nat) (vals : List LaneVal) (m : Lanes) (reg' l : Nat) (h : l < 64) :
    (r.writeVec reg vals m).v.get LaneVal.zero (64 * reg' + l) =
      if reg = reg' ∧ m.getLsbD l then vals.getD l LaneVal.zero else r.v.get LaneVal.zero (64 * reg' + l) := by
  have key : ∀ (ls : List Nat) (v : FMap LaneVal), (∀ x ∈ ls, x < 64) →
      FMap.get LaneVal.zero (ls.foldl (fun v l => v.set LaneVal.zero (64 * reg + l) (vals.getD l LaneVal.zero)) v) (64 * reg' + l) =
        if reg = reg' ∧ l ∈ ls then vals.getD l LaneVal.zero else v.get LaneVal.zero (64 * reg' + l) := by
    intro ls
    induction ls with
    | nil => simp
    | cons x t ih =>
      intro v hx
      have hx0 : x < 64 := hx x (by simp)
      rw [List.foldl_cons, ih _ fun y hy => hx y (by simp [hy]), FMap.get_set]
      by_cases hr : reg = reg'
      · subst hr
        by_cases hl : l = x
        · subst hl; simp
        · have : ¬ 64 * reg + l = 64 * reg + x := by omega
          simp [hl, this]
      · have : ¬ 64 * reg' + l = 64 * reg + x := by omega
        simp [hr, this]
  unfold Regs.writeVec
  simp only
  rw [key _ _ fun x hx => ((mem_lanesOf m x).1 hx).1]
  simp [mem_lanesOf, h]

theorem Regs.writePred_p (r : Regs) (i : Nat) (x : PredVal) (m : Lanes) (j : Nat) (hj : j < 8) :
    (r.writePred i x m).p[j]?.getD PredVal.false =
      if i = j ∧ i ≠ 0 then
        let o := r.p[j]?.getD PredVal.false
        ⟨(o.val &&& ~~~m) ||| (x.val &&& m), (o.poi &&& ~~~m) ||| (x.poi &&& m)⟩
      else r.p[j]?.getD PredVal.false := by
  unfold Regs.writePred
  split
  · simp [*]
  · rename_i h
    by_cases hij : i = j
    · subst hij; simp [h, hj]
    · simp [hij, hj, Vector.getElem?_setIfInBounds]

/-- The set of lanes of a list. -/
theorem getLsbD_maskOf (ls : List Nat) (l : Nat) : (maskOf ls).getLsbD l = decide (l < 64 ∧ l ∈ ls) := by
  have key : ∀ (ls : List Nat) (m : Lanes),
      (ls.foldl (fun m l => m ||| BitVec.twoPow 64 l) m).getLsbD l = (m.getLsbD l || decide (l < 64 ∧ l ∈ ls)) := by
    intro ls
    induction ls with
    | nil => simp
    | cons x t ih =>
      intro m
      rw [List.foldl_cons, ih]
      simp only [BitVec.getLsbD_or, BitVec.getLsbD_twoPow, Bool.or_assoc]
      by_cases h : l < 64 <;> by_cases hx : l = x
      · subst hx; simp [h]
      · simp [h, hx, Ne.symm hx]
      · subst hx; simp [h]
      · simp only [h, false_and, decide_false, Bool.or_false]
        by_cases hxl : x = l
        · simp [hxl, h]
        · simp [hxl]
  simp [maskOf, key]

/-! ## Retiring -/

/-- The issuing slot of an issuing state. -/
theorem State.issuing_slot {s : State} (h : s.issuing = true) : ∃ x, s.wave.pcs.slot s.iss.slot = some x :=
  Option.isSome_iff_exists.1 h

end Sys2Proof.Machine

namespace Sys2Proof.Claims

open Sys2Proof.Machine

/-- `s` with the issuing wave at `w` and `g` left to the end of the cycle: the shape of most effects. -/
def withWave (s : State) (w : Wave) (g : List CycEff) : State :=
  { s with waves := s.waves.put s.iss.cur w, endOfCycle := s.endOfCycle ++ g }

section withWave

variable (s : State) (w v : Wave) (g : List CycEff)

theorem setWaveAt_withWave : s.setWaveAt s.iss.cur w = withWave s w [] := by simp [withWave, State.setWaveAt]

@[simp] theorem withWave_wave : (withWave s w g).wave = w := by simp [withWave, State.wave]
@[simp] theorem withWave_waveAt : (withWave s w g).waveAt s.iss.cur = w := by simp [withWave, State.waveAt]
@[simp] theorem withWave_iss : (withWave s w g).iss = s.iss := rfl
@[simp] theorem withWave_endOfCycle : (withWave s w g).endOfCycle = s.endOfCycle ++ g := rfl
@[simp] theorem withWave_setWave : (withWave s w g).setWave v = withWave s v g := by
  simp [withWave, State.setWave, State.setWaveAt, FMap.put_put]
@[simp] theorem withWave_setWaveAt : (withWave s w g).setWaveAt s.iss.cur v = withWave s v g := by
  simp [withWave, State.setWaveAt, FMap.put_put]
@[simp] theorem withWave_modWaveAt (f : Wave → Wave) : (withWave s w g).modWaveAt s.iss.cur f = withWave s (f w) g := by
  simp [State.modWaveAt]
@[simp] theorem withWave_wgAt (k : Nat) : (withWave s w g).wgAt k = s.wgAt k := rfl
@[simp] theorem withWave_withWave (h : List CycEff) : withWave (withWave s w g) v h = withWave s v (g ++ h) := by
  simp [withWave, FMap.put_put]

theorem withWave_ctx (h : w.id = s.wave.id) : (withWave s w g).ctx = s.ctx := by
  unfold State.ctx; rw [withWave_wave, h]; rfl

theorem withWave_wg (h : w.id = s.wave.id) : (withWave s w g).wg = s.wg := by
  unfold State.wg; rw [withWave_wave, h]; rfl

theorem withWave_dueClasses : (withWave s w g).dueClasses = s.dueClasses := rfl

theorem withWave_pc (h : w.pcs = s.wave.pcs) : (withWave s w g).pc = s.pc := by
  unfold State.pc; rw [withWave_wave, h]; rfl

end withWave

/-- What a retirement's counts leave is `retired`. -/
theorem tally_eq (s : State) (w : Wave) (sw : Bool) : w.tally sw s.ctx.qlog s.dueClasses = retired s w sw := by
  unfold Wave.tally retired nextQclk Wave.outstanding Wave.become Wave.repro
  rcases h1 : w.env.hm <;> rcases h2 : w.id.repro <;> rcases h3 : sw <;> simp [h1, h2] <;>
    by_cases h5 : (BitVec.toNat w.qclk + 1) % 18446744073709551616 % 2 ^ s.ctx.qlog = 0 <;> (try simp [h5]) <;>
    by_cases h4 : w.st = .preempting <;> (try simp [h4]) <;> (repeat' split) <;> simp_all

/-- Retiring an instruction of `n` words. -/
theorem retireN_withWave (s : State) (w : Wave) (g : List CycEff) (sw : Bool) (n : Nat) (hi : s.issuing = true)
    (hp : w.pcs = s.wave.pcs) (hd : w.id = s.wave.id) : (withWave s w g).retireN sw n = goneOn s w g sw n := by
  obtain ⟨x, hx⟩ := State.issuing_slot hi
  rw [← hp] at hx
  unfold State.retireN State.setPc
  rw [withWave_wave, withWave_pc _ _ _ hp, withWave_iss]
  dsimp only
  rw [hx]
  dsimp only
  unfold State.retireAt
  rw [withWave_setWave, withWave_wave]
  dsimp only
  rw [withWave_ctx _ _ _ (by exact hd), withWave_dueClasses, tally_eq]
  simp only [withWave_setWave, withWave_iss, goneOn, forward, hx, Issue.bytes]
  rfl

theorem goneOn_sameBytes (s : State) (w : Wave) (g : List CycEff) (sw : Bool) (n : Nat) : SameBytes s (goneOn s w g sw n) :=
  fun _ _ => ⟨rfl, rfl⟩

theorem went_withWave (s : State) (w : Wave) (g : List CycEff) (sw : Bool) (n : Nat) (hi : s.issuing = true)
    (hp : w.pcs = s.wave.pcs) (hd : w.id = s.wave.id) : Went s w g sw n ((withWave s w g).retireN sw n) := by
  rw [retireN_withWave s w g sw n hi hp hd]; exact ⟨rfl, goneOn_sameBytes s w g sw n⟩

/-! ## Results -/

/-- Delivering a value at once: where it lands, and what it leaves to the end of the cycle or holds. -/
theorem holds_none (r : Regs) (m : List Nat) (x : Nat → ScalVal) : Holds r r .none m x := ⟨by simp, by simp, by simp, by simp⟩

theorem find_filterMap {β : Type} (m : List Nat) (f : Nat → Option β) (p : β → Bool) (q : Nat → Bool)
    (h : ∀ l x, f l = some x → p x = q l) : (m.filterMap f).find? p = (m.filter q).findSome? f := by
  induction m with
  | nil => rfl
  | cons l t ih =>
    cases hf : f l with
    | none => cases hq : q l <;> simp [hf, hq, ih]
    | some x => cases hq : q l <;> simp [hf, hq, ih, h l x hf]

theorem freshOf_map (m : List Nat) (r : Nat → LRes) : freshOf (m.map fun l => (l, r l)) = m.filterMap (faultOf r) := by
  simp only [freshOf, List.filterMap_map]; rfl

theorem faultOf_lane (r : Nat → LRes) (l : Nat) (x : Nat × BitVec 8 × Nat) (h : faultOf r l = some x) : x.1 = l := by
  unfold faultOf at h; split at h <;> cases h; rfl

theorem flagsOf_eq (m : List Nat) (r : Nat → LRes) (up : Bool) (p : Nat → Bool) (h : ∀ l, p l = (decide (32 ≤ l) == up)) :
    orAll (((m.map fun l => (l, r l)).filter fun e => p e.1).map fun e => e.2.flags) = flagsOf m up r := by
  simp only [orAll, flagsOf, List.filter_map, List.map_map, List.foldl_map]
  have : (fun l => decide (32 ≤ l) == up) = (fun e : Nat × LRes => p e.1) ∘ fun l => (l, r l) := by
    funext l; simp [h]
  rw [this]; rfl

/-- The new tokens of an instruction's lanes. -/
theorem scal_eq (s : State) (m : List Nat) (r : Nat → LRes) (l : Nat) (hl : l ∈ m) :
    (r l).scal (s.makeTokens s.iss.cur s.pc (freshOf (m.map fun l => (l, r l)))).1 l = valueOf s l (r l) := by
  cases hr : r l with
  | tok t => rfl
  | val x f => rfl
  | fresh c a f =>
    simp only [LRes.scal, valueOf, State.makeTokens, freshOf_map, List.find?_map]
    have hf : faultOf r l = some (l, c, a) := by simp [faultOf, hr]
    have : ((fun t : Nat × Word32 => t.1 == l) ∘ fun f : Nat × BitVec 8 × Nat =>
        (f.1, tokenOf f.2.1 (if 32 ≤ f.1 then (s.waveAt s.iss.cur).hi.turn else (s.waveAt s.iss.cur).lo.turn) f.2.2)) =
        fun f => f.1 == l := rfl
    rw [this, find_filterMap m (faultOf r) (fun f => f.1 == l) (fun x => x == l)
      fun y x h => by rw [faultOf_lane r y x h]]
    have : (m.filter fun x => x == l).findSome? (faultOf r) = some (l, c, a) := by
      have hm : ∀ x ∈ m.filter (fun x => x == l), x = l := fun x hx => by simpa using (List.mem_filter.1 hx).2
      have hne : l ∈ m.filter (fun x => x == l) := List.mem_filter.2 ⟨hl, by simp⟩
      cases hm' : m.filter (fun x => x == l) with
      | nil => rw [hm'] at hne; simp at hne
      | cons y t => rw [hm'] at hm; have := hm y (by simp); subst this; simp [hf]
    rw [this]
    rfl

/-- The origin entry and the flags of one half. -/
theorem half_eq (s : State) (h : Half) (m : List Nat) (r : Nat → LRes) (up : Bool) (sub : Nat → Nat)
    (hsub : ∀ l, (decide (32 ≤ l) == up) = true → BitVec.ofNat 5 (sub l) = BitVec.ofNat 5 (l % 32)) (fl : BitVec 6)
    (hf : fl = flagsOf m up r) :
    (let h' := match lowestFault (freshOf (m.map fun l => (l, r l))) up with
      | some f => h.takeOrigin f.2.1 (sub f.1) (BitVec.ofNat 24 ((s.pc - s.wg.kern.text).toNat / 4)) f.2.2
      | none => h
     { h' with fflags := h'.fflags ||| fl }) = halfAfter s h m up r := by
  subst hf
  unfold lowestFault halfAfter
  rw [freshOf_map, find_filterMap m (faultOf r) _ (fun l => decide (32 ≤ l) == up) fun y x h => by rw [faultOf_lane r y x h]]
  cases hx : (m.filter fun l => decide (32 ≤ l) == up).findSome? (faultOf r) with
  | none => rfl
  | some x =>
    obtain ⟨l, c, a⟩ := x
    obtain ⟨y, hy, hy'⟩ := List.exists_of_findSome?_eq_some hx
    have : l = y := faultOf_lane r y _ hy'
    subst this
    simp only [Half.takeOrigin, hsub l (List.mem_filter.1 hy).2]

/-- The values a destination is given. -/
theorem writes_at (m : List Nat) (x : Nat → ScalVal) (l : Nat) :
    (((m.map fun l => (l, x l)).find? fun e => e.1 == l).map (·.2)) = if l ∈ m then some (x l) else none := by
  induction m with
  | nil => rfl
  | cons y t ih =>
    by_cases hy : y = l
    · subst hy; simp
    · simp only [List.map_cons, List.find?_cons, beq_eq_false_iff_ne.2 hy, ih, List.mem_cons, Ne.symm hy, false_or]

theorem writes_find (m : List Nat) (x : Nat → ScalVal) (l : Nat) (hl : l ∈ m) :
    (((m.map fun l => (l, x l)).find? fun e => e.1 == l).map (·.2)).getD ScalVal.zero = x l := by
  rw [writes_at, if_pos hl]; rfl

/-- The values as they go to a destination: by lane to a vector register, of lane 0 and of a pair's upper half to a scalar one, of the half
with the higher slot to a g register. -/
theorem writes_eq (s : State) (m : List Nat) (d : Dest) (x : Nat → ScalVal) (h0 : (d = .none ∨ ∃ n, d = .vec n) ∨ 0 ∈ m) :
    d.writes s.wave.id.topLane (m.map fun l => (l, x l)) = match d with
      | .none => []
      | .vec r => [.vec r ((List.range 64).map fun l =>
          let v := if l ∈ m then x l else ScalVal.zero
          ⟨v.bits.setWidth 32, v.p⟩)]
      | .scal i => .scal i (x 0) :: if 32 ∈ m then [.scalHi i (x 32)] else []
      | .wgreg i => [.wgreg i (sharedOf s m x)] := by
  cases d with
  | none => rfl
  | vec n =>
    simp only [Dest.writes, writes_at]
    congr 1; congr 1
    refine List.map_congr_left fun l _ => ?_
    by_cases h : l ∈ m <;> simp [h]
  | scal i =>
    have h0 : 0 ∈ m := h0.resolve_left (by simp)
    simp only [Dest.writes, writes_at, h0, if_true, Option.getD_some]
    by_cases h : 32 ∈ m <;> simp [h]
  | wgreg i =>
    have h0 : 0 ∈ m := h0.resolve_left (by simp)
    simp only [Dest.writes, writes_at, h0, if_true, Option.getD_some, WaveId.topLane, sharedOf]
    by_cases hp : s.wave.id.paired = true
    · by_cases hs : s.wave.id.slot.toNat < s.wave.id.slotHi.toNat
      · by_cases h : 32 ∈ m <;> simp [h, hp, hs]
      · simp [hp, hs, h0]
    · simp [hp, h0]

theorem writeScalar_upper (r : Regs) (i : Nat) (a b : ScalVal) (both : Bool) :
    let r1 := r.writeScal i a
    let r2 := if both then r1.writeScalHi i b else r1
    r2.v = r.v ∧ (∀ j, j < 48 → r2.s[j]? = if i = j then some a else r.s[j]?) ∧
      (∀ j, j < 48 → r2.sHi.find j = if i = j then (if both ∧ b ≠ a then some b else none) else r.sHi.find j) ∧
      r2.p = r.p ∧ r2.b = r.b ∧ r2.m = r.m ∧ r2.wbase = r.wbase := by
  have hs : ∀ j, j < 48 → (r.writeScal i a).s[j]? = if i = j then some a else r.s[j]? := by
    intro j hj
    by_cases h : i = j
    · subst h; simp [Regs.writeScal, hj]
    · simp [Regs.writeScal, h, Vector.getElem?_setIfInBounds]
  have he : ∀ j, ((r.writeScal i a).sHi.erase i).find j = if i = j then none else r.sHi.find j := by
    intro j
    by_cases h : i = j
    · subst h; simp [Regs.writeScal]
    · simp [Regs.writeScal, h, FMap.find_erase_other _ (Ne.symm h)]
  have hu : ∀ j, (r.writeScal i a).sHi.find j = if i = j then none else r.sHi.find j := by
    intro j
    by_cases h : i = j
    · subst h; simp [Regs.writeScal]
    · simp [Regs.writeScal, h, FMap.find_erase_other _ (Ne.symm h)]
  cases both with
  | false => exact ⟨rfl, hs, fun j _ => by simp [hu j], rfl, rfl, rfl, rfl⟩
  | true =>
    refine ⟨rfl, hs, fun j hj => ?_, rfl, rfl, rfl, rfl⟩
    simp only [if_true, Regs.writeScalHi]
    by_cases h : i = j
    · subst h
      rw [hs i hj]
      by_cases hb : b = a
      · subst hb; simp
      · simp [hb, Ne.symm hb]
    · split
      · simpa [h] using he j
      · simp [h, FMap.find_put_other _ _ (Ne.symm h), hu j]

/-- Values written at once. -/
theorem write_withWave (s : State) (w : Wave) (d : Dest) (m : List Nat) (x : Nat → ScalVal)
    (h0 : (d = .none ∨ ∃ n, d = .vec n) ∨ 0 ∈ m) (hid : w.id = s.wave.id) (henv : w.env = s.wave.env) :
    ∃ v g, ((withWave s w []).writeRegs s.iss.cur (d.mask m) (d.writes s.wave.id.topLane (m.map fun l => (l, x l)))).noteG s.iss.cur
        (d.writes s.wave.id.topLane (m.map fun l => (l, x l))) = withWave s v g ∧
      Holds w.regs v.regs d m x ∧ v = { w with regs := v.regs, fifo := v.fifo, idem := v.idem } ∧
      g = (gEffects s false d (sharedOf s m x)).1 ∧ v.fifo = w.fifo ++ (gEffects s false d (sharedOf s m x)).2 ∧
      v.idem = if Dest.isG d then { w.idem with idv := false } else w.idem := by
  rw [writes_eq s m d x h0]
  cases d with
  | none => exact ⟨w, [], rfl, holds_none _ _ _, rfl, rfl, by simp [gEffects], rfl⟩
  | vec n =>
    refine ⟨{ w with regs := w.regs.writeVec n ((List.range 64).map fun l =>
      let v := if l ∈ m then x l else ScalVal.zero
      ⟨v.bits.setWidth 32, v.p⟩) (maskOf m) }, [], ?_, ⟨?_, ?_, ?_, rfl, rfl, rfl, rfl⟩, rfl, rfl, ?_, rfl⟩
    · simp only [State.writeRegs, State.writeReg, List.foldl_cons, List.foldl_nil, State.deliver, withWave_modWaveAt, State.noteG,
        List.any_cons, List.any_nil, RegVal.isG, Bool.or_false, Bool.false_eq_true, if_false, Dest.mask]
    · intro reg l hl
      dsimp only
      rw [Regs.writeVec_v _ _ _ _ _ _ hl, getLsbD_maskOf]
      by_cases hm : l ∈ m
      · simp only [Dest.vec.injEq, hl, hm, and_self, decide_true, and_true]
        split
        · rw [List.getD_eq_getElem _ _ (by simpa using hl)]
          simp only [List.getElem_map, List.getElem_range, hm, if_true]
        · rfl
      · simp [hm]
    · intro i hi; simp [Regs.writeVec]
    · intro i hi; simp [Regs.writeVec]
    · simp [gEffects]
  | scal i =>
    have h1 := writeScalar_upper w.regs i (x 0) (x 32) (decide (32 ∈ m))
    refine ⟨{ w with regs := if 32 ∈ m then (w.regs.writeScal i (x 0)).writeScalHi i (x 32) else w.regs.writeScal i (x 0) }, [], ?_, ?_, rfl,
      rfl, ?_, rfl⟩
    · by_cases h : 32 ∈ m <;>
        simp only [State.writeRegs, State.writeReg, List.foldl_cons, List.foldl_nil, State.deliver, withWave_modWaveAt, State.noteG,
          List.any_cons, List.any_nil, RegVal.isG, Bool.or_false, Bool.false_eq_true, if_false, if_true, h]
    · simp only [decide_eq_true_eq] at h1
      obtain ⟨hv, hs, hu, hp, hb, hm, hw⟩ := h1
      refine ⟨fun reg l _ => ?_, fun j hj => ?_, fun j hj => ?_, hp, hb, hm, hw⟩
      · simp [hv]
      · simpa using hs j hj
      · simpa using hu j hj
    · simp [gEffects]
  | wgreg i =>
    by_cases hr : w.repro
    · have hr' : s.wave.repro = true := by unfold Wave.repro at *; rw [← hid, ← henv]; exact hr
      refine ⟨{ w with fifo := w.fifo ++ [.gwrite i (sharedOf s m x)], idem := { w.idem with idv := false } }, [], ?_,
        ⟨by simp, by simp, by simp, rfl, rfl, rfl, rfl⟩, rfl, ?_, ?_, ?_⟩
      · simp only [State.writeRegs, State.writeReg, List.foldl_cons, List.foldl_nil, withWave_waveAt, State.noteG,
          List.any_cons, List.any_nil, RegVal.isG, Bool.or_false, hr, if_true, State.hold, withWave_modWaveAt]
        rfl
      · simp [gEffects, hr']
      · simp [gEffects, hr']
      · simp [Dest.isG]
    · have hr' : s.wave.repro = false := by unfold Wave.repro at *; rw [← hid, ← henv]; simpa using hr
      refine ⟨w.clearIdem, [.g s.wave.id.topSlot s.wave.id.wgKey i (sharedOf s m x)], ?_, ⟨by simp [Wave.clearIdem], by simp [Wave.clearIdem],
        by simp [Wave.clearIdem], rfl, rfl, rfl, rfl⟩, rfl, ?_, ?_, ?_⟩
      · simp only [State.writeRegs, State.writeReg, List.foldl_cons, List.foldl_nil, withWave_waveAt, State.noteG,
          List.any_cons, List.any_nil, RegVal.isG, Bool.or_false, hr, if_true, State.deliver, hid]
        simp [State.modWaveAt, State.waveAt, withWave, State.setWaveAt, FMap.put_put]
      · simp [gEffects, hr']
      · simp [gEffects, hr', Wave.clearIdem]
      · simp [Wave.clearIdem, Dest.isG]

theorem mask_bits (d : Dest) (m : List Nat) (l : Nat) : (d.mask m).getLsbD l = decide (l < 64 ∧ l ∈ pendLanes d m) := by
  cases d with
  | vec r => exact getLsbD_maskOf m l
  | _ => by_cases h : l = 0 <;> simp [Dest.mask, pendLanes, BitVec.getLsbD_one, h]

/-- The result that is added: a g register's value of a reproducible wave is noted as held. -/
def lateWrites (s : State) (d : Dest) (m : List Nat) (x : Nat → ScalVal) : List RegVal :=
  let ws := d.writes s.wave.id.topLane (m.map fun l => (l, x l))
  if s.wave.repro then ws.map RegVal.onceHeld else ws

/-- What an outstanding result promises. -/
theorem promises_writes (s : State) (m : List Nat) (d : Dest) (x : Nat → ScalVal) (h0 : (d = .none ∨ ∃ n, d = .vec n) ∨ 0 ∈ m) :
    Promises s (Pend.plain (lateWrites s d m x) (d.mask m)) d m x := by
  refine ⟨fun l => mask_bits d m l, ⟨rfl, rfl, rfl⟩, ?_⟩
  unfold lateWrites Pend.plain
  dsimp only
  rw [writes_eq s m d x h0]
  cases d with
  | none => cases s.wave.repro <;> rfl
  | vec n =>
    refine ⟨_, by cases s.wave.repro <;> rfl, fun l hm hl => ?_⟩
    rw [List.getD_eq_getElem _ _ (by simpa using hl)]
    simp only [List.getElem_map, List.getElem_range, hm, if_true]
  | scal i => cases s.wave.repro <;> by_cases h : 32 ∈ m <;> simp [WritesAs, h, RegVal.onceHeld]
  | wgreg i => cases h : s.wave.repro <;> simp [WritesAs, h, RegVal.onceHeld]

/-- Adding an outstanding result. -/
theorem addPend_withWave (s : State) (w : Wave) (d : Dest) (m : List Nat) (x : Nat → ScalVal)
    (h0 : (d = .none ∨ ∃ n, d = .vec n) ∨ 0 ∈ m) (hid : w.id = s.wave.id) (henv : w.env = s.wave.env) :
    (withWave s w []).addPend s.iss.cur (Pend.plain (d.writes s.wave.id.topLane (m.map fun l => (l, x l))) (d.mask m)) =
      withWave s { w with pend := if d = .none then w.pend else w.pend ++ [Pend.plain (lateWrites s d m x) (d.mask m)],
                          fifo := w.fifo ++ (gEffects s true d (sharedOf s m x)).2,
                          idem := if Dest.isG d then { w.idem with idv := false } else w.idem } [] := by
  have hr : w.repro = s.wave.repro := by unfold Wave.repro; rw [hid, henv]
  unfold lateWrites
  rw [writes_eq s m d x h0]
  cases d with
  | none => cases hs : s.wave.repro <;> simp [State.addPend, Pend.plain, gEffects, Dest.isG]
  | _ =>
    cases hs : s.wave.repro <;> rw [hs] at hr <;> (try by_cases h32 : 32 ∈ m) <;>
      simp [State.addPend, State.holdG, State.hold, State.noteG, RegVal.isG, Dest.isG, Wave.clearIdem, Pend.plain, gEffects,
        RegVal.onceHeld, *]

/-- Putting a result: its tokens, its flags, its value. A scalar destination takes lane 0, which must be worked in. -/
theorem putResults_withWave (s : State) (late : Bool) (d : Dest) (m : List Nat) (r : Nat → LRes)
    (h0 : (d = .none ∨ ∃ n, d = .vec n) ∨ 0 ∈ m) :
    ∃ w g, s.putResults late d (m.map fun l => (l, r l)) = withWave s w g ∧
      Result s late d m (fun l => valueOf s l (r l)) w g ∧ w.lo = halfAfter s s.wave.lo m false r ∧
      w.hi = halfAfter s s.wave.hi m true r := by
  let x : Nat → ScalVal := fun l => valueOf s l (r l)
  let w1 : Wave := { s.wave with lo := halfAfter s s.wave.lo m false r, hi := halfAfter s s.wave.hi m true r }
  have hw : ((s.makeTokens s.iss.cur s.pc (freshOf (m.map fun l => (l, r l)))).2.orFlags s.iss.cur
      (orAll (((m.map fun l => (l, r l)).filter fun e => e.1 < 32).map fun e => e.2.flags))
      (orAll (((m.map fun l => (l, r l)).filter fun e => 32 ≤ e.1).map fun e => e.2.flags))) = withWave s w1 [] := by
    simp only [State.makeTokens, State.orFlags, State.modWaveAt_setWaveAt]
    rw [setWaveAt_withWave]
    congr 1
    show _ = w1
    have hlo := half_eq s s.wave.lo m r false id (by intro l hl; simp at hl; simp [Nat.mod_eq_of_lt hl]) _
      (flagsOf_eq m r false (fun l => decide (l < 32)) (by intro l; by_cases h : l < 32 <;> simp [h] <;> omega))
    have hhi := half_eq s s.wave.hi m r true (· - 32) (by
      intro l hl; simp at hl
      apply BitVec.eq_of_toNat_eq; simp; omega) _
      (flagsOf_eq m r true (fun l => decide (32 ≤ l)) (by intro l; simp))
    simp only [w1, ← hlo, ← hhi]
    rfl
  have hv : (m.map fun l => (l, r l)).map (fun e => (e.1, e.2.scal (s.makeTokens s.iss.cur s.pc (freshOf (m.map fun l => (l, r l)))).1 e.1)) =
      m.map fun l => (l, x l) := by
    rw [List.map_map]
    exact List.map_congr_left fun l hl => by simp only [Function.comp, scal_eq s m r l hl]; rfl
  have hm : (m.map fun l => (l, r l)).map (·.1) = m := by simp [List.map_map, Function.comp_def]
  unfold State.putResults
  dsimp only
  rw [hw, hv, hm]
  cases late with
  | true =>
    simp only [if_true]
    rw [addPend_withWave s w1 d m x h0 rfl rfl]
    refine ⟨_, _, rfl, ⟨holds_none _ _ _, ?_, ⟨?_, rfl⟩, rfl, rfl⟩, rfl, rfl⟩
    · by_cases hd : d = .none
      · simp [hd, w1]
      · simp only [hd, w1, ne_eq, not_false_eq_true, and_self, if_true, if_false]
        exact ⟨_, rfl, promises_writes s m d x h0⟩
    · cases d <;> simp only [gEffects] <;> split <;> rfl
  | false =>
    simp only [Bool.false_eq_true, if_false]
    obtain ⟨v, g, e, a, b, c, f, i⟩ := write_withWave s w1 d m x h0 rfl rfl
    exact ⟨v, g, e, ⟨a, by rw [b]; rfl, ⟨c, f⟩, i, by rw [b]⟩, by rw [b], by rw [b]⟩

/-- R157: a vector instruction's destination is a vector register or none, where the mixing rule is in force. -/
theorem dest_of_formTrap {s : State} {f : Form} {extra : Bool} {d : Opd} (ht : s.formTrap f extra = none) (hm : f.mixing = true)
    (hd : f.dst = some { o := d }) (hv : f.isVec = true) : s.dest d = .none ∨ ∃ n, s.dest d = .vec n := by
  have hill : s.illop f = false := by
    unfold State.formTrap at ht
    cases h : s.illop f <;> simp [h] at ht ⊢
  cases d with
  | v c => exact .inr ⟨_, rfl⟩
  | zero => exact .inl rfl
  | laneid => exact .inl rfl
  | waveid => exact .inl rfl
  | time => exact .inl rfl
  | bad b => exact .inl rfl
  | s i =>
    simp [State.illop, hd, hm, Opd.readOnly, Opd.isScalarReg, Form.isVec, Form.all, Opd.isVec, Opd.isBad] at hill hv
    obtain ⟨x, hx, hx'⟩ := hv
    have := hill.1.2 x hx
    cases hx'' : x.o <;> simp_all
  | g i =>
    simp [State.illop, hd, hm, Opd.readOnly, Opd.isScalarReg, Form.isVec, Form.all, Opd.isVec, Opd.isBad] at hill hv
    obtain ⟨x, hx, hx'⟩ := hv
    have := hill.1.2 x hx
    cases hx'' : x.o <;> simp_all

theorem workLanes_eq (s : State) (v : Bool) : s.workLanes v = laneList s v := by
  unfold State.workLanes laneList scalarLanes
  cases v
  · cases hp : s.wave.id.paired <;> cases hl : s.wave.regs.sHi <;> simp
  · rfl

/-- An instruction whose checks pass computes its lane results, writes them and goes on. -/
theorem compute_goes (s : State) (sw late : Bool) (f : Form) (extra : Bool) (d : Opd) (lane : State → Nat → LRes)
    (hi : s.issuing = true) (ht : s.formTrap f extra = none) (hm : f.mixing = true) (hd : f.dst = some { o := d }) :
    ∃ t, s.compute sw late f extra d lane = .next t ∧ Computes s sw late (s.dest d) (laneList s f.isVec) (lane s) t := by
  have h0 : (s.dest d = .none ∨ ∃ n, s.dest d = .vec n) ∨ 0 ∈ laneList s f.isVec := by
    cases hv : f.isVec with
    | true => exact .inl (dest_of_formTrap ht hm hd hv)
    | false => exact .inr (by simp only [laneList, Bool.false_eq_true, if_false, scalarLanes]; split <;> simp)
  obtain ⟨w, g, e, hr, hlo, hhi⟩ := putResults_withWave s late (s.dest d) (laneList s f.isVec) (lane s) h0
  refine ⟨_, ?_, w, g, hr, hlo, hhi, went_withWave s w g sw 1 hi (by rw [hr.rest]) (by rw [hr.rest])⟩
  unfold State.compute State.guarded
  rw [if_pos hi, ht]
  dsimp only
  rw [workLanes_eq, e]
  rfl

/-! ## Predicates -/

/-- Writing a predicate at once. -/
theorem putPred_withWave (s : State) (p : Nat) (m : List Nat) (x : Nat → Option Bool) :
    ∃ r, s.putPred false p (m.map fun l => (l, x l)) = withWave s { s.wave with regs := r } [] ∧ PredHolds s.wave.regs r p m x := by
  have hm : (m.map fun l => (l, x l)).map (·.1) = m := by simp [List.map_map, Function.comp_def]
  have hval : ∀ l, l ∈ m → (maskOf (((m.map fun l => (l, x l)).filter fun e => e.2 == some true).map (·.1))).getLsbD l =
      (decide (l < 64) && (x l == some true)) := by
    intro l hl
    rw [getLsbD_maskOf]
    by_cases h : x l = some true <;> simp [h, hl]
  have hpoi : ∀ l, l ∈ m → (maskOf (((m.map fun l => (l, x l)).filter fun e => e.2.isNone).map (·.1))).getLsbD l =
      (decide (l < 64) && (x l).isNone) := by
    intro l hl
    rw [getLsbD_maskOf]
    cases h : x l <;> simp [h, hl]
  refine ⟨s.wave.regs.writePred p ⟨maskOf (((m.map fun l => (l, x l)).filter fun e => e.2 == some true).map (·.1)),
    maskOf (((m.map fun l => (l, x l)).filter fun e => e.2.isNone).map (·.1))⟩ (maskOf m), ?_, ⟨?_, ?_, ?_, ?_⟩⟩
  · unfold State.putPred
    simp only [Bool.false_eq_true, if_false, State.deliver, hm, State.modWaveAt]
    exact setWaveAt_withWave s _
  · intro i l h0 hi hl
    rw [Regs.writePred_p _ _ _ _ _ hi]
    by_cases hp : i = p
    · subst hp
      have : i ≠ 0 := by omega
      simp only [this, ne_eq, not_false_eq_true, and_self, if_true, true_and, BitVec.getLsbD_or, BitVec.getLsbD_and,
        BitVec.getLsbD_not, hl, decide_true, Bool.true_and, getLsbD_maskOf m l]
      by_cases hlm : l ∈ m
      · rw [hval l hlm]; simp [hlm, hl]
      · simp [hlm]
    · simp [hp, Ne.symm hp]
  · intro i l h0 hi hl
    rw [Regs.writePred_p _ _ _ _ _ hi]
    by_cases hp : i = p
    · subst hp
      have : i ≠ 0 := by omega
      simp only [this, ne_eq, not_false_eq_true, and_self, if_true, true_and, BitVec.getLsbD_or, BitVec.getLsbD_and,
        BitVec.getLsbD_not, hl, decide_true, Bool.true_and, getLsbD_maskOf m l]
      by_cases hlm : l ∈ m
      · rw [hpoi l hlm]; simp [hlm, hl]
      · simp [hlm]
    · simp [hp, Ne.symm hp]
  · unfold Regs.writePred
    split
    · rfl
    · rename_i h; simp [Vector.getElem?_setIfInBounds, Ne.symm h, h]
  · unfold Regs.writePred
    split <;> exact ⟨rfl, rfl, rfl, rfl, rfl, rfl⟩

/-- A compare whose checks pass writes its truths and goes on. -/
theorem comparing_goes (s : State) (sw : Bool) (f : Form) (p : BitVec 3) (toks : State → Bool → Nat → List (Option Word32))
    (holds : State → Bool → Nat → Bool) (hi : s.issuing = true) (ht : s.formTrap f false = none) :
    ∃ t, s.comparing sw f p toks holds = .next t ∧ Compares s sw p.toNat (lanesOf s.active)
      (fun l => if (firstTok (toks s f.isVec l ++ [s.guardTok l])).isSome then none else some (holds s f.isVec l)) 0#6 0#6 t := by
  obtain ⟨r, e, hr⟩ := putPred_withWave s p.toNat (lanesOf s.active)
    (fun l => if (firstTok (toks s f.isVec l ++ [s.guardTok l])).isSome then none else some (holds s f.isVec l))
  refine ⟨(withWave s { s.wave with regs := r } []).retire sw, ?_, r, hr, ?_⟩
  · unfold State.comparing State.guarded
    rw [if_pos hi, ht]
    dsimp only
    rw [e]
  · simp only [BitVec.or_zero]
    exact went_withWave s _ [] sw 1 hi rfl rfl

end Sys2Proof.Claims
end

