-- ==== Sys2Proof/Laws/PerInstr.lean ====
section
/-!
SUPPORT. Per-instruction laws: the family `Enc`, the number of words of each instruction.
-/

namespace Sys2Proof.Laws.Enc

/-- The first word of an instruction says whether it has a second (R160). -/
def Statement (i : Instr) : Prop := ∀ w o, encode i = some (w, o) → hasSecondWord w = o.isSome

theorem of_words {i : Instr} {w : Word32} {o : Option Word32} (h : encode i = some (w, o)) (hs : hasSecondWord w = o.isSome) :
    Statement i := by
  intro w' o' h'
  rw [h] at h'
  simp only [Option.some.injEq, Prod.mk.injEq] at h'
  rw [← h'.1, ← h'.2, hs]

theorem of_none {i : Instr} (h : encode i = none) : Statement i := by
  intro w o h'
  rw [h] at h'
  exact absurd h' (by simp)

theorem rWord_one (sw : Bool) (major : BitVec 5) (d a b : BitVec 7) (fn : BitVec 5) (h : (major.toNat == 18) = false) :
    hasSecondWord (rWord sw major d a b fn) = false := by simp [hasSecondWord, h]
theorem iWord_one (sw : Bool) (major : BitVec 5) (d a : BitVec 7) (i : BitVec 12) (h : (major.toNat == 18) = false) :
    hasSecondWord (iWord sw major d a i) = false := by simp [hasSecondWord, h]
theorem bWord_one (sw : Bool) (major c : BitVec 5) (o : BitVec 21) (h : (major.toNat == 18) = false) :
    hasSecondWord (bWord sw major c o) = false := by simp [hasSecondWord, h]
theorem mWord_one (sw : Bool) (major : BitVec 5) (d a : BitVec 7) (r : BitVec 4) (o : BitVec 3) (fn : BitVec 5)
    (h : (major.toNat == 18) = false) : hasSecondWord (mWord sw major d a r o fn) = false := by simp [hasSecondWord, h]
theorem mcWord_words (sw : Bool) (c : BitVec 6) (m : BitVec 12) (sub : BitVec 8) :
    hasSecondWord (mcWord sw c m sub) = (sub.toNat == 0) := by simp [hasSecondWord]

/-! ## The encoded instructions -/

theorem nop (x0 : Bool) : Statement (.nop x0) := of_words rfl (rWord_one _ _ _ _ _ _ rfl)
theorem trap (x0 : Bool) (x1 : BitVec 7) : Statement (.trap x0 x1) := of_words rfl (rWord_one _ _ _ _ _ _ rfl)
theorem eret (x0 : Bool) : Statement (.eret x0) := of_words rfl (rWord_one _ _ _ _ _ _ rfl)
theorem getsr (x0 : Bool) (x1 : Opd) (x2 : BitVec 7) : Statement (.getsr x0 x1 x2) := of_words rfl (rWord_one _ _ _ _ _ _ rfl)
theorem setsr (x0 : Bool) (x1 : BitVec 7) (x2 : Opd) : Statement (.setsr x0 x1 x2) := of_words rfl (rWord_one _ _ _ _ _ _ rfl)
theorem iclk (x0 : Bool) (x1 : Opd) (x2 : Opd) (x3 : Opd) : Statement (.iclk x0 x1 x2 x3) := of_words rfl (rWord_one _ _ _ _ _ _ rfl)
theorem icul (x0 : Bool) (x1 : Opd) (x2 : Opd) (x3 : Opd) : Statement (.icul x0 x1 x2 x3) := of_words rfl (rWord_one _ _ _ _ _ _ rfl)
theorem atinv (x0 : Bool) (x1 : Opd) (x2 : Opd) (x3 : Opd) : Statement (.atinv x0 x1 x2 x3) := of_words rfl (rWord_one _ _ _ _ _ _ rfl)
theorem atsync (x0 : Bool) (x1 : Opd) (x2 : Opd) : Statement (.atsync x0 x1 x2) := of_words rfl (rWord_one _ _ _ _ _ _ rfl)
theorem mapr (x0 : Bool) (x1 : Opd) (x2 : Opd) (x3 : Opd) : Statement (.mapr x0 x1 x2 x3) := of_words rfl (rWord_one _ _ _ _ _ _ rfl)
theorem pkres (x0 : Bool) (x1 : Opd) (x2 : Opd) : Statement (.pkres x0 x1 x2) := of_words rfl (rWord_one _ _ _ _ _ _ rfl)
theorem pkill (x0 : Bool) (x1 : Opd) (x2 : Opd) : Statement (.pkill x0 x1 x2) := of_words rfl (rWord_one _ _ _ _ _ _ rfl)
theorem jmpr (x0 : Bool) (x1 : Opd) : Statement (.jmpr x0 x1) := of_words rfl (rWord_one _ _ _ _ _ _ rfl)
theorem callr (x0 : Bool) (x1 : Opd) : Statement (.callr x0 x1) := of_words rfl (rWord_one _ _ _ _ _ _ rfl)
theorem ret (x0 : Bool) : Statement (.ret x0) := of_words rfl (rWord_one _ _ _ _ _ _ rfl)
theorem exit (x0 : Bool) : Statement (.exit x0) := of_words rfl (rWord_one _ _ _ _ _ _ rfl)
theorem join (x0 : Bool) : Statement (.join x0) := of_words rfl (rWord_one _ _ _ _ _ _ rfl)
theorem wbase (x0 : Bool) (x1 : BitVec 3) : Statement (.wbase x0 x1) := of_words rfl (rWord_one _ _ _ _ _ _ rfl)
theorem phint (x0 : Bool) (x1 : BitVec 8) (x2 : BitVec 3) (x3 : Opd) : Statement (.phint x0 x1 x2 x3) := of_words rfl (rWord_one _ _ _ _ _ _ rfl)
theorem idem (x0 : Bool) (x1 : BitVec 8) (x2 : BitVec 3) (x3 : Opd) : Statement (.idem x0 x1 x2 x3) := of_words rfl (rWord_one _ _ _ _ _ _ rfl)
theorem qend (x0 : Bool) : Statement (.qend x0) := of_words rfl (rWord_one _ _ _ _ _ _ rfl)
theorem add (x0 : Bool) (x1 : Opd) (x2 : Opd) (x3 : Opd) : Statement (.add x0 x1 x2 x3) := of_words rfl (rWord_one _ _ _ _ _ _ rfl)
theorem sub (x0 : Bool) (x1 : Opd) (x2 : Opd) (x3 : Opd) : Statement (.sub x0 x1 x2 x3) := of_words rfl (rWord_one _ _ _ _ _ _ rfl)
theorem mul (x0 : Bool) (x1 : Opd) (x2 : Opd) (x3 : Opd) : Statement (.mul x0 x1 x2 x3) := of_words rfl (rWord_one _ _ _ _ _ _ rfl)
theorem mulh (x0 : Bool) (x1 : Opd) (x2 : Opd) (x3 : Opd) : Statement (.mulh x0 x1 x2 x3) := of_words rfl (rWord_one _ _ _ _ _ _ rfl)
theorem mulhU (x0 : Bool) (x1 : Opd) (x2 : Opd) (x3 : Opd) : Statement (.mulhU x0 x1 x2 x3) := of_words rfl (rWord_one _ _ _ _ _ _ rfl)
theorem mad (x0 : Bool) (x1 : Opd) (x2 : Opd) (x3 : Opd) : Statement (.mad x0 x1 x2 x3) := of_words rfl (rWord_one _ _ _ _ _ _ rfl)
theorem and (x0 : Bool) (x1 : Opd) (x2 : Opd) (x3 : Opd) : Statement (.and x0 x1 x2 x3) := of_words rfl (rWord_one _ _ _ _ _ _ rfl)
theorem or (x0 : Bool) (x1 : Opd) (x2 : Opd) (x3 : Opd) : Statement (.or x0 x1 x2 x3) := of_words rfl (rWord_one _ _ _ _ _ _ rfl)
theorem xor (x0 : Bool) (x1 : Opd) (x2 : Opd) (x3 : Opd) : Statement (.xor x0 x1 x2 x3) := of_words rfl (rWord_one _ _ _ _ _ _ rfl)
theorem shl (x0 : Bool) (x1 : Opd) (x2 : Opd) (x3 : Opd) : Statement (.shl x0 x1 x2 x3) := of_words rfl (rWord_one _ _ _ _ _ _ rfl)
theorem shr (x0 : Bool) (x1 : Opd) (x2 : Opd) (x3 : Opd) : Statement (.shr x0 x1 x2 x3) := of_words rfl (rWord_one _ _ _ _ _ _ rfl)
theorem sar (x0 : Bool) (x1 : Opd) (x2 : Opd) (x3 : Opd) : Statement (.sar x0 x1 x2 x3) := of_words rfl (rWord_one _ _ _ _ _ _ rfl)
theorem min (x0 : Bool) (x1 : Opd) (x2 : Opd) (x3 : Opd) : Statement (.min x0 x1 x2 x3) := of_words rfl (rWord_one _ _ _ _ _ _ rfl)
theorem minU (x0 : Bool) (x1 : Opd) (x2 : Opd) (x3 : Opd) : Statement (.minU x0 x1 x2 x3) := of_words rfl (rWord_one _ _ _ _ _ _ rfl)
theorem max (x0 : Bool) (x1 : Opd) (x2 : Opd) (x3 : Opd) : Statement (.max x0 x1 x2 x3) := of_words rfl (rWord_one _ _ _ _ _ _ rfl)
theorem maxU (x0 : Bool) (x1 : Opd) (x2 : Opd) (x3 : Opd) : Statement (.maxU x0 x1 x2 x3) := of_words rfl (rWord_one _ _ _ _ _ _ rfl)
theorem abs (x0 : Bool) (x1 : Opd) (x2 : Opd) : Statement (.abs x0 x1 x2) := of_words rfl (rWord_one _ _ _ _ _ _ rfl)
theorem clz (x0 : Bool) (x1 : Opd) (x2 : Opd) : Statement (.clz x0 x1 x2) := of_words rfl (rWord_one _ _ _ _ _ _ rfl)
theorem popc (x0 : Bool) (x1 : Opd) (x2 : Opd) : Statement (.popc x0 x1 x2) := of_words rfl (rWord_one _ _ _ _ _ _ rfl)
theorem bfe (x0 : Bool) (x1 : Opd) (x2 : Opd) (x3 : Opd) : Statement (.bfe x0 x1 x2 x3) := of_words rfl (rWord_one _ _ _ _ _ _ rfl)
theorem bfeU (x0 : Bool) (x1 : Opd) (x2 : Opd) (x3 : Opd) : Statement (.bfeU x0 x1 x2 x3) := of_words rfl (rWord_one _ _ _ _ _ _ rfl)
theorem bfi (x0 : Bool) (x1 : Opd) (x2 : Opd) (x3 : Opd) : Statement (.bfi x0 x1 x2 x3) := of_words rfl (rWord_one _ _ _ _ _ _ rfl)
theorem sel (x0 : Bool) (x1 : Opd) (x2 : Opd) (x3 : Opd) : Statement (.sel x0 x1 x2 x3) := of_words rfl (rWord_one _ _ _ _ _ _ rfl)
theorem div (x0 : Bool) (x1 : Opd) (x2 : Opd) (x3 : Opd) : Statement (.div x0 x1 x2 x3) := of_words rfl (rWord_one _ _ _ _ _ _ rfl)
theorem divU (x0 : Bool) (x1 : Opd) (x2 : Opd) (x3 : Opd) : Statement (.divU x0 x1 x2 x3) := of_words rfl (rWord_one _ _ _ _ _ _ rfl)
theorem rem (x0 : Bool) (x1 : Opd) (x2 : Opd) (x3 : Opd) : Statement (.rem x0 x1 x2 x3) := of_words rfl (rWord_one _ _ _ _ _ _ rfl)
theorem remU (x0 : Bool) (x1 : Opd) (x2 : Opd) (x3 : Opd) : Statement (.remU x0 x1 x2 x3) := of_words rfl (rWord_one _ _ _ _ _ _ rfl)
theorem addSat (x0 : Bool) (x1 : Opd) (x2 : Opd) (x3 : Opd) : Statement (.addSat x0 x1 x2 x3) := of_words rfl (rWord_one _ _ _ _ _ _ rfl)
theorem subSat (x0 : Bool) (x1 : Opd) (x2 : Opd) (x3 : Opd) : Statement (.subSat x0 x1 x2 x3) := of_words rfl (rWord_one _ _ _ _ _ _ rfl)
theorem addi (x0 : Bool) (x1 : Opd) (x2 : Opd) (x3 : BitVec 12) : Statement (.addi x0 x1 x2 x3) := of_words rfl (iWord_one _ _ _ _ _ rfl)
theorem andi (x0 : Bool) (x1 : Opd) (x2 : Opd) (x3 : BitVec 10) : Statement (.andi x0 x1 x2 x3) := of_words rfl (iWord_one _ _ _ _ _ rfl)
theorem ori (x0 : Bool) (x1 : Opd) (x2 : Opd) (x3 : BitVec 10) : Statement (.ori x0 x1 x2 x3) := of_words rfl (iWord_one _ _ _ _ _ rfl)
theorem xori (x0 : Bool) (x1 : Opd) (x2 : Opd) (x3 : BitVec 10) : Statement (.xori x0 x1 x2 x3) := of_words rfl (iWord_one _ _ _ _ _ rfl)
theorem tsti (x0 : Bool) (x1 : BitVec 3) (x2 : Opd) (x3 : BitVec 10) : Statement (.tsti x0 x1 x2 x3) := of_words rfl (iWord_one _ _ _ _ _ rfl)
theorem shli (x0 : Bool) (x1 : Opd) (x2 : Opd) (x3 : BitVec 6) : Statement (.shli x0 x1 x2 x3) := of_words rfl (iWord_one _ _ _ _ _ rfl)
theorem shri (x0 : Bool) (x1 : Opd) (x2 : Opd) (x3 : BitVec 6) : Statement (.shri x0 x1 x2 x3) := of_words rfl (iWord_one _ _ _ _ _ rfl)
theorem sari (x0 : Bool) (x1 : Opd) (x2 : Opd) (x3 : BitVec 6) : Statement (.sari x0 x1 x2 x3) := of_words rfl (iWord_one _ _ _ _ _ rfl)
theorem roti (x0 : Bool) (x1 : Opd) (x2 : Opd) (x3 : BitVec 6) : Statement (.roti x0 x1 x2 x3) := of_words rfl (iWord_one _ _ _ _ _ rfl)
theorem cmpi (x0 : Bool) (x1 : BitVec 3) (x2 : Opd) (x3 : ICond) (x4 : BitVec 9) : Statement (.cmpi x0 x1 x2 x3 x4) := of_words rfl (iWord_one _ _ _ _ _ rfl)
theorem movi (x0 : Bool) (x1 : Opd) (x2 : BitVec 19) : Statement (.movi x0 x1 x2) := of_words rfl (iWord_one _ _ _ _ _ rfl)
theorem fadd (x0 : Bool) (x1 : Opd) (x2 : Opd) (x3 : Opd) (x4 : FType) : Statement (.fadd x0 x1 x2 x3 x4) := of_words rfl (rWord_one _ _ _ _ _ _ rfl)
theorem fsub (x0 : Bool) (x1 : Opd) (x2 : Opd) (x3 : Opd) (x4 : FType) : Statement (.fsub x0 x1 x2 x3 x4) := of_words rfl (rWord_one _ _ _ _ _ _ rfl)
theorem fmul (x0 : Bool) (x1 : Opd) (x2 : Opd) (x3 : Opd) (x4 : FType) : Statement (.fmul x0 x1 x2 x3 x4) := of_words rfl (rWord_one _ _ _ _ _ _ rfl)
theorem fma (x0 : Bool) (x1 : Opd) (x2 : Opd) (x3 : Opd) (x4 : FType) : Statement (.fma x0 x1 x2 x3 x4) := of_words rfl (rWord_one _ _ _ _ _ _ rfl)
theorem fmin (x0 : Bool) (x1 : Opd) (x2 : Opd) (x3 : Opd) (x4 : FType) : Statement (.fmin x0 x1 x2 x3 x4) := of_words rfl (rWord_one _ _ _ _ _ _ rfl)
theorem fmax (x0 : Bool) (x1 : Opd) (x2 : Opd) (x3 : Opd) (x4 : FType) : Statement (.fmax x0 x1 x2 x3 x4) := of_words rfl (rWord_one _ _ _ _ _ _ rfl)
theorem fdiv (x0 : Bool) (x1 : Opd) (x2 : Opd) (x3 : Opd) (x4 : FType) : Statement (.fdiv x0 x1 x2 x3 x4) := of_words rfl (rWord_one _ _ _ _ _ _ rfl)
theorem fsqrt (x0 : Bool) (x1 : Opd) (x2 : Opd) (x3 : FType) : Statement (.fsqrt x0 x1 x2 x3) := of_words rfl (rWord_one _ _ _ _ _ _ rfl)
theorem fexp (x0 : Bool) (x1 : Opd) (x2 : Opd) (x3 : FType) : Statement (.fexp x0 x1 x2 x3) := of_words rfl (rWord_one _ _ _ _ _ _ rfl)
theorem flog (x0 : Bool) (x1 : Opd) (x2 : Opd) (x3 : FType) : Statement (.flog x0 x1 x2 x3) := of_words rfl (rWord_one _ _ _ _ _ _ rfl)
theorem frcp (x0 : Bool) (x1 : Opd) (x2 : Opd) (x3 : FType) : Statement (.frcp x0 x1 x2 x3) := of_words rfl (rWord_one _ _ _ _ _ _ rfl)
theorem frsq (x0 : Bool) (x1 : Opd) (x2 : Opd) (x3 : FType) : Statement (.frsq x0 x1 x2 x3) := of_words rfl (rWord_one _ _ _ _ _ _ rfl)
theorem fsin (x0 : Bool) (x1 : Opd) (x2 : Opd) (x3 : FType) : Statement (.fsin x0 x1 x2 x3) := of_words rfl (rWord_one _ _ _ _ _ _ rfl)
theorem fcos (x0 : Bool) (x1 : Opd) (x2 : Opd) (x3 : FType) : Statement (.fcos x0 x1 x2 x3) := of_words rfl (rWord_one _ _ _ _ _ _ rfl)
theorem ftanh (x0 : Bool) (x1 : Opd) (x2 : Opd) (x3 : FType) : Statement (.ftanh x0 x1 x2 x3) := of_words rfl (rWord_one _ _ _ _ _ _ rfl)
theorem ferf (x0 : Bool) (x1 : Opd) (x2 : Opd) (x3 : FType) : Statement (.ferf x0 x1 x2 x3) := of_words rfl (rWord_one _ _ _ _ _ _ rfl)
theorem cvt (x0 : Bool) (x1 : Opd) (x2 : Opd) (x3 : BitVec 7) (x4 : CvtPair) : Statement (.cvt x0 x1 x2 x3 x4) := of_words rfl (rWord_one _ _ _ _ _ _ rfl)
theorem mxq (x0 : Bool) (x1 : Opd) (x2 : Opd) (x3 : BitVec 7) : Statement (.mxq x0 x1 x2 x3) := of_words rfl (rWord_one _ _ _ _ _ _ rfl)
theorem mxdq (x0 : Bool) (x1 : Opd) (x2 : Opd) (x3 : BitVec 7) : Statement (.mxdq x0 x1 x2 x3) := of_words rfl (rWord_one _ _ _ _ _ _ rfl)
theorem terq (x0 : Bool) (x1 : Opd) (x2 : Opd) : Statement (.terq x0 x1 x2) := of_words rfl (rWord_one _ _ _ _ _ _ rfl)
theorem frnd (x0 : Bool) (x1 : Opd) (x2 : Opd) (x3 : BitVec 7) : Statement (.frnd x0 x1 x2 x3) := of_words rfl (rWord_one _ _ _ _ _ _ rfl)
theorem icmp (x0 : Bool) (x1 : BitVec 3) (x2 : Opd) (x3 : Opd) (x4 : ICond) : Statement (.icmp x0 x1 x2 x3 x4) := of_words rfl (rWord_one _ _ _ _ _ _ rfl)
theorem icmpU (x0 : Bool) (x1 : BitVec 3) (x2 : Opd) (x3 : Opd) (x4 : ICond) : Statement (.icmpU x0 x1 x2 x3 x4) := of_words rfl (rWord_one _ _ _ _ _ _ rfl)
theorem fcmp (x0 : Bool) (x1 : BitVec 3) (x2 : Opd) (x3 : Opd) (x4 : FCond) : Statement (.fcmp x0 x1 x2 x3 x4) := of_words rfl (rWord_one _ _ _ _ _ _ rfl)
theorem plog (x0 : Bool) (x1 : BitVec 3) (x2 : BitVec 3) (x3 : BitVec 3) (x4 : PlogOp) : Statement (.plog x0 x1 x2 x3 x4) := of_words rfl (rWord_one _ _ _ _ _ _ rfl)
theorem red (x0 : Bool) (x1 : Opd) (x2 : Opd) (x3 : RedOp) : Statement (.red x0 x1 x2 x3) := of_words rfl (rWord_one _ _ _ _ _ _ rfl)
theorem redFadd (x0 : Bool) (x1 : Opd) (x2 : Opd) : Statement (.redFadd x0 x1 x2) := of_words rfl (rWord_one _ _ _ _ _ _ rfl)
theorem scan (x0 : Bool) (x1 : Opd) (x2 : Opd) (x3 : ScanOp) : Statement (.scan x0 x1 x2 x3) := of_words rfl (rWord_one _ _ _ _ _ _ rfl)
theorem ballot (x0 : Bool) (x1 : Opd) (x2 : BitVec 3) : Statement (.ballot x0 x1 x2) := of_words rfl (rWord_one _ _ _ _ _ _ rfl)
theorem voteAll (x0 : Bool) (x1 : BitVec 3) (x2 : BitVec 3) : Statement (.voteAll x0 x1 x2) := of_words rfl (rWord_one _ _ _ _ _ _ rfl)
theorem voteAny (x0 : Bool) (x1 : BitVec 3) (x2 : BitVec 3) : Statement (.voteAny x0 x1 x2) := of_words rfl (rWord_one _ _ _ _ _ _ rfl)
theorem voteUni (x0 : Bool) (x1 : BitVec 3) (x2 : BitVec 3) : Statement (.voteUni x0 x1 x2) := of_words rfl (rWord_one _ _ _ _ _ _ rfl)
theorem elect (x0 : Bool) (x1 : BitVec 3) : Statement (.elect x0 x1) := of_words rfl (rWord_one _ _ _ _ _ _ rfl)
theorem shfl (x0 : Bool) (x1 : Opd) (x2 : Opd) (x3 : Opd) : Statement (.shfl x0 x1 x2 x3) := of_words rfl (rWord_one _ _ _ _ _ _ rfl)
theorem ld (x0 : Bool) (x1 : Opd) (x2 : Opd) (x3 : BitVec 4) (x4 : OrdCode) (x5 : Bool) (x6 : Bool) (x7 : MemSize) : Statement (.ld x0 x1 x2 x3 x4 x5 x6 x7) := of_words rfl (mWord_one _ _ _ _ _ _ _ rfl)
theorem ldx (x0 : Bool) (x1 : Opd) (x2 : Opd) (x3 : BitVec 4) (x4 : OrdCode) (x5 : Bool) : Statement (.ldx x0 x1 x2 x3 x4 x5) := of_words rfl (mWord_one _ _ _ _ _ _ _ rfl)
theorem pref (x0 : Bool) (x1 : Opd) (x2 : BitVec 4) (x3 : OrdCode) : Statement (.pref x0 x1 x2 x3) := of_words rfl (mWord_one _ _ _ _ _ _ _ rfl)
theorem st (x0 : Bool) (x1 : Opd) (x2 : Opd) (x3 : BitVec 4) (x4 : OrdCode) (x5 : MemSize) : Statement (.st x0 x1 x2 x3 x4 x5) := of_words rfl (mWord_one _ _ _ _ _ _ _ rfl)
theorem stx (x0 : Bool) (x1 : Opd) (x2 : Opd) (x3 : BitVec 4) (x4 : OrdCode) : Statement (.stx x0 x1 x2 x3 x4) := of_words rfl (mWord_one _ _ _ _ _ _ _ rfl)
theorem atom (x0 : Bool) (x1 : Opd) (x2 : Opd) (x3 : BitVec 4) (x4 : OrdCode) (x5 : AtomOp) : Statement (.atom x0 x1 x2 x3 x4 x5) := of_words rfl (mWord_one _ _ _ _ _ _ _ rfl)
theorem atomn (x0 : Bool) (x1 : Opd) (x2 : Opd) (x3 : BitVec 4) (x4 : OrdCode) (x5 : AtomOp) : Statement (.atomn x0 x1 x2 x3 x4 x5) := of_words rfl (mWord_one _ _ _ _ _ _ _ rfl)
theorem lds (x0 : Bool) (x1 : Opd) (x2 : Opd) (x3 : OrdCode) (x4 : MemSize) : Statement (.lds x0 x1 x2 x3 x4) := of_words rfl (mWord_one _ _ _ _ _ _ _ rfl)
theorem sts (x0 : Bool) (x1 : Opd) (x2 : Opd) (x3 : OrdCode) (x4 : MemSize) : Statement (.sts x0 x1 x2 x3 x4) := of_words rfl (mWord_one _ _ _ _ _ _ _ rfl)
theorem atoms (x0 : Bool) (x1 : Opd) (x2 : Opd) (x3 : OrdCode) (x4 : AtomOp) : Statement (.atoms x0 x1 x2 x3 x4) := of_words rfl (mWord_one _ _ _ _ _ _ _ rfl)
theorem rld (x0 : Bool) (x1 : BitVec 4) (x2 : Opd) : Statement (.rld x0 x1 x2) := of_words rfl (rWord_one _ _ _ _ _ _ rfl)
theorem rset (x0 : Bool) (x1 : BitVec 4) (x2 : BitVec 2) (x3 : Opd) : Statement (.rset x0 x1 x2 x3) := of_words rfl (rWord_one _ _ _ _ _ _ rfl)
theorem rget (x0 : Bool) (x1 : Opd) (x2 : BitVec 4) (x3 : BitVec 2) : Statement (.rget x0 x1 x2 x3) := of_words rfl (rWord_one _ _ _ _ _ _ rfl)
theorem rchk (x0 : Bool) (x1 : MemSize) (x2 : BitVec 3) (x3 : Opd) (x4 : BitVec 4) : Statement (.rchk x0 x1 x2 x3 x4) := of_words rfl (rWord_one _ _ _ _ _ _ rfl)
theorem mma (x0 : Bool) (x1 : BitVec 6) (x2 : BitVec 6) (x3 : BitVec 6) (x4 : BitVec 3) (x5 : BitVec 3) (x6 : BitVec 5) (x7 : Bool) (x8 : Bool) : Statement (.mma x0 x1 x2 x3 x4 x5 x6 x7 x8) := of_words rfl (mcWord_words ..)
theorem mwait (x0 : Bool) (x1 : BitVec 6) : Statement (.mwait x0 x1) := of_words rfl (mcWord_words ..)
theorem mqry (x0 : Bool) (x1 : BitVec 6) (x2 : Opd) (x3 : BitVec 5) : Statement (.mqry x0 x1 x2 x3) := of_words rfl (mcWord_words ..)
theorem maps (x0 : Bool) (x1 : BitVec 3) (x2 : Opd) : Statement (.maps x0 x1 x2) := of_words rfl (mcWord_words ..)
theorem aclr (x0 : Bool) (x1 : BitVec 5) : Statement (.aclr x0 x1) := of_words rfl (rWord_one _ _ _ _ _ _ rfl)
theorem ard (x0 : Bool) (x1 : Opd) (x2 : BitVec 5) (x3 : Bool) (x4 : BitVec 5) : Statement (.ard x0 x1 x2 x3 x4) := of_words rfl (rWord_one _ _ _ _ _ _ rfl)
theorem awr (x0 : Bool) (x1 : BitVec 5) (x2 : Opd) (x3 : BitVec 5) : Statement (.awr x0 x1 x2 x3) := of_words rfl (rWord_one _ _ _ _ _ _ rfl)
theorem ast (x0 : Bool) (x1 : Bool) (x2 : BitVec 5) (x3 : Opd) (x4 : BitVec 4) : Statement (.ast x0 x1 x2 x3 x4) := of_words rfl (rWord_one _ _ _ _ _ _ rfl)
theorem tcopy (x0 : Bool) (x1 : Opd) : Statement (.tcopy x0 x1) := of_words rfl (rWord_one _ _ _ _ _ _ rfl)
theorem ecmd (x0 : Bool) (x1 : Opd) : Statement (.ecmd x0 x1) := of_words rfl (rWord_one _ _ _ _ _ _ rfl)
theorem semwait (x0 : Bool) (x1 : Opd) (x2 : Opd) (x3 : Opd) : Statement (.semwait x0 x1 x2 x3) := of_words rfl (rWord_one _ _ _ _ _ _ rfl)
theorem semsig (x0 : Bool) (x1 : Opd) (x2 : Opd) : Statement (.semsig x0 x1 x2) := of_words rfl (rWord_one _ _ _ _ _ _ rfl)
theorem semrd (x0 : Bool) (x1 : Opd) (x2 : Opd) : Statement (.semrd x0 x1 x2) := of_words rfl (rWord_one _ _ _ _ _ _ rfl)
theorem launch (x0 : Bool) (x1 : Opd) : Statement (.launch x0 x1) := of_words rfl (rWord_one _ _ _ _ _ _ rfl)
theorem fence (x0 : Bool) (x1 : FenceKind) (x2 : BitVec 3) : Statement (.fence x0 x1 x2) := of_words rfl (rWord_one _ _ _ _ _ _ rfl)
theorem bar (x0 : Bool) (x1 : Opd) (x2 : BitVec 4) : Statement (.bar x0 x1 x2) := of_words rfl (rWord_one _ _ _ _ _ _ rfl)
theorem barc (x0 : Bool) (x1 : Opd) (x2 : BitVec 4) : Statement (.barc x0 x1 x2) := of_words rfl (rWord_one _ _ _ _ _ _ rfl)
theorem drain (x0 : Bool) (x1 : Opd) (x2 : BitVec 4) : Statement (.drain x0 x1 x2) := of_words rfl (rWord_one _ _ _ _ _ _ rfl)
theorem odecl (x0 : Bool) (x1 : Opd) (x2 : Opd) : Statement (.odecl x0 x1 x2) := of_words rfl (rWord_one _ _ _ _ _ _ rfl)
theorem orel (x0 : Bool) (x1 : Opd) (x2 : Opd) : Statement (.orel x0 x1 x2) := of_words rfl (rWord_one _ _ _ _ _ _ rfl)
theorem lock (x0 : Bool) (x1 : Opd) (x2 : Opd) : Statement (.lock x0 x1 x2) := of_words rfl (rWord_one _ _ _ _ _ _ rfl)
theorem trylk (x0 : Bool) (x1 : Opd) (x2 : Opd) : Statement (.trylk x0 x1 x2) := of_words rfl (rWord_one _ _ _ _ _ _ rfl)
theorem unlock (x0 : Bool) (x1 : Opd) (x2 : Opd) : Statement (.unlock x0 x1 x2) := of_words rfl (rWord_one _ _ _ _ _ _ rfl)
theorem wreg (x0 : Bool) (x1 : Opd) (x2 : Opd) : Statement (.wreg x0 x1 x2) := of_words rfl (rWord_one _ _ _ _ _ _ rfl)
theorem waitv (x0 : Bool) (x1 : Opd) (x2 : Opd) : Statement (.waitv x0 x1 x2) := of_words rfl (rWord_one _ _ _ _ _ _ rfl)
theorem wdone (x0 : Bool) : Statement (.wdone x0) := of_words rfl (rWord_one _ _ _ _ _ _ rfl)
theorem wqry (x0 : Bool) (x1 : Opd) : Statement (.wqry x0 x1) := of_words rfl (rWord_one _ _ _ _ _ _ rfl)
theorem pcls (x0 : Bool) (x1 : Opd) : Statement (.pcls x0 x1) := of_words rfl (rWord_one _ _ _ _ _ _ rfl)
theorem ebud (x0 : Bool) (x1 : Opd) (x2 : Opd) (x3 : Opd) : Statement (.ebud x0 x1 x2 x3) := of_words rfl (rWord_one _ _ _ _ _ _ rfl)
theorem wld (x0 : Bool) (x1 : Opd) (x2 : Opd) (x3 : BitVec 4) (x4 : BitVec 3) : Statement (.wld x0 x1 x2 x3 x4) := of_words rfl (mWord_one _ _ _ _ _ _ _ rfl)
theorem cbset (x0 : Bool) (x1 : Opd) (x2 : Opd) (x3 : BitVec 4) (x4 : BitVec 3) : Statement (.cbset x0 x1 x2 x3 x4) := of_words rfl (mWord_one _ _ _ _ _ _ _ rfl)
theorem wschk (x0 : Bool) (x1 : BitVec 3) (x2 : Opd) (x3 : BitVec 4) (x4 : BitVec 3) : Statement (.wschk x0 x1 x2 x3 x4) := of_words rfl (mWord_one _ _ _ _ _ _ _ rfl)
theorem rnd (x0 : Bool) (x1 : Opd) (x2 : Opd) : Statement (.rnd x0 x1 x2) := of_words rfl (rWord_one _ _ _ _ _ _ rfl)
theorem chkp (x0 : Bool) (x1 : Opd) : Statement (.chkp x0 x1) := of_words rfl (rWord_one _ _ _ _ _ _ rfl)
theorem ispoi (x0 : Bool) (x1 : BitVec 3) (x2 : Opd) : Statement (.ispoi x0 x1 x2) := of_words rfl (rWord_one _ _ _ _ _ _ rfl)
theorem mkpoi (x0 : Bool) (x1 : Opd) (x2 : Opd) : Statement (.mkpoi x0 x1 x2) := of_words rfl (rWord_one _ _ _ _ _ _ rfl)
theorem timew (x0 : Bool) (x1 : Opd) (x2 : Opd) : Statement (.timew x0 x1 x2) := of_words rfl (rWord_one _ _ _ _ _ _ rfl)
theorem br (x0 : Bool) (x1 : Bool) (x2 : BitVec 3) (x3 : BitVec 21) : Statement (.br x0 x1 x2 x3) := of_words rfl (bWord_one _ _ _ _ rfl)
theorem bru (x0 : Bool) (x1 : BruMode) (x2 : BitVec 3) (x3 : BitVec 21) : Statement (.bru x0 x1 x2 x3) := of_words rfl (bWord_one _ _ _ _ rfl)
theorem call (x0 : Bool) (x1 : BitVec 21) : Statement (.call x0 x1) := of_words rfl (bWord_one _ _ _ _ rfl)
theorem xw (x0 : Xw) : Statement (.xw x0) := of_words rfl (by simp [hasSecondWord, fMajor_xwWord])

/-! ## The steps of the machine, which have no words -/

theorem waveResultWriteback (x0 : Nat) (x1 : Nat) (x2 : Lanes) : Statement (.waveResultWriteback x0 x1 x2) := of_none rfl
theorem storeFifoDrain (x0 : Nat) : Statement (.storeFifoDrain x0) := of_none rfl
theorem wcbLineWrite (x0 : Nat) (x1 : Nat) : Statement (.wcbLineWrite x0 x1) := of_none rfl
theorem homeAccess (x0 : Nat) (x1 : Nat) : Statement (.homeAccess x0 x1) := of_none rfl
theorem mmaCommandStart (x0 : Nat) (x1 : BitVec 6) : Statement (.mmaCommandStart x0 x1) := of_none rfl
theorem mmaCommandRetire (x0 : Nat) (x1 : BitVec 6) : Statement (.mmaCommandRetire x0 x1) := of_none rfl
theorem codebookSlotReady (x0 : Nat) (x1 : BitVec 2) : Statement (.codebookSlotReady x0 x1) := of_none rfl
theorem weightStoreRefresh (x0 : Nat) (x1 : Nat) : Statement (.weightStoreRefresh x0 x1) := of_none rfl
theorem tcopyStart (x0 : Nat) : Statement (.tcopyStart x0) := of_none rfl
theorem tcopyUnit (x0 : Nat) : Statement (.tcopyUnit x0) := of_none rfl
theorem tcopyComplete (x0 : Nat) : Statement (.tcopyComplete x0) := of_none rfl
theorem weightStoreGateAdmit (x0 : Nat) : Statement (.weightStoreGateAdmit x0) := of_none rfl
theorem launchPortStage (x0 : Nat) (x1 : Nat) (x2 : List (BitVec 8)) : Statement (.launchPortStage x0 x1 x2) := of_none rfl
theorem launchPortEnqueue (x0 : Nat) (x1 : Nat) (x2 : List (BitVec 8)) : Statement (.launchPortEnqueue x0 x1 x2) := of_none rfl
theorem kernelTableReplace (x0 : Nat) (x1 : Nat) (x2 : Nat) : Statement (.kernelTableReplace x0 x1 x2) := of_none rfl
theorem kernelTableClear (x0 : Nat) (x1 : Nat) : Statement (.kernelTableClear x0 x1) := of_none rfl
theorem launchDispatch (x0 : Nat) : Statement (.launchDispatch x0) := of_none rfl
theorem workgroupPlace (x0 : Nat) : Statement (.workgroupPlace x0) := of_none rfl
theorem waveStart (x0 : Nat) : Statement (.waveStart x0) := of_none rfl
theorem launchComplete (x0 : Nat) : Statement (.launchComplete x0) := of_none rfl
theorem leaseRequest (x0 : Nat) : Statement (.leaseRequest x0) := of_none rfl
theorem leaseRelease (x0 : Nat) : Statement (.leaseRelease x0) := of_none rfl
theorem leaseRecordWrite : Statement (.leaseRecordWrite) := of_none rfl
theorem boostClockRaise : Statement (.boostClockRaise) := of_none rfl
theorem leaseNotice : Statement (.leaseNotice) := of_none rfl
theorem leaseEnd : Statement (.leaseEnd) := of_none rfl
theorem allReduce (x0 : Nat) : Statement (.allReduce x0) := of_none rfl
theorem reduceScatter (x0 : Nat) : Statement (.reduceScatter x0) := of_none rfl
theorem allGather (x0 : Nat) : Statement (.allGather x0) := of_none rfl
theorem broadcast (x0 : Nat) : Statement (.broadcast x0) := of_none rfl
theorem collectiveComplete (x0 : Nat) : Statement (.collectiveComplete x0) := of_none rfl
theorem collectiveTimeout (x0 : Nat) : Statement (.collectiveTimeout x0) := of_none rfl
theorem quantumCommit (x0 : Nat) : Statement (.quantumCommit x0) := of_none rfl
theorem waitConditionMet (x0 : Nat) : Statement (.waitConditionMet x0) := of_none rfl
theorem clusterBarrierHeldRelease (x0 : Nat) (x1 : Nat) : Statement (.clusterBarrierHeldRelease x0 x1) := of_none rfl
theorem lockRetry (x0 : Nat) : Statement (.lockRetry x0) := of_none rfl
theorem waitvRetest (x0 : Nat) : Statement (.waitvRetest x0) := of_none rfl
theorem priorityInheritanceUpdate : Statement (.priorityInheritanceUpdate) := of_none rfl
theorem deadlockScan : Statement (.deadlockScan) := of_none rfl
theorem shedExemptionReturn (x0 : Nat) : Statement (.shedExemptionReturn x0) := of_none rfl
theorem stpFrame (x0 : List (BitVec 8)) : Statement (.stpFrame x0) := of_none rfl
theorem telemetryLoss : Statement (.telemetryLoss) := of_none rfl
theorem budgetUpdate : Statement (.budgetUpdate) := of_none rfl
theorem classRestore : Statement (.classRestore) := of_none rfl
theorem forcedShedStart (x0 : Nat) : Statement (.forcedShedStart x0) := of_none rfl
theorem shedInstructionLimit (x0 : Nat) : Statement (.shedInstructionLimit x0) := of_none rfl
theorem allowanceEpoch : Statement (.allowanceEpoch) := of_none rfl
theorem ballastOvercapLimit : Statement (.ballastOvercapLimit) := of_none rfl
theorem clkpatWrite (x0 : Nat) (x1 : BitVec 16) : Statement (.clkpatWrite x0 x1) := of_none rfl
theorem clkpatApply : Statement (.clkpatApply) := of_none rfl
theorem preemptionRequest (x0 : Nat) : Statement (.preemptionRequest x0) := of_none rfl
theorem preemptInstructionLimit (x0 : Nat) : Statement (.preemptInstructionLimit x0) := of_none rfl
theorem workgroupSave (x0 : Nat) : Statement (.workgroupSave x0) := of_none rfl
theorem workgroupRestore (x0 : Nat) : Statement (.workgroupRestore x0) := of_none rfl
theorem atinvDelivery (x0 : Nat) (x1 : Nat) : Statement (.atinvDelivery x0 x1) := of_none rfl
theorem atinvAcknowledge (x0 : Nat) (x1 : Nat) : Statement (.atinvAcknowledge x0 x1) := of_none rfl
theorem timewExpire (x0 : Nat) : Statement (.timewExpire x0) := of_none rfl
theorem csctlWrite (x0 : Nat) (x1 : BitVec 64) : Statement (.csctlWrite x0 x1) := of_none rfl
theorem csctlChangeComplete (x0 : Nat) : Statement (.csctlChangeComplete x0) := of_none rfl
theorem semcfgWrite (x0 : Bool) (x1 : Nat) (x2 : BitVec 64) : Statement (.semcfgWrite x0 x1 x2) := of_none rfl
theorem contextActivate (x0 : Nat) (x1 : BitVec 64) : Statement (.contextActivate x0 x1) := of_none rfl
theorem contextKill (x0 : CtxdescWrite) : Statement (.contextKill x0) := of_none rfl
theorem warmStart (x0 : Bool) (x1 : BitVec 16) (x2 : BitVec 4) : Statement (.warmStart x0 x1 x2) := of_none rfl
theorem coldStart (x0 : BitVec 16) (x1 : BitVec 4) : Statement (.coldStart x0 x1) := of_none rfl
theorem powerOn (x0 : BitVec 16) (x1 : BitVec 4) : Statement (.powerOn x0 x1) := of_none rfl
theorem dieDisable (x0 : Nat) : Statement (.dieDisable x0) := of_none rfl
theorem dieFailure (x0 : Nat) : Statement (.dieFailure x0) := of_none rfl
theorem uncorrectedError (x0 : ErrSite) : Statement (.uncorrectedError x0) := of_none rfl
theorem correctedError (x0 : Option Nat) : Statement (.correctedError x0) := of_none rfl
theorem contextRecovery (x0 : Nat) : Statement (.contextRecovery x0) := of_none rfl
theorem tadjRate (x0 : BitVec 32) : Statement (.tadjRate x0) := of_none rfl
theorem tadjStep (x0 : BitVec 31) : Statement (.tadjStep x0) := of_none rfl
theorem actPreempt : Statement (.actPreempt) := of_none rfl
theorem actPkres (x0 : BitVec 64) : Statement (.actPkres x0) := of_none rfl
theorem actPkill (x0 : BitVec 64) : Statement (.actPkill x0) := of_none rfl
theorem actAtinv : Statement (.actAtinv) := of_none rfl
theorem actAtsync (x0 : BitVec 64) : Statement (.actAtsync x0) := of_none rfl
theorem actEnergyCredit (x0 : BitVec 64) : Statement (.actEnergyCredit x0) := of_none rfl
theorem actPoolFrameReturn (x0 : BitVec 64) : Statement (.actPoolFrameReturn x0) := of_none rfl
theorem actPoolFrameMarkInUse (x0 : BitVec 64) : Statement (.actPoolFrameMarkInUse x0) := of_none rfl
theorem actBreakpoint (x0 : BitVec 64) : Statement (.actBreakpoint x0) := of_none rfl
theorem attestationReport (x0 : List (BitVec 8)) : Statement (.attestationReport x0) := of_none rfl
theorem mgmtRegisterWrite (x0 : MgmtReg) (x1 : BitVec 64) : Statement (.mgmtRegisterWrite x0 x1) := of_none rfl
theorem gctxWrite (x0 : Nat) (x1 : BitVec 64) : Statement (.gctxWrite x0 x1) := of_none rfl
theorem hartCoherentAccess (x0 : Nat) (x1 : Nat) (x2 : Nat) (x3 : Option (List (BitVec 8))) : Statement (.hartCoherentAccess x0 x1 x2 x3) := of_none rfl
theorem coherenceProbe (x0 : Nat) (x1 : Nat) (x2 : BitVec 16) (x3 : Bool) : Statement (.coherenceProbe x0 x1 x2 x3) := of_none rfl
theorem objectEvictRelease (x0 : Nat) (x1 : Nat) : Statement (.objectEvictRelease x0 x1) := of_none rfl
theorem ethernetReceive (x0 : Nat) (x1 : Nat) (x2 : List (BitVec 8)) : Statement (.ethernetReceive x0 x1 x2) := of_none rfl
theorem ethernetTransmit (x0 : Nat) (x1 : Nat) : Statement (.ethernetTransmit x0 x1) := of_none rfl
theorem remoteAccessIncoming (x0 : Nat) (x1 : RemoteOp) : Statement (.remoteAccessIncoming x0 x1) := of_none rfl
theorem remoteAccessFailure (x0 : RemoteFail) : Statement (.remoteAccessFailure x0) := of_none rfl
theorem linkFailure (x0 : Bool) (x1 : Nat) (x2 : Bool) (x3 : List Nat) : Statement (.linkFailure x0 x1 x2 x3) := of_none rfl
theorem rackBusUndervoltage : Statement (.rackBusUndervoltage) := of_none rfl

end Sys2Proof.Laws.Enc
end

