-- ==== Sys2Proof/Tests/Slice0.lean ====
section
/-!
SUPPORT. The model's own tests: words written out from the spec's encodings, ill-formed terms and reserved words that are refused,
single steps whose results the spec gives, and for every statement with hypotheses a state and operands that meet them.
-/

namespace Sys2Proof.Tests

open Sys2Proof Sys2Proof.Machine Sys2Proof.Claims

set_option Elab.async false

/-! ## Words written out from the spec's encodings -/
/-- R167, R411, R449, R383, R439 and the entries of major 0: NOP; NOP.sw; TRAP 1; TRAP 127; ERET; GETSR s40, 0x0A; SETSR 0x05, s4; SETSR 0x1C, s4; ICLK s9, s6, s7; ICUL s9, s6, s7; ATINV s9, s6, s7; ATSYNC s9, s8; MAPR s42, s40, s41; PKRES s3, s5; PKILL s3, s5. -/
theorem test_decode_system :
    decodeWords 0x00000000#32 0#32 = .ok (.nop false) ∧
    decodeWords 0x80000000#32 0#32 = .ok (.nop true) ∧
    decodeWords 0x00000021#32 0#32 = .ok (.trap false 1#7) ∧
    decodeWords 0x00000FE1#32 0#32 = .ok (.trap false 127#7) ∧
    decodeWords 0x00000002#32 0#32 = .ok (.eret false) ∧
    decodeWords 0x0340A003#32 0#32 = .ok (.getsr false (.s 40) 0x0A#7) ∧
    decodeWords 0x002C4004#32 0#32 = .ok (.setsr false 0x05#7 (.s 4)) ∧
    decodeWords 0x00E44004#32 0#32 = .ok (.setsr false 0x1C#7 (.s 4)) ∧
    decodeWords 0x024C68E5#32 0#32 = .ok (.iclk false (.s 9) (.s 6) (.s 7)) ∧
    decodeWords 0x024C68E6#32 0#32 = .ok (.icul false (.s 9) (.s 6) (.s 7)) ∧
    decodeWords 0x024C68E7#32 0#32 = .ok (.atinv false (.s 9) (.s 6) (.s 7)) ∧
    decodeWords 0x024C8008#32 0#32 = .ok (.atsync false (.s 9) (.s 8)) ∧
    decodeWords 0x03568D29#32 0#32 = .ok (.mapr false (.s 42) (.s 40) (.s 41)) ∧
    decodeWords 0x021C500A#32 0#32 = .ok (.pkres false (.s 3) (.s 5)) ∧
    decodeWords 0x021C500B#32 0#32 = .ok (.pkill false (.s 3) (.s 5)) := by decide

/-- R167 and the entries of major 1: JMPR s20; CALLR s20; RET; EXIT; JOIN; WBASE 192; WBASE 64; PHINT 0x0F, s12, 2; PHINT 0x03; IDEM 0x03; QEND. -/
theorem test_decode_control :
    decodeWords 0x04054000#32 0#32 = .ok (.jmpr false (.s 20)) ∧
    decodeWords 0x04054001#32 0#32 = .ok (.callr false (.s 20)) ∧
    decodeWords 0x04000002#32 0#32 = .ok (.ret false) ∧
    decodeWords 0x04000003#32 0#32 = .ok (.exit false) ∧
    decodeWords 0x04000004#32 0#32 = .ok (.join false) ∧
    decodeWords 0x04006005#32 0#32 = .ok (.wbase false 6#3) ∧
    decodeWords 0x04002005#32 0#32 = .ok (.wbase false 2#3) ∧
    decodeWords 0x043D0986#32 0#32 = .ok (.phint false 0x0F#8 2#3 (.s 12)) ∧
    decodeWords 0x040C0006#32 0#32 = .ok (.phint false 0x03#8 0#3 (.v 0#6)) ∧
    decodeWords 0x040C0007#32 0#32 = .ok (.idem false 0x03#8 0#3 (.v 0#6)) ∧
    decodeWords 0x04000008#32 0#32 = .ok (.qend false) := by decide

/-- R333 and the entries of major 2: ADD v5, v6, v7; SUB v5, v6, v7; MUL v5, v6, v7; MULH v5, v6, v7; MULH.u v5, v6, v7; MAD v5, v6, v7; AND v5, v6, v7; OR v5, v6, v7; XOR v5, v6, v7; SHL v5, v6, v7; SHR v5, v6, v7; SAR v5, v6, v7; MIN v5, v6, v7; MIN.u v5, v6, v7; MAX v5, v6, v7; MAX.u v5, v6, v7. -/
theorem test_decode_iop :
    decodeWords 0x082860E0#32 0#32 = .ok (.add false (.v 5#6) (.v 6#6) (.v 7#6)) ∧
    decodeWords 0x082860E1#32 0#32 = .ok (.sub false (.v 5#6) (.v 6#6) (.v 7#6)) ∧
    decodeWords 0x082860E2#32 0#32 = .ok (.mul false (.v 5#6) (.v 6#6) (.v 7#6)) ∧
    decodeWords 0x082860E3#32 0#32 = .ok (.mulh false (.v 5#6) (.v 6#6) (.v 7#6)) ∧
    decodeWords 0x082860E4#32 0#32 = .ok (.mulhU false (.v 5#6) (.v 6#6) (.v 7#6)) ∧
    decodeWords 0x082860E5#32 0#32 = .ok (.mad false (.v 5#6) (.v 6#6) (.v 7#6)) ∧
    decodeWords 0x082860E6#32 0#32 = .ok (.and false (.v 5#6) (.v 6#6) (.v 7#6)) ∧
    decodeWords 0x082860E7#32 0#32 = .ok (.or false (.v 5#6) (.v 6#6) (.v 7#6)) ∧
    decodeWords 0x082860E8#32 0#32 = .ok (.xor false (.v 5#6) (.v 6#6) (.v 7#6)) ∧
    decodeWords 0x082860E9#32 0#32 = .ok (.shl false (.v 5#6) (.v 6#6) (.v 7#6)) ∧
    decodeWords 0x082860EA#32 0#32 = .ok (.shr false (.v 5#6) (.v 6#6) (.v 7#6)) ∧
    decodeWords 0x082860EB#32 0#32 = .ok (.sar false (.v 5#6) (.v 6#6) (.v 7#6)) ∧
    decodeWords 0x082860EC#32 0#32 = .ok (.min false (.v 5#6) (.v 6#6) (.v 7#6)) ∧
    decodeWords 0x082860ED#32 0#32 = .ok (.minU false (.v 5#6) (.v 6#6) (.v 7#6)) ∧
    decodeWords 0x082860EE#32 0#32 = .ok (.max false (.v 5#6) (.v 6#6) (.v 7#6)) ∧
    decodeWords 0x082860EF#32 0#32 = .ok (.maxU false (.v 5#6) (.v 6#6) (.v 7#6)) := by decide

/-- R333 and the entries of major 2: ABS v5, v6; CLZ v5, v6; POPC v5, v6; BFE v5, v6, v7; BFE.u v5, v6, v7; BFI v5, v6, v7; SEL v5, v6, v7; DIV v5, v6, v7; DIV.u v5, v6, v7; REM v5, v6, v7; REM.u v5, v6, v7; ADD.sat v5, v6, v7; SUB.sat v5, v6, v7; ADD v2, LANEID, ZERO. -/
theorem test_decode_iop2 :
    decodeWords 0x08286010#32 0#32 = .ok (.abs false (.v 5#6) (.v 6#6)) ∧
    decodeWords 0x08286011#32 0#32 = .ok (.clz false (.v 5#6) (.v 6#6)) ∧
    decodeWords 0x08286012#32 0#32 = .ok (.popc false (.v 5#6) (.v 6#6)) ∧
    decodeWords 0x082860F3#32 0#32 = .ok (.bfe false (.v 5#6) (.v 6#6) (.v 7#6)) ∧
    decodeWords 0x082860F4#32 0#32 = .ok (.bfeU false (.v 5#6) (.v 6#6) (.v 7#6)) ∧
    decodeWords 0x082860F5#32 0#32 = .ok (.bfi false (.v 5#6) (.v 6#6) (.v 7#6)) ∧
    decodeWords 0x082860F6#32 0#32 = .ok (.sel false (.v 5#6) (.v 6#6) (.v 7#6)) ∧
    decodeWords 0x082860F7#32 0#32 = .ok (.div false (.v 5#6) (.v 6#6) (.v 7#6)) ∧
    decodeWords 0x082860F8#32 0#32 = .ok (.divU false (.v 5#6) (.v 6#6) (.v 7#6)) ∧
    decodeWords 0x082860F9#32 0#32 = .ok (.rem false (.v 5#6) (.v 6#6) (.v 7#6)) ∧
    decodeWords 0x082860FA#32 0#32 = .ok (.remU false (.v 5#6) (.v 6#6) (.v 7#6)) ∧
    decodeWords 0x082860FB#32 0#32 = .ok (.addSat false (.v 5#6) (.v 6#6) (.v 7#6)) ∧
    decodeWords 0x082860FC#32 0#32 = .ok (.subSat false (.v 5#6) (.v 6#6) (.v 7#6)) ∧
    decodeWords 0x08179F00#32 0#32 = .ok (.add false (.v 2#6) .laneid .zero) := by decide

/-- The entries of majors 3 to 7: ADDI v3, v3, 1; ANDI s4, s4, 0x3FF; ORI v5, v6, 0x10; XORI v5, v6, 0x10; TSTI p2, v6, 0x80; SHLI v5, v6, 4; SHRI v5, v6, 4; SARI v5, v6, 4; ROTI v5, v6, 8; CMPI.ne p1, s42, 0; MOVI s41, 2; MOVI v3, -1. -/
theorem test_decode_imm :
    decodeWords 0x0C183001#32 0#32 = .ok (.addi false (.v 3#6) (.v 3#6) 1#12) ∧
    decodeWords 0x122443FF#32 0#32 = .ok (.andi false (.s 4) (.s 4) 0x3FF#10) ∧
    decodeWords 0x10286410#32 0#32 = .ok (.ori false (.v 5#6) (.v 6#6) 0x10#10) ∧
    decodeWords 0x10286810#32 0#32 = .ok (.xori false (.v 5#6) (.v 6#6) 0x10#10) ∧
    decodeWords 0x10106C80#32 0#32 = .ok (.tsti false 2#3 (.v 6#6) 0x80#10) ∧
    decodeWords 0x14286004#32 0#32 = .ok (.shli false (.v 5#6) (.v 6#6) 4#6) ∧
    decodeWords 0x14286404#32 0#32 = .ok (.shri false (.v 5#6) (.v 6#6) 4#6) ∧
    decodeWords 0x14286804#32 0#32 = .ok (.sari false (.v 5#6) (.v 6#6) 4#6) ∧
    decodeWords 0x14286C08#32 0#32 = .ok (.roti false (.v 5#6) (.v 6#6) 8#6) ∧
    decodeWords 0x180EA200#32 0#32 = .ok (.cmpi false 1#3 (.s 42) .ne 0#9) ∧
    decodeWords 0x1F480002#32 0#32 = .ok (.movi false (.s 41) 2#19) ∧
    decodeWords 0x1C1FFFFF#32 0#32 = .ok (.movi false (.v 3#6) 0x7FFFF#19) := by decide

/-- R377, R381 and the entries of majors 8 and 9: FADD.bf16x2 v4, v1, v2; FSUB v4, v1, v2; FMUL.f16x2 v4, v1, v2; FMA v12, v10, v11; FMIN v4, v1, v2; FMAX v4, v1, v2; FDIV v4, v1, v2; FSQRT v4, v1; FEXP v3, v2; FLOG v3, v2; FRCP v3, v2; FRSQ v3, v2; FSIN v3, v2; FCOS.f16x2 v3, v2; FTANH v3, v2; FERF.bf16x2 v3, v2. -/
theorem test_decode_float :
    decodeWords 0x20201050#32 0#32 = .ok (.fadd false (.v 4#6) (.v 1#6) (.v 2#6) .bf16x2) ∧
    decodeWords 0x20201041#32 0#32 = .ok (.fsub false (.v 4#6) (.v 1#6) (.v 2#6) .f32) ∧
    decodeWords 0x2020104A#32 0#32 = .ok (.fmul false (.v 4#6) (.v 1#6) (.v 2#6) .f16x2) ∧
    decodeWords 0x2060A163#32 0#32 = .ok (.fma false (.v 12#6) (.v 10#6) (.v 11#6) .f32) ∧
    decodeWords 0x20201044#32 0#32 = .ok (.fmin false (.v 4#6) (.v 1#6) (.v 2#6) .f32) ∧
    decodeWords 0x20201045#32 0#32 = .ok (.fmax false (.v 4#6) (.v 1#6) (.v 2#6) .f32) ∧
    decodeWords 0x20201046#32 0#32 = .ok (.fdiv false (.v 4#6) (.v 1#6) (.v 2#6) .f32) ∧
    decodeWords 0x20201007#32 0#32 = .ok (.fsqrt false (.v 4#6) (.v 1#6) .f32) ∧
    decodeWords 0x24182000#32 0#32 = .ok (.fexp false (.v 3#6) (.v 2#6) .f32) ∧
    decodeWords 0x24182001#32 0#32 = .ok (.flog false (.v 3#6) (.v 2#6) .f32) ∧
    decodeWords 0x24182002#32 0#32 = .ok (.frcp false (.v 3#6) (.v 2#6) .f32) ∧
    decodeWords 0x24182003#32 0#32 = .ok (.frsq false (.v 3#6) (.v 2#6) .f32) ∧
    decodeWords 0x24182004#32 0#32 = .ok (.fsin false (.v 3#6) (.v 2#6) .f32) ∧
    decodeWords 0x2418200D#32 0#32 = .ok (.fcos false (.v 3#6) (.v 2#6) .f16x2) ∧
    decodeWords 0x24182006#32 0#32 = .ok (.ftanh false (.v 3#6) (.v 2#6) .f32) ∧
    decodeWords 0x24182017#32 0#32 = .ok (.ferf false (.v 3#6) (.v 2#6) .bf16x2) := by decide

/-- R45 and the entries of major 10: CVT.f32.e4m3 v4, v1, 3; CVT.e4m3x2.f32 v3, v1, v2; MXQ.i8 v5, v6; MXQ.i4 v5, v6; MXDQ.i8 v5, v6; MXDQ.i4 v5, v6; TERQ v5, v8; FRND.rtz v4, v1. -/
theorem test_decode_convert :
    decodeWords 0x28201066#32 0#32 = .ok (.cvt false (.v 4#6) (.v 1#6) 3#7 .f32E4m3) ∧
    decodeWords 0x28181044#32 0#32 = .ok (.cvt false (.v 3#6) (.v 1#6) 2#7 .e4m3x2F32) ∧
    decodeWords 0x28286018#32 0#32 = .ok (.mxq false (.v 5#6) (.v 6#6) 0#7) ∧
    decodeWords 0x28286038#32 0#32 = .ok (.mxq false (.v 5#6) (.v 6#6) 1#7) ∧
    decodeWords 0x28286019#32 0#32 = .ok (.mxdq false (.v 5#6) (.v 6#6) 0#7) ∧
    decodeWords 0x28286039#32 0#32 = .ok (.mxdq false (.v 5#6) (.v 6#6) 1#7) ∧
    decodeWords 0x2828801A#32 0#32 = .ok (.terq false (.v 5#6) (.v 8#6)) ∧
    decodeWords 0x2820103B#32 0#32 = .ok (.frnd false (.v 4#6) (.v 1#6) 1#7) := by decide

/-- R168 and the entries of major 11: ICMP.ge p1, v2, v3; ICMP.u.lt p1, v2, v3; FCMP.lt p2, v4, v5; PLOG.and p3, p1, p2; PLOG.not p4, p4. -/
theorem test_decode_compare :
    decodeWords 0x2C082065#32 0#32 = .ok (.icmp false 1#3 (.v 2#6) (.v 3#6) .ge) ∧
    decodeWords 0x2C08206A#32 0#32 = .ok (.icmpU false 1#3 (.v 2#6) (.v 3#6) .lt) ∧
    decodeWords 0x2C1040B2#32 0#32 = .ok (.fcmp false 2#3 (.v 4#6) (.v 5#6) .lt) ∧
    decodeWords 0x2C181058#32 0#32 = .ok (.plog false 3#3 1#3 2#3 .and) ∧
    decodeWords 0x2C20401D#32 0#32 = .ok (.plog false 4#3 4#3 0#3 .not) := by decide

/-- The entries of major 12: RED.add s5, v6; RED.fadd v5, v6; SCAN.add v5, v6; SCAN.max v5, v6; BALLOT s5, p2; VOTE.all p1, p2; VOTE.any p1, p2; VOTE.uni p1, p2; ELECT p1; SHFL v5, v6, v7. -/
theorem test_decode_cross :
    decodeWords 0x32286000#32 0#32 = .ok (.red false (.s 5) (.v 6#6) .add) ∧
    decodeWords 0x30286012#32 0#32 = .ok (.redFadd false (.v 5#6) (.v 6#6)) ∧
    decodeWords 0x30286008#32 0#32 = .ok (.scan false (.v 5#6) (.v 6#6) .add) ∧
    decodeWords 0x3028600A#32 0#32 = .ok (.scan false (.v 5#6) (.v 6#6) .max) ∧
    decodeWords 0x3228200C#32 0#32 = .ok (.ballot false (.s 5) 2#3) ∧
    decodeWords 0x3008200D#32 0#32 = .ok (.voteAll false 1#3 2#3) ∧
    decodeWords 0x3008200E#32 0#32 = .ok (.voteAny false 1#3 2#3) ∧
    decodeWords 0x3008200F#32 0#32 = .ok (.voteUni false 1#3 2#3) ∧
    decodeWords 0x30080010#32 0#32 = .ok (.elect false 1#3) ∧
    decodeWords 0x302860F1#32 0#32 = .ok (.shfl false (.v 5#6) (.v 6#6) (.v 7#6)) := by decide

/-- The entries of majors 13 to 16: LD.b8.sx.spec v4, v2, b1; LD.b32.dev.sw v10, v7, b3; LD.b64.spec v12, v24, b3; LDX.spec.clu v4, v2, b1; PREF.clu v2, b1; ST.b32.dev v4, v2, b1; STX v4, v2, b1; ATOM.add.dev v4, v2, b1; ATOMN.or.sys s6, s7, b1; LDS.b32 v4, v2; STS.b32 v4, v2; STS.b128 v4, v27; ATOMS.add v4, v2. -/
theorem test_decode_memory :
    decodeWords 0x34202118#32 0#32 = .ok (.ld false (.v 4#6) (.v 2#6) 1#4 .plain true true .b8) ∧
    decodeWords 0xB4507382#32 0#32 = .ok (.ld true (.v 10#6) (.v 7#6) 3#4 .dev false false .b32) ∧
    decodeWords 0x34618313#32 0#32 = .ok (.ld false (.v 12#6) (.v 24#6) 3#4 .plain true false .b64) ∧
    decodeWords 0x34202155#32 0#32 = .ok (.ldx false (.v 4#6) (.v 2#6) 1#4 .clu true) ∧
    decodeWords 0x34002146#32 0#32 = .ok (.pref false (.v 2#6) 1#4 .clu) ∧
    decodeWords 0x38202182#32 0#32 = .ok (.st false (.v 4#6) (.v 2#6) 1#4 .dev .b32) ∧
    decodeWords 0x38202105#32 0#32 = .ok (.stx false (.v 4#6) (.v 2#6) 1#4 .plain) ∧
    decodeWords 0x3C202180#32 0#32 = .ok (.atom false (.v 4#6) (.v 2#6) 1#4 .dev .add) ∧
    decodeWords 0x3E3471B7#32 0#32 = .ok (.atomn false (.s 6) (.s 7) 1#4 .sys .or) ∧
    decodeWords 0x40202002#32 0#32 = .ok (.lds false (.v 4#6) (.v 2#6) .plain .b32) ∧
    decodeWords 0x4020200A#32 0#32 = .ok (.sts false (.v 4#6) (.v 2#6) .plain .b32) ∧
    decodeWords 0x4021B00C#32 0#32 = .ok (.sts false (.v 4#6) (.v 27#6) .plain .b128) ∧
    decodeWords 0x40202010#32 0#32 = .ok (.atoms false (.v 4#6) (.v 2#6) .plain .add) := by decide

/-- The entries of major 17: RLD b3, s8; RSET b3, 1, s9 (by the format: B at [11:5]); RGET s9, b3, 1; RCHK.b32 p1, v2, b3. -/
theorem test_decode_records :
    decodeWords 0x441C8000#32 0#32 = .ok (.rld false 3#4 (.s 8)) ∧
    decodeWords 0x44181921#32 0#32 = .ok (.rset false 3#4 1#2 (.s 9)) ∧
    decodeWords 0x46483022#32 0#32 = .ok (.rget false (.s 9) 3#4 1#2) ∧
    decodeWords 0x44882063#32 0#32 = .ok (.rchk false .b32 1#3 (.v 2#6) 3#4) := by decide

/-- R68 and the entries of majors 18 and 19: MMA 5, a2, m0, m1, 4; MMA.z 0, a0, m0, m1; MWAIT 5; MWAIT.all; MQRY s3, 5, a2; MAPS m1, s10; ACLR a4; ARD v10, a4, 7; AWR a4, 7, v10; AST a4, s6, b2; AST.raw a4, s6, b2. -/
theorem test_decode_matrix :
    decodeWords 0x48513F00#32 0x04400000#32 = .ok (.mma false 5#6 4#6 0x3F#6 0#3 1#3 2#5 false false) ∧
    decodeWords 0x480FFF00#32 0x04100000#32 = .ok (.mma false 0#6 0x3F#6 0x3F#6 0#3 1#3 0#5 true false) ∧
    decodeWords 0x48500001#32 0#32 = .ok (.mwait false 5#6) ∧
    decodeWords 0x4BF00001#32 0#32 = .ok (.mwait false 0x3F#6) ∧
    decodeWords 0x48586202#32 0#32 = .ok (.mqry false 5#6 (.s 3) 2#5) ∧
    decodeWords 0x48894003#32 0#32 = .ok (.maps false 1#3 (.s 10)) ∧
    decodeWords 0x4C200000#32 0#32 = .ok (.aclr false 4#5) ∧
    decodeWords 0x4C5040E1#32 0#32 = .ok (.ard false (.v 10#6) 4#5 false 7#5) ∧
    decodeWords 0x4C20A0E2#32 0#32 = .ok (.awr false 4#5 (.v 10#6) 7#5) ∧
    decodeWords 0x4C246043#32 0#32 = .ok (.ast false false 4#5 (.s 6) 2#4) ∧
    decodeWords 0x4D246043#32 0#32 = .ok (.ast false true 4#5 (.s 6) 2#4) := by decide

/-- The entries of major 20: TCOPY s6; ECMD s6; SEMWAIT s3, s8, s9; SEMSIG s8, s9; SEMRD s3, s8; LAUNCH s6. -/
theorem test_decode_engine :
    decodeWords 0x50046000#32 0#32 = .ok (.tcopy false (.s 6)) ∧
    decodeWords 0x50046001#32 0#32 = .ok (.ecmd false (.s 6)) ∧
    decodeWords 0x521C8922#32 0#32 = .ok (.semwait false (.s 3) (.s 8) (.s 9)) ∧
    decodeWords 0x50048923#32 0#32 = .ok (.semsig false (.s 8) (.s 9)) ∧
    decodeWords 0x521C8004#32 0#32 = .ok (.semrd false (.s 3) (.s 8)) ∧
    decodeWords 0x50046005#32 0#32 = .ok (.launch false (.s 6)) := by decide

/-- R202 and the entries of majors 21 and 22: FENCE.rel.dev; FENCE.acq_rel.sys; BAR s3, 2; BAR 0; BARC 5; DRAIN s3, 1; ODECL s3, s8; OREL s3, s8; LOCK s3, s8; TRYLK s3, s8; UNLOCK s3, s8; WREG s8, s9; WAITV s3, s8; WDONE; WQRY s3. -/
theorem test_decode_sync :
    decodeWords 0x5400000C#32 0#32 = .ok (.fence false .rel 4#3) ∧
    decodeWords 0x54000015#32 0#32 = .ok (.fence false .acqRel 5#3) ∧
    decodeWords 0x56182018#32 0#32 = .ok (.bar false (.s 3) 2#4) ∧
    decodeWords 0x57C00018#32 0#32 = .ok (.bar false .zero 0#4) ∧
    decodeWords 0x57C05019#32 0#32 = .ok (.barc false .zero 5#4) ∧
    decodeWords 0x5618101A#32 0#32 = .ok (.drain false (.s 3) 1#4) ∧
    decodeWords 0x561C801B#32 0#32 = .ok (.odecl false (.s 3) (.s 8)) ∧
    decodeWords 0x561C801C#32 0#32 = .ok (.orel false (.s 3) (.s 8)) ∧
    decodeWords 0x5A1C8000#32 0#32 = .ok (.lock false (.s 3) (.s 8)) ∧
    decodeWords 0x5A1C8001#32 0#32 = .ok (.trylk false (.s 3) (.s 8)) ∧
    decodeWords 0x5A1C8002#32 0#32 = .ok (.unlock false (.s 3) (.s 8)) ∧
    decodeWords 0x58048923#32 0#32 = .ok (.wreg false (.s 8) (.s 9)) ∧
    decodeWords 0x5A1C8004#32 0#32 = .ok (.waitv false (.s 3) (.s 8)) ∧
    decodeWords 0x58000005#32 0#32 = .ok (.wdone false) ∧
    decodeWords 0x5A180006#32 0#32 = .ok (.wqry false (.s 3)) := by decide

/-- The entries of majors 23 to 25: PCLS s5; EBUD s3, s4, s5; WLD v8, s4, 0; CBSET s6, s7, b2; WSCHK p1, s4, 2 (by the format); RND v5, s6; CHKP v5; ISPOI p2, v5; MKPOI v6, s4; TIMEW s3, s8. -/
theorem test_decode_power :
    decodeWords 0x5C045000#32 0#32 = .ok (.pcls false (.s 5)) ∧
    decodeWords 0x5E1C48A1#32 0#32 = .ok (.ebud false (.s 3) (.s 4) (.s 5)) ∧
    decodeWords 0x60444000#32 0#32 = .ok (.wld false (.v 8#6) (.s 4) 0#4 0#3) ∧
    decodeWords 0x62347201#32 0#32 = .ok (.cbset false (.s 6) (.s 7) 2#4 0#3) ∧
    decodeWords 0x600C4202#32 0#32 = .ok (.wschk false 1#3 (.s 4) 2#4 0#3) ∧
    decodeWords 0x642C6000#32 0#32 = .ok (.rnd false (.v 5#6) (.s 6)) ∧
    decodeWords 0x64005001#32 0#32 = .ok (.chkp false (.v 5#6)) ∧
    decodeWords 0x64105002#32 0#32 = .ok (.ispoi false 2#3 (.v 5#6)) ∧
    decodeWords 0x64344003#32 0#32 = .ok (.mkpoi false (.v 6#6) (.s 4)) ∧
    decodeWords 0x661C8004#32 0#32 = .ok (.timew false (.s 3) (.s 8)) := by decide

/-- R169, R459 and the entries of majors 26 to 28 and 31: BR !p2, 0x40 bytes on; BRU.any p2, 5 words back; CALL 0x100 bytes on; the prefix of (p3) ADD v5, v6, v7.bfly(2); the prefix of SEL v5, v6, v7, !p2; the prefix of ADDI s4, s4, 0x12345. -/
theorem test_decode_branch :
    decodeWords 0x6A800010#32 0#32 = .ok (.br false true 2#3 0x10#21) ∧
    decodeWords 0x6D5FFFFB#32 0#32 = .ok (.bru false .any 2#3 0x1FFFFB#21) ∧
    decodeWords 0x70000040#32 0#32 = .ok (.call false 0x40#21) ∧
    decodeWords 0x7C029800#32 0#32 = .ok (.xw ⟨0#3, 0#3, 1#3, 2#3, 3#3, false, 0#10⟩) ∧
    decodeWords 0x7C001400#32 0#32 = .ok (.xw ⟨0#3, 0#3, 0#3, 0#3, 2#3, true, 0#10⟩) ∧
    decodeWords 0x7C000012#32 0#32 = .ok (.xw ⟨0#3, 0#3, 0#3, 0#3, 0#3, false, 0x12#10⟩) := by decide

/-! ## Ill-formed terms, each refused by one check, and a well-formed neighbour of it -/

theorem test_wf_hint : (Instr.phint false 3#8 0#3 (.s 12)).wf = false ∧ (Instr.phint false 3#8 2#3 (.s 12)).wf = true ∧
    (Instr.idem false 3#8 0#3 .zero).wf = false ∧ (Instr.idem false 3#8 0#3 (.v 0#6)).wf = true := by decide

theorem test_wf_plog : (Instr.plog false 1#3 1#3 1#3 .not).wf = false ∧ (Instr.plog false 1#3 1#3 0#3 .not).wf = true ∧
    (Instr.plog false 1#3 1#3 2#3 .mov).wf = false := by decide

theorem test_wf_load : (Instr.ld false (.v 4#6) (.v 2#6) 1#4 .plain false true .b64).wf = false ∧
    (Instr.ld false (.v 4#6) (.v 2#6) 1#4 .plain false true .b16).wf = true := by decide

theorem test_wf_branch : (Instr.bru false .always 1#3 0#21).wf = false ∧ (Instr.bru false .always 0#3 0#21).wf = true := by decide

theorem test_wf_prefix : (Instr.xw { noXw with argA := 1#3 }).wf = false ∧ (Instr.xw { noXw with argB := 1#3 }).wf = false ∧
    (Instr.xw { noXw with permA := 1#3, argA := 1#3 }).wf = true := by decide

/-! ## Words that are no instruction (R167, R170), refused by name -/

theorem test_reserved_words :
    decodeWords 0x74000000#32 0#32 = .error .majorReserved ∧ decodeWords 0x78000000#32 0#32 = .error .majorReserved ∧
    decodeWords 0x0800001F#32 0#32 = .error .selectorReserved ∧ decodeWords 0x00000040#32 0#32 = .error .fieldNotZero ∧
    decodeWords 0xFC000000#32 0#32 = .error .xwBit31 ∧
    decodeBytes [] = .error .truncated ∧ decodeBytes [0x00#8, 0x10#8] = .error .truncated := by decide

/-- R156: the operand codes 124 to 127 name nothing. -/
theorem test_reserved_codes : ∀ c ∈ [0x7C#7, 0x7D#7, 0x7E#7, 0x7F#7], ∃ k, Opd.ofCode c = .bad k := by
  intro c h; fin_cases h <;> exact ⟨_, rfl⟩

/-! ## A small machine: one context, one workgroup of one wave of 32 lanes, and the page of its program, with the wave's first slot issuing. -/

def base : State := State.reset.boot.latch bootWave false

/-- The small machine with a change to its wave, its workgroup, its context, or the prefix in force. -/
def onWave (f : Wave → Wave) : State := base.setWaveAt bootWave (f bootWaveVal)
def onWg (s : State) (f : Wg → Wg) : State := s.setWgAt (wgKeyOf bootAsid 0 0) (f (s.wgAt (wgKeyOf bootAsid 0 0)))
def onCtx (s : State) (f : Ctx → Ctx) : State := s.setCtxAt bootAsid (f (s.ctxAt bootAsid))
def onRegs (f : Regs → Regs) : State := onWave fun w => { w with regs := f w.regs }
def prefixed (x : Xw) (s : State) : State := { s with iss := { s.iss with pfx := some x } }

/-- The same wave in reproducible mode, or in handler mode. -/
def reproBase : State := onWave fun w => { w with id := { w.id with repro := true } }
def handlerBase : State := onWave fun w => { w with env := { w.env with hm := true } }

/-- The guard `(p2)` and no permutation. -/
def guardXw : Xw := { noXw with pred := 2#3 }

theorem test_base_runs : base.issuing = true ∧ base.mask = 0xFFFFFFFF#64 ∧ base.wave.repro = false ∧ reproBase.wave.repro = true ∧
    handlerBase.wave.env.hm = true := by decide

/-! ## Witnesses: states and operands that meet the hypotheses of the statements -/

theorem witness_IntegerResults : ∀ i ∈ [Instr.add false (.v 5#6) (.v 6#6) (.v 7#6), .sub false (.s 3) (.s 4) (.g 7#3),
      .mul true (.v 31#6) (.s 1) (.s 3), .mulh false .zero (.v 0#6) .laneid, .mulhU false (.s 47) .waveid .time,
      .mad false (.v 0#6) (.v 1#6) (.v 2#6), .and false (.s 0) (.s 1) .zero, .or false (.g 0#3) (.s 1) (.s 2), .xor false (.v 0#6) .zero (.s 2),
      .shl false (.v 0#6) (.v 1#6) (.v 2#6), .shr false (.s 0) (.s 1) (.s 2), .sar false (.v 0#6) (.v 1#6) (.v 2#6),
      .min false (.v 0#6) (.v 1#6) (.v 2#6), .minU false (.s 0) (.s 1) (.s 2), .max false (.v 0#6) (.v 1#6) (.v 2#6),
      .maxU false (.v 0#6) (.v 1#6) (.v 2#6), .abs false (.s 0) (.s 0), .clz false (.v 0#6) (.v 1#6), .popc false (.s 0) (.s 1),
      .bfe false (.v 0#6) (.v 1#6) (.v 2#6), .bfeU false (.s 0) (.s 1) (.s 2), .bfi false (.v 0#6) (.v 1#6) (.v 2#6),
      .addSat false (.v 0#6) (.v 1#6) (.v 2#6), .subSat false (.s 0) (.s 1) (.s 2)],
    ∃ o, intOp i = some o ∧ base.issuing = true ∧ base.formTrap (regForm o.d o.a o.b) false = none := by
  intro i h; fin_cases h <;> exact ⟨_, rfl, rfl, rfl⟩

theorem witness_DivisionResults : ∀ i ∈ [Instr.div false (.v 5#6) (.v 6#6) (.v 7#6), .divU false (.s 3) (.s 4) (.s 5),
      .rem true (.v 1#6) (.s 1) (.s 3), .remU false .zero (.v 0#6) .laneid],
    ∃ o, divOp i = some o ∧ base.issuing = true ∧ base.formTrap (regForm o.d o.a o.b) false = none := by
  intro i h; fin_cases h <;> exact ⟨_, rfl, rfl, rfl⟩

theorem witness_SelResult : ∀ s ∈ [base, prefixed guardXw base], s.issuing = true ∧
    s.formTrap (regForm (.v 5#6) (.v 6#6) (some (.v 7#6))) (s.xw.pred != 0#3 && !(regForm (.v 5#6) (.v 6#6) (some (.v 7#6))).isVec) = none := by
  decide

theorem witness_ImmediateResults : (∀ i ∈ [Instr.addi false (.v 3#6) (.v 3#6) 0x800#12, .andi false (.s 4) (.s 4) 0x3FF#10, .ori false (.v 3#6) (.s 4) 0#10,
      .xori false (.s 4) (.s 4) 1#10, .shli false (.v 0#6) (.v 1#6) 63#6, .shri false (.s 0) (.s 1) 63#6, .sari false (.v 0#6) (.v 1#6) 4#6,
      .roti false (.s 0) (.s 1) 32#6],
    ∃ o, immOp base i = some o ∧ base.issuing = true ∧ base.formTrap (immRegForm o.d o.a o.xw) false = none) ∧
    (∀ d ∈ [Opd.v 3#6, .s 41], (prefixed { noXw with immhi := 0x12#10 } base).issuing = true ∧
      (prefixed { noXw with immhi := 0x12#10 } base).formTrap { dst := some { o := d }, xw := .wide } false = none) := by
  refine ⟨?_, by decide⟩; intro i h; fin_cases h <;> exact ⟨_, rfl, rfl, rfl⟩

theorem witness_IntegerCompares : ∀ i ∈ [Instr.tsti false 2#3 (.v 6#6) 0x80#10, .cmpi false 1#3 (.s 42) .ne 0x1FF#9,
      .icmp false 0#3 (.v 2#6) (.v 3#6) .ge, .icmpU false 1#3 (.s 2) (.s 3) .lt],
    ∃ o, cmpOp base i = some o ∧ base.issuing = true ∧ base.formTrap o.form false = none := by
  intro i h; fin_cases h <;> exact ⟨_, rfl, rfl, rfl⟩

theorem witness_PredicateLogic : base.issuing = true ∧ base.formTrap {} false = none := by decide

theorem witness_FloatResults : ∀ i ∈ [Instr.fadd false (.v 4#6) (.v 1#6) (.v 2#6) .bf16x2, .fsub false (.s 4) (.s 1) (.s 2) .f32,
      .fmul false (.v 4#6) (.v 1#6) (.v 2#6) .f16x2, .fma false (.v 12#6) (.v 10#6) (.v 11#6) .f32, .fmin false (.v 4#6) (.v 1#6) (.v 2#6) .f32,
      .fmax false (.v 4#6) (.v 1#6) (.v 2#6) .f32, .fdiv false (.v 4#6) (.v 1#6) (.s 2) .f32, .fsqrt false (.s 4) (.s 1) .f16x2],
    ∃ o, floatOp i = some o ∧ base.issuing = true ∧ base.formTrap (regForm o.d o.a o.b) false = none := by
  intro i h; fin_cases h <;> exact ⟨_, rfl, rfl, rfl⟩

theorem witness_FunctionResults : ∀ i ∈ [Instr.fexp false (.v 3#6) (.v 2#6) .f32, .flog false (.s 3) (.s 2) .f32, .frcp false (.v 3#6) (.v 2#6) .f16x2,
      .frsq false (.v 3#6) (.v 2#6) .f32, .fsin false (.v 3#6) (.v 2#6) .f32, .fcos false (.s 3) (.s 2) .bf16x2, .ftanh false (.v 3#6) (.v 2#6) .f32,
      .ferf false (.v 3#6) (.v 2#6) .f32],
    ∃ sw d a t op, functionOp i = some (sw, d, a, t, op) ∧ base.issuing = true ∧ base.formTrap (regForm d a none) false = none := by
  intro i h; fin_cases h <;> exact ⟨_, _, _, _, _, rfl, rfl, rfl⟩

theorem witness_FloatCompares : base.issuing = true ∧ base.formTrap (cmpRegForm (.v 4#6) (some (.v 5#6)) .plain) false = none ∧
    base.formTrap (cmpRegForm (.s 4) (some (.s 5)) .plain) false = none := by decide

theorem witness_ConversionResults : ∀ i ∈ [Instr.cvt false (.v 4#6) (.v 1#6) 3#7 .f32E4m3, .cvt false (.v 3#6) (.v 1#6) 2#7 .e4m3x2F32,
      .cvt false (.s 3) (.s 1) 0#7 .f32I32, .mxdq false (.v 4#6) (.v 6#6) 1#7, .frnd false (.s 4) (.s 1) 3#7],
    ∃ sw d a b bad f, convertOp base i = some (sw, d, a, b, bad, f) ∧ base.issuing = true ∧ base.formTrap (regForm d a b) bad = none := by
  intro i h; fin_cases h <;> exact ⟨_, _, _, _, _, _, rfl, rfl, rfl⟩

theorem witness_BlockQuantisation : ∀ i ∈ [Instr.mxq false (.v 4#6) (.v 6#6) 0#7, .mxq false (.v 4#6) (.v 6#6) 1#7, .terq false (.v 5#6) (.v 8#6)],
    ∃ o, blockOp base i = some o ∧ base.issuing = true ∧ base.formTrap o.form o.bad = none := by
  intro i h; fin_cases h <;> exact ⟨_, rfl, rfl, rfl⟩

theorem witness_Reductions : base.issuing = true ∧ base.formTrap (xlnRegForm (.v 5#6) (.v 6#6)) false = none ∧
    base.formTrap (xlnRegForm (.s 5) (.v 6#6)) false = none := by decide

theorem witness_Scans : base.issuing = true ∧ base.formTrap (xlnRegForm (.v 5#6) (.v 6#6)) (!isVecReg (.v 5#6)) = none := by decide

theorem witness_VotesAndBallots : base.issuing = true ∧
    base.formTrap { dst := some { o := .s 5 }, mixing := false, xln := true } (!(Opd.s 5).sgz) = none ∧
    (∀ i ∈ [Instr.voteAll false 1#3 2#3, .voteAny false 7#3 0#3, .voteUni false 1#3 2#3], ∃ sw d a f, voteTrue i = some (sw, d, a, f)) ∧
    base.formTrap { xln := true } false = none := by
  refine ⟨rfl, rfl, ?_, rfl⟩; intro i h; fin_cases h <;> exact ⟨_, _, _, _, rfl⟩

theorem witness_Shuffle : base.issuing = true ∧
    base.formTrap { regForm (.v 5#6) (.v 6#6) (some (.v 7#6)) with mixing := false, xln := true } (!isVecReg (.v 5#6)) = none := by decide

theorem witness_PoisonInstructions : base.issuing = true ∧ base.formTrap { a := some { o := .v 5#6 } } false = none ∧
    base.formTrap (regForm (.v 6#6) (.s 4) none) false = none ∧
    (∀ l ∈ laneList base (Opd.v 5#6).isVec, firstTok [(base.srcA (Opd.v 5#6).isVec (.v 5#6) l).tok, base.guardTok l] = none) := by decide

theorem witness_RandomValues : base.issuing = true ∧ base.formTrap (regForm (.v 5#6) (.s 6) none) false = none ∧
    base.formTrap (regForm (.s 5) (.s 6) none) false = none := by decide


/-! ## What one step gives: the expected values are the spec's own examples and tables, or worked by hand from its rules. -/

/-- The small machine with two words in s1 and s2 and one active lane. -/
def given (a b : Word64) : State :=
  onWave fun w =>
    let r : Regs := { w.regs with s := (w.regs.s.set! 1 ⟨a, false⟩).set! 2 ⟨b, false⟩ }
    let p : Pcs := { w.pcs with slot0 := w.pcs.slot0.map fun x => { x with mask := 1#64 } }
    { w with regs := r, pcs := p }

/-- Lane 0 of v3 after an instruction, and FFLAGS. -/
def lane3 (o : Host.Outcome State Fault Refusal) : Option (Word32 × BitVec 6) :=
  match o with
  | .next t => some ((t.wave.regs.v.get LaneVal.zero (64 * 3)).bits, t.wave.lo.fflags)
  | _ => none

/-- Lane 0 of the outstanding result of v3. -/
def lateLane3 (o : Host.Outcome State Fault Refusal) : Option Word32 :=
  match o with
  | .next t =>
    match t.wave.pend with
    | [⟨[.vec 3 (x :: _)], _, _, _, _, _, _, _⟩] => some x.bits
    | _ => none
  | _ => none

/-- Predicate p1 in lane 0 after an instruction, and FFLAGS. -/
def pred1 (o : Host.Outcome State Fault Refusal) : Option (Bool × BitVec 6) :=
  match o with
  | .next t => some (t.wave.regs.p[1].val.getLsbD 0, t.wave.lo.fflags)
  | _ => none

/-- R333, R399: products of 0xFFFFFFFF and 2. -/
theorem test_products :
    (exec (.mul false (.v 3) (.s 1) (.s 2)) (given 0xFFFFFFFF 2) |> lane3) = some (0xFFFFFFFE#32, 0#6) ∧
    (exec (.mulh false (.v 3) (.s 1) (.s 2)) (given 0xFFFFFFFF 2) |> lane3) = some (0xFFFFFFFF#32, 0#6) ∧
    (exec (.mulhU false (.v 3) (.s 1) (.s 2)) (given 0xFFFFFFFF 2) |> lane3) = some (1#32, 0#6) ∧
    (exec (.min false (.v 3) (.s 1) (.s 2)) (given 0xFFFFFFFF 2) |> lane3) = some (0xFFFFFFFF#32, 0#6) ∧
    (exec (.minU false (.v 3) (.s 1) (.s 2)) (given 0xFFFFFFFF 2) |> lane3) = some (2#32, 0#6) := by decide +kernel

/-- R435: shifts of 0x80000010 by 0x24 take the low five bits of the count. -/
theorem test_shifts :
    (exec (.shl false (.v 3) (.s 1) (.s 2)) (given 0x80000010 0x24) |> lane3) = some (0x100#32, 0#6) ∧
    (exec (.shr false (.v 3) (.s 1) (.s 2)) (given 0x80000010 0x24) |> lane3) = some (0x08000001#32, 0#6) ∧
    (exec (.sar false (.v 3) (.s 1) (.s 2)) (given 0x80000010 0x24) |> lane3) = some (0xF8000001#32, 0#6) := by decide +kernel

/-- R334, R445: the least number minus one wraps, or stays at the least. -/
theorem test_subtract_corner :
    (exec (.sub false (.v 3) (.s 1) (.s 2)) (given 0x80000000 1) |> lane3) = some (0x7FFFFFFF#32, 0#6) ∧
    (exec (.subSat false (.v 3) (.s 1) (.s 2)) (given 0x80000000 1) |> lane3) = some (0x80000000#32, 0#6) ∧
    (exec (.addSat false (.v 3) (.s 1) (.s 2)) (given 0x7FFFFFFF 1) |> lane3) = some (0x7FFFFFFF#32, 0#6) := by decide +kernel

/-- R431: a rotation by 8. -/
theorem test_rotate : (exec (.roti false (.v 3) (.s 1) 8#6) (given 0x12345678 0) |> lane3) = some (0x34567812#32, 0#6) := by decide +kernel

/-- R368, R428: the remainder has the sign of the dividend. -/
theorem test_division :
    (exec (.rem false (.v 3) (.s 1) (.s 2)) (given 0xFFFFFFF9 2) |> lateLane3) = some 0xFFFFFFFF#32 ∧
    (exec (.remU false (.v 3) (.s 1) (.s 2)) (given 0xFFFFFFF9 2) |> lateLane3) = some 1#32 := by decide +kernel

/-- R378: 1.0 + 2^-24 is a tie, which goes to the even number, inexact. -/
theorem test_add_tie : (exec (.fadd false (.v 3) (.s 1) (.s 2) .f32) (given 0x3F800000 0x33800000) |> lane3) = some (0x3F800000#32, 16#6) := by
  decide +kernel

/-- R379: a quiet NaN is not less, which is invalid; it is unequal, which is not. -/
theorem test_compare_nan :
    (exec (.fcmp false 1 (.v 3) (.s 1) .lt) (given 0x7FC00000 0) |> pred1) = some (false, 1#6) ∧
    (exec (.fcmp false 1 (.v 3) (.s 1) .ne) (given 0x7FC00000 0) |> pred1) = some (true, 0#6) := by decide +kernel

/-- R387: signed and unsigned compares of 0xFFFFFFFF with 1. -/
theorem test_compare_signs :
    ((exec (.add false (.v 3) (.s 1) .zero) (given 0xFFFFFFFF 1) |> fun o => match o with
      | .next t => exec (.icmp false 1 (.v 3) (.s 2) .lt) t
      | o => o) |> pred1) = some (true, 0#6) ∧
    ((exec (.add false (.v 3) (.s 1) .zero) (given 0xFFFFFFFF 1) |> fun o => match o with
      | .next t => exec (.icmpU false 1 (.v 3) (.s 2) .lt) t
      | o => o) |> pred1) = some (false, 0#6) := by decide +kernel

/-- The machine with its page also writable, records b1 over that page (b2 over cluster scratch, b3 over 16-bit floats), the address 0x10100
in s8, its first two lanes active. -/
def page (fmt : Nat) : BufRec := BitVec.ofNat 256 (0x10000 + 0x1000 * 2 ^ 64 + fmt * 2 ^ 112 + 4 * 2 ^ 128)
def dataWave (w : Wave) : Wave :=
  let r : Regs := { w.regs with s := w.regs.s.set! 8 ⟨0x10100#64, false⟩, b := (w.regs.b.set! 1 (page 0)).set! 3 (page 2) }
  let p : Pcs := { w.pcs with slot0 := w.pcs.slot0.map fun x => { x with mask := 3#64 } }
  { w with regs := r, pcs := p }
def withPage (s : State) : State := s.memWrite (bytePairs (bootNode + 0x38) 8 15)
def dataBase : State := withPage (onWave dataWave)
def reproData : State := withPage (onWave fun w => dataWave { w with id := { w.id with repro := true } })
/-- The same with 4096 bytes of scratchpad. -/
def padBase : State := onWg dataBase fun g => { g with kern := { g.kern with scratch := 0x1000, acct := 4, con := 1#3, ws := true, idm := true } , pages := [0] }

theorem witness_LoadResults : ∀ i ∈ [Instr.ld false (.s 4) (.s 2) 1#4 .plain true true .b8, .ld true (.v 4#6) (.v 2#6) 1#4 .dev false false .b128,
      .ld false .zero .laneid 1#4 .sys false false .b32, .ldx false (.v 4#6) (.v 2#6) 3#4 .clu true],
    i.WellFormed ∧ ∃ o, loadOp dataBase i = some o ∧ dataBase.issuing = true ∧
      dataBase.formTrap o.form (o.bad || recBad (dataBase.brec o.r) || o.c == .ord7 || !dataReg o.d) = none ∧
      dataBase.pickTrap o.form.isVec (specFails o.spec (chkFails (loadChecksOf dataBase o))) = none := by
  intro i h; fin_cases h <;> exact ⟨rfl, _, rfl, rfl, rfl, by decide +kernel⟩

theorem witness_Prefetch : dataBase.issuing = true ∧ dataBase.harts.lines = [] ∧ dataBase.caches.l2 = [] ∧ ∀ c ∈ [OrdCode.plain, .clu, .dev],
    dataBase.formTrap { a := some { o := .v 2#6 } } (c != .plain && c != .clu && c != .dev) = none := by decide +kernel

theorem witness_StoreEntries : ∀ i ∈ [Instr.st false (.s 4) (.s 2) 1#4 .plain .b64, .st false (.v 4#6) (.v 2#6) 1#4 .dev .b32,
      .st true (.v 4#6) .laneid 1#4 .sys .b16, .stx false (.v 4#6) (.v 2#6) 3#4 .wg],
    ∃ o, storeOp dataBase i = some o ∧ dataBase.issuing = true ∧
      storePasses dataBase o.form (o.bad || recBad (dataBase.brec o.r) || o.c == .ord7 || !dataReg o.d || (o.o.isVec && !o.d.isVec && decide (4 < o.regBytes)))
        (o.checks dataBase) (dataBase.storeTok o.form.isVec o.d o.o o.regBytes) o.c ∧ hasRoom (dataBase.releaseAt (ordScope o.c)) o.c := by
  intro i h; fin_cases h <;> exact ⟨_, rfl, rfl, ⟨rfl, by decide +kernel, by decide +kernel, rfl⟩, by unfold hasRoom fifoRoom fifoRooms; decide +kernel⟩

/-- R105: lanes 0 to 31 and lanes 32 to 63 of a pair's store are two entries, one of each FIFO. -/
theorem test_pair_halves : byHalf [(0, true), (31, false), (32, true)] = [[(0, true), (31, false)], [(32, true)]] ∧
    byHalf [(40, true)] = [[(40, true)]] ∧ byHalf ([] : List (Nat × Bool)) = [[]] := by decide

theorem witness_AtomicEntries : ∀ i ∈ [Instr.atom false (.s 4) (.s 2) 1#4 .dev .add, .atom false (.v 4#6) (.v 2#6) 1#4 .plain .cas,
      .atomn false (.s 6) (.s 7) 1#4 .sys .or],
    ∃ sw ret d o r c p, atomicOp i = some (sw, ret, d, o, r, c, p) ∧ dataBase.issuing = true ∧
      storePasses dataBase (atomForm d o p ret) (atomIllegal d o (dataBase.brec r) c p)
        ((dataBase.storeChecks (atomForm d o p ret).isVec o (dataBase.brec r) 4 4 .atomic).filter fun e => (atomForm d o p ret).isVec || e.1 == 0)
        (dataBase.atomTok (atomForm d o p ret).isVec d o p) c ∧ hasRoom (dataBase.releaseAt (ordScope c)) c := by
  intro i h; fin_cases h <;> exact ⟨_, _, _, _, _, _, _, rfl, rfl, ⟨rfl, by decide +kernel, by decide +kernel, rfl⟩, by unfold hasRoom fifoRoom fifoRooms; decide +kernel⟩

theorem witness_ScratchpadLoads : padBase.issuing = true ∧ ∀ z ∈ [MemSize.b8, .b32, .b128],
    padBase.formTrap { a := some { o := .v 2#6 }, dst := some (memGroup (.v 4#6) (byteCount z)) } false = none ∧
    padBase.pickTrap true (padBase.spmFails true (.v 2#6) (byteCount z) fun l => (offsetTok padBase (.v 2#6) l).isSome) = none := by decide +kernel

def reproPad : State := onWg reproData fun g => { g with kern := { g.kern with scratch := 0x1000 }, pages := [0] }

theorem witness_ScratchpadAtomics : ∀ s ∈ [padBase, reproPad], s.issuing = true ∧ fifoRoom s ∧
    spmPasses s { atomForm (.v 4#6) (.v 2#6) .add true with data := none } false (.v 2#6) 4 (fun l => (s.offsetOf (.v 2#6) l).p)
      (s.atomTok true (.v 4#6) (.v 2#6) .add) := by unfold fifoRoom fifoRooms spmPasses; decide +kernel

theorem witness_ScratchpadStores : (∀ s ∈ [padBase, reproPad], s.issuing = true ∧ fifoRoom s ∧
    spmPasses s { a := some { o := .v 2#6 }, data := some (memGroup (.v 4#6) 4) } false (.v 2#6) 4 (fun l => (s.offsetOf (.v 2#6) l).p)
      (offsetTok s (.v 2#6))) ∧ padBase.wave.repro = false ∧ reproPad.wave.repro = true ∧
    (FMap.get LaneVal.zero [(3, ⟨0x05000000#32, true⟩)] 3).p = true := by unfold fifoRoom fifoRooms spmPasses; decide +kernel

theorem witness_RecordInstructions : dataBase.issuing = true ∧ dataBase.sysTrap (!(Opd.s 8).sgz) [.s 8] = none ∧
    (dataBase.sval (.s 8)).toNat % 32 = 0 ∧
    dataBase.chkTrap (dataBase.blockChk (dataBase.sval (.s 8)).toNat 32 .loadMem) = none ∧
    dataBase.ueTrap (dataBase.blockChk (dataBase.sval (.s 8)).toNat 32 .loadMem).pas = none ∧
    dataBase.sysTrap (!(Opd.s 3).sgz) [] = none ∧
    dataBase.formTrap { a := some { o := .v 2#6 }, xw := .no } false = none := by decide +kernel

/-- A map of 32 rows of 256 bytes from 0 on, with 16 bytes of scales a row from 0x2000 on. -/
def rowMap : BitVec 128 := BitVec.ofNat 128 (2 ^ 127 + 16 * 2 ^ 96 + 0x2000 * 2 ^ 64 + 256 * 2 ^ 32)
def matrixBase : State :=
  onWg (withPage (onWave fun w => { w with regs := { w.regs with m := (w.regs.m.set! 0 rowMap).set! 1 rowMap } })) fun g =>
    { g with kern := { g.kern with scratch := 0x3000, acct := 4, con := 3#3 }, pages := [0, 1, 2] }
def pairRegs : State := onRegs fun r => 
  let x : ScalVal := ⟨BitVec.ofNat 64 (256 * 2 ^ 32), false⟩
  let y : ScalVal := ⟨BitVec.ofNat 64 (2 ^ 63 + 16 * 2 ^ 32 + 0x2000), false⟩
  { r with s := (r.s.set! 10 x).set! 11 y }

theorem witness_MatrixCommands : (matrixBase.issuing = true ∧ matrixBase.iss.pfx = none ∧ 1 ≤ matrixBase.wg.kern.con.toNat ∧ matrixBase.wg.kern.con.toNat ≤ 5 ∧
      (0 : BitVec 5).toNat < matrixBase.wg.kern.acct ∧
      MapFits (matrixBase.wave.regs.m[0]) (matRowBytes matrixBase.wg.kern.con.toNat false).1 (matRowBytes matrixBase.wg.kern.con.toNat false).2 matrixBase.spmLimit ∧
      MapFits (matrixBase.wave.regs.m[1]) (matRowBytes matrixBase.wg.kern.con.toNat true).1 (matRowBytes matrixBase.wg.kern.con.toNat true).2 matrixBase.spmLimit ∧
      named matrixBase 5#6 = [] ∧ matrixBase.mmaQueued matrixBase.wg.die matrixBase.wg.core < 16) ∧
    (base.iss.pfx = none ∧ base.wave.mwait = none ∧ named base 5#6 = [] ∧ (onWave fun w => { w with mwait := some [] }).wave.mwait = some []) ∧
    (matrixBase.formTrap { xw := .no } (!(Opd.s 3).sz) = none ∧ (3 : BitVec 5).toNat < matrixBase.wg.kern.acct ∧ matrixBase.wave.id.repro = false ∧ tileIdle matrixBase 3) ∧
    (pairRegs.issuing = true ∧ pairRegs.iss.pfx = none ∧ ((10 : Fin 48).val % 2 = 0) ∧
      let x := pairRegs.wave.regs.s[10]?.getD ScalVal.zero
      let y := pairRegs.wave.regs.s[11]?.getD ScalVal.zero
      x.p = false ∧ y.p = false ∧ y.bits.toNat / 2 ^ 63 * 2 ^ 127 + y.bits.toNat / 2 ^ 32 % 2 ^ 16 * 2 ^ 96 + y.bits.toNat % 2 ^ 19 * 2 ^ 64 +
        x.bits.toNat / 2 ^ 32 % 2 ^ 16 * 2 ^ 32 + x.bits.toNat % 2 ^ 19 = y.bits.toNat * 2 ^ 64 + x.bits.toNat) := by
  unfold MapFits tileIdle; decide +kernel

theorem witness_AccumulatorInstructions : (matrixBase.issuing = true ∧ matrixBase.iss.pfx = none ∧ (3 : BitVec 5).toNat < matrixBase.wg.kern.acct ∧
      tileIdle matrixBase 3 ∧ matrixBase.wave.repro = false) ∧
    matrixBase.formTrap { a := some { o := .v 10#6 } } (!(Opd.v 10#6).isVec) = none ∧
    matrixBase.formTrap { dst := some { o := .v 10#6 } } (!isVecReg (.v 10#6)) = none := by unfold tileIdle; decide +kernel

/-- For AST: a record over the first 4096 bytes of cluster scratch, which the context owns. -/
def scratchRec : BufRec := BitVec.ofNat 256 (0x1000 * 2 ^ 64 + 2 ^ 118 + 4 * 2 ^ 128)
def astBase : State :=
  let s := onWg (onRegs fun r => { r with b := r.b.set! 1 scratchRec }) fun g => { g with kern := { g.kern with acct := 4 } }
  { s with caches := { s.caches with csctl := [(0, ⟨1#4, 1#10, 1, 1, false, false⟩)] } }

theorem witness_AccumulatorStore : astBase.issuing = true ∧ astBase.formTrap { xw := .no } (!(Opd.s 6).sgz || recBad (astBase.brec 1#4)) = none ∧
    (astBase.readScal (astBase.ref (.s 6))).p = false ∧ (astBase.sval (.s 6)).toNat = 0 ∧
    (∀ i < 32, ∀ j < 32, passed (astBase.checkLane (astBase.brec 1#4) (recAddr (astBase.brec 1#4) (0 + (32 * i + j))) 4 4 .storeMem) = true ∧
      ∀ y ∈ tilesSeen astBase 3, (elem y i j).p = false) ∧ (3 : BitVec 5).toNat < astBase.wg.kern.acct ∧
    fifoRooms astBase 32 := by
  unfold fifoRooms; decide +kernel


/-- A block of bytes at the address in s8: fields as offset, bytes and value. -/
def withBlock (s : State) (fs : List (Nat × Nat × Nat)) : State := s.memWrite (fs.flatMap fun f => bytePairs (0x200100 + f.1) f.2.1 f.2.2)
def copyBlock : List (Nat × Nat × Nat) := [(0, 4, 0x00800101), (4, 4, 0x2000), (8, 8, 0x20000), (16, 8, 0x30000), (40, 4, 16)]
def leaseBlock : List (Nat × Nat × Nat) := [(0, 4, 0x00200103), (8, 4, 1), (12, 4, 7000), (16, 4, 1000)]
def collBlock : List (Nat × Nat × Nat) := [(0, 4, 0x00400102), (4, 4, 0x10), (24, 8, 4), (32, 8, 0x40000)]
def tableBlock : List (Nat × Nat × Nat) := [(0, 4, 0x00200104), (8, 4, 3), (16, 8, 0x50000)]
def packetBlock : List (Nat × Nat × Nat) := [(0, 4, 0x0000014C), (8, 4, 1)]
def queued (s : State) : State := { s with hub := { s.hub with lqcfg := [(1, 0x2001#64)], semcfg := [(5, 0x401#64)], csemcfg := [(7, 0x401#64)] } }

/-- Does a state meet the hypotheses of a submission? -/
def submits (i : Instr) (s : State) : Bool := (submission s i).any fun o =>
  let r := s.blockTouch (s.sval o.a).toNat o.chk
  s.issuing && (s.submitTrap o.a o.chk o.scope o.bad).isNone && r.engineRoom r.wave.id.cluster o.cmd &&
    (o.scope != 5 || (r.release s.iss.cur 5).unacked s.iss.cur == 0)

theorem witness_EngineSubmissions : (queued (withBlock dataBase copyBlock)).wave.repro = false ∧ (queued (withBlock reproData copyBlock)).wave.repro = true ∧
    ∀ b ∈ [dataBase, reproData], submits (.tcopy false (.s 8)) (queued (withBlock b copyBlock)) = true ∧
      submits (.ecmd false (.s 8)) (queued (withBlock b leaseBlock)) = true ∧ submits (.ecmd false (.s 8)) (queued (withBlock b collBlock)) = true ∧
      submits (.ecmd false (.s 8)) (queued (withBlock b tableBlock)) = true ∧ submits (.launch false (.s 8)) (queued (withBlock b packetBlock)) = true := by
  decide +kernel

/-- Selectors: device semaphore 5 in s9, cluster semaphore 7 in s10. -/
def selRegs (w : Wave) : Wave := { w with regs := { w.regs with s := (w.regs.s.set! 9 ⟨0x405#64, false⟩).set! 10 ⟨7#64, false⟩ } }
def semBase : State := queued (onWave selRegs)
def reproSem : State := queued (onWave fun w => selRegs { w with id := { w.id with repro := true } })

theorem witness_Semaphores : (∀ a ∈ [Opd.s 9, .s 10], ∀ s ∈ [semBase, reproSem], s.issuing = true ∧
      s.semTrap (!(Opd.s 3).sgz || !a.sg || !Opd.zero.sgz) [a, .zero] (s.selOf a) = none ∧
      s.semTrap (!a.sg || !(Opd.s 4).sg) [a, .s 4] (s.selOf a) = none ∧ s.semTrap (!(Opd.s 3).sgz || !a.sg) [a] (s.selOf a) = none ∧
      (s.sval (.s 4)).toNat % 2 ^ 32 ≤ (s.semCount ((s.sval a).getLsbD 10) s.wave.id.cluster ((s.sval a).toNat % 1024)).toNat) ∧
    semBase.wave.repro = false ∧ reproSem.wave.repro = true := by decide +kernel

theorem witness_Fences : ∀ s ∈ [base, reproBase], s.issuing = true ∧ s.iss.pfx = none ∧ s.wave.remoteFail = none ∧ s.wave.pend = [] ∧
    (s.settle.release s.iss.cur 5).unacked s.iss.cur = 0 ∧
    (1 : BitVec 3).toNat = 1 ∧ (5 : BitVec 3).toNat = 5 := by decide +kernel

/-- A second live wave in the workgroup, and a cluster launch. -/
def twoWaves : State := base.setWaveAt (bootWave + 1) { bootWaveVal with id := { bootWaveId with index := 1#5 } }
def clustered : State := onWave fun w => { w with id := { w.id with clustered := true } }

theorem witness_Barriers : (∀ i ∈ [Instr.bar false (.s 3) 2#4, .bar true .zero 15#4, .drain false (.s 3) 1#4],
      ∃ sw d n cl rel acq, barrierOp i = some (sw, d, n, cl, rel, acq) ∧
        (base.release base.iss.cur 4).unacked base.iss.cur = 0 ∧
        (base.issuing = true ∧ base.formTrap { xw := .no } (barrierBad base d n cl) = none ∧ base.wave.repro = false ∧ stillThere (arrivedAt base n cl rel) cl n = false) ∧
        (twoWaves.issuing = true ∧ twoWaves.formTrap { xw := .no } (barrierBad twoWaves d n cl) = none ∧ twoWaves.wave.repro = false ∧
          stillThere (arrivedAt twoWaves n cl rel) cl n = true) ∧
        (reproBase.issuing = true ∧ reproBase.formTrap { xw := .no } (barrierBad reproBase d n cl) = none ∧ reproBase.wave.repro = true)) ∧
    (clustered.issuing = true ∧ clustered.formTrap { xw := .no } (barrierBad clustered (.s 3) 7 true) = none) := by
  refine ⟨?_, by decide +kernel⟩; intro i h; fin_cases h <;> exact ⟨_, _, _, _, _, _, rfl, by decide +kernel⟩

/-- A lock word the wave itself holds, and room in the belay table. -/
def lockWait : Wait := { kind := .lock, key := 0x10100#64, pa := 0x200100, expect := 0#64, dst := .none, registered := false, met := false, clk := 0, sw := false }
def belayBase : State := onCtx dataBase fun c => { c with wquota := 4, oquota := 4 }
def ownLock : State := onCtx (dataBase.memWrite (bytePairs 0x200100 8 (2 ^ 63 + base.wave.id.handle.toNat))) fun c => { c with wquota := 4, oquota := 4 }

theorem witness_WaitsAndCompletion : dataBase.entryFor (lockWait.obj dataBase.asid) = none ∧
    (belayBase.entryFor (lockWait.obj belayBase.asid) = some (0, 0) ∧ belayBase.inlineWalk belayBase.iss.cur (lockWait.obj belayBase.asid) = none) ∧
    (ownLock.entryFor (lockWait.obj ownLock.asid) = some (0, 0) ∧ (ownLock.inlineWalk ownLock.iss.cur (lockWait.obj ownLock.asid)).isSome = true) := by
  decide +kernel

theorem witness_Locks : (∀ s ∈ [dataBase, ownLock], s.issuing = true ∧ s.lockTrap (.s 3) (.s 8) = none ∧ s.wave.repro = false) ∧
    (lockAt dataBase dataBase (.s 8)).home64 (wordPa dataBase (.s 8)) = 0 ∧
    (∀ p ∈ [(dataBase, true), (ownLock, false)], let u := lockAt p.1 (p.1.setWave (noRight p.1.wave)) (.s 8)
      decide (u.home64 (wordPa p.1 (.s 8)) = 0) = p.2 ∧ decide (u.lockView (wordPa p.1 (.s 8)) = lockWord p.1) = !p.2) := by decide +kernel

def declared : State := withPage (onWave fun w => dataWave { w with wreg := some ⟨0x10100#64, 0x200100, 0#64⟩ })

theorem witness_ValueWaits : (dataBase.issuing = true ∧ dataBase.wordTrapOf (!(Opd.s 8).sg || !(Opd.s 1).sgz) [.s 8, .s 1] (.s 8)
      (!(dataBase.readScal (dataBase.ref (.s 1))).p && decide (2 ^ 48 ≤ (dataBase.readScal (dataBase.ref (.s 1))).bits.toNat)) false
      (dataBase.xlatRange (dataBase.sval (.s 8)).toNat 8 .loadMem) = none) ∧
    (declared.issuing = true ∧ declared.wave.wreg = some ⟨0x10100#64, 0x200100, 0#64⟩ ∧ declared.waitvTrap (.s 3) (.s 8) = none ∧
      declared.wave.repro = false ∧ (waitvAt declared ⟨0x10100#64, 0x200100, 0#64⟩).home64 declared.declChk.head ≠ (declared.sval (.s 8)).toNat) ∧
    (base.issuing = true ∧ base.iss.pfx = none) ∧ base.formTrap { xw := .no } (!(Opd.s 3).sgz) = none := by decide +kernel

theorem witness_PowerInstructions : (∀ s ∈ [base, reproBase], s.issuing = true ∧ s.formTrap { xw := .no } (!(Opd.s 5).isS) = none ∧
      (s.readScal (s.ref (.s 5))).p = false ∧ (s.sval (.s 5)).toNat < 8) ∧ base.wave.repro = false ∧ reproBase.wave.repro = true ∧
    base.formTrap { xw := .no } (!(Opd.s 3).isS || !(Opd.s 4).isS || !(Opd.s 5).isS) = none ∧ (base.sval (.s 5)).toNat < 4 := by decide +kernel

def readyBook : Codebook := ⟨true, true, 3, 1, [], [], []⟩
/-- At master cycle 100, when bank 0's refresh window is over. -/
def bookBase : State :=
  { (onWg (onWave fun w => { w with cb := Vector.replicate 4 readyBook }) fun g => { g with kern := { g.kern with ws := true } }) with cyc := 100 }
/-- CBSET's control word in s6 (slot 1, 3-bit indices, 16-bit elements), or a token there or in s2. -/
def cbCtl (poisonC poisonO : Bool) : State := withPage (onWave fun w =>
  let w := dataWave w
  { w with regs := { w.regs with s := (w.regs.s.set! 6 ⟨0x4D#64, poisonC⟩).set! 2 ⟨0#64, poisonO⟩ } })

theorem witness_WeightInstructions : (bookBase.issuing = true ∧ readyBook = bookBase.wave.cb[(3 : BitVec 4).toNat]?.getD Codebook.empty ∧
      bookBase.formTrap { a := some { o := .s 4 }, dst := some { o := .v 8#6 } } (!(Opd.v 8#6).isVec || !(Opd.s 4).sz || decide (3 < (3 : BitVec 4).toNat) ||
        !bookBase.wg.kern.ws || !readyBook.valid) = none ∧ readyBook.ready = true ∧ bookBase.wldRefresh readyBook (.s 4) = false) ∧
    (∀ p ∈ [(false, false), (false, true), (true, false)], (cbCtl p.1 p.2).issuing = true ∧
      (cbCtl p.1 p.2).formTrap { xw := .no } (!(Opd.s 6).isS || !(Opd.s 2).sz || (0#3 != 0#3 && 0#3 != 6#3) || recBad ((cbCtl p.1 p.2).brec 1#4)) = none ∧
      (cbCtl p.1 p.2).readScal ((cbCtl p.1 p.2).ref (.s 6)) = ⟨0x4D#64, p.1⟩ ∧ ((cbCtl p.1 p.2).readScal ((cbCtl p.1 p.2).ref (.s 2))).p = p.2) ∧
    (0x4D < 512 ∧ 1 ≤ 0x4D / 4 % 16 ∧ 0x4D / 4 % 16 ≤ 8 ∧ 0x4D / 64 % 8 ≤ 4) ∧
    (match (cbCtl false false).cbCheck ((cbCtl false false).brec 1#4) (recAddr ((cbCtl false false).brec 1#4) 0) (2 ^ 3) 2 with
      | .bad _ _ => false
      | _ => true) = true ∧
    (bookBase.wave.cb[0] = readyBook ∧ bookBase.formTrap { xw := .no } ((1 : BitVec 3) == 0#3 || !(Opd.s 4).sz || !bookBase.wg.kern.ws || !readyBook.valid) = none) ∧
    (base.sysTrap (!(Opd.s 3).sz || !(Opd.s 8).sg) [.s 8] = none ∧ base.wave.repro = false ∧ (base.sval (.s 8)).toNat ≤ base.now) := by decide +kernel

/-- Branches: p2 holds in the lower 16 lanes; with a second slot that waits at its JOIN or runs; with a divergence stack. -/
def half : PredVal := ⟨0xFFFF#64, 0#64⟩
def split (other : Option PcSlot) (w : Wave) : Wave :=
  let p : Pcs := { w.pcs with slot1 := other, stackBase := 0x300000 }
  { w with regs := { w.regs with p := w.regs.p.set! 2 half, s := w.regs.s.set! 20 ⟨0x10020#64, false⟩ }, pcs := p }
def otherPath (waiting : Bool) : PcSlot := ⟨0x10000#64, 0xFFFF00000000#64, 7, waiting⟩
def bootSlot : PcSlot := bootWaveVal.pcs.slot0.getD ⟨0#64, 0#64, 0, false⟩

theorem witness_Branches : (∀ s ∈ [onWave (split none), onWave (split (some (otherPath false)))], s.wave.pcs.slot s.iss.slot = some bootSlot ∧
      s.iss.pfx = none ∧ (∀ l < 64, bootSlot.mask.getLsbD l = true → (s.readPred 2).poi.getLsbD l = false) ∧
      takenLanes s 1#3 false bootSlot.mask = 0#64 ∧ takenLanes s 0#3 true bootSlot.mask = 0#64 ∧
      (takenLanes s 0#3 false bootSlot.mask ≠ 0#64 ∧ takenLanes s 2#3 false bootSlot.mask ≠ 0#64 ∧ takenLanes s 2#3 true bootSlot.mask ≠ 0#64) ∧
      s.wave.pcs.depth < s.wg.kern.divdepth ∧ s.jumpTrap (.s 20) = none ∧ s.jumpTrap (.s 46) = none) ∧
    (onWave (split none)).wave.pcs.slot true = none ∧ (onWave (split (some (otherPath false)))).wave.pcs.slot true = some (otherPath false) := by
  decide +kernel

theorem witness_JoinAndExit : (∀ o ∈ [none, some (otherPath false), some (otherPath true)], (onWave (split o)).wave.pcs.slot (onWave (split o)).iss.slot = some bootSlot ∧
      (onWave (split o)).iss.pfx = none ∧ (onWave (split o)).wave.pcs.slot true = o ∧ (onWave (split o)).wave.env.hm = false ∧
      (onWave (split o)).wave.repro = false ∧ (onWave (split o)).wave.pcs.depth = 0 ∧ (onWave (split o)).wave.st ≠ .exited) ∧
    (otherPath true).pc = bootSlot.pc ∧ reproBase.wave.pcs.slot reproBase.iss.slot = some bootSlot ∧ reproBase.wave.repro = true := by decide +kernel

/-- A context with a handler for every cause. -/
def directs (s : State) : State := onCtx s fun c => { c with haddr := 0x10800#64, hvec := 0xFFFFFFFF#32 }

theorem witness_TrapsAndReturns : (∀ s ∈ [directs base, directs reproBase], s.wave.pcs.slot s.iss.slot = some bootSlot ∧ s.wave.pend = [] ∧
      s.wave.fifo.any Eff.returns = false ∧ s.ctx.haddr ≠ 0#64 ∧ s.ctx.hvec.getLsbD Cause.trap.code = true ∧ s.wave.env.hm = false) ∧
    (directs base).wave.id.repro = false ∧ (directs reproBase).wave.id.repro = true ∧
    (base.wave.pcs.slot base.iss.slot = some bootSlot ∧ base.wave.pend = [] ∧ base.ctx.haddr = 0#64) ∧
    (handlerBase.issuing = true ∧ handlerBase.iss.pfx = none ∧ handlerBase.wave.env.hm = true ∧ handlerBase.wave.env.epc.toNat % 4 = 0 ∧
      handlerBase.wave.pcs.slot handlerBase.wave.env.hsaveSlot = some bootSlot) ∧ (base.issuing = true ∧ base.wave.env.hm = false) := by decide +kernel

/-- A wave whose fault semaphore is the context's own, and one whose is not, each also under a pre-emption request. -/
def signalled (st : WaveSt) (owned : Bool) : State :=
  let s := onCtx (onWave fun w => { w with st := st }) fun c => { c with fsem := 5, recBase := 0x10000, recSlots := 4 }
  if owned then { s with hub := { s.hub with semcfg := [(5, 0x401#64)] } } else s

theorem witness_TrapsAndReturns_park : (∀ x ∈ [(WaveSt.ready, true), (.ready, false), (.preempting, true), (.preempting, false)],
      let s := signalled x.1 x.2
      s.wave.pcs.slot s.iss.slot = some bootSlot ∧ quiet s ∧ Cause.trap ≠ .mchk ∧ s.ctx.haddr = 0#64 ∧ (s.wave.st = .preempting ↔ x.1 = .preempting) ∧
        (ownsSem s s.ctx.fsem ↔ x.2 = true)) ∧
    (∀ t, ¬ directed (signalled .ready true) t) := by
  refine ⟨by unfold quiet ownsSem; decide +kernel, fun t h => ?_⟩
  exact h.1 (by decide +kernel)

/-- SETSR: 1, 2 and 63 in s1, s2, s3; a launch of priority 2; a value of SHED with BASE 2 in s4. -/
def srBase : State :=
  let s := onRegs fun r => { r with s := ((r.s.set! 1 ⟨1#64, false⟩).set! 2 ⟨2#64, false⟩).set! 4 ⟨0x12#64, false⟩ }
  s.setLaunchAt (launchKeyOf bootAsid 0) { Launch.blank with kern := bootKernel, nextWg := 1, prio := 2#3 }

theorem witness_SpecialRegisters : (∀ i ∈ [0x00, 0x04, 0x07, 0x0C, 0x25], srBase.issuing = true ∧
      srBase.formTrap { xw := .no } (!(Opd.s 3).sgz || decide (0x26 ≤ i)) = none) ∧
    (handlerBase.formTrap { xw := .no } (!(Opd.s 3).sgz || decide (0x26 ≤ 0x0B)) = none ∧ handlerBase.wave.env.hm = true) ∧
    (srBase.wave.pend = [] ∧ srBase.wave.fifo.any Eff.returns = false) ∧
    (srBase.sysTrap (!(Opd.s 1).sgz) [.s 1] = none ∧ srBase.sval (.s 1) = 1#64 ∧ srBase.sval (.s 2) = 2#64 ∧
      (∀ i ∈ [0x04, 0x05, 0x06, 0x08, 0x09, 0x0A, 0x0B], (regWritten srBase.wave i 1#64).isSome = true)) ∧
    (srBase.sysTrap (!(Opd.s 4).sgz) [.s 4] = none ∧ (srBase.sval (.s 4)).toNat / 8 % 8 ≤ (srBase.launchAt srBase.wave.id.launchKey).prio.toNat) ∧
    (∀ i ∈ [0x1C, 0x25], ¬ (0x08 ≤ i ∧ i ≤ 0x0B) ∧ ¬ (0x04 ≤ i ∧ i ≤ 0x06)) ∧
    (base.issuing = true ∧ base.wave.env.hm = false) := by decide +kernel

/-- A handler with 4096 in s1; tickets 1 to 3 issued, of which 2 are acknowledged; a wave that has parked on a fault under index 1. -/
def ticketed : State :=
  let s := onWave fun w => { w with env := { w.env with hm := true }, regs := { w.regs with s := ((w.regs.s.set! 1 ⟨4096#64, false⟩).set! 2 ⟨2#64, false⟩).set! 4 ⟨1#64, false⟩ } }
  let s := s.setWaveAt (bootWave + 1) { bootWaveVal with id := { bootWaveId with index := 1#5 }, st := .parkedFault }
  { s with tlbs := { s.tlbs with tickets := [(bootAsid, ⟨3, 2, [⟨3, 0, 4096, false⟩]⟩)] } }

theorem witness_SystemInstructions : (ticketed.issuing = true ∧ ticketed.wave.env.hm = true ∧
      ticketed.sysTrap (!(Opd.s 3).sz || !(Opd.s 1).isS || !(Opd.s 1).isS) [.s 1, .s 1] = none ∧ (ticketed.sval (.s 1)).toNat = 4096 ∧
      (ticketed.tlbs.tickets.get ⟨0, 0, []⟩ ticketed.asid).open_.length < 16) ∧
    (ticketed.sysTrap (!(Opd.s 3).sz || !(Opd.s 1).isS || !(Opd.s 5).isS) [.s 1, .s 5] = none ∧ (ticketed.sval (.s 5)).toNat < 8 ∧
      (match ticketed.findRange ((ticketed.sval (.s 1)).toNat / 4096 * 4096) 6 ticketed.ctx.root none with
        | .error .miss => true
        | _ => false) = true) ∧
    (ticketed.sysTrap (!(Opd.s 3).sz || !(Opd.s 2).isS) [.s 2] = none ∧ (ticketed.tlbs.tickets.get ⟨0, 0, []⟩ ticketed.asid).issued < (ticketed.sval (.s 1)).toNat ∧
      (ticketed.sval (.s 2)).toNat ≤ (ticketed.tlbs.tickets.get ⟨0, 0, []⟩ ticketed.asid).acked) ∧
    (ticketed.resolve ticketed.asid 77#64 = none ∧ ticketed.resolve ticketed.asid 0#64 = some bootWave ∧ (ticketed.waveAt bootWave).st ≠ .parkedFault ∧
      ticketed.resolve ticketed.asid 1#64 = some (bootWave + 1) ∧ (ticketed.waveAt (bootWave + 1)).st = .parkedFault ∧ ticketed.wave.st ≠ .parkedFault) ∧
    (base.issuing = true ∧ base.wave.env.hm = false) ∧
    (base.sysTrap (!(Opd.s 3).sz || !(Opd.s 6).isS || !(Opd.s 7).isS) [.s 6, .s 7] = none ∧ (base.lockDecision 0 0).1 = 3 ∧ (base.lockDecision bootVa 128).1 = 0) := by
  decide +kernel

/-- A second range entry, of 4 KiB pages, whose leaf table at 0x800000 begins with `leaf`; a pool of two frames, of which some are in use; the
page's address in s1. -/
def paged (va leaf : Nat) (used : List Nat) : State :=
  let s := onCtx (onWave fun w => { w with env := { w.env with hm := true }, regs := { w.regs with s := w.regs.s.set! 1 ⟨BitVec.ofNat 64 va, false⟩ } })
    fun c => { c with poolBase := 0x700000, poolSize := 0x2000, poolUsed := used }
  s.memWrite ([(bootNode + 2, 2#8)] ++ bytePairs (bootNode + 0x40) 8 0x20000 ++ bytePairs (bootNode + 0x48) 8 0x22000 ++
    bytePairs (bootNode + 0x50) 8 0x800000 ++ bytePairs (bootNode + 0x58) 8 0x17 ++ bytePairs 0x800000 8 leaf)

def pagedEnt : RangeEnt := ⟨0x20000, 0x22000, 0x800000, 0x17⟩

theorem witness_SystemInstructions_mapr : (∀ x ∈ [(0, []), (0, [0x700, 0x701]), (1, [])], let s := paged 0x20000 x.1 x.2
      s.issuing = true ∧ s.wave.env.hm = true ∧ s.sysTrap (!(Opd.s 3).sz || !(Opd.s 1).isS || !(Opd.s 5).isS) [.s 1, .s 5] = none ∧
      (s.sval (.s 1)).toNat = 0x20000 ∧ (s.sval (.s 5)).toNat = 0 ∧ (s.findRange 0x20000 6 s.ctx.root none).toOption = some pagedEnt ∧
      pagedEnt.kind = 1 ∧ s.ueIn (pagedEnt.leafAddr 0x20000) 8 = none ∧ (s.home64 (pagedEnt.leafAddr 0x20000)).testBit 0 = decide (x.1 = 1)) ∧
    (let s := paged 0x10000 0 []; ((s.findRange 0x10000 6 s.ctx.root none).toOption.map (·.kind)) = some 0) := by decide +kernel

theorem witness_SystemInstructions_frames : (freeFrame (paged 0x20000 0 []).ctx 4096 0x700000 ∧
      ∀ g, freeFrame (paged 0x20000 0 []).ctx 4096 g → 0x700000 ≤ g) ∧ ∀ f, ¬ freeFrame (paged 0x20000 0 [0x700, 0x701]).ctx 4096 f := by
  have h : ∀ used ∈ [[], [0x700, 0x701]], (paged 0x20000 0 used).ctx.poolBase = 0x700000 ∧ (paged 0x20000 0 used).ctx.poolSize = 0x2000 ∧
    (paged 0x20000 0 used).ctx.poolUsed = used := by decide +kernel
  obtain ⟨hb, hs, hu⟩ := h [] (by simp)
  obtain ⟨gb, gs, gu⟩ := h [0x700, 0x701] (by simp)
  refine ⟨⟨⟨⟨0, by omega, by omega⟩, by simp [hu]⟩, ?_⟩, ?_⟩
  · rintro g ⟨⟨i, -, rfl⟩, -⟩; omega
  · rintro f ⟨⟨i, hi, rfl⟩, hf⟩
    rw [gu] at hf
    have h0 := hf 0x700 (by simp)
    have h1 := hf 0x701 (by simp)
    rw [gs] at hi; rw [gb] at h0 h1
    omega

/-- A shape record of two rows of 128 bytes, 256 apart, from 0x10000 on, at the address in s8; its rules broken by REST; and declared objects
over its second row or none. -/
def shapeBytes (rest : Nat) : List Byte := leBytes 8 0x10000 ++ leBytes 4 128 ++ leBytes 4 2 ++ leBytes 8 256 ++ leBytes 8 rest
def declaring (rest : Nat) (objs : FMap CohObj) : State :=
  let s := dataBase.memWrite (((List.range 32).map (0x200100 + ·)).zip (shapeBytes rest))
  { s with harts := { s.harts with objs := objs } }
def overRow : CohObj := ⟨bootAsid, true, 0x10100, [0x8004], 0, [], 0#16, 0⟩

theorem witness_SystemInstructions_odecl : (∀ o ∈ [[], [(5, overRow)]], let s := declaring 0 o
      s.issuing = true ∧ s.sysTrap (!(Opd.s 3).sz || !(Opd.s 8).sg) [.s 8] = none ∧ (s.sval (.s 8)).toNat = 0x10100 ∧
      s.chkTrap (s.xlatRange 0x10100 32 .load) = none ∧ s.ueTrap (s.xlatRange 0x10100 32 .load).pas = none ∧ s.wave.repro = false ∧
      wellShaped (s.chkBytes (s.xlatRange 0x10100 32 .load)) ∧
      let v := s.blockTouch 0x10100 (s.xlatRange 0x10100 32 .load)
      v.shapePhys v.wg.ext v.wave.id.cluster s.asid (s.chkBytes (s.xlatRange 0x10100 32 .load)) = some [0x8000, 0x8001, 0x8004, 0x8005] ∧
      v.harts.objs = o) ∧
    (¬ wellShaped (shapeBytes 1)) ∧
    (let s := declaring 0 []; s.shapePhys s.wg.ext s.wave.id.cluster s.asid (leBytes 8 0x90000 ++ (shapeBytes 0).drop 8) = none) := by
  unfold wellShaped; decide +kernel

/-- ODECL and OREL at the address in s8, where a declared object stands or none. -/
def objBase : State := { dataBase with harts := { dataBase.harts with objs := [(5, ⟨bootAsid, true, 0x10100, [0x8004], 0, [], 0#16, 0⟩)] } }

theorem witness_SystemInstructions_objects : (∀ s ∈ [dataBase, reproData, objBase], (s.issuing = true ∧ s.sysTrap (!(Opd.s 3).sz || !(Opd.s 8).sg) [.s 8] = none) ∧
    (s.sval (.s 8)).toNat = 0x10100 ∧ s.chkTrap (s.xlatRange 0x10100 32 .load) = none ∧
    s.ueTrap (s.xlatRange 0x10100 32 .load).pas = none ∧ shapeOk (s.chkBytes (s.xlatRange 0x10100 32 .load)) = false ∧ s.asid = bootAsid) ∧
    0x10100 % 32 = 0 ∧ dataBase.wave.repro = false ∧ reproData.wave.repro = true ∧ dataBase.harts.objs = [] ∧
    (objBase.harts.objs.find? fun e => e.2.asid == bootAsid && e.2.declared && e.2.base == 0x10100) =
      some (5, ⟨bootAsid, true, 0x10100, [0x8004], 0, [], 0#16, 0⟩) := by decide +kernel

theorem witness_HintsAndBases : (base.issuing = true ∧ base.iss.pfx = none ∧ (0 : BitVec 3).toNat < 7 ∧ (0 : BitVec 3).toNat + 2 ≤ base.wg.kern.seg) ∧
    (base.wave.repro = false ∧ reproBase.issuing = true ∧ reproBase.iss.pfx = none ∧ reproBase.wave.repro = true ∧ reproBase.wave.env.hm = false ∧
      reproBase.wave.ended = false) ∧
    padBase.formTrap { xw := .no } (padBase.hintBad 3#8 1#3 (.s 5)) = none ∧
    padBase.formTrap { xw := .no } (!padBase.wg.kern.idm || padBase.hintBad 3#8 0#3 (.v 0#6)) = none ∧
    (base.issuing = true ∧ base.iss.pfx = none ∧ (prefixed guardXw base).iss.pfx = some guardXw) := by decide +kernel

theorem witness_ArithmeticLaws : (∃ x y : Fp, x.isNan = true ∨ y.isNan = true) ∧ (0 : Nat) < 1 ∧ (Fp.inf false).isNan = false ∧
    (fp16 = fp32 ∨ fp16 = fp16 ∨ fp16 = bf16) ∧ (fsrc fp32 (envOf .rne false) 0x7FC00000).isNan = true ∧
    (0 < 8 ∧ -(2 ^ (8 - 1)) ≤ (-128 : Int) ∧ (-128 : Int) < 2 ^ (8 - 1)) ∧ (∃ x ∈ [0x7F800000], finiteF32 x = false) ∧
    (mxI4 = mxInt8 ∨ mxI4 = mxI4) ∧ (-(2 ^ (mxI4.width - 1)) ≤ (-8 : Int) ∧ (-8 : Int) < 2 ^ (mxI4.width - 1)) ∧ 253 < 254 ∧
    (3 ∈ (terq [0xBF800000, 0x3F800000]).2.1) ∧ (envOf .rne false).daz = false :=
  ⟨⟨.nan true, .inf false, by decide⟩, by decide +kernel⟩

/-- A wave whose oldest FIFO entry is an atomic of three lanes, two on one word and one out of bounds, and its result. -/
def atomLanes : List AtomLane := [⟨0, some 0x200F00, 5#32, 0#32, false⟩, ⟨1, some 0x200F00, 7#32, 0#32, false⟩, ⟨63, none, 1#32, 0#32, false⟩]
def performing (cs : Bool) (dst : Dest) (lanes : List AtomLane) : State :=
  onWave fun w => { w with fifo := [.atom cs .add .dev lanes 0x10000#64 dst []] }

theorem witness_AtomicPerformance : (∀ cs ∈ [false, true], ∀ x ∈ [(Dest.none, atomLanes), (.vec 4, atomLanes), (.scal 4, atomLanes.take 1)],
      let s := performing cs x.1 x.2
      leavesNext s.tick (s.waveAt bootWave).fifo = some (.atom cs .add .dev x.2 0x10000#64 x.1 [], []) ∧ (s.waveAt bootWave).repro = false ∧
      (x.2.map (·.lane)).Nodup ∧ (∀ l ∈ x.2, l.lane < 64) ∧ (s.caches.l1 = [] ∧ s.caches.wcb = [] ∧ s.caches.l2 = [] ∧ s.harts.lines = [])) ∧
    (∀ l ∈ atomLanes, ∀ a, l.loc = some a → a % 4 = 0 ∧ a < 2 ^ 51 ∧ (performing false .none atomLanes).ueAt a = false) := by
  refine ⟨by decide +kernel, fun l hl a ha => ?_⟩
  have h : (performing false .none atomLanes).ueAt 0x200F00 = false := by decide +kernel
  fin_cases hl <;> simp at ha <;> subst ha <;> exact ⟨rfl, by norm_num, h⟩

/-- The semaphores of the selectors with a count less than the B in s11. -/
def semWanting (s : State) : State := s.modWaveAt bootWave fun w => { w with regs := { w.regs with s := w.regs.s.set! 11 ⟨2#64, false⟩ } }

theorem witness_Semaphores_wait : ∀ a ∈ [Opd.s 9, .s 10], ∀ s ∈ [semWanting semBase, semWanting reproSem], s.issuing = true ∧
    s.semTrap (!(Opd.s 3).sgz || !a.sg || !(Opd.s 11).sgz) [a, .s 11] (s.selOf a) = none ∧
    (s.semCount ((s.sval a).getLsbD 10) s.wave.id.cluster ((s.sval a).toNat % 1024)).toNat < (s.sval (.s 11)).toNat % 2 ^ 32 := by decide +kernel

theorem witness_Waits_walk : (asWaiting belayBase lockWait).inlineWalk belayBase.iss.cur (lockWait.obj belayBase.asid) = none ∧
    ((asWaiting ownLock lockWait).inlineWalk ownLock.iss.cur (lockWait.obj ownLock.asid)).isSome = true ∧
    ownLock.wave.pcs.slot ownLock.iss.slot = some { bootSlot with mask := 3#64 } ∧ ownLock.wave.pend = [] ∧
    ownLock.wave.fifo.any Eff.returns = false ∧ ownLock.wave.id.repro = false ∧ ownLock.wave.wait = none := by decide +kernel

/-- The wave's own lock word, for which two more waves wait, registered; the second has the higher priority. -/
def lockWaiter (eff : BitVec 3) (index : BitVec 5) : Wave :=
  { bootWaveVal with id := { bootWaveId with index := index }, st := .waitReg, wait := some { lockWait with registered := true },
                     env := { bootWaveVal.env with eff := eff } }
def lockEnt (waiter stamp : Nat) : WaitEnt := ⟨.lock, bootAsid, 0, waiter, stamp⟩
def lockQueue : State :=
  let s := (ownLock.setWaveAt (bootWave + 1) (lockWaiter 1#3 1#5)).setWaveAt (bootWave + 2) (lockWaiter 2#3 2#5)
  { s with belay := { s.belay with waits := [(0, lockEnt (bootWave + 1) 1), (1, lockEnt (bootWave + 2) 2)],
                                   objs := [(0, ⟨.lock, bootAsid, 0x10100#64, 0x200100, none, false, true⟩)] } }

theorem witness_Locks_unlock : (∀ s ∈ [ownLock, lockQueue], s.issuing = true ∧ s.lockTrap (.s 3) (.s 8) = none ∧ s.wave.repro = false ∧
      let u := lockAt s (s.setWave (noRight s.wave)) (.s 8)
      let g := (u.release s.iss.cur 4).homeTouch (wordPa s (.s 8))
      u.lockView (wordPa s (.s 8)) = lockWord s ∧ wordPa s (.s 8) = 0x200100 ∧ g.home64 0x200100 = lockWord s ∧ g.belay.waits = s.belay.waits ∧
      ∀ k ∈ [bootWave + 1, bootWave + 2], (g.waves.find k).map noWait = (s.waves.find k).map noWait ∧
        (g.waves.find k).bind (·.wait) = (s.waves.find k).bind (·.wait)) ∧
    ownLock.belay.waits = [] ∧
    waitsForLock lockQueue 0x200100 (lockEnt (bootWave + 2) 2) ∧
    (∀ f ∈ lockQueue.belay.waits, f.2 ≠ lockEnt (bootWave + 2) 2 → lockBefore lockQueue (lockEnt (bootWave + 2) 2) f.2) := by
  refine ⟨by decide +kernel, by decide +kernel, ⟨rfl, by decide +kernel, _, rfl, rfl, rfl⟩, ?_⟩
  unfold lockBefore; decide +kernel

def reproLock (own : Bool) : State :=
  onCtx (reproData.memWrite (if own then bytePairs 0x200100 8 (2 ^ 63 + base.wave.id.handle.toNat) else [])) fun c => { c with wquota := 4, oquota := 4 }

theorem witness_Locks_waits : (ownLock.issuing = true ∧ ownLock.lockTrap (.s 3) (.s 8) = none ∧
      (lockAt ownLock ownLock (.s 8)).home64 (wordPa ownLock (.s 8)) ≠ 0) ∧
    ∀ b ∈ [true, false], let s := reproLock b
      s.issuing = true ∧ s.lockTrap (.s 3) (.s 8) = none ∧ s.wave.repro = true ∧
      decide ((lockAt s (s.setWave (noRight s.wave)) (.s 8)).lockView (wordPa s (.s 8)) = lockWord s) = b := by decide +kernel

def reproDeclared : State :=
  withPage (onWave fun w => dataWave { w with id := { w.id with repro := true }, wreg := some ⟨0x10100#64, 0x200100, 0#64⟩ })

theorem witness_ValueWaits_waits : (declared.waitvTrap (.s 3) (.s 1) = none ∧ declared.wave.repro = false ∧
      (waitvAt declared ⟨0x10100#64, 0x200100, 0#64⟩).home64 declared.declChk.head = (declared.sval (.s 1)).toNat) ∧
    (reproDeclared.issuing = true ∧ reproDeclared.wave.wreg = some ⟨0x10100#64, 0x200100, 0#64⟩ ∧ reproDeclared.waitvTrap (.s 3) (.s 8) = none ∧
      reproDeclared.wave.repro = true) := by decide +kernel

/-- TIMEW's time in s4, ahead of the device time. -/
def later (b : State) : State := b.modWaveAt bootWave fun w => { w with regs := { w.regs with s := w.regs.s.set! 4 ⟨1000#64, false⟩ } }

theorem witness_WeightInstructions_time : ∀ s ∈ [later base, later reproBase], s.issuing = true ∧
    s.sysTrap (!(Opd.s 3).sz || !(Opd.s 4).sg) [.s 4] = none ∧ s.sysTrap (!(Opd.s 3).sz || !(Opd.s 8).sg) [.s 8] = none ∧
    s.time < (s.sval (.s 4)).toNat ∧ (s.sval (.s 8)).toNat ≤ s.time ∧ (s.wave.repro = true ↔ s.wave.id.repro = true) := by decide +kernel

/-- PHINT in a wave that a pre-emption waits for, in one whose class has been cut for TFORCE, and in handler mode. -/
def requested : State := onWave fun w => { w with st := .preempting, held := .ready }
def forcedOut : State :=
  let s := onWave fun w => { w with env := { w.env with shedClass := 1#3 } }
  { s with now := 1000000, pw := { s.pw with cut := 2, cutAt := [(1, 100)] } }

theorem witness_HintsAndBases_phint : (∀ s ∈ [requested, forcedOut, handlerBase], s.issuing = true ∧
      s.formTrap { xw := .no } (s.hintBad 3#8 0#3 .zero) = none) ∧
    (requested.wave.env.hm = false ∧ requested.wave.st = .preempting ∧ requested.wave.pre.taken = false ∧ requested.wave.held = .ready) ∧
    (forcedOut.wave.env.hm = false ∧ forcedOut.wave.st = .ready ∧ pastForce forcedOut bootWave) ∧
    handlerBase.wave.env.hm = true ∧ (∀ s ∈ [requested, forcedOut, base], (s.waveAt bootWave).pre.sinceCut = s.wave.pre.sinceCut) := by
  unfold pastForce; decide +kernel

def reproIdem : State := onWg reproBase fun g => { g with kern := { g.kern with idm := true } }

theorem witness_HintsAndBases_idem : reproIdem.issuing = true ∧ reproIdem.wave.id.repro = true ∧
    reproIdem.formTrap { xw := .no } (!reproIdem.wg.kern.idm || reproIdem.hintBad 3#8 0#3 .zero) = none := by decide +kernel


/-! ## The steps of the machine -/

/-- The small machine's wave with one thing about it changed. -/
def pending (ws : List RegVal) : State := onWave fun w => { w with pend := [Pend.plain ws 0xFF#64] }
def storing : State := onWave fun w => { w with fifo := [.store false false false [(0x200F00, 0x5A#8)] []] }
def rowCmd (started : Bool) : MmaCmd := ⟨5#6, [], rowMap, rowMap, 2, true, false, started, bootWave, 0, []⟩
def commanded : State := onWg matrixBase fun g => { g with mma := [rowCmd true] }
def loading : State := onWave fun w => { w with cb := Vector.replicate 4 { readyBook with ready := false } }
def timed : State := onWave fun w =>
  let p : Pcs := { w.pcs with lastIssued := false }
  { w with timew := some (0#64, .scal 3, false), pcs := p }
def waiting (x : Wait) (st : WaveSt) : State := withPage (onWave fun w => { w with wait := some x, st := st })
def valueWait (x : Word64) : Wait := { lockWait with kind := .waitv, expect := x }

theorem witness_WaveSteps : ((∀ ws ∈ [[RegVal.vec 3 (List.replicate 64 LaneVal.zero)], [.scal 47 ScalVal.zero]],
      ((pending ws).waveAt bootWave).pend[0]? = some (Pend.plain ws 0xFF#64)) ∧ (0xF0F#64 : Lanes) &&& 0xFF#64 ≠ 0#64) ∧
    (leavesNext storing.tick (storing.waveAt bootWave).fifo = some (.store false false false [(0x200F00, 0x5A#8)] [], []) ∧
      (storing.waveAt bootWave).repro = false) ∧
    ((commanded.wgAt (wgKeyOf bootAsid 0 0)).mma.find? (fun c => c.cid == 5#6) = some (rowCmd true) ∧
      commanded.mmaReady (wgKeyOf bootAsid 0 0) (rowCmd true) = true ∧ (Contract.ofCode (commanded.wgAt (wgKeyOf bootAsid 0 0)).kern.con.toNat).isSome = true) ∧
    (loading.waves.find bootWave = some (loading.waveAt bootWave) ∧ (loading.waveAt bootWave).cb[3].valid = true ∧ (loading.waveAt bootWave).cb[3].ready = false) ∧
    ((timed.waveAt bootWave).timew = some (0#64, .scal 3, false) ∧ (timed.waveAt bootWave).ended = false ∧ (timed.waveAt bootWave).st = .ready ∧
      (0#64 : Word64).toNat ≤ timed.time ∧ (timed.waveAt bootWave).repro = false ∧ (timed.waveAt bootWave).pcs.slot (timed.waveAt bootWave).pcs.lastIssued = some bootSlot) ∧
    (∀ st ∈ [WaveSt.waitReg, .waitUnreg], ((waiting { lockWait with met := true } st).waveAt bootWave).wait = some { lockWait with met := true } ∧
      ((waiting { lockWait with met := true } st).waveAt bootWave).st = st) ∧
    (((waiting lockWait .waitUnreg).waveAt bootWave).wait = some lockWait ∧ ((waiting lockWait .waitUnreg).waveAt bootWave).repro = false ∧
      (waiting lockWait .waitUnreg).waitWordAt bootWave lockWait = some 0x200100 ∧
      (∀ b ∈ [0, 1], let s := (waiting lockWait .waitUnreg).memWrite [(0x200100, BitVec.ofNat 8 b)]
        ((s.moveWait bootWave 0x200100).homeTouch 0x200100).home64 0x200100 = b)) ∧
    (∀ n ∈ [0, 1], let x := valueWait (BitVec.ofNat 64 n); ((waiting x .waitReg).waveAt bootWave).wait = some x ∧
      (waiting x .waitReg).waitWordAt bootWave x = some 0x200100 ∧
      (((waiting x .waitReg).moveWait bootWave 0x200100).homeTouch 0x200100).home64 0x200100 = 0) ∧
    (∀ x ∈ [lockWait, valueWait 0#64], (waiting { x with key := 0x90000#64 } .waitUnreg).waitWordAt bootWave { x with key := 0x90000#64 } = none) ∧
    ((512 * 0 ≤ base.dieCyc 15 % 8192 ∧ base.dieCyc 15 % 8192 < 512 * 0 + 96) ∧ ¬ (512 * 1 ≤ base.dieCyc 15 % 8192)) ∧
    ((onWave fun w => { w with st := .resident }).waveAt bootWave).st = .resident := by decide +kernel

def copyBytes (ctl dst : Nat) : List Byte := leBytes 4 0x00800101 ++ leBytes 4 ctl ++ leBytes 8 0x10000 ++ leBytes 8 dst ++ zeros 16 ++ leBytes 4 16 ++ zeros 84
def copyOf (b : List Byte) (started finished : Bool) : Copy :=
  { block := b, asid := bootAsid, wg := wgKeyOf bootAsid 0 0, cluster := 0, started := started, arrived := false, die := none, diesLeft := [], admitted := [],
    unit := 0, done := 0, flags := 0#6, status := 0#8, token := 0#32, faultVa := 0#64, finished := finished, commit := none, alt := [], pages := [], mute := false }
def copying (c : Copy) : State := let s := dataBase; { s with eng := { s.eng with copies := [(0, c)], gates := [(0, [.copy 0])] } }
def hubCopy : Copy := copyOf (copyBytes 0x2000 0x10800) false false
def dieCopy : Copy := copyOf (copyBytes 0x22000 (3 * 2 ^ 48)) false false
def packetBytes : List Byte := leBytes 4 0x0000014C ++ zeros 4 ++ leBytes 4 1 ++ zeros 52
def bound : State := let s := queued base; { s with harts := { s.harts with gctx := [(0, 0x8001#64)], bound := [(0, 0x8001#64)] } }
def inQueue : State := { (queued base) with hub := { (queued base).hub with queues := [(1, [(bootAsid, packetBytes)])] } }
def launched (nextWg done : Nat) : State :=
  base.setLaunchAt (launchKeyOf bootAsid 0) { Launch.blank with kern := bootKernel, packet := packetBytes, nextWg := nextWg, done := done }

theorem test_portOpen : bound.portOpen bootAsid 0 = true := by
  unfold State.portOpen State.bindingOf; split <;> decide +kernel

theorem witness_CopyAndLaunchSteps : (∀ c ∈ [hubCopy, dieCopy], (copying c).eng.copies.find? (fun e => e.2.cluster == 0 && !e.2.started &&
        (!(copyDesc e.2.block).nbv || decide ((copyDesc e.2.block).nbtime ≤ (copying c).time))) = some (0, c)) ∧
    ((copyDesc hubCopy.block).dws = false ∧ (copyDesc dieCopy.block).dws = true) ∧
    (let c := copyOf (copyBytes 0x2000 0x10800) true false; (copying c).eng.copies.find 0 = some c ∧ c.started = true ∧ c.finished = false) ∧
    (let c := copyOf (copyBytes 0x2000 0x10800) true true; (copying c).eng.copies.find 0 = some c ∧ c.finished = true ∧ c.commit = none) ∧
    (let c := { dieCopy with started := true, die := some 0 }; (copying c).eng.copies.find 0 = some c ∧ c.finished = false ∧
      ((copyDesc c.block).dstAt c.unit).toNat / 2 ^ 26 = 0 ∧ (copying c).dieCyc 0 % 8192 = 0 ∧ ({ copying c with cyc := 96 } : State).dieCyc 0 % 8192 = 96) ∧
    ((copying dieCopy).eng.gates.get [] 0 = [.copy 0] ∧ (copying dieCopy).wsOn 0 = false) ∧
    ((1 = 1 ∨ 1 = 2) ∧ 0x37 % 64 < 0x38 ∧ 0x38 ≤ 0x38 % 64 ∧ 0x38 + 8 ≤ 8192 ∧ fieldOf packetBytes 0 1 ≠ 4 ∧ bound.packetCheck packetBytes bootAsid = none ∧
      bound.queueFull (pktQueue packetBytes) = false) ∧
    ((base.ctxAt bootAsid).live = true ∧ 1023 < 1024 ∧ 0x50000 ≠ 0 ∧ 0x50000 % 256 = 0) ∧
    (inQueue.chosenQueue = some 1 ∧ inQueue.headOf 1 = some (bootAsid, packetBytes) ∧ inQueue.hub.lastDispatch = none) ∧
    (let s := { inQueue with hub := { inQueue.hub with lastDispatch := some 0 }, now := 20 };
      s.chosenQueue = some 1 ∧ s.hub.lastDispatch = some 0 ∧ 0 + 20 ≤ s.now) ∧
    ((launched 0 0).launches.find (launchOfWg (wgKeyOf bootAsid 0 0)) = some ((launched 0 0).launchAt (launchKeyOf bootAsid 0)) ∧
      ((launched 0 0).launchAt (launchKeyOf bootAsid 0)).waiting = true ∧ (launched 0 0).mayPlace (launchOfWg (wgKeyOf bootAsid 0 0)) = true ∧
      wgKeyOf bootAsid 0 0 % 2 ^ 40 = 0) ∧
    (((launched 1 1).launchAt (launchKeyOf bootAsid 0)).waiting = false ∧ pktNwg packetBytes ≤ 1) := by decide +kernel

theorem witness_CopyAndLaunchSteps_port : portTakes bound bootAsid 0x37 1 ∧ portTakes bound bootAsid 0x38 8 := by
  refine ⟨⟨test_portOpen, by decide⟩, ⟨test_portOpen, by decide⟩⟩

/-- Copies of other shapes: SRC, DST, REC and the CTL word, and two more dimensions. -/
def shapedBytes (ctl src dst rec_ : Nat) : List Byte :=
  leBytes 4 0x00800101 ++ leBytes 4 ctl ++ leBytes 8 src ++ leBytes 8 dst ++ zeros 8 ++ leBytes 8 rec_ ++ leBytes 4 16 ++ leBytes 4 3 ++ leBytes 4 32 ++
    leBytes 4 64 ++ leBytes 4 2 ++ leBytes 4 0x1000 ++ leBytes 4 (2 ^ 32 - 256) ++ zeros 60
def runCopy (ctl src dst : Nat) : Copy := copyOf (shapedBytes ctl src dst 0) true false

theorem witness_CopyAndLaunchSteps_strides : let d := copyDesc (shapedBytes 0x2200 0x10000 0x10800 0)
    (∀ x ∈ d.used, 1 ≤ x.count) ∧ 0 < d.unitsPerRow ∧ d.used.map (fun x => (x.count, x.ds)) = [(3, 64), (2, -256)] ∧
    d.sfmt = d.dfmt ∧ 0 < fmtElems d.sfmt := by decide +kernel

theorem ok_of_toOption {α β : Type} {e : Except α β} {x : β} (h : e.toOption = some x) : e = .ok x := by
  cases e <;> simp_all [Except.toOption]

theorem test_unitReads (ctl : Nat) (h : ctl ∈ [0x2000, 0x2000 + 2 ^ 16, 0x2000 + 2 ^ 17]) :
    UnitReads (copying (runCopy ctl 0x10000 0x10800)) (runCopy ctl 0x10000 0x10800) [(0x200000, false)]
      ([(0x200000, false)].map ((copying (runCopy ctl 0x10000 0x10800)).copySees (runCopy ctl 0x10000 0x10800))) := by
  have hs : ∀ x ∈ [0x2000, 0x2000 + 2 ^ 16, 0x2000 + 2 ^ 17], let c := runCopy x 0x10000 0x10800; let d := copyDesc c.block
    d.ssp = false ∧ ((copying c).copyRun c .load (d.srcAt c.unit).2 (d.srcAt c.unit).1).toOption = some [(0x200000, false)] := by decide +kernel
  have hp : ∀ p ∈ [((0x200000 : Nat), false)], isRemote p.1 = false ∧ (runCopy ctl 0x10000 0x10800).alt.find p.1 = none := by
    intro p hp; fin_cases hp; exact ⟨by decide, rfl⟩
  exact Eq.mpr (if_neg fun e => by rw [(hs ctl h).1] at e; cases e) ⟨ok_of_toOption (hs ctl h).2, hp, rfl⟩

/-- A unit from memory to memory, to the scratchpad, to the weight store in and out of refresh; one from the scratchpad; one of no mapping. -/
theorem witness_CopyAndLaunchSteps_units : (∀ ctl ∈ [0x2000, 0x2000 + 2 ^ 16, 0x2000 + 2 ^ 17], let c := runCopy ctl 0x10000 0x10800
      (copying c).eng.copies.find 0 = some c ∧ c.started = true ∧ c.finished = false ∧ c.commit = none) ∧
    (let c := runCopy 0x2000 0x10000 0x10800; let s := copying c; let d := copyDesc c.block
      d.dws = false ∧ d.dsp = false ∧ s.harts.lines = [] ∧ d.sfmt = d.dfmt ∧
      ((s.copyTouch c [(0x200000, false)]).copyRun c .store 1 (d.dstAt c.unit)).toOption = some [(0x200800, false)]) ∧
    (let c := runCopy 0x12000 0x10000 0x100; let d := copyDesc c.block; d.dws = false ∧ d.dsp = true ∧ ((copying c).wgs.find c.wg).isSome = true) ∧
    (let c := { runCopy 0x22000 0x10000 (3 * 2 ^ 48) with die := some 0 }; let d := copyDesc c.block; d.dws = true ∧ c.die = some 0 ∧
      (d.dstAt c.unit).toNat / 2 ^ 26 = 0 ∧ (copying c).dieCyc 0 % 8192 < 96 ∧ ¬ (({ copying c with cyc := 96 } : State).dieCyc 0 % 8192 < 96)) ∧
    (let c := runCopy 0x2000 0x90000 0x10800; let s := copying c; let d := copyDesc c.block
      s.eng.copies.find 0 = some c ∧ d.dws = false ∧ d.ssp = false ∧
      (match s.copyRun c .load (d.srcAt c.unit).2 (d.srcAt c.unit).1 with
        | .error e => decide (e.2 = 0x90000)
        | .ok _ => false) = true) := by decide +kernel

theorem witness_CopyAndLaunchSteps_scratchpad : let c := runCopy 0xA000 0x100 0x10800
    (copyDesc c.block).ssp = true ∧ UnitReads (copying c) c [] [0#8] := by
  have h : (let c := runCopy 0xA000 0x100 0x10800; let d := copyDesc c.block; d.ssp = true ∧ d.srcAt c.unit = (0x100, 1) ∧
    ((copying c).wgAt c.wg).scratch = []) := by decide +kernel
  refine ⟨h.1, ?_⟩
  unfold UnitReads
  dsimp only
  rw [if_pos h.1]
  exact ⟨rfl, fun a => rfl, fun i _ => by rw [h.2.2]; rfl, by rw [h.2.1, h.2.2]; rfl⟩

/-- A finished copy at scope .sys whose remote write is acknowledged, with a record at 0x10500 and a semaphore. -/
def endedCopy : Copy := copyOf (shapedBytes (0x2800 + 2 ^ 19 + 2 ^ 20 + 5 * 2 ^ 21) 0x10000 0x10800 0x10500) true true
def endedBase : State :=
  let s := queued (copying endedCopy)
  { s with eng := { s.eng with outbox := [⟨none, some (.copy 0), bootAsid, [], [(2 ^ 51, 1#8)], [], false, true⟩] } }

theorem witness_CopyAndLaunchSteps_complete : (endedBase.eng.copies.find 0 = some endedCopy ∧ endedCopy.finished = true ∧ endedCopy.commit = none ∧
      (copyDesc endedCopy.block).scope = 5 ∧ (∀ x ∈ endedBase.eng.outbox, x.engine = some (.copy 0) → x.acked = true)) ∧
    (let d := copyDesc endedCopy.block; d.semv = true ∧ endedCopy.mute = false ∧ endedBase.semUsable d.semd endedCopy.cluster d.semidx bootAsid = true ∧
      d.rec_ ≠ 0 ∧ (let u := endedBase.l2WriteBack endedCopy.cluster (fun _ => true)
        u.hubAddrs bootAsid d.rec_ 32 .store (fun m => m == 0#2 || m == 2#2) = some ((List.range 32).map (0x200500 + ·)) ∧ u.harts.lines = [] ∧
        ∀ a ∈ (List.range 32).map (0x200500 + ·), a < 2 ^ 51 ∧ u.absentAt a = false)) ∧
    ((List.range 32).map (0x200500 + ·)).Nodup := by decide +kernel

/-- A kernel descriptor at 0x10200 of a contract, with `extra` in its reserved field and a depth of stacks, as entry 0 of the context's table. -/
def kernelBytes (con extra depth : Nat) : List Byte :=
  leBytes 4 0x0100014B ++ leBytes 4 (con + 2 ^ 11 + 2 ^ 17) ++ leBytes 8 0x10000 ++ zeros 12 ++ leBytes 2 1 ++ leBytes 2 depth ++ leBytes 4 extra ++ zeros 220
def kernelAt (con extra depth : Nat) (f : Ctx → Ctx) : State :=
  onCtx (dataBase.memWrite (((List.range 256).map (0x200200 + ·)).zip (kernelBytes con extra depth))) fun c => f { c with kit := [(0, 0x10200)] }
def noDies (s : State) : State := { s with sys := { s.sys with chlth := 0 } }

theorem witness_CopyAndLaunchSteps_dispatch : (base.ctx.kit.find (pktKidx packetBytes) = none) ∧
    (let s := onCtx base fun c => { c with kit := [(0, 0x90000)] }; (s.ctxAt bootAsid).kit.find (pktKidx packetBytes) = some 0x90000 ∧
      s.hubRead bootAsid 0x90000 256 = none) ∧
    (∀ x ∈ [(6, 0, 0), (0, 2 ^ 16, 0), (0, 0, 0), (0, 0, 1)], let s := kernelAt x.1 x.2.1 x.2.2 id; let b := kernelBytes x.1 x.2.1 x.2.2
      (s.ctxAt bootAsid).kit.find (pktKidx packetBytes) = some 0x10200 ∧ s.hubRead bootAsid 0x10200 256 = some b ∧
      decide (6 ≤ (kernelOf b).con.toNat) = decide (x.1 = 6) ∧ kernelOk b = decide (x.2.1 = 0) ∧ (s.ctxAt bootAsid).repro = false) ∧
    ((kernelAt 0 0 0 fun c => { c with repro := true, qlog := 17 }).ctxAt bootAsid).qlog = 17 ∧
    (noDies (kernelAt 0 0 0 id)).bindClass 0 = none ∧ (noDies (kernelAt 0 0 0 id)).hubRead bootAsid 0x10200 256 = some (kernelBytes 0 0 0) ∧
    (∀ n ∈ [0, 1], let s := kernelAt 0 0 n id; s.bindClass 0 = some 1 ∧
      s.tooLarge (s.ctxAt bootAsid) (kernelOf (kernelBytes 0 0 n)) 1 packetBytes = decide (n = 1)) := by decide +kernel

/-- The same queue head over a context with a kernel that may be dispatched, or with none and a record to write. -/
def dispatching (rec_ : Nat) (s : State) : State :=
  { (queued s) with hub := { (queued s).hub with queues := [(1, [(bootAsid, packetBytes.take 32 ++ leBytes 8 rec_ ++ packetBytes.drop 40)])] } }

theorem witness_CopyAndLaunchSteps_launch : (∀ s ∈ [dispatching 0 (kernelAt 0 0 0 id), dispatching 0x10500 dataBase],
      s.chosenQueue = some 1 ∧ (s.headOf 1).isSome = true ∧ s.hub.lastDispatch = none) ∧
    (let s := dispatching 0 (kernelAt 0 0 0 id); (s.dispatchCheck bootAsid packetBytes).toOption.isSome = true) ∧
    (let s := dispatching 0x10500 dataBase; (s.dispatchCheck bootAsid packetBytes).toOption = none ∧
      s.hubAddrs bootAsid 0x10500 32 .store (fun m => m == 0#2 || m == 2#2) = some ((List.range 32).map (0x200500 + ·))) := by decide +kernel

/-- A launch of one wave a workgroup without stacks, to be placed; one that no core holds; one that is done, out of the reserve, with a signal. -/
def placing (nwave seg : Nat) : State :=
  base.setLaunchAt (launchKeyOf bootAsid 0)
    { Launch.blank with kern := { bootKernel with divdepth := 0, nwave := nwave, seg := seg }, packet := packetBytes, nextWg := 0 }
def placingKernel (nwave seg : Nat) : Kernel := ((placing nwave seg).launchAt (launchKeyOf bootAsid 0)).kern

theorem witness_CopyAndLaunchSteps_place : (∀ x ∈ [(1, 2), (32, 8)], let s := placing x.1 x.2; let lk := launchOfWg (wgKeyOf bootAsid 0 0); let l := s.launchAt lk
      s.launches.find lk = some l ∧ l.waiting = true ∧ s.mayPlace lk = true ∧ wgKeyOf bootAsid 0 0 % 2 ^ 40 = l.nextWg ∧ lk / 2 ^ 16 < 1024 ∧
      l.nextWg < 2 ^ 32 ∧ l.repro = false ∧ pktCl l.packet = false ∧ l.kern.ws = false ∧ l.kern.nwave ≤ 32 ∧ s.placeClass l.kern = some 0 ∧
      s.stacksFit bootAsid l.kern 1 = true) ∧
    (0 / 128 ∈ (placing 1 2).healthyDies 0 ∧ (placing 1 2).fitsCore (placingKernel 1 2) 0 = true) ∧
    ∀ gc, ¬ (gc / 128 ∈ (placing 32 8).healthyDies 0 ∧ (placing 32 8).fitsCore (placingKernel 32 8) gc = true) := by
  refine ⟨by decide +kernel, by decide +kernel, ?_⟩
  rintro gc ⟨-, h⟩
  have h1 : (placingKernel 32 8).nwave = 32 ∧ (placingKernel 32 8).seg = 8 := by decide +kernel
  unfold State.fitsCore at h
  simp only [h1.1, h1.2, Bool.and_eq_true, decide_eq_true_eq] at h
  omega

def endingPacket : List Byte := leBytes 4 (0x0000014C + 2 ^ 21 + 5 * 2 ^ 22) ++ zeros 4 ++ leBytes 4 1 ++ zeros 20 ++ leBytes 8 0x10500 ++ zeros 24
def endingLaunch : Launch := { Launch.blank with kern := bootKernel, packet := endingPacket, nextWg := 1, done := 1, hold := 7, fromRsv := true }
def ending : State := queued (dataBase.setLaunchAt (launchKeyOf bootAsid 0) endingLaunch)

theorem witness_CopyAndLaunchSteps_end : ending.launches.find (launchKeyOf bootAsid 0) = some endingLaunch ∧ endingLaunch.waiting = false ∧
    pktNwg endingLaunch.packet ≤ endingLaunch.done ∧ pktSigv endingLaunch.packet = true ∧ endingLaunch.mute = false ∧
    ending.semUsable true 0 (pktSigidx endingLaunch.packet) bootAsid = true ∧ pktRec endingLaunch.packet = 0x10500 := by decide +kernel

def collBytes (ctl recAt : Nat) : List Byte :=
  leBytes 4 0x00400102 ++ leBytes 4 ctl ++ leBytes 8 0x10300 ++ leBytes 8 0x10400 ++ leBytes 8 1 ++ leBytes 8 0x10200 ++ leBytes 8 recAt ++ zeros 16
def collOf (b : List Byte) (submitted : Nat) (status : Option (BitVec 8)) : Collective :=
  { block := b, asid := bootAsid, submitted := submitted, status := status, flags := 0#6, faultVa := 0#64, peer := 0, launch := launchKeyOf bootAsid 0, commit := none,
    elems := 0, held := [], pages := [], mute := false }
def colling (c : Collective) (s : State) : State := { s with eng := { s.eng with colls := [(0, c)] } }
def loneGroup : Group := ⟨1, 0, [0]⟩
def groupBase : State := dataBase.memWrite [(0x200200, 1#8)]

/-- The page readable alone; and the group outside it. -/
def readOnly : State := (withPage base).memWrite (bytePairs (bootNode + 0x38) 8 0x0B ++ [(0x200200, 1#8)])

def lone (op : Nat) : Collective := collOf (collBytes (op + 0x10) 0) 0 none

theorem witness_CollectiveSteps_ready : ∀ op < 4, CollReady (colling (lone op) groupBase) op 0 (lone op) loneGroup ∧
    CollReady (colling (lone op) readOnly) op 0 (lone op) loneGroup := by
  have h : (∀ op < 4, collOp (lone op).block = op) ∧ (∀ op < 4, (colling (lone op) groupBase).groupOf bootAsid (lone op).block = some loneGroup) ∧
      ∀ op < 4, (colling (lone op) readOnly).groupOf bootAsid (lone op).block = some loneGroup := by decide +kernel
  exact fun op ho => ⟨⟨rfl, h.1 op ho, rfl, h.2.1 op ho⟩, ⟨rfl, h.1 op ho, rfl, h.2.2 op ho⟩⟩

theorem witness_CollectiveSteps : (∀ op < 4, let c := collOf (collBytes (op + 0x10) 0) 0 none;
      (collIns (colling c groupBase) c loneGroup).toOption = some [0x200300, 0x200301, 0x200302, 0x200303] ∧
      (collOuts (colling c groupBase) c loneGroup).toOption = some [0x200400, 0x200401, 0x200402, 0x200403]) ∧
    (let c := collOf (collBytes 0x10 0) 0 none;
      (collIns (colling c readOnly) c loneGroup).toOption.isSome = true ∧ (collOuts (colling c readOnly) c loneGroup).toOption = none) ∧
    (let c := collOf (collBytes 0x10 0) 0 none; (colling c State.reset.boot).eng.colls.find 0 = some c ∧
      (colling c (onCtx State.reset.boot fun x => { x with root := 0x300000 })).groupOf c.asid c.block = none) ∧
    1 ≤ loneGroup.nrank ∧
    (collCount (collBytes 0x13 0) = 1 ∧ collOp (collBytes 0x13 0) = 3 ∧ collOp (collBytes 0x12 0) = 2) ∧
    (let c := collOf (collBytes 0x0 0) 0 (some 0#8);
      (colling c groupBase).eng.colls.find 0 = some c ∧ c.status = some 0#8 ∧ c.commit = none ∧ collRec c.block = 0 ∧ collSemv c.block = false) ∧
    (let c := collOf (collBytes (0x100 + 5 * 2 ^ 9) 0x10500) 0 (some 7#8);
      collSemv c.block = true ∧ (queued (colling c groupBase)).semUsable true 0 (collSem c.block) c.asid = true) := by decide +kernel

/-- A collective whose time is up, and one whose time is not, whatever lead the other ranks have. -/
theorem witness_CollectiveSteps_timeout : (∃ (c : Collective) (s : State), s.eng.colls.find 0 = some c ∧ c.status = none ∧
      c.submitted + 1000 * s.sys.colto.toNat ≤ s.now + Config.peerLead s.tick) ∧
    ∃ (c : Collective) (s : State), s.eng.colls.find 0 = some c ∧ c.status = none ∧ s.now + Config.peerLead s.tick < c.submitted + 1000 * s.sys.colto.toNat := by
  refine ⟨⟨collOf (collBytes 0x10 0) 0 none, { (colling (collOf (collBytes 0x10 0) 0 none) groupBase) with now := 1000000000 }, rfl, rfl, ?_⟩,
    ⟨collOf (collBytes 0x10 0) (Config.peerLead 0 + 1) none, colling (collOf (collBytes 0x10 0) (Config.peerLead 0 + 1) none) base, rfl, rfl, ?_⟩⟩
  · show 0 + 1000 * 1000000 ≤ 1000000000 + _; omega
  · show 0 + Config.peerLead 0 < Config.peerLead 0 + 1 + 1000 * 1000000; omega

/-- A reproducible launch at the end of its quantum, its wave holding one store. -/
def committing : State :=
  let s := onWave fun w => { w with id := { w.id with repro := true }, ended := true, fifo := [.store false false false [(0x200F00, 0x5A#8)] []] }
  s.setLaunchAt (launchKeyOf bootAsid 0) { Launch.blank with kern := bootKernel, repro := true, packet := packetBytes, nextWg := 1 }
/-- Cluster barrier 7 held for a launch's first workgroup, at which its one wave has arrived. -/
def heldWg : Wg := { bootWg with clustered := true, cbars := (Vector.replicate 8 0#32).set! 7 1#32 }
def heldBar : State :=
  let s := base.setWgAt (wgKeyOf bootAsid 0 0) heldWg
  { s with belay := { s.belay with objs := [(0, ⟨.barc, bootAsid, BitVec.ofNat 64 (7 * 2 ^ 48), 0, none, false, true⟩)] } }
/-- A wave of class 0 under cut level 1 that holds the lock for which a shed wave of class 3 of its workgroup has a registered wait. -/
def exempt : State :=
  let s := base.memWrite (bytePairs 0x200100 8 (2 ^ 63))
  let s := s.setWaveAt (bootWave + 1) { bootWaveVal with
    id := { bootWaveId with index := 1#5 }, st := .shed, held := .waitReg, wait := some { lockWait with registered := true },
    env := { bootWaveVal.env with shedClass := 3#3 } }
  { s with pw := { s.pw with cut := 1 }, belay := { s.belay with waits := [(0, ⟨.lock, bootAsid, 0, bootWave + 1, 1⟩)] } }

theorem witness_CommitAndBelaySteps : (committing.mayCommit (launchKeyOf bootAsid 0) = true ∧
      committing.launches.find (launchKeyOf bootAsid 0) = some (committing.launchAt (launchKeyOf bootAsid 0)) ∧
      committing.liveOf (launchKeyOf bootAsid 0) = [(bootWave, committing.waveAt bootWave)] ∧
      (committing.waveAt bootWave).fifo = [.store false false false [(0x200F00, 0x5A#8)] []] ∧ (committing.waveAt bootWave).wait = none ∧
      committing.commitCopies (launchKeyOf bootAsid 0) = [] ∧ committing.commitColls (launchKeyOf bootAsid 0) = [] ∧ committing.eng.leaseRecs = [] ∧ isRemote 0x200F00 = false) ∧
    (heldBar.wgs.find (wgKeyOf bootAsid 0 0) = some heldWg ∧ firstsOf heldBar (launchKeyOf bootAsid 0) = [(wgKeyOf bootAsid 0 0, heldWg)] ∧
      (∀ p ∈ clusterPeers bootAsid 0 0, (heldBar.wgAt p).st ≠ .saved ∧ heldBar.liveMask p &&& ~~~(heldBar.wgAt p).cbars[7]! = 0#32) ∧
      (∃ p ∈ clusterPeers bootAsid 0 0, (heldBar.wgAt p).cbars[7]! ≠ 0#32)) ∧
    (base.now / 50000 = base.belay.scanned ∧ ({ base with now := 50000 } : State).now / 50000 ≠ base.belay.scanned) := by decide +kernel

theorem witness_CommitAndBelaySteps_exempt : exempt.waves.find bootWave = some (exempt.waveAt bootWave) ∧
    (exempt.waveAt bootWave).env.shedClass.toNat < exempt.pw.cut ∧ exempt.isCut bootWave = false ∧
    (exempt.wavesOfWg (exempt.waveAt bootWave).id.wgKey).any (fun e => e.2.st == .shed) = true := by decide +kernel

/-- A collective whose remote writes are acknowledged; one of a launch whose one wave has exited; one muted. -/
def outColl (acked : Bool) (c : Collective) (s : State) : State :=
  { (colling c s) with eng := { (colling c s).eng with outbox := [⟨none, some (.coll 0), bootAsid, [], [(2 ^ 51, 1#8)], [], false, acked⟩] } }
def exitedBase : State := groupBase.setWaveAt bootWave { bootWaveVal with st := .exited }
def heldColl : Collective := { collOf (collBytes 0x0 0) 0 (some 0#8) with commit := some 1, held := [(0x200F00, 1#8)] }

theorem witness_CollectiveSteps_ended : (let c := collOf (collBytes 0x0 0) 0 (some 0#8);
      (∀ b ∈ [true, false], let s := outColl b c groupBase; s.eng.colls.find 0 = some c ∧
        decide (c.status ≠ none ∧ ∀ x ∈ s.eng.outbox, x.engine = some (.coll 0) → x.acked = true) = b) ∧ c.commit = none) ∧
    ((colling heldColl exitedBase).eng.colls.find 0 = some heldColl ∧ heldColl.status ≠ none ∧ heldColl.held ≠ [] ∧
      (∀ e ∈ (colling heldColl exitedBase).wavesOfLaunch heldColl.launch, e.2.st = .exited) ∧
      (colling heldColl exitedBase).wavesOfLaunch heldColl.launch ≠ []) ∧
    ({ heldColl with mute := true } : Collective).mute = true := by decide +kernel

/-- Commits: a wave that holds a remote store; one whose remote store is unacknowledged. -/
def leaving : State := onWave fun w => { w with id := { w.id with repro := true }, ended := true, fifo := [.store false false false [(2 ^ 51, 0x5A#8)] []] }
def owing (acked : Bool) : State := { committing with eng := { committing.eng with outbox := [⟨some bootWave, none, bootAsid, [], [(2 ^ 51, 1#8)], [], true, acked⟩] } }
def asRepro (s : State) : State :=
  s.setLaunchAt (launchKeyOf bootAsid 0) { Launch.blank with kern := bootKernel, repro := true, packet := packetBytes, nextWg := 1 }

theorem witness_CommitAndBelaySteps_remote : (∀ s ∈ [asRepro leaving, owing false, committing], s.mayCommit (launchKeyOf bootAsid 0) = true ∧
      s.launches.find (launchKeyOf bootAsid 0) = some (s.launchAt (launchKeyOf bootAsid 0)) ∧
      s.liveOf (launchKeyOf bootAsid 0) = [(bootWave, s.waveAt bootWave)]) ∧
    ((asRepro leaving).waveAt bootWave).fifo.any Eff.goesOut = true ∧ ((owing false).waveAt bootWave).fifo.any Eff.goesOut = false ∧
    (owing false).unacked bootWave ≠ 0 ∧ (owing true).unacked bootWave = 0 ∧ (committing.waveAt bootWave).fifo.any Eff.goesOut = false ∧
    committing.unacked bootWave = 0 ∧ committing.waves.keys = [bootWave] ∧
    (∀ x ∈ (committing.waveAt bootWave).fifo, x = .store false false false [(0x200F00, 0x5A#8)] []) := by decide +kernel

theorem witness_CommitAndBelaySteps_sorted : FMap.Sorted committing.waves := by unfold FMap.Sorted; decide +kernel

/-- Two waves that wait on each other's locks: a cycle whose later entry is the second's. -/
def crossWait (pa : Nat) : Wait := { lockWait with pa := pa, key := BitVec.ofNat 64 (0x10000 + (pa - 0x200000)), registered := true }
def crossed : State :=
  let h (index : Nat) : Nat := 2 ^ 63 + ({ bootWaveId with index := BitVec.ofNat 5 index } : WaveId).handle.toNat
  let s := dataBase.memWrite (bytePairs 0x200100 8 (h 1) ++ bytePairs 0x200200 8 (h 0))
  let s := s.setWaveAt bootWave { bootWaveVal with st := .waitReg, wait := some (crossWait 0x200100) }
  let s := s.setWaveAt (bootWave + 1) { bootWaveVal with id := { bootWaveId with index := 1#5 }, st := .shed, held := .waitReg, wait := some (crossWait 0x200200) }
  { s with now := 50000, belay := { s.belay with
      waits := [(0, ⟨.lock, bootAsid, 0, bootWave, 1⟩), (1, ⟨.lock, bootAsid, 1, bootWave + 1, 2⟩)],
      objs := [(0, ⟨.lock, bootAsid, 0x10100#64, 0x200100, none, false, true⟩), (1, ⟨.lock, bootAsid, 0x10200#64, 0x200200, none, false, true⟩)] } }

def crossPath : List (Nat × ObjRef) := [(bootWave, ⟨.lock, bootAsid, 0x10100#64, 0x200100⟩), (bootWave + 1, ⟨.lock, bootAsid, 0x10200#64, 0x200200⟩)]

theorem witness_CommitAndBelaySteps_scan : crossed.now / 50000 ≠ crossed.belay.scanned ∧ crossed.waves.keys = [] ++ bootWave :: [bootWave + 1] ∧
    crossed.cycleOf bootWave = some crossPath ∧ (∃ e ∈ crossPath, e.1 = bootWave + 1) ∧
    (∀ e ∈ crossPath, e.1 ≠ bootWave + 1 → crossed.stampOf e.1 < crossed.stampOf (bootWave + 1)) ∧
    (let u := crossed.deadlockWave (bootWave + 1)
        (crossPath.dropWhile (fun e => e.1 != bootWave + 1) ++ crossPath.takeWhile fun e => e.1 != bootWave + 1) false;
      (∀ j ∈ [bootWave + 1], u.cycleOf j = none) ∧ ∀ o ∈ u.belay.objs, o.2.orph = false) ∧
    (crossed.waveAt bootWave).st = .waitReg ∧ (crossed.waveAt (bootWave + 1)).st = .shed ∧
    ((onWave fun w => { w with st := .saved, wait := some (crossWait 0x200100) }).waveAt bootWave).st = .saved ∧
    (∀ k ∈ base.waves.keys, base.cycleOf k = none) ∧ (∀ o ∈ base.belay.objs, o.2.orph = false) := by decide +kernel

/-- The first of them gives its priority to the second. -/
theorem witness_CommitAndBelaySteps_gives : GivesThrough crossed 1 bootWave (bootWave + 1) ∧ 1 ≤ crossed.waves.length :=
  ⟨⟨bootWave, ⟨by decide, ⟨crossed.waveAt bootWave, by decide +kernel⟩, by decide +kernel, ⟨⟨.lock, bootAsid, 0x10100#64, 0x200100⟩, by decide +kernel⟩⟩, rfl⟩,
    by decide +kernel⟩


def leaseBytes (op : Nat) : List Byte := leBytes 4 0x00200103 ++ leBytes 4 op ++ leBytes 4 1 ++ leBytes 4 7000 ++ leBytes 4 1000 ++ zeros 12
def leasing (s : State) (op : Nat) (l : Option Lease) : State := { s with eng := { s.eng with leaseReqs := [⟨bootAsid, leaseBytes op, none⟩], lease := l } }
def someLease (asid : Nat) (noticed : Bool) : Lease := ⟨asid, 7000, 1#16, 1000, none, 1000000, false, noticed, false⟩
/-- The arbiter with telemetry at the nominal point and a first breakpoint of 7000 W. -/
def powered : State :=
  { base with pw := { base.pw with tl := false, sample := [0xA7#8, 0#8, 0x50#8, 0xC3#8, 0#8, 0x50#8, 0xC3#8, 0#8, 0#8],
                                   pwbp := base.pw.pwbp.set! 0 (0#35 ++ 7000#13 ++ 0#16) } }
def ramped : Lease := { someLease bootAsid true with ramped := true }
def at_ (s : State) (now : Nat) : State := { s with now := now }

theorem witness_LeaseSteps : (let s := leasing powered 0 none
      s.eng.leaseReqs.head? = some ⟨bootAsid, leaseBytes 0, none⟩ ∧ fieldOf (leaseBytes 0) 4 4 = 0 ∧ s.eng.lease = none ∧
      (fieldOf (leaseBytes 0) 12 4 : Int) ≤ s.pw.targetNow ∧ s.pw.statByte.getLsbD 1 = false ∧ s.pw.tl = false ∧ s.pw.cut = 0 ∧ s.eng.coolUntil ≤ s.now) ∧
    (∀ l ∈ [someLease bootAsid false, someLease 2 true], (leasing base 0 (some l)).eng.lease ≠ none ∧ (leasing base 1 (some l)).eng.lease = some l ∧
      fieldOf (leaseBytes 1) 4 4 = 1) ∧ (someLease bootAsid false).asid = bootAsid ∧ (someLease 2 true).asid ≠ bootAsid ∧
    ({ base.eng with leaseRecs := [⟨bootAsid, 0x10100, 4#8, 7, none⟩] } : Engines).leaseRecs = [⟨bootAsid, 0x10100, 4#8, 7, none⟩] ∧
    ((someLease bootAsid false).ramped = false ∧ ramped.ramped = true ∧ (someLease bootAsid false).revoked = false) ∧
    ((someLease bootAsid false).noticed = false ∧ (someLease bootAsid false).endNs ≤ (at_ base 800000).now + 200000 ∧
      (someLease bootAsid true).noticed = true ∧ (at_ base 799999).now + 200000 < (someLease bootAsid false).endNs ∧
      (someLease bootAsid false).endNs ≤ (at_ base 1000000).now ∧ (at_ base 999999).now < (someLease bootAsid false).endNs) := by decide +kernel

def goodFrame : List Byte := [0xA7#8, 0#8, 0x50#8, 0xC3#8, 0#8, 0x50#8, 0xC3#8, 0#8]
def power (f : Power → Power) (s : State) : State := { s with pw := f s.pw }
def cutting (st : WaveSt) (idv timew : Bool) (n : Nat) : State :=
  power (fun p => { p with cut := 1 }) (at_ (onWave fun w =>
    let e : Preempt := { w.pre with sinceCut := [(0, n)] }
    let i : Idem := { w.idem with idv := idv }
    { w with st := st, pre := e, idem := i, timew := if timew then some (9#64, .none, false) else none }) 300000)

theorem witness_PowerSteps : (frameOk (goodFrame ++ [crc8 (goodFrame.drop 1)]) = true ∧ frameOk goodFrame = false) ∧
    (powered.pw.tl = false ∧ powered.pw.lastFrame + 200000 ≤ (at_ powered 200000).now ∧ (at_ powered 199999).now < powered.pw.lastFrame + 200000) ∧
    ((power (fun p => { p with pending := some true }) base).pw.pending = some true) ∧
    (let p := { powered.pw with hist := [[(0, 400000000000)]] };
      (min p.targetNow base.eng.cap) * 50000000 < p.loadFrom p.cut ∧ powered.pw.loadFrom powered.pw.cut ≤ (min powered.pw.targetNow base.eng.cap) * 50000000) ∧
    (let s := power (fun p => { p with restoreSince := some 0, cut := 1 }) base;
      s.pw.restoreSince = some 0 ∧ 0 < s.pw.cut ∧ 0 + s.pw.thold * 50000 ≤ 1000000 ∧ 999999 < 0 + s.pw.thold * 50000) ∧
    (∀ x ∈ [(true, false, 0), (false, true, 0), (false, false, 8191), (false, false, 8192)], let s := cutting .ready x.1 x.2.1 x.2.2
      pastForce s bootWave ∧ (s.waveAt bootWave).st = .ready ∧ (s.waveAt bootWave).idem.idv = x.1 ∧ (shedAtOnce (s.waveAt bootWave)).isSome = (x.1 || x.2.1) ∧
      (s.waveAt bootWave).pre.sinceCut.get 0 (s.waveAt bootWave).env.shedClass.toNat = x.2.2 ∧
      2 * (s.wgAt (s.waveAt bootWave).id.wgKey).kern.phintmax = 8192) ∧
    (¬ pastForce base bootWave ∧ pastForce (cutting .shed false false 0) bootWave ∧ ((cutting .shed false false 0).waveAt bootWave).st ≠ .ready) ∧
    (base.pw.epoch ≤ base.now / 1000 ∧ base.now / 1000 < (power (fun p => { p with epoch := 1 }) base).pw.epoch ∧
      drawOf base.ballast.pw ≤ base.pw.budget * 1000000 ∧
      (let s := power (fun p => { p with budget := 1000 }) base; s.pw.budget * 1000000 < drawOf s.ballast.pw ∧ s.pw.ballastOff = false)) ∧
    ((power (fun p => { p with overSince := some 0 }) base).pw.overSince = some 0 ∧ 0 + 20000 ≤ (at_ base 20000).now ∧ (at_ base 19999).now < 0 + 20000) ∧
    (511 < 512 ∧ (0xAAAA#16 : BitVec 16) ≠ 0#16) ∧
    (base.dieCyc 0 % 16 = 0 ∧ ({ base with cyc := 15 } : State).dieCyc 0 % 16 ≠ 0 ∧ (3 : Nat) / 32 = 0 ∧
      (power (fun p => { p with clkpatNext := [(3, 0xAAAA#16)] }) base).pw.clkpatNext = [(3, 0xAAAA#16)]) := by
  unfold pastForce; decide +kernel

/-- A context with a save area of 256 KiB, and a launch of greater priority that waits. -/
def preemptible (size : Nat) (s : State) : State :=
  (onCtx s fun c => { c with saveBase := 0x400000, saveSize := size }).setLaunchAt (launchKeyOf bootAsid 1)
    { Launch.blank with kern := bootKernel, packet := packetBytes, prio := 5#3 }
def preempting (idv : Bool) (since : Nat) (taken : Bool) : State :=
  onWg (onWave fun w =>
    let i : Idem := { w.idem with idv := idv }
    let e : Preempt := { w.pre with since := since, taken := taken, full := taken }
    { w with st := .preempting, idem := i, pre := e }) fun g => { g with st := .preempting }
def savedBase (die : Nat) : State :=
  let s := onWg (onWave fun w => { w with st := .saved }) fun g =>
    { g with st := .saved, clustered := true, image := some (0x400000, 4), die := die, segs := [] }
  { s with sys := { s.sys with chlth := 1#16 } }

theorem witness_PreemptionSteps_back : goesBack ((preempting true 0 false).waveAt bootWave) ∧
    ¬ goesBack ((onWave fun w => { w with st := .preempting, held := .waitReg }).waveAt bootWave) ∧
    ((preempting true 0 false).waveAt bootWave).mwait = none := by unfold goesBack; decide +kernel

theorem witness_PreemptionSteps : (let s := preemptible 0x40000 base;
      (s.wgAt (wgKeyOf bootAsid 0 0)).st = .placed ∧ s.liveWaves (wgKeyOf bootAsid 0 0) ≠ [] ∧ s.mayPreempt (wgKeyOf bootAsid 0 0) = true ∧
      ((s.ctxAt bootAsid).imageRun (wgKeyOf bootAsid 0 0) (leastSize s (wgKeyOf bootAsid 0 0) (s.wgAt (wgKeyOf bootAsid 0 0)))).isSome = true ∧
      ((onCtx s fun c => { c with saveSize := 0 }).ctxAt bootAsid).imageRun (wgKeyOf bootAsid 0 0) (leastSize s (wgKeyOf bootAsid 0 0) (s.wgAt (wgKeyOf bootAsid 0 0))) = none) ∧
    (∀ x ∈ [(true, 0), (false, 8192), (false, 8191)], let w := (preempting x.1 x.2 false).waveAt bootWave
      w.st = .preempting ∧ w.pre.taken = false ∧ w.idem.idv = x.1 ∧ w.held = .ready ∧ w.env.hm = false ∧ w.timew = none ∧ w.pre.shed = false ∧
      w.pre.since = x.2 ∧ 2 * ((preempting x.1 x.2 false).wgAt w.id.wgKey).kern.phintmax = 8192) ∧
    (let s := onWave fun w => { w with st := .preempting, mwait := some [] };
      (s.waveAt bootWave).st = .preempting ∧ (s.waveAt bootWave).pre.taken = false ∧ (s.waveAt bootWave).mwait.isSome = true) ∧
    (let s := onWave fun w => { w with st := .preempting, held := .waitReg };
      (s.waveAt bootWave).pre.taken = false ∧ (s.waveAt bootWave).mwait = none ∧ (s.waveAt bootWave).idem.idv = false ∧ (s.waveAt bootWave).held ≠ .ready) ∧
    (∀ x ∈ [(0x40000, some 0x400000), (0, none)], let s := preemptible x.1 (preempting false 0 true);
      let u := quiesced s (wgKeyOf bootAsid 0 0);
      s.maySave (wgKeyOf bootAsid 0 0) = true ∧ (∀ e ∈ u.liveWaves (wgKeyOf bootAsid 0 0), (u.waveAt e.1).held ≠ .preempting) ∧
      ((u.ctxAt bootAsid).imageRun (wgKeyOf bootAsid 0 0) (units4k (imageOf u (wgKeyOf bootAsid 0 0)).length)) = x.2) ∧
    (let s := savedBase 0;
      (s.wgAt (wgKeyOf bootAsid 0 0)).st = .saved ∧ s.restoreCore (wgKeyOf bootAsid 0 0) = (some 0, []) ∧ s.restoresFirst (wgKeyOf bootAsid 0 0) = false ∧
      (s.wgAt (wgKeyOf bootAsid 0 0)).image = some (0x400000, 4) ∧ (∀ i < 4, (s.gatherHome ((List.range 4).map (0x400000 + ·))).ueAt (0x400000 + i) = false) ∧
      (∀ e ∈ s.waves, e.2.trapPend = none) ∧ (∀ e ∈ s.liveWaves (wgKeyOf bootAsid 0 0), (s.waveAt e.1).held ≠ .saved)) ∧
    ((savedBase 1).restoreCore (wgKeyOf bootAsid 0 0)).1 = none := by decide +kernel


def ctxBytes (head asid : Nat) : List Byte := leBytes 4 head ++ leBytes 4 asid ++ zeros 32 ++ leBytes 4 1 ++ zeros 212
def described (head asid : Nat) : State := base.memWrite (((List.range 256).map (0x500000 + ·)).zip (ctxBytes head asid))
def faulty : State := onCtx base fun c => { c with fault := some (0, 3), ckpt := 0x600000 }

theorem witness_SystemSteps : (1023 < 1024 ∧ (0x500000#64 : BitVec 64).getLsbD 0 = false ∧ ((0x500001#64 : BitVec 64).getLsbD 0 = true ∧ (0x500001#64).toNat / 2 ^ 8 % 2 ^ 44 * 2 ^ 8 = 0x500000)) ∧
    ((base.ctxAt bootAsid).live = true ∧ (base.ctxAt 1023).live = false) ∧
    (({ base with caches := { base.caches with ue := [(0x500000 / 64, 1#64)] } } : State).physRead 0x500000 256 = none) ∧
    (((described 0x010001C6 1023).physRead 0x500000 256).map (·.1) = some (ctxBytes 0x010001C6 1023) ∧ descriptorBad (ctxBytes 0x010001C6 1023) = true) ∧
    (((described 0x010001C7 1023).physRead 0x500000 256).map (·.1) = some (ctxBytes 0x010001C7 1023) ∧ descriptorBad (ctxBytes 0x010001C7 1023) = false ∧
      fieldOf (ctxBytes 0x010001C7 1023) 4 4 % 2 ^ 10 = 1023 ∧ fieldOf (ctxBytes 0x010001C7 2) 4 4 % 2 ^ 10 ≠ 1023) ∧
    ((faulty.ctxAt bootAsid).fault = some (0, 3) ∧ (faulty.ctxAt bootAsid).live = true ∧ (faulty.ctxAt bootAsid).ckpt ≠ 0 ∧ faulty.eth.up.get false 1 = true) ∧
    (faulty.eng.lease = none ∧ (let s := onCtx (queued faulty) fun c => { c with fsem := 5 }
      (s.ctxAt bootAsid).fault = some (0, 3) ∧ s.semUsable true 0 (s.ctxAt bootAsid).fsem bootAsid = true)) ∧
    (base.sys.underVolt = false ∧ base.sys.boots ≠ 0xFFFF#16 ∧ ({ base.sys with underVolt := true } : Sys).underVolt = true) ∧
    (15 < 16 ∧ base.waves.filter (fun e => e.1 == bootWave) = [(bootWave, bootWaveVal)] ∧ bootWaveVal.resides = true ∧ bootWaveVal.id.die.toNat = 0) ∧
    (base.wgs.find (wgKeyOf bootAsid 0 0) = some bootWg ∧ base.waves.find bootWave = some bootWaveVal ∧ 63 < 64) ∧
    ((copying hubCopy).eng.copies.find 0 = some hubCopy ∧ hubCopy.finished = false) ∧
    (let c := collOf (collBytes 0x10 0) 0 none;
      (colling c base).eng.colls.find 0 = some c ∧ c.status = none) ∧
    (-2147483 ≤ (0x20C49B#32 : BitVec 32).toInt ∧ (0x20C49B#32 : BitVec 32).toInt ≤ 2147483) := by decide +kernel

/-- A pool of two 4 KiB frames at 0x700000, the first in use, and operands of the management actions. -/
def pooled (f : Nat) : State :=
  let s := onCtx base fun c => { c with poolBase := 0x700000, poolSize := 0x2000, poolUsed := [0x700] }
  { s with sys := { s.sys with actOpnd := [(7, BitVec.ofNat 64 f)] } }
def csctl (c : CsCtl) : State := { base with caches := { base.caches with csctl := [(511, c)] } }
def ticketsBase (delivered : Bool) : State := { base with tlbs := { base.tlbs with tickets := [(bootAsid, ⟨1, 0, [⟨1, 0x10000, 4096, delivered⟩]⟩)] } }
def asking : State := { ticketsBase true with sys := { base.sys with actSync := some (bootAsid, 1), actInv := [(bootAsid, 0, 4096)] } }
def acting (n : Nat) (x : Word64) (s : State) : State := { s with sys := { s.sys with actOpnd := [(n, x)] } }
def faulted : State := onWave fun w => { w with st := .parkedFault }

/-- One action 3 that waits, or two, CMD reading 1 or another value; an access that ticket 1 has overtaken and that has not been performed. -/
def askingFor (n : Nat) (cmd : Word64) : State :=
  { asking with sys := { asking.sys with actInv := List.replicate n (bootAsid, 0, 4096), actCmd := [(3, cmd)] } }
def overtakenBase : State := { ticketsBase true with eng := { base.eng with outbox := [⟨none, none, bootAsid, [(0x10, 1)], [(2 ^ 51, 1#8)], [], true, false⟩] } }

theorem witness_ManagementSteps_tickets : ((askingFor 1 1#64).sys.actInv = (bootAsid, 0, 4096) :: [] ∧ actStatus (askingFor 1 1#64) 3 = 1#64) ∧
    ((askingFor 2 1#64).sys.actInv = (bootAsid, 0, 4096) :: [(bootAsid, 0, 4096)] ∧ actStatus (askingFor 1 0#64) 3 ≠ 1#64) ∧
    (((ticketsBase true).ticketsOf bootAsid).open_ = [⟨1, 0x10000, 4096, true⟩] ∧ ¬ stillOut (ticketsBase true) bootAsid 1 ∧ (ticketsBase true).sys.actInv = [] ∧
      ((ticketsBase false).ticketsOf bootAsid).open_ = [⟨1, 0x10000, 4096, false⟩]) ∧
    ((overtakenBase.ticketsOf bootAsid).open_ = [⟨1, 0x10000, 4096, true⟩] ∧ stillOut overtakenBase bootAsid 1) ∧
    ((queued base).hub.semcfg.get 0#64 5 = 0x401#64 ∧ (0x401#64 : BitVec 64) ≠ 0#64 &&& 0x7FF#64 ∧ base.wave.id.asid.toNat = (0x401#64 : BitVec 64).toNat % 2 ^ 10 ∧
      (queued base).hub.semcfg.get 0#64 5 = 0x401#64 &&& 0x7FF#64) := by unfold stillOut; decide +kernel

theorem witness_ManagementSteps_asking : ((asking.ticketsOf bootAsid).open_ = [⟨1, 0x10000, 4096, true⟩] ∧ ¬ stillOut asking bootAsid 1 ∧ asking.sys.actSync = some (bootAsid, 1) ∧
        asking.sys.actInv = [(bootAsid, 0, 4096)] ∧ ([] : List Ticket).length < 16) ∧
    (127 < 128 ∧ 0xFFFFFFF < 0x10000000 ∧ (base.hartModeOf 127).system = true ∧ ((base.setHartMode 127 .vs).hartModeOf 127).system = false ∧
      (zeros 8).length = 8 ∧ (zeros 4).length ≠ 8) := by unfold stillOut; decide +kernel

theorem witness_ManagementSteps : (1023 < 1024 ∧ 131071 < 2 ^ 17 ∧ 511 < 512) ∧
    ((csctl ⟨4#4, 1#10, 2, 1, true, false⟩).csctlAt 511 = ⟨4#4, 1#10, 2, 1, true, false⟩ ∧ 12 < (13#64 : BitVec 64).setWidth 4 ∧
      (csctl CsCtl.reset).csctlAt 511 = CsCtl.reset ∧ CsCtl.reset.pend = false ∧ ((12#64 : BitVec 64).setWidth 4).toNat ≤ 12 ∧
      (csctl ⟨4#4, 1#10, 2, 1, true, false⟩).residentIn 511 1 = false ∧ 2 ≤ (4#4).toNat ∧ (1#10).toNat = 1) ∧
    ((ticketsBase false).ticketsOf bootAsid).open_.find? (fun t => t.num == 1 && !t.delivered) = some ⟨1, 0x10000, 4096, false⟩ ∧
    ((acting 1 77#64 base).resolve bootAsid ((acting 1 77#64 base).opnd 1) = none ∧ (acting 2 77#64 base).resolve bootAsid ((acting 2 77#64 base).opnd 2) = none ∧
      (acting 1 0#64 base).resolve bootAsid ((acting 1 0#64 base).opnd 1) = some bootWave ∧ (faulted.waveAt bootWave).st = .parkedFault ∧
      (base.waveAt bootWave).st ≠ .parkedFault ∧ faulted.waves.filter (fun e => e.1 == bootWave) = [(bootWave, faulted.waveAt bootWave)] ∧
      cmdAsid 1#64 = bootAsid) ∧
    (atinvBad 0x10000 4096 = false ∧ atinvBad 0x10001 4096 = true ∧ ((ticketsBase false).ticketsOf bootAsid).open_.length < 16 ∧
      (let ts := (List.range 16).map fun n => (⟨n + 1, 0, 4096, false⟩ : Ticket);
        16 ≤ ({ issued := 16, acked := 0, open_ := ts } : Tickets).open_.length)) ∧
    ((base.ctxAt (cmdAsid 1#64)).live = true ∧ (base.ctxAt (cmdAsid 2#64)).live = false ∧ (0x20001#64 : BitVec 64).getLsbD 17 = true ∧
      (0x10001#64 : BitVec 64).getLsbD 17 = false) ∧
    (∀ f ∈ [0x700000, 0x701000], let c := (pooled f).ctxAt bootAsid;
      c.live = true ∧ ((pooled f).opnd 7).toNat = f ∧ f % 4096 = 0 ∧ c.poolBase ≤ f ∧ f + 4096 ≤ c.poolBase + c.poolSize) ∧
    (let c := (pooled 0).ctxAt bootAsid;
      (∀ n ∈ frameNumbers 0x700000 false, n ∈ c.poolUsed) ∧ (∀ n ∈ frameNumbers 0x701000 false, n ∉ c.poolUsed) ∧
      (∃ n ∈ frameNumbers 0x701000 false, n ∉ c.poolUsed) ∧ ¬ (c.poolBase ≤ 0x6FF000)) ∧
    (255 < 256 ∧ 7 < 8 ∧ 8 < 9 ∧ (List.replicate 48 0#8).length = 48) := by decide +kernel

/-- Hart 3 holds in E the default object of the page at 0x700000. -/
def pageObj (die : Nat) : CohObj := ⟨0, false, 0x700000, (List.range 64).map (0x1C000 + ·), die, [(3, .e)], 9#16, 1⟩
def hartBase : State :=
  let line : HLine := ⟨List.replicate 64 0#8, .e⟩
  let h : Harts := { base.harts with objs := [(0, pageObj 0)], seqs := [(seqKey 3 0, 9#16)], lines := [(hartKey 3 0x1C000, line)] }
  { base with harts := h }

theorem test_hartAsid : hartBase.hartAsid 3 = 0 := by unfold State.hartAsid State.bindingOf; split <;> decide +kernel

/-- A receive ring and a transmit ring of two descriptors at 0x700000, whose buffer is 0x701000; `f` are the first one's flags. -/
def ringed (f : Nat) : State :=
  let s := base.memWrite (bytePairs 0x700000 8 0x701000 ++ bytePairs 0x700008 2 64 ++ bytePairs 0x70000A 2 f)
  { s with eth := { s.eth with queues := [(ethKey 1 false 255, ⟨0x700000, 2, 0, 0⟩), (ethKey 1 true 255, ⟨0x700000, 2, 0, 0⟩)] } }
def farPend : Pend := ⟨[.vec 3 (List.replicate 64 LaneVal.zero)], 0xF#64, [(1, 2 ^ 51)], 0x10000#64, none, none, false, []⟩
def remotePend : State := onWave fun w => { w with pend := [farPend] }
def sent (acked : Bool) : State := { base with eng := { base.eng with outbox := [⟨some bootWave, none, bootAsid, [], [(2 ^ 51, 1#8)], [], true, acked⟩] } }
/-- A codebook with an entry read from another device, and a collective whose input lies there. -/
def farBook : Codebook := { readyBook with remote := [(2, 2 ^ 51, 0x10000#64)] }
def farBooks : State := onWave fun w => { w with cb := Vector.replicate 4 farBook }
def remoteCopy : State :=
  let s := (copying (copyOf (copyBytes 0x2000 0x10800) true false)).memWrite (bytePairs (bootNode + 0x30) 8 (2 ^ 51))
  s

/-- A second range that maps 0x20000 to another device, and a collective whose input lies there. -/
def farBytes : List Byte :=
  leBytes 4 0x00400102 ++ leBytes 4 0x10 ++ leBytes 8 0x20000 ++ leBytes 8 0x10400 ++ leBytes 8 1 ++ leBytes 8 0x10200 ++ zeros 24
def farColl : Collective := collOf farBytes 0 none
def farBase : State :=
  colling farColl (groupBase.memWrite ([(bootNode + 2, 2#8)] ++ bytePairs (bootNode + 0x40) 8 0x20000 ++ bytePairs (bootNode + 0x48) 8 0x21000 ++
    bytePairs (bootNode + 0x50) 8 (2 ^ 51) ++ bytePairs (bootNode + 0x58) 8 0x8F))

theorem witness_HartAndLinkSteps_collective : farBase.eng.colls.find 0 = some farColl ∧ farColl.status = none ∧
    farBase.groupOf farColl.asid farColl.block = some loneGroup ∧
    (farBase.collRun farColl.asid .load (collInElems farColl.block loneGroup.nrank * fmtUnit (collFmt farColl.block)) (collIn farColl.block)).toOption =
      some [2 ^ 51, 2 ^ 51 + 1, 2 ^ 51 + 2, 2 ^ 51 + 3] ∧ [2 ^ 51, 2 ^ 51 + 1, 2 ^ 51 + 2, 2 ^ 51 + 3].findIdx? isRemote = some 0 := by decide +kernel

theorem witness_HartAndLinkSteps : (127 < 128 ∧ 0 < 8 ∧ 0x700000 % 64 + 8 ≤ 64 ∧ homeDie 0x700000 < 4) ∧
    (hartBase.objOf 0 (0x700000 / 64) = some (0, pageObj 0) ∧ hartBase.harts.objs.find 0 = some (pageObj 0) ∧
      (∀ e ∈ hartBase.harts.lines, e.2.data.length = 64)) ∧
    ((base.harts.objs.filter fun e => e.2.die == homeDie 0x700000 && e.2.declared).length < 65536) ∧
    (hartBase.heldBy 3 0x1C03F = some (0, pageObj 0) ∧ staleProbe (hartBase.harts.seqs.get 0#16 (seqKey 3 0)) 8#16 = true ∧
      staleProbe (hartBase.harts.seqs.get 0#16 (seqKey 3 0)) 9#16 = false) ∧
    (1 < 2 ∧ 255 < 256 ∧ (ringed 3).eth.queues.find (ethKey 1 false 255) = some ⟨0x700000, 2, 0, 0⟩ ∧ (ringed 3).eth.queues.find (ethKey 1 true 255) = some ⟨0x700000, 2, 0, 0⟩ ∧
      (ringed 3).ethDesc 0x700000 = (0x701000, 64, 3) ∧ (ringed 0).ethDesc 0x700000 = (0x701000, 64, 0) ∧ Nat.testBit 3 0 = true ∧ Nat.testBit 3 1 = true ∧
      Nat.testBit 0 0 = false) ∧
    (isRemote 0x700000 = false ∧ isMgmt 0x700000 = false) ∧
    ((remotePend.waveAt bootWave).pend[0]? = some farPend ∧ remotePend.waves.find bootWave = some (remotePend.waveAt bootWave) ∧
      farPend.writes = [.vec 3 (List.replicate 64 LaneVal.zero)]) ∧
    (∀ b ∈ [true, false], (sent b).eng.outbox[0]? = some ⟨some bootWave, none, bootAsid, [], [(2 ^ 51, 1#8)], [], true, b⟩ ∧ (sent b).waves.find bootWave = some bootWaveVal) ∧
    (farBooks.waves.find bootWave = some (farBooks.waveAt bootWave) ∧ (farBooks.waveAt bootWave).cb[(3 : BitVec 2).toNat]? = some farBook ∧ farBook.remote ≠ []) ∧
    (isAppMem 0x2000000000000 = true ∧ 0x2000000000000 % 64 + 8 ≤ 64) ∧
    ((base.hartModeOf 127).system = true ∧ ((base.setHartMode 127 .vs).hartModeOf 127).system = false) ∧
    ((∀ i < 8, base.ueAt (0x700000 + i) = false) ∧
      ({ base with caches := { base.caches with ue := [(0x700000 / 64, 1#64)] } } : State).ueAt 0x700001 = true) ∧
    (let c := copyOf (copyBytes 0x2000 0x10800) true false;
      remoteCopy.eng.copies.find 0 = some c ∧ c.started = true ∧ c.finished = false ∧ (copyDesc c.block).ssp = false) := by decide +kernel

theorem witness_HartAndLinkSteps_served : hartServed hartBase 3 0x700000 8 ∧ hartServed base 127 0x700038 8 := by
  refine ⟨⟨by decide, by decide, by decide, by decide, by decide +kernel, .inl ?_⟩,
    ⟨by decide, by decide, by decide, by decide, by decide +kernel, .inr (by decide +kernel)⟩⟩
  rw [test_hartAsid]; decide +kernel

/-- A line with a damaged word; a cache die that is absent. -/
def damagedLine : State := { base with caches := { base.caches with ue := [(0x700000 / 64, 1#64)] } }
def lostDie : State := { base with sys := { base.sys with qhlth := 0 } }

theorem witness_HartAndLinkSteps_lines : (127 < 128 ∧ 0 < 8 ∧ 0x700000 % 64 + 8 ≤ 64 ∧ homeDie 0x700000 < 4 ∧ damagedLine.ueAt 0x700000 = true) ∧
    ((∀ i < 8, base.absentAt (0x700000 + i) = false) ∧ (∃ i < 8, lostDie.absentAt (0x700000 + i) = true) ∧ ∀ i < 4, base.ueAt (0x700000 + i) = false) ∧
    ([2 ^ 51, 2 ^ 51 + 1, 2 ^ 51 + 2, 2 ^ 51 + 3][3]? = some (2 ^ 51 + 3) ∧ isRemote (2 ^ 51 + 3) = true) := by decide +kernel

theorem witness_HartAndLinkSteps_copy : ∃ bs pas, pas.findIdx? (fun x => isRemote x.1) = some 0 ∧
    (let d := copyDesc (copyBytes 0x2000 0x10800)
     remoteCopy.copyRead (copyOf (copyBytes 0x2000 0x10800) true false) d (d.srcAt 0).1 (d.srcAt 0).2) = .ok bs pas := by
  have h : remoteCopy.copyRun (copyOf (copyBytes 0x2000 0x10800) true false) .load 1 0x10000 = .ok [(2 ^ 51, false)] := by decide +kernel
  have n : (copyDesc (copyBytes 0x2000 0x10800)).ssp = false ∧ (copyDesc (copyBytes 0x2000 0x10800)).srcAt 0 = (0x10000, 1) := by decide +kernel
  exact ⟨_, [(2 ^ 51, false)], by decide, by simp only [State.copyRead, n.1, n.2, h, Bool.false_eq_true, if_false]; rfl⟩

theorem witness_AbsAndClzEntries : base.issuing = true ∧ base.formTrap (oneSource (.v 5#6) (.v 6#6)) false = none ∧
    (0 < 32 ∧ (0x80000000#32 : BitVec 32).toInt = -2 ^ 31 ∧ (0x7FFFFFFF#32 : BitVec 32).toInt ≠ -2 ^ 31) ∧
    (31 < 32 ∧ (0x80000000#32).getLsbD 31 = true ∧ ∀ j < 32, 31 < j → (0x80000000#32).getLsbD j = false) := by decide +kernel

/-- A program of one word that is no instruction. -/
def badWord : State := base.placeCode bootPa 8 0x74000000

theorem witness_WbaseEntry : (base.issuing = true ∧ base.iss.pfx = none ∧ (0#3 : BitVec 3) ≠ 7#3 ∧ (0#3 : BitVec 3).toNat + 2 ≤ base.wg.kern.seg) ∧
    (base.wg.kern.seg < (6#3 : BitVec 3).toNat + 2 ∧ (6#3 : BitVec 3) ≠ 7#3 ∧
      (onWave fun w => { w with regs := { w.regs with wbase := BitVec.ofNat 8 (32 * 6) } }).wave.regs.wbase = BitVec.ofNat 8 (32 * 6)) ∧
    ((prefixed guardXw base).issuing = true ∧ (prefixed guardXw base).iss.pfx.isSome = true) ∧
    (((8#7 : BitVec 7).extractLsb' 3 4 ≠ 0#4) ∧ (1#7 : BitVec 7) ≠ 0#7) ∧
    (badWord.fetchWord badWord.pc.toNat).toOption.map (·.1) = some 0x74000000#32 ∧ hasSecondWord 0x74000000#32 = false ∧
    (decodeWords 0x74000000#32 0#32).toOption = none := by decide +kernel

theorem witness_EncodeThenDecode : Instr.WellFormed (.add false (.v 5#6) (.v 6#6) (.v 7#6)) ∧
    encode (.add false (.v 5#6) (.v 6#6) (.v 7#6)) = some (0x082860E0#32, none) ∧
    Instr.WellFormed (.mma false 5#6 4#6 0x3F#6 0#3 1#3 2#5 false false) ∧
    encode (.mma false 5#6 4#6 0x3F#6 0#3 1#3 2#5 false false) = some (0x48513F00#32, some 0x04400000#32) := by decide +kernel

theorem witness_DecodeThenEncode : (hasSecondWord 0x082860E0#32 = false ∧ decodeWords 0x082860E0#32 0#32 = .ok (.add false (.v 5#6) (.v 6#6) (.v 7#6))) ∧
    (hasSecondWord 0x48513F00#32 = true ∧ decodeWords 0x48513F00#32 0x04400000#32 = .ok (.mma false 5#6 4#6 0x3F#6 0#3 1#3 2#5 false false)) := by
  decide +kernel

/-- Programs: ADDI v3, v3, 1; the pair of a guard and ADD; nothing mapped; an MMA. -/
def program (w : Nat) : State := (State.reset.boot).placeCode bootPa 8 w
def unmapped : State := onCtx State.reset.boot fun c => { c with root := 0x300000 }

theorem witness_StepRunsTheInstruction : ((program 0x0C183001).waves.find bootWave = some bootWaveVal ∧ bootWaveVal.nextSlot = some false ∧
      (program 0x0C183001).chosen.contains bootWave = true ∧ ((program 0x0C183001).latch bootWave false).breaks = false ∧
      State.reset.boot.waves.find bootWave = some bootWaveVal ∧ ({ program 0x0C183001 with issuedNow := [0, 1, 2, 3] } : State).chosen.contains bootWave = false ∧
      ((onCtx (program 0x0C183001) fun c => { c with breaks := [bootVa] }).latch bootWave false).breaks = true) ∧
    (let l := (program 0x0C183001).latch bootWave false;
      (l.fetchInstr l.pc.toNat).toOption.map (·.1) = some (.addi false (.v 3#6) (.v 3#6) 1#12) ∧
      (l.fetchWord l.pc.toNat).toOption.map (·.1) = some 0x0C183001#32 ∧
      decodeBytes (bytesOfWord32 0x0C183001#32) = .ok (.addi false (.v 3#6) (.v 3#6) 1#12, [])) ∧
    (let l := (program 0x082860E07C001000).latch bootWave false;
      (l.fetchInstr l.pc.toNat).toOption.map (·.1) = some (.xw guardXw) ∧
      ((l.fetchInstr l.pc.toNat).toOption.bind fun v => match exec (.xw guardXw) v.2 with
        | .next u => (u.fetchInstr (u.pc.toNat + 4)).toOption.map (·.1)
        | _ => none) = some (.add false (.v 5#6) (.v 6#6) (.v 7#6))) ∧
    (let l := unmapped.latch bootWave false;
      (l.fetchInstr l.pc.toNat).toOption.isNone = true ∧ l.breaks = false) ∧
    (let l := (program 0x0440000048513F00).latch bootWave false;
      (l.fetchInstr l.pc.toNat).toOption.map (·.1) = some (.mma false 5#6 4#6 0x3F#6 0#3 1#3 2#5 false false) ∧
      hasSecondWord 0x48513F00#32 = true ∧ (l.fetchWord (l.pc.toNat + 4)).toOption.map (·.1) = some 0x04400000#32) ∧
    (let l := (program 0x0C183001).latch bootWave false;
      l.fetchXlat l.wave.id.cluster l.wave.id.asid.toNat bootVa = .ok bootPa ∧ l.ueAt bootPa = false) ∧
    ((onWave fun w => { w with st := .parkedS }).waveAt bootWave).runs = false ∧
    ((encode (.nop false)).isSome = true ∧ State.reset.issuing = false) := by decide +kernel

theorem witness_StepsKeepTheInvariant : State.reset.mem.wf = true ∧ (program 0x0C183001).mem.wf = true := by decide +kernel


end Sys2Proof.Tests
end

section
/-!
PROOF. Decoding an encoded instruction: the parts of the fields, the fields of the words of MC and XW, and the instructions by their majors.
-/

namespace Sys2Proof

/-! ## The parts of a field

A format's field can be put together from parts (R161, R167): these lemmas read the parts back, each in the width of its field. -/

theorem extractLsb'_above_append {m n s l : Nat} (x : BitVec m) (y : BitVec n) : (x ++ y).extractLsb' (s + n) l = x.extractLsb' s l := by
  rw [BitVec.extractLsb'_append_eq_of_le (Nat.le_add_left n s), Nat.add_sub_cancel]

@[simp] theorem pad3_low (p : BitVec 3) : (0#4 ++ p : BitVec 7).extractLsb' 0 3 = p := BitVec.extractLsb'_append_eq_right
@[simp] theorem pad3_high (p : BitVec 3) : (0#4 ++ p : BitVec 7).extractLsb' 3 4 = 0#4 := BitVec.extractLsb'_append_eq_left
@[simp] theorem pad4_low (p : BitVec 4) : (0#3 ++ p : BitVec 7).extractLsb' 0 4 = p := BitVec.extractLsb'_append_eq_right
@[simp] theorem pad4_high (p : BitVec 4) : (0#3 ++ p : BitVec 7).extractLsb' 4 3 = 0#3 := BitVec.extractLsb'_append_eq_left
@[simp] theorem pad2_low (p : BitVec 2) : (0#5 ++ p : BitVec 7).extractLsb' 0 2 = p := BitVec.extractLsb'_append_eq_right
@[simp] theorem pad2_high (p : BitVec 2) : (0#5 ++ p : BitVec 7).extractLsb' 2 5 = 0#5 := BitVec.extractLsb'_append_eq_left
@[simp] theorem pad5_low (p : BitVec 5) : (0#2 ++ p : BitVec 7).extractLsb' 0 5 = p := BitVec.extractLsb'_append_eq_right
@[simp] theorem pad5_high (p : BitVec 5) : (0#2 ++ p : BitVec 7).extractLsb' 5 2 = 0#2 := BitVec.extractLsb'_append_eq_left
@[simp] theorem tileFlag_low (x : Bool) (t : BitVec 5) : (0#1 ++ BitVec.ofBool x ++ t : BitVec 7).extractLsb' 0 5 = t :=
  BitVec.extractLsb'_append_eq_right
@[simp] theorem tileFlag_flag (x : Bool) (t : BitVec 5) : (0#1 ++ BitVec.ofBool x ++ t : BitVec 7)[5] = x := by revert x t; decide
@[simp] theorem tileFlag_high (x : Bool) (t : BitVec 5) : (0#1 ++ BitVec.ofBool x ++ t : BitVec 7).extractLsb' 6 1 = 0#1 := by
  revert x t; decide
@[simp] theorem sizePred_low (z p : BitVec 3) : (0#1 ++ z ++ p : BitVec 7).extractLsb' 0 3 = p := BitVec.extractLsb'_append_eq_right
@[simp] theorem sizePred_size (z p : BitVec 3) : (0#1 ++ z ++ p : BitVec 7).extractLsb' 3 3 = z := by revert z p; decide
@[simp] theorem sizePred_high (z p : BitVec 3) : (0#1 ++ z ++ p : BitVec 7).extractLsb' 6 1 = 0#1 := by revert z p; decide

@[simp] theorem imm_low (k : BitVec 2) (i : BitVec 10) : (k ++ i : BitVec 12).extractLsb' 0 10 = i := BitVec.extractLsb'_append_eq_right
@[simp] theorem imm_high (k : BitVec 2) (i : BitVec 10) : (k ++ i : BitVec 12).extractLsb' 10 2 = k := BitVec.extractLsb'_append_eq_left
@[simp] theorem immCond_low (k : BitVec 3) (i : BitVec 9) : (k ++ i : BitVec 12).extractLsb' 0 9 = i := BitVec.extractLsb'_append_eq_right
@[simp] theorem immCond_high (k : BitVec 3) (i : BitVec 9) : (k ++ i : BitVec 12).extractLsb' 9 3 = k := BitVec.extractLsb'_append_eq_left
@[simp] theorem immShift_low (k c : BitVec 6) : (k ++ c : BitVec 12).extractLsb' 0 6 = c := BitVec.extractLsb'_append_eq_right
@[simp] theorem immShift_zeros (k c : BitVec 6) : (k ++ c : BitVec 12).extractLsb' 6 4 = k.extractLsb' 0 4 :=
  extractLsb'_above_append (s := 0) k c
@[simp] theorem immShift_high (k c : BitVec 6) : (k ++ c : BitVec 12).extractLsb' 10 2 = k.extractLsb' 4 2 :=
  extractLsb'_above_append (s := 4) k c
@[simp] theorem movi_imm (i : BitVec 19) : i.extractLsb' 12 7 ++ i.extractLsb' 0 12 = i :=
  (BitVec.extractLsb'_append_extractLsb'_eq_extractLsb' (by rfl)).trans BitVec.extractLsb'_eq_self

@[simp] theorem fn_low (k : BitVec 2) (i : BitVec 3) : (k ++ i : BitVec 5).extractLsb' 0 3 = i := BitVec.extractLsb'_append_eq_right
@[simp] theorem fn_high (k : BitVec 2) (i : BitVec 3) : (k ++ i : BitVec 5).extractLsb' 3 2 = k := BitVec.extractLsb'_append_eq_left
@[simp] theorem fn_bit3 (k : BitVec 2) (i : BitVec 3) : (k ++ i : BitVec 5)[3] = k[0] := by revert k i; decide
@[simp] theorem fn_bit4 (k : BitVec 2) (i : BitVec 3) : (k ++ i : BitVec 5)[4] = k[1] := by revert k i; decide
@[simp] theorem atomFn_low (k : BitVec 1) (i : BitVec 4) : (k ++ i : BitVec 5).extractLsb' 0 4 = i := BitVec.extractLsb'_append_eq_right
@[simp] theorem atomFn_bit4 (k : BitVec 1) (i : BitVec 4) : (k ++ i : BitVec 5)[4] = k[0] := by revert k i; decide
@[simp] theorem twoFlags_low (e x : Bool) : (BitVec.ofBool e ++ BitVec.ofBool x : BitVec 2)[0] = x := by revert e x; decide
@[simp] theorem twoFlags_high (e x : Bool) : (BitVec.ofBool e ++ BitVec.ofBool x : BitVec 2)[1] = e := by revert e x; decide

@[simp] theorem brCond_zero (n : Bool) (p : BitVec 3) : (BitVec.ofBool n ++ p ++ 0#1 : BitVec 5).extractLsb' 0 1 = 0#1 :=
  BitVec.extractLsb'_append_eq_right
@[simp] theorem brCond_pred (n : Bool) (p : BitVec 3) : (BitVec.ofBool n ++ p ++ 0#1 : BitVec 5).extractLsb' 1 3 = p := by revert n p; decide
@[simp] theorem brCond_neg (n : Bool) (p : BitVec 3) : (BitVec.ofBool n ++ p ++ 0#1 : BitVec 5)[4] = n := by revert n p; decide

/-! ## MC words and XW words -/

theorem extractLsb'_extractLsb' {n s l s' l' : Nat} (x : BitVec n) (h : s' + l' ≤ l) :
    (x.extractLsb' s l).extractLsb' s' l' = x.extractLsb' (s + s') l' := by
  apply BitVec.eq_of_getLsbD_eq
  intro i hi
  simp [hi, Nat.add_assoc, show s' + i < l by omega]

/-! The parts of an MC word's fields (R68, R401, R405). -/

section
variable (sw : Bool) (cid : BitVec 6) (mid : BitVec 12) (sub : BitVec 8) {s l : Nat}

theorem mcWord_mid_part (h : s + l ≤ 12) : (mcWord sw cid mid sub).extractLsb' (8 + s) l = mid.extractLsb' s l := by
  rw [← extractLsb'_extractLsb' _ h, mcWord_mid]
theorem mcWord_cid_part (h : s + l ≤ 6) : (mcWord sw cid mid sub).extractLsb' (20 + s) l = cid.extractLsb' s l := by
  rw [← extractLsb'_extractLsb' _ h, mcWord_cid]

variable (x : BitVec 6) (y : BitVec 6) (c : BitVec 7) (t : BitVec 5) (m p : BitVec 3)

@[simp] theorem mcWord_pred1 : (mcWord sw cid (x ++ y) sub).extractLsb' 14 6 = x :=
  (mcWord_mid_part (s := 6) _ _ _ _ (by decide)).trans BitVec.extractLsb'_append_eq_left
@[simp] theorem mcWord_pred2 : (mcWord sw cid (x ++ y) sub).extractLsb' 8 6 = y :=
  (mcWord_mid_part (s := 0) _ _ _ _ (by decide)).trans BitVec.extractLsb'_append_eq_right
@[simp] theorem mcWord_opd : (mcWord sw cid (c ++ t) sub).extractLsb' 13 7 = c :=
  (mcWord_mid_part (s := 5) _ _ _ _ (by decide)).trans BitVec.extractLsb'_append_eq_left
@[simp] theorem mcWord_tile : (mcWord sw cid (c ++ t) sub).extractLsb' 8 5 = t :=
  (mcWord_mid_part (s := 0) _ _ _ _ (by decide)).trans BitVec.extractLsb'_append_eq_right
@[simp] theorem mcWord_map : (mcWord sw (m ++ p) mid sub).extractLsb' 23 3 = m :=
  (mcWord_cid_part (s := 3) _ _ _ _ (by decide)).trans BitVec.extractLsb'_append_eq_left
@[simp] theorem mcWord_cid_low : (mcWord sw (m ++ p) mid sub).extractLsb' 20 3 = p :=
  (mcWord_cid_part (s := 0) _ _ _ _ (by decide)).trans BitVec.extractLsb'_append_eq_right

end

/-! The fields of MMA's second word (R68). -/

section
variable (mapa mapb : BitVec 3) (acc : BitVec 5) (z na : Bool)

theorem mcWord1_eq_append : mcWord1 mapa mapb acc z na =
  (mapa ++ mapb ++ acc ++ BitVec.ofBool z ++ BitVec.ofBool na ++ 0#19 : BitVec (3 + 3 + 5 + 1 + 1 + 19)) := rfl

@[simp] theorem mcWord1_zeros : (mcWord1 mapa mapb acc z na).extractLsb' 0 19 = 0#19 := BitVec.extractLsb'_append_eq_right
@[simp] theorem mcWord1_mapa : (mcWord1 mapa mapb acc z na).extractLsb' 29 3 = mapa := by
  calc _ = (mapa ++ mapb ++ acc ++ BitVec.ofBool z ++ BitVec.ofBool na).extractLsb' 10 3 := extractLsb'_above_append ..
    _ = (mapa ++ mapb ++ acc ++ BitVec.ofBool z).extractLsb' 9 3 := extractLsb'_above_append ..
    _ = (mapa ++ mapb ++ acc).extractLsb' 8 3 := extractLsb'_above_append ..
    _ = (mapa ++ mapb).extractLsb' 3 3 := extractLsb'_above_append ..
    _ = mapa := BitVec.extractLsb'_append_eq_left
@[simp] theorem mcWord1_mapb : (mcWord1 mapa mapb acc z na).extractLsb' 26 3 = mapb := by
  calc _ = (mapa ++ mapb ++ acc ++ BitVec.ofBool z ++ BitVec.ofBool na).extractLsb' 7 3 := extractLsb'_above_append ..
    _ = (mapa ++ mapb ++ acc ++ BitVec.ofBool z).extractLsb' 6 3 := extractLsb'_above_append ..
    _ = (mapa ++ mapb ++ acc).extractLsb' 5 3 := extractLsb'_above_append ..
    _ = (mapa ++ mapb).extractLsb' 0 3 := extractLsb'_above_append (s := 0) ..
    _ = mapb := BitVec.extractLsb'_append_eq_right
@[simp] theorem mcWord1_acc : (mcWord1 mapa mapb acc z na).extractLsb' 21 5 = acc := by
  calc _ = (mapa ++ mapb ++ acc ++ BitVec.ofBool z ++ BitVec.ofBool na).extractLsb' 2 5 := extractLsb'_above_append ..
    _ = (mapa ++ mapb ++ acc ++ BitVec.ofBool z).extractLsb' 1 5 := extractLsb'_above_append ..
    _ = (mapa ++ mapb ++ acc).extractLsb' 0 5 := extractLsb'_above_append (s := 0) ..
    _ = acc := BitVec.extractLsb'_append_eq_right
@[simp] theorem mcWord1_z : (mcWord1 mapa mapb acc z na)[20] = z := by
  rw [← BitVec.getLsbD_eq_getElem, mcWord1_eq_append]; simp only [BitVec.getLsbD_append]; simp
@[simp] theorem mcWord1_na : (mcWord1 mapa mapb acc z na)[19] = na := by
  rw [← BitVec.getLsbD_eq_getElem, mcWord1_eq_append]; simp only [BitVec.getLsbD_append]; simp

end

/-! The fields of an XW word (R161). -/

section
variable (x : Xw)


theorem xwWord_fields : (xwWord x).extractLsb' 31 1 = 0#1 ∧ (xwWord x).extractLsb' 23 3 = x.permA ∧ (xwWord x).extractLsb' 20 3 = x.argA ∧ (xwWord x).extractLsb' 17 3 = x.permB ∧
    (xwWord x).extractLsb' 14 3 = x.argB ∧ (xwWord x).extractLsb' 11 3 = x.pred ∧ (xwWord x).extractLsb' 10 1 = BitVec.ofBool x.pneg ∧
    (xwWord x).extractLsb' 0 10 = x.immhi := by
  have above10 (s l : Nat) : (xwWord x).extractLsb' (s + 10) l =
      (0#1 ++ 31#5 ++ x.permA ++ x.argA ++ x.permB ++ x.argB ++ x.pred ++ BitVec.ofBool x.pneg).extractLsb' s l := extractLsb'_above_append ..
  have above11 (s l : Nat) := (above10 (s + 1) l).trans (extractLsb'_above_append ..)
  have above14 (s l : Nat) := (above11 (s + 3) l).trans (extractLsb'_above_append ..)
  have above17 (s l : Nat) := (above14 (s + 3) l).trans (extractLsb'_above_append ..)
  have above20 (s l : Nat) := (above17 (s + 3) l).trans (extractLsb'_above_append ..)
  have above23 (s l : Nat) := (above20 (s + 3) l).trans (extractLsb'_above_append ..)
  exact ⟨((above23 8 1).trans (extractLsb'_above_append (s := 5) ..)).trans BitVec.extractLsb'_append_eq_left,
    (above23 0 3).trans BitVec.extractLsb'_append_eq_right, (above20 0 3).trans BitVec.extractLsb'_append_eq_right,
    (above17 0 3).trans BitVec.extractLsb'_append_eq_right, (above14 0 3).trans BitVec.extractLsb'_append_eq_right,
    (above11 0 3).trans BitVec.extractLsb'_append_eq_right, (above10 0 1).trans BitVec.extractLsb'_append_eq_right,
    BitVec.extractLsb'_append_eq_right⟩
theorem xwWord_pneg : (xwWord x).getLsbD 10 = x.pneg := by
  obtain ⟨-, -, -, -, -, -, h, -⟩ := xwWord_fields x
  rw [BitVec.getLsbD_eq_extractLsb', h]
  cases x.pneg <;> rfl

@[simp] theorem fSw_xwWord : fSw (xwWord x) = false := by
  obtain ⟨h, -⟩ := xwWord_fields x
  rw [fSw, BitVec.getLsbD_eq_extractLsb', h]
  rfl

/-- XW reads back where a permutation 0 has no argument (R159). -/
theorem decodeWords_xwWord (w1 : Word32) (h : xwOk x = true) : decodeWords (xwWord x) w1 = .ok (.xw x) := by
  obtain ⟨-, permA, argA, permB, argB, pred, -, immhi⟩ := xwWord_fields x
  have ok : ¬ ((x.permA = 0#3 ∧ x.argA ≠ 0#3) ∨ (x.permB = 0#3 ∧ x.argB ≠ 0#3)) := by
    simpa [xwOk, Classical.or_iff_not_imp_left] using h
  simp only [decodeWords, fMajor_xwWord, fSw_xwWord, decXw, permA, argA, permB, argB, pred, xwWord_pneg, immhi, ok]
  rfl

end

/-! ## Reading an instruction back from its words -/

/-- The first word of an instruction says whether there is a second, and its words read back as it (R160, R161). -/
def ReadsBack (i : Instr) : Prop :=
  ∀ w o, encode i = some (w, o) → hasSecondWord w = o.isSome ∧ decodeWords w (o.getD 0#32) = .ok i

namespace ReadsBack

variable {i : Instr} {sw : Bool} {major fn cond : BitVec 5} {d a b : BitVec 7}

theorem of_words {w : Word32} {o : Option Word32} (he : encode i = some (w, o)) (hs : hasSecondWord w = o.isSome)
    (hd : decodeWords w (o.getD 0#32) = .ok i) : ReadsBack i := by
  intro w' o' h'
  obtain ⟨rfl, rfl⟩ : w = w' ∧ o = o' := by simpa [he] using h'
  exact ⟨hs, hd⟩

theorem of_rWord (he : encode i = some (rWord sw major d a b fn, none)) (hm : (major.toNat == 18) = false)
    (hd : decodeWords (rWord sw major d a b fn) 0#32 = .ok i) : ReadsBack i :=
  of_words he (Laws.Enc.rWord_one _ _ _ _ _ _ hm) hd

theorem of_iWord {imm : BitVec 12} (he : encode i = some (iWord sw major d a imm, none)) (hm : (major.toNat == 18) = false)
    (hd : decodeWords (iWord sw major d a imm) 0#32 = .ok i) : ReadsBack i :=
  of_words he (Laws.Enc.iWord_one _ _ _ _ _ hm) hd

theorem of_bWord {off : BitVec 21} (he : encode i = some (bWord sw major cond off, none)) (hm : (major.toNat == 18) = false)
    (hd : decodeWords (bWord sw major cond off) 0#32 = .ok i) : ReadsBack i :=
  of_words he (Laws.Enc.bWord_one _ _ _ _ hm) hd

theorem of_mWord {r : BitVec 4} {c : BitVec 3} (he : encode i = some (mWord sw major d a r c fn, none)) (hm : (major.toNat == 18) = false)
    (hd : decodeWords (mWord sw major d a r c fn) 0#32 = .ok i) : ReadsBack i :=
  of_words he (Laws.Enc.mWord_one _ _ _ _ _ _ _ hm) hd

theorem of_mcWord {c : BitVec 6} {mid : BitVec 12} {sub : BitVec 8} {o : Option Word32} (he : encode i = some (mcWord sw c mid sub, o))
    (hs : (sub.toNat == 0) = o.isSome) (hd : decodeWords (mcWord sw c mid sub) (o.getD 0#32) = .ok i) : ReadsBack i :=
  of_words he ((Laws.Enc.mcWord_words ..).trans hs) hd

theorem of_none (he : encode i = none) : ReadsBack i := by
  intro w o h'
  simp [he] at h'

end ReadsBack

@[simp] theorem mustBeZero_zero (n : Nat) (r : Except DecErr Instr) : mustBeZero 0#n r = r := if_pos rfl
@[simp] theorem listed_some {α : Type} (a : α) (k : α → Except DecErr Instr) : listed (some a) k = k a := rfl
@[simp] theorem FenceKind.ofCode_three : FenceKind.ofCode 3#2 = none := rfl

@[simp] theorem Opd.code_eq_zero (o : Opd) : o.code = 0#7 ↔ o = .v 0#6 := by
  constructor
  · intro h
    rw [← Opd.ofCode_code o, h]
    rfl
  · rintro rfl
    rfl

/-- PHINT and IDEM read back where a B without ranges is zero (R259). -/
theorem decHint_ok (k : BitVec 8 → BitVec 3 → Opd → Instr) (l : BitVec 8) (n : BitVec 3) (b : Opd) (h : hintRangesOk n b = true) :
    decHint k (l.extractLsb' 1 7) (l.extractLsb' 0 1 ++ n ++ 0#3) b.code = .ok (k l n b) := by
  have low : (l.extractLsb' 0 1 ++ n ++ 0#3 : BitVec 7).extractLsb' 0 3 = 0#3 := BitVec.extractLsb'_append_eq_right
  have mid : (l.extractLsb' 0 1 ++ n ++ 0#3 : BitVec 7).extractLsb' 3 3 = n :=
    (extractLsb'_above_append (s := 0) (l := 3) ..).trans BitVec.extractLsb'_append_eq_right
  have top : (l.extractLsb' 0 1 ++ n ++ 0#3 : BitVec 7).extractLsb' 6 1 = l.extractLsb' 0 1 :=
    (extractLsb'_above_append (s := 3) (l := 1) ..).trans BitVec.extractLsb'_append_eq_left
  have hint : l.extractLsb' 1 7 ++ l.extractLsb' 0 1 = l :=
    (BitVec.extractLsb'_append_extractLsb'_eq_extractLsb' (by rfl)).trans BitVec.extractLsb'_eq_self
  have ranges : ¬ (n = 0#3 ∧ b.code ≠ 0#7) := by simpa [hintRangesOk, Classical.or_iff_not_imp_left] using h
  simp only [decHint, low, mid, top, hint, ranges, mustBeZero_zero, if_false, Opd.ofCode_code]

/-- The sizes of an access have other codes than the forms beside them (R393, R441). -/
theorem decLd_ld (sw : Bool) (d o : Opd) (r : BitVec 4) (c : OrdCode) (e x : Bool) (z : MemSize) (h : signExtendOk x z = true) :
    decLd sw d.code o.code r c (BitVec.ofBool e ++ BitVec.ofBool x ++ z.code) = .ok (.ld sw d o r c e x z) := by
  have ext : ¬ (x = true ∧ (z = .b64 ∨ z = .b128)) := by simpa [signExtendOk, imp_iff_not_or] using h
  cases z <;> simp [decLd, MemSize.code, MemSize.ofCode] at ext ⊢ <;> exact ext

theorem decSt_st (sw : Bool) (d o : Opd) (r : BitVec 4) (c : OrdCode) (z : MemSize) :
    decSt sw d.code o.code r c (0#2 ++ z.code) = .ok (.st sw d o r c z) := by
  cases z <;> simp [decSt, MemSize.code, MemSize.ofCode]

/-- PLOG reads back where an operation of one operand leaves B zero (R418). -/
theorem decCmp_plog (sw : Bool) (d a b : BitVec 3) (o : PlogOp) (h : plogOk b o = true) :
    decCmp sw (0#4 ++ d) (0#4 ++ a) (0#4 ++ b) (3#2 ++ o.code) = .ok (.plog sw d a b o) := by
  have zero : ¬ ((o = .not ∨ o = .mov) ∧ (0#4 ++ b : BitVec 7) ≠ 0#7) := by
    revert h
    cases o <;> revert b <;> decide
  simp [decCmp, zero]

/-- BRU reads back where the mode "always" names no predicate (R358). -/
theorem decBranch_bru (sw : Bool) (m : BruMode) (p : BitVec 3) (off : BitVec 21) (h : bruOk m p = true) :
    decBranch 27 sw (m.code ++ p) off = .ok (.bru sw m p off) := by
  have zero : ¬ (m = .always ∧ p ≠ 0#3) := by simpa [bruOk, Classical.or_iff_not_imp_left] using h
  simp [decBranch, zero]

/-- Every well-formed instruction reads back, by the decoder of its major (R167 to R169). -/
theorem readsBack (i : Instr) (hwf : i.WellFormed) : ReadsBack i := by
  cases i with
  -- major 0
  | nop | trap | eret | getsr | setsr | iclk | icul | atinv | atsync | mapr | pkres | pkill =>
    exact .of_rWord rfl rfl (by simp [decodeWords, decSys])
  -- major 1
  | jmpr | callr | ret | exit | join | wbase | qend =>
    exact .of_rWord rfl rfl (by simp [decodeWords, decCtl])
  | phint | idem => exact .of_rWord rfl rfl (by simpa [decodeWords, decCtl] using decHint_ok _ _ _ _ hwf)
  -- major 2
  | add | sub | mul | mulh | mulhU | mad | and | or | xor | shl | shr | sar | min | minU | max | maxU | abs | clz | popc | bfe | bfeU | bfi | sel
    | div | divU | rem | remU | addSat | subSat =>
    exact .of_rWord rfl rfl (by simp [decodeWords, decIop])
  -- majors 3 to 7
  | addi | andi | ori | xori | tsti | shli | shri | sari | roti | cmpi | movi =>
    exact .of_iWord rfl rfl (by simp [decodeWords, decImm])
  -- major 8
  | fadd | fsub | fmul | fma | fmin | fmax | fdiv | fsqrt =>
    exact .of_rWord rfl rfl (by simp [decodeWords, decFop])
  -- major 9
  | fexp | flog | frcp | frsq | fsin | fcos | ftanh | ferf =>
    exact .of_rWord rfl rfl (by simp [decodeWords, decFfn])
  -- major 10
  | mxq | mxdq | terq | frnd =>
    exact .of_rWord rfl rfl (by simp [decodeWords, decCvt])
  | cvt _ _ _ _ f => exact .of_rWord rfl rfl (by cases f <;> simp [decodeWords, decCvt, CvtPair.code, CvtPair.ofCode])
  -- major 11
  | icmp | icmpU | fcmp =>
    exact .of_rWord rfl rfl (by simp [decodeWords, decCmp])
  | plog => exact .of_rWord rfl rfl (by simpa [decodeWords] using decCmp_plog _ _ _ _ _ hwf)
  -- major 12
  | redFadd | ballot | voteAll | voteAny | voteUni | elect | shfl =>
    exact .of_rWord rfl rfl (by simp [decodeWords, decXln])
  | red _ _ _ o | scan _ _ _ o =>
    exact .of_rWord rfl rfl (by cases o <;> simp [decodeWords, decXln, RedOp.code, RedOp.ofCode, ScanOp.code, ScanOp.ofCode])
  -- majors 13 to 16
  | ld => exact .of_mWord rfl rfl (by simpa [decodeWords] using decLd_ld _ _ _ _ _ _ _ _ hwf)
  | ldx _ _ _ _ _ e => exact .of_mWord rfl rfl (by cases e <;> simp [decodeWords, decLd])
  | pref => exact .of_mWord rfl rfl (by simp [decodeWords, decLd])
  | st => exact .of_mWord rfl rfl (by simp [decodeWords, decSt_st])
  | stx => exact .of_mWord rfl rfl (by simp [decodeWords, decSt])
  | atom | atomn => exact .of_mWord rfl rfl (by simp [decodeWords, decAtom])
  | lds | sts | atoms => exact .of_mWord rfl rfl (by simp [decodeWords, decSpm])
  -- majors 17 to 19
  | rld | rset | rget | rchk => exact .of_rWord rfl rfl (by simp [decodeWords, decRec])
  | mma | mwait | mqry | maps => exact .of_mcWord rfl rfl (by simp [decodeWords, decMma])
  | aclr | ard | awr | ast => exact .of_rWord rfl rfl (by simp [decodeWords, decAcc])
  -- majors 20 to 25
  | tcopy | ecmd | semwait | semsig | semrd | launch => exact .of_rWord rfl rfl (by simp [decodeWords, decEng])
  | fence | bar | barc | drain | odecl | orel => exact .of_rWord rfl rfl (by simp [decodeWords, decSync])
  | lock | trylk | unlock | wreg | waitv | wdone | wqry => exact .of_rWord rfl rfl (by simp [decodeWords, decWait])
  | pcls | ebud => exact .of_rWord rfl rfl (by simp [decodeWords, decPwr])
  | wld | cbset | wschk => exact .of_mWord rfl rfl (by simp [decodeWords, decWld])
  | rnd | chkp | ispoi | mkpoi | timew => exact .of_rWord rfl rfl (by simp [decodeWords, decMisc])
  -- majors 26 to 28, and 31
  | br | call => exact .of_bWord rfl rfl (by simp [decodeWords, decBranch])
  | bru => exact .of_bWord rfl rfl (by simpa [decodeWords] using decBranch_bru _ _ _ _ hwf)
  | xw x => exact .of_words rfl (by simp [hasSecondWord]) (decodeWords_xwWord x _ hwf)
  | _ => exact .of_none rfl

/-- What reads back from its words reads back from their bytes, whatever follows them (R5). -/
theorem decodeBytes_bytesOfWord32 (w : Word32) (o : Option Word32) (i : Instr) (rest : List Byte) (hs : hasSecondWord w = o.isSome)
    (hd : decodeWords w (o.getD 0#32) = .ok i) :
    decodeBytes (bytesOfWord32 w ++ (o.map bytesOfWord32).getD [] ++ rest) = .ok (i, rest) := by
  cases o with
  | none => simp_all [bytesOfWord32, decodeBytes, word32OfBytes_bytesOfWord32]
  | some w1 => simp_all [bytesOfWord32, decodeBytes, word32OfBytes_bytesOfWord32]

/-- Settles O55: every encoded instruction reads back from its words, major by major (`readsBack`), and its words from their bytes. -/
theorem encodeThenDecode : Obligations.EncodeThenDecode := by
  unfold Obligations.EncodeThenDecode
  refine ⟨fun i w o hwf he => ?_, fun i => by simp [Machine.isStep]⟩
  obtain ⟨hs, hd⟩ := readsBack i hwf w o he
  exact ⟨hd, hs, fun rest => decodeBytes_bytesOfWord32 w o i rest hs hd⟩

end Sys2Proof
end

section
/-!
PROOF. The stores of ST and STX: how an instruction that changes its wave alone goes on, and what a store leaves in the FIFO.
-/

namespace Sys2Proof.Claims

open Sys2Proof.Machine

/-! ## Going on -/

/-- Retiring leaves the issuing wave as it goes on, also where no slot issues. -/
theorem retireN_eq_goneOn (s : State) (sw : Bool) (n : Nat) : s.retireN sw n = goneOn s s.wave [] sw n := by
  unfold State.retireN State.setPc
  dsimp only
  split
  · next h =>
    simp only [State.retireAt, State.setWave, State.setWaveAt, tally_eq, goneOn, forward, h, List.append_nil]
  · next x h =>
    simp only [State.setWave, setWaveAt_withWave, State.retireAt, withWave_wave, withWave_setWaveAt, withWave_iss, withWave_dueClasses]
    rw [withWave_ctx _ _ _ (by rfl), tally_eq]
    simp only [withWave, goneOn, forward, h, Issue.bytes, List.append_nil]

section
variable (s : State) (w v : Wave) (g : List CycEff) (sw : Bool) (n : Nat)

theorem forward_withWave (p : Pcs) (hp : w.pcs = s.wave.pcs) : forward (withWave s w g) p n = forward s p n := by
  unfold forward
  rw [withWave_pc _ _ _ hp, withWave_iss]

theorem retired_withWave (hd : w.id = s.wave.id) : retired (withWave s w g) v sw = retired s v sw := by
  unfold retired
  rw [withWave_ctx _ _ _ hd, withWave_dueClasses]

/-- A state in which only the issuing wave has changed, but for its place in the program, goes on as the state before. -/
theorem goneOn_withWave (hp : w.pcs = s.wave.pcs) (hd : w.id = s.wave.id) : goneOn (withWave s w []) v g sw n = goneOn s v g sw n := by
  unfold goneOn
  rw [forward_withWave _ _ _ _ _ hp, retired_withWave _ _ _ _ _ hd]
  simp [withWave, FMap.put_put]

/-- An instruction that changes its wave, but for its place in the program, and retires has run. -/
theorem ran_setWave (hp : w.pcs = s.wave.pcs) (hd : w.id = s.wave.id) : Ran s w sw ((s.setWave w).retire sw) := by
  have h : (s.setWave w).retire sw = goneOn s w [] sw 1 := by
    rw [State.setWave, setWaveAt_withWave, State.retire, retireN_eq_goneOn, withWave_wave, goneOn_withWave _ _ _ _ _ _ hp hd]
  exact ⟨h, fun _ _ => h ▸ ⟨rfl, rfl⟩⟩

end

/-! ## Checks that pass -/

theorem guarded_of_none {s : State} (body : State → Out) (hi : s.issuing = true) : s.guarded none body = body s := by
  simp [State.guarded, hi]

theorem withRoom_of_fifoRooms {s : State} {n : Nat} (h : fifoRooms s n) (body : State → Out) : s.withRoom n body = body s := by
  have room : ([false, true].all fun up => decide ((s.wave.fifo.filter fun e => e.takesEntry && e.upper == up).length + n ≤ 64)) = true :=
    List.all_eq_true.2 fun up _ => decide_eq_true (h up)
  rw [State.withRoom, if_pos room]

theorem released_of_hasRoom {s : State} {c : OrdCode} (h : hasRoom (s.releaseAt (ordScope c)) c) (body : State → Out) :
    s.released (ordScope c) body = body (s.releaseAt (ordScope c)) := by
  have hw : (s.releaseAt (ordScope c)).sysWaits (s.releaseAt (ordScope c)).iss.cur (ordScope c) = false := by
    cases c with
    | sys =>
      cases hr : (s.releaseAt (ordScope .sys)).wave.repro with
      | true => simp [State.sysWaits, ← State.wave_def, hr]
      | false => simp [State.sysWaits, h.2 rfl hr]
    | _ => rfl
  simp [State.released, hw]

/-! ## The halves of a pair -/

theorem halfLanes_false {α : Type} (l : List (Nat × α)) : halfLanes false l = l.filter fun e => decide (e.1 < 32) :=
  List.filter_congr fun e _ => by by_cases h : e.1 < 32 <;> simp [h]; omega
theorem halfLanes_true {α : Type} (l : List (Nat × α)) : halfLanes true l = l.filter fun e => decide (32 ≤ e.1) :=
  List.filter_congr fun e _ => by simp

theorem isUpper_halfLanes_false {α : Type} (l : List (Nat × α)) : isUpper (halfLanes false l) = false := by
  simp [isUpper, halfLanes]
theorem isUpper_halfLanes_true {α : Type} (l : List (Nat × α)) (h : halfLanes true l ≠ []) : isUpper (halfLanes true l) = true := by
  obtain ⟨e, he⟩ := List.exists_mem_of_ne_nil _ h
  have h32 : 32 ≤ e.1 := by simpa [halfLanes] using (List.mem_filter.1 he).2
  exact List.any_eq_true.2 ⟨e, he, by simpa using h32⟩

/-- The entries of an instruction, one for each half with lanes (R105). -/
theorem map_byHalf {α : Type} (l : List (Nat × α)) (entry : Bool → List (Nat × α) → Eff) :
    (byHalf l).map (fun cs => entry (isUpper cs) cs) = perHalf l entry := by
  unfold byHalf perHalf
  rw [← halfLanes_false, ← halfLanes_true]
  by_cases hu : halfLanes true l = []
  · simp [hu, isUpper_halfLanes_false]
  · by_cases hl : halfLanes false l = []
    · simp [hu, hl, isUpper_halfLanes_true]
    · simp [hu, hl, isUpper_halfLanes_true, isUpper_halfLanes_false]

/-! ## Translations -/

theorem lookupTouch_eq (s : State) (ext : List Piece) (cluster asid va : Nat) :
    ∃ tlbs, s.lookupTouch ext cluster asid va = { s with tlbs := tlbs } := by
  unfold State.lookupTouch
  split
  · exact ⟨_, rfl⟩
  · split
    · exact ⟨_, rfl⟩
    · exact ⟨_, rfl⟩

/-- Translating addresses changes nothing but the TLBs (R280). -/
theorem touchTlbs_eq (s : State) (r : BufRec) (vas : List Nat) : ∃ tlbs, s.touchTlbs r vas = { s with tlbs := tlbs } := by
  unfold State.touchTlbs
  split
  · exact ⟨_, rfl⟩
  · induction vas generalizing s with
    | nil => exact ⟨_, rfl⟩
    | cons a t ih =>
      obtain ⟨x, hx⟩ := lookupTouch_eq s s.wg.ext s.wave.id.cluster s.asid a
      obtain ⟨y, hy⟩ := ih (s.lookupTouch s.wg.ext s.wave.id.cluster s.asid a)
      rw [List.foldl_cons, hy, hx]
      exact ⟨y, rfl⟩

/-! ## Stores -/

theorem byteCount_eq_memBytes (z : MemSize) : byteCount z = memBytes z := by cases z <;> rfl

/-- A data group of an access has the registers that its bytes fill (R151). -/
theorem memGroup_eq_groupOf (o : Opd) (z : MemSize) : memGroup o (byteCount z) = groupOf o (memBytes z) := by cases z <;> rfl

/-- The flags of the lanes of one half. -/
theorem orAll_map_if {α : Type} (l : List α) (p : α → Bool) (f : α → BitVec 6) :
    orAll (l.map fun e => if p e then f e else 0#6) = (l.filter p).foldl (fun x e => x ||| f e) 0#6 := by
  have key (x : BitVec 6) : (l.map fun e => if p e then f e else 0#6).foldl (· ||| ·) x = (l.filter p).foldl (fun x e => x ||| f e) x := by
    induction l generalizing x with
    | nil => rfl
    | cons e t ih => cases h : p e <;> simp [h, ih]
  exact key 0#6

/-- A store as the model runs it: the instruction's fields and what it stores. -/
def StoreOp.run (i : StoreOp) (s : State) : Out := s.store i.sw i.d i.o i.r i.c i.regBytes i.n i.align i.bad i.enc

theorem exec_of_storeOp {s : State} {i : Instr} {o : StoreOp} (h : storeOp s i = some o) : exec i s = o.run s := by
  cases i <;> simp only [storeOp, reduceCtorEq, Option.some.injEq] at h <;> subst h
  case st => simp [StoreOp.run, exec, execSt, byteCount_eq_memBytes]
  case stx => rfl

/-- The data group of a store is that of its bytes. -/
theorem form_of_storeOp {s : State} {i : Instr} {o : StoreOp} (h : storeOp s i = some o) : o.form = storeForm o.d o.o o.regBytes := by
  have form (z : MemSize) (hz : o.regBytes = byteCount z) : o.form = storeForm o.d o.o o.regBytes := by
    rw [StoreOp.form, storeForm, hz, memGroup_eq_groupOf, byteCount_eq_memBytes]
  cases i <;> simp only [storeOp, reduceCtorEq, Option.some.injEq] at h <;> subst h
  case st z => exact form z rfl
  case stx => exact form .b32 rfl

/-- A wave with entries added to its store FIFO and flags to its halves, its idempotent right cleared (R105, R266, R443). -/
def storedWave (u : Wave) (es : List Eff) (lo hi : BitVec 6) : Wave :=
  { u with fifo := u.fifo ++ es, lo := { u.lo with fflags := u.lo.fflags ||| lo }, hi := { u.hi with fflags := u.hi.fflags ||| hi },
           idem := { u.idem with idv := false } }

theorem setWave_clearIdem_holdAll (s : State) (es : List Eff) (lo hi : BitVec 6) :
    let t := (s.holdAll s.iss.cur es).orFlags s.iss.cur lo hi
    t.setWave t.wave.clearIdem = s.setWave (storedWave s.wave es lo hi) := by
  simp only [State.holdAll, State.orFlags, State.modWaveAt, State.waveAt_setWaveAt, State.setWaveAt_setWaveAt, State.wave_def,
    State.setWaveAt_iss, State.setWave, Wave.clearIdem, storedWave]

/-- The flags of the lanes of one half whose checks passed. -/
theorem orAll_passed (checks : List (Nat × LaneChk)) (up : Bool) (f : Nat → BitVec 6) :
    orAll (checks.map fun e => match e.2 with
      | .ok _ _ => if decide (32 ≤ e.1) == up then f e.1 else 0#6
      | _ => 0#6) = (checks.filter fun e => passed e.2 && decide (32 ≤ e.1) == up).foldl (fun x e => x ||| f e.1) 0#6 := by
  rw [← orAll_map_if]
  congr 1
  refine List.map_congr_left fun e _ => ?_
  obtain ⟨l, c⟩ := e
  cases c <;> simp [passed]

/-- The wave that a store leaves (R105, R442, R443). -/
def StoreOp.wave (o : StoreOp) (s : State) : Wave :=
  let r := s.releaseAt (ordScope o.c)
  storedWave r.wave
    (perHalf (o.checks s) fun up cs => .store (recScratch (s.brec o.r)) (o.c == .nc || chkUncached (o.checks s)) up (o.bytes r cs)
      (accessPages r o.o (s.brec o.r) o.n cs))
    (o.flags s r false) (o.flags s r true)

/-- A store whose checks pass and for which there is room leaves its entries (R105, R442, R443). -/
theorem StoreOp.run_goes (o : StoreOp) (s : State) (hf : o.form = storeForm o.d o.o o.regBytes) (hi : s.issuing = true)
    (hp : storePasses s o.form (o.bad || recBad (s.brec o.r) || o.c == .ord7 || !dataReg o.d || (o.o.isVec && !o.d.isVec && decide (4 < o.regBytes)))
      (o.checks s) (s.storeTok o.form.isVec o.d o.o o.regBytes) o.c) (hr : hasRoom (s.releaseAt (ordScope o.c)) o.c) :
    ∃ t, o.run s = .next t ∧ ∃ tlbs, Ran { (s.releaseAt (ordScope o.c)) with tlbs := tlbs } (o.wave s) o.sw t := by
  obtain ⟨hform, hpick, hpoison, hsys⟩ := hp
  obtain ⟨tlbs, ht⟩ := touchTlbs_eq (s.releaseAt (ordScope o.c)) (s.brec o.r)
    (((o.checks s).filter fun e => !e.2.pas.isEmpty).map fun e =>
      recAddr (s.brec o.r) ((s.releaseAt (ordScope o.c)).offsetOf o.o e.1).bits.toNat)
  let r : State := { (s.releaseAt (ordScope o.c)) with tlbs := tlbs }
  refine ⟨_, ?_, tlbs, ran_setWave r (o.wave s) o.sw rfl rfl⟩
  unfold StoreOp.run State.store
  dsimp only
  rw [← hf, hsys, storeMix, hform]
  change s.guarded (firstTrap [none, none, s.pickTrap o.form.isVec (chkFails (o.checks s)), _]) _ = _
  rw [hpick, hpoison, show firstTrap [none, none, none, none] = none from rfl, guarded_of_none _ hi, released_of_hasRoom hr,
    withRoom_of_fifoRooms hr.1]
  rw [StoreOp.checks] at ht
  rw [ht]
  congr 2
  refine (setWave_clearIdem_holdAll r _ _ _).trans (congrArg r.setWave ?_)
  unfold StoreOp.wave
  congr 1
  · rw [← map_byHalf]
    rfl
  · exact orAll_passed (o.checks s) false fun l => (o.enc (r.dataNum o.form.isVec o.d o.regBytes l)).flags
  · exact orAll_passed (o.checks s) true fun l => (o.enc (r.dataNum o.form.isVec o.d o.regBytes l)).flags

/-- Settles O20: what ST and STX run is one operation, `StoreOp.run`, which leaves its entries where the checks pass. -/
theorem storeEntries : Obligations.StoreEntries := by
  unfold Obligations.StoreEntries
  intro i s o ho hi hp hr
  obtain ⟨t, hrun, tlbs, hran⟩ := o.run_goes s (form_of_storeOp ho) hi hp hr
  exact ⟨t, (exec_of_storeOp ho).trans hrun, tlbs, o.wave s, hran, rfl⟩

end Sys2Proof.Claims
end

section
/-!
PROOF. What operations on memory and the caches leave of the rest of the machine.
-/

namespace Sys2Proof.Machine.FMap

variable {α : Type}

theorem find_isSome_of_mem {m : FMap α} {e : Nat × α} (h : e ∈ m) : (m.find e.1).isSome = true := by
  induction m with
  | nil => simp at h
  | cons x t ih =>
    rw [find_cons]
    rcases List.mem_cons.1 h with rfl | h
    · simp
    · split
      · rfl
      · exact ih h

/-- A map over the entries that keeps their keys. -/
theorem find_map {β : Type} (m : FMap α) (f : Nat × α → β) (k : Nat) :
    find (m.map fun e => (e.1, f e)) k = (find m k).map fun v => f (k, v) := by
  induction m with
  | nil => rfl
  | cons x t ih =>
    obtain ⟨j, v⟩ := x
    simp only [List.map_cons, find_cons, ih]
    split
    · next h => simp [← h]
    · rfl

end Sys2Proof.Machine.FMap

namespace Sys2Proof.Claims

open Sys2Proof.Machine

/-! ## What the memory operations leave of the rest of the machine -/

namespace OnlyMemory

variable {s u v : State}

theorem refl (s : State) : OnlyMemory s s := ⟨rfl, fun _ => rfl⟩

theorem trans (h : OnlyMemory s u) (h' : OnlyMemory u v) : OnlyMemory s v := by
  obtain ⟨e, w⟩ := h
  obtain ⟨e', w'⟩ := h'
  refine ⟨?_, fun k => (w' k).trans (w k)⟩
  rw [e', e]

theorem foldlRecOn {β : Type} {f : State → β → State} (l : List β) (hf : ∀ u, OnlyMemory s u → ∀ b ∈ l, OnlyMemory u (f u b)) :
    OnlyMemory s (l.foldl f s) :=
  List.foldlRecOn l f (motive := OnlyMemory s) (refl s) fun u hu b hb => hu.trans (hf u hu b hb)

theorem foldl {β : Type} {f : State → β → State} (l : List β) (hf : ∀ u b, OnlyMemory u (f u b)) : OnlyMemory s (l.foldl f s) :=
  foldlRecOn l fun u _ b _ => hf u b

/-- An update of the memory, the caches, the harts or the belay table. -/
theorem of_parts (s : State) (m : Memory) (c : Caches) (h : Harts) (b : Belay) :
    OnlyMemory s { s with mem := m, caches := c, harts := h, belay := b } := ⟨rfl, fun _ => rfl⟩

/-- Every listed wave keeps all but its wait and what it counts as left. -/
theorem of_map (s : State) (f : Nat × Wave → Wave) (hf : ∀ e, noWait (f e) = noWait e.2) :
    OnlyMemory s { s with waves := s.waves.map fun e => (e.1, f e) } := by
  refine ⟨rfl, fun k => ?_⟩
  simp only [FMap.find_map]
  cases s.waves.find k <;> simp [hf]

theorem iss (h : OnlyMemory s u) : u.iss = s.iss := by rw [h.1]

/-- Every wave keeps all but its wait and what it counts as left. -/
theorem noWait_waveAt (h : OnlyMemory s u) (k : Nat) : noWait (u.waveAt k) = noWait (s.waveAt k) := by
  have hk := h.2 k
  unfold State.waveAt FMap.get
  cases hs : s.waves.find k <;> cases hu : u.waves.find k <;> simp_all

end OnlyMemory

section
variable (s : State)

theorem memWrite_onlyMemory (l : List (Nat × Byte)) : OnlyMemory s (s.memWrite l) := .of_parts s _ _ _ _
theorem writeBackObj_onlyMemory (o : CohObj) : OnlyMemory s (s.writeBackObj o) := by
  refine .foldl _ fun u e => ?_
  split
  · exact memWrite_onlyMemory ..
  · exact .refl _
theorem probeShared_onlyMemory (k : Nat) (o : CohObj) : OnlyMemory s (s.probeShared k o) :=
  (writeBackObj_onlyMemory s o).trans (.of_parts ..)
theorem probeInvalid_onlyMemory (k : Nat) (o : CohObj) : OnlyMemory s (s.probeInvalid k o) :=
  (writeBackObj_onlyMemory s o).trans (.of_parts ..)
theorem homeTouch_onlyMemory (pa : Nat) : OnlyMemory s (s.homeTouch pa) := by
  refine .foldl _ fun u e => ?_
  split
  · exact probeShared_onlyMemory ..
  · exact .refl _
theorem homeTouches_onlyMemory (pas : List Nat) : OnlyMemory s (s.homeTouches pas) := .foldl _ homeTouch_onlyMemory

theorem dropEntry_onlyMemory (k : Nat) : OnlyMemory s (s.dropEntry k) := .of_parts ..
theorem setMet_onlyMemory {k : Nat} (hk : (s.waves.find k).isSome = true) : OnlyMemory s (s.setMet k) := by
  refine .trans ⟨rfl, fun j => ?_⟩ (dropEntry_onlyMemory _ k)
  obtain ⟨w, hw⟩ := Option.isSome_iff_exists.1 hk
  by_cases h : j = k
  · subst h
    simp [State.waveAt, FMap.get, hw, noWait]
  · simp [FMap.find_put_other _ _ h]
theorem retestValues_onlyMemory (bytes : List (Nat × Byte)) : OnlyMemory s (s.retestValues bytes) := by
  refine .foldlRecOn _ fun u hu e he => ?_
  have hk : (u.waves.find e.1).isSome = true := by
    have h := congrArg Option.isSome (hu.2 e.1)
    simpa [FMap.find_isSome_of_mem he] using h
  split
  · exact .refl _
  · split
    · exact setMet_onlyMemory u hk
    · exact .refl _
theorem homeWrite_onlyMemory (bytes : List (Nat × Byte)) : OnlyMemory s (s.homeWrite bytes) := by
  refine .trans ?_ (retestValues_onlyMemory _ _)
  refine .trans (.foldl _ fun u e => .foldl _ fun v (o : Nat × CohObj) => probeInvalid_onlyMemory v o.1 o.2) (.of_parts ..)

/-- A wave of a cluster whose bytes at these addresses are at their home (R370). -/
def acknowledged (cl : Nat) (pas : List Nat) (w : Wave) : Wave :=
  if (w.id.cluster == cl && !w.left.isEmpty) = true then
    { w with left := (w.left.map fun l => l.filter fun a => !pas.contains a).filter fun l => !l.isEmpty }
  else w

theorem ackBytes_eq (cl : Nat) (pas : List Nat) : s.ackBytes cl pas = { s with waves := s.waves.map fun e => (e.1, acknowledged cl pas e.2) } := by
  unfold State.ackBytes
  congr 1
  refine List.map_congr_left fun e _ => ?_
  unfold acknowledged
  split <;> rfl
theorem ackBytes_onlyMemory (cl : Nat) (pas : List Nat) : OnlyMemory s (s.ackBytes cl pas) := by
  rw [ackBytes_eq]
  refine .of_map s (fun e => acknowledged cl pas e.2) fun e => ?_
  unfold acknowledged
  split <;> rfl
theorem l2WriteBack_onlyMemory (cl : Nat) (p : Nat → Bool) : OnlyMemory s (s.l2WriteBack cl p) :=
  ((homeWrite_onlyMemory s _).trans (ackBytes_onlyMemory _ _ _)).trans (.of_parts ..)
theorem l2Drop_onlyMemory (cl : Nat) (p : Nat → Bool) : OnlyMemory s (s.l2Drop cl p) := .of_parts ..
theorem evictL1_onlyMemory (gc line : Nat) : OnlyMemory s (s.evictL1 gc line) := .of_parts ..
theorem evictL2_onlyMemory (cl line : Nat) : OnlyMemory s (s.evictL2 cl line) :=
  (l2WriteBack_onlyMemory s cl _).trans (l2Drop_onlyMemory _ cl _)
theorem roomL1_onlyMemory (gc line : Nat) : OnlyMemory s (s.roomL1 gc line) := by
  unfold State.roomL1
  split
  · exact evictL1_onlyMemory ..
  · exact .refl _
theorem roomL2_onlyMemory (cl line : Nat) : OnlyMemory s (s.roomL2 cl line) := by
  unfold State.roomL2
  split
  · exact evictL2_onlyMemory ..
  · exact .refl _
theorem fillL2_onlyMemory (cl line : Nat) : OnlyMemory s (s.fillL2 cl line) := by
  unfold State.fillL2
  dsimp only
  split
  · exact .refl _
  · exact ((roomL2_onlyMemory s cl line).trans (homeTouches_onlyMemory _ _)).trans (.of_parts ..)
theorem fillL1_onlyMemory (gc line : Nat) : OnlyMemory s (s.fillL1 gc line) :=
  ((roomL1_onlyMemory s gc line).trans (fillL2_onlyMemory _ _ _)).trans (.of_parts ..)
theorem loadTouch_onlyMemory (gc : Nat) (nc uncached : Bool) (pas : List Nat) : OnlyMemory s (s.loadTouch gc nc uncached pas) := by
  unfold State.loadTouch
  split
  · exact homeTouches_onlyMemory ..
  · refine .foldl _ fun u l => ?_
    split
    · exact .refl _
    · exact fillL1_onlyMemory ..
theorem sliceWrite_onlyMemory (cl : Nat) (bytes : List (Nat × Byte)) : OnlyMemory s (s.sliceWrite cl bytes) :=
  (OnlyMemory.foldl _ fun u l => roomL2_onlyMemory u cl l).trans (.of_parts ..)
theorem wcbWriteLine_onlyMemory (gc line : Nat) : OnlyMemory s (s.wcbWriteLine gc line) := by
  refine .trans (.trans (.trans ?_ (sliceWrite_onlyMemory _ _ _)) (homeWrite_onlyMemory _ _)) (ackBytes_onlyMemory _ _ _)
  exact .of_parts ..
theorem wcbDrain_onlyMemory (gc : Nat) : OnlyMemory s (s.wcbDrain gc) := .foldl _ fun u l => wcbWriteLine_onlyMemory u gc l
theorem roomWcb_onlyMemory (gc line : Nat) : OnlyMemory s (s.roomWcb gc line) := by
  unfold State.roomWcb
  split
  · exact wcbWriteLine_onlyMemory ..
  · exact .refl _
theorem arriveLocal_onlyMemory (gc : Nat) (nc : Bool) (bytes : List (Nat × Byte)) : OnlyMemory s (s.arriveLocal gc nc bytes) := by
  refine .trans (.of_parts s _ _ _ _) (.foldl _ fun u l => ?_)
  exact (roomWcb_onlyMemory u gc l).trans (.of_parts ..)
theorem cscrWrite_onlyMemory (cl : Nat) (bytes : List (Nat × Byte)) : OnlyMemory s (s.cscrWrite cl bytes) := .of_parts ..
theorem flushToHome_onlyMemory (gc pa : Nat) : OnlyMemory s (s.flushToHome gc pa) :=
  (((wcbWriteLine_onlyMemory s gc _).trans (l2WriteBack_onlyMemory _ _ _)).trans (l2Drop_onlyMemory _ _ _)).trans (.of_parts ..)

/-- An atomic in local memory or in cluster scratch changes memory alone (R209). -/
theorem atomAt_onlyMemory (gc : Nat) (cs : Bool) (op : AtomOp) (ord : OrdCode) (a : Nat) (x y : Word32) (h : cs = true ∨ isRemote a = false) :
    OnlyMemory s (s.atomAt gc cs op ord a x y).2 := by
  unfold State.atomAt
  split
  · exact cscrWrite_onlyMemory ..
  · next hcs =>
    rw [if_neg (by simp [h.resolve_left hcs])]
    split
    · exact ((wcbWriteLine_onlyMemory s gc _).trans (loadTouch_onlyMemory ..)).trans ((sliceWrite_onlyMemory ..).trans (.of_parts ..))
    · exact ((wcbWriteLine_onlyMemory s gc _).trans (loadTouch_onlyMemory ..)).trans ((sliceWrite_onlyMemory ..).trans (.of_parts ..))
    · exact ((wcbWriteLine_onlyMemory s gc _).trans (fillL2_onlyMemory ..)).trans (.of_parts ..)
    · exact (flushToHome_onlyMemory s gc a).trans (homeWrite_onlyMemory ..)

end

end Sys2Proof.Claims

end

section
/-!
PROOF. What a core reads, through its L1, its slice and the home: what each cache operation and each lane of an atomic makes of it.
-/

namespace Sys2Proof.Machine.FMap

variable {α β : Type}

/-- Dropping entries by their keys. -/
theorem find_filter (m : FMap α) (p : Nat → Bool) (k : Nat) : find (m.filter fun e => p e.1) k = if p k then find m k else none := by
  induction m with
  | nil => simp
  | cons e t ih =>
    obtain ⟨j, v⟩ := e
    by_cases hk : j = k
    · subst hk
      by_cases hp : p j <;> simp [hp, find_cons, ih]
    · by_cases hp : p j <;> simp [hp, find_cons, hk, ih]

theorem find_none_of_notMem {m : FMap α} {k : Nat} (h : k ∉ m.map Prod.fst) : find m k = none := by
  induction m with
  | nil => rfl
  | cons e t ih =>
    obtain ⟨hj, ht⟩ := List.ne_and_not_mem_of_not_mem_cons h
    obtain ⟨j, v⟩ := e
    rw [find_cons, if_neg (Ne.symm hj), ih ht]

theorem mem_of_find {m : FMap α} {k : Nat} {v : α} (h : find m k = some v) : (k, v) ∈ m := by
  induction m with
  | nil => cases h
  | cons e t ih =>
    obtain ⟨j, x⟩ := e
    rw [find_cons] at h
    split at h
    · next hj => cases h; simp [hj]
    · exact List.mem_cons_of_mem _ (ih h)

theorem find_of_mem {m : FMap α} (hm : Sorted m) {e : Nat × α} (he : e ∈ m) : find m e.1 = some e.2 := by
  induction m with
  | nil => cases he
  | cons x t ih =>
    obtain ⟨hlt, ht⟩ := List.pairwise_cons.1 hm
    obtain ⟨j, v⟩ := x
    rw [find_cons]
    rcases List.mem_cons.1 he with rfl | he
    · rw [if_pos rfl]
    · rw [if_neg (Nat.ne_of_lt (hlt e he)), ih ht he]

theorem sorted_map {m : FMap α} (h : Sorted m) (f : Nat × α → β) : Sorted (m.map fun e => (e.1, f e)) :=
  List.pairwise_map.2 h

section puts
variable (l : List (Nat × α)) (g : Nat → Nat) (f : α → β)

theorem sorted_puts {m : FMap β} (h : Sorted m) : Sorted (l.foldl (fun m e => m.put (g e.1) (f e.2)) m) :=
  List.foldlRecOn l _ h fun m hm _ _ => sorted_put m _ _ hm

/-- Entries put in turn, no key twice. -/
theorem find_puts (hg : ∀ i j, g i = g j → i = j) (hl : (l.map Prod.fst).Nodup) (m : FMap β) (a : Nat) :
    find (l.foldl (fun m e => m.put (g e.1) (f e.2)) m) (g a) = ((find l a).map f).or (find m (g a)) := by
  induction l generalizing m with
  | nil => simp
  | cons e t ih =>
    obtain ⟨j, v⟩ := e
    obtain ⟨hj, ht⟩ := List.nodup_cons.1 hl
    rw [List.foldl_cons, ih ht, find_cons]
    by_cases h : j = a
    · subst h
      simp [find_none_of_notMem hj]
    · rw [if_neg h, find_put_other _ _ fun hg' => h (hg _ _ hg').symm]

/-- Entries set in turn, no key twice. -/
theorem get_sets [DecidableEq α] (d : α) (hg : ∀ i j, g i = g j → i = j) (hl : (l.map Prod.fst).Nodup) (m : FMap α) (a : Nat) :
    get d (l.foldl (fun m e => m.set d (g e.1) e.2) m) (g a) = (find l a).getD (get d m (g a)) := by
  induction l generalizing m with
  | nil => simp
  | cons e t ih =>
    obtain ⟨j, v⟩ := e
    obtain ⟨hj, ht⟩ := List.nodup_cons.1 hl
    rw [List.foldl_cons, ih ht, find_cons]
    by_cases h : j = a
    · subst h
      simp [find_none_of_notMem hj]
    · rw [if_neg h, get_set_other _ _ _ fun hg' => h (hg _ _ hg').symm]

/-- Entries set in turn to values that their keys have. -/
theorem get_sets_of_forall [DecidableEq α] (d : α) {v : Nat → α} (hl : ∀ e ∈ l, e.2 = v e.1) (m : FMap α) (a : Nat) :
    get d (l.foldl (fun m e => m.set d e.1 e.2) m) a = if a ∈ l.map Prod.fst then v a else get d m a := by
  induction l generalizing m with
  | nil => rfl
  | cons e t ih =>
    obtain ⟨j, x⟩ := e
    have hx : x = v j := hl (j, x) (by simp)
    rw [List.foldl_cons, ih (fun e he => hl e (by simp [he])), get_set]
    rcases eq_or_ne a j with rfl | h
    · simp [hx]
    · simp only [List.map_cons, List.mem_cons, h, false_or, if_false]

end puts

end Sys2Proof.Machine.FMap

namespace Sys2Proof.Claims

open Sys2Proof.Machine

/-! ## Keys of the caches -/

theorem unitKey_inj (u i j : Nat) (h : unitKey u i = unitKey u j) : i = j := Nat.add_left_cancel h
theorem keyUnit_unitKey (u : Nat) {a : Nat} (ha : a < 2 ^ 52) : keyUnit (unitKey u a) = u := by unfold keyUnit unitKey; omega
theorem keyAddr_unitKey (u : Nat) {a : Nat} (ha : a < 2 ^ 52) : keyAddr (unitKey u a) = a := by unfold keyAddr unitKey; omega
theorem unitKey_keyAddr (k : Nat) : unitKey (keyUnit k) (keyAddr k) = k := by unfold keyUnit keyAddr unitKey; omega
theorem keyAddr_lt (k : Nat) : keyAddr k < 2 ^ 52 := Nat.mod_lt _ (by decide)

/-! ## The home, when no hart holds a line -/

theorem homeRead_of_noLines {s : State} (h : s.harts.lines = []) (a : Nat) : s.homeRead a = s.mem.read a := by
  simp [State.homeRead, Harts.dirtyLine, h]

/-- Memory and the caches are as before, and no hart holds a line. -/
structure Still (s u : State) : Prop where
  mem : u.mem = s.mem
  caches : u.caches = s.caches
  harts : u.harts.lines = []

namespace Still

theorem refl {s : State} (h : s.harts.lines = []) : Still s s := ⟨rfl, rfl, h⟩
theorem trans {s u v : State} (h : Still s u) (h' : Still u v) : Still s v := ⟨h'.mem.trans h.mem, h'.caches.trans h.caches, h'.harts⟩
theorem foldl {s : State} {β : Type} {f : State → β → State} (l : List β) (hf : ∀ u b, u.harts.lines = [] → Still u (f u b))
    (h : s.harts.lines = []) : Still s (l.foldl f s) :=
  List.foldlRecOn l f (motive := Still s) (refl h) fun u hu b _ => hu.trans (hf u b hu.harts)

end Still

section still
variable {s : State} (h : s.harts.lines = [])
include h

theorem probeShared_still (k : Nat) (o : CohObj) : Still s (s.probeShared k o) := by
  simp [State.probeShared, State.writeBackObj, h, Still.mk]
theorem probeInvalid_still (k : Nat) (o : CohObj) : Still s (s.probeInvalid k o) := by
  simp [State.probeInvalid, State.writeBackObj, h, Still.mk]
theorem homeTouch_still (a : Nat) : Still s (s.homeTouch a) := by
  refine .foldl _ (fun u e hu => ?_) h
  split
  · exact probeShared_still hu ..
  · exact .refl hu
theorem homeTouches_still (pas : List Nat) : Still s (s.homeTouches pas) := .foldl _ (fun _ a hu => homeTouch_still hu a) h
theorem retestValues_still (bytes : List (Nat × Byte)) : Still s (s.retestValues bytes) := by
  refine .foldl _ (fun u e hu => ?_) h
  split
  · exact .refl hu
  · split
    · exact ⟨rfl, rfl, hu⟩
    · exact .refl hu
theorem ackBytes_still (cl : Nat) (pas : List Nat) : Still s (s.ackBytes cl pas) := ⟨rfl, rfl, h⟩

end still

theorem ueStored_eq (c : Caches) (a : Nat) : ∃ ue, c.ueStored a = { c with ue := ue } ∧ ∀ k, c.ue.find k = none → ue.find k = none := by
  unfold Caches.ueStored
  split
  · exact ⟨_, rfl, fun _ h => h⟩
  · next m hm =>
    have found {k : Nat} (hk : c.ue.find k = none) : k ≠ a / 64 := fun e => by simp [← e, hk] at hm
    dsimp only
    split
    · exact ⟨_, rfl, fun k hk => (FMap.find_erase_other _ (found hk)).trans hk⟩
    · exact ⟨_, rfl, fun k hk => (FMap.find_put_other _ _ (found hk)).trans hk⟩

theorem ueStored_foldl (l : List (Nat × Byte)) (c : Caches) :
    ∃ ue, l.foldl (fun c e => c.ueStored e.1) c = { c with ue := ue } ∧ ∀ k, c.ue.find k = none → ue.find k = none := by
  induction l generalizing c with
  | nil => exact ⟨_, rfl, fun _ h => h⟩
  | cons e t ih =>
    obtain ⟨x, hx, hx'⟩ := ueStored_eq c e.1
    obtain ⟨y, hy, hy'⟩ := ih (c.ueStored e.1)
    rw [hx] at hy hy'
    exact ⟨y, by rw [List.foldl_cons, hx, hy], fun k hk => hy' k (hx' k hk)⟩

/-- What writes at the home do when no hart holds a line: bytes of absent runs apart, memory takes them, and damaged words may become
whole (R268, R463). -/
theorem homeWrite_of_noLines {s : State} (h : s.harts.lines = []) (bytes : List (Nat × Byte)) :
    ∃ ue, Still { s with mem := (bytes.filter fun e => !s.absentAt e.1).foldl (fun m e => m.write e.1 e.2) s.mem,
                         caches := { s.caches with ue := ue } } (s.homeWrite bytes) ∧
      ∀ k, s.caches.ue.find k = none → ue.find k = none := by
  let stored := bytes.filter fun e => !s.absentAt e.1
  let v := stored.foldl (fun s e => (s.heldObjs (e.1 / 64)).foldl (fun s o => s.probeInvalid o.1 o.2) s) s
  let w : State := { (v.memWrite stored) with caches := stored.foldl (fun c e => c.ueStored e.1) v.caches }
  have probed : Still s v := .foldl _ (fun u e hu => .foldl _ (fun v (o : Nat × CohObj) hv => probeInvalid_still hv o.1 o.2) hu) h
  obtain ⟨ue, hue, hmono⟩ := ueStored_foldl stored s.caches
  have written : Still { s with mem := stored.foldl (fun m e => m.write e.1 e.2) s.mem, caches := { s.caches with ue := ue } } w := by
    refine ⟨?_, ?_, probed.harts⟩
    · rw [← probed.mem]
      rfl
    · rw [← hue, ← probed.caches]
  exact ⟨ue, written.trans (retestValues_still written.harts stored), hmono⟩

/-! ## Evictions, when no hart holds a line -/

/-- The bytes that a write-back of a slice takes home. -/
def dirtyBytes (s : State) (cl : Nat) (p : Nat → Bool) : List (Nat × Byte) :=
  (s.caches.l2.filter fun e => keyUnit e.1 == cl && e.2.dirty && p (keyAddr e.1)).map fun e => (keyAddr e.1, e.2.val)

/-- A byte of a slice after the write-back of those that satisfy a test. -/
def cleaned (cl : Nat) (p : Nat → Bool) (e : Nat × L2Byte) : L2Byte :=
  if (keyUnit e.1 == cl && p (keyAddr e.1)) = true then ⟨e.2.val, false⟩ else e.2

theorem l2WriteBack_of_noLines {s : State} (hl : s.harts.lines = []) (cl : Nat) (p : Nat → Bool) :
    ∃ ue, Still { s with
        mem := ((dirtyBytes s cl p).filter fun e => !s.absentAt e.1).foldl (fun m e => m.write e.1 e.2) s.mem,
        caches := { s.caches with ue := ue, l2 := s.caches.l2.map fun e => (e.1, cleaned cl p e) } } (s.l2WriteBack cl p) ∧
      ∀ k, s.caches.ue.find k = none → ue.find k = none := by
  obtain ⟨ue, written, hue⟩ := homeWrite_of_noLines hl (dirtyBytes s cl p)
  obtain ⟨hm, hc, hh⟩ := written
  refine ⟨ue, ⟨hm, ?_, hh⟩, hue⟩
  have hmap : (fun e : Nat × L2Byte => (e.1, cleaned cl p e)) =
      fun e => if (keyUnit e.1 == cl && p (keyAddr e.1)) = true then (e.1, ⟨e.2.val, false⟩) else e := by
    funext e
    unfold cleaned
    split <;> rfl
  have hw : (s.l2WriteBack cl p).caches = { (s.homeWrite (dirtyBytes s cl p)).caches with
      l2 := (s.homeWrite (dirtyBytes s cl p)).caches.l2.map
        fun e => if (keyUnit e.1 == cl && p (keyAddr e.1)) = true then (e.1, L2Byte.mk e.2.val false) else e } := rfl
  rw [hw, hc, hmap]

theorem find_giveUp {s : State} (hl : s.harts.lines = []) (p : Nat → Bool) {cl a : Nat} (ha : a < 2 ^ 52)
    (hn : s.caches.l2.find (unitKey cl a) = none ∨ p a = true) :
    ((s.l2WriteBack cl p).l2Drop cl p).caches.l2.find (unitKey cl a) = none := by
  obtain ⟨ue, ⟨-, hc, -⟩, -⟩ := l2WriteBack_of_noLines hl cl p
  refine (FMap.find_filter _ (fun k => !(keyUnit k == cl && p (keyAddr k))) _).trans ?_
  rw [hc, FMap.find_map, keyUnit_unitKey _ ha, keyAddr_unitKey _ ha]
  rcases hn with hn | hp
  · simp [hn]
  · simp [hp]

theorem find_roomL2 {s : State} (hl : s.harts.lines = []) (line : Nat) {cl a : Nat} (ha : a < 2 ^ 52)
    (hn : s.caches.l2.find (unitKey cl a) = none) :
    (s.roomL2 cl line).caches.l2.find (unitKey cl a) = none := by
  unfold State.roomL2
  split
  · exact find_giveUp hl _ ha (.inl hn)
  · exact hn

theorem lineBytes_lt {line a : Nat} (hl : line < 2 ^ 45) (ha : a ∈ lineBytes line) : a < 2 ^ 52 := by
  obtain ⟨i, hi, rfl⟩ := List.mem_map.1 ha
  have := List.mem_range.1 hi
  omega

/-! ## Words -/

/-- What a byte is after some are written. -/
def overlaid (V : Nat → Byte) (l : List (Nat × Byte)) (a : Nat) : Byte := (FMap.find l a).getD (V a)

theorem overlaid_of_notMem {V : Nat → Byte} {l : List (Nat × Byte)} {a : Nat} (h : a ∉ l.map Prod.fst) : overlaid V l a = V a := by
  simp [overlaid, FMap.find_none_of_notMem h]

theorem toNat_append_byte {n : Nat} (x : BitVec n) (b : Byte) : (x ++ b).toNat = 256 * x.toNat + b.toNat := by
  rw [BitVec.toNat_append, ← Nat.shiftLeft_add_eq_or_of_lt b.isLt, Nat.shiftLeft_eq, Nat.mul_comm]

theorem word32Of_fourAt (f : Nat → Byte) (a : Nat) : word32Of ((fourAt a).map f) = wordAt f a := by
  apply BitVec.eq_of_toNat_eq
  have h0 := (f a).isLt
  have h1 := (f (a + 1)).isLt
  have h2 := (f (a + 2)).isLt
  have h3 := (f (a + 3)).isLt
  simp only [wordAt, toNat_append_byte, word32Of, fourAt, numOfBytes, List.range, List.range.loop, List.map_cons, List.map_nil,
    List.foldr_cons, List.foldr_nil, BitVec.toNat_ofNat, Nat.add_zero]
  omega

theorem bytePairs_four (a n : Nat) : bytePairs a 4 n = [(a, BitVec.ofNat 8 n), (a + 1, BitVec.ofNat 8 (n / 256)),
    (a + 2, BitVec.ofNat 8 (n / 256 / 256)), (a + 3, BitVec.ofNat 8 (n / 256 / 256 / 256))] := rfl

theorem map_fst_bytePairs_four (a n : Nat) : (bytePairs a 4 n).map Prod.fst = [a, a + 1, a + 2, a + 3] := rfl

theorem nodup_bytePairs_four (a n : Nat) : ((bytePairs a 4 n).map Prod.fst).Nodup := by
  simp [map_fst_bytePairs_four]

theorem mem_bytePairs_four {a n : Nat} {e : Nat × Byte} (he : e ∈ bytePairs a 4 n) : a ≤ e.1 ∧ e.1 < a + 4 := by
  have h : e.1 ∈ (bytePairs a 4 n).map Prod.fst := List.mem_map_of_mem he
  simp only [map_fst_bytePairs_four, List.mem_cons, List.not_mem_nil, or_false] at h
  omega

theorem word_of_bytes (x : Word32) : BitVec.ofNat 8 (x.toNat / 256 / 256 / 256) ++ BitVec.ofNat 8 (x.toNat / 256 / 256) ++
    BitVec.ofNat 8 (x.toNat / 256) ++ BitVec.ofNat 8 x.toNat = x := by
  apply BitVec.eq_of_toNat_eq
  have hx := x.isLt
  simp only [toNat_append_byte, BitVec.toNat_ofNat]
  omega

theorem wordAt_congr {f V : Nat → Byte} {a : Nat} (h : ∀ i, a ≤ i → i < a + 4 → f i = V i) : wordAt f a = wordAt V a := by
  rw [wordAt, wordAt, h a (by omega) (by omega), h (a + 1) (by omega) (by omega), h (a + 2) (by omega) (by omega),
    h (a + 3) (by omega) (by omega)]

/-- A word written over bytes is read back, and no other word changes (R5). -/
theorem wordAt_overlaid (V : Nat → Byte) {a b : Nat} (ha : a % 4 = 0) (hb : b % 4 = 0) (x : Word32) :
    wordAt (overlaid V (bytePairs a 4 x.toNat)) b = if b = a then x else wordAt V b := by
  split
  · next h =>
    subst h
    simp only [wordAt, overlaid, bytePairs_four, FMap.find_cons]
    simpa using word_of_bytes x
  · next h =>
    refine wordAt_congr fun i h0 h1 => overlaid_of_notMem fun hm => ?_
    simp only [map_fst_bytePairs_four, List.mem_cons, List.not_mem_nil, or_false] at hm
    omega

theorem isRemote_of_lt {a : Nat} (h : a < 2 ^ 51) : isRemote a = false := by
  unfold isRemote
  rw [Nat.mod_eq_of_lt (by omega)]
  simpa using h

/-- A lane of an atomic is done: it answers its word of `V`, and what `I` says of memory holds with the operation's result there (R345). -/
def LaneDone (I : (Nat → Byte) → State → Prop) (V : Nat → Byte) (op : AtomOp) (a : Nat) (x y : Word32) (r : Word32 × State) : Prop :=
  r.1 = wordAt V a ∧ I (overlaid V (bytePairs a 4 (atomNew op (wordAt V a) x y).toNat)) r.2

theorem word_of_reads {f V : Nat → Byte} {a : Nat} (h : ∀ i, a ≤ i → i < a + 4 → f i = V i) : word32Of ((fourAt a).map f) = wordAt V a :=
  (word32Of_fourAt f a).trans (wordAt_congr h)

/-! ## What a core and its slice serve -/

/-- A core reads `V` (R206): what its slice and its L1 hold are bytes of `V`, as the home's are where the slice holds none dirty; dirty
bytes have a home; no hart and no write-combining buffer holds anything. `s` is `s0` but for memory, and no more of it is damaged. -/
structure Serves (s0 : State) (gc : Nat) (V : Nat → Byte) (s : State) : Prop where
  frame : OnlyMemory s0 s
  harts : s.harts.lines = []
  wcb : s.caches.wcb = []
  sorted : FMap.Sorted s.caches.l2
  sound : ∀ k, s0.caches.ue.find k = none → s.caches.ue.find k = none
  near : ∀ a < 2 ^ 52, ∀ b, s.caches.l1.find (unitKey gc a) = some b → b = V a
  slice : ∀ a < 2 ^ 52, ∀ b, s.caches.l2.find (unitKey (gc / 4) a) = some b → b.val = V a ∧ (b.dirty = true → s.absentAt a = false)
  home : ∀ a < 2 ^ 52, (∀ b, s.caches.l2.find (unitKey (gc / 4) a) = some b → b.dirty = false) → s.mem.read a = V a

theorem OnlyMemory.absentAt {s u : State} (h : OnlyMemory s u) (a : Nat) : u.absentAt a = s.absentAt a := by
  unfold State.absentAt
  rw [h.1]

theorem absentAt_near (s : State) {a i : Nat} (ha : a % 4 = 0) (h0 : a ≤ i) (h1 : i < a + 4) : s.absentAt i = s.absentAt a := by
  have : homeDie i = homeDie a := by unfold homeDie; omega
  unfold State.absentAt
  rw [this]

namespace Serves

variable {s0 s u : State} {gc : Nat} {V : Nat → Byte}

theorem ueAt (h : Serves s0 gc V s) {a : Nat} (ha : s0.ueAt a = false) : s.ueAt a = false := by
  obtain ⟨hue, habs⟩ := Bool.or_eq_false_iff.1 ha
  unfold State.ueAt
  rw [h.frame.absentAt, habs, h.sound _ (Option.isSome_eq_false_iff.1 hue |> Option.isNone_iff_eq_none.1)]
  rfl

theorem homeRead (h : Serves s0 gc V s) {a : Nat} (ha : a < 2 ^ 52) (hn : s.caches.l2.find (unitKey (gc / 4) a) = none) : s.homeRead a = V a := by
  rw [homeRead_of_noLines h.harts, h.home a ha fun b hb => by simp [hn] at hb]

theorem sliceByte (h : Serves s0 gc V s) {a : Nat} (ha : a < 2 ^ 52) : s.sliceByte (gc / 4) a = V a := by
  unfold State.sliceByte
  cases hb : s.caches.l2.find (unitKey (gc / 4) a) with
  | some b => exact (h.slice a ha b hb).1
  | none => exact h.homeRead ha hb

theorem cachedByte (h : Serves s0 gc V s) {a : Nat} (ha : a < 2 ^ 52) : s.cachedByte gc a = V a := by
  unfold State.cachedByte
  cases hb : s.caches.l1.find (unitKey gc a) with
  | some b => exact h.near a ha b hb
  | none =>
    rw [h.wcb]
    exact h.sliceByte ha

/-- What changes neither memory nor the caches. -/
theorem still (h : Serves s0 gc V s) (hs : Still s u) (ho : OnlyMemory s u) : Serves s0 gc V u := by
  obtain ⟨hm, hc, hl⟩ := hs
  refine ⟨h.frame.trans ho, hl, ?_, ?_, ?_, ?_, ?_, ?_⟩ <;> rw [hc]
  · exact h.wcb
  · exact h.sorted
  · exact h.sound
  · exact h.near
  · exact fun a ha b hb => ⟨(h.slice a ha b hb).1, fun hd => (ho.absentAt a).trans ((h.slice a ha b hb).2 hd)⟩
  · exact fun a ha hb => (congrArg (Memory.read · a) hm).trans (h.home a ha hb)

/-- Any change of the L1 that keeps its bytes bytes of `V`. -/
theorem setL1 (h : Serves s0 gc V s) {l1 : FMap Byte} (hl : ∀ a < 2 ^ 52, ∀ b, l1.find (unitKey gc a) = some b → b = V a) :
    Serves s0 gc V { s with caches := { s.caches with l1 := l1 } } :=
  ⟨h.frame.trans (.of_parts ..), h.harts, h.wcb, h.sorted, h.sound, hl, h.slice, h.home⟩

theorem filterL1 (h : Serves s0 gc V s) (p : Nat → Bool) :
    Serves s0 gc V { s with caches := { s.caches with l1 := s.caches.l1.filter fun e => p e.1 } } :=
  h.setL1 fun a ha b hb => h.near a ha b (by
    rw [FMap.find_filter] at hb
    split at hb
    · exact hb
    · cases hb)

/-! ### Evictions -/

theorem mem_dirtyBytes (h : Serves s0 gc V s) (p : Nat → Bool) (e : Nat × Byte) :
    e ∈ dirtyBytes s (gc / 4) p ↔ e.1 < 2 ^ 52 ∧ p e.1 = true ∧ s.caches.l2.find (unitKey (gc / 4) e.1) = some ⟨e.2, true⟩ := by
  constructor
  · intro he
    obtain ⟨⟨k, v, d⟩, hx, rfl⟩ := List.mem_map.1 he
    obtain ⟨hmem, hk⟩ := List.mem_filter.1 hx
    obtain ⟨⟨hu, hd⟩, hp⟩ : (keyUnit k = gc / 4 ∧ d = true) ∧ p (keyAddr k) = true := by simpa using hk
    refine ⟨keyAddr_lt k, hp, ?_⟩
    rw [← hu, unitKey_keyAddr, ← hd]
    exact FMap.find_of_mem h.sorted hmem
  · rintro ⟨hlt, hp, hf⟩
    refine List.mem_map.2 ⟨_, List.mem_filter.2 ⟨FMap.mem_of_find hf, ?_⟩, ?_⟩
    · simp [keyUnit_unitKey _ hlt, keyAddr_unitKey _ hlt, hp]
    · simp [keyAddr_unitKey _ hlt]

/-- Writing back a slice's dirty bytes leaves what its core reads, and the bytes clean. -/
theorem l2WriteBack (h : Serves s0 gc V s) (p : Nat → Bool) :
    Serves s0 gc V (s.l2WriteBack (gc / 4) p) ∧
      ∀ a < 2 ^ 52, p a = true → ∀ b, (s.l2WriteBack (gc / 4) p).caches.l2.find (unitKey (gc / 4) a) = some b → b.dirty = false := by
  have frame : OnlyMemory s (s.l2WriteBack (gc / 4) p) := l2WriteBack_onlyMemory ..
  obtain ⟨ue, ⟨hm, hc, hl⟩, hue⟩ := l2WriteBack_of_noLines h.harts (gc / 4) p
  have held {a : Nat} (ha : a < 2 ^ 52) : (s.l2WriteBack (gc / 4) p).caches.l2.find (unitKey (gc / 4) a) =
      (s.caches.l2.find (unitKey (gc / 4) a)).map fun b => if p a = true then ⟨b.val, false⟩ else b := by
    rw [hc, FMap.find_map]
    simp [cleaned, keyUnit_unitKey _ ha, keyAddr_unitKey _ ha]
  have mem (a : Nat) : (s.l2WriteBack (gc / 4) p).mem.read a =
      if a ∈ ((dirtyBytes s (gc / 4) p).filter fun e => !s.absentAt e.1).map Prod.fst then V a else s.mem.read a := by
    rw [hm]
    refine FMap.get_sets_of_forall _ _ (fun e he => ?_) _ _
    obtain ⟨hlt, -, hf⟩ := (h.mem_dirtyBytes p e).1 (List.mem_filter.1 he).1
    exact (h.slice _ hlt _ hf).1
  refine ⟨⟨h.frame.trans frame, hl, ?_, ?_, ?_, ?_, ?_, ?_⟩, ?_⟩
  · rw [hc]; exact h.wcb
  · rw [hc]; exact FMap.sorted_map h.sorted _
  · rw [hc]; exact fun k hk => hue k (h.sound k hk)
  · rw [hc]; exact h.near
  · intro a ha b hb
    rw [held ha] at hb
    obtain ⟨x, hx, rfl⟩ := Option.map_eq_some_iff.1 hb
    rw [frame.absentAt]
    obtain ⟨hv, hd⟩ := h.slice a ha x hx
    split
    · exact ⟨hv, fun h => by cases h⟩
    · exact ⟨hv, hd⟩
  · intro a ha hb
    rw [mem]
    split
    · rfl
    · next hn =>
      refine h.home a ha fun b hf => Bool.eq_false_iff.2 fun hd => hn ?_
      obtain ⟨v, d⟩ := b
      obtain rfl : d = true := hd
      have hp : p a = true := by
        by_contra hp
        simpa [hp] using hb ⟨v, true⟩ (by rw [held ha, hf]; simp [hp])
      refine List.mem_map.2 ⟨(a, v), List.mem_filter.2 ⟨(h.mem_dirtyBytes p _).2 ⟨ha, hp, hf⟩, ?_⟩, rfl⟩
      simp [(h.slice a ha _ hf).2 rfl]
  · intro a ha hp b hb
    rw [held ha] at hb
    obtain ⟨x, -, rfl⟩ := Option.map_eq_some_iff.1 hb
    simp [hp]

/-- Dropping clean bytes of a slice leaves what its core reads. -/
theorem l2Drop (h : Serves s0 gc V s) (p : Nat → Bool)
    (hp : ∀ a < 2 ^ 52, p a = true → ∀ b, s.caches.l2.find (unitKey (gc / 4) a) = some b → b.dirty = false) :
    Serves s0 gc V (s.l2Drop (gc / 4) p) := by
  have held {a : Nat} (ha : a < 2 ^ 52) : (s.l2Drop (gc / 4) p).caches.l2.find (unitKey (gc / 4) a) =
      if p a = true then none else s.caches.l2.find (unitKey (gc / 4) a) := by
    refine (FMap.find_filter _ (fun k => !(keyUnit k == gc / 4 && p (keyAddr k))) _).trans ?_
    simp only [keyUnit_unitKey _ ha, keyAddr_unitKey _ ha]
    cases p a <;> simp
  refine ⟨h.frame.trans (l2Drop_onlyMemory ..), h.harts, h.wcb, List.Pairwise.filter _ h.sorted, h.sound, h.near, ?_, ?_⟩
  · intro a ha b hb
    rw [held ha] at hb
    split at hb
    · cases hb
    · exact h.slice a ha b hb
  · intro a ha hb
    refine h.home a ha fun b hf => ?_
    by_cases hpa : p a = true
    · exact hp a ha hpa b hf
    · exact hb b (by rw [held ha, if_neg hpa, hf])

/-- Giving up bytes of a slice leaves what its core reads. -/
theorem giveUp (h : Serves s0 gc V s) (p : Nat → Bool) : Serves s0 gc V ((s.l2WriteBack (gc / 4) p).l2Drop (gc / 4) p) :=
  (h.l2WriteBack p).1.l2Drop p (h.l2WriteBack p).2

theorem roomL1 (h : Serves s0 gc V s) (line : Nat) : Serves s0 gc V (s.roomL1 gc line) := by
  unfold State.roomL1
  split
  · next v _ => exact h.filterL1 fun k => !(keyUnit k == gc && keyAddr k / 128 == v)
  · exact h

theorem roomL2 (h : Serves s0 gc V s) (line : Nat) : Serves s0 gc V (s.roomL2 (gc / 4) line) := by
  unfold State.roomL2
  split
  · exact h.giveUp _
  · exact h

/-! ### Fills -/

/-- A clean byte that the home has goes into the slice. -/
theorem putClean (h : Serves s0 gc V s) {a : Nat} (ha : a < 2 ^ 52) (hm : s.mem.read a = V a) :
    Serves s0 gc V { s with caches := { s.caches with l2 := s.caches.l2.put (unitKey (gc / 4) a) ⟨s.homeRead a, false⟩ } } := by
  refine ⟨h.frame.trans (.of_parts ..), h.harts, h.wcb, FMap.sorted_put _ _ _ h.sorted, h.sound, h.near, ?_, ?_⟩
  · intro i hi b hb
    rcases eq_or_ne i a with rfl | hia
    · obtain rfl : (⟨s.homeRead i, false⟩ : L2Byte) = b := by simpa using hb
      exact ⟨(homeRead_of_noLines h.harts i).trans hm, fun hd => by cases hd⟩
    · exact h.slice i hi b ((FMap.find_put_other _ _ fun e => hia (unitKey_inj _ _ _ e)).symm.trans hb)
  · intro i hi hb
    rcases eq_or_ne i a with rfl | hia
    · exact hm
    · exact h.home i hi fun b hf => hb b ((FMap.find_put_other _ _ fun e => hia (unitKey_inj _ _ _ e)).trans hf)

theorem fillL2 (h : Serves s0 gc V s) {line : Nat} (hl : line < 2 ^ 45) : Serves s0 gc V (s.fillL2 (gc / 4) line) := by
  unfold State.fillL2
  dsimp only
  split
  · exact h
  · let absent := (lineBytes line).filter fun pa => (s.caches.l2.find (unitKey (gc / 4) pa)).isNone
    have room := h.roomL2 line
    let u := (s.roomL2 (gc / 4) line).homeTouches absent
    have touched : Still (s.roomL2 (gc / 4) line) u := homeTouches_still room.harts _
    have hu : Serves s0 gc V u := room.still touched (homeTouches_onlyMemory ..)
    refine List.foldlRecOn absent _ (motive := fun l2 => Serves s0 gc V { u with caches := { u.caches with l2 := l2 } }) hu fun l2 h2 a ha => ?_
    obtain ⟨hline, hnone⟩ := List.mem_filter.1 ha
    have hlt := lineBytes_lt hl hline
    refine h2.putClean hlt (hu.home a hlt fun b hb => ?_)
    rw [touched.caches, find_roomL2 h.harts line hlt (Option.isNone_iff_eq_none.1 hnone)] at hb
    cases hb

theorem fillL1 (h : Serves s0 gc V s) {line : Nat} (hl : line < 2 ^ 45) : Serves s0 gc V (s.fillL1 gc line) := by
  have filled := (h.roomL1 line).fillL2 hl
  refine filled.setL1 (List.foldlRecOn (lineBytes line) _
    (motive := fun l1 => ∀ a < 2 ^ 52, ∀ b, FMap.find l1 (unitKey gc a) = some b → b = V a)
    filled.near fun l1 h1 i hi a ha b hb => ?_)
  have old := h1 a ha b
  split at hb
  · exact old hb
  · rcases eq_or_ne a i with rfl | hai
    · rw [FMap.find_put_same] at hb
      cases hb
      exact h.cachedByte ha
    · exact old ((FMap.find_put_other _ _ fun e => hai (unitKey_inj _ _ _ e)).symm.trans hb)

theorem loadTouch (h : Serves s0 gc V s) {a : Nat} (ha : a < 2 ^ 52) : Serves s0 gc V (s.loadTouch gc false false [a]) := by
  have lines : linesOf [a] = [a / 128] := rfl
  simp only [State.loadTouch, lines, List.foldl_cons, List.foldl_nil, Bool.or_self, Bool.false_eq_true, if_false]
  split
  · exact h
  · exact h.fillL1 (by omega)

/-! ### Stores -/

section stores
variable {l : List (Nat × Byte)} (hd : (l.map Prod.fst).Nodup) (hs : ∀ e ∈ l, s.absentAt e.1 = false)
include hd hs

/-- Bytes stored into the slice, and into the L1 where it keeps them. -/
theorem storeSlice (h : Serves s0 gc V s) {l1 : FMap Byte} (h1 : ∀ a < 2 ^ 52, ∀ b, l1.find (unitKey gc a) = some b → b = overlaid V l a) :
    Serves s0 gc (overlaid V l) { s with caches := { (s.caches.l2Write (gc / 4) l) with l1 := l1 } } := by
  have held (a : Nat) : (s.caches.l2Write (gc / 4) l).l2.find (unitKey (gc / 4) a) =
      ((FMap.find l a).map fun b => ⟨b, true⟩).or (s.caches.l2.find (unitKey (gc / 4) a)) :=
    FMap.find_puts l (unitKey (gc / 4)) (fun b => (⟨b, true⟩ : L2Byte)) (unitKey_inj _) hd _ a
  refine ⟨h.frame.trans (.of_parts ..), h.harts, h.wcb,
    FMap.sorted_puts l (unitKey (gc / 4)) (fun b => (⟨b, true⟩ : L2Byte)) h.sorted, h.sound, h1, ?_, ?_⟩
  · intro a ha b hb
    rw [held] at hb
    cases hf : FMap.find l a with
    | none =>
      rw [overlaid, hf]
      exact h.slice a ha b (by simpa [hf] using hb)
    | some x =>
      obtain rfl : (⟨x, true⟩ : L2Byte) = b := by simpa [hf] using hb
      exact ⟨by simp [overlaid, hf], fun _ => hs _ (FMap.mem_of_find hf)⟩
  · intro a ha hb
    cases hf : FMap.find l a with
    | none =>
      rw [overlaid, hf]
      exact h.home a ha fun b hx => hb b (by rw [held, hf, hx]; rfl)
    | some x => cases hb ⟨x, true⟩ (by rw [held, hf]; rfl)

/-- Bytes stored at the home, of which the caches hold none. -/
theorem storeHome (h : Serves s0 gc V s) (h1 : ∀ e ∈ l, s.caches.l1.find (unitKey gc e.1) = none)
    (h2 : ∀ e ∈ l, s.caches.l2.find (unitKey (gc / 4) e.1) = none) : Serves s0 gc (overlaid V l) (s.homeWrite l) := by
  obtain ⟨ue, ⟨hm, hc, hl⟩, hue⟩ := homeWrite_of_noLines h.harts l
  have frame : OnlyMemory s (s.homeWrite l) := homeWrite_onlyMemory ..
  have all : (l.filter fun e => !s.absentAt e.1) = l := List.filter_eq_self.2 fun e he => by simp [hs e he]
  rw [all] at hm
  have other {α : Type} {m : FMap α} {u a : Nat} {b : α} (hn : ∀ e ∈ l, m.find (unitKey u e.1) = none) (hb : m.find (unitKey u a) = some b) :
      overlaid V l a = V a := by
    refine overlaid_of_notMem fun ha => ?_
    obtain ⟨e, he, rfl⟩ := List.mem_map.1 ha
    rw [hn e he] at hb
    cases hb
  refine ⟨h.frame.trans frame, hl, ?_, ?_, ?_, ?_, ?_, ?_⟩ <;> rw [hc]
  · exact h.wcb
  · exact h.sorted
  · exact fun k hk => hue k (h.sound k hk)
  · exact fun a ha b hb => (h.near a ha b hb).trans (other h1 hb).symm
  · intro a ha b hb
    rw [other h2 hb, frame.absentAt]
    exact h.slice a ha b hb
  · intro a ha hb
    rw [hm]
    exact (FMap.get_sets l id 0#8 (fun _ _ e => e) hd _ a).trans (congrArg _ (h.home a ha hb))

end stores

/-- A write-combining buffer that holds nothing has nothing to send. -/
theorem wcbWriteLine (h : Serves s0 gc V s) (line : Nat) : Serves s0 gc V (s.wcbWriteLine gc line) := by
  have same : s.wcbWriteLine gc line = (s.homeWrite []).ackBytes (gc / 4) [] := by
    have hc : { s.caches with wcb := [] } = s.caches := by rw [← h.wcb]
    simp [State.wcbWriteLine, State.sliceWrite, Caches.l2Write, linesOf, h.wcb, hc]
  have stored := h.storeHome (l := []) List.nodup_nil nofun nofun nofun
  rw [same]
  exact stored.still (ackBytes_still stored.harts ..) (ackBytes_onlyMemory ..)

theorem roomForLines (h : Serves s0 gc V s) (lines : List Nat) : Serves s0 gc V (lines.foldl (fun s l => s.roomL2 (gc / 4) l) s) :=
  List.foldlRecOn lines _ (motive := Serves s0 gc V) h fun _ hu l _ => hu.roomL2 l

theorem find_flushToHome (h : Serves s0 gc V s) (pa : Nat) {a : Nat} (ha : a < 2 ^ 52) (hl : a / 128 = pa / 128) :
    (s.flushToHome gc pa).caches.l1.find (unitKey gc a) = none ∧ (s.flushToHome gc pa).caches.l2.find (unitKey (gc / 4) a) = none := by
  have gone := find_giveUp (h.wcbWriteLine (pa / 128)).harts (fun a => a / 128 == pa / 128) (cl := gc / 4) ha (.inr (by simpa using hl))
  unfold State.flushToHome
  dsimp only
  refine ⟨?_, gone⟩
  rw [FMap.find_filter _ fun k => !(keyUnit k == gc && keyAddr k / 128 == pa / 128)]
  simp [keyUnit_unitKey _ ha, keyAddr_unitKey _ ha, hl]

theorem flushToHome (h : Serves s0 gc V s) (pa : Nat) : Serves s0 gc V (s.flushToHome gc pa) :=
  ((h.wcbWriteLine _).giveUp _).filterL1 fun k => !(keyUnit k == gc && keyAddr k / 128 == pa / 128)

/-! ### One lane of an atomic -/

section lane
variable (op : AtomOp) {a : Nat} (x y : Word32) (ha : a % 4 = 0) (hlt : a < 2 ^ 51) (hp : s.absentAt a = false)
include ha hlt hp

/-- A lane performed in the L1 and the slice. -/
theorem atomNear (h : Serves s0 gc V s) :
    let old := word32Of ((fourAt a).map (s.cachedByte gc))
    let new := bytePairs a 4 (atomNew op old x y).toNat
    let u := s.sliceWrite (gc / 4) new
    LaneDone (Serves s0 gc) V op a x y
      (old, { u with caches := { u.caches with l1 := new.foldl (fun m e => m.put (unitKey gc e.1) e.2) u.caches.l1 } }) := by
  have old : word32Of ((fourAt a).map (s.cachedByte gc)) = wordAt V a := word_of_reads fun i _ _ => h.cachedByte (by omega)
  have room := h.roomForLines (linesOf ((bytePairs a 4 (atomNew op (wordAt V a) x y).toNat).map (·.1)))
  dsimp only
  rw [old]
  refine ⟨rfl, room.storeSlice (nodup_bytePairs_four ..) (fun e he => ?_) fun i hi b hb => ?_⟩
  · obtain ⟨h0, h1⟩ := mem_bytePairs_four he
    rw [room.frame.absentAt, ← h.frame.absentAt, absentAt_near s ha h0 h1, hp]
  · replace hb := (FMap.find_puts _ (unitKey gc) id (unitKey_inj _) (nodup_bytePairs_four ..) _ i).symm.trans hb
    unfold overlaid
    cases hf : FMap.find (bytePairs a 4 (atomNew op (wordAt V a) x y).toNat) i with
    | some v => simpa [hf] using hb.symm
    | none => exact room.near i hi b (by rw [hf] at hb; exact hb)

/-- A lane performed in the slice. -/
theorem atomSlice (h : Serves s0 gc V s) :
    let old := word32Of ((fourAt a).map (s.sliceByte (gc / 4)))
    let new := bytePairs a 4 (atomNew op old x y).toNat
    LaneDone (Serves s0 gc) V op a x y (old, { s with caches := { (s.caches.l2Write (gc / 4) new) with
      l1 := s.caches.l1.filter fun e => !(keyUnit e.1 == gc && keyAddr e.1 / 128 == a / 128) } }) := by
  have old : word32Of ((fourAt a).map (s.sliceByte (gc / 4))) = wordAt V a := word_of_reads fun i _ _ => h.sliceByte (by omega)
  dsimp only
  rw [old]
  refine ⟨rfl, h.storeSlice (nodup_bytePairs_four ..) (fun e he => ?_) fun i hi b hb => ?_⟩
  · obtain ⟨h0, h1⟩ := mem_bytePairs_four he
    rw [absentAt_near s ha h0 h1, hp]
  · rw [FMap.find_filter s.caches.l1 fun k => !(keyUnit k == gc && keyAddr k / 128 == a / 128), keyUnit_unitKey _ hi, keyAddr_unitKey _ hi] at hb
    have far : i / 128 ≠ a / 128 := fun e => by simp [e] at hb
    rw [overlaid_of_notMem]
    · exact h.near i hi b (by simpa [far] using hb)
    · intro hm
      obtain ⟨e, he, rfl⟩ := List.mem_map.1 hm
      have := mem_bytePairs_four he
      omega

/-- A lane performed at the home. -/
theorem atomHome (h : Serves s0 gc V s) (h1 : ∀ i < 2 ^ 52, i / 128 = a / 128 → s.caches.l1.find (unitKey gc i) = none ∧
      s.caches.l2.find (unitKey (gc / 4) i) = none) :
    let old := word32Of ((fourAt a).map s.homeRead)
    LaneDone (Serves s0 gc) V op a x y (old, s.homeWrite (bytePairs a 4 (atomNew op old x y).toNat)) := by
  have old : word32Of ((fourAt a).map s.homeRead) = wordAt V a :=
    word_of_reads fun i _ _ => h.homeRead (by omega) (h1 i (by omega) (by omega)).2
  dsimp only
  rw [old]
  have gone {e : Nat × Byte} (he : e ∈ bytePairs a 4 (atomNew op (wordAt V a) x y).toNat) :=
    h1 e.1 (by have := mem_bytePairs_four he; omega) (by have := mem_bytePairs_four he; omega)
  refine ⟨rfl, h.storeHome (nodup_bytePairs_four ..) (fun e he => ?_) (fun e he => (gone he).1) fun e he => (gone he).2⟩
  obtain ⟨h0, h1⟩ := mem_bytePairs_four he
  rw [absentAt_near s ha h0 h1, hp]

/-- One lane of an atomic on local memory, at the point of its scope (R209). -/
theorem atomAt (h : Serves s0 gc V s) (ord : OrdCode) : LaneDone (Serves s0 gc) V op a x y (s.atomAt gc false op ord a x y) := by
  have isLocal := isRemote_of_lt hlt
  have present {u : State} (hu : Serves s0 gc V u) : u.absentAt a = false := by rw [hu.frame.absentAt, ← h.frame.absentAt, hp]
  have sent := h.wcbWriteLine (a / 128)
  have touched := sent.loadTouch (a := a) (by omega)
  have filled := sent.fillL2 (line := a / 128) (by omega)
  have flushed := h.flushToHome a
  simp only [State.atomAt, isLocal, Bool.false_eq_true, if_false]
  split
  · exact touched.atomNear op x y ha hlt (present touched)
  · exact touched.atomNear op x y ha hlt (present touched)
  · exact filled.atomSlice op x y ha hlt (present filled)
  · exact flushed.atomHome op x y ha hlt (present flushed) fun i hi hl => h.find_flushToHome a hi hl

end lane

end Serves

end Sys2Proof.Claims

end

section
/-!
PROOF. The operation of an atomic and its lanes in turn.
-/

namespace Sys2Proof.Claims

open Sys2Proof.Machine

/-! ## The operation of an atomic -/

theorem fsrc_word (x : Word32) : fsrc fp32 (FEnv.plain true) x.toNat = fp32.decode x.toNat := by
  have hx : x.toNat % 2 ^ fp32.width = x.toNat := Nat.mod_eq_of_lt x.isLt
  unfold fsrc
  rw [hx]
  cases fp32.decode x.toNat <;> rfl

/-- R345's table, as the model computes it. -/
theorem atomNew_eq_atomValue (p : AtomOp) (old x y : Word32) : atomNew p old x y = atomValue p old x y := by
  cases p with
  | add => exact BitVec.eq_of_toNat_eq (by simp [atomNew, atomValue, BitVec.toNat_add])
  | sub => exact BitVec.eq_of_toInt_eq (by simp [atomNew, atomValue, BitVec.toInt_sub])
  | min =>
    simp only [atomNew, atomValue, min_def]
    split <;> simp
  | max =>
    simp only [atomNew, atomValue, max_def]
    split <;> simp
  | minu =>
    simp only [atomNew, atomValue, min_def]
    split <;> simp
  | maxu =>
    simp only [atomNew, atomValue, max_def]
    split <;> simp
  | and => exact BitVec.eq_of_getLsbD_eq fun i hi => by simp [atomNew, atomValue, hi]
  | or => exact BitVec.eq_of_getLsbD_eq fun i hi => by simp [atomNew, atomValue, hi]
  | xor => exact BitVec.eq_of_getLsbD_eq fun i hi => by simp [atomNew, atomValue, hi]
  | xchg => rfl
  | cas => rfl
  | fadd =>
    rw [atomNew, fsrc_word, fsrc_word]
    rfl

/-! ## Lanes in turn -/

section inTurn
variable {σ : Type} (step : σ → AtomLane → σ) (out : σ → AtomLane → LaneVal)

/-- What the lanes of an atomic return, each from what the lanes before it leave (R346). -/
def inTurn : σ → List AtomLane → List (Nat × LaneVal)
  | _, [] => []
  | x, l :: t => (l.lane, out x l) :: inTurn (step x l) t

theorem inTurn_find {lanes : List AtomLane} (hd : (lanes.map (·.lane)).Nodup) {l : AtomLane} (hl : l ∈ lanes) (x : σ) :
    (inTurn step out x lanes).find? (fun e => e.1 == l.lane) = some (l.lane, out ((lanesBefore lanes l.lane).foldl step x) l) := by
  induction lanes generalizing x with
  | nil => cases hl
  | cons a t ih =>
    obtain ⟨ha, ht⟩ := List.nodup_cons.1 hd
    rcases List.mem_cons.1 hl with rfl | hl
    · simp [inTurn, lanesBefore]
    · have hne : a.lane ≠ l.lane := fun e => ha (List.mem_map.2 ⟨l, hl, e.symm⟩)
      have hb : lanesBefore (a :: t) l.lane = a :: lanesBefore t l.lane := by simp [lanesBefore, hne]
      rw [inTurn, List.find?_cons_of_neg (by simpa using hne), ih ht hl, hb, List.foldl_cons]

end inTurn

/-- The bits of an atomic's lanes. -/
theorem getLsbD_atomMask (lanes : List AtomLane) (n : Nat) : (atomMask lanes).getLsbD n = decide (n < 64 ∧ n ∈ lanes.map (·.lane)) := by
  rw [← getLsbD_maskOf]
  simp [atomMask, maskOf, List.foldl_map]

/-! ## The lanes of an atomic on memory -/

/-- What a byte is after one lane. -/
def laneBytes (p : AtomOp) (V : Nat → Byte) (l : AtomLane) : Nat → Byte :=
  match l.loc with
  | some a => overlaid V (bytePairs a 4 (atomNew p (wordAt V a) l.x l.y).toNat)
  | none => V

/-- The old value of one lane, 0 out of bounds. -/
def laneOld (V : Nat → Byte) (l : AtomLane) : LaneVal :=
  match l.loc with
  | some a => ⟨wordAt V a, false⟩
  | none => LaneVal.zero

theorem wordAt_laneBytes (p : AtomOp) (lanes : List AtomLane) (V : Nat → Byte) {a : Nat} (ha : a % 4 = 0)
    (hl : ∀ l ∈ lanes, ∀ a, l.loc = some a → a % 4 = 0) : wordAt (lanes.foldl (laneBytes p) V) a = wordAfter p lanes a (wordAt V a) := by
  induction lanes generalizing V with
  | nil => rfl
  | cons l t ih =>
    rw [List.foldl_cons, ih _ fun x hx => hl x (by simp [hx]), wordAfter, wordAfter, List.foldl_cons]
    congr 1
    unfold laneBytes
    cases hloc : l.loc with
    | none => simp
    | some b =>
      simp only [wordAt_overlaid V (hl l (by simp) b hloc) ha, atomNew_eq_atomValue, Option.some.injEq]
      by_cases hab : a = b
      · subst hab; simp
      · simp [hab, Ne.symm hab]

/-- What the lanes return is R346's. -/
theorem laneOld_before (p : AtomOp) (lanes : List AtomLane) (V : Nat → Byte)
    (hl : ∀ l ∈ lanes, ∀ a, l.loc = some a → a % 4 = 0) {l : AtomLane} (h : l ∈ lanes) : laneOld ((lanesBefore lanes l.lane).foldl (laneBytes p) V) l = ⟨oldValue p lanes (wordAt V) l, false⟩ := by
  unfold laneOld oldValue
  cases hloc : l.loc with
  | none => rfl
  | some a =>
    dsimp only
    rw [wordAt_laneBytes p (lanesBefore lanes l.lane) V (hl l h a hloc) fun x hx => hl x ((List.takeWhile_sublist _).subset hx)]

/-- One lane in the course of an atomic: what the lanes before have returned, those that have failed, and the state. -/
def atomStep (gc : Nat) (cs : Bool) (op : AtomOp) (ord : OrdCode)
    (acc : List (Nat × LaneVal) × List (Nat × BitVec 8 × Nat) × State) (l : AtomLane) :
    List (Nat × LaneVal) × List (Nat × BitVec 8 × Nat) × State :=
  match l.loc with
  | none => (acc.1 ++ [(l.lane, LaneVal.zero)], acc.2)
  | some a =>
    if !cs && !isRemote a && acc.2.2.ueAt a then (acc.1, acc.2.1 ++ [(l.lane, 0x05#8, a)], acc.2.2)
    else
      let (old, s) := acc.2.2.atomAt gc cs op (if l.far then .dev else ord) a l.x l.y
      (acc.1 ++ [(l.lane, ⟨old, false⟩)], acc.2.1, s)

/-- What holds at each lane of an atomic: its word can be read, and it answers it. -/
def LaneGoes (I : (Nat → Byte) → State → Prop) (gc : Nat) (cs : Bool) (op : AtomOp) (a : Nat) : Prop :=
  ∀ V s, I V s → (cs = false → s.ueAt a = false) ∧ ∀ ord x y, LaneDone I V op a x y (s.atomAt gc cs op ord a x y)

/-- All lanes of an atomic whose words can be read: each answers its word, and none fails. -/
theorem atomStep_foldl {I : (Nat → Byte) → State → Prop} {gc : Nat} {cs : Bool} {op : AtomOp} (ord : OrdCode) (lanes : List AtomLane)
    (hl : ∀ l ∈ lanes, ∀ a, l.loc = some a → LaneGoes I gc cs op a) (V : Nat → Byte) (s : State) (hI : I V s)
    (olds : List (Nat × LaneVal)) :
    ∃ u, lanes.foldl (atomStep gc cs op ord) (olds, [], s) = (olds ++ inTurn (laneBytes op) laneOld V lanes, [], u) ∧
      I (lanes.foldl (laneBytes op) V) u := by
  induction lanes generalizing V s olds with
  | nil => exact ⟨s, by simp [inTurn], hI⟩
  | cons l t ih =>
    have ht := fun x hx => hl x (List.mem_cons_of_mem _ hx)
    cases hloc : l.loc with
    | none =>
      have step : atomStep gc cs op ord (olds, [], s) l = (olds ++ [(l.lane, LaneVal.zero)], [], s) := by simp [atomStep, hloc]
      obtain ⟨u, hu, hIu⟩ := ih ht V s hI (olds ++ [(l.lane, LaneVal.zero)])
      refine ⟨u, ?_, by rwa [List.foldl_cons, laneBytes, hloc]⟩
      rw [List.foldl_cons, step, hu]
      simp [inTurn, laneBytes, laneOld, hloc]
    | some a =>
      obtain ⟨hue, goes⟩ := hl l (by simp) a hloc V s hI
      obtain ⟨hold, hI'⟩ := goes (if l.far then .dev else ord) l.x l.y
      have step : atomStep gc cs op ord (olds, [], s) l =
          (olds ++ [(l.lane, ⟨wordAt V a, false⟩)], [], (s.atomAt gc cs op (if l.far then .dev else ord) a l.x l.y).2) := by
        have hread : (!cs && !isRemote a && s.ueAt a) = false := by cases cs <;> simp_all
        simp [atomStep, hloc, hread, hold]
      obtain ⟨u, hu, hIu⟩ := ih ht _ _ hI' (olds ++ [(l.lane, ⟨wordAt V a, false⟩)])
      refine ⟨u, ?_, by rwa [List.foldl_cons, laneBytes, hloc]⟩
      rw [List.foldl_cons, step, hu]
      simp [inTurn, laneBytes, laneOld, hloc]

end Sys2Proof.Claims

end

section
/-!
PROOF. Atomics at the point where they leave the store FIFO, and their outstanding results.
-/

namespace Sys2Proof.Claims

open Sys2Proof.Machine

/-! ## Outstanding results -/

/-- A wave with one more outstanding result; one of a g register clears the idempotent right (R164, R266). -/
def pending (w : Wave) (p : Pend) : Wave :=
  { w with pend := w.pend ++ [p], idem := if p.writes.any RegVal.isG then { w.idem with idv := false } else w.idem }

/-- An outstanding result is added outside reproducible mode. -/
theorem addPend_eq {s : State} {k : Nat} {p : Pend} (hr : (s.waveAt k).repro = false) (hw : p.writes ≠ []) :
    s.addPend k p = s.setWaveAt k (pending (s.waveAt k) p) := by
  have he : p.writes.isEmpty = false := by simpa using hw
  simp only [State.addPend, he, hr, Bool.false_eq_true, if_false, State.noteG, State.modWaveAt, State.waveAt_setWaveAt, pending, Wave.clearIdem]
  split <;> simp

theorem makeTokens_nil (s : State) (k : Nat) (pc : Word64) : s.makeTokens k pc [] = ([], s.setWaveAt k (s.waveAt k)) := rfl

theorem ofLanes_ne_nil {d : Dest} (hd : d ≠ .none) (olds : List (Nat × LaneVal)) : d.ofLanes olds ≠ [] := by
  cases d with
  | none => exact absurd rfl hd
  | vec r => exact List.cons_ne_nil _ _
  | scal i => exact List.cons_ne_nil _ _
  | wgreg i => exact List.cons_ne_nil _ _

/-! ## Atomics at the point where they leave the FIFO -/

/-- The outstanding result of an atomic that returns values, of none in remote memory. -/
def atomPend (dst : Dest) (lanes : List AtomLane) (olds : List (Nat × LaneVal)) (pc : Word64) : Pend :=
  { Pend.plain (dst.ofLanes olds) (atomMask lanes) with pc := pc }

/-- An atomic whose lanes can all be read: memory is as its lanes leave it in turn, and the old values are one outstanding result. -/
theorem performAtom_eq {I : (Nat → Byte) → State → Prop} {k gc : Nat} {cs : Bool} {op : AtomOp} {ord : OrdCode} {lanes : List AtomLane}
    {pc : Word64} {dst : Dest} {pages : List VPage} {V : Nat → Byte} {s : State} (hl : ∀ l ∈ lanes, ∀ a, l.loc = some a → LaneGoes I gc cs op a)
    (near : ∀ l ∈ lanes, ∀ a, l.loc = some a → isRemote a = false) (hI : I V s) (hr : ∀ V u, I V u → (u.waveAt k).repro = false) :
    ∃ u, I (lanes.foldl (laneBytes op) V) u ∧ s.performAtom k gc cs op ord lanes pc dst pages =
      if dst = .none then u
      else u.setWaveAt k (pending (u.waveAt k) (atomPend dst lanes (inTurn (laneBytes op) laneOld V lanes) pc)) := by
  obtain ⟨u, hu, hIu⟩ := atomStep_foldl ord lanes hl V s hI []
  refine ⟨u, hIu, ?_⟩
  have none_far {β : Type} (f : Nat → AtomLane → β) :
      (lanes.filterMap fun l => l.loc.bind fun a => if (!cs && isRemote a) = true then some (f a l) else none) = [] := by
    refine List.filterMap_eq_nil_iff.2 fun l h => ?_
    cases hloc : l.loc with
    | none => rfl
    | some a => simp [near l h a hloc]
  have sent : remoteOps cs op lanes = [] := none_far fun a l => (op, a, l.x, l.y)
  have far := none_far fun a l => (l.lane, a)
  unfold State.performAtom
  dsimp only
  generalize hf : List.foldl _ _ lanes = r
  obtain rfl : r = _ := hf.symm.trans hu
  have hsend : u.sendAtomic k pages (remoteOps cs op lanes) (dst != .none) = u := by rw [sent]; rfl
  have hadd (hd : dst ≠ .none) :
      (u.setWaveAt k (u.waveAt k)).addPend k (atomPend dst lanes (inTurn (laneBytes op) laneOld V lanes) pc) =
        u.setWaveAt k (pending (u.waveAt k) (atomPend dst lanes (inTurn (laneBytes op) laneOld V lanes) pc)) := by
    rw [addPend_eq (by simpa using hr _ u hIu) (ofLanes_ne_nil hd _)]
    simp
  rw [hsend, far]
  simp only [List.nil_append, makeTokens_nil, List.map_nil, List.append_nil, List.isEmpty_nil, if_true]
  cases dst with
  | none => rfl
  | vec r => exact hadd nofun
  | scal i => exact hadd nofun
  | wgreg i => exact hadd nofun

/-! ## The memory an atomic acts on -/

/-- The bytes that an atomic of a core acts on: cluster scratch, or local memory as the core reads it. -/
def bytesSeen (cs : Bool) (gc : Nat) (s : State) : Nat → Byte := if cs then s.cscrByte (gc / 4) else s.cachedByte gc

/-- `s` is `s0` but for memory, and the bytes that an atomic acts on are `V`. -/
def ActsOn (s0 : State) (gc : Nat) (cs : Bool) (V : Nat → Byte) (s : State) : Prop :=
  if cs then OnlyMemory s0 s ∧ ∀ a, s.cscrByte (gc / 4) a = V a else Serves s0 gc V s

section
variable {s0 s : State} {gc : Nat} {cs : Bool} {V : Nat → Byte}

theorem ActsOn.frame (h : ActsOn s0 gc cs V s) : OnlyMemory s0 s := by
  cases cs with
  | true => exact h.1
  | false => exact Serves.frame h

theorem ActsOn.bytesSeen (h : ActsOn s0 gc cs V s) {a : Nat} (ha : a < 2 ^ 52) : bytesSeen cs gc s a = V a := by
  cases cs with
  | true => exact h.2 a
  | false => exact Serves.cachedByte h ha

theorem cscrByte_cscrWrite (s : State) (cl : Nat) {l : List (Nat × Byte)} (hd : (l.map Prod.fst).Nodup) (a : Nat) :
    (s.cscrWrite cl l).cscrByte cl a = overlaid (s.cscrByte cl) l a :=
  FMap.get_sets l (unitKey cl) 0#8 (unitKey_inj _) hd _ a

/-- Each lane of an atomic whose word is aligned and can be read goes. -/
theorem ActsOn.laneGoes (op : AtomOp) {a : Nat} (ha : a % 4 = 0) (hlt : a < 2 ^ 51) (hue : cs = false → s0.ueAt a = false) :
    LaneGoes (ActsOn s0 gc cs) gc cs op a := by
  intro V s h
  cases cs with
  | true =>
    refine ⟨nofun, fun ord x y => ?_⟩
    obtain ⟨frame, hb⟩ := h
    have same : s.cscrByte (gc / 4) = V := funext hb
    have old : word32Of ((fourAt a).map (s.cscrByte (gc / 4))) = wordAt V a := by rw [word32Of_fourAt, same]
    simp only [State.atomAt, if_true, old]
    exact ⟨rfl, frame.trans (cscrWrite_onlyMemory ..), fun b => by rw [cscrByte_cscrWrite _ _ (nodup_bytePairs_four ..), same]⟩
  | false =>
    have hs : s.ueAt a = false := Serves.ueAt h (hue rfl)
    exact ⟨fun _ => hs, fun ord x y => Serves.atomAt op x y ha hlt (Bool.or_eq_false_iff.1 hs).2 h ord⟩

/-- Where an atomic acts on local memory, nothing is cached and no hart holds a line. -/
def NothingCached (s : State) (cs : Bool) : Prop :=
  cs = false → s.caches.l1 = [] ∧ s.caches.wcb = [] ∧ s.caches.l2 = [] ∧ s.harts.lines = []

/-- The words of the lanes are aligned, local and, but for cluster scratch, readable. -/
def LanesReadable (s : State) (cs : Bool) (lanes : List AtomLane) : Prop :=
  ∀ l ∈ lanes, ∀ a, l.loc = some a → a % 4 = 0 ∧ a < 2 ^ 51 ∧ (cs = false → s.ueAt a = false)

/-- Where nothing is cached and no hart holds a line, a core reads what its homes hold. -/
theorem actsOn_refl (s : State) (gc : Nat) (cs : Bool)
    (h : NothingCached s cs) :
    ActsOn s gc cs (Claims.bytesSeen cs gc s) s := by
  cases cs with
  | true => exact ⟨.refl s, fun _ => rfl⟩
  | false =>
    obtain ⟨h1, hw, h2, hl⟩ := h rfl
    have home (a : Nat) : s.mem.read a = s.cachedByte gc a := by
      rw [State.cachedByte, h1, hw, h2]
      exact (homeRead_of_noLines hl a).symm
    exact ⟨.refl s, hl, hw, h2 ▸ List.Pairwise.nil, fun _ h => h, by simp [h1], by simp [h2], fun a _ _ => home a⟩

end

/-! ## What an atomic returns -/

/-- The result of an atomic: each lane's old value (R346). -/
theorem returnsOld_of_pending {w w' : Wave} {p : AtomOp} {dst : Dest} {lanes : List AtomLane} {pc : Word64} {V : Nat → Byte}
    (hd : (lanes.map (·.lane)).Nodup) (h64 : ∀ l ∈ lanes, l.lane < 64) (ha : ∀ l ∈ lanes, ∀ a, l.loc = some a → a % 4 = 0)
    (hw : w'.pend = if dst = .none then w.pend else w.pend ++ [atomPend dst lanes (inTurn (laneBytes p) laneOld V lanes) pc]) :
    returnsOld w w' dst lanes (oldValue p lanes (wordAt V)) := by
  have old {l : AtomLane} (hl : l ∈ lanes) : ((inTurn (laneBytes p) laneOld V lanes).find? fun e => e.1 == l.lane) =
      some (l.lane, ⟨oldValue p lanes (wordAt V) l, false⟩) := by
    rw [inTurn_find _ _ hd hl, laneOld_before p lanes V ha hl]
  refine ⟨?_, ?_, ?_⟩
  · rintro rfl
    simpa using hw
  · rintro r rfl
    refine ⟨_, _, by simpa using hw, rfl, rfl, getLsbD_atomMask lanes, fun l hl => ?_⟩
    rw [List.getD_eq_getElem _ _ (by simpa using h64 l hl)]
    simp [old hl]
  · rintro i l rfl rfl h0
    have hl := old (List.mem_singleton.2 rfl)
    rw [h0] at hl
    refine ⟨_, by simpa using hw, ?_, rfl, ?_⟩
    · simp [atomPend, Pend.plain, Dest.ofLanes, hl]
    · simp only [atomPend, Pend.plain, atomMask, List.foldl_cons, List.foldl_nil, h0]
      rfl

/-! ## The drain step -/

theorem waveAt_strays (s : State) (asid : Nat) (pas : List Nat) (k : Nat) :
    ∃ pcs, (s.strays asid pas).waveAt k = { s.waveAt k with pcs := pcs } := by
  have hmap : s.strays asid pas = { s with waves := s.waves.map fun e =>
      (e.1, if s.inStack asid pas e.2 = true then { e.2 with pcs := { e.2.pcs with stray := true } } else e.2) } := by
    unfold State.strays
    congr 1
    refine List.map_congr_left fun e _ => ?_
    split <;> rfl
  rw [hmap]
  simp only [State.waveAt, FMap.get, FMap.find_map]
  cases s.waves.find k with
  | none => exact ⟨_, rfl⟩
  | some w =>
    dsimp only [Option.map_some, Option.getD_some]
    split
    · exact ⟨_, rfl⟩
    · exact ⟨_, rfl⟩

section countLeft
variable (s : State) (k : Nat) (pas : List Nat)

theorem waveAt_countLeft : noWait ((s.countLeft k pas).waveAt k) = noWait (s.waveAt k) := by
  unfold State.countLeft
  split
  · rfl
  · simp [State.modWaveAt, noWait]

theorem bytesSeen_countLeft (cs : Bool) (gc : Nat) : bytesSeen cs gc (s.countLeft k pas) = bytesSeen cs gc s := by
  unfold State.countLeft
  split <;> rfl

end countLeft

/-- The state after an atomic on readable, aligned words has left the FIFO: the wave keeps its FIFO and gains the old values, and the words
are as the lanes leave them. -/
theorem performMem_atom {s : State} {k gc : Nat} {cs : Bool} {p : AtomOp} {ord : OrdCode} {lanes : List AtomLane} {pc : Word64} {dst : Dest}
    {pages : List VPage} (hgc : (s.waveAt k).id.gcore = gc) (hr : (s.waveAt k).repro = false) (hd : (lanes.map (·.lane)).Nodup)
    (h64 : ∀ l ∈ lanes, l.lane < 64)
    (hl : LanesReadable s cs lanes) (hc : NothingCached s cs) :
    let u := s.performMem k (.atom cs p ord lanes pc dst pages)
    (u.waveAt k).fifo = (s.waveAt k).fifo ∧
      (∀ a, a % 4 = 0 → a < 2 ^ 51 → wordAt (bytesSeen cs gc u) a = wordAfter p lanes a (wordAt (bytesSeen cs gc s) a)) ∧
      returnsOld (s.waveAt k) (u.waveAt k) dst lanes (oldValue p lanes (wordAt (bytesSeen cs gc s))) := by
  subst hgc
  let gc := (s.waveAt k).id.gcore
  let V := bytesSeen cs gc s
  let e : Eff := .atom cs p ord lanes pc dst pages
  let s0 := s.strays (s.waveAt k).id.asid.toNat e.locals
  obtain ⟨pcs, hstray⟩ : ∃ pcs, s0.waveAt k = { s.waveAt k with pcs := pcs } := waveAt_strays ..
  have aligned : ∀ l ∈ lanes, ∀ a, l.loc = some a → a % 4 = 0 := fun l h a ha => (hl l h a ha).1
  have goes : ∀ l ∈ lanes, ∀ a, l.loc = some a → LaneGoes (ActsOn s0 gc cs) gc cs p a := fun l h a ha => by
    obtain ⟨h4, hlt, hue⟩ := hl l h a ha
    exact ActsOn.laneGoes p h4 hlt hue
  have near : ∀ l ∈ lanes, ∀ a, l.loc = some a → isRemote a = false := fun l h a ha => isRemote_of_lt (hl l h a ha).2.1
  have kept {W : Nat → Byte} {u : State} (h : ActsOn s0 gc cs W u) : noWait (u.waveAt k) = noWait { s.waveAt k with pcs := pcs } := by
    rw [h.frame.noWait_waveAt, hstray]
  obtain ⟨u, hu, performed⟩ := performAtom_eq (ord := ord) (pc := pc) (dst := dst) (pages := pages) goes near
    (actsOn_refl s0 gc cs hc) fun W u h => (congrArg Wave.repro (kept h)).trans hr
  let done := s0.performAtom k gc cs p ord lanes pc dst pages
  have seen : bytesSeen cs gc done = bytesSeen cs gc u := by
    dsimp only [done]
    rw [performed]
    split <;> rfl
  have wave : noWait (done.waveAt k) = noWait (if dst = .none then { s.waveAt k with pcs := pcs } else
      pending { s.waveAt k with pcs := pcs } (atomPend dst lanes (inTurn (laneBytes p) laneOld V lanes) pc)) := by
    dsimp only [done]
    rw [performed]
    split
    · exact kept hu
    · rw [State.waveAt_setWaveAt]
      exact congrArg (pending · _) (kept hu)
  have result : s.performMem k e = done.countLeft k (e.locals.filter (done.onItsWay gc)) := rfl
  dsimp only
  rw [result, bytesSeen_countLeft, seen]
  have last := (waveAt_countLeft done k (e.locals.filter (done.onItsWay gc))).trans wave
  refine ⟨?_, fun a ha hlt => ?_, returnsOld_of_pending (pc := pc) hd h64 aligned ?_⟩
  · refine (congrArg Wave.fifo last).trans ?_
    split <;> rfl
  · rw [← wordAt_laneBytes p lanes V ha aligned]
    exact wordAt_congr fun i _ _ => hu.bytesSeen (by omega)
  · refine (congrArg Wave.pend last).trans ?_
    split <;> rfl

/-- The first part of O23: the entry that leaves next is an atomic. -/
theorem drain_atom {k : Nat} {s : State} {cs : Bool} {p : AtomOp} {ord : OrdCode} {lanes : List AtomLane} {pc : Word64} {dst : Dest}
    {pages : List VPage} {rest : List Eff} (hn : leavesNext s.tick (s.waveAt k).fifo = some (.atom cs p ord lanes pc dst pages, rest))
    (hr : (s.waveAt k).repro = false) (hd : (lanes.map (·.lane)).Nodup) (h64 : ∀ l ∈ lanes, l.lane < 64)
    (hl : LanesReadable s cs lanes) (hc : NothingCached s cs) :
    Goes (.storeFifoDrain k) s fun t => ∃ u : State, t = u.reap (s.waveAt k).id.wgKey ∧ (u.waveAt k).fifo = rest ∧
      (∀ a, a % 4 = 0 → a < 2 ^ 51 → wordAt (bytesSeen cs (s.waveAt k).id.gcore u) a =
        wordAfter p lanes a (wordAt (bytesSeen cs (s.waveAt k).id.gcore s) a)) ∧
      returnsOld (s.waveAt k) (u.waveAt k) dst lanes (oldValue p lanes (wordAt (bytesSeen cs (s.waveAt k).id.gcore s))) := by
  let s1 := s.modWaveAt k fun w => { w with fifo := rest }
  have wave : s1.waveAt k = { s.waveAt k with fifo := rest } := State.waveAt_setWaveAt ..
  obtain ⟨hfifo, words, old⟩ := performMem_atom (s := s1) (k := k) (ord := ord) (pc := pc) (dst := dst) (pages := pages)
    (congrArg (·.id.gcore) wave) ((congrArg Wave.repro wave).trans hr) hd h64 hl hc
  rw [wave] at hfifo old
  refine ⟨_, ?_, _, rfl, hfifo, words, old⟩
  simp [exec, execStoreFifoDrain, hn, hr, s1]

end Sys2Proof.Claims

end

section
/-!
PROOF. What a release leaves of the waves.
-/

namespace Sys2Proof.Claims

open Sys2Proof.Machine

/-! ## What a release leaves of the waves -/

/-- The same slot issues, and every wave is the same wave in the same mode. -/
structure SameTask (s u : State) : Prop where
  iss : u.iss = s.iss
  mode : ∀ k, (u.waveAt k).id = (s.waveAt k).id ∧ (u.waveAt k).env = (s.waveAt k).env

namespace SameTask

variable {s u v : State}

theorem refl (s : State) : SameTask s s := ⟨rfl, fun _ => ⟨rfl, rfl⟩⟩

theorem trans (h : SameTask s u) (h' : SameTask u v) : SameTask s v :=
  ⟨h'.iss.trans h.iss, fun k => ⟨(h'.mode k).1.trans (h.mode k).1, (h'.mode k).2.trans (h.mode k).2⟩⟩

theorem foldl {β : Type} {f : State → β → State} (l : List β) (hf : ∀ u b, SameTask u (f u b)) : SameTask s (l.foldl f s) :=
  List.foldlRecOn l f (motive := SameTask s) (refl s) fun u hu b _ => hu.trans (hf u b)

theorem repro (h : SameTask s u) (k : Nat) : (u.waveAt k).repro = (s.waveAt k).repro := by
  unfold Wave.repro
  rw [(h.mode k).1, (h.mode k).2]

theorem setWaveAt (s : State) {k : Nat} {w : Wave} (hd : w.id = (s.waveAt k).id) (he : w.env = (s.waveAt k).env) :
    SameTask s (s.setWaveAt k w) := by
  refine ⟨rfl, fun j => ?_⟩
  by_cases h : j = k
  · subst h
    rw [State.waveAt_setWaveAt]
    exact ⟨hd, he⟩
  · rw [State.waveAt_setWaveAt_other _ _ h]
    exact ⟨rfl, rfl⟩

theorem modWaveAt (s : State) (k : Nat) (f : Wave → Wave) (hd : ∀ w, (f w).id = w.id := by intros; rfl)
    (he : ∀ w, (f w).env = w.env := by intros; rfl) :
    SameTask s (s.modWaveAt k f) := setWaveAt s (hd _) (he _)

end SameTask

theorem OnlyMemory.sameTask {s u : State} (h : OnlyMemory s u) : SameTask s u :=
  ⟨h.iss, fun k => ⟨congrArg (·.id) (h.noWait_waveAt k), congrArg (·.env) (h.noWait_waveAt k)⟩⟩

section
variable (s : State) (k : Nat)

theorem strays_sameTask (asid : Nat) (pas : List Nat) : SameTask s (s.strays asid pas) := by
  refine ⟨rfl, fun j => ?_⟩
  obtain ⟨pcs, hj⟩ := waveAt_strays s asid pas j
  rw [hj]
  exact ⟨rfl, rfl⟩

theorem countLeft_sameTask (pas : List Nat) : SameTask s (s.countLeft k pas) := by
  unfold State.countLeft
  split
  · exact .refl s
  · exact .modWaveAt s k _

theorem hold_sameTask (e : Eff) : SameTask s (s.hold k e) := .modWaveAt s k _

theorem noteG_sameTask (vs : List RegVal) : SameTask s (s.noteG k vs) := by
  unfold State.noteG
  split
  · exact .modWaveAt s k _
  · exact .refl s

theorem holdG_sameTask (vs : List RegVal) : SameTask s (s.holdG k vs) := by
  refine .foldl vs fun u v => ?_
  split
  · exact hold_sameTask ..
  · exact .refl u

theorem addPend_sameTask (p : Pend) : SameTask s (s.addPend k p) := by
  unfold State.addPend
  split
  · exact .refl s
  · split
    · exact ((holdG_sameTask s k _).trans (.modWaveAt _ k _)).trans (noteG_sameTask ..)
    · exact (SameTask.modWaveAt s k _).trans (noteG_sameTask ..)

theorem makeTokens_sameTask (pc : Word64) (fs : List (Nat × BitVec 8 × Nat)) : SameTask s (s.makeTokens k pc fs).2 := .setWaveAt s rfl rfl

theorem atomAt_sameTask (gc : Nat) (cs : Bool) (op : AtomOp) (ord : OrdCode) (a : Nat) (x y : Word32) :
    SameTask s (s.atomAt gc cs op ord a x y).2 := by
  by_cases h : cs = true ∨ isRemote a = false
  · exact (atomAt_onlyMemory s gc cs op ord a x y h).sameTask
  · obtain ⟨hc, hf⟩ := not_or.1 h
    simp only [State.atomAt, Bool.not_eq_true _ ▸ hc, Bool.not_eq_false _ ▸ hf, Bool.false_eq_true, if_false, if_true]
    exact ⟨rfl, fun _ => ⟨rfl, rfl⟩⟩

theorem sendAtomic_sameTask (pages : List VPage) (ops : List (AtomOp × Nat × Word32 × Word32)) (returns : Bool) :
    SameTask s (s.sendAtomic k pages ops returns) := by
  unfold State.sendAtomic
  split
  · exact .refl s
  · exact ⟨rfl, fun _ => ⟨rfl, rfl⟩⟩

theorem sendStore_sameTask (pages : List VPage) (bytes : List (Nat × Byte)) : SameTask s (s.sendStore k pages bytes) := by
  unfold State.sendStore State.sendRemote
  split
  · exact .refl s
  · exact ⟨rfl, fun _ => ⟨rfl, rfl⟩⟩

theorem atomStep_sameTask (gc : Nat) (cs : Bool) (op : AtomOp) (ord : OrdCode)
    (acc : List (Nat × LaneVal) × List (Nat × BitVec 8 × Nat) × State) (l : AtomLane) : SameTask acc.2.2 (atomStep gc cs op ord acc l).2.2 := by
  unfold atomStep
  split
  · exact .refl _
  · split
    · exact .refl _
    · exact atomAt_sameTask ..

theorem performAtom_sameTask (gc : Nat) (cs : Bool) (op : AtomOp) (ord : OrdCode) (lanes : List AtomLane) (pc : Word64) (dst : Dest)
    (pages : List VPage) : SameTask s (s.performAtom k gc cs op ord lanes pc dst pages) := by
  have lanesDone : SameTask s (lanes.foldl (atomStep gc cs op ord) ([], [], s)).2.2 :=
    List.foldlRecOn lanes (atomStep gc cs op ord) (motive := fun acc => SameTask s acc.2.2) (.refl s) fun acc h l _ =>
      h.trans (atomStep_sameTask gc cs op ord acc l)
  have sent := lanesDone.trans (sendAtomic_sameTask _ k pages (remoteOps cs op lanes) (dst != .none))
  cases dst with
  | none => exact sent
  | vec r => exact sent.trans ((makeTokens_sameTask ..).trans (addPend_sameTask ..))
  | scal i => exact sent.trans ((makeTokens_sameTask ..).trans (addPend_sameTask ..))
  | wgreg i => exact sent.trans ((makeTokens_sameTask ..).trans (addPend_sameTask ..))

theorem performStore_sameTask (gc : Nat) (cs nc : Bool) (bytes : List (Nat × Byte)) (pages : List VPage) :
    SameTask s (s.performStore k gc cs nc bytes pages) := by
  unfold State.performStore
  split
  · exact (cscrWrite_onlyMemory ..).sameTask
  · exact (arriveLocal_onlyMemory ..).sameTask.trans (sendStore_sameTask ..)

theorem performMem_sameTask (e : Eff) : SameTask s (s.performMem k e) := by
  have strayed := strays_sameTask s (s.waveAt k).id.asid.toNat e.locals
  cases e with
  | store => exact strayed.trans ((performStore_sameTask ..).trans (countLeft_sameTask ..))
  | atom => exact strayed.trans ((performAtom_sameTask ..).trans (countLeft_sameTask ..))
  | _ => exact strayed

theorem drainFifo_sameTask : SameTask s (s.drainFifo k) :=
  (SameTask.modWaveAt s k _).trans (.foldl _ fun u e => performMem_sameTask u k e)

theorem releaseCaches_sameTask (scope : Nat) : SameTask s (s.releaseCaches k scope) := by
  unfold State.releaseCaches
  have drained := (wcbDrain_onlyMemory s (s.waveAt k).id.gcore).sameTask
  dsimp only
  split
  · exact drained
  · exact drained.trans ((l2WriteBack_onlyMemory ..).sameTask.trans (.modWaveAt _ k _))

/-- A release, where there is one, leaves the slot and each wave's mode (R185). -/
theorem releaseAt_sameTask (scope : Nat) : SameTask s (s.releaseAt scope) := by
  unfold State.releaseAt State.release
  split
  · exact .refl s
  · split
    · exact .refl s
    · exact (drainFifo_sameTask ..).trans (releaseCaches_sameTask ..)

end

end Sys2Proof.Claims

end

section
/-!
PROOF. ATOMS on the scratchpad, and O23.
-/

namespace Sys2Proof.Claims

open Sys2Proof.Machine

/-! ## Words of the scratchpad -/

/-- The scratchpad after one lane of an ATOMS. -/
def laneWords (p : AtomOp) (m : FMap LaneVal) (l : AtomLane) : FMap LaneVal :=
  match l.loc with
  | some w => spmPut m w (spmAtomNew p (m.get LaneVal.zero w) l.x l.y)
  | none => m

/-- The old word of one lane. -/
def laneWord (m : FMap LaneVal) (l : AtomLane) : LaneVal := (l.loc.map (m.get LaneVal.zero)).getD LaneVal.zero

theorem get_laneWords (p : AtomOp) (lanes : List AtomLane) (m : FMap LaneVal) (i : Nat) :
    (lanes.foldl (laneWords p) m).get LaneVal.zero i = spmWordAfter p lanes i (m.get LaneVal.zero i) := by
  induction lanes generalizing m with
  | nil => rfl
  | cons l t ih =>
    rw [List.foldl_cons, ih, spmWordAfter, spmWordAfter, List.foldl_cons]
    congr 1
    unfold laneWords
    cases hloc : l.loc with
    | none => simp
    | some w =>
      dsimp only [spmPut]
      rw [FMap.get_set]
      by_cases hi : i = w
      · subst hi
        cases hp : (m.get LaneVal.zero i).p <;> simp [spmAtomNew, atomNew_eq_atomValue, hp]
      · simp [hi, Ne.symm hi]

/-- The old words of an ATOMS, each lane's in its turn (R348). -/
theorem oldWords_eq (p : AtomOp) (lanes : List AtomLane) (h : ∀ l ∈ lanes, l.loc ≠ none) (m : FMap LaneVal) (olds : List (Nat × LaneVal)) :
    lanes.foldl (fun (acc : List (Nat × LaneVal) × FMap LaneVal) l => match l.loc with
      | some w => (acc.1 ++ [(l.lane, acc.2.get LaneVal.zero w)], spmPut acc.2 w (spmAtomNew p (acc.2.get LaneVal.zero w) l.x l.y))
      | none => acc) (olds, m) = (olds ++ inTurn (laneWords p) laneWord m lanes, lanes.foldl (laneWords p) m) := by
  induction lanes generalizing m olds with
  | nil => simp [inTurn]
  | cons l t ih =>
    obtain ⟨w, hw⟩ := Option.ne_none_iff_exists'.1 (h l (by simp))
    rw [List.foldl_cons]
    simp only [hw]
    rw [ih fun x hx => h x (by simp [hx])]
    simp [inTurn, laneWords, laneWord, hw]

/-- An ATOMS performed outside reproducible mode: the words as its lanes leave them in turn, and the old ones as one outstanding result. -/
theorem performSpm_eq {s : State} {k : Nat} {p : AtomOp} {lanes : List AtomLane} (dst : Dest) (hr : (s.waveAt k).repro = false)
    (hl : ∀ l ∈ lanes, l.loc ≠ none) :
    let g := s.wgAt (s.waveAt k).id.wgKey
    let u := s.setWgAt (s.waveAt k).id.wgKey { g with scratch := lanes.foldl (laneWords p) g.scratch }
    s.performSpm k (.spmAtom p lanes dst) = if dst = .none then u else
      u.setWaveAt k (pending (s.waveAt k) (Pend.plain (dst.ofLanes (inTurn (laneWords p) laneWord g.scratch lanes)) (atomMask lanes))) := by
  intro g u
  unfold State.performSpm
  dsimp only
  generalize hf : List.foldl _ _ lanes = r
  obtain rfl : r = _ := hf.symm.trans (oldWords_eq p lanes hl _ [])
  split
  · next h =>
    subst h
    rfl
  · next h => exact addPend_eq (s := u) hr (ofLanes_ne_nil h _)

/-- What the outstanding result of an ATOMS promises: a value of each lane in the lanes of a vector register, that of lane 0 elsewhere. -/
theorem promises_ofLanes {r : State} {d : Dest} {lanes : List AtomLane} {olds : List (Nat × LaneVal)} {w : Nat → LaneVal}
    (hr : r.wave.repro = false) (hd : d ≠ .none) (hold : ∀ n ∈ lanes.map (·.lane), olds.find? (fun e => e.1 == n) = some (n, w n))
    (h0 : (∃ n, d = .vec n) ∨ lanes.map (·.lane) = [0]) :
    Promises r (Pend.plain (d.ofLanes olds) (atomMask lanes)) d (lanes.map (·.lane)) fun l => ⟨(w l).bits.setWidth 64, (w l).p⟩ := by
  have first (h : lanes.map (·.lane) = [0]) := hold 0 (by simp [h])
  cases d with
  | none => exact absurd rfl hd
  | vec n =>
    refine ⟨getLsbD_atomMask lanes, ⟨rfl, rfl, rfl⟩, _, rfl, fun l hm hl => ?_⟩
    rw [List.getD_eq_getElem _ _ (by simpa using hl)]
    simp [hold l hm]
  | scal i =>
    have h0 := h0.resolve_left (by simp)
    refine ⟨fun n => ?_, ⟨rfl, rfl, rfl⟩, ?_⟩
    · change _ = decide (n < 64 ∧ n ∈ [0])
      rw [← h0]
      exact getLsbD_atomMask lanes n
    · simp [WritesAs, Pend.plain, Dest.ofLanes, h0, first h0]
  | wgreg i =>
    have h0 := h0.resolve_left (by simp)
    refine ⟨fun n => ?_, ⟨rfl, rfl, rfl⟩, ?_⟩
    · change _ = decide (n < 64 ∧ n ∈ [0])
      rw [← h0]
      exact getLsbD_atomMask lanes n
    · simp [WritesAs, Pend.plain, Dest.ofLanes, h0, first h0, hr, sharedOf]

/-! ## ATOMS -/

theorem ran_retire (u : State) (sw : Bool) : Ran u u.wave sw (u.retire sw) := by
  have h : u.retire sw = goneOn u u.wave [] sw 1 := retireN_eq_goneOn u sw 1
  exact ⟨h, h ▸ goneOn_sameBytes u u.wave [] sw 1⟩

section
variable (s : State) (vector : Bool) (d o : Opd)

theorem map_lane_spmLanes : (spmLanes s vector d o).map (·.lane) = if vector then activeList s else [0] := by
  simp [spmLanes, Function.comp_def]

theorem nodup_spmLanes : ((spmLanes s vector d o).map (·.lane)).Nodup := by
  rw [map_lane_spmLanes]
  cases vector with
  | true => exact List.nodup_range.filter _
  | false => exact List.nodup_singleton 0

theorem loc_spmLanes {l : AtomLane} (h : l ∈ spmLanes s vector d o) : l.loc = some ((s.offsetOf o l.lane).bits.toNat / 4) := by
  obtain ⟨n, -, rfl⟩ := List.mem_map.1 h
  rfl

/-- The old word of a lane of an ATOMS: what the lanes before it leave (R348). -/
theorem find_oldWords (p : AtomOp) (m : FMap LaneVal) {n : Nat} (hn : n ∈ (spmLanes s vector d o).map (·.lane)) :
    (inTurn (laneWords p) laneWord m (spmLanes s vector d o)).find? (fun e => e.1 == n) =
      some (n, spmWordAfter p (lanesBefore (spmLanes s vector d o) n) ((s.offsetOf o n).bits.toNat / 4)
        (m.get LaneVal.zero ((s.offsetOf o n).bits.toNat / 4))) := by
  obtain ⟨l, hl, rfl⟩ := List.mem_map.1 hn
  rw [inTurn_find _ _ (nodup_spmLanes s vector d o) hl, laneWord, loc_spmLanes s vector d o hl]
  simp only [Option.map_some, Option.getD_some, get_laneWords]

end

/-- An ATOMS's operands as the checks see them: D, and D+1 under cas, is one group (R151, R345). -/
def atomsForm (d o : Opd) (p : AtomOp) : Form := { atomForm d o p true with data := none }

theorem atomsForm_eq (d o : Opd) (p : AtomOp) : atomsForm d o p = { a := some { o := o }, dst := some (atomGrp d p) } := rfl

/-- The destination of an atomic that is no vector instruction's is written from lane 0 alone (R157). -/
theorem dest_of_atoms {s : State} {d o : Opd} {p : AtomOp} (hill : (o.isVec && d.isScalarReg) = false) (hd : s.dest d ≠ .none) :
    (∃ n, s.dest d = .vec n) ∨ (atomsForm d o p).isVec = false := by
  cases d with
  | v c => exact .inl ⟨_, rfl⟩
  | s i => exact .inr (by simpa [atomsForm, Form.isVec, Form.all, Form.sources, atomForm, Opd.isVec, Opd.isScalarReg] using hill)
  | g i => exact .inr (by simpa [atomsForm, Form.isVec, Form.all, Form.sources, atomForm, Opd.isVec, Opd.isScalarReg] using hill)
  | zero => exact absurd rfl hd
  | laneid => exact absurd rfl hd
  | waveid => exact absurd rfl hd
  | time => exact absurd rfl hd
  | bad b => exact absurd rfl hd

theorem extra_of_formTrap {s : State} {f : Form} {extra : Bool} (h : s.formTrap f extra = none) : extra = false := by
  unfold State.formTrap at h
  cases extra with
  | false => rfl
  | true => simp at h

/-- The checks of an ATOMS pass. -/
def AtomsPass (s : State) (d o : Opd) (c : OrdCode) (p : AtomOp) : Prop :=
  spmPasses s (atomsForm d o p) (!(c == .plain || c == .wg) || !dataReg d || (p == .cas && d == .zero) || (o.isVec && d.isScalarReg)) o 4
    (fun l => (s.offsetOf o l).p) (s.atomTok (atomsForm d o p).isVec d o p)

section
variable {s : State} {sw : Bool} {d o : Opd} {c : OrdCode} {p : AtomOp} (hi : s.issuing = true) (hp : AtomsPass s d o c p)
include hi hp

/-- What an ATOMS whose checks pass does. -/
theorem execAtoms_of_passes : execAtoms sw d o c p s =
    (let e : Eff := .spmAtom p (spmLanes s (atomsForm d o p).isVec d o) (s.dest d)
     if s.wave.repro then
       s.withRoom 1 fun s => .next ((((s.hold s.iss.cur e).setWave (s.hold s.iss.cur e).wave.clearIdem).retire sw).endQuantum)
     else
       let r := (s.releaseAt (ordScope c)).performSpm s.iss.cur e
       .next (((r.setWave r.wave.clearIdem).acquireAt (ordScope c)).retire sw)) := by
  obtain ⟨hform, hpick, hpoison⟩ := hp
  unfold execAtoms
  rw [← atomsForm_eq]
  have hbad : (!spmOrd c || atomBad d o p) =
      (!(c == .plain || c == .wg) || !dataReg d || (p == .cas && d == .zero) || (o.isVec && d.isScalarReg)) := by
    simp only [spmOrd, atomBad, Bool.or_assoc]
  dsimp only
  rw [hbad, hform, hpick, hpoison, show firstTrap [none, none, none] = none from rfl, guarded_of_none _ hi]
  rfl

/-- In reproducible mode the wave holds the ATOMS, and its quantum ends (R122, R207). -/
theorem atoms_held (hr : s.wave.repro = true) (room : fifoRoom s) : Goes (.atoms sw d o c p) s fun t => ∃ t0,
    Ran s { s.wave with fifo := s.wave.fifo ++ [.spmAtom p (spmLanes s (atomsForm d o p).isVec d o) (s.dest d)],
                        idem := { s.wave.idem with idv := false } } sw t0 ∧ t = t0.endQuantum := by
  refine ⟨_, (execAtoms_of_passes hi hp).trans ?_, _, ran_setWave s _ sw rfl rfl, rfl⟩
  dsimp only
  rw [if_pos hr, withRoom_of_fifoRooms room]
  simp only [State.hold, State.modWaveAt, State.setWave, State.setWaveAt_iss, State.wave_def, State.waveAt_setWaveAt,
    State.setWaveAt_setWaveAt, Wave.clearIdem]

end

theorem setWave_clearIdem (u : State) (w : Wave) : (u.setWave w).setWave (u.setWave w).wave.clearIdem = u.setWave w.clearIdem := by
  simp only [State.setWave, State.setWaveAt_iss, State.wave_def, State.waveAt_setWaveAt, State.setWaveAt_setWaveAt]

theorem clearIdem_pending (w : Wave) (p : Pend) :
    (pending w p).clearIdem = { w with pend := w.pend ++ [p], idem := { w.idem with idv := false } } := by
  unfold pending Wave.clearIdem
  split <;> rfl

/-- An ATOMS performed for the issuing wave, which then gives up its idempotent right (R266, R348). -/
theorem performSpm_clearIdem {r : State} {p : AtomOp} {lanes : List AtomLane} (dst : Dest) (hr : r.wave.repro = false)
    (hl : ∀ l ∈ lanes, l.loc ≠ none) :
    let g := r.wgAt r.wave.id.wgKey
    let q := Pend.plain (dst.ofLanes (inTurn (laneWords p) laneWord g.scratch lanes)) (atomMask lanes)
    let u := r.performSpm r.iss.cur (.spmAtom p lanes dst)
    u.setWave u.wave.clearIdem = (r.setWgAt r.wave.id.wgKey { g with scratch := lanes.foldl (laneWords p) g.scratch }).setWave
      { r.wave with pend := if dst = .none then r.wave.pend else r.wave.pend ++ [q], idem := { r.wave.idem with idv := false } } := by
  dsimp only
  rw [performSpm_eq (k := r.iss.cur) dst hr hl]
  split
  · rfl
  · exact (setWave_clearIdem _ _).trans (congrArg _ (clearIdem_pending r.wave _))

/-- Outside reproducible mode the ATOMS is performed at its issue (R345, R348). -/
theorem atoms_performed {s : State} {sw : Bool} {d o : Opd} {c : OrdCode} {p : AtomOp} (hi : s.issuing = true) (hp : AtomsPass s d o c p)
    (hr : s.wave.repro = false) : Goes (.atoms sw d o c p) s fun t =>
      let r := s.releaseAt (ordScope c)
      let lanes := spmLanes s (atomsForm d o p).isVec d o
      let g := r.wgAt r.wave.id.wgKey
      ∃ words pend,
        let u := (r.setWgAt r.wave.id.wgKey { g with scratch := words }).setWave
          { r.wave with pend := pend, idem := { r.wave.idem with idv := false } }
        let v := u.acquireAt (ordScope c)
        Ran v v.wave sw t ∧
        (∀ i, words.get LaneVal.zero i = spmWordAfter p lanes i (g.scratch.get LaneVal.zero i)) ∧
        (if s.dest d = .none then pend = r.wave.pend
        else ∃ q, pend = r.wave.pend ++ [q] ∧ Promises r q (s.dest d) (lanes.map (·.lane)) fun l =>
          let i := (s.offsetOf o l).bits.toNat / 4
          let w := spmWordAfter p (lanesBefore lanes l) i (g.scratch.get LaneVal.zero i)
          ⟨w.bits.setWidth 64, w.p⟩) := by
  let v := (atomsForm d o p).isVec
  let lanes := spmLanes s v d o
  let r := s.releaseAt (ordScope c)
  have task : SameTask s r := releaseAt_sameTask s (ordScope c)
  have cur : r.iss.cur = s.iss.cur := congrArg (·.cur) task.iss
  have rrepro : r.wave.repro = false := by
    rw [State.wave_def, cur, task.repro]
    exact hr
  have locs : ∀ l ∈ lanes, l.loc ≠ none := fun l hl => by simp [loc_spmLanes s v d o hl]
  have performed := performSpm_clearIdem (p := p) (s.dest d) rrepro locs
  let olds := inTurn (laneWords p) laneWord (r.wgAt r.wave.id.wgKey).scratch lanes
  let pend := if s.dest d = .none then r.wave.pend else r.wave.pend ++ [Pend.plain ((s.dest d).ofLanes olds) (atomMask lanes)]
  refine ⟨_, (execAtoms_of_passes hi hp).trans ?_, _, pend, ran_retire _ sw, get_laneWords p lanes _, ?_⟩
  · dsimp only
    rw [if_neg (by simp [hr]), ← cur, performed]
  · split
    · next hd => exact if_pos hd
    · next hd =>
      refine ⟨_, if_neg hd, promises_ofLanes rrepro hd (fun n hn => find_oldWords s v d o p _ hn) ?_⟩
      refine (dest_of_atoms (p := p) (Bool.or_eq_false_iff.1 (extra_of_formTrap hp.1)).2 hd).imp_right fun hv => ?_
      rw [map_lane_spmLanes, show v = false from hv]
      rfl

/-- Settles O23: what leaves the FIFO is performed lane by lane by `performMem_atom`, and an ATOMS by `atoms_performed` or held by
`atoms_held`. -/
theorem atomicPerformance : Obligations.AtomicPerformance := by
  unfold Obligations.AtomicPerformance
  exact ⟨fun k s cs p ord lanes pc dst pages rest hn hr hd h64 hl hc => drain_atom hn hr hd h64 hl hc,
    fun sw d o c p s hi hp => ⟨atoms_performed hi hp, atoms_held hi hp⟩⟩

end Sys2Proof.Claims

end

section
/-!
PROOF. The instructions that work lane by lane on floating-point elements: the operations, the functions and the conversions.
-/

namespace Sys2Proof.Claims

open Sys2Proof.Machine

/-! ## Lane by lane -/

theorem fenv_eq_floatEnv (s : State) : s.fenv = floatEnv s := by
  unfold State.fenv floatEnv
  generalize s.wave.env.fmode = m
  revert m
  decide

theorem ftypeFmt_eq_floatFmt (t : FType) : ftypeFmt t = floatFmt t := by cases t <;> rfl

/-- An instruction that computes lane by lane goes on with the results of its lanes. -/
theorem goes_of_compute {i : Instr} {s : State} {sw late extra : Bool} {d a : Opd} {b : Option Opd} {lane : State → Nat → LRes} {r : Nat → LRes}
    (he : exec i s = s.compute sw late (regForm d a b) extra d lane) (hi : s.issuing = true) (ht : s.formTrap (regForm d a b) extra = none)
    (hr : ∀ l, lane s l = r l) : Goes i s (Computes s sw late (s.dest d) (laneList s (regForm d a b).isVec) r) := by
  obtain ⟨t, ht, hc⟩ := compute_goes s sw late (regForm d a b) extra d lane hi ht rfl rfl
  obtain rfl : lane s = r := funext hr
  exact ⟨t, he.trans ht, hc⟩

@[simp] theorem tok_zero : ScalVal.zero.tok = none := rfl

theorem firstTok_cons (x : Option Word32) (l : List (Option Word32)) : firstTok (x :: l) = x.or (firstTok l) := by cases x <;> rfl

/-! ## Operations and functions -/

/-- Element `e` of a number that stands for a source of a type. -/
def elemField (t : FType) (e x : Nat) : Nat :=
  match t with
  | .f32 => x % 2 ^ 32
  | _ => fieldAt x 16 e

theorem elemOf_eq_elemField (t : FType) (x : Word64) (e : Nat) : elemOf t x e = elemField t e x.toNat := by cases t <;> rfl

/-- Results of the elements, packed, are those of `onElements` (R42, R378). -/
theorem lres_mapElems (t : FType) (f : (Nat → Nat) → FRes) : (mapElems t fun e => f (elemField t e)).lres = onElements t f := by
  have low : (fun x => fieldAt x 16 0) = fun x => x % 2 ^ 16 := by
    funext x
    simp [fieldAt]
  have halves (u v : FRes) : (packRes 16 [u, v]).lres = .val (BitVec.ofNat 64 (u.bits + 2 ^ 16 * v.bits)) (u.flags ||| v.flags) := by
    simp [packRes, FRes.lres]
  have packed : (packRes 16 [f fun x => fieldAt x 16 0, f fun x => fieldAt x 16 1]).lres = onElements .f16x2 f := by
    rw [low, halves]
    rfl
  cases t with
  | f32 => rfl
  | f16x2 => exact packed
  | bf16x2 => exact packed

/-- A lane of a floating-point operation (R378). -/
theorem fopLane_eq_fromSources (s : State) (d a : Opd) (b : Option Opd) (readsD : Bool) (t : FType) (f : FopFn) (vector : Bool) (l : Nat) :
    fopLane vector d a b readsD t f s l = fromSources s vector d a b readsD (fun x y z => onElements t fun e =>
      f (floatFmt t) (floatEnv s) (fsrc (floatFmt t) (floatEnv s) (e x.toNat)) (fsrc (floatFmt t) (floatEnv s) (e y.toNat))
        (fsrc (floatFmt t) (floatEnv s) (e z.toNat))) l := by
  simp only [fopLane, elemOf_eq_elemField, fenv_eq_floatEnv, ftypeFmt_eq_floatFmt, ← lres_mapElems]
  rfl

/-- A lane of a function (R381). -/
theorem ffnLane_eq_fromSources (s : State) (d a : Opd) (t : FType) (op : FfnOp) (vector : Bool) (l : Nat) :
    ffnLane vector a t op s l = fromSources s vector d a none false (fun x _ _ => onElements t fun e =>
      ffnElem op s.wave.env.ftv.toNat (floatFmt t) (floatEnv s) (e x.toNat)) l := by
  simp only [fromSources, maybeB, ffnLane, Bool.false_eq_true, if_false, firstTok_cons, tok_zero, Option.none_or,
    elemOf_eq_elemField, fenv_eq_floatEnv, ftypeFmt_eq_floatFmt, ← lres_mapElems] <;> rfl

theorem exec_of_floatOp {i : Instr} {o : FloatOp} (h : floatOp i = some o) (s : State) :
    exec i s = s.fop o.sw o.late o.d o.a o.b o.readsD o.t o.f := by
  cases i <;> simp only [floatOp, reduceCtorEq, Option.some.injEq] at h <;> subst h <;> rfl

theorem exec_of_functionOp {i : Instr} {sw : Bool} {d a : Opd} {t : FType} {op : FfnOp} (h : functionOp i = some (sw, d, a, t, op))
    (s : State) : exec i s = s.ffn sw d a t op := by
  cases i <;> simp only [functionOp, reduceCtorEq, Option.some.injEq, Prod.mk.injEq] at h <;> obtain ⟨rfl, rfl, rfl, rfl, rfl⟩ := h <;> rfl

/-- Settles O6: the operations share `State.fop`, whose lanes are those of `fopLane_eq_fromSources`. -/
theorem floatResults : Obligations.FloatResults := by
  unfold Obligations.FloatResults
  exact fun i o s ho hi ht => goes_of_compute (exec_of_floatOp ho s) hi ht (fopLane_eq_fromSources s _ _ _ _ _ _ _)

/-- Settles O7: the functions share `State.ffn`, whose lanes are those of `ffnLane_eq_fromSources`. -/
theorem functionResults : Obligations.FunctionResults := by
  unfold Obligations.FunctionResults
  exact fun i sw d a t op s ho hi ht => goes_of_compute (exec_of_functionOp ho s) hi ht (ffnLane_eq_fromSources s _ _ _ _ _)

/-! ## Conversions -/

theorem sint_eq_asSigned {w x : Nat} (hw : 0 < w) (hx : x < 2 ^ w) : sint w x = asSigned w x := by
  have h : 2 ^ w = 2 * 2 ^ (w - 1) := by rw [← pow_succ', Nat.sub_add_cancel hw]
  simp only [sint, asSigned, Nat.mod_eq_of_lt hx, hw, true_and]
  split <;> split
  · simp
  · omega
  · omega
  · rfl

/-- A result that may saturate (R47, R367). -/
theorem saturating_eq_saturated (s : State) (r : FRes) : r.saturating (floatEnv s).tsat = saturated s r := by
  have sv : ∀ f : BitVec 6, (f &&& flSV != 0#6) = f.getLsbD 5 := by decide
  unfold FRes.saturating saturated
  rw [sv]
  exact if_congr Bool.and_eq_true_iff rfl rfl

/-- A lane of CVT with two sources (R45, R367). -/
theorem cvtLaneOf_eq_two (s : State) {p : CvtPair} (h : cvtTwoSource p = true) (d a : Opd) (b : BitVec 7) (vector : Bool) (l : Nat) :
    cvtLaneOf vector a b p s l = fromSources s vector d a (some (Opd.ofCode b)) false (fun x y _ =>
      saturated s (cvtLane p (floatEnv s) (x.toNat % 2 ^ 32) (y.toNat % 2 ^ 32) 0)) l := by
  simp only [cvtLaneOf, cvtB, h, fromSources, saturating_eq_saturated, fenv_eq_floatEnv, if_true, Bool.false_eq_true, if_false,
    firstTok_cons, tok_zero, Option.none_or] <;> rfl

/-- A lane of CVT with a source and a selector (R45, R367). -/
theorem cvtLaneOf_eq_one (s : State) {p : CvtPair} (h : cvtTwoSource p = false) (d a : Opd) (b : BitVec 7) (vector : Bool) (l : Nat) :
    cvtLaneOf vector a b p s l = fromSources s vector d a none false (fun x _ _ =>
      saturated s (cvtLane p (floatEnv s) (x.toNat % 2 ^ 32) 0 b.toNat)) l := by
  simp only [cvtLaneOf, cvtB, h, fromSources, saturating_eq_saturated, fenv_eq_floatEnv, Bool.false_eq_true, if_false, State.optB, maybeB,
    firstTok_cons, tok_zero, Option.none_or] <;> rfl

/-- A lane of FRND (R51). -/
theorem frndLane_eq_fromSources (s : State) (d a : Opd) (b : BitVec 7) (vector : Bool) (l : Nat) :
    frndLane vector a b s l = fromSources s vector d a none false (fun x _ _ =>
      (frnd (if b = 4#7 then (floatEnv s).rm else Rm.ofBits (b.setWidth 2)) (floatEnv s) (x.toNat % 2 ^ 32)).lres) l := by
  simp only [frndLane, fromSources, fenv_eq_floatEnv, Bool.false_eq_true, if_false, maybeB, firstTok_cons, tok_zero, Option.none_or] <;> rfl

/-- The element of a lane of MXDQ, read from the low 32 bits (R410). -/
theorem mxdq_lowWord (b : BitVec 7) (v : Nat) :
    mxdq (mxFmtOf b) (v / 256 % 256) (if b = 0#7 then sint 8 (v % 256) else sint 4 (v % 16)) =
      if b = 0#7 then mxdq mxInt8 (v % 2 ^ 32 / 256 % 256) (asSigned 8 (v % 2 ^ 32 % 256))
      else mxdq mxI4 (v % 2 ^ 32 / 256 % 256) (asSigned 4 (v % 2 ^ 32 % 16)) := by
  have byte : sint 8 (v % 256) = asSigned 8 (v % 256) := sint_eq_asSigned (by decide) (Nat.mod_lt v (by decide))
  have nibble : sint 4 (v % 16) = asSigned 4 (v % 16) := sint_eq_asSigned (by decide) (Nat.mod_lt v (by decide))
  rw [show v % 2 ^ 32 / 256 % 256 = v / 256 % 256 by omega, show v % 2 ^ 32 % 256 = v % 256 by omega,
    show v % 2 ^ 32 % 16 = v % 16 by omega, byte, nibble, mxFmtOf]
  split <;> rfl

/-- A lane of MXDQ (R410). -/
theorem mxdqLane_eq_fromSources (s : State) (d a : Opd) (b : BitVec 7) (vector : Bool) (l : Nat) :
    mxdqLane vector a b s l = fromSources s vector d a none false (fun x _ _ =>
      .val (BitVec.ofNat 64 (if b = 0#7 then mxdq mxInt8 (x.toNat % 2 ^ 32 / 256 % 256) (asSigned 8 (x.toNat % 2 ^ 32 % 256))
        else mxdq mxI4 (x.toNat % 2 ^ 32 / 256 % 256) (asSigned 4 (x.toNat % 2 ^ 32 % 16)))) 0#6) l := by
  simp only [mxdqLane, fromSources, mxdq_lowWord, Bool.false_eq_true, if_false, maybeB, firstTok_cons, tok_zero, Option.none_or] <;> rfl

/-- Settles O9: CVT of two sources and of one, FRND and MXDQ, each by its lane. -/
theorem conversionResults : Obligations.ConversionResults := by
  unfold Obligations.ConversionResults
  intro i s sw d a b bad f ho hi ht
  cases i with
  | cvt _ _ _ _ p =>
    cases hp : cvtTwoSource p <;> simp only [convertOp, hp, if_true, Bool.false_eq_true, if_false, Option.some.injEq, Prod.mk.injEq] at ho <;>
      obtain ⟨rfl, rfl, rfl, rfl, rfl, rfl⟩ := ho
    · exact goes_of_compute (by simp only [exec, execCvt, cvtB, hp]; rfl) hi ht (cvtLaneOf_eq_one s hp _ _ _ _)
    · exact goes_of_compute (by simp only [exec, execCvt, cvtB, hp]; rfl) hi ht (cvtLaneOf_eq_two s hp _ _ _ _)
  | frnd =>
    obtain ⟨rfl, rfl, rfl, rfl, rfl, rfl⟩ := by simpa only [convertOp, Option.some.injEq, Prod.mk.injEq] using ho
    exact goes_of_compute rfl hi ht (frndLane_eq_fromSources s _ _ _ _)
  | mxdq =>
    obtain ⟨rfl, rfl, rfl, rfl, rfl, rfl⟩ := by simpa only [convertOp, Option.some.injEq, Prod.mk.injEq] using ho
    exact goes_of_compute rfl hi ht (mxdqLane_eq_fromSources s _ _ _ _)
  | _ => cases ho

end Sys2Proof.Claims
end

section
/-!
PROOF. The block quantisations across the lanes of a hardware wave (R408, R409, R447).
-/

namespace Sys2Proof.Claims

open Sys2Proof.Machine

/-! ## The part of a lane in its block -/

section
variable {s : State} {o : BlockOp} {l : Nat}

theorem blockPart_of_tok {t : Word32} (h : ((laneWave s l).findSome? fun x => firstTok (o.toks x ++ [s.guardTok x])) = some t) :
    blockPart s o l = .tok t := by
  rw [blockPart, h]

theorem blockPart_of_no_tok (h : ((laneWave s l).findSome? fun x => firstTok (o.toks x ++ [s.guardTok x])) = none) :
    blockPart s o l = .val (BitVec.ofNat 64 ((o.block (l / 32 * 32)).1.getD (l % 32) 0))
      (if (laneWave s l).head? = some l then (o.block (l / 32 * 32)).2 else 0#6) := by
  rw [blockPart, h]

end

/-- The active lanes of the hardware wave that starts at lane `h`. -/
def lanesFrom (s : State) (h : Nat) : List Nat := (activeList s).filter fun l => decide (h ≤ l ∧ l < h + 32)

theorem laneWave_eq_lanesFrom {s : State} {h l : Nat} (hh : h % 32 = 0) (hl : l ∈ lanesFrom s h) : laneWave s l = lanesFrom s h := by
  have range := of_decide_eq_true (List.mem_filter.1 hl).2
  refine List.filter_congr fun x _ => decide_eq_decide.2 ?_
  omega

/-- The results of a hardware wave, each lane's its part of the block (R409). -/
theorem blockResults_eq_blockPart {s : State} (o : BlockOp) {h : Nat} (hh : h % 32 = 0) {toks : Nat → Option Word32} {block : List Nat × BitVec 6}
    (htoks : ∀ l, toks l = firstTok (o.toks l ++ [s.guardTok l])) (hblock : block = o.block h) :
    blockResults s h toks block = (lanesFrom s h).map fun l => (l, blockPart s o l) := by
  obtain rfl : toks = fun l => firstTok (o.toks l ++ [s.guardTok l]) := funext htoks
  subst hblock
  unfold blockResults
  dsimp only
  split
  · next t ht =>
    refine List.map_congr_left fun l hl => ?_
    have part := blockPart_of_tok (o := o) ((congrArg _ (laneWave_eq_lanesFrom hh hl)).trans ht)
    rw [part]
  · next ht =>
    refine List.map_congr_left fun l hl => ?_
    have part := blockPart_of_no_tok (o := o) ((congrArg _ (laneWave_eq_lanesFrom hh hl)).trans ht)
    have range := of_decide_eq_true (List.mem_filter.1 hl).2
    rw [part, laneWave_eq_lanesFrom hh hl, show l / 32 * 32 = h by omega, show l % 32 = l - h by omega]
    rfl

/-- The lanes below 32 and those from 32 on, in order. -/
theorem activeList_eq_halves (s : State) : activeList s = lanesFrom s 0 ++ lanesFrom s 32 := by
  have halves : List.range 64 = List.range 32 ++ (List.range 32).map (32 + ·) := by decide
  have low : (List.range 32).filter s.active.getLsbD = lanesFrom s 0 := by
    have none : ((List.range 32).map (32 + ·)).filter (fun l => decide (0 ≤ l ∧ l < 0 + 32) && s.active.getLsbD l) = [] := by simp
    rw [lanesFrom, activeList, List.filter_filter, halves, List.filter_append, none, List.append_nil]
    exact List.filter_congr fun l hl => by simp [List.mem_range.1 hl]
  have high : ((List.range 32).map (32 + ·)).filter s.active.getLsbD = lanesFrom s 32 := by
    have none : (List.range 32).filter (fun l => decide (32 ≤ l ∧ l < 32 + 32) && s.active.getLsbD l) = [] := by
      simp +contextual [Nat.not_le.2]
    rw [lanesFrom, activeList, List.filter_filter, halves, List.filter_append, none, List.nil_append]
    refine List.filter_congr fun l hl => ?_
    obtain ⟨i, hi, rfl⟩ := List.mem_map.1 hl
    have : 32 + i < 64 := by
      have := List.mem_range.1 hi
      omega
    simp [this]
  rw [activeList, halves, List.filter_append, low, high]

/-- The hardware waves that a wave has, one after the other, have its lanes (R105). -/
theorem heldLanes_eq_halves (s : State) : heldLanes s = s.halves.flatMap (lanesFrom s) := by
  unfold heldLanes State.halves Wave.lanes
  cases s.wave.id.paired
  · simp [lanesFrom]
  · have all : (activeList s).filter (fun l => decide (l < 64)) = activeList s :=
      List.filter_eq_self.2 fun l hl => decide_eq_true (List.mem_range.1 (List.mem_filter.1 hl).1)
    simp only [if_true, List.flatMap_cons, List.flatMap_nil, List.append_nil, all]
    exact activeList_eq_halves s

theorem mod_of_mem_halves {s : State} {h : Nat} (hh : h ∈ s.halves) : h % 32 = 0 := by
  unfold State.halves at hh
  split at hh
  · obtain rfl | rfl := List.mem_pair.1 hh <;> rfl
  · obtain rfl := List.mem_singleton.1 hh
    rfl

/-! ## The block instructions -/

/-- The destination of a block instruction is a vector register. -/
theorem dest_of_isVecReg {s : State} {f : Form} {d : Opd} {bad : Bool} (h : s.formTrap f (!isVecReg d || bad) = none) :
    ∃ n, s.dest d = .vec n := by
  have vec : isVecReg d = true := by
    cases hd : isVecReg d
    · simp [State.formTrap, hd] at h
    · rfl
  cases d with
  | v c => exact ⟨_, rfl⟩
  | _ => cases vec

/-- A block instruction goes on with each lane's part of its block (R409, R447). -/
theorem goes_of_block {i : Instr} {s : State} {o : BlockOp} {toks : State → Nat → Option Word32} {block : State → Nat → List Nat × BitVec 6}
    (he : exec i s = s.blockOp o.sw o.form o.bad o.d toks block) (hi : s.issuing = true) (ht : s.formTrap o.form o.bad = none)
    (hd : ∃ n, s.dest o.d = .vec n) (htoks : ∀ l, toks s l = firstTok (o.toks l ++ [s.guardTok l])) (hblock : ∀ h, block s h = o.block h) :
    Goes i s (Computes s o.sw false (s.dest o.d) (heldLanes s) (blockPart s o)) := by
  have results : s.halves.flatMap (fun h => blockResults s h (toks s) (block s h)) = (heldLanes s).map fun l => (l, blockPart s o l) := by
    rw [heldLanes_eq_halves, List.map_flatMap]
    refine List.flatMap_congr fun h hh => blockResults_eq_blockPart o (mod_of_mem_halves hh) htoks (hblock h)
  obtain ⟨w, g, put, hr, hlo, hhi⟩ := putResults_withWave s false (s.dest o.d) (heldLanes s) (blockPart s o) (.inl (.inr hd))
  refine ⟨_, he.trans ?_, w, g, hr, hlo, hhi, went_withWave s w g o.sw 1 hi (by rw [hr.rest]) (by rw [hr.rest])⟩
  unfold State.blockOp
  rw [ht, guarded_of_none _ hi, results, put]
  rfl

/-- MXQ's code of a lane (R409). -/
theorem mxqBlock_eq (b : BitVec 7) (src : Nat → Nat) (h : Nat) :
    mxqBlock b src h = (fun r : Nat × List Int × BitVec 6 => (r.2.1.map fun n => r.1 * 256 + (n % 256).toNat, r.2.2))
      (mxq (if b = 0#7 then mxInt8 else mxI4) ((List.range 32).map fun i => src (h + i))) := rfl

/-- TERQ's code byte of a lane (R447). -/
theorem terqBlock_eq (src : Nat → Nat → Nat) (h : Nat) :
    terqBlock src h = (fun r : Nat × List Nat × BitVec 6 => ((List.range 32).map fun i =>
      r.1 * 2 ^ 16 + r.2.1.getD (4 * i) 0 + 4 * r.2.1.getD (4 * i + 1) 0 + 16 * r.2.1.getD (4 * i + 2) 0 + 64 * r.2.1.getD (4 * i + 3) 0, r.2.2))
      (terq ((List.range 32).flatMap fun i => (List.range 4).map fun j => src j (h + i))) := by
  unfold terqBlock
  generalize terq _ = r
  refine congrArg (·, r.2.2) (List.map_congr_left fun i _ => ?_)
  rw [show List.range 4 = [0, 1, 2, 3] from rfl]
  simp only [List.foldl_cons, List.foldl_nil, Nat.add_zero]
  omega

/-- Settles O10: MXQ and TERQ share `State.blockOp`, whose hardware waves have the parts of `blockResults_eq_blockPart`. -/
theorem blockQuantisation : Obligations.BlockQuantisation := by
  unfold Obligations.BlockQuantisation
  intro i s o ho hi ht
  cases i with
  | mxq sw d a b =>
    obtain rfl := Option.some.inj ho
    have he : exec (.mxq sw d a b) s = s.blockOp sw { regForm d a none with xln := true } (!isVecReg d || decide (1 < b.toNat)) d
      (fun s l => firstTok [(s.srcA true a l).tok, s.guardTok l]) fun s h => mxqBlock b (fun l => s.activeBits (s.srcA true a l) l) h := rfl
    exact goes_of_block he hi ht (dest_of_isVecReg ht) (fun _ => rfl) fun h => mxqBlock_eq b _ h
  | terq sw d a =>
    obtain rfl := Option.some.inj ho
    have he : exec (.terq sw d a) s = s.blockOp sw { a := some { o := a, nv := 4 }, dst := some { o := d }, xln := true }
      (!isVecReg d || !isVecReg a) d (fun s l => firstTok ((List.range 4).map (fun j => (s.terqSrc a j l).tok) ++ [s.guardTok l]))
      fun s h => terqBlock (fun j l => s.activeBits (s.terqSrc a j l) l) h := rfl
    exact goes_of_block he hi ht (dest_of_isVecReg ht) (fun _ => rfl) fun h => terqBlock_eq _ h
  | _ => cases ho

end Sys2Proof.Claims
end

section
/-!
PROOF. GETSR and SETSR over the special registers (R152 to R155, R383, R439).
-/

namespace Sys2Proof.Claims

open Sys2Proof.Machine

/-! ## What a special register reads -/

theorem bit_eq_flag (b : Bool) (n : Nat) : bit b n = flag b * 2 ^ n := by cases b <;> simp [bit, flag]

theorem toNat_eq_flag (b : Bool) : b.toNat = flag b := by cases b <;> rfl

@[simp] theorem packed_nil : packed [] = 0#64 := rfl

@[simp] theorem packed_cons (x k : Nat) (fs : List (Nat × Nat)) : packed ((x, k) :: fs) = BitVec.ofNat 64 (x * 2 ^ k) + packed fs := by
  rw [packed, packed, List.map_cons, List.sum_cons, BitVec.ofNat_add]

theorem packed_one (n : Nat) : packed [(n, 0)] = BitVec.ofNat 64 n := by simp

/-- A register of one field is the field, extended (R152). -/
theorem setWidth_eq_packed {n : Nat} (x : BitVec n) : x.setWidth 64 = packed [(x.toNat, 0)] :=
  BitVec.eq_of_toNat_eq (by simp)

section
variable (s : State) (hi : Bool)

/-- WINFO (R102). -/
theorem winfo_eq_specialReg : BitVec.ofNat 64 (s.wave.id.winfo hi) = specialReg s hi 0x00 := by
  simp only [WaveId.winfo, specialReg, packed_cons, packed_nil, BitVec.ofNat_add, bit_eq_flag, toNat_eq_flag, pow_zero, mul_one,
    BitVec.add_zero, BitVec.add_assoc]

/-- LID (R102). -/
theorem lid_eq_specialReg : BitVec.ofNat 64 s.wave.id.lid = specialReg s hi 0x01 := by
  simp only [WaveId.lid, specialReg, packed_cons, packed_nil, BitVec.ofNat_add, bit_eq_flag, pow_zero, mul_one, BitVec.add_zero,
    BitVec.add_assoc]

/-- TIME is device time in 64 bits (R154). -/
theorem time_eq_specialReg : BitVec.ofNat 64 s.now = specialReg s hi 0x02 :=
  BitVec.eq_of_toNat_eq (by simp [specialReg, State.time])

/-- SHED: the class and the base class (R144). -/
theorem shed_eq_specialReg : s.wave.env.shedClass.setWidth 64 ||| (s.wave.env.shedBase.setWidth 64 <<< 3) = specialReg s hi 0x1C := by
  have fields : ∀ c b : BitVec 3, c.setWidth 64 ||| (b.setWidth 64 <<< 3) = packed [(c.toNat, 0), (b.toNat, 3)] := by decide
  exact fields _ _

/-- PRIO (R144). -/
theorem prio_eq_specialReg : BitVec.ofNat 64 s.wave.env.prio = specialReg s hi 0x1D := by
  simp only [Env.prio, specialReg, packed_cons, packed_nil, BitVec.ofNat_add, bit_eq_flag, pow_zero, mul_one, BitVec.add_zero,
    BitVec.add_assoc, Nat.reducePow]

/-- CONTRACT (R58). -/
theorem contract_eq_specialReg : BitVec.ofNat 64 s.contractReg = specialReg s hi 0x1F := by
  simp only [State.contractReg, specialReg, packed_cons, packed_nil, BitVec.ofNat_add, bit_eq_flag, pow_zero, mul_one, BitVec.add_zero,
    BitVec.add_assoc]

/-- HSTAT (R155). -/
theorem hstat_eq_specialReg : BitVec.ofNat 64 s.hstat = specialReg s hi 0x25 := by
  simp only [State.hstat, specialReg, packed_cons, packed_nil, BitVec.ofNat_add, bit_eq_flag, pow_zero, mul_one, BitVec.add_zero,
    BitVec.add_assoc]

/-- The special registers as the model reads them (R152). -/
theorem srRead_eq_specialReg {i : Nat} (h : i < 0x26) : s.srRead hi i = specialReg s hi i := by
  by_cases origin : 0x0C ≤ i ∧ i ≤ 0x1B
  · obtain ⟨h1, h2⟩ := origin
    interval_cases i <;> rfl
  · match i, h, origin with
    | 0x00, _, _ => exact winfo_eq_specialReg s hi
    | 0x01, _, _ => exact lid_eq_specialReg s hi
    | 0x02, _, _ => exact time_eq_specialReg s hi
    | 0x03, _, _ => exact (packed_one _).symm
    | 0x04, _, _ => exact setWidth_eq_packed s.wave.env.ftv
    | 0x05, _, _ => exact setWidth_eq_packed s.wave.env.fmode
    | 0x06, _, _ => exact setWidth_eq_packed (s.wave.lo.fflags ||| if s.wave.id.paired then s.wave.hi.fflags else 0#6)
    | 0x07, _, _ => exact setWidth_eq_packed s.wave.regs.wbase
    | 0x08, _, _ => rfl
    | 0x09, _, _ => rfl
    | 0x0A, _, _ => rfl
    | 0x0B, _, _ => rfl
    | 0x1C, _, _ => exact shed_eq_specialReg s hi
    | 0x1D, _, _ => exact prio_eq_specialReg s hi
    | 0x1E, _, _ => rfl
    | 0x1F, _, _ => exact contract_eq_specialReg s hi
    | 0x20, _, _ => exact setWidth_eq_packed s.wg.kern.width
    | 0x21, _, _ => exact (packed_one _).symm
    | 0x22, _, _ => rfl
    | 0x23, _, _ => exact (packed_one _).symm
    | 0x24, _, _ => exact (packed_one _).symm
    | 0x25, _, _ => exact hstat_eq_specialReg s hi
    | n + 0x26, h, _ => exact absurd h (by omega)

end

/-! ## A state whose issuing wave stands in its map as it is read -/

/-- `s` with the wave at `k` written back as it is. -/
def touch (s : State) (k : Nat) : State := s.setWaveAt k (s.waveAt k)

section
variable (s : State) (k : Nat)

theorem touch_cur : touch s s.iss.cur = withWave s s.wave [] := setWaveAt_withWave s s.wave

theorem touch_modWaveAt (f : Wave → Wave) : (touch s k).modWaveAt k f = touch (s.modWaveAt k f) k := by
  simp [touch, State.modWaveAt]

theorem touch_writeReg (m : Lanes) (v : RegVal) : (touch s k).writeReg k m v = touch (s.writeReg k m v) k := by
  have deliver (v : RegVal) : (touch s k).deliver k m v = touch (s.deliver k m v) k := by
    cases v with
    | wgreg => simp only [State.deliver, touch, State.waveAt_setWaveAt]; rfl
    | heldG => rfl
    | _ =>
      simp only [State.deliver]
      exact touch_modWaveAt s k _
  cases v with
  | wgreg i x =>
    have repro : ((touch s k).waveAt k).repro = (s.waveAt k).repro := by simp [touch]
    simp only [State.writeReg, repro]
    split
    · exact touch_modWaveAt s k _
    · exact deliver _
  | _ =>
    simp only [State.writeReg]
    exact deliver _

theorem touch_writeRegs (m : Lanes) (vs : List RegVal) : (touch s k).writeRegs k m vs = touch (s.writeRegs k m vs) k := by
  unfold State.writeRegs
  induction vs generalizing s with
  | nil => rfl
  | cons v vs ih => rw [List.foldl_cons, List.foldl_cons, touch_writeReg, ih]

theorem touch_noteG (vs : List RegVal) : (touch s k).noteG k vs = touch (s.noteG k vs) k := by
  unfold State.noteG
  split
  · exact touch_modWaveAt s k _
  · rfl

/-- Retiring writes the wave back in any case. -/
theorem touch_retire (sw : Bool) : (touch s s.iss.cur).retire sw = s.retire sw := by
  rw [touch_cur, State.retire, State.retire, retireN_eq_goneOn, retireN_eq_goneOn, withWave_wave, goneOn_withWave _ _ _ _ _ _ rfl rfl]

end

theorem retire_of_touch {s u : State} {v : Wave} {g : List CycEff} {sw : Bool} (e : touch u s.iss.cur = withWave s v g) :
    u.retire sw = (withWave s v g).retire sw := by
  have iss : u.iss = s.iss := show (touch u s.iss.cur).iss = s.iss by rw [e]; rfl
  rw [← e, ← iss, touch_retire]

/-! ## What a GETSR or SETSR asks first -/

theorem firstTrap_cons_none (ts : List (Option Trap)) : firstTrap (none :: ts) = firstTrap ts := rfl
theorem firstTrap_cons_some (t : Trap) (ts : List (Option Trap)) : firstTrap (some t :: ts) = some t := rfl

/-- A Handler register is named in handler mode, or not at all (R167). -/
theorem handlerTrap_eq_none {s : State} {i : Nat} (h : 0x08 ≤ i → i ≤ 0x0B → s.wave.env.hm = true) :
    (if srHandler i then s.privTrap else none) = none := by
  refine ite_eq_right_iff.2 fun hi => ?_
  obtain ⟨h1, h2⟩ := of_decide_eq_true hi
  exact if_pos (h h1 h2)

/-- Outside handler mode a Handler register takes PRIV (R167). -/
theorem handlerTrap_eq_priv {s : State} {i : Nat} (h1 : 0x08 ≤ i) (h2 : i ≤ 0x0B) (h : s.wave.env.hm = false) :
    (if srHandler i then s.privTrap else none) = some (s.wordTrap .priv) := by
  have named : srHandler i = true := decide_eq_true ⟨h1, h2⟩
  rw [if_pos named, State.privTrap, h]
  rfl

theorem guarded_of_some {s : State} {t : Trap} (body : State → Out) (hi : s.issuing = true) : s.guarded (some t) body = .next (s.takeTrap t) := by
  simp [State.guarded, hi]

/-- With nothing outstanding there is nothing to wait for (R38). -/
theorem settled_of_quiet {s : State} (h : quiet s) (body : State → Out) : s.settled body = body (touch s s.iss.cur) := by
  obtain ⟨hp, hf⟩ := h
  have flush : s.settle = touch s s.iss.cur := by
    rw [State.wave_def] at hp
    simp only [State.settle, hf, Bool.false_and, Bool.false_eq_true, if_false, State.flushPend, hp, List.foldl_nil, State.modWaveAt, touch]
    rw [← hp]
  rw [State.settled, hp, flush]
  rfl

/-- An instruction that first waits where its register says so goes on at once where nothing is outstanding. -/
theorem settledIf_of_quiet {s : State} {i : Nat} {body : State → Out} {r : Out} (h : 0x04 ≤ i → i ≤ 0x06 → quiet s)
    (hs : body s = r) (ht : body (touch s s.iss.cur) = r) : (if srWaits i then s.settled body else body s) = r := by
  split
  · next hw =>
    obtain ⟨h1, h2⟩ := of_decide_eq_true hw
    rw [settled_of_quiet (h h1 h2), ht]
  · exact hs

/-! ## GETSR -/

/-- Reading a special register asks nothing of the order of the waves. -/
theorem touch_srRead (s : State) (hi : Bool) (i : Nat) : (touch s s.iss.cur).srRead hi i = s.srRead hi i := by
  have wave : (touch s s.iss.cur).wave = s.wave := by rw [touch_cur, withWave_wave]
  have wg : (touch s s.iss.cur).wg = s.wg := by rw [touch_cur, withWave_wg _ _ _ rfl]
  have ctx : (touch s s.iss.cur).ctx = s.ctx := by rw [touch_cur, withWave_ctx _ _ _ rfl]
  unfold State.srRead State.contractReg State.hstat State.leaseReg State.asid
  simp only [wave, wg, ctx]
  rfl

/-- GETSR as it goes on. -/
def getsrDone (sw : Bool) (d : Opd) (i : Nat) (s : State) : Out :=
  .next (((s.writeRegs s.iss.cur 1#64 (s.srWrites (s.dest d) i)).noteG s.iss.cur (s.srWrites (s.dest d) i)).retire sw)

/-- The lanes that stand for the halves of the wave (R383). -/
def halfLeads (s : State) : List Nat := if s.wave.id.paired then [0, 32] else [0]

/-- GETSR writes a value for each half (R383). -/
theorem srWrites_eq_writes (s : State) (d : Dest) {i : Nat} (hi : i < 0x26) :
    s.srWrites d i = d.writes s.wave.id.topLane ((halfLeads s).map fun l => (l, valueOf s l (.val (specialReg s (decide (32 ≤ l)) i) 0#6))) := by
  unfold State.srWrites halfLeads
  simp only [srRead_eq_specialReg s _ hi, valueOf]
  cases s.wave.id.paired <;> rfl

/-- A half of which no lane raises a flag or a new token stays as it is. -/
theorem halfAfter_of_val (s : State) (h : Half) (m : List Nat) (up : Bool) (x : Nat → Word64) :
    halfAfter s h m up (fun l => .val (x l) 0#6) = h := by
  have flags : flagsOf m up (fun l => .val (x l) 0#6) = 0#6 := by
    simp [flagsOf, LRes.flags]
  have faults : (m.filter fun l => decide (32 ≤ l) == up).findSome? (faultOf fun l => .val (x l) 0#6) = none := by
    simp [faultOf]
  simp [halfAfter, flags, faults]

/-- A destination in columns s, g and ZERO has no lanes (R156). -/
theorem mask_of_sgz {s : State} {d : Opd} (h : d.sgz = true) (m : List Nat) : (s.dest d).mask m = 1#64 := by
  cases d with
  | v | laneid | waveid | time | bad => cases h
  | _ => rfl

/-- GETSR where its checks pass (R383). -/
theorem getsr_goes {s : State} {sw : Bool} {d : Opd} {i : BitVec 7} (hi : s.issuing = true)
    (ht : s.formTrap { xw := .no } (!d.sgz || decide (0x26 ≤ i.toNat)) = none)
    (hm : 0x08 ≤ i.toNat → i.toNat ≤ 0x0B → s.wave.env.hm = true) (hq : 0x04 ≤ i.toNat → i.toNat ≤ 0x06 → quiet s) :
    Goes (.getsr sw d i) s (Computes s sw false (s.dest d) (halfLeads s) fun l => .val (specialReg s (decide (32 ≤ l)) i.toNat) 0#6) := by
  obtain ⟨sgz, named⟩ : d.sgz = true ∧ i.toNat < 0x26 := by
    have pass : (!d.sgz || decide (0x26 ≤ i.toNat)) = false := by
      unfold State.formTrap at ht
      cases h : !d.sgz || decide (0x26 ≤ i.toNat)
      · rfl
      · simp [h] at ht
    simpa using pass
  let ws := s.srWrites (s.dest d) i.toNat
  obtain ⟨v, g, e, hnow, hv, hg, hfifo, hidem⟩ := write_withWave s s.wave (s.dest d) (halfLeads s)
    (fun l => valueOf s l (.val (specialReg s (decide (32 ≤ l)) i.toNat) 0#6)) (.inr (by unfold halfLeads; split <;> simp)) rfl rfl
  rw [← srWrites_eq_writes s (s.dest d) named, mask_of_sgz sgz, ← touch_cur] at e
  have direct : ((s.writeRegs s.iss.cur 1#64 ws).noteG s.iss.cur ws).retire sw = (withWave s v g).retire sw :=
    retire_of_touch ((by rw [touch_writeRegs, touch_noteG] : _ = _).symm.trans e)
  refine ⟨(withWave s v g).retire sw, ?_, v, g, ⟨hnow, by rw [hv]; rfl, ⟨hg, hfifo⟩, hidem, by rw [hv]⟩, ?_, ?_,
    went_withWave s v g sw 1 hi (by rw [hv]) (by rw [hv])⟩
  · have done : (if srWaits i.toNat then s.settled (getsrDone sw d i.toNat) else getsrDone sw d i.toNat s) = .next ((withWave s v g).retire sw) := by
      refine settledIf_of_quiet hq (congrArg _ direct) ?_
      have wave : (touch s s.iss.cur).wave = s.wave := by rw [touch_cur, withWave_wave]
      have writes : (touch s s.iss.cur).srWrites ((touch s s.iss.cur).dest d) i.toNat = ws := by
        simp only [State.srWrites, touch_srRead, State.dest, State.ref, wave, ws]
      rw [getsrDone, writes, show (touch s s.iss.cur).iss = s.iss from rfl, e]
    simp only [exec, execGetsr, handlerTrap_eq_none hm, ht, firstTrap_cons_none]
    exact (guarded_of_none _ hi).trans done
  · rw [hv, halfAfter_of_val]
  · rw [hv, halfAfter_of_val]

/-! ## SETSR -/

/-- SETSR as it goes on. -/
def setsrDone (sw : Bool) (i : Nat) (x : Word64) (s : State) : Out := .next ((s.srWrite i x).retire sw)

/-- SETSR where its checks pass (R439). -/
theorem exec_setsr {s : State} {sw : Bool} {i : BitVec 7} {a : Opd} (hi : s.issuing = true) (ht : s.sysTrap (!a.sgz) [a] = none)
    (hm : 0x08 ≤ i.toNat → i.toNat ≤ 0x0B → s.wave.env.hm = true) (hw : srWritable i.toNat = true)
    (hb : s.srBadValue i.toNat (s.sval a) = false) :
    exec (.setsr sw i a) s =
      if srWaits i.toNat then s.settled (setsrDone sw i.toNat (s.sval a)) else setsrDone sw i.toNat (s.sval a) s := by
  have writable : s.sysTrap (!a.sgz || !srWritable i.toNat) [a] = none := by simpa [hw] using ht
  simp only [exec, execSetsr, handlerTrap_eq_none hm, writable, hb, firstTrap_cons_none]
  exact guarded_of_none _ hi

theorem srWrite_of_regWritten {s : State} {i : Nat} {x : Word64} {w : Wave} (h : regWritten s.wave i x = some w) : s.srWrite i x = s.setWave w := by
  unfold regWritten at h
  split at h <;> cases h <;> rfl

/-- SETSR of a register that the wave holds itself. -/
theorem setsr_wave {s : State} {sw : Bool} {i : BitVec 7} {a : Opd} {w : Wave} (hi : s.issuing = true) (ht : s.sysTrap (!a.sgz) [a] = none)
    (hm : 0x08 ≤ i.toNat → i.toNat ≤ 0x0B → s.wave.env.hm = true) (hq : 0x04 ≤ i.toNat → i.toNat ≤ 0x06 → quiet s)
    (h : regWritten s.wave i.toNat (s.sval a) = some w) (hv : i.toNat = 0x04 → s.sval a = 1#64 ∨ s.sval a = 2#64) :
    Goes (.setsr sw i a) s (Went s w [] sw 1) := by
  obtain ⟨pcs, id, writable, notShed⟩ : w.pcs = s.wave.pcs ∧ w.id = s.wave.id ∧ srWritable i.toNat = true ∧ i.toNat ≠ 0x1C := by
    unfold regWritten at h
    split at h
    case h_8 => cases h
    all_goals
      obtain rfl := Option.some.inj h
      next hn => exact ⟨rfl, rfl, by rw [hn]; decide, by rw [hn]; decide⟩
  have value : s.srBadValue i.toNat (s.sval a) = false := by
    simp only [State.srBadValue, beq_eq_false_iff_ne.2 notShed, Bool.false_and, Bool.or_false]
    by_cases ftv : i.toNat = 0x04
    · obtain hx | hx := hv ftv <;> simp [hx]
    · simp [ftv]
  have wrote (u : State) (hu : u.wave = s.wave) : u.srWrite i.toNat (s.sval a) = u.setWave w := srWrite_of_regWritten (hu ▸ h)
  refine ⟨(withWave s w []).retire sw, (exec_setsr hi ht hm writable value).trans (settledIf_of_quiet hq ?_ ?_),
    went_withWave s w [] sw 1 hi pcs id⟩
  · rw [setsrDone, wrote s rfl, State.setWave, setWaveAt_withWave]
  · rw [setsrDone, touch_cur, wrote _ (withWave_wave ..), withWave_setWave]

/-- A retirement with an effect left to the end of the cycle (R112). -/
theorem went_endOfCycle (s : State) (e : CycEff) (sw : Bool) :
    Went s s.wave [e] sw 1 (({ s with endOfCycle := s.endOfCycle ++ [e] } : State).retire sw) := by
  have gone : ({ s with endOfCycle := s.endOfCycle ++ [e] } : State).retire sw = goneOn s s.wave [e] sw 1 := by
    rw [State.retire, retireN_eq_goneOn]
    unfold goneOn
    rw [List.append_nil]
    rfl
  rw [gone]
  exact ⟨rfl, goneOn_sameBytes _ _ _ _ _⟩

/-- SETSR of SHED with a base that the queue priority allows (R144). -/
theorem setsr_shed {s : State} {sw : Bool} {i : BitVec 7} {a : Opd} (hi : s.issuing = true) (ht : s.sysTrap (!a.sgz) [a] = none)
    (h : i.toNat = 0x1C) (hv : (s.sval a).toNat / 8 % 8 ≤ (s.launchAt s.wave.id.launchKey).prio.toNat) :
    Goes (.setsr sw i a) s (Went s s.wave
      [.shed s.wave.id.topSlot s.iss.cur (BitVec.ofNat 3 (s.sval a).toNat) (BitVec.ofNat 3 ((s.sval a).toNat / 8))] sw 1) := by
  have base : (s.sval a).extractLsb' 3 3 = BitVec.ofNat 3 ((s.sval a).toNat / 8) :=
    BitVec.eq_of_toNat_eq (by simp [Nat.shiftRight_eq_div_pow])
  have cls : (s.sval a).extractLsb' 0 3 = BitVec.ofNat 3 (s.sval a).toNat := BitVec.eq_of_toNat_eq (by simp)
  have value : s.srBadValue i.toNat (s.sval a) = false := by simpa [State.srBadValue, h, base] using hv
  refine ⟨_, (exec_setsr hi ht (by omega) (by rw [h]; decide) value).trans ?_, went_endOfCycle s _ sw⟩
  rw [h, ← base, ← cls]
  rfl

/-- SETSR of HSTAT (R155, R439). -/
theorem setsr_hstat {s : State} {sw : Bool} {i : BitVec 7} {a : Opd} (hi : s.issuing = true) (ht : s.sysTrap (!a.sgz) [a] = none)
    (h : i.toNat = 0x25) : Goes (.setsr sw i a) s
      (Went s s.wave [.hstat s.wave.id.topSlot s.iss.cur s.asid (BitVec.ofNat 2 (s.sval a).toNat)] sw 1) := by
  have bits : (s.sval a).extractLsb' 0 2 = BitVec.ofNat 2 (s.sval a).toNat := BitVec.eq_of_toNat_eq (by simp)
  have value : s.srBadValue i.toNat (s.sval a) = false := by simp [State.srBadValue, h]
  refine ⟨_, (exec_setsr hi ht (by omega) (by rw [h]; decide) value).trans ?_, went_endOfCycle s _ sw⟩
  rw [h, ← bits]
  rfl

/-- HSTAT's effect at the end of the cycle: ILR and ILF are cleared where its bits are 1 (R155). -/
theorem applyCycEff_hstat (s : State) (slot k a : Nat) (m : BitVec 2) : ((s.applyCycEff (.hstat slot k a m)).ctxAt a) =
    { (s.ctxAt a) with ilr := (s.ctxAt a).ilr && !m[0], ilf := (s.ctxAt a).ilf && !m[1] } :=
  State.ctxAt_setCtxAt_same s a _

/-- Settles O40: GETSR by `getsr_goes`, SETSR register by register, and PRIV before any other check. -/
theorem specialRegisters : Obligations.SpecialRegisters := by
  unfold Obligations.SpecialRegisters
  refine ⟨fun sw d i s hi ht hm hq => getsr_goes hi ht hm hq,
    fun sw i a s hi ht hm hq => ⟨fun w h hv => setsr_wave hi ht hm hq h hv, setsr_shed hi ht, setsr_hstat hi ht⟩,
    applyCycEff_hstat, fun sw d a i s hi h1 h2 hm => ?_⟩
  simp only [exec, execGetsr, execSetsr, handlerTrap_eq_priv h1 h2 hm, firstTrap_cons_some]
  exact ⟨guarded_of_some _ hi, guarded_of_some _ hi⟩

end Sys2Proof.Claims
end

section
/-!
PROOF. The element arithmetic at its corner values (R31, R38, R46, R48 to R51, R53, R54, R378).
-/

namespace Sys2Proof.Claims

open Sys2Proof.Machine

/-! ## NaN, infinities and zeros -/

theorem snanFlag_pair (x y : Fp) : snanFlag [x, y] = nvOf x y := by simp [snanFlag, nvOf, flNV]

theorem snanFlag_triple (x y d : Fp) : snanFlag [x, y, d] = if d.isSnan then 0x01#6 else nvOf x y := by
  cases hx : x.isSnan <;> cases hy : y.isSnan <;> cases hd : d.isSnan <;> simp [snanFlag, nvOf, flNV, hx, hy, hd]

theorem isNan_negate (x : Fp) : x.negate.isNan = x.isNan := by cases x <;> rfl
theorem isSnan_negate (x : Fp) : x.negate.isSnan = x.isSnan := by cases x <;> rfl

section
variable (f : FFmt) (env : FEnv)

section
variable {x y : Fp} (h : x.isNan = true ∨ y.isNan = true)
include h

theorem faddF_nan : faddF f env x y = ⟨f.nanBits, nvOf x y⟩ := by
  rw [← snanFlag_pair]
  cases x <;> cases y <;> simp [Fp.isNan] at h <;> rfl

theorem fsubF_nan : fsubF f env x y = ⟨f.nanBits, nvOf x y⟩ := by
  rw [fsubF, faddF_nan f env (by rwa [isNan_negate]), nvOf, isSnan_negate, nvOf]

theorem fmulF_nan : fmulF f env x y = ⟨f.nanBits, nvOf x y⟩ := by
  rw [← snanFlag_pair]
  cases x <;> cases y <;> simp [Fp.isNan] at h <;> rfl

theorem fdivF_nan : fdivF f env x y = ⟨f.nanBits, nvOf x y⟩ := by
  rw [← snanFlag_pair]
  cases x <;> cases y <;> simp [Fp.isNan] at h <;> rfl

theorem fmaF_nan (d : Fp) : fmaF f env x y d = ⟨f.nanBits, if d.isSnan then 0x01#6 else nvOf x y⟩ := by
  rw [← snanFlag_triple]
  cases x <;> cases y <;> simp [Fp.isNan] at h <;> rfl

end

theorem fsqrtF_nan (q : Bool) : fsqrtF f env (.nan q) = ⟨f.nanBits, nvOf (.nan q) (.nan q)⟩ := by cases q <;> rfl

/-- The invalid operations and the divisions by zero (R378). -/
theorem invalid_operations (n1 n2 : Bool) (m : Nat) (e e2 : Int) (d : Fp) :
    let invalid : FRes := ⟨f.nanBits, 0x01#6⟩
    faddF f env (.inf n1) (.inf (!n1)) = invalid ∧ fsubF f env (.inf n1) (.inf n1) = invalid ∧
    fmulF f env (.inf n1) (.num n2 0 e) = invalid ∧ fmulF f env (.num n2 0 e) (.inf n1) = invalid ∧
    fmaF f env (.inf n1) (.num n2 0 e) d = invalid ∧ fmaF f env (.num n2 0 e) (.inf n1) d = invalid ∧
    fdivF f env (.num n1 0 e) (.num n2 0 e2) = invalid ∧ fdivF f env (.inf n1) (.inf n2) = invalid ∧
    (0 < m → fdivF f env (.num n1 m e) (.num n2 0 e2) = ⟨f.signBits (n1 != n2) + f.infBits, 0x02#6⟩) ∧
    (0 < m → fsqrtF f env (.num true m e) = invalid) ∧ fsqrtF f env (.inf true) = invalid ∧
    fsqrtF f env (.num n1 0 e) = ⟨f.signBits n1, 0#6⟩ ∧ fsqrtF f env (.inf false) = ⟨f.infBits, 0#6⟩ := by
  have plus : (⟨f.signBits false + f.infBits, 0#6⟩ : FRes) = ⟨f.infBits, 0#6⟩ := by simp [FFmt.signBits]
  have opposite (n : Bool) : faddF f env (.inf n) (.inf (!n)) = ⟨f.nanBits, 0x01#6⟩ := if_neg (by simp)
  exact ⟨opposite n1, opposite n1, rfl, rfl, rfl, rfl, rfl, rfl, fun hm => if_neg (Nat.ne_of_gt hm), fun hm => if_neg (Nat.ne_of_gt hm),
    rfl, rfl, plus⟩

/-- A sum of exact zero (R378). -/
theorem exact_zero_sums (n : Bool) (m : Nat) (e e2 : Int) :
    faddF f env (.num n m e) (.num (!n) m e) = ⟨f.signBits (decide (env.rm = .rdn)), 0#6⟩ ∧
    fsubF f env (.num n m e) (.num n m e) = ⟨f.signBits (decide (env.rm = .rdn)), 0#6⟩ ∧
    faddF f env (.num n 0 e) (.num n 0 e2) = ⟨f.signBits n, 0#6⟩ := by
  have opposite : faddF f env (.num n m e) (.num (!n) m e) = ⟨f.signBits (decide (env.rm = .rdn)), 0#6⟩ := by
    cases n <;> simp [faddF, addNum, FFmt.zeroRes]
  exact ⟨opposite, opposite, by simp [faddF, addNum, FFmt.zeroRes]⟩

/-! ## Minimum and maximum -/

/-- Rounding never is invalid (R38 to R40). -/
theorem fround_no_nv (rm : Rm) (ftz neg sticky : Bool) (n d : Nat) : (fround f rm ftz .ieee neg n d sticky).flags.getLsbD 0 = false := by
  have overflow : (overflowRes f rm .ieee neg).flags.getLsbD 0 = false := show (flOF ||| flNX).getLsbD 0 = false by decide
  have inexact : ∀ x u : Bool, ((if x then flNX else 0) ||| (if u then flUF else 0)).getLsbD 0 = false := by decide
  unfold fround
  split
  · exact BitVec.getLsbD_zero
  · dsimp only
    split
    · exact overflow
    · split
      · exact inexact true true
      · exact inexact _ _

theorem giveSource_no_nv {x : Fp} (hx : x.isNan = false) : (giveSource f env x).flags.getLsbD 0 = false := by
  cases x with
  | nan q => cases hx
  | inf n => exact BitVec.getLsbD_zero
  | num n m e => exact fround_no_nv ..

theorem giveSource_zero (n : Bool) (e : Int) : giveSource f env (.num n 0 e) = ⟨f.signBits n, 0#6⟩ := by
  simp [giveSource, froundNum, scaleQuot, fround]

/-- FMIN and FMAX where one source is a NaN (R378). -/
theorem fminmaxF_nan (isMax q : Bool) {x : Fp} (hx : x.isNan = false) :
    (fminmaxF isMax f env (.nan q) x).bits = (giveSource f env x).bits ∧ (fminmaxF isMax f env x (.nan q)).bits = (giveSource f env x).bits ∧
    (fminmaxF isMax f env (.nan q) x).flags.getLsbD 0 = q := by
  have snan : x.isSnan = false := by
    cases x with
    | nan => cases hx
    | _ => rfl
  have nv : (snanFlag [.nan q, x]).getLsbD 0 = q := by
    rw [snanFlag_pair, nvOf, snan]
    cases q <;> rfl
  have isNan : (Fp.nan q).isNan = true := rfl
  refine ⟨by simp [fminmaxF, isNan, hx], by simp [fminmaxF, isNan, hx], ?_⟩
  have flags : (fminmaxF isMax f env (.nan q) x).flags = (giveSource f env x).flags ||| snanFlag [.nan q, x] := by
    simp [fminmaxF, isNan, hx]
  rw [flags, BitVec.getLsbD_or, giveSource_no_nv f env hx, nv, Bool.false_or]

/-- FMIN and FMAX of two NaNs (R31, R378). -/
theorem fminmaxF_nan_nan (isMax q q2 : Bool) :
    fminmaxF isMax f env (.nan q) (.nan q2) = ⟨f.nanBits, if q || q2 then 0x01#6 else 0#6⟩ := by
  have nv : snanFlag [.nan q, .nan q2] = if q || q2 then 0x01#6 else 0#6 := by cases q <;> cases q2 <;> rfl
  simp [fminmaxF, Fp.isNan, FFmt.nanRes, nv]

/-- FMIN and FMAX order the zeros, -0 below +0 (R378). -/
theorem fminmaxF_zeros (isMax : Bool) (e e2 : Int) :
    fminmaxF isMax f env (.num true 0 e) (.num false 0 e2) = ⟨f.signBits (!isMax), 0#6⟩ ∧
    fminmaxF isMax f env (.num false 0 e) (.num true 0 e2) = ⟨f.signBits (!isMax), 0#6⟩ := by
  have quiet (n n2 : Bool) : snanFlag [.num n 0 e, .num n2 0 e2] = 0#6 := rfl
  cases isMax <;> simp [fminmaxF, Fp.isNan, fpLt, giveSource_zero, quiet]

end

/-! ## Rounding to an integer -/

/-- What is cut off, and when the rounding goes up (R38). -/
theorem roundQuot_exact (rm : Rm) (neg : Bool) (num den : Nat) : (roundQuot rm neg num den false).2 = true ↔ num % den ≠ 0 := by
  simp [roundQuot]

/-- A number between a quotient and the next, by what it leaves of the denominator. -/
theorem roundQuot_roundsTo (rm : Rm) (neg : Bool) (num : Nat) {den : Nat} (h : 0 < den) :
    RoundsTo rm neg num den (roundQuot rm neg num den false).1 := by
  have cut : num = num / den * den + num % den := (Nat.div_add_mod' num den).symm
  have part : num % den < den := Nat.mod_lt num h
  have next : (num / den + 1) * den = num / den * den + den := Nat.succ_mul ..
  have next2 : (num / den + 1 + 1) * den = num / den * den + den + den := by rw [Nat.succ_mul, next]
  unfold roundQuot RoundsTo
  generalize num / den = q at *
  generalize num % den = r at *
  dsimp only
  cases rm with
  | rtz =>
    simp only [Bool.false_eq_true, if_false]
    omega
  | rup =>
    cases neg
    · by_cases hr : r = 0 <;> simp [hr] <;> omega
    · simp
      omega
  | rdn =>
    cases neg
    · simp
      omega
    · by_cases hr : r = 0 <;> simp [hr] <;> omega
  | rne =>
    simp only [Bool.false_or, Bool.or_eq_true, Bool.and_eq_true, decide_eq_true_eq]
    split
    · refine ⟨by omega, by omega, fun tie => ?_⟩
      exact Nat.succ_mod_two_eq_zero_iff.2 (by omega)
    · exact ⟨by omega, by omega, fun tie => by omega⟩

end Sys2Proof.Claims
end

section
/-!
PROOF. The conversions to integers, the blocks and FRND at their corner values, and the exact results of FP32 (R46, R48 to R51).
-/

namespace Sys2Proof.Claims

open Sys2Proof.Machine

/-! ## Integers -/

theorem f32ToInt_nan {env : FEnv} (lo hi : Int) {bits : Nat} (h : (fsrc fp32 env bits).isNan = true) : f32ToInt env lo hi bits = (0, 0x21#6) := by
  unfold f32ToInt
  cases hx : fsrc fp32 env bits with
  | nan q => rfl
  | inf => rw [hx] at h; cases h
  | num => rw [hx] at h; cases h

/-- A number of a width's range stands for itself, and one above it for the largest (R46). -/
theorem clampToInt_bounds {w : Nat} {x : Int} (hw : 0 < w) (hlo : -(2 ^ (w - 1)) ≤ x) (hhi : x < 2 ^ (w - 1)) :
    clampToInt w x = ⟨(x % 2 ^ w).toNat, 0#6⟩ ∧ clampToInt w (2 ^ (w - 1) + x.natAbs) = ⟨2 ^ (w - 1) - 1, 0x20#6⟩ := by
  have double : (2 : Int) ^ w = 2 * 2 ^ (w - 1) := by rw [← pow_succ', Nat.sub_add_cancel hw]
  have half : ((2 ^ (w - 1) : Nat) : Int) = 2 ^ (w - 1) := by push_cast; rfl
  have positive : (0 : Int) < 2 ^ (w - 1) := by positivity
  have inside : Machine.clampInt (-(2 ^ (w - 1) : Nat)) ((2 ^ (w - 1) : Nat) - 1) x = x := by
    unfold Machine.clampInt
    omega
  have above : Machine.clampInt (-(2 ^ (w - 1) : Nat)) ((2 ^ (w - 1) : Nat) - 1) (2 ^ (w - 1) + x.natAbs) = 2 ^ (w - 1) - 1 := by
    unfold Machine.clampInt
    omega
  constructor
  · have kept : ¬ x ≠ x := fun h => h rfl
    rw [clampToInt, inside]
    rw [if_neg kept, ofSint, Nat.cast_pow, Nat.cast_ofNat]
    rfl
  · have moved : (2 : Int) ^ (w - 1) - 1 ≠ 2 ^ (w - 1) + x.natAbs := by omega
    have bits : ofSint w (2 ^ (w - 1) - 1) = 2 ^ (w - 1) - 1 := by
      have small : ((2 : Int) ^ (w - 1) - 1) % 2 ^ w = 2 ^ (w - 1) - 1 := Int.emod_eq_of_lt (by omega) (by omega)
      rw [ofSint, Nat.cast_pow, Nat.cast_ofNat, small]
      omega
    rw [clampToInt, above]
    rw [if_pos moved, bits]
    rfl

/-! ## Blocks with an element that is not finite -/

section
variable {xs : List Nat} (h : ∃ x ∈ xs, finiteF32 x = false)
include h

theorem mxq_not_finite (fmt : MxFmt) : mxq fmt xs = (0xFF, List.replicate xs.length 0, 0x01#6) := by
  have any : (xs.any fun x => !finiteF32 x) = true := by simpa using h
  simp [mxq, any, flNV]

theorem terq_not_finite : terq xs = (0x7FC0, List.replicate xs.length 0, 0x01#6) := by
  have any : (xs.any fun x => !finiteF32 x) = true := by simpa using h
  rw [terq, if_pos any, List.map_const']
  rfl

end

/-! ## TERQ's codes -/

/-- The code of a sign is one of TER2's three (R35). -/
theorem terCode_mem (c : Int) : terCode c = 0 ∨ terCode c = 1 ∨ terCode c = 3 := by
  unfold terCode
  split
  · exact .inl rfl
  · split
    · exact .inr (.inl rfl)
    · exact .inr (.inr rfl)

/-- TERQ writes no reserved code (R50). -/
theorem terq_codes (xs : List Nat) : ∀ c ∈ (terq xs).2.1, c = 0 ∨ c = 1 ∨ c = 3 := by
  have zeros : ∀ c ∈ xs.map fun _ => 0, c = 0 ∨ c = 1 ∨ c = 3 := fun c hc => by
    obtain ⟨x, hx, rfl⟩ := List.mem_map.1 hc
    exact .inl rfl
  unfold terq
  split
  · exact zeros
  · dsimp only
    split
    · split
      · exact zeros
      · intro c hc
        obtain ⟨x, hx, rfl⟩ := List.mem_map.1 hc
        exact terCode_mem _
    · exact zeros

/-! ## FRND -/

/-- FRND sets NV for a signalling NaN, and no other flag (R51). -/
theorem frnd_flags (rm : Rm) (env : FEnv) (bits : Nat) : (frnd rm env bits).flags = nvOf (fsrc fp32 env bits) (fsrc fp32 env bits) := by
  unfold frnd
  cases fsrc fp32 env bits with
  | nan q => cases q <;> rfl
  | inf n => rfl
  | num n m e => rfl

/-- Without DAZ a source reads as it is encoded (R38). -/
theorem fsrc_of_not_daz {env : FEnv} (h : env.daz = false) (f : FFmt) (bits : Nat) : fsrc f env bits = f.decode (bits % 2 ^ f.width) := by
  unfold fsrc
  rw [h]
  cases f.decode (bits % 2 ^ f.width) <;> rfl

/-- FRND depends on FMODE by DAZ alone (R51). -/
theorem frnd_of_not_daz {env : FEnv} (h : env.daz = false) (rm : Rm) (bits : Nat) : frnd rm env bits = frnd rm (envOf rm false) bits := by
  rw [frnd, frnd, fsrc_of_not_daz h, fsrc_of_not_daz (env := envOf rm false) rfl]

theorem frnd_examples {env : FEnv} (h : env.daz = false) :
    frnd .rne env 0xBE99999A = ⟨0x80000000, 0#6⟩ ∧ frnd .rup env 0x40200000 = ⟨0x40400000, 0#6⟩ := by
  rw [frnd_of_not_daz h, frnd_of_not_daz h]
  decide +kernel

/-! ## Exact results in FP32 -/

/-- The value of a significand and a last place, subnormal or normal, in FP32 (R30). -/
theorem decode_fp32 (neg : Bool) {k r : Nat} (hr : r < 2 ^ 24) (normal : 0 < k → 2 ^ 23 ≤ r) (finite : k * 2 ^ 23 + r < 255 * 2 ^ 23) :
    fp32.decode (fp32.signBits neg + (k * 2 ^ 23 + r)) = .num neg r (k - 149) := by
  obtain ⟨s, hs, sign⟩ : ∃ s, fp32.signBits neg = s * 2 ^ 31 ∧ (neg = decide (s % 2 = 1)) := by
    cases neg
    · exact ⟨0, rfl, rfl⟩
    · exact ⟨1, rfl, rfl⟩
  have man : (s * 2 ^ 31 + (k * 2 ^ 23 + r)) % 2 ^ 23 = r % 2 ^ 23 := by omega
  have top : (s * 2 ^ 31 + (k * 2 ^ 23 + r)) / 2 ^ 31 = s := by omega
  have ex : (s * 2 ^ 31 + (k * 2 ^ 23 + r)) / 2 ^ 23 % 2 ^ 8 = k + r / 2 ^ 23 := by omega
  have inf : k + r / 2 ^ 23 ≠ 2 ^ 8 - 1 := by omega
  rw [hs]
  unfold FFmt.decode
  rw [show fp32.mb = 23 from rfl, show fp32.eb = 8 from rfl, show fp32.emin = -149 from rfl, show fp32.e4m3 = false from rfl, man, ex,
    show 8 + 23 = 31 from rfl, top, ← sign]
  dsimp only
  rw [if_neg (by decide), if_neg inf]
  split
  · next sub =>
    rw [Nat.mod_eq_of_lt (by omega), show k = 0 by omega]
    rfl
  · next nor =>
    have lead : 2 ^ 23 ≤ r := by
      by_cases hk : 0 < k
      · exact normal hk
      · omega
    rw [show 2 ^ 23 + r % 2 ^ 23 = r by omega, show r / 2 ^ 23 = 1 by omega]
    congr 1
    omega

/-- A significand times a power of two lies in the binade of its leading bit. -/
theorem floorLog2Quot_scaleQuot {m : Nat} (hm : 0 < m) (e : Int) :
    floorLog2Quot (scaleQuot m 1 e).1 (scaleQuot m 1 e).2 = Nat.log2 m + e := by
  have low : 2 ^ Nat.log2 m ≤ m := Nat.log2_self_le hm.ne'
  have num : Nat.log2 (m * 2 ^ e.toNat) = Nat.log2 m + e.toNat := by
    refine (Nat.log2_eq_iff (by positivity)).2 ⟨?_, ?_⟩
    · rw [pow_add]
      exact Nat.mul_le_mul_right _ low
    · rw [Nat.add_right_comm, pow_add]
      exact Nat.mul_lt_mul_of_pos_right Nat.lt_log2_self (by positivity)
  have den : Nat.log2 (1 * 2 ^ (-e).toNat) = (-e).toNat := by rw [one_mul, Nat.log2_two_pow]
  have place : ((Nat.log2 m + e.toNat : Nat) : Int) - ((-e).toNat : Nat) = Nat.log2 m + e := by omega
  unfold floorLog2Quot scaleQuot
  dsimp only
  rw [num, den, place]
  refine if_pos ?_
  rw [one_mul, mul_assoc, ← pow_add, ← pow_add]
  calc 2 ^ ((-e).toNat + (Nat.log2 m + e : Int).toNat) = 2 ^ Nat.log2 m * 2 ^ (e.toNat + (-(Nat.log2 m + e : Int)).toNat) := by
        rw [← pow_add]
        congr 1
        omega
    _ ≤ m * 2 ^ (e.toNat + (-(Nat.log2 m + e : Int)).toNat) := Nat.mul_le_mul_right _ low

/-- A quotient that is a whole number is rounded to it. -/
theorem roundQuot_whole (rm : Rm) (neg : Bool) (r : Nat) {den : Nat} (h : 0 < den) : roundQuot rm neg (r * den) den false = (r, false) := by
  have h2 : den ≠ 0 := by omega
  cases rm <;> simp [roundQuot, h2]

/-- A significand times a power of two is rounded exactly at a last place below it. -/
theorem roundAt_scaleQuot (rm : Rm) (neg : Bool) (m : Nat) {e q : Int} (h : q ≤ e) :
    roundAt rm neg (scaleQuot m 1 e).1 (scaleQuot m 1 e).2 false q = (m * 2 ^ (e - q).toNat, false) := by
  have num : m * 2 ^ e.toNat * 2 ^ (-q).toNat = m * 2 ^ (e - q).toNat * (1 * 2 ^ (-e).toNat * 2 ^ q.toNat) := by
    rw [one_mul, mul_assoc, mul_assoc, ← pow_add, ← pow_add, ← pow_add]
    congr 2
    omega
  unfold roundAt scaleQuot
  dsimp only
  rw [num]
  exact roundQuot_whole rm neg _ (by positivity)

/-- A number that FP32 can hold is its own rounding. -/
theorem froundNum_exact (rm : Rm) (neg : Bool) {m : Nat} {e : Int} (hm : 0 < m) (fits : m < 2 ^ 24) (low : -149 ≤ e)
    (high : Nat.log2 m + e ≤ 127) : ∃ r q, fp32.decode (froundNum fp32 rm false .ieee neg m e).bits = .num neg r q ∧
      numVal neg r q = numVal neg m e := by
  have lead : Nat.log2 m < 24 := (Nat.log2_lt hm.ne').2 fits
  let q : Int := max (Nat.log2 m + e - 23) (-149)
  let r : Nat := m * 2 ^ (e - q).toNat
  have hq : q ≤ e := by omega
  have place : q = ((q + 149).toNat : Int) - 149 := by omega
  have upper : r < 2 ^ 24 := by
    calc r < 2 ^ (Nat.log2 m + 1) * 2 ^ (e - q).toNat := Nat.mul_lt_mul_of_pos_right Nat.lt_log2_self (by positivity)
      _ = 2 ^ (Nat.log2 m + 1 + (e - q).toNat) := (pow_add ..).symm
      _ ≤ 2 ^ 24 := Nat.pow_le_pow_right (by decide) (by omega)
  have lower : 0 < (q + 149).toNat → 2 ^ 23 ≤ r := fun h => by
    calc 2 ^ 23 = 2 ^ (Nat.log2 m + (e - q).toNat) := by congr 1; omega
      _ = 2 ^ Nat.log2 m * 2 ^ (e - q).toNat := pow_add ..
      _ ≤ r := Nat.mul_le_mul_right _ (Nat.log2_self_le hm.ne')
  have finite : (q + 149).toNat * 2 ^ 23 + r < 255 * 2 ^ 23 := by omega
  refine ⟨r, q, ?_, ?_⟩
  · have bits : (froundNum fp32 rm false .ieee neg m e).bits = fp32.signBits neg + ((q + 149).toNat * 2 ^ 23 + r) := by
      have pos : (scaleQuot m 1 e).1 ≠ 0 := by unfold scaleQuot; positivity
      have mag : ¬ fp32.maxBits < (q + 149).toNat * 2 ^ 23 + r := by
        have : fp32.maxBits = 255 * 2 ^ 23 - 1 := rfl
        omega
      unfold froundNum fround
      dsimp only
      rw [if_neg pos, floorLog2Quot_scaleQuot hm, show max (Nat.log2 m + e - fp32.mb) fp32.emin = q from rfl, roundAt_scaleQuot rm neg m hq]
      dsimp only
      rw [show (q - fp32.emin).toNat = (q + 149).toNat from rfl, show fp32.mb = 23 from rfl, if_neg mag]
      rfl
    rw [bits, decode_fp32 neg upper lower finite, ← place]
  · have shift : (2 : ℚ) ^ e = 2 ^ (e - q).toNat * 2 ^ q := by
      rw [← zpow_natCast, ← zpow_add₀ (by norm_num)]
      congr 1
      omega
    simp only [numVal, r, shift]
    push_cast
    ring

/-- MXDQ of an element below the largest scale is exact (R49). -/
theorem mxdq_exact {fmt : MxFmt} {n : Int} (hf : fmt = mxInt8 ∨ fmt = mxI4) (hlo : -(2 ^ (fmt.width - 1)) ≤ n) (hhi : n < 2 ^ (fmt.width - 1)) :
    mxdq fmt 0xFF n = 0x7FC00000 ∧ ∀ e, e < 254 → ∃ neg m x, fp32.decode (mxdq fmt e n) = .num neg m x ∧
      numVal neg m x = n * (2 : ℚ) ^ ((e : Int) - 127 - fmt.frac) := by
  refine ⟨rfl, fun e he => ?_⟩
  by_cases zero : n = 0
  · subst zero
    refine ⟨false, 0, -149, ?_, by simp [numVal]⟩
    rw [mxdq, if_neg (by omega), if_pos rfl]
    rfl
  · have pos : 0 < n.natAbs := by omega
    have range : n.natAbs < 2 ^ fmt.width ∧ (fmt.width : Int) - fmt.frac ≤ 2 ∧ (fmt.frac : Int) ≤ 6 ∧ fmt.width ≤ 8:= by
      obtain rfl | rfl := hf <;> simp [mxInt8, mxI4] at hlo hhi ⊢ <;> omega
    obtain ⟨small, wide⟩ := range
    have lead : Nat.log2 n.natAbs < fmt.width := (Nat.log2_lt pos.ne').2 small
    obtain ⟨r, q, decoded, value⟩ := froundNum_exact .rne (decide (n < 0)) (m := n.natAbs) (e := (e : Int) - 127 - fmt.frac) pos
      (small.trans_le (Nat.pow_le_pow_right (by decide) (by omega))) (by omega) (by omega)
    have signed : (if decide (n < 0) then -1 else 1) * (n.natAbs : ℚ) = n := by
      by_cases neg : n < 0
      · rw [if_pos (decide_eq_true neg), Nat.cast_natAbs, abs_of_neg neg]
        push_cast
        ring
      · rw [if_neg (by simpa using neg), Nat.cast_natAbs, abs_of_nonneg (not_lt.1 neg), one_mul]
    refine ⟨_, r, q, ?_, value.trans ?_⟩
    · rw [mxdq, if_neg (by omega), if_neg zero]
      exact decoded
    · rw [numVal, signed]

end Sys2Proof.Claims
end

section
/-!
PROOF. The examples of the element arithmetic, run, and the laws of its corner values.
-/

namespace Sys2Proof.Claims

open Sys2Proof.Machine

/-! ## Examples -/

/-- The largest number plus itself overflows by the rounding mode (R46, R378). -/
theorem overflow_of_doubled_max (rm : Rm) (sat8 neg : Bool) {f : FFmt} (hf : f = fp32 ∨ f = fp16 ∨ f = bf16) :
    let x := f.decode (f.signBits neg + f.maxBits)
    faddF f (envOf rm sat8) x x = ⟨f.signBits neg + (if rm = .rne ∨ (rm = .rup ∧ neg = false) ∨ (rm = .rdn ∧ neg = true) then f.infBits
      else f.maxBits), 0x14#6⟩ := by
  obtain rfl | rfl | rfl := hf
  · cases rm <;> cases sat8 <;> cases neg <;> decide +kernel
  · cases rm <;> cases sat8 <;> cases neg <;> decide +kernel
  · cases rm <;> cases sat8 <;> cases neg <;> decide +kernel

/-- R378's example: 1 plus half a unit in its last place. -/
theorem half_unit_sum (rm : Rm) : faddF fp32 (envOf rm false) (fp32.decode 0x3F800000) (fp32.decode 0x33800000) =
    ⟨if rm = .rup then 0x3F800001 else 0x3F800000, 0x10#6⟩ := by
  cases rm <;> decide +kernel

/-- To FP8: rounded, saturated or overflowed (R46). -/
theorem fp8_examples (sat8 : Bool) : cvtFF fp32 e4m3 (envOf .rne sat8) 0x43960000 = ⟨0x79, 0x10#6⟩ ∧
    cvtFF fp32 e4m3 (envOf .rne sat8) 0x43FA0000 = (if sat8 then ⟨0x7E, 0x34#6⟩ else ⟨0x7F, 0x14#6⟩) ∧
    cvtFF fp32 e4m3 (envOf .rne sat8) 0xFF800000 = (if sat8 then ⟨0xFE, 0x34#6⟩ else ⟨0x7F, 0x14#6⟩) ∧
    cvtFF fp32 e5m2 (envOf .rne sat8) 0xFF800000 = ⟨0xFC, 0#6⟩ ∧
    cvtFF fp32 e5m2 (envOf .rne sat8) 0x47727000 = (if sat8 then ⟨0x7B, 0x34#6⟩ else ⟨0x7C, 0x14#6⟩) := by
  cases sat8 <;> decide +kernel

/-- FP32 to integers: clamped above and below, rounded, and clamped at zero (R46). -/
theorem integer_examples : f32ToInt (envOf .rne false) (-2 ^ 31) (2 ^ 31 - 1) 0x4F800000 = (2 ^ 31 - 1, 0x21#6) ∧
    f32ToInt (envOf .rne false) (-2 ^ 31) (2 ^ 31 - 1) 0xFF800000 = (-2 ^ 31, 0x21#6) ∧
    f32ToInt (envOf .rne false) (-2 ^ 31) (2 ^ 31 - 1) 0x40200000 = (2, 0x10#6) ∧
    f32ToInt (envOf .rdn false) 0 (2 ^ 32 - 1) 0xBF000000 = (0, 0x31#6) := by
  decide +kernel

/-- 3 and -3 in L16, and 3 in L8 (R36, R37, R46). -/
theorem logarithmic_three : toL16 (fp32.decode 0x40400000) = ⟨0x032C, 0x10#6⟩ ∧ toL16 (fp32.decode 0xC0400000) = ⟨0x832C, 0x10#6⟩ ∧
    l16ToL8 0x032C = ⟨0x0D, 0x10#6⟩ := by
  decide +kernel

/-- Infinities, NaNs and zeros in L16 (R46). -/
theorem toL16_special (neg : Bool) :
    toL16 (.inf neg) = ⟨0xC000, 0x01#6⟩ ∧ toL16 (.nan neg) = ⟨0xC000, 0x01#6⟩ ∧ ∀ e, toL16 (.num neg 0 e) = ⟨0x4000, 0#6⟩ :=
  ⟨rfl, rfl, fun _ => rfl⟩

/-- The underflow of L16, and L8 and back (R37, R46). -/
theorem logarithmic_examples : toL16 (fp32.decode 1) = ⟨0x4000, 0x18#6⟩ ∧ l16ToL8 0x3FFF = ⟨0x3F, 0x34#6⟩ ∧
    l16ToL8 0xC000 = ⟨0xC0, 0#6⟩ ∧ l8ToL16 0x0D = 0x0340 ∧ fromL16 0x0200 = ⟨0x40000000, 0#6⟩ := by
  decide +kernel

/-- R50's example block in both formats, and its largest element back (R48, R49). -/
theorem block_examples : mxq mxInt8 exampleBlock = (0x80, [127, 96, 10, 0, -128] ++ List.replicate 27 0, 0x10#6) ∧
    mxq mxI4 exampleBlock = (0x80, [7, 6, 1, 0, -8] ++ List.replicate 27 0, 0x10#6) ∧ mxdq mxInt8 0x80 127 = 0x407E0000 := by
  decide +kernel

/-- Version 2 where the function's value is a number of the format, and FRCP of 3 by the rounding mode (R53, R54). -/
theorem version2_examples (rm : Rm) :
    ffnElem .exp 2 fp32 (envOf rm false) 0 = ⟨0x3F800000, 0#6⟩ ∧ ffnElem .exp 2 fp32 (envOf rm false) 0x40400000 = ⟨0x41000000, 0#6⟩ ∧
    ffnElem .log 2 fp32 (envOf rm false) 0x3F800000 = ⟨0, 0#6⟩ ∧ ffnElem .log 2 fp32 (envOf rm false) 0x41000000 = ⟨0x40400000, 0#6⟩ ∧
    ffnElem .rcp 2 fp32 (envOf rm false) 0x40000000 = ⟨0x3F000000, 0#6⟩ ∧
    ffnElem .rcp 2 fp32 (envOf rm false) 0x40400000 = ⟨if rm = .rne ∨ rm = .rup then 0x3EAAAAAB else 0x3EAAAAAA, 0x10#6⟩ ∧
    ffnElem .rsq 2 fp32 (envOf rm false) 0x40800000 = ⟨0x3F000000, 0#6⟩ ∧ ffnElem .sin 2 fp32 (envOf rm false) 0x3F000000 = ⟨0x3F800000, 0#6⟩ ∧
    ffnElem .cos 2 fp32 (envOf rm false) 0x3F800000 = ⟨0xBF800000, 0#6⟩ ∧
    ffnElem .tanh 2 fp32 (envOf rm false) 0x80000000 = ⟨0x80000000, 0#6⟩ := by
  cases rm <;> decide +kernel

/-! ## The laws -/

/-- Settles O11, law by law: the general ones by their lemmas, the examples by running them. -/
theorem arithmeticLaws : Obligations.ArithmeticLaws := by
  unfold Obligations.ArithmeticLaws
  obtain ⟨three, minusThree, l8Three⟩ := logarithmic_three
  obtain ⟨above, below, rounded, zero⟩ := integer_examples
  refine ⟨fun f env x y d h => ⟨?_, fmaF_nan f env h d⟩, fsqrtF_nan, invalid_operations, exact_zero_sums, fun f env isMax q q2 x e e2 => ?_,
    fun rm neg num den h => ⟨roundQuot_roundsTo rm neg num h, roundQuot_exact rm neg num den⟩,
    fun rm sat8 neg f hf => overflow_of_doubled_max rm sat8 neg hf, half_unit_sum, fp8_examples,
    ⟨fun env lo hi bits h => f32ToInt_nan lo hi h, above, below, rounded, zero, fun w x hw hlo hhi => clampToInt_bounds hw hlo hhi⟩,
    ⟨three, minusThree, l8Three, toL16_special, logarithmic_examples⟩,
    fun fmt xs h => ⟨mxq_not_finite h fmt, terq_not_finite h⟩, block_examples, fun fmt n hf hlo hhi => mxdq_exact hf hlo hhi, terq_codes,
    fun rm env bits => ⟨frnd_flags rm env bits, frnd_examples⟩, version2_examples⟩
  · simp only [List.forall_mem_cons]
    exact ⟨faddF_nan f env h, fsubF_nan f env h, fmulF_nan f env h, fdivF_nan f env h, by simp⟩
  · obtain ⟨minus, plus⟩ := fminmaxF_zeros f env isMax e e2
    exact ⟨fminmaxF_nan f env isMax q, fminmaxF_nan_nan f env isMax q q2, minus, plus⟩

end Sys2Proof.Claims
end

section
/-!
PROOF. The matrix commands: what MMA, MWAIT, MQRY and MAPS ask first, and how they go on (R60, R69 to R71, R401, R406, R407).
-/

namespace Sys2Proof.Claims

open Sys2Proof.Machine

/-! ## Retiring and writing a scalar -/

/-- Retiring is going on with the issuing wave as it stands. -/
theorem went_retireN (s : State) (sw : Bool) (n : Nat) : Went s s.wave [] sw n (s.retireN sw n) := by
  rw [retireN_eq_goneOn]
  exact ⟨rfl, goneOn_sameBytes s s.wave [] sw n⟩

/-- A plain scalar result written at once, to a destination without lanes (R157). -/
theorem writeScal_computes {s : State} {d : Dest} (sw : Bool) (x : Word64) (hi : s.issuing = true) (hd : ∀ r, d ≠ .vec r) :
    Computes s sw false d [0] (fun _ => .val x 0#6) ((s.writeScal s.iss.cur d x).retire sw) := by
  have mask : d.mask [0] = 1#64 := by
    cases d with
    | vec r => exact absurd rfl (hd r)
    | _ => rfl
  have writes : d.scalVal ⟨x, false⟩ = d.writes s.wave.id.topLane ([0].map fun l => (l, ⟨x, false⟩)) := by
    cases d with
    | none => rfl
    | vec r => exact absurd rfl (hd r)
    | scal i => rfl
    | wgreg i => by_cases top : 0 = s.wave.id.topLane <;> simp [Dest.scalVal, Dest.writes, top]
  obtain ⟨v, g, e, hnow, hv, hg, hfifo, hidem⟩ := write_withWave s s.wave d [0] (fun _ => ⟨x, false⟩) (.inr (by simp)) rfl rfl
  rw [← writes, mask, ← touch_cur, touch_writeRegs, touch_noteG] at e
  rw [State.writeScal, retire_of_touch e]
  refine ⟨v, g, ⟨hnow, by rw [hv]; rfl, ⟨hg, hfifo⟩, hidem, by rw [hv]⟩, ?_, ?_, went_withWave s v g sw 1 hi (by rw [hv]) (by rw [hv])⟩
  · rw [hv, halfAfter_of_val]
  · rw [hv, halfAfter_of_val]

/-! ## What an instruction asks first -/

/-- An instruction without operands or prefix has nothing to check (R170). -/
theorem formTrap_of_noOperands {s : State} (h : s.iss.pfx = none) : s.formTrap { xw := .no } false = none := by
  simp [State.formTrap, State.illop, State.xwIllegal, State.widthTrap, State.segovf, State.xw, h, noXw, Form.all, Form.sources]

/-- The checks of a matrix instruction on a tile of the workgroup (R69, R75). -/
theorem tileTrap_of_lt {s : State} {t : BitVec 5} (h : t.toNat < s.wg.kern.acct) : s.mmaTrap (decide (s.wg.kern.acct ≤ t.toNat)) = none := by
  simp [State.mmaTrap, h]

/-! ## MMA -/

/-- A field of an operand map, as a number (R60). -/
theorem mapField (m : BitVec 128) (i n : Nat) : (m.extractLsb' i n).toNat = m.toNat / 2 ^ i % 2 ^ n := by
  rw [BitVec.extractLsb'_toNat, Nat.shiftRight_eq_div_pow]

/-- A map that fits raises no MMAERR (R60, R69). -/
theorem mapBad_of_mapFits {m : BitVec 128} {row srow limit : Nat} (h : MapFits m row srow limit) : mapBad m row srow limit = false := by
  obtain ⟨valid, base, stride, rows, inside, scales⟩ := h
  have top : m.getLsbD 127 = true := by
    rw [BitVec.getLsbD, Nat.testBit_eq_decide_div_mod_eq, valid]
    rfl
  simp only [mapBad, mapBase, mapStride, mapSbase, mapSstride, mapField, top, pow_zero, Nat.div_one, base, stride, Nat.not_lt.2 rows,
    Nat.not_lt.2 inside]
  by_cases unscaled : srow = 0
  · simp [unscaled]
  · obtain ⟨sbase, sstride, srows, sinside⟩ := scales unscaled
    simp only [sbase, sstride, Nat.not_lt.2 srows, Nat.not_lt.2 sinside]
    simp

theorem contract_of_code {n : Nat} (h1 : 1 ≤ n) (h5 : n ≤ 5) : ∃ c, Contract.ofCode n = some c ∧ c ≠ .ieee := by
  interval_cases n <;> exact ⟨_, rfl, by decide⟩

/-- The commands in flight that an id names (R71). -/
theorem inFlight_eq_named (s : State) (cid : BitVec 6) : s.wg.inFlight cid = named s cid := by
  rw [named, List.filter_map]
  rfl

/-- The command that an MMA puts into the queue (R68, R70, R74). -/
def commandOf (s : State) (cid p1 p2 : BitVec 6) (ma mb : BitVec 3) (acc : BitVec 5) (z na : Bool) : MmaCmd :=
  ⟨cid, [p1, p2].filter (fun p => p != 0x3F#6 && !(s.wg.inFlight p).isEmpty), s.opMap ma, s.opMap mb, acc.toNat, z, na, false, s.iss.cur,
    s.wave.qclk.toNat, s.spmView⟩

theorem commandOf_preds (s : State) (cid p1 p2 : BitVec 6) (ma mb : BitVec 3) (acc : BitVec 5) (z na : Bool) :
    (commandOf s cid p1 p2 ma mb acc z na).preds = [p1, p2].filter (fun p => decide (p ≠ 0x3F#6 ∧ named s p ≠ [])) := by
  refine List.filter_congr fun p _ => ?_
  rw [inFlight_eq_named, Bool.eq_iff_iff]
  simp

section mma
variable {s : State} {cid p1 p2 : BitVec 6} {ma mb : BitVec 3} {acc : BitVec 5}

theorem mmaErr_of_fits (con1 : 1 ≤ s.wg.kern.con.toNat) (con5 : s.wg.kern.con.toNat ≤ 5) (h1 : p1 ≠ cid) (h2 : p2 ≠ cid)
    (tile : acc.toNat < s.wg.kern.acct)
    (mapA : MapFits (s.opMap ma) (matRowBytes s.wg.kern.con.toNat false).1 (matRowBytes s.wg.kern.con.toNat false).2 s.spmLimit)
    (mapB : MapFits (s.opMap mb) (matRowBytes s.wg.kern.con.toNat true).1 (matRowBytes s.wg.kern.con.toNat true).2 s.spmLimit) :
    s.mmaErr cid p1 p2 ma mb acc = false := by
  obtain ⟨c, hc, notIeee⟩ := contract_of_code con1 con5
  simp only [matRowBytes, hc, Bool.false_eq_true, if_false, if_true] at mapA mapB
  cases c with
  | ieee => exact absurd rfl notIeee
  | _ => simp [State.mmaErr, hc, mapBad_of_mapFits mapA, mapBad_of_mapFits mapB, tile, h1, h2]

/-- MMA where its checks pass, its id is free and the queue has room (R69 to R71). -/
theorem mma_goes (sw z na : Bool) (hi : s.issuing = true) (hp : s.iss.pfx = none) (hcid : cid ≠ 0x3F#6)
    (good : s.mmaErr cid p1 p2 ma mb acc = false) (free : named s cid = []) (room : s.mmaQueued s.wg.die s.wg.core < 16) :
    Goes (.mma sw cid p1 p2 ma mb acc z na) s
      (Went (s.setWg { s.wg with mma := s.wg.mma ++ [commandOf s cid p1 p2 ma mb acc z na] }) s.wave [] sw 2) := by
  refine ⟨_, ?_, went_retireN (s.setWg { s.wg with mma := s.wg.mma ++ [commandOf s cid p1 p2 ma mb acc z na] }) sw 2⟩
  have form : s.formTrap { xw := .no } (cid == 0x3F#6) = none := by
    rw [beq_eq_false_iff_ne.2 hcid]
    exact formTrap_of_noOperands hp
  have trap : s.mmaTrap false = none := rfl
  simp only [exec, execMma, form, good, trap, firstTrap_cons_none]
  refine (guarded_of_none _ hi).trans ?_
  simp only [inFlight_eq_named s cid, free, List.isEmpty_nil, Bool.not_true, Bool.false_eq_true, if_false, Nat.not_le.2 room]
  rfl

end mma

/-! ## MWAIT and MQRY -/

/-- A wait for commands is over once none is in flight that it waits for (R406). -/
theorem mwaiting_of_retired {s : State} {cid : BitVec 6} (done : State → Out)
    (h : s.wave.mwait = none ∧ named s cid = [] ∨ s.wave.mwait = some []) : s.mwaiting cid done = done s := by
  obtain ⟨first, free⟩ | again := h
  · simp [State.mwaiting, first, inFlight_eq_named, free]
  · simp [State.mwaiting, again]

theorem mwait_goes {s : State} {sw : Bool} {c : BitVec 6} (hi : s.issuing = true) (hp : s.iss.pfx = none)
    (h : s.wave.mwait = none ∧ named s c = [] ∨ s.wave.mwait = some []) :
    Goes (.mwait sw c) s (Went s { s.wave with mwait := none } [] sw 1) := by
  refine ⟨_, ?_, went_retireN s sw 1⟩
  simp only [exec, execMwait, formTrap_of_noOperands hp]
  exact (guarded_of_none _ hi).trans (mwaiting_of_retired _ h)

/-- With no command on the tile in flight, a read finds what it holds (R75). -/
theorem tilesSeen_of_idle {s : State} {t : Nat} (h : tileIdle s t) : tilesSeen s t = [s.wg.tile t] := by
  have none : ((s.wgAt s.wave.id.wgKey).mma.filter fun c => c.tile == t) = [] := List.filter_eq_nil_iff.2 fun c hc => by simpa using h c hc
  rw [tilesSeen, State.tileValues, none]
  rfl

/-- A read finds one of the values that the tile takes (R75). -/
theorem pickTile_mem (tick which : Nat) {xs : List Tile} (h : xs ≠ []) : pickTile tick which xs ∈ xs := by
  match xs, h with
  | [x], _ => exact List.mem_singleton.2 rfl
  | x :: y :: zs, _ =>
    unfold pickTile
    dsimp only
    rw [List.getD_eq_getElem _ _ (Nat.mod_lt _ (by simp))]
    exact List.getElem_mem _

theorem pickTile_tilesSeen (s : State) (which t : Nat) : pickTile s.tick which (tilesSeen s t) ∈ tilesSeen s t :=
  pickTile_mem _ _ (List.cons_ne_nil _ _)

/-- A read of a tile uses up free values and nothing else. -/
theorem afterRead_eq (s : State) (t : Nat) : ∃ n, afterRead s t = { s with tick := n } := by
  unfold afterRead State.picked
  split
  · exact ⟨_, rfl⟩
  · exact ⟨_, rfl⟩

/-- MQRY's word: DONE and SAT (R407). -/
theorem mqryWord_eq (s : State) (c : BitVec 6) (x : Tile) : s.mqryWord c x =
    BitVec.ofNat 64 ((if named s c = [] ∨ s.wave.id.repro = true then 0 else 1) + if x.sat then 2 else 0) := by
  rw [State.mqryWord, inFlight_eq_named]
  by_cases free : named s c = [] <;> cases s.wave.id.repro <;> cases x.sat <;> simp [free, bit]

theorem dest_of_sz {s : State} {d : Opd} (h : d.sz = true) (r : Nat) : s.dest d ≠ .vec r := by
  cases d with
  | s => exact nofun
  | zero => exact nofun
  | _ => cases h

/-- MQRY as it goes on (R407). -/
def mqryDone (sw : Bool) (c : BitVec 6) (d : Opd) (t : Nat) (s : State) : Out :=
  .next (((afterRead s t).writeScal s.iss.cur (s.dest d) (s.mqryWord c (pickTile s.tick 0 (tilesSeen s t)))).retire sw)

theorem mqry_goes {s : State} {sw : Bool} {c : BitVec 6} {d : Opd} {t : BitVec 5} (hi : s.issuing = true)
    (hf : s.formTrap { xw := .no } (!d.sz) = none) (ht : t.toNat < s.wg.kern.acct)
    (h : s.wave.id.repro = true → s.wave.mwait = none ∧ named s c = [] ∨ s.wave.mwait = some []) :
    Goes (.mqry sw c d t) s fun u => ∃ x ∈ tilesSeen s t.toNat, Computes (afterRead s t.toNat) sw false (s.dest d) [0] (fun _ =>
      .val (BitVec.ofNat 64 ((if named s c = [] ∨ s.wave.id.repro = true then 0 else 1) + if x.sat then 2 else 0)) 0#6) u := by
  have done : exec (.mqry sw c d t) s = mqryDone sw c d t.toNat s := by
    simp only [exec, execMqry, hf, tileTrap_of_lt ht, firstTrap_cons_none]
    refine (guarded_of_none _ hi).trans ?_
    split
    · next repro => exact mwaiting_of_retired _ (h repro)
    · rfl
  refine ⟨_, done, _, pickTile_tilesSeen s 0 t.toNat, ?_⟩
  rw [← mqryWord_eq]
  obtain ⟨n, hn⟩ := afterRead_eq s t.toNat
  rw [hn]
  exact writeScal_computes (s := { s with tick := n }) sw _ hi (dest_of_sz (by simpa using extra_of_formTrap hf))

/-! ## MAPS -/

/-- The fields of a map's low word leave nothing reserved (R60, R401). -/
theorem mapReserved_low {x : BitVec 64} (h : x.toNat / 2 ^ 32 % 2 ^ 16 * 2 ^ 32 + x.toNat % 2 ^ 19 = x.toNat) : mapReserved (0#64 ++ x) = false := by
  have word : (0#64 ++ x : BitVec 128).toNat = x.toNat := by rw [BitVec.toNat_append]; simp
  have field (i n : Nat) (zero : x.toNat / 2 ^ i % 2 ^ n = 0) : (0#64 ++ x : BitVec 128).extractLsb' i n = 0#n :=
    BitVec.eq_of_toNat_eq (by rw [mapField, word, zero]; simp)
  have hx := x.isLt
  rw [mapReserved, field 19 13 (by omega), field 48 16 (by omega), field 83 13 (by omega), field 112 15 (by omega)]
  rfl

/-- The fields of a map's high word leave nothing reserved (R60, R401). -/
theorem mapReserved_high {y : BitVec 64} (h : y.toNat / 2 ^ 63 * 2 ^ 63 + y.toNat / 2 ^ 32 % 2 ^ 16 * 2 ^ 32 + y.toNat % 2 ^ 19 = y.toNat) :
    mapReserved (y ++ 0#64) = false := by
  have word : (y ++ 0#64 : BitVec 128).toNat = y.toNat * 2 ^ 64 := by
    rw [BitVec.toNat_append, ← Nat.shiftLeft_add_eq_or_of_lt (by simp), Nat.shiftLeft_eq]
    simp
  have field (i n : Nat) (zero : y.toNat * 2 ^ 64 / 2 ^ i % 2 ^ n = 0) : (y ++ 0#64 : BitVec 128).extractLsb' i n = 0#n :=
    BitVec.eq_of_toNat_eq (by rw [mapField, word, zero]; simp)
  have hy := y.isLt
  rw [mapReserved, field 19 13 (by omega), field 48 16 (by omega), field 83 13 (by omega), field 112 15 (by omega)]
  rfl

/-- A map that its fields make up has two words that theirs make up (R60, R401). -/
theorem mapWords_of_fields {x y : Nat} (hx : x < 2 ^ 64) (whole : y / 2 ^ 63 * 2 ^ 127 + y / 2 ^ 32 % 2 ^ 16 * 2 ^ 96 + y % 2 ^ 19 * 2 ^ 64 +
      x / 2 ^ 32 % 2 ^ 16 * 2 ^ 32 + x % 2 ^ 19 = y * 2 ^ 64 + x) :
    x / 2 ^ 32 % 2 ^ 16 * 2 ^ 32 + x % 2 ^ 19 = x ∧ y / 2 ^ 63 * 2 ^ 63 + y / 2 ^ 32 % 2 ^ 16 * 2 ^ 32 + y % 2 ^ 19 = y := by
  omega

/-- Two 64-bit words as one map (R401). -/
theorem append_eq_ofNat (y x : BitVec 64) : (y ++ x : BitVec 128) = BitVec.ofNat 128 (y.toNat * 2 ^ 64 + x.toNat) := by
  apply BitVec.eq_of_toNat_eq
  rw [BitVec.toNat_append, ← Nat.shiftLeft_add_eq_or_of_lt x.isLt, Nat.shiftLeft_eq, BitVec.toNat_ofNat, Nat.mod_eq_of_lt]
  have hx := x.isLt
  have hy := y.isLt
  omega

theorem maps_goes {s : State} {sw : Bool} {m : BitVec 3} {i : Fin 48} {x y : ScalVal} (hi : s.issuing = true) (hp : s.iss.pfx = none)
    (even : i.val % 2 = 0) (hx : s.wave.regs.s[i.val]?.getD ScalVal.zero = x) (hy : s.wave.regs.s[i.val + 1]?.getD ScalVal.zero = y)
    (px : x.p = false) (py : y.p = false)
    (whole : y.bits.toNat / 2 ^ 63 * 2 ^ 127 + y.bits.toNat / 2 ^ 32 % 2 ^ 16 * 2 ^ 96 + y.bits.toNat % 2 ^ 19 * 2 ^ 64 +
      x.bits.toNat / 2 ^ 32 % 2 ^ 16 * 2 ^ 32 + x.bits.toNat % 2 ^ 19 = y.bits.toNat * 2 ^ 64 + x.bits.toNat) :
    Goes (.maps sw m (.s i)) s fun t => ∃ regs, Went s { s.wave with regs := regs } [] sw 1 t ∧
      regs = { s.wave.regs with m := regs.m } ∧
      ∀ j : Nat, j < 8 → regs.m[j]? = if j = m.toNat then some (BitVec.ofNat 128 (y.bits.toNat * 2 ^ 64 + x.bits.toNat)) else s.wave.regs.m[j]? := by
  have source : mapSource (.s i) = some (i.val, i.val + 1) := if_pos even
  have low : s.readScal (.scal i.val) = x := hx
  have high : s.readScal (.scal (i.val + 1)) = y := hy
  obtain ⟨lowWhole, highWhole⟩ := mapWords_of_fields x.bits.isLt whole
  have plain : ((!x.p && mapReserved (0#64 ++ x.bits)) || (!y.p && mapReserved (y.bits ++ 0#64))) = false := by
    rw [mapReserved_low lowWhole, mapReserved_high highWhole]
    simp
  have tokens : firstTok [x.tok, y.tok] = none := by simp [ScalVal.tok, px, py, firstTok]
  let regs : Regs := { s.wave.regs with m := s.wave.regs.m.set! m.toNat (y.bits ++ x.bits) }
  refine ⟨(s.setWave { s.wave with regs := regs }).retire sw, ?_, regs, ran_setWave s _ sw rfl rfl, rfl, fun j hj => ?_⟩
  · simp only [exec, execMaps, source, Option.getD_some, Option.isNone_some, low, high, formTrap_of_noOperands hp, plain, tokens,
      Bool.false_eq_true, if_false, Option.map_none, firstTrap_cons_none]
    exact guarded_of_none _ hi
  · rw [← append_eq_ofNat]
    have hm : m.toNat < 8 := m.isLt
    by_cases same : j = m.toNat
    · subst same
      simp [regs, hm]
    · simp [regs, same, Ne.symm same]

/-- Settles O26, instruction by instruction. -/
theorem matrixCommands : Obligations.MatrixCommands := by
  unfold Obligations.MatrixCommands
  refine ⟨fun sw cid p1 p2 ma mb acc z na s hi hp con1 con5 hcid h1 h2 tile mapA mapB free room => ?_,
    fun sw c s hi hp h => mwait_goes hi hp h, fun sw c d t s hi hf ht h => ⟨tilesSeen_of_idle, mqry_goes hi hf ht h⟩,
    fun sw m i s x y hi hp even hx hy px py whole => maps_goes hi hp even hx hy px py whole⟩
  obtain ⟨t, goes, went⟩ := mma_goes sw z na hi hp hcid (mmaErr_of_fits con1 con5 h1 h2 tile mapA mapB) free room
  exact ⟨t, goes, commandOf s cid p1 p2 ma mb acc z na, rfl, rfl, rfl, rfl, rfl, rfl, rfl, commandOf_preds .., rfl, rfl, rfl, went⟩

end Sys2Proof.Claims
end

section
/-!
PROOF. The accumulator instructions: tiles and their rows, what a read finds, and the entries of an AST (R75, R77, R336, R341, R342, R350).
-/

namespace Sys2Proof.Claims

open Sys2Proof.Machine

/-! ## Tiles of a workgroup -/

theorem tile_setTile_same (g : Wg) (t : Nat) (x : Tile) : (g.setTile t x).tile t = x := FMap.get_set_same ..

theorem tile_setTile_other (g : Wg) {t k : Nat} (x : Tile) (h : k ≠ t) : (g.setTile t x).tile k = g.tile k := FMap.get_set_other _ _ _ h

/-- A tile that no command in flight names is not busy (R75). -/
theorem tileBusy_of_idle {s : State} {t : Nat} (h : tileIdle s t) : s.wg.tileBusy t = false :=
  List.any_eq_false.2 fun c hc => by simpa using h c hc

/-- The elements of a tile after some lanes of a row are written (R350). -/
theorem elem_writeRow (x : Tile) (row : Nat) (vals : List LaneVal) {lanes : Lanes} (low : ∀ l ∈ lanesOf lanes, l < 32) (i : Nat) {j : Nat}
    (hj : j < 32) : elem (x.writeRow row vals lanes) i j = if i = row ∧ lanes.getLsbD j then vals.getD j LaneVal.zero else elem x i j := by
  let cells : List (Nat × LaneVal) := (lanesOf lanes).map fun l => (32 * row + l, vals.getD l LaneVal.zero)
  have written : (x.writeRow row vals lanes).elems = cells.foldl (fun m e => m.set LaneVal.zero e.1 e.2) x.elems := by
    simp only [cells, List.foldl_map]
    rfl
  have value : ∀ e ∈ cells, e.2 = vals.getD (e.1 % 32) LaneVal.zero := fun e he => by
    obtain ⟨l, hl, rfl⟩ := List.mem_map.1 he
    rw [Nat.mul_add_mod, Nat.mod_eq_of_lt (low l hl)]
  have mem : 32 * i + j ∈ cells.map Prod.fst ↔ i = row ∧ lanes.getLsbD j = true := by
    simp only [cells, List.map_map, List.mem_map, Function.comp_apply, mem_lanesOf]
    constructor
    · rintro ⟨l, ⟨hl, set⟩, e⟩
      have := low l ((mem_lanesOf ..).2 ⟨hl, set⟩)
      obtain ⟨rfl, rfl⟩ : i = row ∧ j = l := by omega
      exact ⟨rfl, set⟩
    · rintro ⟨rfl, set⟩
      exact ⟨j, ⟨by omega, set⟩, rfl⟩
  rw [elem, written, FMap.get_sets_of_forall _ _ (v := fun n => vals.getD (n % 32) LaneVal.zero) value, Nat.mul_add_mod, Nat.mod_eq_of_lt hj]
  exact if_congr mem rfl rfl

/-! ## ACLR and AWR -/

/-- ACLR of an idle tile (R336). -/
theorem aclr_goes {s : State} {sw : Bool} {t : BitVec 5} (hi : s.issuing = true) (hp : s.iss.pfx = none) (ht : t.toNat < s.wg.kern.acct)
    (idle : tileIdle s t.toNat) (hr : s.wave.repro = false) :
    Goes (.aclr sw t) s (Went (s.setWg (s.wg.setTile t.toNat Tile.start)) s.wave [] sw 1) := by
  refine ⟨_, ?_, went_retireN (s.setWg (s.wg.setTile t.toNat Tile.start)) sw 1⟩
  simp only [exec, execAclr, formTrap_of_noOperands hp, State.tileTrap, tileTrap_of_lt ht, firstTrap_cons_none]
  refine (guarded_of_none _ hi).trans ?_
  simp only [tileBusy_of_idle idle, hr, Bool.false_eq_true, if_false]
  rfl

/-- The value that AWR writes in a lane: the source's, its token, or the guard's (R331, R350). -/
def awrLane (s : State) (a : Opd) (l : Nat) : LaneVal :=
  match firstTok [(s.srcA true a l).tok, s.guardTok l] with
  | some k => ⟨k, true⟩
  | none => ⟨(s.srcA true a l).bits.setWidth 32, false⟩

/-- A lane of a source, by its 32 bits (R157). -/
theorem srcA_tok (s : State) (a : Opd) (l : Nat) : (s.srcA true a l).tok = (s.readLane s.xw.permA s.xw.argA (s.ref a) 0 l).tok := by
  simp [State.srcA, ScalVal.tok, LaneVal.tok]

/-- The lanes of AWR: the active ones below 32 (R350). -/
theorem getLsbD_low (m : Lanes) {l : Nat} (hl : l < 64) : (m &&& 0xFFFFFFFF#64).getLsbD l = (m.getLsbD l && decide (l < 32)) := by
  have low : ∀ l < 64, (0xFFFFFFFF#64).getLsbD l = decide (l < 32) := by decide
  rw [BitVec.getLsbD_and, low l hl]

/-- AWR of an idle tile (R350). -/
theorem awr_goes {s : State} {sw : Bool} {t r : BitVec 5} {a : Opd} (hi : s.issuing = true)
    (hf : s.formTrap { a := some { o := a } } (!a.isVec) = none) (ht : t.toNat < s.wg.kern.acct) (idle : tileIdle s t.toNat)
    (hr : s.wave.repro = false) :
    Goes (.awr sw t a r) s (Went (s.setWg (s.wg.setTile t.toNat ((s.wg.tile t.toNat).writeRow r.toNat ((List.range 32).map (awrLane s a))
      (s.active &&& 0xFFFFFFFF#64)))) s.wave [] sw 1) := by
  refine ⟨_, ?_, went_retireN (s.setWg (s.wg.setTile t.toNat _)) sw 1⟩
  have lane (l : Nat) : (match firstTok [(s.readLane s.xw.permA s.xw.argA (s.ref a) 0 l).tok, s.guardTok l] with
      | some k => ⟨k, true⟩
      | none => s.readLane s.xw.permA s.xw.argA (s.ref a) 0 l) = awrLane s a l := by
    rw [awrLane, srcA_tok]
    cases h : firstTok [(s.readLane s.xw.permA s.xw.argA (s.ref a) 0 l).tok, s.guardTok l] with
    | some k => rfl
    | none =>
      have plain : (s.readLane s.xw.permA s.xw.argA (s.ref a) 0 l).p = false := by
        by_contra hp
        simp [firstTok, LaneVal.tok, hp] at h
      simp [State.srcA, ← plain]
  have vals : ((List.range 32).map fun l => match firstTok [(s.readLane s.xw.permA s.xw.argA (s.ref a) 0 l).tok, s.guardTok l] with
      | some k => ⟨k, true⟩
      | none => s.readLane s.xw.permA s.xw.argA (s.ref a) 0 l) = (List.range 32).map (awrLane s a) := List.map_congr_left fun l _ => lane l
  rw [← vals]
  simp only [exec, execAwr, hf, State.tileTrap, tileTrap_of_lt ht, firstTrap_cons_none]
  refine (guarded_of_none _ hi).trans ?_
  simp only [tileBusy_of_idle idle, hr, Bool.false_eq_true, if_false]
  rfl

/-- The row that AWR leaves (R350). -/
theorem elem_awr (s : State) (x : Tile) (a : Opd) (row i : Nat) {j : Nat} (hj : j < 32) :
    elem (x.writeRow row ((List.range 32).map (awrLane s a)) (s.active &&& 0xFFFFFFFF#64)) i j =
      if i = row ∧ s.active.getLsbD j then awrLane s a j else elem x i j := by
  rw [elem_writeRow _ _ _ (fun l hl => ?_) _ hj, getLsbD_low _ (by omega), List.getD_eq_getElem _ _ (by simpa using hj)]
  · simp [hj]
  · obtain ⟨h64, set⟩ := (mem_lanesOf ..).1 hl
    rw [getLsbD_low _ h64] at set
    simpa using (Bool.and_eq_true_iff.1 set).2

/-! ## What a read of a tile finds -/

/-- Element (i, j) of a tile as a read that may find it in several places returns it (R75). -/
def found (s : State) (raw : Bool) (t i j : Nat) : LaneVal := readPicked s.tick (tilesSeen s t) (s.scaled raw) i j

theorem returned_found (s : State) (raw : Bool) (t i j : Nat) : Returned s raw t i j (found s raw t i j) :=
  ⟨_, pickTile_tilesSeen s _ t, _, pickTile_tilesSeen s _ t, _, pickTile_tilesSeen s _ t, rfl⟩

/-- An element that is poisoned in no value of the tile is found plain (R77). -/
theorem found_plain {s : State} {raw : Bool} {t i j : Nat} (h : ∀ y ∈ tilesSeen s t, (elem y i j).p = false) : (found s raw t i j).p = false := by
  have plain := h _ (pickTile_tilesSeen s (32 * i + j) t)
  unfold found readPicked Tile.readElem
  dsimp only
  split
  · exact plain
  · rfl

theorem dest_of_vecReg {s : State} {d : Opd} (h : isVecReg d = true) : ∃ r, s.dest d = .vec r := by
  cases d with
  | v c => exact ⟨_, rfl⟩
  | _ => cases h

/-- ARD where its checks pass (R341). -/
theorem ard_goes {s : State} {sw x : Bool} {d : Opd} {t r : BitVec 5} (hi : s.issuing = true)
    (hf : s.formTrap { dst := some { o := d } } (!isVecReg d) = none) (ht : t.toNat < s.wg.kern.acct) :
    Goes (.ard sw d t x r) s (Computes (afterRead s t.toNat) sw true (s.dest d) (laneList s true) fun l =>
      match firstTok [(found s x t.toNat r.toNat (l % 32)).tok, s.guardTok l] with
      | some k => .tok k
      | none => .val ((found s x t.toNat r.toNat (l % 32)).bits.setWidth 64) 0#6) := by
  obtain ⟨n, hn⟩ := dest_of_vecReg (s := s) (d := d) (by simpa using extra_of_formTrap hf)
  obtain ⟨w, g, put, hr, hlo, hhi⟩ := putResults_withWave (afterRead s t.toNat) true (s.dest d) (laneList s true) (fun l =>
      match firstTok [(found s x t.toNat r.toNat (l % 32)).tok, s.guardTok l] with
      | some k => .tok k
      | none => .val ((found s x t.toNat r.toNat (l % 32)).bits.setWidth 64) 0#6) (.inl (.inr ⟨n, hn⟩))
  have issuing : (afterRead s t.toNat).issuing = true := by
    obtain ⟨n, hn⟩ := afterRead_eq s t.toNat
    rw [hn]
    exact hi
  refine ⟨_, ?_, w, g, hr, hlo, hhi, went_withWave _ w g sw 1 issuing (by rw [hr.rest]) (by rw [hr.rest])⟩
  rw [← put, ← workLanes_eq]
  simp only [exec, execArd, hf, State.tileTrap, tileTrap_of_lt ht, firstTrap_cons_none]
  exact guarded_of_none _ hi

/-! ## AST -/

/-- How many values a tile takes: one more than the commands in flight that name it (R75). -/
theorem length_tileValues (s : State) (wg t : Nat) :
    (s.tileValues wg t).length = ((s.wgAt wg).mma.filter fun c => c.tile == t).length + 1 := by
  have length (cs : List MmaCmd) (r : List Tile × Tile) : (cs.foldl (fun (r : List Tile × Tile) c =>
      let x := (s.mmaResult wg c r.2).1
      (r.1 ++ [x], x)) r).1.length = cs.length + r.1.length := by
    induction cs generalizing r with
    | nil => simp
    | cons c cs ih =>
      rw [List.foldl_cons, ih]
      simp only [List.length_append, List.length_cons, List.length_nil]
      omega
  simp [State.tileValues, length]

/-- Reading uses up the same free values whatever the tile's values are, as long as they are as many. -/
theorem picked_congr (s : State) {xs ys : List Tile} (h : xs.length = ys.length) : s.picked xs = s.picked ys := by
  rw [State.picked, State.picked, h]

theorem picked_setWaveAt (s : State) (k : Nat) (w : Wave) (xs : List Tile) : (s.setWaveAt k w).picked xs = (s.picked xs).setWaveAt k w := by
  unfold State.picked
  split <;> rfl

theorem picked_withTlbs (s : State) (x : Tlbs) (xs : List Tile) : ({ s with tlbs := x } : State).picked xs = { (s.picked xs) with tlbs := x } := by
  unfold State.picked
  split <;> rfl

theorem chkFails_of_passed {cs : List (Nat × LaneChk)} (h : ∀ e ∈ cs, passed e.2 = true) : chkFails cs = [] := by
  refine List.filterMap_eq_nil_iff.2 fun e he => ?_
  obtain ⟨l, c⟩ := e
  have := h _ he
  cases c <;> simp_all [passed]

/-- The numbers of the elements of a row (R342). -/
theorem filter_row : ∀ i < 32, (List.range 1024).filter (fun n => n / 32 == i) = (List.range 32).map (32 * i + ·) := by decide +kernel

/-- The checks of one row's elements, in order. -/
theorem filter_astChecks (s : State) (r : BufRec) (o : Nat) {i : Nat} (hi : i < 32) : ((s.astChecks r o).filter fun e => e.1 / 32 == i) =
    (List.range 32).map fun j => (32 * i + j, s.checkLane r (recAddr r (o + (32 * i + j))) 4 4 .storeMem) := by
  have row := filter_row i hi
  rw [State.astChecks, List.filter_map]
  change List.map _ ((List.range 1024).filter fun n => n / 32 == i) = _
  rw [row, List.map_map]
  rfl

theorem getD_astElems (s : State) (t : Nat) (raw : Bool) {i j : Nat} (hi : i < 32) (hj : j < 32) :
    (s.astElems t (s.scaled raw)).getD (32 * i + j) LaneVal.zero = found s raw t i j := by
  have row : (32 * i + j) / 32 = i := by omega
  have column : (32 * i + j) % 32 = j := by omega
  rw [State.astElems, List.getD_eq_getElem _ _ (by simp; omega)]
  simp only [List.getElem_map, List.getElem_range, row, column]
  rfl

/-- Each row of an AST is one entry: the row's elements, in order (R342). -/
theorem getElem_astRows (s : State) (r : BufRec) (o t : Nat) (raw : Bool) {i : Nat} (hi : i < 32) :
    ∃ nc pages, (astRows r o (s.astChecks r o) (s.astElems t (s.scaled raw)))[i]? = some (Eff.store (recScratch r) nc false
      ((List.range 32).flatMap fun j =>
        (s.checkLane r (recAddr r (o + (32 * i + j))) 4 4 .storeMem).pas.zip (leBytes 4 (found s raw t i j).bits.toNat)) pages) := by
  rw [astRows, List.getElem?_map, List.getElem?_range hi, Option.map_some, filter_astChecks s r o hi]
  dsimp only
  rw [List.flatMap_map]
  refine ⟨_, _, congrArg (fun bytes => some (Eff.store _ _ false bytes _)) (List.flatMap_congr fun j hj => ?_)⟩
  rw [getD_astElems s t raw hi (List.mem_range.1 hj)]

/-- Every element of an AST stands in one of its rows (R342). -/
theorem passed_of_mem_astChecks {s : State} {r : BufRec} {o : Nat}
    (h : ∀ i j, i < 32 → j < 32 → passed (s.checkLane r (recAddr r (o + (32 * i + j))) 4 4 .storeMem) = true) :
    ∀ e ∈ s.astChecks r o, passed e.2 = true := fun e he => by
  obtain ⟨n, hn, rfl⟩ := List.mem_map.1 he
  have hn := List.mem_range.1 hn
  have cell := h (n / 32) (n % 32) (by omega) (by omega)
  rwa [Nat.div_add_mod] at cell

/-- An AST of a tile that is poisoned nowhere raises no POISON (R77). -/
theorem astPoison_of_plain {s : State} {t : Nat} {raw : Bool}
    (h : ∀ i j, i < 32 → j < 32 → ∀ y ∈ tilesSeen s t, (elem y i j).p = false) : astPoison (s.astElems t (s.scaled raw)) = none := by
  have plain : ((List.range 1024).filter fun n => ((s.astElems t (s.scaled raw)).getD n LaneVal.zero).p) = [] :=
    List.filter_eq_nil_iff.2 fun n hn => by
      have hn := List.mem_range.1 hn
      have cell := found_plain (raw := raw) (h (n / 32) (n % 32) (by omega) (by omega))
      rw [← getD_astElems s t raw (by omega) (by omega), Nat.div_add_mod] at cell
      simpa using cell
  rw [astPoison, plain]
  rfl

section ast
variable {s : State} {x : Bool} {t : BitVec 5} {o : Opd} {b : BitVec 4}

/-- The entries that an AST leaves. -/
def astEntries (s : State) (x : Bool) (t : BitVec 5) (o : Opd) (b : BitVec 4) : List Eff :=
  astRows (s.brec b) (s.sval o).toNat (s.astChecks (s.brec b) (s.sval o).toNat) (s.astElems t.toNat (s.scaled x))

/-- AST as it goes on. -/
theorem ast_done (sw : Bool) (tlbs : Tlbs) :
    let u := ({ s with tlbs := tlbs } : State).holdAll s.iss.cur (astEntries s x t o b)
    let v := u.picked (u.tileValues u.wave.id.wgKey t.toNat)
    (v.setWave u.wave.clearIdem).retire sw = (({ (afterRead s t.toNat) with tlbs := tlbs } : State).setWave
      { s.wave with fifo := s.wave.fifo ++ astEntries s x t o b, idem := { s.wave.idem with idv := false } }).retire sw := by
  intro u v
  let held : Wave := { s.wave with fifo := s.wave.fifo ++ astEntries s x t o b }
  have hu : u = ({ s with tlbs := tlbs } : State).setWaveAt s.iss.cur held := rfl
  have wave : u.wave = held := by rw [hu]; exact State.wave_setWave { s with tlbs := tlbs } held
  have wg : u.wgAt u.wave.id.wgKey = s.wg := by rw [wave, hu]; rfl
  have seen : (u.tileValues u.wave.id.wgKey t.toNat).length = (tilesSeen s t.toNat).length := by
    rw [length_tileValues, wg, tilesSeen, length_tileValues]
    rfl
  have hv : v = ({ (afterRead s t.toNat) with tlbs := tlbs } : State).setWaveAt s.iss.cur held := by
    change u.picked _ = _
    rw [picked_congr u seen, hu, picked_setWaveAt, picked_withTlbs]
    rfl
  obtain ⟨n, hn⟩ := afterRead_eq s t.toNat
  rw [hv, wave, hn]
  congr 1
  exact State.setWaveAt_setWaveAt ..

/-- AST where its checks pass and there is room (R342). -/
theorem ast_goes (sw : Bool) (hi : s.issuing = true) (hf : s.formTrap { xw := .no } (!o.sgz || recBad (s.brec b)) = none)
    (plain : (s.readScal (s.ref o)).p = false) (ht : t.toNat < s.wg.kern.acct) (room : fifoRooms s 32)
    (pass : ∀ e ∈ s.astChecks (s.brec b) (s.sval o).toNat, passed e.2 = true)
    (whole : astPoison (s.astElems t.toNat (s.scaled x)) = none) :
    Goes (.ast sw x t o b) s fun u => ∃ tlbs, Ran { (afterRead s t.toNat) with tlbs := tlbs }
      { s.wave with fifo := s.wave.fifo ++ astEntries s x t o b, idem := { s.wave.idem with idv := false } } sw u := by
  obtain ⟨tlbs, touched⟩ := touchTlbs_eq s (s.brec b)
    (((s.astChecks (s.brec b) (s.sval o).toNat).filter fun e => !e.2.pas.isEmpty).map fun e => recAddr (s.brec b) ((s.sval o).toNat + e.1))
  have wave : ({ (afterRead s t.toNat) with tlbs := tlbs } : State).wave = s.wave := by
    obtain ⟨n, hn⟩ := afterRead_eq s t.toNat
    rw [hn]
    rfl
  refine ⟨_, ?_, tlbs, ran_setWave { (afterRead s t.toNat) with tlbs := tlbs }
    { s.wave with fifo := s.wave.fifo ++ astEntries s x t o b, idem := { s.wave.idem with idv := false } } sw (by rw [wave]) (by rw [wave])⟩
  have addresses : s.astTrap (s.astChecks (s.brec b) (s.readScal (s.ref o)).bits.toNat) = none := by
    have none : chkFails (s.astChecks (s.brec b) (s.readScal (s.ref o)).bits.toNat) = [] := chkFails_of_passed pass
    rw [State.astTrap, none]
  simp only [exec, execAst, hf, State.tileTrap, tileTrap_of_lt ht, plain, addresses, whole, Option.isSome_none, Bool.false_eq_true, if_false,
    firstTrap_cons_none]
  refine (guarded_of_none _ hi).trans ((withRoom_of_fifoRooms room _).trans ?_)
  rw [State.sval] at touched
  rw [touched]
  exact congrArg _ (ast_done sw tlbs)

end ast

/-- Settles O27, instruction by instruction. -/
theorem accumulatorInstructions : Obligations.AccumulatorInstructions := by
  unfold Obligations.AccumulatorInstructions
  refine ⟨fun sw t s hi hp ht idle hr => ?_, fun sw t a r s hi hf ht idle hr => ?_, fun sw d t x r s hi hf ht => ⟨tilesSeen_of_idle, ?_⟩,
    fun sw x t o b s hi hf plain => ?_⟩
  · obtain ⟨u, goes, went⟩ := aclr_goes (sw := sw) hi hp ht idle hr
    refine ⟨u, goes, _, went, rfl, fun k hk => tile_setTile_other _ _ hk, ?_⟩
    rw [tile_setTile_same]
    exact ⟨rfl, fun i j => rfl, fun i => by simp [Tile.start]⟩
  · obtain ⟨u, goes, went⟩ := awr_goes (sw := sw) (r := r) hi hf ht idle hr
    refine ⟨u, goes, _, went, rfl, fun k hk => tile_setTile_other _ _ hk, ?_⟩
    rw [tile_setTile_same]
    exact ⟨rfl, fun i j _ hj => elem_awr s _ a r.toNat i hj⟩
  · obtain ⟨u, goes, computes⟩ := ard_goes (sw := sw) (x := x) (r := r) hi hf ht
    exact ⟨u, goes, found s x t.toNat r.toNat, fun j => returned_found s x t.toNat r.toNat j, computes⟩
  · intro off chk pass ht room
    have passes : ∀ e ∈ s.astChecks (s.brec b) (s.sval o).toNat, passed e.2 = true :=
      passed_of_mem_astChecks fun i j h h' => (pass i j h h').1
    have whole : astPoison (s.astElems t.toNat (s.scaled x)) = none := astPoison_of_plain fun i j h h' => (pass i j h h').2
    obtain ⟨u, goes, tlbs, ran⟩ := ast_goes (x := x) (t := t) (o := o) (b := b) sw hi hf plain ht room passes whole
    exact ⟨u, goes, tlbs, astEntries s x t o b, found s x t.toNat, fun i j _ _ => returned_found s x t.toNat i j, ran, by simp [astEntries, astRows],
      fun i h => getElem_astRows s (s.brec b) (s.sval o).toNat t.toNat x h⟩

end Sys2Proof.Claims
end

section
/-!
PROOF. What memory operations do to memory and the caches, whatever the waves wait for: the store path, the write-combining buffer and the
slices (R184 to R187, R198).
-/

namespace Sys2Proof.Claims

open Sys2Proof.Machine

/-! ## States that differ in what waves wait for -/

/-- A slice's bytes once those that satisfy a test are written back. -/
def cleanL2 (cl : Nat) (p : Nat → Bool) (l2 : FMap L2Byte) : FMap L2Byte :=
  l2.map fun e => if (keyUnit e.1 == cl && p (keyAddr e.1)) = true then (e.1, L2Byte.mk e.2.val false) else e

/-- `u` is `s` but for its waves and its belay table. -/
def ExceptWaves (s u : State) : Prop := ∃ waves belay, u = { s with waves := waves, belay := belay }

namespace ExceptWaves

variable {s u v : State}

theorem refl (s : State) : ExceptWaves s s := ⟨s.waves, s.belay, rfl⟩

theorem symm (h : ExceptWaves s u) : ExceptWaves u s := by
  obtain ⟨w, b, rfl⟩ := h
  exact ⟨s.waves, s.belay, rfl⟩

theorem trans (h : ExceptWaves s u) (h' : ExceptWaves u v) : ExceptWaves s v := by
  obtain ⟨w, b, rfl⟩ := h
  obtain ⟨w', b', rfl⟩ := h'
  exact ⟨w', b', rfl⟩

/-- Two runs of steps that each keep the difference keep it. -/
theorem foldl {β : Type} {f : State → β → State} (hf : ∀ {s u} b, ExceptWaves s u → ExceptWaves (f s b) (f u b)) (l : List β)
    (h : ExceptWaves s u) : ExceptWaves (l.foldl f s) (l.foldl f u) := by
  induction l generalizing s u with
  | nil => exact h
  | cons b l ih => exact ih (hf b h)

theorem mem (h : ExceptWaves s u) : u.mem = s.mem := by
  obtain ⟨w, b, rfl⟩ := h
  rfl

theorem caches (h : ExceptWaves s u) : u.caches = s.caches := by
  obtain ⟨w, b, rfl⟩ := h
  rfl

theorem setCaches (h : ExceptWaves s u) (c : Caches) : ExceptWaves { s with caches := c } { u with caches := c } := by
  obtain ⟨w, b, rfl⟩ := h
  exact ⟨w, b, rfl⟩

theorem modCaches (h : ExceptWaves s u) (f : Caches → Caches) :
    ExceptWaves { s with caches := f s.caches } { u with caches := f u.caches } := by
  rw [h.caches]
  exact h.setCaches _

theorem memWrite (h : ExceptWaves s u) (l : List (Nat × Byte)) : ExceptWaves (s.memWrite l) (u.memWrite l) := by
  obtain ⟨w, b, rfl⟩ := h
  exact ⟨w, b, rfl⟩

theorem writeBackObj (h : ExceptWaves s u) (o : CohObj) : ExceptWaves (s.writeBackObj o) (u.writeBackObj o) := by
  have lines : u.harts.lines = s.harts.lines := by
    obtain ⟨w, b, rfl⟩ := h
    rfl
  unfold State.writeBackObj
  rw [lines]
  refine foldl (fun e h => ?_) _ h
  split
  · exact h.memWrite _
  · exact h

theorem probeInvalid (h : ExceptWaves s u) (k : Nat) (o : CohObj) : ExceptWaves (s.probeInvalid k o) (u.probeInvalid k o) := by
  obtain ⟨w, b, e⟩ := h.writeBackObj o
  simp only [State.probeInvalid, e]
  exact ⟨w, b, rfl⟩

/-- Testing the value waits again is their affair alone. -/
theorem retestValues (s : State) (l : List (Nat × Byte)) : ExceptWaves s (s.retestValues l) := by
  refine List.foldlRecOn s.waves _ (motive := ExceptWaves s) (refl s) fun u hu e _ => ?_
  split
  · exact hu
  · split
    · exact hu.trans ⟨_, _, rfl⟩
    · exact hu

theorem ackBytes (s : State) (cl : Nat) (pas : List Nat) : ExceptWaves s (s.ackBytes cl pas) := ⟨_, _, rfl⟩

theorem homeWrite (h : ExceptWaves s u) (l : List (Nat × Byte)) : ExceptWaves (s.homeWrite l) (u.homeWrite l) := by
  have stored : (l.filter fun e => !u.absentAt e.1) = l.filter fun e => !s.absentAt e.1 := by
    obtain ⟨w, b, rfl⟩ := h
    rfl
  have probed : ExceptWaves
      ((l.filter fun e => !s.absentAt e.1).foldl (fun s e => (s.heldObjs (e.1 / 64)).foldl (fun s o => s.probeInvalid o.1 o.2) s) s)
      ((l.filter fun e => !s.absentAt e.1).foldl (fun s e => (s.heldObjs (e.1 / 64)).foldl (fun s o => s.probeInvalid o.1 o.2) s) u) := by
    refine foldl (fun {s u} e h => ?_) _ h
    have held : u.heldObjs (e.1 / 64) = s.heldObjs (e.1 / 64) := by
      obtain ⟨w, b, rfl⟩ := h
      rfl
    rw [held]
    exact foldl (fun o h => h.probeInvalid o.1 o.2) _ h
  simp only [State.homeWrite, stored]
  exact (retestValues _ _).symm.trans (((probed.memWrite _).modCaches fun c =>
    (l.filter fun e => !s.absentAt e.1).foldl (fun (c : Caches) (e : Nat × Byte) => c.ueStored e.1) c).trans (retestValues _ _))

theorem l2WriteBack (h : ExceptWaves s u) (cl : Nat) (p : Nat → Bool) : ExceptWaves (s.l2WriteBack cl p) (u.l2WriteBack cl p) := by
  unfold State.l2WriteBack
  dsimp only
  rw [h.caches]
  exact ((ackBytes _ _ _).symm.trans ((h.homeWrite _).trans (ackBytes _ _ _))).modCaches fun c => { c with l2 := cleanL2 cl p c.l2 }

theorem evictL2 (h : ExceptWaves s u) (cl line : Nat) : ExceptWaves (s.evictL2 cl line) (u.evictL2 cl line) :=
  (h.l2WriteBack cl _).modCaches fun c => { c with l2 := c.l2.filter fun e => !(keyUnit e.1 == cl && keyAddr e.1 / 128 == line) }

theorem roomL2 (h : ExceptWaves s u) (cl line : Nat) : ExceptWaves (s.roomL2 cl line) (u.roomL2 cl line) := by
  have victim : victimOf u.tick (u.csctlAt cl).cacheWays line (setLines u.caches.l2 cl 2048 line) =
      victimOf s.tick (s.csctlAt cl).cacheWays line (setLines s.caches.l2 cl 2048 line) := by
    obtain ⟨w, b, rfl⟩ := h
    rfl
  rw [State.roomL2, State.roomL2, victim]
  cases victimOf s.tick (s.csctlAt cl).cacheWays line (setLines s.caches.l2 cl 2048 line) with
  | some v => exact h.evictL2 cl v
  | none => exact h

theorem sliceWrite (h : ExceptWaves s u) (cl : Nat) (l : List (Nat × Byte)) : ExceptWaves (s.sliceWrite cl l) (u.sliceWrite cl l) :=
  (foldl (fun line h => h.roomL2 cl line) _ h).modCaches fun c => c.l2Write cl l

theorem wcbWriteLine (h : ExceptWaves s u) (gc line : Nat) : ExceptWaves (s.wcbWriteLine gc line) (u.wcbWriteLine gc line) := by
  unfold State.wcbWriteLine
  dsimp only
  rw [h.caches]
  exact (ackBytes _ _ _).symm.trans ((((h.setCaches _).sliceWrite _ _).homeWrite _).trans (ackBytes _ _ _))

theorem roomWcb (h : ExceptWaves s u) (gc line : Nat) : ExceptWaves (s.roomWcb gc line) (u.roomWcb gc line) := by
  have victim : victimOf u.tick 16 line (setLines u.caches.wcb gc 1 line) = victimOf s.tick 16 line (setLines s.caches.wcb gc 1 line) := by
    obtain ⟨w, b, rfl⟩ := h
    rfl
  rw [State.roomWcb, State.roomWcb, victim]
  cases victimOf s.tick 16 line (setLines s.caches.wcb gc 1 line) with
  | some v => exact h.wcbWriteLine gc v
  | none => exact h

theorem arriveLocal (h : ExceptWaves s u) (gc : Nat) (nc : Bool) (l : List (Nat × Byte)) :
    ExceptWaves (s.arriveLocal gc nc l) (u.arriveLocal gc nc l) := by
  unfold State.arriveLocal
  refine foldl (fun line h => (h.roomWcb gc line).modCaches fun c => { c with
    wcb := (l.filter fun e => e.1 / 128 == line).foldl (fun m e => m.put (unitKey gc e.1) ⟨e.2, nc⟩) c.wcb }) _ ?_
  exact h.modCaches fun c => { c with
    l1 := l.foldl (fun m e => if (m.find (unitKey gc e.1)).isSome then m.put (unitKey gc e.1) e.2 else m) c.l1 }

end ExceptWaves

/-! ## What a store leaves in memory and the caches -/

theorem sendStore_parts (s : State) (k : Nat) (pages : List VPage) (l : List (Nat × Byte)) :
    (s.sendStore k pages l).mem = s.mem ∧ (s.sendStore k pages l).caches = s.caches ∧ (s.sendStore k pages l).waves = s.waves := by
  unfold State.sendStore State.sendRemote
  split <;> exact ⟨rfl, rfl, rfl⟩

/-- A store leaves the same memory and the same caches whatever waves wait for (R184). -/
theorem performStore_congr {s u : State} (h : ExceptWaves s u) (k gc : Nat) (cs nc : Bool) (l : List (Nat × Byte)) (pages : List VPage) :
    (u.performStore k gc cs nc l pages).mem = (s.performStore k gc cs nc l pages).mem ∧
      (u.performStore k gc cs nc l pages).caches = (s.performStore k gc cs nc l pages).caches := by
  cases cs with
  | true =>
    obtain ⟨w, b, rfl⟩ := h
    exact ⟨rfl, rfl⟩
  | false =>
    have arrived := h.arriveLocal gc nc (l.filter fun e => !isRemote e.1)
    obtain ⟨sm, sc, -⟩ := sendStore_parts (s.arriveLocal gc nc (l.filter fun e => !isRemote e.1)) k pages (l.filter fun e => isRemote e.1)
    obtain ⟨um, uc, -⟩ := sendStore_parts (u.arriveLocal gc nc (l.filter fun e => !isRemote e.1)) k pages (l.filter fun e => isRemote e.1)
    exact ⟨um.trans (arrived.mem.trans sm.symm), uc.trans (arrived.caches.trans sc.symm)⟩

/-- A store leaves every wave, but for waits and acknowledgements. -/
theorem performStore_wave (s : State) (k gc : Nat) (cs nc : Bool) (l : List (Nat × Byte)) (pages : List VPage) (j : Nat) :
    noWait ((s.performStore k gc cs nc l pages).waveAt j) = noWait (s.waveAt j) := by
  cases cs with
  | true => exact (cscrWrite_onlyMemory ..).noWait_waveAt j
  | false =>
    obtain ⟨-, -, waves⟩ := sendStore_parts (s.arriveLocal gc nc (l.filter fun e => !isRemote e.1)) k pages (l.filter fun e => isRemote e.1)
    refine Eq.trans ?_ ((arriveLocal_onlyMemory s gc nc (l.filter fun e => !isRemote e.1)).noWait_waveAt j)
    exact congrArg (fun m => noWait (FMap.get Wave.blank m j)) waves

/-! ## What writes at the home leave of the caches -/

theorem writeBackObj_parts (s : State) (o : CohObj) : (s.writeBackObj o).caches = s.caches ∧ (s.writeBackObj o).waves = s.waves := by
  refine List.foldlRecOn s.harts.lines _ (motive := fun u : State => u.caches = s.caches ∧ u.waves = s.waves) ⟨rfl, rfl⟩ fun u hu e _ => ?_
  split
  · exact hu
  · exact hu

/-- A read at the home leaves the caches and the waves (R198). -/
theorem homeTouch_parts (s : State) (pa : Nat) : (s.homeTouch pa).caches = s.caches ∧ (s.homeTouch pa).waves = s.waves := by
  refine List.foldlRecOn _ _ (motive := fun u : State => u.caches = s.caches ∧ u.waves = s.waves) ⟨rfl, rfl⟩ fun u hu e _ => ?_
  split
  · obtain ⟨c, w⟩ := writeBackObj_parts u e.2
    exact ⟨c.trans hu.1, w.trans hu.2⟩
  · exact hu

theorem homeTouches_caches (s : State) (pas : List Nat) : (s.homeTouches pas).caches = s.caches :=
  List.foldlRecOn pas _ (motive := fun u : State => u.caches = s.caches) rfl fun u hu a _ => (homeTouch_parts u a).1.trans hu

theorem probes_parts (s : State) (l : List (Nat × Byte)) :
    let u := l.foldl (fun s e => (s.heldObjs (e.1 / 64)).foldl (fun s o => s.probeInvalid o.1 o.2) s) s
    u.caches = s.caches ∧ u.waves = s.waves := by
  refine List.foldlRecOn l _ (motive := fun u : State => u.caches = s.caches ∧ u.waves = s.waves) ⟨rfl, rfl⟩ fun u hu e _ => ?_
  refine List.foldlRecOn _ _ (motive := fun u : State => u.caches = s.caches ∧ u.waves = s.waves) hu fun v hv o _ => ?_
  obtain ⟨c, w⟩ := writeBackObj_parts v o.2
  exact ⟨c.trans hv.1, w.trans hv.2⟩

/-- Writes at the home leave the caches, but for the damaged words that become whole (R268). -/
theorem homeWrite_caches (s : State) (l : List (Nat × Byte)) : ∃ ue, (s.homeWrite l).caches = { s.caches with ue := ue } := by
  obtain ⟨ue, hue, -⟩ := ueStored_foldl (l.filter fun e => !s.absentAt e.1) s.caches
  refine ⟨ue, ?_⟩
  simp only [State.homeWrite]
  rw [(ExceptWaves.retestValues _ _).caches]
  dsimp only
  rw [(probes_parts s _).1, hue]

/-- A write-back leaves the slices' bytes, clean where they were sent home (R185). -/
theorem l2WriteBack_caches (s : State) (cl : Nat) (p : Nat → Bool) :
    ∃ ue, (s.l2WriteBack cl p).caches = { s.caches with ue := ue, l2 := cleanL2 cl p s.caches.l2 } := by
  obtain ⟨ue, h⟩ := homeWrite_caches s (dirtyBytes s cl p)
  refine ⟨ue, ?_⟩
  change { (s.homeWrite (dirtyBytes s cl p)).caches with l2 := cleanL2 cl p (s.homeWrite (dirtyBytes s cl p)).caches.l2 } = _
  rw [h]

theorem roomL2_wcb (s : State) (cl line : Nat) : (s.roomL2 cl line).caches.wcb = s.caches.wcb := by
  unfold State.roomL2
  split
  · next v _ =>
    obtain ⟨ue, h⟩ := l2WriteBack_caches s cl fun a => a / 128 == v
    change (s.l2WriteBack cl fun a => a / 128 == v).caches.wcb = _
    rw [h]
  · rfl

/-- A write-combining line leaves its buffer, and no other (R186). -/
theorem wcbWriteLine_wcb (s : State) (gc line : Nat) :
    (s.wcbWriteLine gc line).caches.wcb = s.caches.wcb.filter fun e => !(keyUnit e.1 == gc && keyAddr e.1 / 128 == line) := by
  have slice (u : State) (l : List (Nat × Byte)) : (u.sliceWrite (gc / 4) l).caches.wcb = u.caches.wcb :=
    List.foldlRecOn _ _ (motive := fun v => v.caches.wcb = u.caches.wcb) rfl fun v hv n _ => (roomL2_wcb v _ n).trans hv
  have home (u : State) (l : List (Nat × Byte)) : (u.homeWrite l).caches.wcb = u.caches.wcb := by
    obtain ⟨ue, h⟩ := homeWrite_caches u l
    rw [h]
  unfold State.wcbWriteLine
  dsimp only
  rw [(ExceptWaves.ackBytes _ _ _).caches, home, slice]

/-! ## A line without dirty bytes -/

/-- No byte that a slice holds of a line is dirty. -/
def LineClean (s : State) (cl line : Nat) : Prop :=
  ∀ e ∈ s.caches.l2, keyUnit e.1 = cl → keyAddr e.1 / 128 = line → e.2.dirty = false

/-- A write-back makes its line clean, and no byte dirty (R185). -/
theorem l2WriteBack_clean {s : State} {cl line : Nat} (p : Nat → Bool) (h : LineClean s cl line ∨ ∀ a, a / 128 = line → p a = true) :
    LineClean (s.l2WriteBack cl p) cl line := by
  obtain ⟨ue, hc⟩ := l2WriteBack_caches s cl p
  intro e he hu hl
  rw [hc] at he
  obtain ⟨x, hx, rfl⟩ := List.mem_map.1 he
  split at hu
  · next hp => rw [if_pos hp]
  · next hp =>
    rw [if_neg hp] at hl ⊢
    refine h.elim (fun clean => clean x hx hu hl) fun all => absurd ?_ hp
    simp [hu, all _ hl]

theorem roomL2_clean {s : State} {cl line : Nat} (h : LineClean s cl line) (n : Nat) : LineClean (s.roomL2 cl n) cl line := by
  unfold State.roomL2
  split
  · exact fun e he => l2WriteBack_clean _ (.inl h) e (List.mem_filter.1 he).1
  · exact h

/-- What a slice reads at the home is clean (R178). -/
theorem fillL2_clean {s : State} {cl line : Nat} (h : LineClean s cl line) (n : Nat) : LineClean (s.fillL2 cl n) cl line := by
  unfold State.fillL2
  dsimp only
  split
  · exact h
  · intro e he
    refine List.foldlRecOn _ _ (motive := fun (l2 : FMap L2Byte) => ∀ e ∈ l2, keyUnit e.1 = cl → keyAddr e.1 / 128 = line → e.2.dirty = false)
      ?_ (fun l2 hl a _ e he => ?_) e he
    · rw [homeTouches_caches]
      exact roomL2_clean h n
    · rcases FMap.mem_put l2 _ _ e he with rfl | he
      · exact fun _ _ => rfl
      · exact hl e he

end Sys2Proof.Claims
end

section
/-!
PROOF. The order of a pair's store FIFOs, and stores that drain (R105, R184, R370).
-/

namespace Sys2Proof.Claims

open Sys2Proof.Machine

/-! ## Which entry leaves next -/

/-- The entry that leaves next: the oldest, or the oldest of the other half, of which no older entry writes a byte (R105, log entry 24). -/
theorem leavesNext_cases (tick : Nat) (e : Eff) (t : List Eff) : leavesNext tick (e :: t) = some (e, t) ∨
    ∃ i, ∃ h : i < t.length, leavesNext tick (e :: t) = some (t[i], e :: t.eraseIdx i) ∧
      ∀ y ∈ e :: t.take i, y.upper ≠ t[i].upper ∧ ∀ a ∈ y.cells, a ∉ t[i].cells := by
  cases hi : t.findIdx? fun x => x.upper != e.upper with
  | none => exact .inl (by simp only [leavesNext, hi])
  | some i =>
    obtain ⟨h, other, same⟩ := List.findIdx?_eq_some_iff_getElem.1 hi
    have half (y : Eff) (hy : y ∈ e :: t.take i) : y.upper = e.upper := by
      rcases List.mem_cons.1 hy with rfl | hy
      · rfl
      · obtain ⟨j, hj, rfl⟩ := List.mem_take_iff_getElem.1 hy
        simpa using same j (by omega)
    by_cases free : (Config.otherHalf tick i && !(e :: t.take i).any fun y => y.cells.any t[i].cells.contains) = true
    · have apart : ∀ y ∈ e :: t.take i, ∀ a ∈ y.cells, a ∉ t[i].cells := by simpa using (Bool.and_eq_true_iff.1 free).2
      refine .inr ⟨i, h, by simp only [leavesNext, hi, List.getD_eq_getElem _ _ h, free, if_true], fun y hy => ⟨fun eq => ?_, apart y hy⟩⟩
      simp [← eq, half y hy] at other
    · exact .inl (by simp only [leavesNext, hi, List.getD_eq_getElem _ _ h, free, Bool.false_eq_true, if_false])

theorem leavesNext_order {tick : Nat} {l rest : List Eff} {e : Eff} (h : leavesNext tick l = some (e, rest)) :
    ∃ older newer, l = older ++ e :: newer ∧ rest = older ++ newer ∧ ∀ x ∈ older, x.upper ≠ e.upper ∧ ∀ a ∈ x.cells, a ∉ e.cells := by
  cases l with
  | nil => cases h
  | cons e0 t =>
    obtain oldest | ⟨i, hi, next, apart⟩ := leavesNext_cases tick e0 t
    · cases oldest.symm.trans h
      exact ⟨[], rest, rfl, rfl, nofun⟩
    · cases next.symm.trans h
      refine ⟨e0 :: t.take i, t.drop (i + 1), ?_, by rw [List.eraseIdx_eq_take_drop_succ, List.cons_append], apart⟩
      rw [List.cons_append, List.getElem_cons_drop, List.take_append_drop]

theorem leavesNext_isSome (tick : Nat) {l : List Eff} (h : l ≠ []) : (leavesNext tick l).isSome = true := by
  cases l with
  | nil => exact absurd rfl h
  | cons e t =>
    obtain oldest | ⟨i, hi, next, -⟩ := leavesNext_cases tick e t
    · rw [oldest]
      rfl
    · rw [next]
      rfl

/-! ## A store that drains -/

theorem strays_exceptWaves (s : State) (asid : Nat) (pas : List Nat) : ExceptWaves s (s.strays asid pas) := ⟨_, _, rfl⟩

theorem countLeft_exceptWaves (s : State) (k : Nat) (pas : List Nat) : ExceptWaves s (s.countLeft k pas) := by
  unfold State.countLeft
  split
  · exact .refl s
  · exact ⟨_, _, rfl⟩

/-- What has left a wave is counted last (R370). -/
theorem left_countLeft (s : State) (k : Nat) {pas : List Nat} (h : pas ≠ []) : ((s.countLeft k pas).waveAt k).left.getLast? = some pas := by
  have some : pas.isEmpty = false := List.isEmpty_eq_false_iff.2 h
  simp [State.countLeft, some, State.modWaveAt]

theorem onItsWay_congr {s u : State} (h : u.caches = s.caches) : u.onItsWay = s.onItsWay := by
  unfold State.onItsWay
  rw [h]

/-- A store at the point where it leaves its FIFO (R184, R370). -/
theorem performMem_store (s s0 : State) (k : Nat) (cs nc up : Bool) (l : List (Nat × Byte)) (pages : List VPage) (h : ExceptWaves s0 s) :
    let u := s.performMem k (.store cs nc up l pages)
    (u.waveAt k).fifo = (s.waveAt k).fifo ∧
      (cs = false → (l.map (·.1)).filter (u.onItsWay (s.waveAt k).id.gcore) ≠ [] →
        (u.waveAt k).left.getLast? = some ((l.map (·.1)).filter (u.onItsWay (s.waveAt k).id.gcore))) ∧
      u.mem = (s0.performStore k (s.waveAt k).id.gcore cs nc l pages).mem ∧
      u.caches = (s0.performStore k (s.waveAt k).id.gcore cs nc l pages).caches := by
  let gc := (s.waveAt k).id.gcore
  let e : Eff := .store cs nc up l pages
  let strayed := s.strays (s.waveAt k).id.asid.toNat e.locals
  let done := strayed.performStore k gc cs nc l pages
  obtain ⟨mem, caches⟩ := performStore_congr (h.trans (strays_exceptWaves s (s.waveAt k).id.asid.toNat e.locals)) k gc cs nc l pages
  have counted := countLeft_exceptWaves done k (e.locals.filter (done.onItsWay gc))
  have result : s.performMem k e = done.countLeft k (e.locals.filter (done.onItsWay gc)) := rfl
  dsimp only
  rw [result]
  refine ⟨?_, fun hcs some => ?_, counted.mem.trans mem, counted.caches.trans caches⟩
  · obtain ⟨pcs, hstray⟩ := waveAt_strays s (s.waveAt k).id.asid.toNat e.locals k
    have wave := (waveAt_countLeft done k (e.locals.filter (done.onItsWay gc))).trans (performStore_wave strayed k gc cs nc l pages k)
    refine (congrArg Wave.fifo wave).trans ?_
    change (strayed.waveAt k).fifo = _
    rw [hstray]
  · subst hcs
    rw [onItsWay_congr counted.caches] at some ⊢
    exact left_countLeft done k some

/-- Where the next entry is a store, a drain performs it (R184). -/
theorem drain_store {k : Nat} {s : State} {cs nc up : Bool} {l : List (Nat × Byte)} {pages : List VPage} {rest : List Eff}
    (hn : leavesNext s.tick (s.waveAt k).fifo = some (.store cs nc up l pages, rest)) (hr : (s.waveAt k).repro = false) :
    Goes (.storeFifoDrain k) s fun t => ∃ u : State, t = u.reap (s.waveAt k).id.wgKey ∧ (u.waveAt k).fifo = rest ∧
      (cs = false → (l.map (·.1)).filter (u.onItsWay (s.waveAt k).id.gcore) ≠ [] →
        (u.waveAt k).left.getLast? = some ((l.map (·.1)).filter (u.onItsWay (s.waveAt k).id.gcore))) ∧
      u.mem = (s.performStore k (s.waveAt k).id.gcore cs nc l pages).mem ∧
      u.caches = (s.performStore k (s.waveAt k).id.gcore cs nc l pages).caches := by
  let popped := s.modWaveAt k fun w => { w with fifo := rest }
  have wave : popped.waveAt k = { s.waveAt k with fifo := rest } := State.waveAt_setWaveAt ..
  have performed := performMem_store popped s k cs nc up l pages ⟨_, _, rfl⟩
  rw [wave] at performed
  refine ⟨_, ?_, popped.performMem k (.store cs nc up l pages), rfl, performed⟩
  simp [exec, execStoreFifoDrain, hn, hr, popped]

end Sys2Proof.Claims
end

section
/-!
PROOF. Waves that go on: results written back, waits that end, timed waits, the start (R114, R141, R164, R222, R448).
-/

namespace Sys2Proof.Claims

open Sys2Proof.Machine

/-! ## A wave whose state moves -/

/-- `t` is `s` but for the state of wave `k` and that of its workgroup, as far as memory, the caches, the belay table and `k` go. -/
structure Reclassed (k : Nat) (s t : State) : Prop where
  wave : ∃ st held, t.waveAt k = { s.waveAt k with st := st, held := held }
  mem : t.mem = s.mem
  caches : t.caches = s.caches
  belay : t.belay = s.belay

namespace Reclassed

variable {k : Nat} {s t u : State}

theorem refl (s : State) : Reclassed k s s := ⟨⟨_, _, rfl⟩, rfl, rfl, rfl⟩

theorem trans (h : Reclassed k s t) (h' : Reclassed k t u) : Reclassed k s u := by
  obtain ⟨⟨st, held, e⟩, m, c, b⟩ := h
  obtain ⟨⟨st', held', e'⟩, m', c', b'⟩ := h'
  exact ⟨⟨st', held', by rw [e', e]⟩, m'.trans m, c'.trans c, b'.trans b⟩

theorem modWaveAt (s : State) {f : Wave → Wave} {st held : WaveSt} (hf : f (s.waveAt k) = { s.waveAt k with st := st, held := held }) :
    Reclassed k s (s.modWaveAt k f) := ⟨⟨st, held, by rw [State.modWaveAt, State.waveAt_setWaveAt, hf]⟩, rfl, rfl, rfl⟩

theorem regs (h : Reclassed k s t) : (t.waveAt k).regs = (s.waveAt k).regs := by
  obtain ⟨st, held, e⟩ := h.wave
  rw [e]

end Reclassed

section
variable (s : State) (k : Nat)

theorem markWg_eq (wg : Nat) : ∃ wgs, s.markWg wg = { s with wgs := wgs } := by
  unfold State.markWg
  dsimp only
  split
  · exact ⟨_, rfl⟩
  · split
    · exact ⟨_, rfl⟩
    · exact ⟨_, rfl⟩

theorem markWg_reclassed (wg : Nat) : Reclassed k s (s.markWg wg) := by
  obtain ⟨wgs, e⟩ := markWg_eq s wg
  rw [e]
  exact ⟨⟨_, _, rfl⟩, rfl, rfl, rfl⟩

/-- A wave whose class is cut is shed, any other stays (R301). -/
theorem shedIfCut_reclassed : Reclassed k s (s.shedIfCut k) ∧
    (((s.shedIfCut k).waveAt k).st = (s.waveAt k).st ∨ ((s.shedIfCut k).waveAt k).st = .shed) := by
  unfold State.shedIfCut
  dsimp only
  split
  · unfold State.shedWave
    obtain ⟨wgs, e⟩ := markWg_eq (s.modWaveAt k fun w => { w with st := .shed, held := w.st }) (s.waveAt k).id.wgKey
    refine ⟨(Reclassed.modWaveAt s rfl).trans (markWg_reclassed _ k _), .inr ?_⟩
    rw [e]
    exact congrArg Wave.st (State.waveAt_setWaveAt s k _)
  · exact ⟨.refl s, .inl rfl⟩

/-- A wave that returns to Ready is Ready, or Shed where its class is cut (R114, R301). -/
theorem toReady_reclassed : Reclassed k s (s.toReady k) ∧
    ((s.waveAt k).st ≠ .preempting → ((s.toReady k).waveAt k).st = .ready ∨ ((s.toReady k).waveAt k).st = .shed) := by
  obtain ⟨shed, st⟩ := shedIfCut_reclassed (s.modWaveAt k fun w => w.become .ready) k
  have wave : (s.modWaveAt k fun w => w.become .ready).waveAt k = (s.waveAt k).become .ready := State.waveAt_setWaveAt ..
  have ready : Reclassed k s (s.modWaveAt k fun w => w.become .ready) := by
    by_cases pre : (s.waveAt k).st = .preempting
    · exact .modWaveAt s (st := (s.waveAt k).st) (held := .ready) (by simp [Wave.become, pre])
    · exact .modWaveAt s (st := .ready) (held := (s.waveAt k).held) (by simp [Wave.become, pre])
  refine ⟨ready.trans shed, fun pre => ?_⟩
  have became : ((s.waveAt k).become .ready).st = .ready := by simp [Wave.become, pre]
  rw [wave, became] at st
  exact st

theorem unpark_reclassed : Reclassed k s (s.unpark k) := by
  unfold State.unpark
  dsimp only
  split
  · exact .refl s
  · split
    · exact (toReady_reclassed s k).1
    · split
      · exact .modWaveAt s rfl
      · exact .refl s

end

/-! ## Results -/

/-- Delivering values changes a wave's registers, and neither memory nor the caches (R164). -/
theorem deliverAll_parts (s : State) (k : Nat) (m : Lanes) (vs : List RegVal) :
    (∃ regs, (s.deliverAll k m vs).waveAt k = { s.waveAt k with regs := regs }) ∧ (s.deliverAll k m vs).mem = s.mem ∧
      (s.deliverAll k m vs).caches = s.caches := by
  refine List.foldlRecOn vs _ (motive := fun u : State => (∃ regs, u.waveAt k = { s.waveAt k with regs := regs }) ∧ u.mem = s.mem ∧
    u.caches = s.caches) ⟨⟨_, rfl⟩, rfl, rfl⟩ fun u hu v _ => ?_
  obtain ⟨⟨regs, wave⟩, mem, caches⟩ := hu
  have written (f : Regs → Regs) : ∃ r, (u.modWaveAt k fun w => { w with regs := f w.regs }).waveAt k = { s.waveAt k with regs := r } :=
    ⟨f regs, by rw [State.modWaveAt, State.waveAt_setWaveAt, wave]⟩
  cases v with
  | vec r vals => exact ⟨written fun x => x.writeVec r vals m, mem, caches⟩
  | scal i x => exact ⟨written fun r => r.writeScal i x, mem, caches⟩
  | scalHi i x => exact ⟨written fun r => r.writeScalHi i x, mem, caches⟩
  | wgreg i x => exact ⟨⟨regs, wave⟩, mem, caches⟩
  | heldG i x => exact ⟨⟨regs, wave⟩, mem, caches⟩
  | pred i x => exact ⟨written fun r => r.writePred i x m, mem, caches⟩
  | brec i x => exact ⟨written fun r => { r with b := r.b.set! i x }, mem, caches⟩

/-- What stays outstanding of a list of results when some lanes of one are written (R164). -/
def pendAfter (l : List Pend) (n : Nat) (p : Pend) (left : Lanes) : List Pend :=
  if left = 0#64 then l.eraseIdx n else l.set n { p with remaining := left }

/-- Some lanes of an outstanding result are written, the others stay outstanding (R164). -/
theorem writeback_goes {k n : Nat} {lanes : Lanes} {s : State} {p : Pend} (hp : (s.waveAt k).pend[n]? = some p)
    (hm : lanes &&& p.remaining ≠ 0#64) : Goes (.waveResultWriteback k n lanes) s fun t =>
      (t.waveAt k).pend = pendAfter (s.waveAt k).pend n p (p.remaining &&& ~~~(lanes &&& p.remaining)) ∧
      (t.waveAt k).regs = ((s.deliverAll k (lanes &&& p.remaining) p.writes).waveAt k).regs ∧ t.mem = s.mem ∧ t.caches = s.caches := by
  let delivered := s.deliverAll k (lanes &&& p.remaining) p.writes
  let kept := delivered.modWaveAt k fun w => { w with pend := pendAfter w.pend n p (p.remaining &&& ~~~(lanes &&& p.remaining)) }
  obtain ⟨⟨regs, wave⟩, mem, caches⟩ : (∃ regs, delivered.waveAt k = { s.waveAt k with regs := regs }) ∧ delivered.mem = s.mem ∧
    delivered.caches = s.caches := deliverAll_parts ..
  have keptWave : kept.waveAt k = { delivered.waveAt k with
      pend := pendAfter (delivered.waveAt k).pend n p (p.remaining &&& ~~~(lanes &&& p.remaining)) } := State.waveAt_setWaveAt ..
  obtain ⟨⟨st, held, unparked⟩, umem, ucaches, -⟩ := unpark_reclassed kept k
  refine ⟨kept.unpark k, ?_, ?_, ?_, umem.trans mem, ucaches.trans caches⟩
  · simp only [exec, execWaveResultWriteback, hp, hm, if_false]
    rfl
  · rw [unparked, keptWave, wave]
  · rw [unparked, keptWave]

theorem deliverAll_vec (s : State) (k : Nat) (m : Lanes) (r : Nat) (vals : List LaneVal) {l : Nat} (hl : l < 64) :
    laneAt ((s.deliverAll k m [.vec r vals]).waveAt k) r l = if m.getLsbD l then vals.getD l LaneVal.zero else laneAt (s.waveAt k) r l := by
  rw [laneAt, State.deliverAll, List.foldl_cons, List.foldl_nil, State.deliver, State.modWaveAt, State.waveAt_setWaveAt]
  simpa only [true_and, laneAt] using Regs.writeVec_v (s.waveAt k).regs r vals m r l hl

theorem deliverAll_scal (s : State) (k : Nat) (m : Lanes) {i : Nat} (v : ScalVal) (hi : i < 48) :
    ((s.deliverAll k m [.scal i v]).waveAt k).regs.s[i]? = some v := by
  rw [State.deliverAll, List.foldl_cons, List.foldl_nil, State.deliver, State.modWaveAt, State.waveAt_setWaveAt]
  simp [Regs.writeScal, hi]

/-! ## Plain scalar results outside reproducible mode -/

/-- A plain scalar result changes its wave's registers and its idempotent right, and what stands at the end of the cycle (R112, R266). -/
theorem writeScal_parts {s : State} {k : Nat} (d : Dest) (x : Word64) (hr : (s.waveAt k).repro = false) :
    (∃ regs idem, (s.writeScal k d x).waveAt k = { s.waveAt k with regs := regs, idem := idem }) ∧
      gives ((s.writeScal k d x).waveAt k) d x ∧ (s.writeScal k d x).belay = s.belay := by
  unfold State.writeScal
  cases d with
  | none => exact ⟨⟨_, _, rfl⟩, nofun, rfl⟩
  | vec r => exact ⟨⟨_, _, rfl⟩, nofun, rfl⟩
  | scal i =>
    have wave : (s.deliver k 1#64 (.scal i ⟨x, false⟩)).waveAt k = { s.waveAt k with regs := (s.waveAt k).regs.writeScal i ⟨x, false⟩ } :=
      State.waveAt_setWaveAt ..
    refine ⟨⟨_, _, wave⟩, fun r hd hr48 => ?_, rfl⟩
    obtain rfl := Dest.scal.inj hd
    change (((s.deliver k 1#64 (.scal i ⟨x, false⟩)).waveAt k).regs.s[i]?) = _
    rw [wave]
    simp [Regs.writeScal, hr48]
  | wgreg i =>
    refine ⟨?_, nofun, ?_⟩
    · simp only [Dest.scalVal, State.writeRegs, List.foldl_cons, List.foldl_nil, State.writeReg, hr, Bool.false_eq_true, if_false, State.deliver,
        State.noteG, List.any_cons, RegVal.isG, Bool.true_or, if_true, State.modWaveAt, State.waveAt_setWaveAt]
      exact ⟨_, _, rfl⟩
    · simp only [Dest.scalVal, State.writeRegs, List.foldl_cons, List.foldl_nil, State.writeReg, hr, Bool.false_eq_true, if_false, State.deliver,
        State.noteG, List.any_cons, RegVal.isG, Bool.true_or, if_true, State.modWaveAt_belay]

/-- The counts of a retirement, of a wave that need not be the issuing one (R121, R147). -/
theorem tally_eq_retired (s : State) (k : Nat) (v : Wave) (sw : Bool) {i : WaveId} (hi : i = (s.waveAt k).id) :
    v.tally sw (s.ctxAt i.asid.toNat).qlog s.dueClasses = retired { s with iss := { s.iss with cur := k } } v sw := by
  rw [hi]
  exact tally_eq { s with iss := { s.iss with cur := k } } v sw

/-! ## Timed waits -/

/-- A wave's program counters, in one slot one word further on. -/
def advanced (p : Pcs) (second : Bool) : Pcs :=
  match p.slot second with
  | some x => p.setSlot second (some { x with pc := x.pc + 4#64 })
  | none => p

theorem slot_advanced {p : Pcs} {second : Bool} {x : PcSlot} (h : p.slot second = some x) :
    (advanced p second).slot second = some { x with pc := x.pc + 4#64 } := by
  rw [advanced, h]
  cases second <;> rfl

/-- A TIMEW whose time has come goes on with the time at which it does (R448). -/
theorem timew_goes {k : Nat} {s : State} {x : Word64} {d : Dest} {sw : Bool} {p : PcSlot} (hw : (s.waveAt k).timew = some (x, d, sw))
    (running : (s.waveAt k).ended = false) (ready : (s.waveAt k).st = .ready) (due : x.toNat ≤ s.time) (hr : (s.waveAt k).repro = false)
    (hp : (s.waveAt k).pcs.slot (s.waveAt k).pcs.lastIssued = some p) :
    Goes (.timewExpire k) s fun t => (t.waveAt k).timew = none ∧ gives (t.waveAt k) d (BitVec.ofNat 64 s.time) ∧
      (t.waveAt k).pcs.slot (s.waveAt k).pcs.lastIssued = some { p with pc := p.pc + 4#64 } ∧ (t.waveAt k).qclk = nextQclk (s.waveAt k) := by
  let wrote := s.writeScal k d (BitVec.ofNat 64 s.time)
  obtain ⟨⟨regs, idem, wave⟩, value, -⟩ : (∃ regs idem, wrote.waveAt k = { s.waveAt k with regs := regs, idem := idem }) ∧
    gives (wrote.waveAt k) d (BitVec.ofNat 64 s.time) ∧ wrote.belay = s.belay := writeScal_parts d _ hr
  let ended : Wave := { wrote.waveAt k with timew := none, pcs := advanced (wrote.waveAt k).pcs (wrote.waveAt k).pcs.lastIssued }
  have repro : ¬ ended.repro = true := by
    change ¬ (wrote.waveAt k).repro = true
    rw [wave, Bool.not_eq_true]
    exact hr
  have result : exec (.timewExpire k) s = .next (wrote.setWaveAt k
      (if ended.repro then (if sw && ended.outstanding then ended.become .parkedS else ended)
      else ended.tally sw (wrote.ctxAt ended.id.asid.toNat).qlog wrote.dueClasses)) := by
    simp only [exec, execTimewExpire, hw, running, ready, Nat.not_lt.2 due, bne_self_eq_false, decide_false, Bool.or_self, Bool.false_eq_true,
      if_false]
    rfl
  rw [if_neg repro, tally_eq_retired wrote k ended sw rfl] at result
  refine ⟨_, result, ?_⟩
  beta_reduce
  rw [State.waveAt_setWaveAt]
  refine ⟨rfl, value, ?_, ?_⟩
  · change (advanced (wrote.waveAt k).pcs (wrote.waveAt k).pcs.lastIssued).slot _ = _
    rw [wave]
    exact slot_advanced hp
  · change nextQclk (wrote.waveAt k) = _
    rw [wave]
    rfl

/-! ## Waits that end -/

/-- An acquire concerns the caches alone (R185). -/
theorem acquire_parts (s : State) (k scope : Nat) : (s.acquire k scope).waves = s.waves ∧ (s.acquire k scope).belay = s.belay := by
  unfold State.acquire State.acquireCaches
  dsimp only
  split
  · exact ⟨rfl, rfl⟩
  · split <;> exact ⟨rfl, rfl⟩

theorem dropEntry_waits (s : State) (k : Nat) : ∀ e ∈ (s.dropEntry k).belay.waits, e.2.waiter ≠ k := fun e he => by
  simpa using (List.mem_filter.1 he).2

/-- A wave that waits no longer, after the instruction in the slot that last issued (R222, R266). -/
def waitOver (w : Wave) (second : Bool) (x : Wait) : Wave :=
  { (if x.kind = .lock then w.clearIdem else w) with wait := none, pcs := advanced w.pcs second }

theorem waitOver_parts (w : Wave) (second : Bool) (x : Wait) :
    (waitOver w second x).id = w.id ∧ (waitOver w second x).st = w.st ∧ (waitOver w second x).regs = w.regs := by
  unfold waitOver
  split <;> exact ⟨rfl, rfl, rfl⟩

/-- A wave whose wait is over parks where its instruction has SW and results are outstanding (R147). -/
def parksAfter (x : Wait) (w : Wave) : Wave := if x.sw && w.outstanding && w.st == .ready then { w with st := .parkedS } else w

/-- A wait outside reproducible mode ends: its entry goes, its status is written, and the wave waits no longer (R114, R222). -/
theorem endWait_parts {s : State} {k : Nat} {x : Wait} (res : Nat) (hw : (s.waveAt k).wait = some x) (hr : (s.waveAt k).repro = false)
    (hst : (s.waveAt k).st ≠ .preempting) :
    let t := s.endWait k res true
    (t.waveAt k).wait = none ∧ gives (t.waveAt k) x.dst (BitVec.ofNat 64 res) ∧
      ((t.waveAt k).st = .ready ∨ (t.waveAt k).st = .shed ∨ (t.waveAt k).st = .parkedS) ∧ ∀ e ∈ t.belay.waits, e.2.waiter ≠ k := by
  let acquired := (s.dropEntry k).acquire k x.kind.scope
  let wrote := acquired.writeScal k x.dst (BitVec.ofNat 64 res)
  obtain ⟨waves, belay⟩ := acquire_parts (s.dropEntry k) k x.kind.scope
  have acquiredWave : acquired.waveAt k = s.waveAt k := congrArg (fun m => FMap.get Wave.blank m k) waves
  obtain ⟨⟨regs, idem, wave⟩, value, wroteBelay⟩ : (∃ regs idem, wrote.waveAt k = { acquired.waveAt k with regs := regs, idem := idem }) ∧
    gives (wrote.waveAt k) x.dst (BitVec.ofNat 64 res) ∧ wrote.belay = acquired.belay := writeScal_parts _ _ (by rw [acquiredWave]; exact hr)
  let ended := waitOver (wrote.waveAt k) (s.waveAt k).pcs.lastIssued x
  obtain ⟨endedId, endedSt, endedRegs⟩ :
      ended.id = (wrote.waveAt k).id ∧ ended.st = (wrote.waveAt k).st ∧ ended.regs = (wrote.waveAt k).regs :=
    waitOver_parts ..
  let counted := ended.tally false (wrote.ctxAt ended.id.asid.toNat).qlog wrote.dueClasses
  have countedEq : counted = retired { wrote with iss := { wrote.iss with cur := k } } ended false := tally_eq_retired wrote k ended false endedId
  have countedSt : counted.st = (s.waveAt k).st := by
    rw [countedEq]
    change ended.st = _
    rw [endedSt, wave, acquiredWave]
  let resumed := (wrote.setWaveAt k counted).toReady k
  have result : s.endWait k res true = resumed.setWaveAt k (parksAfter x (resumed.waveAt k)) := by
    simp only [State.endWait, hw]
    rfl
  obtain ⟨⟨⟨st, held, resumedWave⟩, -, -, resumedBelay⟩, ready⟩ := toReady_reclassed (wrote.setWaveAt k counted) k
  rw [State.waveAt_setWaveAt] at resumedWave ready
  have ready : (resumed.waveAt k).st = .ready ∨ (resumed.waveAt k).st = .shed := ready (by rw [countedSt]; exact hst)
  have parks (w : Wave) : (parksAfter x w).wait = w.wait ∧ (parksAfter x w).regs = w.regs ∧
      ((parksAfter x w).st = w.st ∨ (parksAfter x w).st = .parkedS) := by
    unfold parksAfter
    split
    · exact ⟨rfl, rfl, .inr rfl⟩
    · exact ⟨rfl, rfl, .inl rfl⟩
  obtain ⟨lastWait, lastRegs, lastSt⟩ := parks (resumed.waveAt k)
  dsimp only
  rw [result, State.waveAt_setWaveAt]
  refine ⟨?_, fun r hd hr48 => ?_, ?_, ?_⟩
  · rw [lastWait, resumedWave, countedEq]
    rfl
  · rw [lastRegs, resumedWave, countedEq]
    change ended.regs.s[r]? = _
    rw [endedRegs]
    exact value r hd hr48
  · obtain same | parked := lastSt
    · rw [same]
      tauto
    · exact .inr (.inr parked)
  · change ∀ e ∈ resumed.belay.waits, _
    rw [resumedBelay]
    change ∀ e ∈ wrote.belay.waits, _
    rw [wroteBelay]
    change ∀ e ∈ ((s.dropEntry k).acquire k x.kind.scope).belay.waits, _
    rw [belay]
    exact dropEntry_waits s k

/-- A wait whose condition has held ends, with status 1 or 2 (R114, R222). -/
theorem waitMet_goes {k : Nat} {s : State} {x : Wait} (hw : (s.waveAt k).wait = some x) (met : x.met = true) (hr : (s.waveAt k).repro = false)
    (hst : (s.waveAt k).st = .waitReg ∨ (s.waveAt k).st = .waitUnreg) :
    Goes (.waitConditionMet k) s fun t => (t.waveAt k).wait = none ∧ gives (t.waveAt k) x.dst (if x.registered then 1#64 else 2#64) ∧
      (t.waveAt k).st ≠ .waitReg ∧ (t.waveAt k).st ≠ .waitUnreg ∧ ∀ e ∈ t.belay.waits, e.2.waiter ≠ k := by
  obtain ⟨wait, value, st, waits⟩ := endWait_parts (if x.registered then 1 else 2) hw hr (by rcases hst with h | h <;> simp [h])
  refine ⟨_, ?_, wait, ?_, ?_, ?_, waits⟩
  · have open_ : (x.met && !(s.waveAt k).repro && ((s.waveAt k).st == .waitReg || (s.waveAt k).st == .waitUnreg)) = true := by
      simpa [met, hr] using hst
    simp only [exec, execWaitConditionMet, hw, open_, if_true]
  · have status : BitVec.ofNat 64 (if x.registered = true then 1 else 2) = if x.registered then 1#64 else 2#64 := by split <;> rfl
    rwa [← status]
  · rcases st with h | h | h <;> simp [h]
  · rcases st with h | h | h <;> simp [h]

/-! ## The start of a wave -/

/-- A resident wave starts with its packet's values and an empty L1 (R114, R141). -/
theorem waveStart_goes {k : Nat} {s : State} {w : Wave} (hw : s.waves.find k = some w) (hst : w.st = .resident) :
    Goes (.waveStart k) s fun t => ((t.waveAt k).st = .ready ∨ (t.waveAt k).st = .shed) ∧
      (t.waveAt k).regs = startRegs (s.launchAt w.id.launchKey).packet ∧ ∀ e ∈ t.caches.l1, keyUnit e.1 ≠ w.id.gcore := by
  let loaded : Wave := { w with regs := startRegs (s.launchAt w.id.launchKey).packet }
  let fresh := (s.setWaveAt k loaded).acquireCaches w.id 4
  have wave : fresh.waveAt k = loaded := State.waveAt_setWaveAt ..
  obtain ⟨started, st⟩ := toReady_reclassed fresh k
  rw [wave] at st
  refine ⟨fresh.toReady k, ?_, st (by simp [loaded, hst]), ?_, ?_⟩
  · have here : (w.st != .resident) = false := by rw [hst]; rfl
    simp only [exec, execWaveStart, hw, here, Bool.false_eq_true, if_false]
    rfl
  · rw [started.regs, wave]
  · intro e he
    rw [started.caches] at he
    simpa using (List.mem_filter.1 he).2

/-- The registers that a wave starts with (R141). -/
theorem startRegs_s (b : List Byte) {i : Nat} (hi : i < 48) : (startRegs b).s[i]? = some
    (if i = 0 then ⟨BitVec.ofNat 64 (pktArgs b), false⟩ else if i = 1 then ⟨BitVec.ofNat 64 (pktNwg b), false⟩
     else if i = 2 then ⟨BitVec.ofNat 64 (pktKidx b), false⟩ else ScalVal.zero) := by
  match i, hi with
  | 0, _ => simp [startRegs]
  | 1, _ => simp [startRegs]
  | 2, _ => simp [startRegs]
  | i + 3, hi => simp [startRegs, Regs.start, hi]

end Sys2Proof.Claims
end

section
/-!
PROOF. The steps of the caches, the matrix unit, the codebooks, the refresh and the waits on words (R72, R74, R93, R97, R186, R198, R228,
R229); O43.
-/

namespace Sys2Proof.Claims

open Sys2Proof.Machine

/-! ## The caches -/

/-- A write-combining line leaves its buffer (R186). -/
theorem wcbLineWrite_goes (core line : Nat) (s : State) : Goes (.wcbLineWrite core line) s fun t => OnlyMemory s t ∧
    ∀ e, e ∈ t.caches.wcb ↔ e ∈ s.caches.wcb ∧ ¬ (keyUnit e.1 = core ∧ keyAddr e.1 / 128 = line) := by
  refine ⟨_, rfl, wcbWriteLine_onlyMemory s core line, fun e => ?_⟩
  rw [wcbWriteLine_wcb, List.mem_filter]
  simp [imp_iff_not_or]

/-- A line that reaches its home is not dirty in its slice (R198). -/
theorem homeAccess_goes (cluster line : Nat) (s : State) :
    Goes (.homeAccess cluster line) s fun t => OnlyMemory s t ∧ LineClean t cluster line := by
  cases dirty : s.caches.l2.any fun e => keyUnit e.1 == cluster && keyAddr e.1 / 128 == line && e.2.dirty with
  | true =>
    refine ⟨s.l2WriteBack cluster fun a => a / 128 == line, ?_, l2WriteBack_onlyMemory s _ _, l2WriteBack_clean _ (.inr fun a ha => by simp [ha])⟩
    simp only [exec, execHomeAccess, dirty, if_true]
  | false =>
    have clean : LineClean s cluster line := fun e he hu hl => by simpa [hu, hl] using List.any_eq_false.1 dirty e he
    refine ⟨s.fillL2 cluster line, ?_, fillL2_onlyMemory s _ _, fillL2_clean clean _⟩
    simp only [exec, execHomeAccess, dirty, Bool.false_eq_true, if_false]

/-! ## Matrix commands -/

/-- A matrix command starts (R72). -/
theorem mmaStart_goes {wg : Nat} {cid : BitVec 6} {s : State} {c : MmaCmd} (hc : (s.wgAt wg).mma.find? (fun c => c.cid == cid) = some c)
    (ready : s.mmaReady wg c = true) :
    Goes (.mmaCommandStart wg cid) s fun t => ∃ g, t = s.setWgAt wg g ∧ g = { s.wgAt wg with mma := g.mma } ∧
      g.mma = (s.wgAt wg).mma.map fun d => if d.cid = cid then { d with started := true } else d := by
  refine ⟨_, ?_, { s.wgAt wg with mma := (s.wgAt wg).mma.map fun d => if d.cid = cid then { d with started := true } else d }, rfl, rfl, rfl⟩
  simp only [exec, execMmaCommandStart, hc, ready, if_true]
  rfl

/-- A command reads each scratchpad word as it was at the issue or as it is now (R74; log entry 34). -/
theorem mmaView_get (s : State) (wg : Nat) (c : MmaCmd) (i : Nat) :
    (s.mmaView wg c).get LaneVal.zero i = c.seen.get LaneVal.zero i ∨
      (s.mmaView wg c).get LaneVal.zero i = (s.spmViewOf wg c.wave).get LaneVal.zero i := by
  unfold State.mmaView
  dsimp only
  split
  · exact .inr rfl
  · refine List.foldlRecOn _ _ (motive := fun m : FMap LaneVal => m.get LaneVal.zero i = c.seen.get LaneVal.zero i ∨
      m.get LaneVal.zero i = (s.spmViewOf wg c.wave).get LaneVal.zero i) (.inr rfl) fun m hm k _ => ?_
    split
    · rw [FMap.get_set]
      split
      · next h => exact .inl (by rw [h])
      · exact hm
    · exact hm

/-- The workgroup of a command that retires: its tile has the result, its successors wait for it no longer (R70, R72). -/
theorem mmaRetire_wg (s : State) (wg : Nat) (c : MmaCmd) : (s.mmaRetire wg c).wgAt wg = { s.wgAt wg with
    tiles := (s.wgAt wg).tiles.set Tile.start c.tile (s.mmaResult wg c ((s.wgAt wg).tile c.tile)).1,
    mma := ((s.wgAt wg).mma.filter fun d => d.cid != c.cid).map fun d => { d with preds := d.preds.filter fun p => p != c.cid } } := by
  unfold State.mmaRetire
  dsimp only
  split
  · exact State.wgAt_setWgAt_same ..
  · exact State.wgAt_setWgAt_same ..

theorem mmaResult_of_contract {s : State} {wg : Nat} {con : Contract} (hcon : Contract.ofCode (s.wgAt wg).kern.con.toNat = some con)
    (c : MmaCmd) (t : Tile) : s.mmaResult wg c t =
      mmaTile con c.z c.na ((List.range 32).map (mmaRow (s.mmaView wg c) c.mapA con.rowA con.rowScale))
        ((List.range 32).map (mmaRow (s.mmaView wg c) c.mapB con.rowB con.rowScale)) t := by
  unfold State.mmaResult
  rw [hcon]

/-- A started matrix command retires (R72). -/
theorem mmaRetire_goes {wg : Nat} {cid : BitVec 6} {s : State} {c : MmaCmd} (hc : (s.wgAt wg).mma.find? (fun c => c.cid == cid) = some c)
    (ready : s.mmaReady wg c = true) (started : c.started = true) :
    Goes (.mmaCommandRetire wg cid) s (· = (s.mmaRetire wg c).reap wg) := by
  refine ⟨_, ?_, rfl⟩
  simp only [exec, execMmaCommandRetire, hc, started, ready, Bool.and_self, if_true]

/-! ## Codebooks and the refresh -/

/-- A codebook slot becomes ready (R97). -/
theorem codebookReady_goes {k : Nat} {slot : BitVec 2} {s : State} {w : Wave} (hw : s.waves.find k = some w)
    (valid : (w.cb[slot.toNat]?.getD Codebook.empty).valid = true) (unready : (w.cb[slot.toNat]?.getD Codebook.empty).ready = false) :
    Goes (.codebookSlotReady k slot) s fun t => ∃ b, t = s.setWaveAt k { w with cb := w.cb.set! slot.toNat b } ∧
      b = { w.cb[slot.toNat]?.getD Codebook.empty with ready := true, remote := [], pages := [] } := by
  have wave : s.waveAt k = w := by rw [State.waveAt, FMap.get, hw, Option.getD_some]
  obtain ⟨b, hb⟩ : ∃ b, w.cb[slot.toNat]? = some b := ⟨_, Vector.getElem?_eq_getElem slot.isLt⟩
  rw [hb, Option.getD_some] at valid unready
  refine ⟨_, ?_, _, rfl, rfl⟩
  simp only [exec, execCodebookSlotReady, hw, Option.bind_some, hb, valid, unready, Bool.not_false, Bool.and_self, if_true, State.modWaveAt, wave,
    Wave.setCb, Option.getD_some]

/-- A bank's refresh is noted for the frame, in its window alone (R93). -/
theorem refresh_goes {die bank : Nat} (s : State) (hd : die < 16) (hb : bank < 16) : Goes (.weightStoreRefresh die bank) s fun t =>
    (∃ r, t = { s with eng := { s.eng with refresh := r } }) ∧
    let cyc := s.dieCyc die
    (512 * bank ≤ cyc % 8192 ∧ cyc % 8192 < 512 * bank + 96 → t.eng.refresh.find (16 * die + bank) = some (cyc / 8192 + 1)) ∧
    (¬ (512 * bank ≤ cyc % 8192 ∧ cyc % 8192 < 512 * bank + 96) → t = s) ∧
    ∀ j, j ≠ 16 * die + bank → t.eng.refresh.find j = s.eng.refresh.find j := by
  have inRange : ¬ (16 ≤ die ∨ 16 ≤ bank) := by omega
  by_cases window : 512 * bank ≤ s.dieCyc die % 8192 ∧ s.dieCyc die % 8192 < 512 * bank + 96
  · refine ⟨_, ?_, ⟨_, rfl⟩, fun _ => FMap.find_put_same _ _ _, fun h => absurd window h, fun j hj => FMap.find_put_other _ _ hj⟩
    simp only [exec, execWeightStoreRefresh, inRange, inRefresh, window, and_self, decide_true, if_false, if_true]
  · refine ⟨s, ?_, ⟨_, rfl⟩, fun h => absurd h window, fun _ => rfl, fun _ _ => rfl⟩
    simp only [exec, execWeightStoreRefresh, inRange, inRefresh, window, decide_false, Bool.false_eq_true, if_false]

/-! ## Waits on words -/

/-- A wait whose condition has held. -/
def Wait.held (x : Wait) : Wait := { x with met := true }

section
variable (s : State) (k : Nat)

theorem setMet_wait : ((s.setMet k).waveAt k).wait = (s.waveAt k).wait.map Wait.held := by
  change (((s.modWaveAt k fun v => { v with wait := v.wait.map fun w => { w with met := true } }).waveAt k).wait) = _
  rw [State.modWaveAt, State.waveAt_setWaveAt]
  rfl

/-- Meeting any wave's wait changes a wait in that it is met, at most. -/
theorem setMet_wait_held (j : Nat) : ((s.setMet j).waveAt k).wait.map Wait.held = (s.waveAt k).wait.map Wait.held := by
  by_cases h : k = j
  · subst h
    rw [setMet_wait, Option.map_map]
    rfl
  · exact congrArg (fun w => w.wait.map Wait.held) (State.waveAt_setWaveAt_other s _ h)

/-- Testing the value waits again changes a wait in that it is met, at most (R229). -/
theorem retestValues_wait_held (l : List (Nat × Byte)) :
    ((s.retestValues l).waveAt k).wait.map Wait.held = (s.waveAt k).wait.map Wait.held := by
  refine List.foldlRecOn s.waves _ (motive := fun u : State => (u.waveAt k).wait.map Wait.held = (s.waveAt k).wait.map Wait.held) rfl
    fun u hu e _ => ?_
  split
  · exact hu
  · split
    · exact (setMet_wait_held u k e.1).trans hu
    · exact hu

theorem homeWrite_wait_held (l : List (Nat × Byte)) : ((s.homeWrite l).waveAt k).wait.map Wait.held = (s.waveAt k).wait.map Wait.held := by
  simp only [State.homeWrite]
  rw [retestValues_wait_held]
  exact congrArg (fun m => (FMap.get Wave.blank m k).wait.map Wait.held) (probes_parts s (l.filter fun e => !s.absentAt e.1)).2

/-- The wave whose wait acts elsewhere from now on, once its word has been read at the home (R198, R289). -/
theorem touched_wave (pa pa' : Nat) : ((s.moveWait k pa).homeTouch pa').waveAt k =
    { s.waveAt k with wait := (s.waveAt k).wait.map fun x => { x with pa := pa } } :=
  (congrArg (fun m => FMap.get Wave.blank m k) (homeTouch_parts (s.moveWait k pa) pa').2).trans (State.waveAt_setWaveAt ..)

end

section
variable {k : Nat} {s : State} {x : Wait}

theorem openWait_of_waitsFor {w : Wave} {kind : WaitKind} (h : waitsFor w kind x) : w.openWait kind = some x := by
  obtain ⟨hw, hk, hm, hr⟩ := h
  simp [Wave.openWait, hw, hk, hm, hr]

/-- An unregistered lock waiter whose word lies nowhere waits on (R228; log entry 85). -/
theorem lockRetry_nowhere (h : waitsFor (s.waveAt k) .lock x) (unregistered : x.registered = false) (lost : s.waitWordAt k x = none) :
    Goes (.lockRetry k) s (· = s) := by
  refine ⟨s, ?_, rfl⟩
  simp only [exec, execLockRetry, openWait_of_waitsFor h, unregistered, lost, Bool.false_eq_true, if_false]

/-- An unregistered lock waiter retries the word where it lies now (R228). -/
theorem lockRetry_at {pa : Nat} (h : waitsFor (s.waveAt k) .lock x) (unregistered : x.registered = false)
    (here : s.waitWordAt k x = some pa) : exec (.lockRetry k) s =
      .next (if ((s.moveWait k pa).lockTake k pa).1 then ((s.moveWait k pa).lockTake k pa).2.setMet k else ((s.moveWait k pa).lockTake k pa).2) := by
  simp only [exec, execLockRetry, openWait_of_waitsFor h, unregistered, here, Bool.false_eq_true, if_false]

/-- A free lock word is taken: the wait is met (R228). -/
theorem lockRetry_free {pa : Nat} (h : waitsFor (s.waveAt k) .lock x) (unregistered : x.registered = false)
    (here : s.waitWordAt k x = some pa) (free : ((s.moveWait k pa).homeTouch pa).home64 pa = 0) :
    Goes (.lockRetry k) s fun t => (t.waveAt k).wait = some { x with pa := pa, met := true } ∧
      t.mem = (((s.moveWait k pa).homeTouch pa).homeWrite64 pa (2 ^ 63 + (s.waveAt k).id.handle.toNat)).mem := by
  have taken : (s.moveWait k pa).lockTake k pa =
      (true, ((s.moveWait k pa).homeTouch pa).homeWrite64 pa (2 ^ 63 + (s.waveAt k).id.handle.toNat)) := by
    simp only [State.lockTake, free, if_true, touched_wave, lockValue]
  refine ⟨(((s.moveWait k pa).homeTouch pa).homeWrite64 pa (2 ^ 63 + (s.waveAt k).id.handle.toNat)).setMet k, ?_, ?_, rfl⟩
  · rw [lockRetry_at h unregistered here, taken, if_pos rfl]
  · rw [setMet_wait, State.homeWrite64, homeWrite_wait_held, touched_wave, h.1]
    rfl

/-- A lock word that is not free stays, and the waiter waits on where it lies now (R228). -/
theorem lockRetry_held {pa : Nat} (h : waitsFor (s.waveAt k) .lock x) (unregistered : x.registered = false)
    (here : s.waitWordAt k x = some pa) (locked : ((s.moveWait k pa).homeTouch pa).home64 pa ≠ 0) :
    Goes (.lockRetry k) s (· = (s.moveWait k pa).homeTouch pa) := by
  have refused : (s.moveWait k pa).lockTake k pa = (false, (s.moveWait k pa).homeTouch pa) := by
    simp only [State.lockTake, locked, if_false]
  exact ⟨_, (lockRetry_at h unregistered here).trans (by rw [refused, if_neg Bool.false_ne_true]), rfl⟩

/-- A declared word that lies nowhere is not tested (R229; log entry 85). -/
theorem waitvRetest_nowhere (h : waitsFor (s.waveAt k) .waitv x) (lost : s.waitWordAt k x = none) : Goes (.waitvRetest k) s (· = s) := by
  refine ⟨s, ?_, rfl⟩
  simp only [exec, execWaitvRetest, openWait_of_waitsFor h, lost]

/-- A declared word that has another value than the expected one meets the wait (R229). -/
theorem waitvRetest_changed {pa : Nat} (h : waitsFor (s.waveAt k) .waitv x) (here : s.waitWordAt k x = some pa)
    (changed : ((s.moveWait k pa).homeTouch pa).home64 pa ≠ x.expect.toNat) :
    Goes (.waitvRetest k) s fun t => (t.waveAt k).wait = some { x with pa := pa, met := true } ∧
      t.mem = ((s.moveWait k pa).homeTouch pa).mem := by
  refine ⟨((s.moveWait k pa).homeTouch pa).setMet k, ?_, ?_, rfl⟩
  · simp only [exec, execWaitvRetest, openWait_of_waitsFor h, here, changed, ne_eq, not_false_eq_true, if_true]
  · rw [setMet_wait, touched_wave, h.1]
    rfl

/-- A declared word that has the expected value leaves the wait open (R229). -/
theorem waitvRetest_same {pa : Nat} (h : waitsFor (s.waveAt k) .waitv x) (here : s.waitWordAt k x = some pa)
    (same : ((s.moveWait k pa).homeTouch pa).home64 pa = x.expect.toNat) :
    Goes (.waitvRetest k) s (· = (s.moveWait k pa).homeTouch pa) := by
  refine ⟨_, ?_, rfl⟩
  simp only [exec, execWaitvRetest, openWait_of_waitsFor h, here, same, ne_eq, not_true_eq_false, if_false]

end

/-! ## O43 -/

/-- Settles O43, step by step. -/
theorem waveSteps : Obligations.WaveSteps := by
  unfold Obligations.WaveSteps
  refine ⟨?writeback, fun tick l rest e h => leavesNext_order h, fun tick l h => leavesNext_isSome tick h,
    fun k s cs nc up bs pages rest h hr => drain_store h hr, wcbLineWrite_goes, homeAccess_goes, ?mma,
    fun k slot s w hw valid unready => codebookReady_goes hw valid unready, fun die bank s hd hb => refresh_goes s hd hb,
    fun k s x d sw p hw running ready due hr hp => timew_goes hw running ready due hr hp,
    fun k s x hw met hr hst => waitMet_goes hw met hr hst, ?lock, ?waitv, ?start⟩
  case writeback =>
    intro k n lanes s p hp hm
    obtain ⟨t, ht, pend, regs, mem, caches⟩ := writeback_goes hp hm
    refine ⟨t, ht, pend, fun r vals l written hl => ?_, fun i v written hi => ?_, mem, caches⟩
    · rw [laneAt, regs, written]
      exact deliverAll_vec s k _ r vals hl
    · rw [regs, written]
      exact deliverAll_scal s k _ v hi
  case mma =>
    refine fun wg cid s c hc ready => ⟨mmaStart_goes hc ready, fun started con hcon => ?_⟩
    obtain ⟨t, ht, rfl⟩ := mmaRetire_goes hc ready started
    refine ⟨_, ht, s.mmaRetire wg c, rfl, ?_, fun i hi => ?_, s.mmaView wg c, mmaView_get s wg c, ?_⟩
    · rw [mmaRetire_wg]
    · rw [mmaRetire_wg]
      exact FMap.get_set_other _ _ _ hi
    · rw [mmaRetire_wg]
      exact (FMap.get_set_same _ _ _ _).trans (congrArg Prod.fst (mmaResult_of_contract hcon c _))
  case lock =>
    exact fun k s x h unregistered => ⟨lockRetry_nowhere h unregistered, fun pa here =>
      ⟨lockRetry_free h unregistered here, lockRetry_held h unregistered here⟩⟩
  case waitv =>
    exact fun k s x h => ⟨waitvRetest_nowhere h, fun pa here => ⟨waitvRetest_changed h here, waitvRetest_same h here⟩⟩
  case start =>
    intro k s w hw hst
    obtain ⟨t, ht, st, regs, caches⟩ := waveStart_goes hw hst
    refine ⟨t, ht, st, fun r l => ?_, caches, fun i hi => ?_⟩
    · rw [laneAt, regs]
      rfl
    · rw [regs]
      exact startRegs_s _ hi

end Sys2Proof.Claims
end

section
/-!
PROOF. Commands submitted to the engines: what a kernel-table block changes, what the reads of a block leave, and the submission (R83, R87,
R134, R138, R139, R370, R373).
-/

namespace Sys2Proof.Claims

open Sys2Proof.Machine

/-! ## Instruction-cache lines fetched again -/

/-- `u` is `s` but for instruction-cache words and for what reads at the home do to the harts' lines; where no hart holds a line, memory stays. -/
structure Refetched (s u : State) : Prop where
  frame : u = { s with caches := { s.caches with ic := u.caches.ic }, mem := u.mem, harts := u.harts }
  quiet : s.harts.lines = [] → u.mem = s.mem ∧ u.harts.lines = []

namespace Refetched

variable {s u v : State}

theorem refl (s : State) : Refetched s s := ⟨rfl, fun h => ⟨rfl, h⟩⟩

theorem trans (h : Refetched s u) (h' : Refetched u v) : Refetched s v := by
  refine ⟨?_, fun hl => ?_⟩
  · rw [h'.frame, h.frame]
  · obtain ⟨m, l⟩ := h.quiet hl
    obtain ⟨m', l'⟩ := h'.quiet l
    exact ⟨m'.trans m, l'⟩

theorem foldl {β : Type} {f : State → β → State} (hf : ∀ u b, Refetched u (f u b)) (l : List β) : Refetched s (l.foldl f s) :=
  List.foldlRecOn l f (motive := Refetched s) (refl s) fun u hu b _ => hu.trans (hf u b)

theorem of_ic (s : State) (m : FMap IcWord) : Refetched s { s with caches := { s.caches with ic := m } } := ⟨rfl, fun h => ⟨rfl, h⟩⟩

end Refetched

theorem writeBackObj_eq (s : State) (o : CohObj) : s.writeBackObj o = { s with mem := (s.writeBackObj o).mem } := by
  refine List.foldlRecOn s.harts.lines _ (motive := fun u : State => u = { s with mem := u.mem }) rfl fun u hu e _ => ?_
  split
  · rw [hu]
    rfl
  · exact hu

theorem probeShared_eq (s : State) (k : Nat) (o : CohObj) :
    s.probeShared k o = { s with mem := (s.probeShared k o).mem, harts := (s.probeShared k o).harts } := by
  unfold State.probeShared
  rw [writeBackObj_eq]

theorem homeTouch_refetched (s : State) (pa : Nat) : Refetched s (s.homeTouch pa) := by
  refine ⟨?_, fun h => ⟨(homeTouch_still h pa).mem, (homeTouch_still h pa).harts⟩⟩
  refine List.foldlRecOn (s.heldObjs (pa / 64)) _ (motive := fun u : State =>
    u = { s with caches := { s.caches with ic := u.caches.ic }, mem := u.mem, harts := u.harts }) rfl fun u hu e _ => ?_
  split
  · rw [probeShared_eq, hu]
  · exact hu

theorem homeTouches_refetched (s : State) (pas : List Nat) : Refetched s (s.homeTouches pas) := .foldl homeTouch_refetched pas

theorem roomIc_refetched (s : State) (unit line : Nat) : Refetched s (s.roomIc unit line) := by
  unfold State.roomIc
  dsimp only
  split
  · exact .refl s
  · split
    · exact .of_ic s _
    · exact .refl s

theorem fillIc_refetched (s : State) (core asid line : Nat) : Refetched s (s.fillIc core asid line) := by
  unfold State.fillIc
  dsimp only
  split
  · exact .refl s
  · exact ((roomIc_refetched _ _ _).trans (homeTouches_refetched _ _)).trans (.of_ic _ _)

/-- Fetching a line again changes instruction-cache words (R191). -/
theorem refetchIc_refetched (s : State) (core asid line : Nat) : Refetched s (s.refetchIc core asid line) := by
  have dropped : Refetched s (s.dropIc (icUnit core asid) line) := .of_ic s _
  exact dropped.trans (fillIc_refetched ..)

/-! ## Kernel tables -/

/-- A kernel table after a block (R138). -/
def kitAfter (kit : FMap Nat) (b : List Byte) : FMap Nat :=
  if fieldOf b 4 4 = 0 then kit.put (fieldOf b 8 4) (fieldOf b 16 8) else kit.erase (fieldOf b 8 4)

theorem find_kitAfter (kit : FMap Nat) (b : List Byte) (k : Nat) : (kitAfter kit b).find k =
    if k = fieldOf b 8 4 then (if fieldOf b 4 4 = 0 then some (fieldOf b 16 8) else none) else kit.find k := by
  unfold kitAfter
  by_cases hk : k = fieldOf b 8 4
  · rw [if_pos hk, hk]
    split
    · exact FMap.find_put_same ..
    · exact FMap.find_erase_same ..
  · rw [if_neg hk]
    split
    · exact FMap.find_put_other _ _ hk
    · exact FMap.find_erase_other _ hk

/-- Every core drops the context's unlocked instruction-cache words (R139, R191). -/
def dropUnlocked (s : State) (asid : Nat) : State :=
  { s with caches := { s.caches with ic := s.caches.ic.filter (fun e =>
    keyUnit e.1 % 1024 != asid || s.icLocked (keyUnit e.1) (keyAddr e.1 / 128)) } }

theorem tableEffect_eq (s : State) (asid : Nat) (b : List Byte) : s.tableEffect asid b =
    let u := dropUnlocked (s.modCtxAt asid fun c => { c with kit := kitAfter c.kit b }) asid
    (u.caches.locks.filter fun l => l.asid == asid && l.active).foldl
      (fun s l => l.lines.foldl (fun s n => s.refetchIc l.core asid n) s) u := rfl

/-- A kernel-table block changes its context's table, and locked instruction-cache lines are fetched again (R138, R139). -/
theorem tableEffect_refetched (s : State) (asid : Nat) (b : List Byte) :
    Refetched (s.modCtxAt asid fun c => { c with kit := kitAfter c.kit b }) (s.tableEffect asid b) := by
  have again (u : State) (l : ILock) : Refetched u (l.lines.foldl (fun s n => s.refetchIc l.core asid n) u) :=
    .foldl (fun u n => refetchIc_refetched u l.core asid n) _
  rw [tableEffect_eq]
  exact (Refetched.of_ic _ _).trans (.foldl again _)

/-! ## The reads of a block -/

theorem blockTouch_sameTask (s : State) (va : Nat) (c : LaneChk) : SameTask s (s.blockTouch va c) := by
  obtain ⟨tlbs, looked⟩ := lookupTouch_eq s s.wg.ext s.wave.id.cluster s.asid va
  have settled (u : State) : SameTask u (u.settleAtomics false c.pas) := by
    unfold State.settleAtomics
    split
    · exact .refl u
    · split
      · exact drainFifo_sameTask ..
      · exact .refl u
  have loaded (u : State) : SameTask u (u.loadsTouch false false c.uncached c.pas) := by
    unfold State.loadsTouch
    have touched (l : List Nat) : SameTask u (u.loadTouch u.wave.id.gcore false c.uncached l) := (loadTouch_onlyMemory ..).sameTask
    generalize u.overlay = ov
    dsimp only
    rw [if_neg Bool.false_ne_true]
    split
    · exact ⟨(touched _).iss, (touched _).mode⟩
    · exact touched _
  have lookedUp : SameTask s (s.lookupTouch s.wg.ext s.wave.id.cluster s.asid va) := by
    rw [looked]
    exact ⟨rfl, fun _ => ⟨rfl, rfl⟩⟩
  exact lookedUp.trans ((settled _).trans (loaded _))

/-! ## Submission -/

theorem exec_of_submission {s : State} {i : Instr} {o : Submission} (h : submission s i = some o) : exec i s =
    s.guarded (s.submitTrap o.a o.chk o.scope o.bad) fun u => (u.blockTouch (s.sval o.a).toNat o.chk).submitCmd o.sw o.scope o.cmd := by
  cases i <;> simp only [submission, reduceCtorEq, Option.some.injEq] at h <;> subst h
  case tcopy => simp only [exec, execTcopy]
  case ecmd => simp only [exec, execEcmd]
  case launch => simp only [exec, execLaunch]

theorem bad_of_submitTrap {s : State} {a : Opd} {c : LaneChk} {scope : Nat} {bad : Option Nat} (h : s.submitTrap a c scope bad = none) :
    bad = none := by
  have all := List.findSome?_eq_none_iff.1 h
  simpa using all _ (List.mem_cons_of_mem _ (List.mem_cons_of_mem _ (List.mem_cons_of_mem _ (List.mem_cons_of_mem _
    (List.mem_cons_of_mem _ List.mem_cons_self)))))

theorem firstBad_eq_none {l : List (Nat × Bool)} (h : firstBad l = none) {e : Nat × Bool} (he : e ∈ l) : e.2 = false := by
  have none : l.find? (·.2) = none := by simpa [firstBad] using h
  simpa using List.find?_eq_none.1 none e he

theorem ctl_of_copyCheck {b : List Byte} {limit : Nat} (h : copyCheck b limit = none) : (copyDesc b).ctlBad = false :=
  firstBad_eq_none h (e := (4, (copyDesc b).ctlBad)) (List.mem_append_left _ (List.mem_append_left _ (List.mem_cons_of_mem _ List.mem_cons_self)))

/-- A submission that passes its checks is a release (R83, R85, R370). -/
theorem scope_of_submission {s : State} {i : Instr} {o : Submission} (h : submission s i = some o)
    (passes : s.submitTrap o.a o.chk o.scope o.bad = none) : o.scope ≠ 0 := by
  have bad := bad_of_submitTrap passes
  cases i <;> simp only [submission, reduceCtorEq, Option.some.injEq] at h <;> subst h
  case tcopy sw a =>
    intro (zero : (copyDesc (s.chkBytes (s.engChk (s.sval a).toNat))).scope = 0)
    simpa [CopyDesc.ctlBad, zero] using ctl_of_copyCheck bad
  case ecmd => exact Nat.succ_ne_zero 3
  case launch => exact Nat.succ_ne_zero 3

/-- A command taken from the issuing wave, whose idempotent right is cleared before (R266): the same but for that is accepted. -/
theorem submit_accepted (v : State) (cmd : EngCmd) :
    ∃ u, Accepted v cmd u ∧ (v.setWave (noRight v.wave)).submit v.iss.cur none cmd = u.setWave (noRight v.wave) ∧
      u.wave = v.wave := by
  have wave : (v.setWave (noRight v.wave)).waveAt v.iss.cur = noRight v.wave := State.waveAt_setWaveAt ..
  cases cmd with
  | tcopy b =>
    let c : Copy :=
      { block := b, asid := v.asid, wg := v.wave.id.wgKey, cluster := v.wave.id.cluster, started := false, arrived := false,
        die := none, diesLeft := [], admitted := [], unit := 0, done := 0, flags := 0#6, status := 0#8, token := 0#32, faultVa := 0#64,
        finished := false, commit := none, alt := [], pages := [], mute := false }
    refine ⟨{ v with eng := { v.eng with copies := v.eng.copies.put v.eng.nextCopy c, nextCopy := v.eng.nextCopy + 1 } },
      ⟨c, rfl, rfl, rfl, rfl, rfl, rfl, rfl, rfl, rfl, rfl, rfl⟩, ?_, rfl⟩
    rw [State.submit, wave]
    rfl
  | collective b =>
    let c : Collective :=
      { block := b, asid := v.asid, submitted := v.now, status := none, flags := 0#6, faultVa := 0#64, peer := 0,
        launch := v.wave.id.launchKey, commit := none, elems := 0, held := [], pages := [], mute := false }
    refine ⟨{ v with eng := { v.eng with colls := v.eng.colls.put v.eng.nextColl c, nextColl := v.eng.nextColl + 1 } },
      ⟨c, rfl, rfl, rfl, rfl, rfl, rfl, rfl, rfl⟩, ?_, rfl⟩
    rw [State.submit, wave]
    rfl
  | power b =>
    refine ⟨_, rfl, ?_, rfl⟩
    rw [State.submit, wave]
    rfl
  | launch b =>
    refine ⟨_, rfl, ?_, rfl⟩
    rw [State.submit, wave]
    rfl
  | table b =>
    obtain ⟨frame, quiet⟩ := tableEffect_refetched (v.setWave (noRight v.wave)) v.asid b
    generalize ht : (v.setWave (noRight v.wave)).tableEffect v.asid b = t at frame quiet
    let w : State := v.setCtxAt v.asid { v.ctx with kit := kitAfter v.ctx.kit b }
    let u : State := { w with caches := { v.caches with ic := t.caches.ic }, mem := t.mem, harts := t.harts }
    have own : u.ctx = { v.ctx with kit := kitAfter v.ctx.kit b } := State.ctxAt_setCtxAt_same ..
    refine ⟨u, ⟨rfl, fun hl core a => ?_, fun a ha => State.ctxAt_setCtxAt_other v _ ha, ?_, fun k => ?_⟩, ?_, rfl⟩
    · obtain ⟨m, l⟩ := quiet hl
      have home : u.homeRead a = v.homeRead a := by
        rw [homeRead_of_noLines (s := u) l, homeRead_of_noLines hl]
        exact congrArg (Memory.read · a) m
      refine ⟨home, ?_⟩
      unfold State.cachedByte
      rw [home]
    · rw [own]
    · rw [own]
      exact find_kitAfter ..
    · rw [State.submit, wave]
      exact ht.trans frame

section
variable {r : State} {cmd : EngCmd} (sw : Bool) {scope : Nat}

/-- A command that finds room, and whose release waits for nobody, goes on with what the release leaves (R83, R370). -/
theorem submitCmd_of_room (room : (!r.wave.repro && !r.engineRoom r.wave.id.cluster cmd) = false)
    (acked : (r.releaseAt scope).sysWaits (r.releaseAt scope).iss.cur scope = false) :
    let v := (r.releaseAt scope).setWave (noRight (r.releaseAt scope).wave)
    r.submitCmd sw scope cmd =
      if v.wave.repro then .next (((v.hold v.iss.cur (.engine cmd)).retire sw).endQuantum) else .next ((v.submit v.iss.cur none cmd).retire sw) := by
  simp only [State.submitCmd, room, Bool.false_eq_true, if_false, State.released, acked]
  rfl

/-- Outside reproducible mode a command that finds room is released and accepted (R83, R370). -/
theorem submitCmd_goes (hs : scope ≠ 0) (plain : r.wave.repro = false) (room : r.engineRoom r.wave.id.cluster cmd = true)
    (acked : scope = 5 → (r.release r.iss.cur 5).unacked r.iss.cur = 0) :
    ∃ t, r.submitCmd sw scope cmd = .next t ∧
      ∃ u, Accepted (r.release r.iss.cur scope) cmd u ∧ Ran u (noRight (r.release r.iss.cur scope).wave) sw t := by
  let v := r.releaseAt scope
  have released : r.release r.iss.cur scope = v := (if_neg hs).symm
  have task : SameTask r v := releaseAt_sameTask r scope
  have plainAfter : v.wave.repro = false := by
    rw [State.wave_def, task.iss, task.repro]
    exact plain
  have goesOn : v.sysWaits v.iss.cur scope = false := by
    by_cases h5 : scope = 5
    · subst h5
      rw [State.sysWaits, task.iss, ← released, acked rfl]
      simp
    · simp [State.sysWaits, h5]
  obtain ⟨u, accepted, submitted, wave⟩ := submit_accepted v cmd
  have mode : ¬ (v.setWave (noRight v.wave)).wave.repro = true := by
    rw [State.setWave, State.wave_setWave, Bool.not_eq_true]
    exact plainAfter
  refine ⟨(u.setWave (noRight v.wave)).retire sw, ?_, u, released ▸ accepted, ?_⟩
  · rw [submitCmd_of_room sw (by rw [room]; simp) goesOn, if_neg mode, ← submitted]
    rfl
  · rw [released]
    exact ran_setWave u _ sw (by rw [wave]; rfl) (by rw [wave]; rfl)

/-- In reproducible mode a command is held, and the quantum ends (R122, R126). -/
theorem submitCmd_held (repro : r.wave.repro = true) :
    ∃ t, r.submitCmd sw scope cmd = .next t ∧
      ∃ t0, Ran r { (noRight r.wave) with fifo := r.wave.fifo ++ [.engine cmd] } sw t0 ∧ t = t0.endQuantum := by
  have released : r.releaseAt scope = r := by
    unfold State.releaseAt State.release
    rw [← State.wave_def, if_pos repro, ite_self]
  have goesOn : (r.releaseAt scope).sysWaits (r.releaseAt scope).iss.cur scope = false := by
    rw [released, State.sysWaits, ← State.wave_def, repro]
    simp
  have mode : (r.setWave (noRight r.wave)).wave.repro = true := by
    rw [State.setWave, State.wave_setWave]
    exact repro
  refine ⟨_, ?_, _, ran_setWave r { (noRight r.wave) with fifo := r.wave.fifo ++ [.engine cmd] } sw rfl rfl, rfl⟩
  rw [submitCmd_of_room sw (by rw [repro]; rfl) goesOn, released, if_pos mode]
  simp only [State.hold, State.setWave, State.setWaveAt_iss, State.modWaveAt_setWaveAt]
  rfl

end

/-- Settles O28: a submission runs `State.submitCmd` on what the reads of its block leave. -/
theorem engineSubmissions : Obligations.EngineSubmissions := by
  unfold Obligations.EngineSubmissions
  intro i s o ho hi passes
  have task := blockTouch_sameTask s (s.sval o.a).toNat o.chk
  have run : exec i s = (s.blockTouch (s.sval o.a).toNat o.chk).submitCmd o.sw o.scope o.cmd := by
    rw [exec_of_submission ho, passes, guarded_of_none _ hi]
  dsimp only
  rw [← task.iss]
  refine ⟨fun plain room acked => ?_, fun repro => ?_⟩
  · obtain ⟨t, ht, accepted⟩ := submitCmd_goes o.sw (scope_of_submission ho passes) plain room acked
    exact ⟨t, run.trans ht, accepted⟩
  · obtain ⟨t, ht, held⟩ := submitCmd_held o.sw (scope := o.scope) (cmd := o.cmd) repro
    exact ⟨t, run.trans ht, held⟩

end Sys2Proof.Claims
end

section
/-!
PROOF. CBSET's read of its table on a machine whose list of waves is out of order: the loads evict a line that a waiting wave watches.
-/

namespace Sys2Proof.Claims

open Sys2Proof.Machine

/-! ## A load whose line evicts the only other line of its set -/

theorem victimOf_single {ls : List Nat} {l line : Nat} (tick : Nat) (one : ls = [l]) (other : l ≠ line) : victimOf tick 0 line ls = some l := by
  subst one
  simp [victimOf, Ne.symm other, Nat.mod_one]

theorem homeTouches_belay (s : State) (pas : List Nat) : (s.homeTouches pas).belay = s.belay := by
  rw [(homeTouches_refetched s pas).frame]

/-- Filling a line of an L2 slice changes waits only by what the eviction writes back (R183, R232). -/
theorem fillL2_belay {s : State} {cl line l : Nat} (full : (s.csctlAt cl).cacheWays = 0) (one : setLines s.caches.l2 cl 2048 line = [l])
    (other : l ≠ line) (absent : ((lineBytes line).filter fun pa => (s.caches.l2.find (unitKey cl pa)).isNone).isEmpty = false) :
    (s.fillL2 cl line).belay = (s.evictL2 cl l).belay := by
  have room : s.roomL2 cl line = s.evictL2 cl l := by
    unfold State.roomL2
    rw [full, victimOf_single s.tick one other]
  unfold State.fillL2
  dsimp only
  rw [absent, if_neg Bool.false_ne_true, ← room]
  exact homeTouches_belay ..

/-- What `fillL2_belay` asks of a state, with no line in the L1s. -/
structure Evicts (s : State) (line l : Nat) : Prop where
  full : (s.csctlAt (s.wave.id.gcore / 4)).cacheWays = 0
  one : setLines s.caches.l2 (s.wave.id.gcore / 4) 2048 line = [l]
  other : l ≠ line
  absent : ((lineBytes line).filter fun pa => (s.caches.l2.find (unitKey (s.wave.id.gcore / 4) pa)).isNone).isEmpty = false
  empty : s.caches.l1 = []

theorem loadsTouch_belay {s : State} {line l : Nat} {pas : List Nat} (e : Evicts s line l) (near : pas.filter (fun a => !isRemote a) = pas)
    (lines : linesOf pas = [line]) (near' : pas.any isRemote = false) :
    (s.loadsTouch false false false pas).belay = (s.evictL2 (s.wave.id.gcore / 4) l).belay := by
  have room : s.roomL1 s.wave.id.gcore line = s := by
    unfold State.roomL1
    rw [e.empty]
    rfl
  have misses : ((lineBytes line).all fun pa => (s.caches.l1.find (unitKey s.wave.id.gcore pa)).isSome) = false := by
    rw [e.empty]
    rfl
  have filled : (s.fillL1 s.wave.id.gcore line).belay = (s.evictL2 (s.wave.id.gcore / 4) l).belay := by
    rw [← fillL2_belay e.full e.one e.other e.absent]
    unfold State.fillL1
    rw [room]
  unfold State.loadsTouch
  simp only [Bool.or_self, Bool.false_and, Bool.not_false, Bool.and_true, near, near', Bool.false_eq_true, if_false]
  unfold State.loadTouch
  simp only [Bool.or_self, Bool.false_eq_true, if_false, lines, List.foldl_cons, List.foldl_nil, misses]
  exact filled

/-! ## CBSET and the waits -/

/-- The state that CBSET's loads start from in the model: the table's error tokens are made before (R97, R100). -/
def cbBefore (s : State) (cfg : Word64) (r : BufRec) (a : Nat) (k : LaneChk) : State :=
  let n := 2 ^ cbIw cfg
  let es := cbEntryBytes (cbEf cfg)
  let u := (if k.pas.isEmpty then s else s.touchTlbs r ((List.range n).map fun i => a + es * i)).settleAtomics (recScratch r) k.pas
  (u.makeTokens u.iss.cur u.pc (cbFaults (u.cbEntries (recScratch r) (match k with | .ok _ u => u | _ => false) k.pas n es))).2

/-- Does a passed check name uncached bytes? -/
def uncachedOf (k : LaneChk) : Bool := match k with | .ok _ u => u | _ => false

theorem cbLoad_belay (s : State) (cfg : Word64) (nc : Bool) (r : BufRec) (a : Nat) (k : LaneChk) : (s.cbLoad cfg nc r a k).belay =
    ((cbBefore s cfg r a k).loadsTouch (recScratch r) false (nc || uncachedOf k) k.pas).belay := rfl

theorem retire_belay (s : State) (sw : Bool) : (s.retire sw).belay = s.belay := by
  rw [State.retire, retireN_eq_goneOn]
  rfl

theorem cbset_goes {s : State} {c o : Opd} {r : BitVec 4} {x y : Word64} (sw : Bool) (hi : s.issuing = true) (hx : s.readScal (s.ref c) = ⟨x, false⟩)
    (hy : s.readScal (s.ref o) = ⟨y, false⟩)
    (form : s.formTrap { xw := .no } (!c.isS || !o.sz || (0#3 != 0#3 && 0#3 != 6#3) || recBad (s.brec r)) = none) (plain : cbBad x = false)
    {pas : List Nat} {u : Bool} (chk : s.cbCheck (s.brec r) (recAddr (s.brec r) y.toNat) (2 ^ cbIw x) (cbEntryBytes (cbEf x)) = .ok pas u) :
    exec (.cbset sw c o r 0#3) s = .next ((s.cbLoad x false (s.brec r) (recAddr (s.brec r) y.toNat) (.ok pas u)).retire sw) := by
  show execCbset sw c o r 0#3 s = _
  unfold execCbset
  simp only [hx, hy, form, plain, chk, Bool.or_self, Bool.not_false, Bool.and_false, Bool.false_eq_true, if_false]
  exact guarded_of_none _ hi

theorem went_belay {s t : State} {w : Wave} {g : List CycEff} {sw : Bool} {n : Nat} (h : Went s w g sw n t) : t.belay = s.belay := by
  rw [h.1]
  rfl

/-! ## The machine -/

open Sys2Proof.Tests in
/-- A wave that has registered a wait for the word at 0x240000, or another that has declared it, with its waker. -/
def watcher (wait : Option Wait) (waker : Word64) : Wave := { bootWaveVal with wait := wait, wreg := some ⟨0x240000#64, 0x240000, waker⟩ }

def watchWait : Wait :=
  { kind := .waitv, key := 0x240000#64, pa := 0x240000, expect := 1#64, dst := .none, registered := true, met := false, clk := 0, sw := false }

open Sys2Proof.Tests in
/-- The small machine, its wave about to set codebook slot 0 (2 entries of 1 byte) from the page; the set of L2 that the table's line goes to
holds a dirty byte of another line and has no way left; three waves wait for a word there, and their list is not in order. -/
def outOfOrder : State :=
  let s := withPage (onWave fun w =>
    let w := dataWave w
    { w with regs := { w.regs with s := w.regs.s.set! 6 ⟨0xC4#64, false⟩ }, wait := some watchWait })
  let entry (k : Nat) : WaitEnt := ⟨.waitv, bootAsid, 0, k, 0⟩
  { s with
    waves := (bootWave + 2, watcher (some watchWait) 2#64) :: s.waves ++ [(bootWave + 4, watcher none 9#64)]
    belay := { s.belay with waits := [(0, entry bootWave), (1, entry (bootWave + 2)), (2, entry (bootWave + 4))],
                            objs := [(0, ⟨.waitv, bootAsid, 0x240000#64, 0x240000, some 9#64, false, true⟩)] }
    caches := { s.caches with csctl := [(0, ⟨0#4, 0#10, 16, 0, false, false⟩)], l2 := [(unitKey 0 0x240000, ⟨7#8, true⟩)] } }

/-- The address check of the table. -/
def outOfOrderChk : LaneChk := outOfOrder.cbCheck (outOfOrder.brec 1#4) (recAddr (outOfOrder.brec 1#4) 0) 2 1

/-- The holder that the waited word's entry names after `s` evicts the watched line. -/
def heldAfter (s : State) : Option (Option Word64) := ((s.evictL2 (s.wave.id.gcore / 4) 0x4800).belay.objs.find 0).map (·.holder)

/-- The state that the statement's loads start from: the TLBs looked up, the waiting atomics done. -/
def statedBefore : State :=
  (outOfOrder.touchTlbs (outOfOrder.brec 1#4) ((List.range 2).map fun i => recAddr (outOfOrder.brec 1#4) 0 + 1 * i)).settleAtomics false
    [0x200000, 0x200001]

/-- The state that the model's loads start from. -/
def modelBefore : State := cbBefore outOfOrder 0xC4#64 (outOfOrder.brec 1#4) (recAddr (outOfOrder.brec 1#4) 0) outOfOrderChk

theorem outOfOrder_check : outOfOrderChk = .ok [0x200000, 0x200001] false := by decide +kernel

theorem statedBefore_evicts : Evicts statedBefore 0x4000 0x4800 := by
  constructor <;> decide +kernel

theorem modelBefore_evicts : Evicts modelBefore 0x4000 0x4800 := by
  constructor <;> decide +kernel

/-- The order of the waves' list decides whether the entry keeps its holder. -/
theorem heldAfter_differs : heldAfter statedBefore = some (some 9#64) ∧ heldAfter modelBefore = some none := by decide +kernel

theorem held_after_loads {s : State} (e : Evicts s 0x4000 0x4800) :
    ((s.loadsTouch false false false [0x200000, 0x200001]).belay.objs.find 0).map (·.holder) = heldAfter s := by
  rw [loadsTouch_belay e (by decide) (by decide) (by decide)]
  rfl

theorem outOfOrder_passes : outOfOrder.issuing = true ∧
    outOfOrder.formTrap { xw := .no } (!(Opd.s 6).isS || !(Opd.s 2).sz || (0#3 != 0#3 && 0#3 != 6#3) || recBad (outOfOrder.brec 1#4)) = none ∧
    outOfOrder.readScal (outOfOrder.ref (.s 6)) = ⟨0xC4#64, false⟩ ∧ outOfOrder.readScal (outOfOrder.ref (.s 2)) = ⟨0#64, false⟩ ∧
    recScratch (outOfOrder.brec 1#4) = false := by decide +kernel

theorem cbset_outOfOrder : exec (.cbset false (.s 6) (.s 2) 1#4 0#3) outOfOrder =
    .next ((outOfOrder.cbLoad 0xC4#64 false (outOfOrder.brec 1#4) (recAddr (outOfOrder.brec 1#4) 0) outOfOrderChk).retire false) := by
  obtain ⟨issuing, form, ctl, off, -⟩ := outOfOrder_passes
  rw [outOfOrder_check]
  exact cbset_goes false issuing ctl off form (by decide) outOfOrder_check

/-- What the loads of the table are given. -/
theorem outOfOrder_loads : recScratch (outOfOrder.brec 1#4) = false ∧ uncachedOf outOfOrderChk = false ∧ outOfOrderChk.pas = [0x200000, 0x200001] := by
  rw [outOfOrder_check]
  exact ⟨outOfOrder_passes.2.2.2.2, rfl, rfl⟩

theorem modelBefore_loads : (outOfOrder.cbLoad 0xC4#64 false (outOfOrder.brec 1#4) (recAddr (outOfOrder.brec 1#4) 0) outOfOrderChk).belay =
    (modelBefore.loadsTouch (recScratch (outOfOrder.brec 1#4)) false (false || uncachedOf outOfOrderChk) outOfOrderChk.pas).belay :=
  cbLoad_belay ..

/-- In the model the entry for the waited word loses its holder. -/
theorem cbLoad_drops_holder : ((outOfOrder.cbLoad 0xC4#64 false (outOfOrder.brec 1#4) (recAddr (outOfOrder.brec 1#4) 0) outOfOrderChk).belay.objs.find 0).map
    (·.holder) = some none := by
  obtain ⟨scratch, cached, pas⟩ := outOfOrder_loads
  rw [modelBefore_loads, scratch, cached, pas, Bool.or_self, held_after_loads modelBefore_evicts]
  exact heldAfter_differs.2

/-- Refutes O36: CBSET's loads may write back a line that waves wait on. The statement lets them start before the wave's slot changes, the model
after it, and where the list of waves is out of order that put of the wave moves it to the front, so that its waiters leave their entry in
another order: here the statement asks for the holder that the model drops. -/
theorem not_weightInstructions : ¬ Obligations.WeightInstructions := by
  unfold Obligations.WeightInstructions
  rintro ⟨-, cbset, -⟩
  obtain ⟨issuing, form, ctl, off, scratch⟩ := outOfOrder_passes
  have stated := cbset false (.s 6) (.s 2) 1#4 0#3 outOfOrder issuing form
  rw [ctl, off] at stated
  obtain ⟨t, run, u, w, b, ran, -, -, -, -, -, -, hu, -⟩ := stated.1 rfl (by decide) (by decide) (by decide) (by decide) rfl (by
    intro e p
    show outOfOrderChk ≠ _
    rw [outOfOrder_check]
    exact LaneChk.noConfusion)
  have kept : (u.belay.objs.find 0).map (·.holder) = some (some 9#64) := by
    have chk : outOfOrder.cbCheck (outOfOrder.brec 1#4) (recAddr (outOfOrder.brec 1#4) (0#64).toNat) 2 1 = .ok [0x200000, 0x200001] false :=
      outOfOrder_check
    have width : (0xC4#64).toNat / 4 % 16 = 1 := by decide
    have size : 4 / perLane ((0xC4#64).toNat / 64 % 8) = 1 := by decide
    have cached : (0#3 == 6#3) = false := by decide
    simp only [width, size, pow_one, chk, scratch, LaneChk.pas, reduceCtorEq, if_false, cached, Bool.or_self] at hu
    rw [hu, ← heldAfter_differs.1]
    exact held_after_loads statedBefore_evicts
  have dropped : (t.belay.objs.find 0).map (·.holder) = some none := by
    obtain rfl : _ = t := Host.Outcome.next.inj (cbset_outOfOrder.symm.trans run)
    rw [retire_belay]
    exact cbLoad_drops_holder
  rw [went_belay ran, kept] at dropped
  exact absurd dropped (by decide)

end Sys2Proof.Claims
end

section
/-!
PROOF. What the hub writes: completion records, semaphores, and what a release and the end of a workgroup leave alone (R88, R140, R227).
-/

namespace Sys2Proof.Machine.FMap

variable {α : Type}

theorem find_of_nodup {m : FMap α} (h : (m.map Prod.fst).Nodup) {e : Nat × α} (he : e ∈ m) : find m e.1 = some e.2 := by
  induction m with
  | nil => cases he
  | cons x t ih =>
    obtain ⟨hx, ht⟩ := List.nodup_cons.1 h
    rw [find_cons]
    rcases List.mem_cons.1 he with rfl | he
    · exact if_pos rfl
    · rw [if_neg fun same => hx (List.mem_map.2 ⟨e, he, same.symm⟩), ih ht he]

theorem mem_zip {κ : Type} {ks : List κ} {vs : List α} (len : ks.length = vs.length) {i : Nat} (hi : i < vs.length) (k : κ) (d : α) :
    (ks.getD i k, vs.getD i d) ∈ ks.zip vs := by
  have hk : i < ks.length := by omega
  have at_i : (ks.zip vs)[i]'(by rw [List.length_zip]; omega) = (ks.getD i k, vs.getD i d) := by
    rw [List.getElem_zip, List.getD_eq_getElem _ _ hk, List.getD_eq_getElem _ _ hi]
  exact at_i ▸ List.getElem_mem _

theorem map_fst_zip {ks : List Nat} {vs : List α} (len : ks.length = vs.length) : (ks.zip vs).map Prod.fst = ks :=
  List.map_fst_zip (le_of_eq len)

/-- A key of a list is found with the value beside it. -/
theorem find_zip {ks : List Nat} {vs : List α} (hk : ks.Nodup) (len : ks.length = vs.length) {i : Nat} (hi : i < vs.length) (d : α) :
    find (ks.zip vs) (ks.getD i 0) = some (vs.getD i d) :=
  find_of_nodup (m := ks.zip vs) (by rw [map_fst_zip len]; exact hk) (mem_zip len hi 0 d)

end Sys2Proof.Machine.FMap

namespace Sys2Proof.Claims

open Sys2Proof.Machine

/-! ## Bytes at the home -/

theorem homeRead_congr {s u : State} (mem : u.mem = s.mem) (harts : u.harts = s.harts) (a : Nat) : u.homeRead a = s.homeRead a := by
  rw [State.homeRead, State.homeRead, mem, harts]

theorem Still.homeRead {s u : State} (h : Still s u) (hl : s.harts.lines = []) (a : Nat) : u.homeRead a = s.homeRead a := by
  rw [homeRead_of_noLines h.harts, homeRead_of_noLines hl, h.mem]

/-- A byte written at the home is read there, when no hart holds a line (R198, R463). -/
theorem homeRead_homeWrite {s : State} (hl : s.harts.lines = []) {pas : List Nat} {bytes : List Byte} (once : pas.Nodup)
    (len : pas.length = bytes.length) (present : ∀ a ∈ pas, s.absentAt a = false) {i : Nat} (hi : i < bytes.length) :
    (s.homeWrite (pas.zip bytes)).homeRead (pas.getD i 0) = bytes.getD i 0#8 := by
  obtain ⟨ue, ⟨hm, -, hh⟩, -⟩ := homeWrite_of_noLines hl (pas.zip bytes)
  have all : ((pas.zip bytes).filter fun e => !s.absentAt e.1) = pas.zip bytes := List.filter_eq_self.2 fun e he => by
    simp [present _ (List.of_mem_zip he).1]
  have keys : ((pas.zip bytes).map Prod.fst).Nodup := by rwa [FMap.map_fst_zip len]
  rw [homeRead_of_noLines hh, hm, all]
  refine (FMap.get_sets (pas.zip bytes) id 0#8 (fun _ _ e => e) keys s.mem (pas.getD i 0)).trans ?_
  exact congrArg (fun x => Option.getD x (FMap.get 0#8 s.mem (pas.getD i 0))) (FMap.find_zip once len hi 0#8)

theorem noLines_of_l2WriteBack {s : State} (hl : s.harts.lines = []) (cl : Nat) (p : Nat → Bool) : (s.l2WriteBack cl p).harts.lines = [] := by
  obtain ⟨ue, still, -⟩ := l2WriteBack_of_noLines hl cl p
  exact still.harts

/-! ## Records -/

theorem gatherHome_onlyMemory (s : State) (pas : List Nat) : OnlyMemory s (s.gatherHome pas) :=
  .foldl _ fun u c => (l2WriteBack_onlyMemory u c _).trans (l2Drop_onlyMemory ..)

theorem noLines_of_foldl {β : Type} {f : State → β → State} {s : State} (hf : ∀ u b, u.harts.lines = [] → (f u b).harts.lines = []) (l : List β)
    (hl : s.harts.lines = []) : (l.foldl f s).harts.lines = [] :=
  List.foldlRecOn l f (motive := fun u : State => u.harts.lines = []) hl fun u hu b _ => hf u b hu

theorem noLines_of_giveUp {s : State} (hl : s.harts.lines = []) (cl : Nat) (p q : Nat → Bool) :
    ((s.l2WriteBack cl p).l2Drop cl q).harts.lines = [] := noLines_of_l2WriteBack hl cl p

theorem noLines_of_gatherHome {s : State} (hl : s.harts.lines = []) (pas : List Nat) : (s.gatherHome pas).harts.lines = [] :=
  noLines_of_foldl (fun _ c hu => noLines_of_giveUp hu c _ _) _ hl

theorem length_of_mapM {α β : Type} {f : α → Option β} {l : List α} {r : List β} (h : l.mapM f = some r) : r.length = l.length := by
  induction l generalizing r with
  | nil =>
    obtain rfl : [] = r := by simpa using h
    rfl
  | cons a l ih =>
    obtain ⟨b, -, t, ht, rfl⟩ : ∃ b, f a = some b ∧ ∃ t, l.mapM f = some t ∧ b :: t = r := by
      simpa [List.mapM_cons, Option.bind_eq_some_iff] using h
    simp [ih ht]

theorem length_hubAddrs {s : State} {asid va n : Nat} {need : Need} {ok : BitVec 2 → Bool} {pas : List Nat}
    (h : s.hubAddrs asid va n need ok = some pas) : pas.length = n := by
  simpa using length_of_mapM h

theorem sendRemote_nil (s : State) (who : Option Nat) (eng : Option EngRef) (asid : Nat) (pages : List VPage) :
    s.sendRemote who eng asid pages [] = s := rfl

/-- A record is written where its addresses lead (R88, R140). -/
theorem recordAt_writeRecord (u : State) (asid va : Nat) (bytes : List Byte) : RecordAt u (u.writeRecord asid va bytes) asid va bytes := by
  intro pas hva addrs once present hl i hi
  have len := length_hubAddrs addrs
  have near (a : Nat) (ha : a ∈ pas) : isRemote a = false := isRemote_of_lt (present a ha).1
  have local_ : (pas.filter fun a => !isRemote a) = pas := List.filter_eq_self.2 fun a ha => by simp [near a ha]
  have kept : ((pas.zip bytes).filter fun e => !isRemote e.1) = pas.zip bytes := List.filter_eq_self.2 fun e he => by
    simp [near _ (List.of_mem_zip he).1]
  have away : ((pas.zip bytes).filter fun e => isRemote e.1) = [] := List.filter_eq_nil_iff.2 fun e he => by
    simp [near _ (List.of_mem_zip he).1]
  unfold State.writeRecord
  rw [if_neg hva, addrs]
  dsimp only
  rw [local_, kept, away, sendRemote_nil]
  refine homeRead_homeWrite (noLines_of_gatherHome hl pas) once len (fun a ha => ?_) hi
  rw [(gatherHome_onlyMemory u pas).absentAt]
  exact (present a ha).2

theorem RecordAt.congr {u t t' : State} {asid va : Nat} {bytes : List Byte} (h : RecordAt u t asid va bytes) (mem : t'.mem = t.mem)
    (harts : t'.harts = t.harts) : RecordAt u t' asid va bytes := fun pas hva addrs once present hl i hi =>
  (homeRead_congr mem harts _).trans (h pas hva addrs once present hl i hi)

/-- `u` is `s` but for memory, the caches, what waves wait for and transactions sent. -/
def OnlySent (s u : State) : Prop := ∃ box, OnlyMemory { s with eng := { s.eng with outbox := box } } u

theorem OnlyMemory.onlySent {s u : State} (h : OnlyMemory s u) : OnlySent s u := ⟨s.eng.outbox, h⟩

theorem OnlySent.trans {s u v : State} (h : OnlySent s u) (h' : OnlySent u v) : OnlySent s v := by
  obtain ⟨b, h⟩ := h
  obtain ⟨b', h'⟩ := h'
  refine ⟨b', ?_, fun k => ?_⟩
  · rw [h'.1, h.1]
  · exact (h'.2 k).trans (h.2 k)

theorem sendRemote_onlySent (s : State) (who : Option Nat) (eng : Option EngRef) (asid : Nat) (pages : List VPage) (l : List (Nat × Byte)) :
    OnlySent s (s.sendRemote who eng asid pages l) := by
  unfold State.sendRemote
  split
  · exact (OnlyMemory.refl s).onlySent
  · exact ⟨_, rfl, fun _ => rfl⟩

theorem writeRecord_onlySent (s : State) (asid va : Nat) (bytes : List Byte) : OnlySent s (s.writeRecord asid va bytes) := by
  unfold State.writeRecord
  split
  · exact (OnlyMemory.refl s).onlySent
  · split
    · exact ((gatherHome_onlyMemory ..).trans (homeWrite_onlyMemory ..)).onlySent.trans (sendRemote_onlySent ..)
    · exact (OnlyMemory.refl s).onlySent

/-! ## Bytes of a record -/

theorem bytes64_fields {a b : Nat} (ha : a < 256) (hb : b < 256) (n : Nat) :
    bytes64 (a + b * 2 ^ 8 + n % 2 ^ 32 * 2 ^ 32) = [BitVec.ofNat 8 a, BitVec.ofNat 8 b, 0#8, 0#8] ++ leBytes 4 n := by
  have ofNat_congr {x y : Nat} (h : x % 256 = y % 256) : BitVec.ofNat 8 x = BitVec.ofNat 8 y := BitVec.eq_of_toNat_eq (by simpa using h)
  simp only [bytes64, leBytes, List.cons_append, List.nil_append, List.cons.injEq, and_true]
  refine ⟨?_, ?_, ?_, ?_, ?_, ?_, ?_, ?_⟩ <;> exact ofNat_congr (by omega)

theorem bytes64_zero : bytes64 0 = List.replicate 8 0#8 := by decide

/-- A copy's record (R88). -/
theorem copyRecord_eq (c : Copy) : copyRecord c = [c.status, c.flags.setWidth 8, 0#8, 0#8] ++ leBytes 4 c.token.toNat ++ leBytes 8 c.done ++
    leBytes 8 c.faultVa.toNat ++ List.replicate 8 0#8 := by
  have flags : c.flags.toNat < 256 := by have := c.flags.isLt; omega
  have head := bytes64_fields c.status.isLt flags c.token.toNat
  rw [Nat.mod_eq_of_lt c.token.isLt, BitVec.ofNat_toNat, BitVec.setWidth_eq, BitVec.ofNat_toNat] at head
  rw [copyRecord, head, bytes64_zero]
  rfl

/-- The record of a launch (R140). -/
theorem launchRecord_eq {status cls : Nat} (hs : status < 256) (hc : cls < 4) (nat : Bool) (done energy tstart tend : Nat) :
    launchRecord status cls nat done energy tstart tend = [BitVec.ofNat 8 status, BitVec.ofNat 8 (cls + if nat then 4 else 0), 0#8, 0#8] ++
      leBytes 4 done ++ leBytes 8 energy ++ leBytes 8 tstart ++ leBytes 8 tend := by
  have native : status + cls * 2 ^ 8 + bit nat 10 + done % 2 ^ 32 * 2 ^ 32 =
      status + (cls + if nat then 4 else 0) * 2 ^ 8 + done % 2 ^ 32 * 2 ^ 32 := by
    cases nat
    · simp [bit]
    · simp only [bit, if_true]
      omega
  rw [launchRecord, native, bytes64_fields hs (by split <;> omega)]
  rfl

/-! ## Semaphores -/

theorem ExceptWaves.wakeSem (s : State) (dev : Bool) (cluster idx : Nat) : ExceptWaves s (s.wakeSem dev cluster idx) := by
  refine List.foldlRecOn s.waves _ (motive := ExceptWaves s) (.refl s) fun u hu e _ => ?_
  have met (c : Bool) : ExceptWaves s (if c = true then u.setMet e.1 else u) := by
    cases c
    · exact hu
    · exact hu.trans ⟨_, _, rfl⟩
  split
  · exact met _
  · exact hu

/-- `u` is `s` but for counts of semaphores, waves and the belay table. -/
def OnlyCounts (s u : State) : Prop :=
  ∃ sem csem waves belay, u = { s with hub := { s.hub with sem := sem, csem := csem }, waves := waves, belay := belay }

theorem OnlyCounts.refl (s : State) : OnlyCounts s s := ⟨_, _, _, _, rfl⟩

/-- A count goes up, and waits may be met; nothing else differs (R226). -/
theorem semAdd_counts (s : State) (dev : Bool) (cluster idx : Nat) (n : Word32) : OnlyCounts s (s.semAdd dev cluster idx n) ∧
    (s.semAdd dev cluster idx n).semCount dev cluster idx = s.semCount dev cluster idx + n := by
  cases dev with
  | true =>
    obtain ⟨w, b, h⟩ := ExceptWaves.wakeSem { s with hub := { s.hub with sem := s.hub.sem.set 0#32 idx (s.semCount true cluster idx + n) } }
      true cluster idx
    refine ⟨⟨_, _, w, b, h⟩, ?_⟩
    rw [State.semAdd, if_pos rfl, h]
    exact FMap.get_set_same ..
  | false =>
    obtain ⟨w, b, h⟩ := ExceptWaves.wakeSem { s with hub := { s.hub with
      csem := s.hub.csem.set 0#32 (256 * cluster + idx) (s.semCount false cluster idx + n) } } false cluster idx
    refine ⟨⟨_, _, w, b, h⟩, ?_⟩
    rw [State.semAdd, if_neg Bool.false_ne_true, h]
    exact FMap.get_set_same ..

theorem semSignal_counts (s : State) (dev : Bool) (cluster idx asid : Nat) : OnlyCounts s (s.semSignal dev cluster idx asid) := by
  unfold State.semSignal
  split
  · exact (semAdd_counts s dev cluster idx 1#32).1
  · exact .refl s

/-- A usable semaphore that is signalled counts one up (R226). -/
theorem semCount_semSignal {s : State} {dev : Bool} {cluster idx asid : Nat} (usable : s.semUsable dev cluster idx asid = true) :
    (s.semSignal dev cluster idx asid).semCount dev cluster idx = s.semCount dev cluster idx + 1#32 := by
  rw [State.semSignal, if_pos usable, (semAdd_counts s dev cluster idx 1#32).2]

/-! ## A workgroup that is done -/

/-- What leaves with a workgroup: waves, its place, its stacks and images (R90, R140). -/
theorem reap_eq (s : State) (wg : Nat) : ∃ waves wgs sys ctxs launches,
    s.reap wg = { s with waves := waves, wgs := wgs, sys := sys, ctxs := ctxs, launches := launches } := by
  unfold State.reap
  split
  · exact ⟨_, _, _, _, _, rfl⟩
  · split
    · exact ⟨_, _, _, _, _, rfl⟩
    · exact ⟨_, _, _, _, _, rfl⟩

end Sys2Proof.Claims
end

section
/-!
PROOF. Copies: where their units lie, how they start, stop and end, and the gates of the weight store (R86 to R92).
-/

namespace Sys2Proof.Claims

open Sys2Proof.Machine

/-! ## Where a unit lies -/

theorem strideSum_cons (n : Nat) (st : Int) (t : List (Nat × Int)) (row : Nat) :
    strideSum ((n, st) :: t) row = (row % n : Nat) * st + strideSum t (row / n) := by
  have tail (j : Nat) : row / ((((n, st) :: t).take (j + 1)).map (·.1)).prod = row / n / ((t.take j).map (·.1)).prod := by
    simp [Nat.div_div_eq_div_mul]
  simp only [strideSum, List.length_cons, List.range_succ_eq_map, List.map_cons, List.map_map, List.sum_cons, Function.comp_def, tail]
  simp

/-- The offset of a row is the sum over its dimensions, where every dimension has a count (R86). -/
theorem rowOffset_eq_strideSum {dims : List (Nat × Int)} (h : ∀ x ∈ dims, 1 ≤ x.1) (row : Nat) : rowOffset dims row = strideSum dims row := by
  induction dims generalizing row with
  | nil => rfl
  | cons x t ih =>
    obtain ⟨n, st⟩ := x
    have count : max 1 n = n := max_eq_right (h _ List.mem_cons_self)
    rw [strideSum_cons, rowOffset, count, ih fun x hx => h x (List.mem_cons_of_mem _ hx)]

/-- A unit's destination, and its source of one storage unit where the formats agree (R86). -/
theorem unitPlaces (d : CopyDesc) (unit : Nat) (counts : ∀ x ∈ d.used, 1 ≤ x.count) (units : 0 < d.unitsPerRow) :
    (d.srcAt unit).1 = (d.src : Int) + strideSum (d.used.map fun x => (x.count, x.ss)) (unit / d.unitsPerRow) +
        ((unit % d.unitsPerRow * fmtElems d.dfmt / max 1 (fmtElems d.sfmt) * fmtUnit d.sfmt : Nat) : Int) ∧
      (d.sfmt = d.dfmt → 0 < fmtElems d.sfmt → (d.srcAt unit).2 = fmtUnit d.sfmt) ∧
      d.dstAt unit = ((if d.dws then d.dst % 2 ^ 30 else d.dst : Nat) : Int) + strideSum (d.used.map fun x => (x.count, x.ds)) (unit / d.unitsPerRow) +
        ((unit % d.unitsPerRow * fmtUnit d.dfmt : Nat) : Int) := by
  have per : max 1 d.unitsPerRow = d.unitsPerRow := max_eq_right units
  have rows (f : CopyDim → Int) : ∀ x ∈ d.used.map fun x => (x.count, f x), 1 ≤ x.1 := by
    simpa using counts
  refine ⟨?_, fun same elems => ?_, ?_⟩
  · simp only [CopyDesc.srcAt, CopyDesc.firstElem, per, rowOffset_eq_strideSum (rows CopyDim.ss)]
  · have whole : ((d.firstElem unit + fmtElems d.sfmt - 1) / fmtElems d.sfmt - d.firstElem unit / fmtElems d.sfmt + 1) = 1 := by
      rw [CopyDesc.firstElem, ← same, Nat.add_sub_assoc elems, Nat.mul_comm _ (fmtElems d.sfmt), Nat.mul_add_div elems, Nat.mul_div_cancel_left _ elems,
        Nat.div_eq_of_lt (Nat.sub_lt elems Nat.one_pos)]
      omega
    simp only [CopyDesc.srcAt, max_eq_right (Nat.succ_le_of_lt elems), ← same, whole, Nat.one_mul]
  · simp only [CopyDesc.dstAt, per, rowOffset_eq_strideSum (rows CopyDim.ds), apply_ite Nat.cast]

/-! ## Gates -/

theorem gateJoin_eq (s : State) (die : Nat) (r : GateReq) : s.gateJoin die r = { s with eng := { s.eng with gates := (s.gateJoin die r).eng.gates } } := by
  unfold State.gateJoin
  split <;> rfl

theorem gateJoin_same (s : State) (die : Nat) (r : GateReq) : ((s.gateJoin die r).eng.gates.get [] die).contains r = true := by
  unfold State.gateJoin
  split
  · next h => exact h
  · simp [FMap.modify]

theorem gateJoin_keeps {s : State} (die : Nat) (r : GateReq) {d : Nat} {q : GateReq} (h : (s.eng.gates.get [] d).contains q = true) :
    ((s.gateJoin die r).eng.gates.get [] d).contains q = true := by
  unfold State.gateJoin
  split
  · exact h
  · by_cases same : d = die
    · subst same
      simp only [FMap.modify, FMap.get_put_same, List.contains_append, h, Bool.true_or]
    · simp only [FMap.modify, FMap.get_put_other _ _ _ same, h]

/-- A request joins several gates, and nothing else differs (R92). -/
theorem gateJoins_eq (s : State) (dies : List Nat) (r : GateReq) :
    ∃ gates, dies.foldl (fun s x => s.gateJoin x r) s = { s with eng := { s.eng with gates := gates } } ∧
      (∀ d q, (s.eng.gates.get [] d).contains q = true → (FMap.get [] gates d).contains q = true) ∧
      ∀ d ∈ dies, (FMap.get [] gates d).contains r = true := by
  induction dies generalizing s with
  | nil => exact ⟨s.eng.gates, rfl, fun _ _ h => h, nofun⟩
  | cons x t ih =>
    obtain ⟨gates, h, keeps, joined⟩ := ih (s.gateJoin x r)
    refine ⟨gates, ?_, fun d q hq => keeps d q (gateJoin_keeps x r hq), fun d hd => ?_⟩
    · rw [List.foldl_cons, h, gateJoin_eq]
    · rcases List.mem_cons.1 hd with rfl | hd
      · exact keeps _ _ (gateJoin_same ..)
      · exact joined d hd

/-! ## Start, stop, end -/

section
variable {s : State} {id : Nat} {c : Copy}

/-- A copy starts; a weight-store copy asks at the gates of its dies (R87, R92). -/
theorem tcopyStart_goes {cluster : Nat} (first : s.eng.copies.find? (fun e => e.2.cluster == cluster && !e.2.started &&
      (!(copyDesc e.2.block).nbv || decide ((copyDesc e.2.block).nbtime ≤ s.time))) = some (id, c)) :
    Goes (.tcopyStart cluster) s fun t => ∃ c', t.eng.copies.find id = some c' ∧ c' = { c with started := true, arrived := c'.arrived, diesLeft := c'.diesLeft } ∧
      t = { s with eng := { s.eng with copies := s.eng.copies.put id c', gates := t.eng.gates } } ∧
      ((copyDesc c.block).dws = false → c'.arrived = c.arrived ∧ c'.diesLeft = c.diesLeft ∧ t.eng.gates = s.eng.gates) ∧
      ((copyDesc c.block).dws = true → c'.arrived = true ∧ c'.diesLeft = (copyDesc c.block).dies ∧
        ∀ d ∈ (copyDesc c.block).dies, (t.eng.gates.get [] d).contains (.copy id) = true) := by
  have run : exec (.tcopyStart cluster) s = execTcopyStart cluster s := rfl
  unfold execTcopyStart at run
  rw [first] at run
  dsimp only at run
  by_cases ws : (copyDesc c.block).dws = true
  · rw [if_pos ws] at run
    obtain ⟨gates, h, -, joined⟩ := gateJoins_eq (s.setCopy id { c with started := true, arrived := true, diesLeft := (copyDesc c.block).dies })
      (copyDesc c.block).dies (.copy id)
    rw [h] at run
    exact ⟨_, run, _, FMap.find_put_same .., rfl, rfl, fun plain => absurd ws (by simp [plain]), fun _ => ⟨rfl, rfl, joined⟩⟩
  · rw [if_neg ws] at run
    exact ⟨_, run, _, FMap.find_put_same .., rfl, rfl, fun _ => ⟨rfl, rfl, rfl⟩, fun h => absurd h ws⟩

variable (here : s.eng.copies.find id = some c)
include here

/-- The engine performs a unit of a copy that runs; of a weight-store copy, on its die (R86). -/
theorem exec_tcopyUnit (started : c.started = true) (runs : c.finished = false) (plain : (copyDesc c.block).dws = false) :
    exec (.tcopyUnit id) s = .next (s.copyUnit id c (copyDesc c.block)) := by
  show execTcopyUnit id s = _
  unfold execTcopyUnit
  rw [here]
  simp [started, runs, plain]

/-- A unit that cannot be read stops its copy (R89). -/
theorem tcopyUnit_stops {st : Nat} {va : Int} (started : c.started = true) (runs : c.finished = false) (plain : (copyDesc c.block).dws = false)
    (memory : (copyDesc c.block).ssp = false)
    (fault : s.copyRun c .load ((copyDesc c.block).srcAt c.unit).2 ((copyDesc c.block).srcAt c.unit).1 = .error (st, va)) :
    Goes (.tcopyUnit id) s fun t => ∃ c' : Copy, t = { s with eng := { s.eng with copies := s.eng.copies.put id c' } } ∧
      c' = { c with finished := true, status := BitVec.ofNat 8 st, token := 0#32, faultVa := BitVec.ofInt 64 va, admitted := [], die := none } := by
  refine ⟨_, exec_tcopyUnit here started runs plain, _, ?_, rfl⟩
  unfold State.copyUnit State.copyRead
  simp only [memory, Bool.false_eq_true, if_false, fault]
  rfl

/-- A copy ends with its record and its semaphore (R88). -/
theorem tcopyComplete_goes (finished : c.finished = true) (free : c.commit = none)
    (acked : (copyDesc c.block).scope = 5 → ∀ x ∈ s.eng.outbox, x.engine = some (.copy id) → x.acked = true) :
    Goes (.tcopyComplete id) s fun t => t.eng.copies = s.eng.copies.erase id ∧
      let d := copyDesc c.block
      let u := if 3 ≤ d.scope then s.l2WriteBack c.cluster (fun _ => true) else s
      RecordAt u t c.asid d.rec_ ([c.status, c.flags.setWidth 8, 0#8, 0#8] ++ leBytes 4 c.token.toNat ++ leBytes 8 c.done ++
        leBytes 8 c.faultVa.toNat ++ List.replicate 8 0#8) ∧
      (d.semv = true → c.mute = false → s.semUsable d.semd c.cluster d.semidx c.asid = true →
        t.semCount d.semd c.cluster d.semidx = s.semCount d.semd c.cluster d.semidx + 1#32) := by
  let d := copyDesc c.block
  let u := if 3 ≤ d.scope then s.l2WriteBack c.cluster (fun _ => true) else s
  let r := u.writeRecord c.asid d.rec_ (copyRecord c)
  let v := if d.semv && !c.mute then r.semSignal d.semd c.cluster d.semidx c.asid else r
  have ended : s.copyOver id c && s.freeToEnd (launchOfWg c.wg) c.commit := by
    have done : s.engineAcked (.copy id) = true ∨ d.scope ≠ 5 := by
      by_cases h5 : d.scope = 5
      · refine .inl ?_
        simpa [State.engineAcked] using acked h5
      · exact .inr h5
    rcases done with done | done <;> simp [State.copyOver, State.freeToEnd, finished, free, done, d]
  have run : exec (.tcopyComplete id) s =
      .next ((({ v with eng := { v.eng with copies := v.eng.copies.erase id } } : State).gateLeave (.copy id)).reap c.wg) := by
    show execTcopyComplete id s = _
    unfold execTcopyComplete
    rw [here]
    dsimp only
    rw [if_pos ended]
    unfold State.completeCopy
    rw [free]
    rfl
  have written : OnlySent s r := by
    refine OnlySent.trans ?_ (writeRecord_onlySent ..)
    refine OnlyMemory.onlySent ?_
    unfold u
    split
    · exact l2WriteBack_onlyMemory ..
    · exact .refl s
  obtain ⟨box, written, -⟩ := written
  obtain ⟨sem, csem, waves, belay, signalled⟩ : OnlyCounts r v := by
    unfold v
    split
    · exact semSignal_counts ..
    · exact .refl r
  obtain ⟨waves', wgs, sys, ctxs, launches, reaped⟩ :=
    reap_eq (({ v with eng := { v.eng with copies := v.eng.copies.erase id } } : State).gateLeave (.copy id)) c.wg
  refine ⟨_, run, ?_, ?_, fun semv heard usable => ?_⟩
  · rw [reaped]
    show v.eng.copies.erase id = _
    rw [signalled]
    show r.eng.copies.erase id = _
    rw [written]
  · rw [reaped, ← copyRecord_eq]
    refine (recordAt_writeRecord u c.asid d.rec_ (copyRecord c)).congr ?_ ?_
    · show v.mem = r.mem
      rw [signalled]
    · show v.harts = r.harts
      rw [signalled]
  · have hub' : r.hub = s.hub := by rw [written]
    have count : r.semCount d.semd c.cluster d.semidx = s.semCount d.semd c.cluster d.semidx := by
      unfold State.semCount
      rw [hub']
    have usable' : r.semUsable d.semd c.cluster d.semidx c.asid = true := by
      rw [← usable]
      unfold State.semUsable
      rw [hub']
    rw [reaped]
    show v.semCount d.semd c.cluster d.semidx = _
    rw [← count, ← semCount_semSignal usable']
    unfold v
    rw [semv, heard]
    rfl

/-- A gate admits the copy at its head where no weight-store workgroup occupies the die (R92). -/
theorem gateAdmit_goes {die : Nat} {rest : List GateReq} (head : s.eng.gates.get [] die = .copy id :: rest) (free : s.wsOn die = false) :
    Goes (.weightStoreGateAdmit die) s fun t => t.eng.gates = s.eng.gates.put die rest ∧
      t.eng.copies.find id = some { c with admitted := c.admitted ++ [die] } := by
  refine ⟨({ s with eng := { s.eng with gates := s.eng.gates.put die rest } } : State).setCopy id { c with admitted := c.admitted ++ [die] }, ?_, rfl,
    FMap.find_put_same ..⟩
  show execWeightStoreGateAdmit die s = _
  unfold execWeightStoreGateAdmit
  rw [head]
  dsimp only
  rw [here]
  simp [free]

end

end Sys2Proof.Claims
end

section
/-!
PROOF. What a unit of a copy leaves: bytes in memory through the slice, words of the scratchpad, bytes of the weight store (R86, R89, R92).
-/

namespace Sys2Proof.Machine.FMap

variable {α : Type}

/-- Entries set in turn leave the other keys. -/
theorem get_sets_of_notMem [DecidableEq α] (d : α) {l : List (Nat × α)} (m : FMap α) {a : Nat} (ha : a ∉ l.map Prod.fst) :
    get d (l.foldl (fun m e => m.set d e.1 e.2) m) a = get d m a := by
  induction l generalizing m with
  | nil => rfl
  | cons e t ih =>
    obtain ⟨first, rest⟩ : a ≠ e.1 ∧ a ∉ t.map Prod.fst := by simpa using ha
    rw [List.foldl_cons, ih _ rest, get_set_other _ _ _ first]

end Sys2Proof.Machine.FMap

namespace Sys2Proof.Claims

open Sys2Proof.Machine

/-! ## Bytes that a slice does not hold -/

/-- A write-back leaves the home's bytes that its slice does not hold. -/
theorem read_l2WriteBack {s : State} (hl : s.harts.lines = []) {cl a : Nat} (p : Nat → Bool) (gone : s.caches.l2.find (unitKey cl a) = none) :
    (s.l2WriteBack cl p).mem.read a = s.mem.read a := by
  obtain ⟨ue, ⟨hm, -, -⟩, -⟩ := l2WriteBack_of_noLines hl cl p
  rw [hm]
  refine FMap.get_sets_of_notMem _ _ fun ha => ?_
  obtain ⟨e, he, rfl⟩ := List.mem_map.1 ha
  obtain ⟨x, hx, rfl⟩ := List.mem_map.1 (List.mem_filter.1 he).1
  obtain ⟨listed, hk⟩ := List.mem_filter.1 hx
  have unit : keyUnit x.1 = cl := by
    simp only [Bool.and_eq_true, beq_iff_eq] at hk
    exact hk.1.1
  have held := FMap.find_isSome_of_mem listed
  rw [← unitKey_keyAddr x.1, unit, gone] at held
  cases held

/-- A byte is not in the slice, and reads `b` at its home, where no hart holds a line. -/
structure AtHome (s : State) (cl a : Nat) (b : Byte) : Prop where
  lines : s.harts.lines = []
  gone : s.caches.l2.find (unitKey cl a) = none
  read : s.mem.read a = b

theorem AtHome.evictL2 {s : State} {cl a : Nat} {b : Byte} (ha : a < 2 ^ 52) (h : AtHome s cl a b) (line : Nat) : AtHome (s.evictL2 cl line) cl a b :=
  ⟨noLines_of_giveUp h.lines cl (fun a => a / 128 == line) fun a => a / 128 == line, find_giveUp h.lines (fun a => a / 128 == line) ha (.inl h.gone),
    (read_l2WriteBack h.lines (fun a => a / 128 == line) h.gone).trans h.read⟩

theorem AtHome.roomL2 {s : State} {cl a : Nat} {b : Byte} (ha : a < 2 ^ 52) (h : AtHome s cl a b) (line : Nat) : AtHome (s.roomL2 cl line) cl a b := by
  unfold State.roomL2
  split
  · exact h.evictL2 ha _
  · exact h

theorem AtHome.homeRead {s : State} {cl a : Nat} {b : Byte} (h : AtHome s cl a b) : s.homeRead a = b :=
  (homeRead_of_noLines h.lines a).trans h.read

/-! ## Bytes into memory -/

section
variable {s : State} (c : Copy) {ps : List ((Nat × Bool) × Byte)}

theorem copyPut_wgs (s : State) (c : Copy) (ps : List ((Nat × Bool) × Byte)) : (s.copyPut c ps).wgs = s.wgs := by
  unfold State.copyPut
  dsimp only
  rw [(sliceWrite_onlyMemory ..).1]
  dsimp only
  rw [(homeWrite_onlyMemory ..).1]
  rfl

theorem copyPut_wgAt (s : State) (c : Copy) (ps : List ((Nat × Bool) × Byte)) (k : Nat) : (s.copyPut c ps).wgAt k = s.wgAt k := by
  rw [State.wgAt, State.wgAt, copyPut_wgs]

/-- The bytes of `ps` that are cached, or that are not, by address. -/
def bytesOf (ps : List ((Nat × Bool) × Byte)) (direct : Bool) : List (Nat × Byte) := (ps.filter fun e => e.1.2 == direct).map fun e => (e.1.1, e.2)

theorem mem_bytesOf {e : (Nat × Bool) × Byte} (he : e ∈ ps) : (e.1.1, e.2) ∈ bytesOf ps e.1.2 :=
  List.mem_map.2 ⟨e, List.mem_filter.2 ⟨he, beq_self_eq_true _⟩, rfl⟩

theorem nodup_bytesOf (once : (ps.map (·.1.1)).Nodup) (direct : Bool) : ((bytesOf ps direct).map Prod.fst).Nodup := by
  rw [bytesOf, List.map_map]
  exact (List.filter_sublist.map _).nodup once

theorem copyPut_eq (s : State) : s.copyPut c ps = (((s.strays c.asid (ps.map (·.1.1))).l2Drop c.cluster fun a => (bytesOf ps true).any fun e => e.1 == a).homeWrite
    (bytesOf ps true)).sliceWrite c.cluster (bytesOf ps false) := by
  have direct : (fun e : (Nat × Bool) × Byte => e.1.2 == true) = fun e => e.1.2 := by
    funext e
    simp
  have cached : (fun e : (Nat × Bool) × Byte => e.1.2 == false) = fun e => !e.1.2 := by
    funext e
    simp
  unfold State.copyPut bytesOf
  rw [direct, cached]

variable (hl : s.harts.lines = []) (once : (ps.map (·.1.1)).Nodup) (near : ∀ e ∈ ps, e.1.1 < 2 ^ 51)
  (present : ∀ e ∈ ps, s.absentAt e.1.1 = false)
include hl once near present

/-- A copy sees the bytes that it puts into memory (R86, R185). -/
theorem copySees_copyPut {e : (Nat × Bool) × Byte} (he : e ∈ ps) : (s.copyPut c ps).copySees c e.1 = e.2 := by
  obtain ⟨⟨a, direct⟩, b⟩ := e
  have far : a < 2 ^ 52 := lt_trans (near _ he) (by norm_num)
  rw [copyPut_eq, State.copySees]
  cases direct with
  | false =>
    have found : FMap.find (bytesOf ps false) a = some b := FMap.find_of_nodup (nodup_bytesOf once false) (mem_bytesOf he)
    rw [if_neg Bool.false_ne_true, State.sliceByte, State.sliceWrite, Caches.l2Write]
    dsimp only
    rw [FMap.find_puts _ (unitKey c.cluster) (fun b => (⟨b, true⟩ : L2Byte)) (unitKey_inj _) (nodup_bytesOf once false), found]
    rfl
  | true =>
    have listed : (a, b) ∈ bytesOf ps true := mem_bytesOf he
    let v := (s.strays c.asid (ps.map (·.1.1))).l2Drop c.cluster fun a => (bytesOf ps true).any fun e => e.1 == a
    have gone : v.caches.l2.find (unitKey c.cluster a) = none := by
      refine (FMap.find_filter _ (fun k => !(keyUnit k == c.cluster && (bytesOf ps true).any fun e => e.1 == keyAddr k)) _).trans ?_
      have hit : ((bytesOf ps true).any fun e => e.1 == a) = true := List.any_eq_true.2 ⟨_, listed, beq_self_eq_true _⟩
      simp [keyUnit_unitKey _ far, keyAddr_unitKey _ far, hit]
    have all : ((bytesOf ps true).filter fun e => !v.absentAt e.1) = bytesOf ps true := List.filter_eq_self.2 fun e he => by
      obtain ⟨x, hx, rfl⟩ := List.mem_map.1 he
      have here : v.absentAt x.1.1 = false := present x (List.mem_filter.1 hx).1
      simp [here]
    have home : AtHome (v.homeWrite (bytesOf ps true)) c.cluster a b := by
      obtain ⟨ue, ⟨hm, hc, hh⟩, -⟩ := homeWrite_of_noLines (s := v) hl (bytesOf ps true)
      refine ⟨hh, ?_, ?_⟩
      · rw [hc]
        exact gone
      · rw [hm, all]
        refine (FMap.get_sets (bytesOf ps true) id 0#8 (fun _ _ e => e) (nodup_bytesOf once true) v.mem a).trans ?_
        exact congrArg (fun x => Option.getD x (FMap.get 0#8 v.mem a)) (FMap.find_of_nodup (nodup_bytesOf once true) listed)
    have room := List.foldlRecOn (linesOf ((bytesOf ps false).map (·.1))) (fun s l => s.roomL2 c.cluster l) (motive := fun u => AtHome u c.cluster a b) home
      fun u hu l _ => hu.roomL2 far l
    rw [if_pos rfl]
    exact room.homeRead

end

end Sys2Proof.Claims
end

section
/-!
PROOF. One unit of a copy: what it reads, and the state it leaves in each of its three destinations (R86, R89, R92, R93).
-/

namespace Sys2Proof.Claims

open Sys2Proof.Machine

/-! ## Words of the scratchpad -/

theorem getByte_word32Of (b0 b1 b2 b3 : Byte) {j : Nat} (hj : j < 4) :
    ((word32Of [b0, b1, b2, b3]) >>> (8 * j)).setWidth 8 = [b0, b1, b2, b3].getD j 0#8 := by
  have h0 := b0.isLt
  have h1 := b1.isLt
  have h2 := b2.isLt
  have h3 := b3.isLt
  apply BitVec.eq_of_toNat_eq
  simp only [word32Of, numOfBytes, List.foldr_cons, List.foldr_nil, BitVec.toNat_setWidth, BitVec.toNat_ushiftRight, BitVec.toNat_ofNat,
    Nat.shiftRight_eq_div_pow]
  obtain rfl | rfl | rfl | rfl : j = 0 ∨ j = 1 ∨ j = 2 ∨ j = 3 := by omega
  all_goals
    simp only [List.getD_eq_getElem?_getD, List.getElem?_cons_zero, List.getElem?_cons_succ, Option.getD_some]
    omega

theorem getByte_leBytes (w : Word32) {j : Nat} (hj : j < 4) : (leBytes 4 w.toNat).getD j 0#8 = (w >>> (8 * j)).setWidth 8 := by
  have hw := w.isLt
  apply BitVec.eq_of_toNat_eq
  simp only [BitVec.toNat_setWidth, BitVec.toNat_ushiftRight, Nat.shiftRight_eq_div_pow, leBytes]
  obtain rfl | rfl | rfl | rfl : j = 0 ∨ j = 1 ∨ j = 2 ∨ j = 3 := by omega
  all_goals simp only [List.getD_eq_getElem?_getD, List.getElem?_cons_zero, List.getElem?_cons_succ, Option.getD_some, BitVec.toNat_ofNat]
  all_goals omega

/-- A word with one byte replaced. -/
theorem getByte_set (w : Word32) (b : Byte) {i j : Nat} (hi : i < 4) (hj : j < 4) :
    ((word32Of ((leBytes 4 w.toNat).set i b)) >>> (8 * j)).setWidth 8 = if j = i then b else (w >>> (8 * j)).setWidth 8 := by
  have four : ∃ b0 b1 b2 b3 : Byte, (leBytes 4 w.toNat).set i b = [b0, b1, b2, b3] := by
    obtain rfl | rfl | rfl | rfl : i = 0 ∨ i = 1 ∨ i = 2 ∨ i = 3 := by omega
    all_goals exact ⟨_, _, _, _, rfl⟩
  obtain ⟨b0, b1, b2, b3, h⟩ := four
  rw [h, getByte_word32Of _ _ _ _ hj, ← h, ← getByte_leBytes w hj]
  by_cases same : j = i
  · subst same
    simp [List.getD_eq_getElem?_getD, leBytes, hj]
  · rw [if_neg same, List.getD_eq_getElem?_getD, List.getD_eq_getElem?_getD, List.getElem?_set_ne (Ne.symm same)]

/-- The scratchpad after one byte of a copy (R89). -/
def spmByteSet (m : FMap LaneVal) (e : Nat × Byte) : FMap LaneVal :=
  spmPut m (e.1 / 4) ⟨word32Of ((leBytes 4 (m.get LaneVal.zero (e.1 / 4)).bits.toNat).set (e.1 % 4) e.2), false⟩

theorem copySpm_eq (m : FMap LaneVal) (bytes : List (Nat × Byte)) : copySpm m bytes = bytes.foldl spmByteSet m := rfl

theorem spmByte_set (m : FMap LaneVal) (e : Nat × Byte) (a : Nat) : spmByte (spmByteSet m e) a = if a = e.1 then e.2 else spmByte m a := by
  unfold spmByte spmByteSet spmPut
  rw [FMap.get_set]
  by_cases word : a / 4 = e.1 / 4
  · rw [if_pos word, getByte_set _ _ (Nat.mod_lt _ (by norm_num)) (Nat.mod_lt _ (by norm_num)), word]
    by_cases same : a = e.1
    · rw [if_pos same, if_pos (by rw [same])]
    · rw [if_neg same, if_neg fun low => same (by omega)]
  · rw [if_neg word, if_neg fun same => word (by rw [same])]

theorem spmPoison_set (m : FMap LaneVal) (e : Nat × Byte) (w : Nat) :
    ((spmByteSet m e).get LaneVal.zero w).p = if w = e.1 / 4 then false else (m.get LaneVal.zero w).p := by
  unfold spmByteSet spmPut
  rw [FMap.get_set]
  split <;> rfl

/-- The bytes that a copy leaves in the scratchpad, no byte twice (R89). -/
theorem spmByte_copySpm {bytes : List (Nat × Byte)} (once : (bytes.map Prod.fst).Nodup) (m : FMap LaneVal) (a : Nat) :
    spmByte (copySpm m bytes) a = (FMap.find bytes a).getD (spmByte m a) := by
  rw [copySpm_eq]
  induction bytes generalizing m with
  | nil => rfl
  | cons e t ih =>
    obtain ⟨first, rest⟩ := List.nodup_cons.1 once
    rw [List.foldl_cons, ih rest, spmByte_set, FMap.find_cons]
    by_cases same : e.1 = a
    · subst same
      simp [FMap.find_none_of_notMem first]
    · rw [if_neg same, if_neg (Ne.symm same)]

/-- The words that a copy writes lose their poison (R89). -/
theorem spmPoison_copySpm (bytes : List (Nat × Byte)) (m : FMap LaneVal) (w : Nat) :
    ((copySpm m bytes).get LaneVal.zero w).p = if w ∈ bytes.map (fun e => e.1 / 4) then false else (m.get LaneVal.zero w).p := by
  rw [copySpm_eq]
  induction bytes generalizing m with
  | nil => rfl
  | cons e t ih =>
    rw [List.foldl_cons, ih, spmPoison_set, List.map_cons]
    by_cases hit : w = e.1 / 4
    · simp [hit]
    · simp only [List.mem_cons, hit, false_or, if_false]

/-! ## Places in a row -/

theorem nodup_span (x : Nat) (bs : List Byte) : ((((List.range bs.length).map (x + ·)).zip bs).map Prod.fst).Nodup := by
  rw [FMap.map_fst_zip (by simp)]
  exact List.nodup_range.map fun _ _ => Nat.add_left_cancel

theorem find_span {x i : Nat} (bs : List Byte) (hi : i < bs.length) :
    FMap.find (((List.range bs.length).map (x + ·)).zip bs) (x + i) = some (bs.getD i 0#8) := by
  have at_i : ((List.range bs.length).map (x + ·)).getD i 0 = x + i := by
    simp [List.getD_eq_getElem?_getD, List.getElem?_range hi]
  have found := FMap.find_zip (ks := (List.range bs.length).map (x + ·)) (vs := bs) (List.nodup_range.map fun _ _ => Nat.add_left_cancel) (by simp) hi 0#8
  rwa [at_i] at found

/-! ## What a unit reads -/

section
variable {s : State} {c : Copy} {ps : List (Nat × Bool)} {bs : List Byte}

/-- Plain bytes that the copy has not written are read as they stand (R89, R91). -/
theorem copyRead_of_unitReads (h : UnitReads s c ps bs) :
    s.copyRead c (copyDesc c.block) ((copyDesc c.block).srcAt c.unit).1 ((copyDesc c.block).srcAt c.unit).2 = .ok bs ps ∧
      c.overlaps (copyDesc c.block) ((copyDesc c.block).srcAt c.unit) ps = false := by
  unfold UnitReads at h
  unfold State.copyRead Copy.overlaps
  dsimp only at h
  by_cases spm : (copyDesc c.block).ssp = true
  · rw [if_pos spm] at h
    obtain ⟨rfl, unwritten, plain, rfl⟩ := h
    rw [if_pos spm, if_pos spm]
    have noTok (i : Nat) (hi : i < ((copyDesc c.block).srcAt c.unit).2) :
        c.spmTok s.tick (s.wgAt c.wg).scratch (((copyDesc c.block).srcAt c.unit).1.toNat + i) = none := by
      unfold Copy.spmTok
      simp [unwritten, plain i hi]
    have clean : ((List.range ((copyDesc c.block).srcAt c.unit).2).map (((copyDesc c.block).srcAt c.unit).1.toNat + ·)).findSome?
        (c.spmTok s.tick (s.wgAt c.wg).scratch) = none := by
      rw [List.findSome?_eq_none_iff]
      intro a ha
      obtain ⟨i, hi, rfl⟩ := List.mem_map.1 ha
      exact noTok i (List.mem_range.1 hi)
    refine ⟨?_, by simp [unwritten]⟩
    simp only [clean]
    simp [Copy.spmLoad, unwritten, Function.comp_def]
  · rw [if_neg spm] at h
    obtain ⟨run, stored, rfl⟩ := h
    rw [if_neg spm, if_neg spm, run]
    have seen : ps.map (s.copyLoad c) = ps.map (s.copySees c) := List.map_congr_left fun p hp => by
      obtain ⟨near, unwritten⟩ := stored p hp
      simp [State.copyLoad, near, unwritten]
    refine ⟨congrArg (CopyRead.ok · ps) seen, ?_⟩
    rw [List.any_eq_false]
    intro p hp
    simp [(stored p hp).2]

theorem setCopy_wgAt (s : State) (id : Nat) (c : Copy) (k : Nat) : (s.setCopy id c).wgAt k = s.wgAt k := rfl

/-- A unit that reads plain bytes is converted and written (R86). -/
theorem copyUnit_of_unitReads (id : Nat) (h : UnitReads s c ps bs) {r : List Byte × BitVec 6}
    (hr : r = copyConvert (copyDesc c.block) bs ((copyDesc c.block).firstElem c.unit % max 1 (fmtElems (copyDesc c.block).sfmt)))
    {c' : Copy} {t : State} (written : (s.copyTouch c ps).copyWrite id c (copyDesc c.block) ((copyDesc c.block).dstAt c.unit) r.1 = .ok (c', t)) :
    s.copyUnit id c (copyDesc c.block) = t.setCopy id (c'.advance (copyDesc c.block) r.2) := by
  obtain ⟨read, apart⟩ := copyRead_of_unitReads h
  subst hr
  unfold State.copyUnit
  simp only [read, apart, Bool.false_eq_true, if_false, written]

theorem noLines_of_fillL2 {s : State} (hl : s.harts.lines = []) (cl line : Nat) : (s.fillL2 cl line).harts.lines = [] := by
  have room : (s.roomL2 cl line).harts.lines = [] := by
    unfold State.roomL2
    split
    · exact noLines_of_giveUp hl cl _ _
    · exact hl
  unfold State.fillL2
  dsimp only
  split
  · exact hl
  · exact (homeTouches_still room _).harts

/-- The reads of a unit change memory and the caches, and use up a free value (R198). -/
theorem copyTouch_eq (s : State) (c : Copy) (ps : List (Nat × Bool)) :
    ∃ u, OnlyMemory s u ∧ (s.harts.lines = [] → u.harts.lines = []) ∧ ∃ tick, s.copyTouch c ps = { u with tick := tick } := by
  let near := ps.filter fun p => !isRemote p.1
  let touched := s.homeTouches ((near.filter (·.2)).map (·.1))
  let u := (linesOf ((near.filter fun p => !p.2).map (·.1))).foldl (fun s l => s.fillL2 c.cluster l) touched
  refine ⟨u, (homeTouches_onlyMemory ..).trans (.foldl _ fun u l => fillL2_onlyMemory u c.cluster l), fun hl => ?_, ?_⟩
  · exact noLines_of_foldl (fun _ l hu => noLines_of_fillL2 hu c.cluster l) _ (homeTouches_still hl _).harts
  · unfold State.copyTouch
    dsimp only
    split
    · exact ⟨_, rfl⟩
    · exact ⟨u.tick, rfl⟩

theorem noLines_of_copyTouch (hl : s.harts.lines = []) (c : Copy) (ps : List (Nat × Bool)) : (s.copyTouch c ps).harts.lines = [] := by
  obtain ⟨u, -, lines, tick, h⟩ := copyTouch_eq s c ps
  rw [h]
  exact lines hl

theorem copyTouch_wgs (s : State) (c : Copy) (ps : List (Nat × Bool)) : (s.copyTouch c ps).wgs = s.wgs := by
  obtain ⟨u, ⟨frame, -⟩, -, tick, h⟩ := copyTouch_eq s c ps
  rw [h, frame]

end

/-! ## What a unit writes -/

section
variable {s : State} {c : Copy}

/-- A run of bytes that can be stored: one place per byte, none in an absent run (R86, R463). -/
theorem copyRun_store {n : Nat} {x : Int} {qs : List (Nat × Bool)} (h : s.copyRun c .store n x = .ok qs) :
    qs.length = n ∧ ∀ q ∈ qs, isRemote q.1 = false → s.absentAt q.1 = false := by
  induction n generalizing x qs with
  | zero =>
    obtain rfl : [] = qs := by simpa [State.copyRun] using h
    exact ⟨rfl, nofun⟩
  | succ n ih =>
    unfold State.copyRun at h
    split at h
    · cases h
    · next p _ =>
      split at h
      · cases h
      · next fits =>
        split at h
        · next l run =>
          obtain ⟨len, present⟩ := ih run
          obtain rfl : p :: l = qs := by simpa using h
          refine ⟨by simp [len], fun q hq near => ?_⟩
          rcases List.mem_cons.1 hq with rfl | hq
          · simpa [near, State.unfit] using fits
          · exact present q hq near
        · cases h

theorem advance_counts (c : Copy) (d : CopyDesc) (fl : BitVec 6) (h : d.dws = false) :
    (c.advance d fl).unit = c.unit + 1 ∧ (c.advance d fl).done = c.done + 1 ∧ (c.advance d fl).flags = c.flags ||| fl ∧
      (c.finished = false → (c.advance d fl).finished = decide (d.units ≤ c.unit + 1)) := by
  unfold Copy.advance
  dsimp only
  split
  · next more => exact ⟨rfl, rfl, rfl, fun runs => by simp [runs, Nat.not_le.2 more]⟩
  · next last =>
    rw [h]
    exact ⟨rfl, rfl, rfl, fun _ => by simpa using last⟩

theorem copyKeeps_counts (s : State) (x : Int) (ps : List ((Nat × Bool) × Byte)) (free : c.commit = none) :
    ∃ alt, s.copyKeeps c x ps = { c with alt := alt } := by
  unfold State.copyKeeps
  rw [free]
  exact ⟨_, rfl⟩

/-- A unit's bytes land at their places where none of them is remote (R86). -/
theorem copyWrite_lands (id : Nat) {d : CopyDesc} {x : Int} {bs : List Byte} {at_ : List (Nat × Bool)} (plain : d.dws = false) (free : c.commit = none)
    (places : s.copyPlaces c d x bs.length = .ok at_) (near : ∀ q ∈ at_, q.1 < 2 ^ 60 → isRemote q.1 = false) :
    ∃ alt, s.copyWrite id c d x bs = .ok ({ c with alt := alt }, s.copyLand c (at_.zip bs)) := by
  let away (e : (Nat × Bool) × Byte) : Bool := decide (e.1.1 < 2 ^ 60) && isRemote e.1.1
  have stays (e : (Nat × Bool) × Byte) (he : e ∈ at_.zip bs) : away e = false := by
    simpa [away] using near e.1 (List.of_mem_zip he).1
  have all : ((at_.zip bs).filter fun e => !away e) = at_.zip bs := List.filter_eq_self.2 fun e he => by simp [stays e he]
  have none_ : (at_.zip bs).filter away = [] := List.filter_eq_nil_iff.2 fun e he => by simp [stays e he]
  obtain ⟨alt, keeps⟩ := copyKeeps_counts s x (at_.zip bs) free
  refine ⟨alt, ?_⟩
  unfold State.copyWrite
  rw [plain, if_neg Bool.false_ne_true, places]
  show Except.ok (s.copyKeeps c x ((at_.zip bs).filter fun e => !away e), if c.commit.isSome then _ else
    (s.sendRemote none (some (.copy id)) c.asid (pagesOf bs.length [x.toNat]) (((at_.zip bs).filter away).map fun e => (e.1.1, e.2))).copyLand c
      ((at_.zip bs).filter fun e => !away e)) = _
  rw [all, none_, keeps, free]
  rfl

variable {id : Nat} {ps : List (Nat × Bool)} {bs : List Byte} (here : s.eng.copies.find id = some c) (started : c.started = true)
  (runs : c.finished = false) (reads : UnitReads s c ps bs)
include here started runs reads

/-- A unit leaves its bytes in memory (R86, R279). -/
theorem tcopyUnit_memory {r : List Byte × BitVec 6}
    (hr : r = copyConvert (copyDesc c.block) bs ((copyDesc c.block).firstElem c.unit % max 1 (fmtElems (copyDesc c.block).sfmt)))
    (plain : (copyDesc c.block).dws = false) (memory : (copyDesc c.block).dsp = false) (free : c.commit = none) (hl : s.harts.lines = [])
    {qs : List (Nat × Bool)} (run : (s.copyTouch c ps).copyRun c .store r.1.length ((copyDesc c.block).dstAt c.unit) = .ok qs)
    (once : (qs.map (·.1)).Nodup) (near : ∀ q ∈ qs, q.1 < 2 ^ 51) :
    Goes (.tcopyUnit id) s fun t => (∀ i, i < r.1.length → t.copySees c (qs.getD i (0, false)) = r.1.getD i 0#8) ∧
      ∃ c', t.eng.copies.find id = some c' ∧ c'.unit = c.unit + 1 ∧ c'.done = c.done + 1 ∧ c'.flags = c.flags ||| r.2 ∧
        c'.finished = decide ((copyDesc c.block).units ≤ c.unit + 1) := by
  obtain ⟨len, present⟩ := copyRun_store run
  let u := s.copyTouch c ps
  have places : u.copyPlaces c (copyDesc c.block) ((copyDesc c.block).dstAt c.unit) r.1.length = .ok qs := by
    unfold State.copyPlaces
    rw [memory, if_neg Bool.false_ne_true]
    exact run
  obtain ⟨alt, written⟩ := copyWrite_lands id plain free places fun q hq _ => isRemote_of_lt (near q hq)
  have memoryOnly : u.copyLand c (qs.zip r.1) = u.copyPut c (qs.zip r.1) := by
    have low (e : (Nat × Bool) × Byte) (he : e ∈ qs.zip r.1) : e.1.1 < 2 ^ 60 := lt_trans (near _ (List.of_mem_zip he).1) (by norm_num)
    have spm : ((qs.zip r.1).filter fun e => decide (2 ^ 60 ≤ e.1.1)) = [] := List.filter_eq_nil_iff.2 fun e he => by
      simpa using low e he
    have rest : ((qs.zip r.1).filter fun e => decide (e.1.1 < 2 ^ 60)) = qs.zip r.1 := List.filter_eq_self.2 fun e he => by
      simpa using low e he
    unfold State.copyLand
    rw [spm, rest]
    rfl
  rw [memoryOnly] at written
  have unit := copyUnit_of_unitReads id reads hr written
  obtain ⟨units, done, flags, finished⟩ := advance_counts { c with alt := alt } (copyDesc c.block) r.2 plain
  refine ⟨_, (exec_tcopyUnit here started runs plain).trans (congrArg _ unit), fun i hi => ?_, _, FMap.find_put_same .., units, done, flags, finished runs⟩
  have keys : ((qs.zip r.1).map (·.1.1)).Nodup := by
    have firsts : (qs.zip r.1).map (Prod.fst ∘ Prod.fst) = qs.map Prod.fst := by
      rw [← List.map_map, List.map_fst_zip (le_of_eq len)]
    exact firsts ▸ once
  have listed : (qs.getD i (0, false), r.1.getD i 0#8) ∈ qs.zip r.1 := FMap.mem_zip len hi (0, false) 0#8
  exact copySees_copyPut c (noLines_of_copyTouch hl c ps) keys (fun e he => near _ (List.of_mem_zip he).1)
    (fun e he => present _ (List.of_mem_zip he).1 (isRemote_of_lt (near _ (List.of_mem_zip he).1))) listed

/-- A unit leaves its bytes in the scratchpad, and clears the poison of their words (R86, R89). -/
theorem tcopyUnit_scratchpad {r : List Byte × BitVec 6}
    (hr : r = copyConvert (copyDesc c.block) bs ((copyDesc c.block).firstElem c.unit % max 1 (fmtElems (copyDesc c.block).sfmt)))
    (plain : (copyDesc c.block).dws = false) (spm : (copyDesc c.block).dsp = true) (free : c.commit = none) (wg : (s.wgs.find c.wg).isSome = true) :
    let x := (copyDesc c.block).dstAt c.unit
    Goes (.tcopyUnit id) s fun t => (∀ i, i < r.1.length → spmByte (t.wgAt c.wg).scratch (x.toNat + i) = r.1.getD i 0#8 ∧
        ((t.wgAt c.wg).scratch.get LaneVal.zero ((x.toNat + i) / 4)).p = false) ∧
      ∃ c', t.eng.copies.find id = some c' ∧ c'.unit = c.unit + 1 ∧ c'.done = c.done + 1 ∧ c'.flags = c.flags ||| r.2 := by
  intro x
  let u := s.copyTouch c ps
  let at_ : List (Nat × Bool) := (List.range r.1.length).map fun i =>
    (spmAlt (x.toNat + i), ((u.wgAt c.wg).scratch.get LaneVal.zero ((x.toNat + i) / 4)).p)
  have places : u.copyPlaces c (copyDesc c.block) x r.1.length = .ok at_ := by
    unfold State.copyPlaces
    rw [spm, if_pos rfl]
  have high (q : Nat × Bool) (hq : q ∈ at_) : 2 ^ 60 ≤ q.1 := by
    obtain ⟨i, -, rfl⟩ := List.mem_map.1 hq
    exact Nat.le_add_right ..
  obtain ⟨alt, written⟩ := copyWrite_lands id plain free places fun q hq low => absurd (high q hq) (Nat.not_le.2 low)
  obtain ⟨units, done, flags, -⟩ := advance_counts { c with alt := alt } (copyDesc c.block) r.2 plain
  refine ⟨_, (exec_tcopyUnit here started runs plain).trans (congrArg _ (copyUnit_of_unitReads id reads hr written)), fun i hi => ?_, _,
    FMap.find_put_same .., units, done, flags⟩
  have lands : (u.copyLand c (at_.zip r.1)).wgAt c.wg =
      { u.wgAt c.wg with scratch := copySpm (u.wgAt c.wg).scratch (((List.range r.1.length).map (x.toNat + ·)).zip r.1) } := by
    have all : ((at_.zip r.1).filter fun e => decide (2 ^ 60 ≤ e.1.1)) = at_.zip r.1 := List.filter_eq_self.2 fun e he => by
      simpa using high _ (List.of_mem_zip he).1
    have bytes : (at_.zip r.1).map (fun e => (e.1.1 - 2 ^ 60, e.2)) = ((List.range r.1.length).map (x.toNat + ·)).zip r.1 := by
      have low (i : Nat) : spmAlt i - 2 ^ 60 = i := Nat.add_sub_cancel_left ..
      simp only [at_, List.zip_map_left, List.map_map, Function.comp_def, Prod.map_fst, Prod.map_snd, low]
      rfl
    have some_ : (at_.zip r.1).isEmpty = false := by
      have len : (at_.zip r.1).length = r.1.length := by simp [at_]
      exact List.isEmpty_eq_false_iff.2 (List.ne_nil_of_length_pos (by omega))
    have held : (u.wgs.find c.wg).isNone = false := by
      rw [copyTouch_wgs]
      simpa using wg
    unfold State.copyLand
    dsimp only
    rw [all, some_, held, bytes, Bool.or_self, if_neg Bool.false_ne_true, copyPut_wgAt]
    exact State.wgAt_setWgAt_same ..
  rw [setCopy_wgAt, lands, spmByte_copySpm (nodup_span ..), find_span _ hi, spmPoison_copySpm, if_pos]
  · exact ⟨rfl, rfl⟩
  · exact List.mem_map.2 ⟨_, FMap.mem_of_find (find_span (x := x.toNat) _ hi), rfl⟩

/-- A unit waits for a weight-store bank in refresh, and else leaves its bytes there (R92, R93). -/
theorem tcopyUnit_weights {r : List Byte × BitVec 6}
    (hr : r = copyConvert (copyDesc c.block) bs ((copyDesc c.block).firstElem c.unit % max 1 (fmtElems (copyDesc c.block).sfmt)))
    (ws : (copyDesc c.block).dws = true) {die : Nat} (on : c.die = some die) :
    let x := (copyDesc c.block).dstAt c.unit
    let bank := x.toNat / 2 ^ 26
    let busy := 512 * bank ≤ s.dieCyc die % 8192 ∧ s.dieCyc die % 8192 < 512 * bank + 96
    (busy → Goes (.tcopyUnit id) s (· = s)) ∧
    (¬ busy → Goes (.tcopyUnit id) s fun t => ∀ i, i < r.1.length → t.caches.weights.get 0#8 (2 ^ 30 * die + (x.toNat + i)) = r.1.getD i 0#8) := by
  intro x bank busy
  have same : { c with die := some die } = c := by rw [← on]
  have run : exec (.tcopyUnit id) s = if inRefresh (s.dieCyc die) bank then .next s else .next (s.copyUnit id c (copyDesc c.block)) := by
    show execTcopyUnit id s = _
    unfold execTcopyUnit
    rw [here]
    dsimp only
    rw [if_neg (by simp [started, runs]), if_pos ws, on]
    simp only [Option.orElse_some, same]
    rfl
  have refresh : inRefresh (s.dieCyc die) bank = true ↔ busy := decide_eq_true_iff
  refine ⟨fun waits => ⟨s, run.trans (if_pos (refresh.2 waits)), rfl⟩, fun clear => ?_⟩
  let u := s.copyTouch c ps
  let bytes := ((List.range r.1.length).map (x.toNat + ·)).zip r.1
  have written : ∃ t, u.copyWrite id c (copyDesc c.block) x r.1 = .ok (c, t) ∧
      t.caches.weights = bytes.foldl (fun m e => m.set 0#8 (2 ^ 30 * die + e.1) e.2) u.caches.weights := by
    unfold State.copyWrite
    rw [ws, if_pos rfl, on]
    exact ⟨_, rfl, rfl⟩
  obtain ⟨t, written, weights⟩ := written
  refine ⟨_, (run.trans (if_neg fun h => clear (refresh.1 h))).trans (congrArg _ (copyUnit_of_unitReads id reads hr written)), fun i hi => ?_⟩
  show FMap.get 0#8 t.caches.weights _ = _
  rw [weights, FMap.get_sets bytes (2 ^ 30 * die + ·) 0#8 (fun _ _ => Nat.add_left_cancel) (nodup_span ..), find_span _ hi]
  rfl

end

end Sys2Proof.Claims
end

section
/-!
PROOF. Launch ports and kernel tables (R130, R132, R138).
-/

namespace Sys2Proof.Claims

open Sys2Proof.Machine

/-! ## Launch ports -/

theorem find_span_outside {x a : Nat} (bs : List Byte) (ha : ¬ (x ≤ a ∧ a < x + bs.length)) :
    FMap.find (((List.range bs.length).map (x + ·)).zip bs) a = none := by
  refine FMap.find_none_of_notMem fun hm => ha ?_
  rw [FMap.map_fst_zip (by simp)] at hm
  obtain ⟨i, hi, rfl⟩ := List.mem_map.1 hm
  have := List.mem_range.1 hi
  omega

/-- The start bytes of a window with a store laid over them (R130). -/
theorem get_stageBytes (m : FMap Byte) (offset : Nat) (data : List Byte) (i : Nat) : (stageBytes m offset data).get 0#8 i =
    if offset ≤ i ∧ i < offset + data.length then data.getD (i - offset) 0#8 else m.get 0#8 i := by
  have pairs : stageBytes m offset data =
      (((List.range data.length).map (offset + ·)).zip data).foldl (fun m e => m.set 0#8 (id e.1) e.2) m := by
    rw [List.zip_map_left, List.foldl_map]
    rfl
  rw [pairs]
  refine (FMap.get_sets _ id 0#8 (fun _ _ e => e) (nodup_span ..) m i).trans ?_
  split
  · next inside =>
    obtain ⟨j, rfl⟩ := Nat.exists_eq_add_of_le inside.1
    rw [find_span data (by omega), Nat.add_sub_cancel_left]
    rfl
  · next outside =>
    rw [find_span_outside data outside]
    rfl

theorem portStore_of_portTakes {s : State} {asid offset n : Nat} (h : portTakes s asid offset n) :
    s.portOpen asid (offset / 64) = true ∧ portStore offset n = true := by
  obtain ⟨opened, size, aligned, inside⟩ := h
  exact ⟨opened, by simp [portStore, size, aligned, inside]⟩

/-- A kernel-table block changes its context's table, and no other context (R138). -/
theorem tableEffect_ctxAt (s : State) (asid : Nat) (b : List Byte) :
    (s.tableEffect asid b).ctxAt asid = { s.ctxAt asid with kit := kitAfter (s.ctxAt asid).kit b } := by
  have ctxs : (s.tableEffect asid b).ctxs = (s.modCtxAt asid fun c => { c with kit := kitAfter c.kit b }).ctxs := by
    rw [(tableEffect_refetched s asid b).frame]
  rw [State.ctxAt, ctxs]
  exact State.ctxAt_setCtxAt_same ..

/-- A submission through a port leaves the ports' status words. -/
theorem portSubmit_pstat (s : State) (asid : Nat) (b : List Byte) : ((s.portSubmit asid b).2.ctxAt asid).pstat = (s.ctxAt asid).pstat := by
  unfold State.portSubmit
  split
  · split
    · rfl
    · dsimp only
      rw [tableEffect_ctxAt]
  · split
    · rfl
    · split <;> rfl

section
variable {s : State} {asid offset : Nat} {data : List Byte} (takes : portTakes s asid offset data.length)
include takes

/-- A store to the start of a window stages its bytes (R130). -/
theorem launchPortStage_goes (low : offset % 64 < 0x38) : Goes (.launchPortStage asid offset data) s fun t =>
    t = s.setCtxAt asid { s.ctxAt asid with port := (t.ctxAt asid).port } ∧
    ∀ i, (t.ctxAt asid).port.get 0#8 i = if offset ≤ i ∧ i < offset + data.length then data.getD (i - offset) 0#8 else (s.ctxAt asid).port.get 0#8 i := by
  obtain ⟨opened, aligned⟩ := portStore_of_portTakes takes
  have run : exec (.launchPortStage asid offset data) s =
      .next (s.setCtxAt asid { s.ctxAt asid with port := stageBytes (s.ctxAt asid).port offset data }) := by
    show execLaunchPortStage asid offset data s = _
    unfold execLaunchPortStage
    rw [if_pos (by simp [opened, aligned, low])]
    rfl
  refine ⟨_, run, ?_, fun i => ?_⟩
  · rw [State.ctxAt_setCtxAt_same]
  · rw [State.ctxAt_setCtxAt_same]
    exact get_stageBytes ..

/-- A store to the end of a window enqueues the window, and PSTAT tells what came of it (R130, R132). -/
theorem launchPortEnqueue_goes (high : 0x38 ≤ offset % 64) : Goes (.launchPortEnqueue asid offset data) s fun t =>
    let b := windowBytes (s.ctxAt asid).port (offset / 64) offset data
    (t.ctxAt asid).pstat.get 0#64 (offset / 64) = pstatOf (s.portSubmit asid b).1.1 (s.portSubmit asid b).1.2
      (((s.ctxAt asid).pstat.get 0#64 (offset / 64)).toNat / 2 ^ 16 + if (s.portSubmit asid b).1.1 = 1 then 1 else 0) ∧
    (∀ i, i < 64 → (t.ctxAt asid).port.get 0#8 (64 * (offset / 64) + i) = 0#8) ∧ t.hub = (s.portSubmit asid b).2.hub ∧
    (fieldOf b 0 1 ≠ 4 → s.packetCheck b asid = none → s.queueFull (pktQueue b) = false →
      t.hub.queues.get [] (pktQueue b) = s.hub.queues.get [] (pktQueue b) ++ [(asid, b)]) := by
  let b := windowBytes (s.ctxAt asid).port (offset / 64) offset data
  obtain ⟨opened, aligned⟩ := portStore_of_portTakes takes
  let r := s.portSubmit asid b
  have run : exec (.launchPortEnqueue asid offset data) s = .next (r.2.modCtxAt asid fun c =>
      { c with
        port := (stageBytes (s.ctxAt asid).port offset data).filter fun e => e.1 / 64 != offset / 64,
        pstat := c.pstat.set 0#64 (offset / 64)
          (pstatOf r.1.1 r.1.2 ((c.pstat.get 0#64 (offset / 64)).toNat / 2 ^ 16 + if r.1.1 = 1 then 1 else 0)) }) := by
    show execLaunchPortEnqueue asid offset data s = _
    unfold execLaunchPortEnqueue
    dsimp only
    rw [if_pos (by simp [opened, aligned, high])]
    rfl
  refine ⟨_, run, ?_, fun i hi => ?_, rfl, fun packet passes room => ?_⟩
  · rw [State.modCtxAt, State.ctxAt_setCtxAt_same]
    dsimp only
    rw [FMap.get_set_same, portSubmit_pstat]
  · rw [State.modCtxAt, State.ctxAt_setCtxAt_same]
    dsimp only
    have window : (64 * (offset / 64) + i) / 64 = offset / 64 := by omega
    rw [FMap.get, FMap.find_filter _ fun k => k / 64 != offset / 64, window]
    simp
  · have taken : r = ((1, 0), s.enqueue asid b) := by
      show s.portSubmit asid b = _
      unfold State.portSubmit
      rw [if_neg packet, passes]
      exact if_neg (Bool.not_eq_true _ ▸ room)
    show r.2.hub.queues.get [] (pktQueue b) = _
    rw [taken]
    exact FMap.get_put_same ..

end

/-! ## Kernel tables -/

section
variable (asid op kidx desc : Nat)

theorem numOfBytes_leBytes (n x : Nat) : numOfBytes (leBytes n x) = x % 256 ^ n := by
  induction n generalizing x with
  | zero => simp [leBytes, numOfBytes, Nat.mod_one]
  | succ n ih =>
    show (BitVec.ofNat 8 x).toNat + 256 * numOfBytes (leBytes n (x / 256)) = _
    rw [ih, Nat.pow_succ', Nat.mod_mul, BitVec.toNat_ofNat]

theorem tableBlock_fields : fieldOf (tableBlock op kidx desc) 4 4 = op % 2 ^ 32 ∧ fieldOf (tableBlock op kidx desc) 8 4 = kidx % 2 ^ 32 ∧
    fieldOf (tableBlock op kidx desc) 16 8 = desc % 2 ^ 64 :=
  ⟨numOfBytes_leBytes 4 op, numOfBytes_leBytes 4 kidx, numOfBytes_leBytes 8 desc⟩

/-- The block of a checked command breaks no rule (R138). -/
theorem tableCheck_tableBlock {op kidx desc : Nat} (hop : op ≤ 1) (hk : kidx < 1024) (hd : desc < 2 ^ 64)
    (fits : if op = 0 then desc ≠ 0 ∧ desc % 256 = 0 else desc = 0) : tableCheck (tableBlock op kidx desc) = none := by
  obtain ⟨hop', hk', hd'⟩ := tableBlock_fields op kidx desc
  rw [Nat.mod_eq_of_lt (by omega)] at hop' hk' hd'
  have head : headBad (tableBlock op kidx desc) 4 32 = false := by
    have type : blockType (tableBlock op kidx desc) = 4 := rfl
    have version : fieldOf (tableBlock op kidx desc) 1 1 = 1 := rfl
    have size : blockSize (tableBlock op kidx desc) = 32 := rfl
    simp [headBad, type, version, size]
  have tail : tailBad (tableBlock op kidx desc) 32 = [] := rfl
  have pad : fieldOf (tableBlock op kidx desc) 12 4 = 0 := rfl
  have last : fieldOf (tableBlock op kidx desc) 24 8 = 0 := rfl
  unfold tableCheck
  dsimp only
  rw [hop', hk', hd', head, tail, pad, last]
  obtain rfl | rfl : op = 0 ∨ op = 1 := by omega
  · obtain ⟨some_, aligned⟩ : desc ≠ 0 ∧ desc % 256 = 0 := by simpa using fits
    simp [firstBad, highBits, hk, some_, aligned]
  · obtain rfl : desc = 0 := by simpa using fits
    simp [firstBad, highBits, hk]

/-- A checked block of a live context changes the entry that it names (R138). -/
theorem tableCommand_goes {s : State} {asid : Nat} {b : List Byte} (live : (s.ctxAt asid).live = true) (passes : tableCheck b = none) :
    ∃ t, s.tableCommand asid b = .next t ∧
      entryAfter s t asid (fieldOf b 8 4) (if fieldOf b 4 4 = 0 then some (fieldOf b 16 8) else none) := by
  refine ⟨s.tableEffect asid b, ?_, fun k => ?_⟩
  · unfold State.tableCommand
    rw [live, passes]
    rfl
  · rw [tableEffect_ctxAt]
    exact find_kitAfter ..

/-- A kernel-table command sets or clears its one entry (R138). -/
theorem kernelTable_goes {s : State} {asid kidx desc : Nat} (live : (s.ctxAt asid).live = true) (hk : kidx < 1024) :
    (desc ≠ 0 → desc % 256 = 0 → desc < 2 ^ 64 → Goes (.kernelTableReplace asid kidx desc) s fun t => entryAfter s t asid kidx (some desc)) ∧
      Goes (.kernelTableClear asid kidx) s fun t => entryAfter s t asid kidx none := by
  refine ⟨fun some_ aligned hd => ?_, ?_⟩
  · obtain ⟨t, run, entry⟩ := tableCommand_goes live (tableCheck_tableBlock (op := 0) (by omega) hk hd (by simp [some_, aligned]))
    obtain ⟨hop, hk', hd'⟩ := tableBlock_fields 0 kidx desc
    rw [hop, hk', hd', Nat.mod_eq_of_lt hd, Nat.mod_eq_of_lt (by omega : kidx < 2 ^ 32)] at entry
    exact ⟨t, run, entry⟩
  · obtain ⟨t, run, entry⟩ := tableCommand_goes live (tableCheck_tableBlock (op := 1) (desc := 0) (by omega) hk (by omega) (by simp))
    obtain ⟨hop, hk', -⟩ := tableBlock_fields 1 kidx 0
    rw [hop, hk', Nat.mod_eq_of_lt (by omega : kidx < 2 ^ 32)] at entry
    exact ⟨t, run, entry⟩


end

end Sys2Proof.Claims
end

section
/-!
PROOF. The hub dispatches launches and ends them (R135 to R137, R140, R310).
-/

namespace Sys2Proof.Claims

open Sys2Proof.Machine

/-! ## States that differ in the hub and in contexts' balances -/

/-- `u` is `s` but for the hub and what a context's energy comes to. -/
def SameRoot (s u : State) (asid : Nat) : Prop := (∃ hub ctxs, u = { s with hub := hub, ctxs := ctxs }) ∧
  ∃ bal rsv, u.ctxAt asid = { s.ctxAt asid with bal := bal, rsv := rsv }

section
variable {s u : State} {asid : Nat}

namespace SameRoot

variable (h : SameRoot s u asid)
include h

theorem homeRead : u.homeRead = s.homeRead := by
  obtain ⟨⟨hub, ctxs, rfl⟩, -⟩ := h
  rfl

theorem home64 : u.home64 = s.home64 := by
  obtain ⟨⟨hub, ctxs, rfl⟩, -⟩ := h
  rfl

theorem ueIn : u.ueIn = s.ueIn := by
  obtain ⟨⟨hub, ctxs, rfl⟩, -⟩ := h
  rfl

theorem unfit : u.unfit = s.unfit := by
  obtain ⟨⟨hub, ctxs, rfl⟩, -⟩ := h
  rfl

theorem nodeHeadOk : u.nodeHeadOk = s.nodeHeadOk := by
  obtain ⟨⟨hub, ctxs, rfl⟩, -⟩ := h
  rfl

theorem rangeEnt : u.rangeEnt = s.rangeEnt := by
  obtain ⟨⟨hub, ctxs, rfl⟩, -⟩ := h
  rfl

theorem binding : u.bindClass = s.bindClass ∧ u.tooLarge = s.tooLarge := by
  obtain ⟨⟨hub, ctxs, rfl⟩, -⟩ := h
  exact ⟨rfl, rfl⟩

/-- The walk down the tree reads memory alone. Its recursion is unfolded to the recursor here: an equation for one level, in which 512 bytes of
a node are looked at, is too deep for the elaborator to check. -/
theorem findRange (va fuel node : Nat) (level : Option Nat) : u.findRange va fuel node level = s.findRange va fuel node level := by
  delta State.findRange State.findRange._f
  simp only [h.homeRead, h.home64, h.ueIn, h.nodeHeadOk, h.rangeEnt]

theorem root : (u.ctxAt asid).root = (s.ctxAt asid).root := by
  obtain ⟨-, bal, rsv, ctx⟩ := h
  rw [ctx]

theorem walk (va : Nat) : u.walk asid va = s.walk asid va := by
  unfold State.walk
  rw [h.findRange, h.root, h.ueIn, h.home64]

theorem hubRead (va n : Nat) : u.hubRead asid va n = s.hubRead asid va n := by
  unfold State.hubRead State.hubAddrs
  simp only [h.walk, h.unfit, h.homeRead]

/-- What a dispatch comes to does not depend on the hub's queues, nor on the context's energy (R137). -/
theorem dispatchCheck (b : List Byte) : u.dispatchCheck asid b = s.dispatchCheck asid b := by
  obtain ⟨bind, large⟩ := h.binding
  unfold State.dispatchCheck
  simp only [h.hubRead, bind, large]
  obtain ⟨-, bal, rsv, ctx⟩ := h
  rw [ctx]
  rfl

end SameRoot

end

/-! ## The checks of a dispatch -/

section
variable {s : State} {asid : Nat} {b : List Byte} {desc : Nat} {bytes : List Byte}

theorem dispatchCheck_noEntry (h : (s.ctxAt asid).kit.find (pktKidx b) = none) : s.dispatchCheck asid b = .error 5 := by
  simp only [State.dispatchCheck, h]

theorem dispatchCheck_noDescriptor (entry : (s.ctxAt asid).kit.find (pktKidx b) = some desc) (h : s.hubRead asid desc 256 = none) :
    s.dispatchCheck asid b = .error 5 := by
  simp only [State.dispatchCheck, entry, h]

theorem quantum_fits {c : Ctx} (h : c.repro = true → 8 ≤ c.qlog ∧ c.qlog ≤ 16) :
    (c.repro && !(decide (8 ≤ c.qlog) && decide (c.qlog ≤ 16))) = false := by
  cases hr : c.repro
  · rfl
  · simp [h hr]

section
variable (entry : (s.ctxAt asid).kit.find (pktKidx b) = some desc) (read : s.hubRead asid desc 256 = some bytes)
include entry read

theorem dispatchCheck_contract (h : 6 ≤ (kernelOf bytes).con.toNat) : s.dispatchCheck asid b = .error 2 := by
  simp only [State.dispatchCheck, entry, read, if_pos h]

variable (con : (kernelOf bytes).con.toNat < 6)
include con

theorem dispatchCheck_fields (h : kernelOk bytes = false) : s.dispatchCheck asid b = .error 5 := by
  simp only [State.dispatchCheck, entry, read, if_neg (Nat.not_le.2 con), h, Bool.not_false, if_true]

variable (fields : kernelOk bytes = true)
include fields

theorem dispatchCheck_quantum (repro : (s.ctxAt asid).repro = true) (h : (s.ctxAt asid).qlog < 8 ∨ 16 < (s.ctxAt asid).qlog) :
    s.dispatchCheck asid b = .error 3 := by
  have bad : (decide (8 ≤ (s.ctxAt asid).qlog) && decide ((s.ctxAt asid).qlog ≤ 16)) = false := by
    rw [← Bool.decide_and, decide_eq_false_iff_not]
    omega
  simp only [State.dispatchCheck, entry, read, if_neg (Nat.not_le.2 con), fields, Bool.not_true, Bool.false_eq_true, if_false, repro, bad,
    Bool.not_false, Bool.and_self, if_true]

variable (quantum : (s.ctxAt asid).repro = true → 8 ≤ (s.ctxAt asid).qlog ∧ (s.ctxAt asid).qlog ≤ 16)
include quantum

theorem dispatchCheck_noClass (h : s.bindClass (kernelOf bytes).con.toNat = none) : s.dispatchCheck asid b = .error 1 := by
  simp only [State.dispatchCheck, entry, read, if_neg (Nat.not_le.2 con), fields, Bool.not_true, Bool.false_eq_true, if_false,
    quantum_fits quantum, h]

theorem dispatchCheck_bound {cls : Nat} (h : s.bindClass (kernelOf bytes).con.toNat = some cls) :
    (s.tooLarge (s.ctxAt asid) (kernelOf bytes) cls b = true → s.dispatchCheck asid b = .error 4) ∧
      (s.tooLarge (s.ctxAt asid) (kernelOf bytes) cls b = false → s.dispatchCheck asid b =
        .ok { kernelOf bytes with cls := BitVec.ofNat 2 cls, nat := (nativeClasses (kernelOf bytes).con.toNat).contains cls }) := by
  constructor <;> intro large <;>
    simp only [State.dispatchCheck, entry, read, if_neg (Nat.not_le.2 con), fields, Bool.not_true, Bool.false_eq_true, if_false,
      quantum_fits quantum, h, large, if_true]

end

/-- A dispatch fails with a status of one byte (R137). -/
theorem dispatchCheck_error {st : Nat} (h : s.dispatchCheck asid b = .error st) : st < 256 := by
  unfold State.dispatchCheck at h
  dsimp only at h
  repeat' split at h
  all_goals
    cases h
    try omega

end

/-! ## The end of a launch -/

theorem releaseAll_onlyMemory (s : State) : OnlyMemory s s.releaseAll :=
  (OnlyMemory.foldl _ fun u gc => wcbDrain_onlyMemory u gc).trans (.foldl _ fun u cl => l2WriteBack_onlyMemory u cl _)

/-- The record of a launch is released into memory; the launches, the contexts and the hub's queues stay (R140). -/
theorem endLaunch_parts (v : State) (asid : Nat) (packet record : List Byte) (mute : Bool) : let t := v.endLaunch asid packet record mute
    t.launches = v.launches ∧ t.ctxs = v.ctxs ∧ (∃ sem csem, t.hub = { v.hub with sem := sem, csem := csem }) ∧
      RecordAt v.releaseAll t asid (pktRec packet) record ∧
      (pktSigv packet = true → mute = false → v.semUsable true 0 (pktSigidx packet) asid = true →
        t.semCount true 0 (pktSigidx packet) = v.semCount true 0 (pktSigidx packet) + 1#32) := by
  intro t
  let r := v.releaseAll.writeRecord asid (pktRec packet) record
  obtain ⟨box, frame, -⟩ : OnlySent v r := (releaseAll_onlyMemory v).onlySent.trans (writeRecord_onlySent ..)
  obtain ⟨sem, csem, waves, belay, signalled⟩ : OnlyCounts r t := by
    unfold t State.endLaunch
    dsimp only
    split
    · exact semSignal_counts ..
    · exact .refl r
  have hub : r.hub = v.hub := by rw [frame]
  refine ⟨?_, ?_, ⟨sem, csem, ?_⟩, ?_, fun sigv heard usable => ?_⟩
  · rw [signalled]
    show r.launches = _
    rw [frame]
  · rw [signalled]
    show r.ctxs = _
    rw [frame]
  · rw [signalled, ← hub]
  · exact (recordAt_writeRecord v.releaseAll asid (pktRec packet) record).congr (by rw [signalled]) (by rw [signalled])
  · have same : r.semUsable true 0 (pktSigidx packet) asid = true ∧ r.semCount true 0 (pktSigidx packet) = v.semCount true 0 (pktSigidx packet) := by
      unfold State.semUsable State.semCount
      rw [hub]
      exact ⟨usable, rfl⟩
    rw [← same.2, ← semCount_semSignal same.1]
    unfold t State.endLaunch
    rw [sigv, heard]
    rfl

/-- A launch of which every workgroup is done ends with its record and its semaphore, and gives its hold back (R140, R310). -/
theorem launchComplete_goes {k : Nat} {s : State} {l : Launch} (here : s.launches.find k = some l) (placed : l.waiting = false)
    (done : pktNwg l.packet ≤ l.done) : let asid := k / 2 ^ 16
    Goes (.launchComplete k) s fun t => t.launches = s.launches.erase k ∧
      (t.ctxAt asid).bal = (s.ctxAt asid).bal + l.hold ∧ (t.ctxAt asid).rsv = (s.ctxAt asid).rsv + (if l.fromRsv then (l.hold : Int) else 0) ∧
      (∃ v : State, v = { s with launches := v.launches, ctxs := v.ctxs } ∧ (v.ctxAt asid).root = (s.ctxAt asid).root ∧
        RecordAt v.releaseAll t asid (pktRec l.packet) ([if l.killed = 0 then 0#8 else 6#8,
          BitVec.ofNat 8 (l.kern.cls.toNat + if l.kern.nat then 4 else 0), 0#8, 0#8] ++ leBytes 4 l.done ++ leBytes 8 (l.energy / 1000000) ++
          leBytes 8 l.tstart ++ leBytes 8 s.time)) ∧
      (pktSigv l.packet = true → l.mute = false → s.semUsable true 0 (pktSigidx l.packet) asid = true →
        t.semCount true 0 (pktSigidx l.packet) = s.semCount true 0 (pktSigidx l.packet) + 1#32) := by
  intro asid
  let v : State := ({ s with launches := s.launches.erase k } : State).setCtxAt asid ((s.ctxAt asid).giveBack l.hold l.fromRsv)
  let record := launchRecord (if l.killed = 0 then 0 else 6) l.kern.cls.toNat l.kern.nat l.done (l.energy / 1000000) l.tstart s.time
  have run : exec (.launchComplete k) s = .next (v.endLaunch asid l.packet record l.mute) := by
    have ended : l.over = true := by simp [Launch.over, placed, done]
    show execLaunchComplete k s = _
    unfold execLaunchComplete
    rw [here]
    simp only [ended, Bool.not_true, Bool.false_eq_true, if_false]
    rfl
  have own : v.ctxAt asid = (s.ctxAt asid).giveBack l.hold l.fromRsv := State.ctxAt_setCtxAt_same ..
  obtain ⟨launches, ctxs, -, recorded, signalled⟩ := endLaunch_parts v asid l.packet record l.mute
  have ctx : (v.endLaunch asid l.packet record l.mute).ctxAt asid = (s.ctxAt asid).giveBack l.hold l.fromRsv := by
    rw [State.ctxAt, ctxs]
    exact own
  refine ⟨_, run, launches, ?_, ?_, ⟨v, rfl, ?_, ?_⟩, signalled⟩
  · rw [ctx]
    rfl
  · rw [ctx]
    unfold Ctx.giveBack
    cases l.fromRsv <;> simp
  · rw [own]
    rfl
  · have status : BitVec.ofNat 8 (if l.killed = 0 then 0 else 6) = if l.killed = 0 then 0#8 else 6#8 := by split <;> rfl
    rw [← status, ← launchRecord_eq (by split <;> omega) l.kern.cls.isLt]
    exact recorded

/-! ## Dispatch -/

theorem hubTouch_onlyMemory (s : State) (asid va n : Nat) : OnlyMemory s (s.hubTouch asid va n) := homeTouches_onlyMemory ..

theorem dispatchTouch_onlyMemory (s : State) (asid : Nat) (b : List Byte) : OnlyMemory s (s.dispatchTouch asid b) := by
  unfold State.dispatchTouch
  dsimp only
  split
  · exact (hubTouch_onlyMemory ..).trans (.foldl _ fun u a => hubTouch_onlyMemory u asid a 32)
  · exact hubTouch_onlyMemory ..

theorem setAside_eq (c : Ctx) (e : Nat) : ∃ rsv, (c.setAside e).2 = { c with bal := c.bal - e, rsv := rsv } ∧
    (c.setAside e).2.giveBack e (c.setAside e).1 = c := by
  unfold Ctx.setAside
  split
  · exact ⟨_, rfl, by simp [Ctx.giveBack]⟩
  · exact ⟨_, rfl, by simp [Ctx.giveBack]⟩

/-- The machine once a queue's head has left it and the packet's energy is set aside (R136, R310). -/
def dequeued (s : State) (q asid : Nat) (b : List Byte) : State :=
  ({ s with hub := { s.hub with
      queues := s.hub.queues.put q ((s.hub.queues.get [] q).drop 1), lastDispatch := some s.now,
      dispatched := s.hub.dispatched + 1, lastQueue := s.hub.lastQueue.put (s.queuePrio q).toNat q } } : State).setCtxAt asid
    ((s.ctxAt asid).setAside (pktEest b)).2

/-- The launch that a dispatch makes (R137). -/
def launchOf (s : State) (q asid : Nat) (b : List Byte) (k : Kernel) : Launch :=
  { packet := b, queue := q, prio := s.queuePrio q, kern := k, repro := ((dequeued s q asid b).ctxAt asid).repro,
    order := (dequeued s q asid b).hub.dispatched, nextWg := 0, done := 0, killed := 0, energy := 0, hold := pktEest b, eest := pktEest b,
    fromRsv := ((s.ctxAt asid).setAside (pktEest b)).1, tstart := s.time, quantum := 0,
    ext := (dequeued s q asid b).extentTable asid (pktArgs b) k, seen := ([], []), mute := false }

section
variable {q : Nat} {s : State} {asid : Nat} {b : List Byte}

theorem sameRoot_dequeued : SameRoot s (dequeued s q asid b) asid := by
  obtain ⟨rsv, aside, -⟩ := setAside_eq (s.ctxAt asid) (pktEest b)
  refine ⟨⟨_, _, rfl⟩, (s.ctxAt asid).bal - pktEest b, rsv, ?_⟩
  rw [← aside]
  exact State.ctxAt_setCtxAt_same ..

variable (chosen : s.chosenQueue = some q) (head : s.headOf q = some (asid, b)) (late : ∀ d, s.hub.lastDispatch = some d → d + 20 ≤ s.now)
include chosen head late

/-- The hub takes the head of the chosen queue and checks it (R136, R137). -/
theorem exec_launchDispatch : exec (.launchDispatch q) s = match s.dispatchCheck asid b with
    | .error st =>
      .next ((((dequeued s q asid b).modCtxAt asid fun c => c.giveBack (pktEest b) ((s.ctxAt asid).setAside (pktEest b)).1).dispatchTouch asid b).endLaunch
        asid b (launchRecord st 0 false 0 0 s.time s.time) false)
    | .ok k =>
      .next ((((dequeued s q asid b).dispatchTouch asid b).setLaunchAt (launchKeyOf asid ((dequeued s q asid b).freeTag asid))
        (launchOf s q asid b k)).modCtxAt asid fun c => { c with nextTag := ((dequeued s q asid b).freeTag asid + 1) % 65536 }) := by
  rw [← (sameRoot_dequeued (s := s) (q := q) (asid := asid) (b := b)).dispatchCheck b]
  show execLaunchDispatch q s = _
  unfold execLaunchDispatch
  dsimp only
  rw [chosen, head, if_neg]
  swap
  · cases h : s.hub.lastDispatch with
    | none => simp
    | some d => simp [late d h]
  show (match (dequeued s q asid b).dispatchCheck asid b with | .error st => _ | .ok k => _) = _
  cases (dequeued s q asid b).dispatchCheck asid b <;> rfl

/-- A queue's head becomes a launch, or ends with the status of the check that fails (R136, R137, R140). -/
theorem launchDispatch_goes : Goes (.launchDispatch q) s fun t =>
      t.hub.queues.get [] q = (s.hub.queues.get [] q).tail ∧ t.hub.lastDispatch = some s.now ∧
      t.hub.dispatched = s.hub.dispatched + 1 ∧
      match s.dispatchCheck asid b with
      | .ok k => (t.ctxAt asid).bal = (s.ctxAt asid).bal - pktEest b ∧ ∃ l, t.launches = s.launches.put (launchKeyOf asid (s.freeTag asid)) l ∧
          l.packet = b ∧ l.queue = q ∧ l.prio = s.queuePrio q ∧ l.kern = k ∧ l.repro = (s.ctxAt asid).repro ∧ l.order = s.hub.dispatched + 1 ∧
          l.nextWg = 0 ∧ l.done = 0 ∧ l.killed = 0 ∧ l.energy = 0 ∧ l.hold = pktEest b ∧ l.tstart = s.time ∧ l.mute = false
      | .error st => t.launches = s.launches ∧ (t.ctxAt asid).bal = (s.ctxAt asid).bal ∧ (t.ctxAt asid).rsv = (s.ctxAt asid).rsv ∧
          ∃ v : State, v = { s with hub := v.hub, ctxs := v.ctxs } ∧ (v.ctxAt asid).root = (s.ctxAt asid).root ∧
            RecordAt (v.dispatchTouch asid b).releaseAll t asid (pktRec b)
              ([BitVec.ofNat 8 st] ++ List.replicate 15 0#8 ++ leBytes 8 s.time ++ leBytes 8 s.time) := by
  have run := exec_launchDispatch chosen head late
  obtain ⟨rsv, aside, restored⟩ := setAside_eq (s.ctxAt asid) (pktEest b)
  have own : (dequeued s q asid b).ctxAt asid = ((s.ctxAt asid).setAside (pktEest b)).2 := State.ctxAt_setCtxAt_same ..
  have gone : (dequeued s q asid b).hub.queues.get [] q = (s.hub.queues.get [] q).tail :=
    (FMap.get_put_same ..).trans List.drop_one
  cases check : s.dispatchCheck asid b with
  | ok k =>
    rw [check] at run
    have touched := (dispatchTouch_onlyMemory (dequeued s q asid b) asid b).1
    have hub : ((dequeued s q asid b).dispatchTouch asid b).hub = (dequeued s q asid b).hub := by rw [touched]
    have ctx : ((dequeued s q asid b).dispatchTouch asid b).ctxAt asid = ((s.ctxAt asid).setAside (pktEest b)).2 := by
      rw [← own, touched]
      rfl
    have tag : (dequeued s q asid b).freeTag asid = s.freeTag asid := by
      unfold State.freeTag
      rw [own, aside]
      rfl
    refine ⟨_, run, ?_, ?_, ?_, ?_, launchOf s q asid b k, ?_, rfl, rfl, rfl, rfl, ?_, rfl, rfl, rfl, rfl, rfl, rfl, rfl, rfl⟩
    · exact (congrArg (fun h => FMap.get [] h.queues q) hub).trans gone
    · exact congrArg Hub.lastDispatch hub
    · exact congrArg Hub.dispatched hub
    · rw [State.modCtxAt, State.ctxAt_setCtxAt_same, State.ctxAt_setLaunchAt, ctx, aside]
    · rw [← tag]
      show ((dequeued s q asid b).dispatchTouch asid b).launches.put _ _ = _
      rw [touched]
      rfl
    · show ((dequeued s q asid b).ctxAt asid).repro = _
      rw [own, aside]
  | error st =>
    rw [check] at run
    let v := (dequeued s q asid b).modCtxAt asid fun c => c.giveBack (pktEest b) ((s.ctxAt asid).setAside (pktEest b)).1
    have back : v.ctxAt asid = s.ctxAt asid := by
      unfold v
      rw [State.modCtxAt, State.ctxAt_setCtxAt_same, own, restored]
    have touched := (dispatchTouch_onlyMemory v asid b).1
    obtain ⟨launches, ctxs, ⟨sem, csem, hub⟩, recorded, -⟩ :=
      endLaunch_parts (v.dispatchTouch asid b) asid b (launchRecord st 0 false 0 0 s.time s.time) false
    have ctx : ((v.dispatchTouch asid b).endLaunch asid b (launchRecord st 0 false 0 0 s.time s.time) false).ctxAt asid = s.ctxAt asid := by
      rw [← back, State.ctxAt, ctxs, touched]
      rfl
    have hub' : (v.dispatchTouch asid b).hub = (dequeued s q asid b).hub := by
      rw [touched]
      rfl
    refine ⟨_, run, ?_, ?_, ?_, ?_, ?_, ?_, v, rfl, by rw [back], ?_⟩
    · rw [hub, hub']
      exact gone
    · rw [hub, hub']
      rfl
    · rw [hub, hub']
      rfl
    · rw [launches, touched]
      rfl
    · rw [ctx]
    · rw [ctx]
    · have bytes : launchRecord st 0 false 0 0 s.time s.time =
          [BitVec.ofNat 8 st] ++ List.replicate 15 0#8 ++ leBytes 8 s.time ++ leBytes 8 s.time :=
        launchRecord_eq (dispatchCheck_error check) (by omega) false 0 0 s.time s.time
      rw [← bytes]
      exact recorded

end

end Sys2Proof.Claims
end

section
/-!
PROOF. Placement: the first core that fits, in the order of R142, and the workgroup that is allocated there (R142, R143).
-/

namespace Sys2Proof.Claims

open Sys2Proof.Machine

/-! ## The order of the search -/

section
variable (load : Nat → Nat)

/-- `a` is not after `b`, by load and then by number. -/
def notAfter (a b : Nat) : Prop := load a < load b ∨ (load a = load b ∧ a ≤ b)

theorem mem_sortByLoad {l : List Nat} {a : Nat} : a ∈ sortByLoad load l ↔ a ∈ l := List.mem_mergeSort

theorem pairwise_sortByLoad (l : List Nat) : (sortByLoad load l).Pairwise (notAfter load) := by
  refine (List.pairwise_mergeSort (le := fun a b => decide (load a < load b ∨ (load a = load b ∧ a ≤ b))) (fun a b c hab hbc => ?_)
    (fun a b => ?_) l).imp fun h => of_decide_eq_true h
  · simp only [decide_eq_true_eq] at hab hbc ⊢
    omega
  · simp only [Bool.or_eq_true, decide_eq_true_eq]
    omega

/-- What a search over a sorted list finds first is not after anything else that it would find. -/
theorem notAfter_of_findSome {β : Type} {f : Nat → Option β} {l : List Nat} {x : β} (h : (sortByLoad load l).findSome? f = some x) :
    ∃ a ∈ l, f a = some x ∧ ∀ b ∈ l, (f b).isSome = true → b ≠ a → notAfter load a b := by
  obtain ⟨before, a, after, split, found, missed⟩ := List.findSome?_eq_some_iff.1 h
  have sorted := pairwise_sortByLoad load l
  rw [split] at sorted
  refine ⟨a, (mem_sortByLoad load).1 (split ▸ by simp), found, fun b hb hits other => ?_⟩
  have listed : b ∈ before ++ a :: after := split ▸ (mem_sortByLoad load).2 hb
  rcases List.mem_append.1 listed with early | late
  · simp [missed b early] at hits
  · exact List.rel_of_pairwise_cons (List.pairwise_append.1 sorted).2.1 ((List.mem_cons.1 late).resolve_left other)

end

section
variable (s : State) (k : Kernel)

/-- The first core of a cluster that fits a workgroup. -/
def coreIn (cl : Nat) : Option Nat := (s.coreOrder cl).find? (s.fitsCore k)

theorem foldl_first {f : Option Nat × List Nat → Nat → Option Nat × List Nat} {g : Nat → Option Nat}
    (done : ∀ x cl, f (some x, []) cl = (some x, [])) (next : ∀ cl, f (none, []) cl = (g cl, [])) (l : List Nat) :
    l.foldl f (none, []) = (l.findSome? g, []) := by
  have stays (x : Nat) (l : List Nat) : l.foldl f (some x, []) = (some x, []) := by
    induction l with
    | nil => rfl
    | cons cl t ih => rw [List.foldl_cons, done, ih]
  induction l with
  | nil => rfl
  | cons cl t ih =>
    rw [List.foldl_cons, next, List.findSome?_cons]
    cases g cl with
    | none => exact ih
    | some x => exact stays x t

/-- Without a gate to pass, the search takes the first cluster with a core that fits (R142). -/
theorem findCore_eq (ws : k.ws = false) (dies : List Nat) (key : Nat) :
    s.findCore k dies key = ((s.clusterOrder dies).findSome? (coreIn s k), []) := by
  refine foldl_first (fun x cl => rfl) (fun cl => ?_) _
  unfold coreIn
  cases (s.coreOrder cl).find? (s.fitsCore k) with
  | none => rfl
  | some gc => simp [ws]

/-- A core that fits, on a die of a list. -/
def FitsOn (dies : List Nat) (gc : Nat) : Prop := gc / 128 ∈ dies ∧ s.fitsCore k gc = true

variable {s k}

theorem mem_clusters {dies : List Nat} {cl : Nat} : (cl ∈ dies.flatMap fun d => (List.range 32).map fun c => 32 * d + c) ↔ cl / 32 ∈ dies := by
  simp only [List.mem_flatMap, List.mem_map, List.mem_range]
  constructor
  · rintro ⟨d, hd, c, hc, rfl⟩
    rwa [show (32 * d + c) / 32 = d by omega]
  · exact fun h => ⟨cl / 32, h, cl % 32, by omega, by omega⟩

theorem mem_cores {cl gc : Nat} : (gc ∈ (List.range 4).map fun i => 4 * cl + i) ↔ gc / 4 = cl := by
  simp only [List.mem_map, List.mem_range]
  constructor
  · rintro ⟨i, hi, rfl⟩
    omega
  · exact fun h => ⟨gc % 4, by omega, by omega⟩

theorem coreIn_isSome {gc : Nat} (fits : s.fitsCore k gc = true) : (coreIn s k (gc / 4)).isSome = true :=
  List.find?_isSome.2 ⟨gc, (mem_sortByLoad _).2 (mem_cores.2 rfl), fits⟩

/-- The core that the search finds fits, and no other that fits is taken before it (R142). -/
theorem takenFirst_of_found {dies : List Nat} {gc : Nat} (h : (s.clusterOrder dies).findSome? (coreIn s k) = some gc) :
    FitsOn s k dies gc ∧ ∀ gc', FitsOn s k dies gc' → takenFirst s gc gc' := by
  obtain ⟨cl, hcl, core, clusters⟩ := notAfter_of_findSome s.clusterLoad h
  have asSome : (s.coreOrder cl).findSome? (fun c => if s.fitsCore k c = true then some c else none) = some gc := by
    rw [← core, coreIn, List.find?_eq_findSome?_guard]
    rfl
  obtain ⟨c, hc, found, cores⟩ := notAfter_of_findSome _ asSome
  obtain ⟨fits, rfl⟩ : s.fitsCore k c = true ∧ c = gc := by simpa using found
  obtain rfl : c / 4 = cl := mem_cores.1 hc
  have die : c / 4 / 32 = c / 128 := by omega
  refine ⟨⟨die ▸ mem_clusters.1 hcl, fits⟩, fun gc' other => ?_⟩
  obtain ⟨die', fits'⟩ := other
  unfold takenFirst
  dsimp only
  by_cases cluster : gc' / 4 = c / 4
  · rw [cluster]
    refine .inr ⟨rfl, .inr ⟨rfl, ?_⟩⟩
    by_cases same : gc' = c
    · exact .inr ⟨by rw [same], by rw [same]⟩
    · exact cores gc' (mem_cores.2 cluster) (by simp [fits']) same
  · have listed : (gc' / 4) / 32 ∈ dies := by rwa [show gc' / 4 / 32 = gc' / 128 by omega]
    rcases clusters _ (mem_clusters.2 listed) (coreIn_isSome fits') cluster with less | ⟨equal, before⟩
    · exact .inl less
    · exact .inr ⟨equal, .inl (lt_of_le_of_ne before (Ne.symm cluster))⟩

/-- The search finds a core exactly where one fits. -/
theorem found_isSome {dies : List Nat} {gc : Nat} (h : FitsOn s k dies gc) : ((s.clusterOrder dies).findSome? (coreIn s k)).isSome = true := by
  obtain ⟨die, fits⟩ := h
  refine List.findSome?_isSome_iff.2 ⟨gc / 4, (mem_sortByLoad _).2 (mem_clusters.2 ?_), coreIn_isSome fits⟩
  rwa [show gc / 4 / 32 = gc / 128 by omega]

end

/-! ## Allocation -/

section
variable (key : Nat → Nat) (w : Nat → Wave)

theorem setWaves_eq (s : State) (n : Nat) : ∃ waves, (List.range n).foldl (fun s i => s.setWaveAt (key i) (w i)) s = { s with waves := waves } := by
  induction n with
  | zero => exact ⟨s.waves, rfl⟩
  | succ n ih =>
    obtain ⟨waves, h⟩ := ih
    rw [List.range_succ, List.foldl_append, h]
    exact ⟨_, rfl⟩

/-- Waves written under different keys are all there. -/
theorem waveAt_setWaves (s : State) {n : Nat} (apart : ∀ i < n, ∀ j < n, key i = key j → i = j) {i : Nat} (hi : i < n) :
    ((List.range n).foldl (fun s i => s.setWaveAt (key i) (w i)) s).waveAt (key i) = w i := by
  induction n with
  | zero => exact absurd hi (Nat.not_lt_zero i)
  | succ n ih =>
    rw [List.range_succ, List.foldl_append]
    by_cases last : i = n
    · subst last
      exact State.waveAt_setWaveAt_same ..
    · have other : key i ≠ key n := fun same => last (apart i hi n (Nat.lt_succ_self n) same)
      exact (State.waveAt_setWaveAt_other _ _ other).trans
        (ih (fun i hi j hj => apart i (by omega) j (by omega)) (by omega))

end

/-- Locks that are established again leave the waves, the workgroups and the launches (R193). -/
theorem resumeLocks_parts (s : State) (asid gc : Nat) : (s.resumeLocks asid gc).waves = s.waves ∧ (s.resumeLocks asid gc).wgs = s.wgs ∧
    (s.resumeLocks asid gc).launches = s.launches := by
  have again (l : List ILock) : Refetched s (l.foldl (fun s l => l.lines.foldl (fun s n => s.refetchIc gc asid n) s) s) :=
    .foldl (fun u l => .foldl (fun u n => refetchIc_refetched u gc asid n) _) _
  unfold State.resumeLocks
  dsimp only
  split
  · exact ⟨rfl, rfl, rfl⟩
  · simp only [State.modCtxAt, State.setCtxAt_waves, State.setCtxAt_wgs, State.setCtxAt_launches]
    rw [(again _).frame]
    exact ⟨rfl, rfl, rfl⟩

section
variable (s : State) (g : Wg) (prio : BitVec 3) (ext : List Piece) (gc : Nat)

/-- The stacks that a workgroup's streams take (R109). -/
def stacksFor : List Nat :=
  let c := s.ctxAt g.asid.toNat
  (takeStacks c.dstkBase c.dstkSize g.kern.stackBytes g.kern.streams c.stackRuns).getD []

/-- A workgroup as it is placed on a core (R143). -/
def placedWg (barset : Option Nat) : Wg :=
  let gr := s.grant g.kern gc
  { g with st := .placed, bindDie := gc / 128, die := gc / 128, core := gc % 128, segs := gr.segs, pages := gr.pages, tilesPhys := gr.tiles,
           barset := barset, ext := ext }

/-- A wave of a workgroup as it is placed (R143). -/
def placedWave (barset : Option Nat) (i : Nat) : Wave :=
  freshWave (waveIdOf (placedWg s g ext gc barset) (s.grant g.kern gc) gc i) g.kern prio (s.ctxAt g.asid.toNat).ftvDefault ((stacksFor s g).getD i 0)

/-- What an allocation leaves: its workgroup, its waves, and every launch as it was (R143). -/
theorem allocate_parts (barset : Option Nat) : let t := s.allocate g prio ext gc barset
    t.wgs = s.wgs.put (wgKeyOf g.asid.toNat g.ltag.toNat g.index.toNat) (placedWg s g ext gc barset) ∧ t.launches = s.launches ∧
      ∃ u : State, t.waves = ((List.range g.kern.streams).foldl (fun u i =>
        u.setWaveAt (waveKeyOf g.asid.toNat g.ltag.toNat (waveIdOf (placedWg s g ext gc barset) (s.grant g.kern gc) gc i).wid)
          (placedWave s g prio ext gc barset i)) u).waves := by
  intro t
  let u := s.setWgAt (wgKeyOf g.asid.toNat g.ltag.toNat g.index.toNat) (placedWg s g ext gc barset)
  let key (i : Nat) : Nat := waveKeyOf g.asid.toNat g.ltag.toNat (waveIdOf (placedWg s g ext gc barset) (s.grant g.kern gc) gc i).wid
  let v := (List.range g.kern.streams).foldl (fun u i => u.setWaveAt (key i) (placedWave s g prio ext gc barset i)) u
  let left := (v.modCtxAt g.asid.toNat fun c => { c with dstacks := c.dstacks ++ (if g.kern.stackBytes = 0 then [] else
    (stacksFor s g).map fun a => (wgKeyOf g.asid.toNat g.ltag.toNat g.index.toNat, a, g.kern.stackBytes)) }).gateLeave
    (.wg (wgKeyOf g.asid.toNat g.ltag.toNat g.index.toNat))
  have allocated : t = left.resumeLocks g.asid.toNat gc := rfl
  obtain ⟨waves, wgs, launches⟩ := resumeLocks_parts left g.asid.toNat gc
  obtain ⟨ws, h⟩ := setWaves_eq key (placedWave s g prio ext gc barset) u g.kern.streams
  refine ⟨?_, ?_, u, ?_⟩
  · rw [allocated, wgs]
    show v.wgs = _
    exact (congrArg State.wgs h).trans rfl
  · rw [allocated, launches]
    show v.launches = _
    exact (congrArg State.launches h).trans rfl
  · rw [allocated, waves]
    rfl

/-- A stream's number in its workgroup (R102, R105). -/
def streamIndex (k : Kernel) (i : Nat) : Nat := if k.paired then 2 * i else i

theorem streamIndex_lt {k : Kernel} (small : k.nwave ≤ 32) {i : Nat} (hi : i < k.streams) : streamIndex k i < 32 := by
  unfold Kernel.streams at hi
  unfold streamIndex
  split <;> rename_i paired <;> simp only [paired, if_true, if_false, Bool.false_eq_true] at hi <;> omega

theorem streamIndex_inj {k : Kernel} {i j : Nat} (h : streamIndex k i = streamIndex k j) : i = j := by
  unfold streamIndex at h
  split at h <;> omega

variable {s g prio ext gc}

theorem wid_placed {barset : Option Nat} {gr : Grant} (small : g.kern.nwave ≤ 32) {i : Nat} (hi : i < g.kern.streams) :
    (waveIdOf (placedWg s g ext gc barset) gr gc i).wid = (32 * g.index.toNat + streamIndex g.kern i) % 2 ^ 32 := by
  have index : (BitVec.ofNat 5 (streamIndex g.kern i)).toNat = streamIndex g.kern i := by
    rw [BitVec.toNat_ofNat, Nat.mod_eq_of_lt (streamIndex_lt small hi)]
  rw [← index]
  rfl

/-- Every stream of a placed workgroup is a wave under its own identifier (R102, R143). -/
theorem waveAt_allocate {barset : Option Nat} (small : g.kern.nwave ≤ 32) {i : Nat} (hi : i < g.kern.streams) :
    (s.allocate g prio ext gc barset).waveAt (waveKeyOf g.asid.toNat g.ltag.toNat ((32 * g.index.toNat + streamIndex g.kern i) % 2 ^ 32)) =
      placedWave s g prio ext gc barset i := by
  obtain ⟨-, -, u, waves⟩ := allocate_parts s g prio ext gc barset
  have apart : ∀ i < g.kern.streams, ∀ j < g.kern.streams,
      waveKeyOf g.asid.toNat g.ltag.toNat (waveIdOf (placedWg s g ext gc barset) (s.grant g.kern gc) gc i).wid =
        waveKeyOf g.asid.toNat g.ltag.toNat (waveIdOf (placedWg s g ext gc barset) (s.grant g.kern gc) gc j).wid → i = j := by
    intro i hi j hj same
    rw [wid_placed small hi, wid_placed small hj] at same
    have hi' := streamIndex_lt small hi
    have hj' := streamIndex_lt small hj
    refine streamIndex_inj (k := g.kern) ?_
    unfold waveKeyOf at same
    omega
  rw [← wid_placed (s := s) (ext := ext) (gc := gc) (barset := barset) (gr := s.grant g.kern gc) small hi, State.waveAt, waves]
  exact waveAt_setWaves _ _ u apart hi

end

/-! ## A launch's next workgroup -/

section
variable {s : State} {wg : Nat} {l : Launch} {cls : Nat} (here : s.launches.find (launchOfWg wg) = some l)
include here

theorem launchAt_here : s.launchAt (launchOfWg wg) = l := by
  rw [State.launchAt, FMap.get, here]
  rfl

section
variable (waiting : l.waiting = true) (may : s.mayPlace (launchOfWg wg) = true) (next : wg % 2 ^ 40 = l.nextWg)
include waiting may next

theorem exec_workgroupPlace : exec (.workgroupPlace wg) s = .next (s.placeLaunch (launchOfWg wg)) := by
  show execWorkgroupPlace wg s = _
  unfold execWorkgroupPlace
  dsimp only
  rw [here]
  simp only [waiting, may, beq_iff_eq.2 next, Bool.and_self, if_true]

end

variable (plain : l.repro = false) (single : pktCl l.packet = false) (ws : l.kern.ws = false) (bound : s.placeClass l.kern = some cls)
  (room : s.stacksFit (launchOfWg wg / 2 ^ 16) l.kern 1 = true)
include plain single ws bound room

/-- An attempt to place a launch's next workgroup takes the core that the search finds (R142). -/
theorem tryPlace_eq : s.tryPlace (launchOfWg wg) = ((s.clusterOrder (s.healthyDies cls)).findSome? (coreIn s l.kern)).elim ⟨false, [], s⟩
    fun gc => ⟨true, [], (s.allocate (freshWg (launchOfWg wg / 2 ^ 16) (launchOfWg wg % 2 ^ 16) l l.nextWg) l.prio l.ext gc none).modLaunchAt
      (launchOfWg wg) fun m => { m with nextWg := l.nextWg + 1 }⟩ := by
  unfold State.tryPlace State.placeNext
  rw [launchAt_here here]
  dsimp only
  rw [plain, single]
  simp only [Bool.false_eq_true, if_false, bound, room, Bool.not_true, findCore_eq s l.kern ws, List.foldl_nil, List.map_nil,
    (by decide : ¬ (1 = 4))]
  cases (s.clusterOrder (s.healthyDies cls)).findSome? (coreIn s l.kern) <;> rfl

/-- What a launch leaves that is given its next place: the launch counts it, and the rest is the allocation's. -/
theorem placeLaunch_parts {gc : Nat} (found : (s.clusterOrder (s.healthyDies cls)).findSome? (coreIn s l.kern) = some gc) :
    let v := s.allocate (freshWg (launchOfWg wg / 2 ^ 16) (launchOfWg wg % 2 ^ 16) l l.nextWg) l.prio l.ext gc none
    (s.placeLaunch (launchOfWg wg)).launches.find (launchOfWg wg) = some { l with nextWg := l.nextWg + 1 } ∧
      (s.placeLaunch (launchOfWg wg)).wgs = v.wgs ∧ (s.placeLaunch (launchOfWg wg)).waves = v.waves := by
  intro v
  have held : v.launchAt (launchOfWg wg) = l := by
    rw [State.launchAt, (allocate_parts s _ l.prio l.ext gc none).2.1]
    exact launchAt_here here
  have counted : (v.modLaunchAt (launchOfWg wg) fun m => { m with nextWg := l.nextWg + 1 }).launchAt (launchOfWg wg) =
      { l with nextWg := l.nextWg + 1 } := by
    rw [State.modLaunchAt, State.launchAt_setLaunchAt_same, held]
  have tried := tryPlace_eq here plain single ws bound room
  rw [found, Option.elim_some] at tried
  unfold State.placeLaunch
  rw [tried]
  refine ⟨?_, rfl, rfl⟩
  show (State.modLaunchAt _ _ _).launches.find _ = _
  rw [State.modLaunchAt, counted]
  dsimp only
  rw [plain]
  exact FMap.find_put_same ..

variable (placed : exec (.workgroupPlace wg) s = .next (s.placeLaunch (launchOfWg wg)))
include placed

/-- Where no core fits, the launch waits. -/
theorem workgroupPlace_waits (none_ : ∀ gc, ¬ FitsOn s l.kern (s.healthyDies cls) gc) : Goes (.workgroupPlace wg) s (· = s) := by
  have missed : (s.clusterOrder (s.healthyDies cls)).findSome? (coreIn s l.kern) = none := by
    cases found : (s.clusterOrder (s.healthyDies cls)).findSome? (coreIn s l.kern) with
    | none => rfl
    | some gc => exact absurd (takenFirst_of_found found).1 (none_ gc)
  have tried := tryPlace_eq here plain single ws bound room
  rw [missed, Option.elim_none] at tried
  refine ⟨_, placed, ?_⟩
  unfold State.placeLaunch
  rw [tried]
  rfl

/-- Where a core fits, the first that does takes the launch's next workgroup, whose waves are Resident there (R142, R143). -/
theorem workgroupPlace_goes (known : launchOfWg wg / 2 ^ 16 < 1024) (few : l.nextWg < 2 ^ 32) (small : l.kern.nwave ≤ 32) {gc0 : Nat}
    (fits : FitsOn s l.kern (s.healthyDies cls) gc0) : Goes (.workgroupPlace wg) s fun t =>
      t.launches.find (launchOfWg wg) = some { l with nextWg := l.nextWg + 1 } ∧
      ∃ gc, FitsOn s l.kern (s.healthyDies cls) gc ∧ (∀ gc', FitsOn s l.kern (s.healthyDies cls) gc' → takenFirst s gc gc') ∧
        ∃ g, t.wgs.find (wgKeyOf (launchOfWg wg / 2 ^ 16) (launchOfWg wg % 2 ^ 16) l.nextWg) = some g ∧
          g.die = gc / 128 ∧ g.core = gc % 128 ∧ g.kern = l.kern ∧ g.st = .placed ∧ g.index = BitVec.ofNat 32 l.nextWg ∧ g.ext = l.ext ∧
          ∀ i, i < l.kern.streams →
            let w := t.waveAt (waveKeyOf (launchOfWg wg / 2 ^ 16) (launchOfWg wg % 2 ^ 16)
              ((32 * l.nextWg + if l.kern.paired then 2 * i else i) % 2 ^ 32))
            w.st = .resident ∧ w.id.core = BitVec.ofNat 7 (gc % 128) ∧ w.id.die = BitVec.ofNat 5 (gc / 128) ∧ w.qclk = 0#64 := by
  obtain ⟨gc, found⟩ := Option.isSome_iff_exists.1 (found_isSome fits)
  obtain ⟨fitsHere, first⟩ := takenFirst_of_found found
  let g := freshWg (launchOfWg wg / 2 ^ 16) (launchOfWg wg % 2 ^ 16) l l.nextWg
  have asid : g.asid.toNat = launchOfWg wg / 2 ^ 16 := BitVec.toNat_ofNat _ _ ▸ Nat.mod_eq_of_lt known
  have ltag : g.ltag.toNat = launchOfWg wg % 2 ^ 16 := (BitVec.toNat_ofNat _ _).trans (Nat.mod_mod _ _)
  have index : g.index.toNat = l.nextWg := BitVec.toNat_ofNat _ _ ▸ Nat.mod_eq_of_lt few
  obtain ⟨launches, wgs, waves⟩ := placeLaunch_parts here plain single ws bound room found
  refine ⟨_, placed, launches, gc, fitsHere, first, placedWg s g l.ext gc none, ?_, rfl, rfl, rfl, rfl, rfl, rfl, fun i hi => ?_⟩
  · rw [wgs, (allocate_parts s g l.prio l.ext gc none).1, asid, ltag, index]
    exact FMap.find_put_same ..
  · have wave := waveAt_allocate (s := s) (g := g) (prio := l.prio) (ext := l.ext) (gc := gc) (barset := none) small hi
    rw [asid, ltag, index] at wave
    intro w
    have same : w = placedWave s g l.prio l.ext gc none i := by
      rw [← wave]
      exact congrArg (FMap.get Wave.blank · _) waves
    rw [same]
    exact ⟨rfl, rfl, rfl, rfl⟩

end

end Sys2Proof.Claims
end

section
/-!
PROOF. The steps of copies, gates, launch ports, kernel tables, dispatch, placement and the end of launches, together.
-/

namespace Sys2Proof.Claims

open Sys2Proof.Machine

theorem copyConvert_sameFormat {d : CopyDesc} (same : d.sfmt = d.dfmt) (bs : List Byte) (first : Nat) : copyConvert d bs first = (bs, 0#6) :=
  if_pos same

/-- Settles O44: each clause is the lemma about its step. -/
theorem copyAndLaunchSteps : Obligations.CopyAndLaunchSteps := by
  unfold Obligations.CopyAndLaunchSteps
  refine ⟨fun cluster s id c first => tcopyStart_goes first, fun d unit counts units => unitPlaces d unit counts units,
    fun id s c ps bs here started runs reads => ⟨fun same => copyConvert_sameFormat same _ _,
      fun plain memory free lines qs run once near => tcopyUnit_memory here started runs reads rfl plain memory free lines run once near,
      fun plain spm free wg => tcopyUnit_scratchpad here started runs reads rfl plain spm free wg,
      fun ws die on => tcopyUnit_weights here started runs reads rfl ws on⟩,
    fun id s c st va here started runs plain memory fault => tcopyUnit_stops here started runs plain memory fault,
    fun id s c here finished free acked => tcopyComplete_goes here finished free acked,
    fun die s id rest c head here free => gateAdmit_goes here head free,
    fun asid offset data s takes => ⟨launchPortStage_goes takes, launchPortEnqueue_goes takes⟩,
    fun asid kidx desc s live hk => kernelTable_goes live hk,
    fun s asid b => ⟨dispatchCheck_noEntry, fun desc entry => ⟨dispatchCheck_noDescriptor entry, fun bytes read =>
      ⟨dispatchCheck_contract entry read, dispatchCheck_fields entry read, dispatchCheck_quantum entry read, fun con fields quantum =>
        ⟨dispatchCheck_noClass entry read con fields quantum, fun cls bound => dispatchCheck_bound entry read con fields quantum bound⟩⟩⟩⟩,
    fun q s asid b chosen head late => launchDispatch_goes chosen head late, ?_,
    fun k s l here placed done => launchComplete_goes here placed done⟩
  intro wg s l cls lk asid here waiting may next known few plain single ws small bound room fits
  have placed := exec_workgroupPlace here waiting may next
  exact ⟨fun gc0 fit => workgroupPlace_goes here plain single ws bound room placed known few small fit,
    workgroupPlace_waits here plain single ws bound room placed⟩

end Sys2Proof.Claims
end

section
/-!
PROOF. The cross-lane instructions: the segments of a wave, reductions and scans over them, votes and shuffles (R104, R246, R425 to R427, R434, R440).
-/

namespace Sys2Proof.Claims

open Sys2Proof.Machine

/-! ## Segments -/

/-- The lanes of segment `n`, present or not. -/
def segSlots (s : State) (n : Nat) : List Nat := (List.range (segWidth s)).map (segWidth s * n + ·)

/-- The number of whole segments. -/
def segCount (s : State) : Nat := s.wave.lanes / segWidth s

section

variable (s : State)

theorem segments_eq_map_segSlots : s.segments = (List.range (segCount s)).map (segSlots s) := rfl

theorem segWidth_pos : 0 < segWidth s := Nat.le_max_left ..

theorem segWidth_mul_segCount_le : segWidth s * segCount s ≤ 64 :=
  (Nat.mul_div_le _ _).trans (by unfold Wave.lanes; split <;> decide)

theorem mem_segSlots {n l : Nat} : l ∈ segSlots s n ↔ l / segWidth s = n := by
  have pos := segWidth_pos s
  simp only [segSlots, List.mem_map, List.mem_range]
  constructor
  · rintro ⟨i, hi, rfl⟩
    rw [Nat.mul_add_div pos, Nat.div_eq_of_lt hi, Nat.add_zero]
  · rintro rfl
    exact ⟨l % segWidth s, Nat.mod_lt _ pos, Nat.div_add_mod l _⟩

theorem inSegment_iff {l : Nat} : inSegment s l = true ↔ l / segWidth s < segCount s := by
  rw [inSegment, decide_eq_true_iff, Nat.div_lt_iff_lt_mul (segWidth_pos s)]
  rfl

theorem mem_segLanes {l : Nat} : l ∈ segLanes s ↔ l / segWidth s < segCount s ∧ s.active.getLsbD l = true := by
  have bound := segWidth_mul_segCount_le s
  simp only [segLanes, activeList, List.mem_filter, List.mem_range, inSegment_iff]
  refine ⟨fun ⟨⟨_, on⟩, seg⟩ => ⟨seg, on⟩, fun ⟨seg, on⟩ => ⟨⟨?_, on⟩, seg⟩⟩
  rw [Nat.div_lt_iff_lt_mul (segWidth_pos s), Nat.mul_comm] at seg
  omega

theorem pairwise_segLanes : (segLanes s).Pairwise (· < ·) := (List.pairwise_lt_range.filter _).filter _

/-- The active lanes of a whole segment are those that the wave has in it. -/
theorem activeOf_segSlots {n : Nat} (hn : n < segCount s) : s.activeOf (segSlots s n) = segment s n := by
  have sorted : (segSlots s n).Pairwise (· < ·) := List.pairwise_lt_range.map _ fun _ _ h => Nat.add_lt_add_left h _
  refine (sorted.filter _).eq_of_mem_iff ((pairwise_segLanes s).filter _) fun l => ?_
  simp only [segment, List.mem_filter, mem_segSlots, mem_segLanes, beq_iff_eq, inLanes]
  exact ⟨fun ⟨seg, on⟩ => ⟨⟨seg ▸ hn, on⟩, seg⟩, fun ⟨⟨_, on⟩, seg⟩ => ⟨seg, on⟩⟩

theorem range_mul_eq_flatMap (w n : Nat) : List.range (w * n) = (List.range n).flatMap fun i => (List.range w).map (w * i + ·) := by
  induction n with
  | zero => rfl
  | succ n ih => rw [Nat.mul_succ, List.range_add, ih, List.range_succ, List.flatMap_append, List.flatMap_singleton]

/-- The active lanes of the segments in turn are those of whole segments. -/
theorem flatMap_segment : (List.range (segCount s)).flatMap (segment s) = segLanes s := by
  have blocks : (List.range (segCount s)).flatMap (segment s) = (List.range (segWidth s * segCount s)).filter s.active.getLsbD := by
    rw [range_mul_eq_flatMap, List.filter_flatMap]
    exact List.flatMap_congr fun n hn => (activeOf_segSlots s (List.mem_range.1 hn)).symm
  rw [blocks]
  refine (List.pairwise_lt_range.filter _).eq_of_mem_iff (pairwise_segLanes s) fun l => ?_
  rw [List.mem_filter, List.mem_range, mem_segLanes, Nat.div_lt_iff_lt_mul (segWidth_pos s), Nat.mul_comm]

/-- Results given segment by segment to the active lanes are results given to the lanes of whole segments. -/
theorem flatMap_segments {α : Type} (f : List Nat → List (Nat × α)) (r : Nat → α)
    (h : ∀ n < segCount s, f (segSlots s n) = (segment s n).map fun l => (l, r l)) :
    s.segments.flatMap f = (segLanes s).map fun l => (l, r l) := by
  rw [segments_eq_map_segSlots, List.flatMap_map, ← flatMap_segment, List.map_flatMap]
  exact List.flatMap_congr fun n hn => h n (List.mem_range.1 hn)

theorem segOf_of_mem_segment {n l : Nat} (h : l ∈ segment s n) : l / segWidth s = n := beq_iff_eq.1 (List.mem_filter.1 h).2

theorem segTok_segSlots (a : Opd) {n : Nat} (hn : n < segCount s) : s.segTok a (segSlots s n) = (segment s n).findSome? (laneToks s a) := by
  rw [← activeOf_segSlots s hn]
  rfl

end

/-! ## Reductions -/

theorem redCombine_assoc (o : RedOp) (x y z : Word32) : redCombine o (redCombine o x y) z = redCombine o x (redCombine o y z) := by
  cases o with
  | add => exact BitVec.add_assoc x y z
  | and => exact BitVec.and_assoc x y z
  | or => exact BitVec.or_assoc x y z
  | xor => exact BitVec.xor_assoc x y z
  | _ => grind [redCombine]

/-- A signed word's number, and a bound between two of them, lie within the signed words. -/
theorem toInt_bounds (x : Word32) : -2 ^ 31 ≤ x.toInt ∧ x.toInt < 2 ^ 31 := by
  have low := BitVec.le_toInt x
  have high := BitVec.toInt_lt (x := x)
  omega

theorem redCombine_identity (o : RedOp) (x : Word32) : redCombine o x (redIdentity o) = x := by
  have signed := toInt_bounds x
  have unsigned := x.isLt
  have least : (redIdentity .max).toInt = -2 ^ 31 := by decide
  have greatest : (redIdentity .min).toInt = 2 ^ 31 - 1 := by decide
  have most : (redIdentity .minu).toNat = 2 ^ 32 - 1 := by decide
  cases o with
  | min => exact if_pos (by omega)
  | minu => exact if_pos (by omega)
  | max =>
    refine ite_eq_right_iff.2 fun below => BitVec.eq_of_toInt_eq ?_
    omega
  | maxu =>
    refine ite_eq_right_iff.2 fun below => BitVec.eq_of_toNat_eq ?_
    have zero : (redIdentity .maxu).toNat = 0 := rfl
    omega
  | and => exact BitVec.and_allOnes
  | _ => simp [redCombine, redIdentity]

/-- The least or greatest of signed words' numbers and a bound is the number of a word. -/
theorem toInt_ofInt_foldr {f : Int → Int → Int} (hf : ∀ a b, f a b = a ∨ f a b = b) {b : Int} (hb : -2 ^ 31 ≤ b ∧ b < 2 ^ 31) (xs : List Word32) :
    (BitVec.ofInt 32 ((xs.map BitVec.toInt).foldr f b)).toInt = (xs.map BitVec.toInt).foldr f b := by
  have bounds : -2 ^ 31 ≤ (xs.map BitVec.toInt).foldr f b ∧ (xs.map BitVec.toInt).foldr f b < 2 ^ 31 := by
    induction xs with
    | nil => exact hb
    | cons x xs ih =>
      rw [List.map_cons, List.foldr_cons]
      rcases hf x.toInt ((xs.map BitVec.toInt).foldr f b) with same | same <;> rw [same]
      · exact toInt_bounds x
      · exact ih
  exact BitVec.toInt_ofInt_eq_self (by decide) bounds.1 bounds.2

theorem toNat_ofNat_foldr {f : Nat → Nat → Nat} (hf : ∀ a b, f a b = a ∨ f a b = b) {b : Nat} (hb : b < 2 ^ 32) (xs : List Word32) :
    (BitVec.ofNat 32 ((xs.map BitVec.toNat).foldr f b)).toNat = (xs.map BitVec.toNat).foldr f b := by
  have bound : (xs.map BitVec.toNat).foldr f b < 2 ^ 32 := by
    induction xs with
    | nil => exact hb
    | cons x xs ih =>
      rw [List.map_cons, List.foldr_cons]
      rcases hf x.toNat ((xs.map BitVec.toNat).foldr f b) with same | same <;> rw [same]
      · exact x.isLt
      · exact ih
  exact (BitVec.toNat_ofNat ..).trans (Nat.mod_eq_of_lt bound)

theorem reduced_nil (o : RedOp) : reduced o [] = redIdentity o := by cases o <;> decide +kernel

theorem reduced_cons (o : RedOp) (x : Word32) (xs : List Word32) : reduced o (x :: xs) = redCombine o x (reduced o xs) := by
  have signed {f : Int → Int → Int} {b : Int} (hf : ∀ a b, f a b = a ∨ f a b = b) (hb : -2 ^ 31 ≤ b ∧ b < 2 ^ 31) :=
    And.intro (toInt_ofInt_foldr hf hb xs) (toInt_ofInt_foldr hf hb (x :: xs))
  have unsigned {f : Nat → Nat → Nat} {b : Nat} (hf : ∀ a b, f a b = a ∨ f a b = b) (hb : b < 2 ^ 32) :=
    And.intro (toNat_ofNat_foldr hf hb xs) (toNat_ofNat_foldr hf hb (x :: xs))
  cases o with
  | add => simp [reduced, redCombine, BitVec.ofNat_add]
  | and => ext i hi; simp [reduced, redCombine]
  | or => ext i hi; simp [reduced, redCombine]
  | xor =>
    ext i hi
    simp only [reduced, redCombine, BitVec.getElem_ofFnLE, BitVec.getElem_xor, List.countP_cons]
    cases x[i] <;> simp; grind
  | min =>
    obtain ⟨rest, all⟩ := signed min_choice (b := 2 ^ 31 - 1) (by decide)
    refine BitVec.eq_of_toInt_eq (all.trans ?_)
    simp only [reduced, redCombine, apply_ite BitVec.toInt, rest, List.map_cons, List.foldr_cons, min_def]
  | max =>
    obtain ⟨rest, all⟩ := signed max_choice (b := -2 ^ 31) (by decide)
    refine BitVec.eq_of_toInt_eq (all.trans ?_)
    simp only [reduced, redCombine, apply_ite BitVec.toInt, rest, List.map_cons, List.foldr_cons, max_def]
  | minu =>
    obtain ⟨rest, all⟩ := unsigned min_choice (b := 2 ^ 32 - 1) (by decide)
    refine BitVec.eq_of_toNat_eq (all.trans ?_)
    simp only [reduced, redCombine, apply_ite BitVec.toNat, rest, List.map_cons, List.foldr_cons, min_def]
  | maxu =>
    obtain ⟨rest, all⟩ := unsigned max_choice (b := 0) (by decide)
    refine BitVec.eq_of_toNat_eq (all.trans ?_)
    simp only [reduced, redCombine, apply_ite BitVec.toNat, rest, List.map_cons, List.foldr_cons, max_def]

theorem foldl_redCombine (o : RedOp) (x : Word32) (xs : List Word32) : xs.foldl (redCombine o) x = reduced o (x :: xs) := by
  rw [reduced_cons]
  induction xs generalizing x with
  | nil => rw [reduced_nil, redCombine_identity]; rfl
  | cons y xs ih => rw [List.foldl_cons, ih, redCombine_assoc, reduced_cons]

/-- One value more at the end of a reduction's values. -/
theorem reduced_concat (o : RedOp) (x : Word32) (xs : List Word32) (y : Word32) :
    reduced o (x :: xs ++ [y]) = redCombine o (reduced o (x :: xs)) y := by
  rw [List.cons_append, ← foldl_redCombine, ← foldl_redCombine, List.foldl_append]
  rfl

theorem redSeg_eq_reduced {s : State} (o : RedOp) (a : Opd) {n : Nat} (hn : n < segCount s) :
    s.redSeg o a (segSlots s n) = reduced o ((segment s n).map (low32 s a)) := by
  unfold State.redSeg
  rw [activeOf_segSlots s hn]
  cases segment s n with
  | nil => exact (reduced_nil o).symm
  | cons l ls => rw [List.map_cons, ← foldl_redCombine, List.foldl_map]; rfl

/-- An instruction that puts results and goes on. -/
theorem goes_of_put {i : Instr} {s : State} {sw late : Bool} {d : Dest} {rs : List (Nat × LRes)} {m : List Nat} {r : Nat → LRes}
    (he : exec i s = .next ((s.putResults late d rs).retire sw)) (hi : s.issuing = true) (hr : rs = m.map fun l => (l, r l))
    (h0 : (d = .none ∨ ∃ n, d = .vec n) ∨ 0 ∈ m) : Goes i s (Computes s sw late d m r) := by
  subst hr
  obtain ⟨w, g, put, hw, hlo, hhi⟩ := putResults_withWave s late d m r h0
  refine ⟨_, he, w, g, hw, hlo, hhi, ?_⟩
  rw [put]
  exact went_withWave s w g sw 1 hi (by rw [hw.rest]) (by rw [hw.rest])

theorem isScalarDest_eq (d : Opd) : State.redPlace.isScalarDest d = !isVecReg d := by cases d <;> rfl

/-- The first token of a list of lists is the first of the lists' first ones. -/
theorem findSome?_flatMap {α β γ : Type} (p : β → Option γ) (f : α → List β) {g : α → Option γ} {l : List α} (h : ∀ x ∈ l, g x = (f x).findSome? p) :
    l.findSome? g = (l.flatMap f).findSome? p := by
  induction l with
  | nil => rfl
  | cons x t ih =>
    rw [List.findSome?_cons, List.flatMap_cons, List.findSome?_append, ← h x (List.mem_cons_self ..), ih fun y hy => h y (List.mem_cons_of_mem _ hy)]
    cases g x <;> rfl

theorem findSome?_segTok (s : State) (a : Opd) : s.segments.findSome? (s.segTok a) = (segLanes s).findSome? (laneToks s a) := by
  rw [segments_eq_map_segSlots, List.findSome?_map, ← flatMap_segment]
  exact findSome?_flatMap _ _ fun n hn => segTok_segSlots s a (List.mem_range.1 hn)

theorem zipIdx_map_range {α : Type} (f : Nat → α) (n : Nat) : ((List.range n).map f).zipIdx = (List.range n).map fun i => (f i, i) :=
  List.ext_getElem (by simp) (by simp)

theorem segWidth_eq_iff (s : State) {w : Nat} (hw : 1 < w) : segWidth s = w ↔ s.width = w := by
  show max 1 s.width = w ↔ _
  omega

/-- Where the results of the segments are placed. -/
theorem redPlace_eq_placed (s : State) (d a : Opd) (signed : Bool) {seg : List Nat → Word32 × BitVec 6} {value : Nat → Word32 × BitVec 6}
    (hv : ∀ n < segCount s, seg (segSlots s n) = value n) :
    s.redPlace d a signed seg = (placedLanes s d).map fun l => (l, placed s d a signed value l) := by
  have values : s.segments.map seg = (List.range (segCount s)).map value := by
    rw [segments_eq_map_segSlots, List.map_map]
    exact List.map_congr_left fun n hn => hv n (List.mem_range.1 hn)
  unfold State.redPlace
  rw [isScalarDest_eq, values]
  cases hd : isVecReg d with
  | true =>
    simp only [Bool.not_true, Bool.false_eq_true, if_false, placedLanes, hd, if_true]
    refine flatMap_segments s _ _ fun n hn => ?_
    rw [activeOf_segSlots s hn, segTok_segSlots s a hn, hv n hn]
    refine List.map_congr_left fun l hl => ?_
    simp only [placed, hd, if_true, segOf_of_mem_segment s hl]
  | false =>
    simp only [Bool.not_false, if_true, placedLanes, hd, Bool.false_eq_true, if_false, List.map_singleton, placed, findSome?_segTok,
      segWidth_eq_iff s (show 1 < 8 by decide), segWidth_eq_iff s (show 1 < 16 by decide)]
    cases (segLanes s).findSome? (laneToks s a) with
    | some t => rfl
    | none =>
      dsimp only
      split
      next narrow =>
        have same : segWidth s = s.width := by
          show max 1 s.width = _
          omega
        rw [zipIdx_map_range, segCount, same]
        simp only [List.map_map]
        rfl
      next =>
        have first : (((List.range (segCount s)).map value).headD (0#32, 0#6)).1 =
            if (List.range (s.wave.lanes / segWidth s)).isEmpty then 0#32 else (value 0).1 := by
          show _ = if (List.range (segCount s)).isEmpty then 0#32 else (value 0).1
          cases segCount s with
          | zero => rfl
          | succ n => rw [List.range_succ_eq_map]; rfl
        rw [first]
        simp only [List.map_map, ← BitVec.ofNat_toNat]
        rfl

theorem zero_mem_placedLanes (s : State) (d : Opd) : (s.dest d = .none ∨ ∃ n, s.dest d = .vec n) ∨ 0 ∈ placedLanes s d := by
  cases d with
  | v c => exact .inl (.inr ⟨_, rfl⟩)
  | _ => exact .inr (List.mem_singleton.2 rfl)

theorem redFaddSeg_eq_treeSum (s : State) (a : Opd) (n : Nat) : s.redFaddSeg a (segSlots s n) = treeSum s a n := by
  unfold State.redFaddSeg treeSum
  rw [fenv_eq_floatEnv, segSlots, List.map_map, Nat.mul_comm]
  rfl

/-! ## The flags of a poisoned sum -/

theorem halfAfter_of_no_fault (s : State) (h : Half) (m : List Nat) (up : Bool) {r : Nat → LRes} (plain : ∀ l, faultOf r l = none) :
    halfAfter s h m up r = { h with fflags := h.fflags ||| flagsOf m up r } := by
  have none_ : (m.filter fun l => decide (32 ≤ l) == up).findSome? (faultOf r) = none := List.findSome?_eq_none_iff.2 fun l _ => plain l
  unfold halfAfter
  rw [none_]

/-- The lanes that an instruction's token comes from: those of the lane's segment, or all of them where D is no vector register. -/
def tokenLanes (s : State) (d : Opd) (l : Nat) : List Nat := if isVecReg d then segment s (l / segWidth s) else segLanes s

section placed

variable {s : State} {d a : Opd} {signed : Bool} {value : Nat → Word32 × BitVec 6} {l : Nat}

theorem placed_of_tok {t : Word32} (h : (tokenLanes s d l).findSome? (laneToks s a) = some t) : placed s d a signed value l = .tok t := by
  unfold tokenLanes at h
  unfold placed
  cases hd : isVecReg d <;> simp only [hd, if_true, Bool.false_eq_true, if_false] at h ⊢ <;> rw [h]

/-- The flags of the segments that a result holds. -/
def flagsPlaced (s : State) (d : Opd) (value : Nat → Word32 × BitVec 6) (l : Nat) : BitVec 6 :=
  if isVecReg d then (value (l / segWidth s)).2 else orAll ((List.range (segCount s)).map fun n => (value n).2)

theorem placed_of_no_tok (h : (tokenLanes s d l).findSome? (laneToks s a) = none) :
    ∃ x, placed s d a signed value l = .val x (flagsPlaced s d value l) := by
  unfold tokenLanes at h
  unfold placed flagsPlaced
  cases hd : isVecReg d with
  | true =>
    simp only [hd, if_true] at h ⊢
    rw [h]
    exact ⟨_, rfl⟩
  | false =>
    simp only [hd, Bool.false_eq_true, if_false] at h ⊢
    rw [h]
    dsimp only
    split <;> exact ⟨_, rfl⟩

theorem faultOf_placed : faultOf (placed s d a signed value) l = none := by
  unfold faultOf
  cases h : (tokenLanes s d l).findSome? (laneToks s a) with
  | some t => rw [placed_of_tok h]
  | none =>
    obtain ⟨x, val⟩ := placed_of_no_tok h
    rw [val]

end placed

theorem flagsOf_lane_zero (r : Nat → LRes) : flagsOf [0] false r = (r 0).flags := by simp [flagsOf]

/-- The flags that the instruction adds beside those of its results are those of the segments without a token. -/
theorem redSpare_of_tok {s : State} {d a : Opd} (h : ((segLanes s).findSome? (laneToks s a)).isSome = true) :
    s.redSpare d a (s.redFaddSeg a) = spareFlags s d a := by
  unfold State.redSpare spareFlags
  rw [isScalarDest_eq]
  cases hd : isVecReg d with
  | true => rfl
  | false =>
    have found : s.segments.any (fun g => (s.segTok a g).isSome) = true := by
      rw [← findSome?_segTok, List.findSome?_isSome_iff] at h
      exact List.any_eq_true.2 h
    have spared : (s.segments.filter fun g => (s.segTok a g).isNone).map (fun g => (s.redFaddSeg a g).2) =
        ((List.range (segCount s)).filter fun n => ((segment s n).findSome? (laneToks s a)).isNone).map fun n => (treeSum s a n).2 := by
      rw [segments_eq_map_segSlots, List.filter_map, List.map_map]
      rw [List.filter_congr fun n hn => by
        rw [Function.comp, segTok_segSlots s a (List.mem_range.1 hn)]]
      exact List.map_congr_left fun n _ => by rw [Function.comp, redFaddSeg_eq_treeSum]
    simp only [found, Bool.not_false, Bool.and_self, if_true, Bool.false_eq_true, if_false, spared]
    rfl

theorem redSpare_of_no_tok {s : State} {d a : Opd} (h : (segLanes s).findSome? (laneToks s a) = none) (seg : List Nat → Word32 × BitVec 6) :
    s.redSpare d a seg = 0#6 := by
  have nowhere : s.segments.any (fun g => (s.segTok a g).isSome) = false := by
    rw [← findSome?_segTok, List.findSome?_eq_none_iff] at h
    exact List.any_eq_false.2 fun g hg => by rw [h g hg]; decide
  unfold State.redSpare
  rw [nowhere, Bool.and_false]
  rfl

theorem spareFlags_of_no_tok {s : State} {d a : Opd} (hd : isVecReg d = false) (h : (segLanes s).findSome? (laneToks s a) = none) :
    spareFlags s d a = flagsPlaced s d (treeSum s a) 0 := by
  have all : ((List.range (segCount s)).filter fun n => ((segment s n).findSome? (laneToks s a)).isNone) = List.range (segCount s) :=
    List.filter_eq_self.2 fun n _ => Option.isNone_iff_eq_none.2 (List.findSome?_eq_none_iff.2 fun l hl =>
      List.findSome?_eq_none_iff.1 h l (List.mem_filter.1 hl).1)
  unfold spareFlags flagsPlaced
  simp only [hd, Bool.false_eq_true, if_false]
  exact congrArg (fun ns : List Nat => (ns.map fun n => (treeSum s a n).2).foldl (· ||| ·) 0#6) all

/-- A scalar sum's flags together with those of the segments spared by another segment's token (R427). -/
theorem flags_redFadd (s : State) (d a : Opd) (x : BitVec 6) :
    x ||| flagsOf (placedLanes s d) false (placed s d a false (treeSum s a)) ||| s.redSpare d a (s.redFaddSeg a) =
      x ||| spareFlags s d a ||| flagsOf (placedLanes s d) false (placed s d a false (treeSum s a)) := by
  cases h : (segLanes s).findSome? (laneToks s a) with
  | some t => rw [redSpare_of_tok (h ▸ rfl), BitVec.or_assoc, BitVec.or_comm (flagsOf ..), ← BitVec.or_assoc]
  | none =>
    rw [redSpare_of_no_tok h, BitVec.or_zero]
    cases hd : isVecReg d with
    | true => simp only [spareFlags, hd, if_true, BitVec.or_zero]
    | false =>
      obtain ⟨y, val⟩ := placed_of_no_tok (signed := false) (value := treeSum s a) (l := 0)
        (show (tokenLanes s d 0).findSome? (laneToks s a) = none by rw [tokenLanes, hd]; exact h)
      simp only [placedLanes, hd, Bool.false_eq_true, if_false, flagsOf_lane_zero, val, LRes.flags, spareFlags_of_no_tok hd h, BitVec.or_assoc,
        BitVec.or_self]

/-! ## The sum's flags added before or after its results -/

theorem flagged_wave (s : State) (f : BitVec 6) : (flagged s f).wave = { s.wave with lo := { s.wave.lo with fflags := s.wave.lo.fflags ||| f } } :=
  State.wave_setWave s _

theorem withWave_flagged (s : State) (f : BitVec 6) (w : Wave) (g : List CycEff) : withWave (flagged s f) w g = withWave s w g := by
  unfold flagged
  rw [State.setWave, setWaveAt_withWave, withWave_withWave]
  rfl

theorem valueOf_flagged (s : State) (f : BitVec 6) (l : Nat) (r : LRes) : valueOf (flagged s f) l r = valueOf s l r := by
  unfold valueOf
  rw [flagged_wave]

/-- A result says the same of a state whose issuing wave differs in its halves' own parts. -/
theorem Result.of_wave {s t : State} {late : Bool} {d : Dest} {m : List Nat} {x : Nat → ScalVal} {w : Wave} {g : List CycEff} {lo lo' : Half}
    (h : Result s late d m x w g) (same : t.wave = { s.wave with lo := lo }) : Result t late d m x { w with lo := lo' } g := by
  have repro : t.wave.repro = s.wave.repro := by rw [same]; rfl
  have id : t.wave.id = s.wave.id := by rw [same]
  have shared : sharedOf t m x = sharedOf s m x := by simp only [sharedOf, id]
  have effects (y : ScalVal) : gEffects t late d y = gEffects s late d y := by simp only [gEffects, repro, id]
  obtain ⟨now, later, ⟨hg, fifo⟩, idem, rest⟩ := h
  refine ⟨?_, ?_, ⟨?_, ?_⟩, ?_, ?_⟩
  · rw [same]; exact now
  · rw [same]
    split at later
    next promised =>
      obtain ⟨p, pend, lanes, local_, writes⟩ := later
      rw [if_pos promised]
      refine ⟨p, pend, lanes, local_, ?_⟩
      cases d <;> simpa only [WritesAs, repro, shared] using writes
    next kept => rw [if_neg kept]; exact later
  · rw [hg, effects, shared]
  · rw [effects, shared, same]; exact fifo
  · rw [same]; exact idem
  · rw [same, rest]

theorem redFadd_goes {sw : Bool} {d a : Opd} {s : State} (hi : s.issuing = true) (ht : s.formTrap (xlnRegForm d a) false = none) :
    Goes (.redFadd sw d a) s (Computes (flagged s (spareFlags s d a)) sw true (s.dest d) (placedLanes s d) (placed s d a false (treeSum s a))) := by
  obtain ⟨w, g, put, hw, hlo, hhi⟩ := putResults_withWave s true (s.dest d) (placedLanes s d) (placed s d a false (treeSum s a))
    (zero_mem_placedLanes s d)
  have fresh (u : State) (h : Half) (up : Bool) := halfAfter_of_no_fault u h (placedLanes s d) up
    (fun l => faultOf_placed (s := s) (d := d) (a := a) (signed := false) (value := treeSum s a) (l := l))
  rw [fresh] at hlo hhi
  let v : Wave := { w with lo := { w.lo with fflags := w.lo.fflags ||| s.redSpare d a (s.redFaddSeg a) } }
  have done : (withWave s w g).orFlags s.iss.cur (s.redSpare d a (s.redFaddSeg a)) 0#6 = withWave (flagged s (spareFlags s d a)) v g := by
    rw [withWave_flagged, State.orFlags, withWave_modWaveAt, BitVec.or_zero]
  refine ⟨_, ?_, v, g, ?_, ?_, ?_, went_withWave (flagged s (spareFlags s d a)) v g sw 1 ?_ ?_ ?_⟩
  · show execRedFadd sw d a s = _
    unfold execRedFadd
    rw [show s.formTrap (xlnForm d a) false = none from ht, guarded_of_none _ hi,
      redPlace_eq_placed s d a false (fun n _ => redFaddSeg_eq_treeSum s a n), put, done]
    rfl
  · rw [funext fun l => valueOf_flagged s (spareFlags s d a) l (placed s d a false (treeSum s a) l)]
    exact hw.of_wave (flagged_wave s _)
  · rw [fresh, flagged_wave, ← flags_redFadd]
    show ({ w.lo with fflags := w.lo.fflags ||| _ } : Half) = _
    rw [hlo]
  · rw [fresh, flagged_wave]
    exact hhi
  · rw [State.issuing, flagged_wave]
    exact hi
  · rw [flagged_wave]
    show w.pcs = s.wave.pcs
    rw [hw.rest]
  · rw [flagged_wave]
    show w.id = s.wave.id
    rw [hw.rest]

/-- Settles O12: the segments' lanes are those of `segment`, and a reduction of their values is the fold of its operation over them. -/
theorem reductions : Obligations.Reductions := by
  unfold Obligations.Reductions
  refine ⟨fun sw d a o s hi ht => ?_, fun sw d a s hi ht => redFadd_goes hi ht⟩
  refine goes_of_put ?_ hi (redPlace_eq_placed s d a _ (seg := fun g => (s.redSeg o a g, 0#6))
    (fun n hn => congrArg (·, 0#6) (redSeg_eq_reduced o a hn))) (zero_mem_placedLanes s d)
  show execRed sw d a o s = _
  unfold execRed
  rw [show s.formTrap (xlnForm d a) false = none from ht, guarded_of_none _ hi]

end Sys2Proof.Claims
end

section
/-!
PROOF. Scans, votes and shuffles over the segments of a wave (R351, R374, R434, R440, R452).
-/

namespace Sys2Proof.Claims

open Sys2Proof.Machine

/-! ## Scans -/

section scan

variable (s : State) (o : ScanOp) (a : Opd)

/-- A lane's result from the lanes of its segment up to it (R434). -/
def scanned (upTo : List Nat) : LRes :=
  match upTo.findSome? (laneToks s a) with
  | some t => .tok t
  | none => .val ((reduced (scanOp o) (upTo.map (low32 s a))).setWidth 64) 0#6

/-- The value that a scan has come to after some lanes; none before the first. -/
def scanSoFar (before : List Nat) : Option Word32 := if before.isEmpty then none else some (reduced (scanOp o) (before.map (low32 s a)))

theorem scanCombine_eq (x y : Word32) : scanCombine o x y = redCombine (scanOp o) x y := by cases o <;> rfl

theorem reduced_singleton (p : RedOp) (x : Word32) : reduced p [x] = x := by rw [reduced_cons, reduced_nil, redCombine_identity]

theorem scanSoFar_concat (before : List Nat) (l : Nat) : scanSoFar s o a (before ++ [l]) =
    some (match scanSoFar s o a before with | none => s.laneBits a l | some y => scanCombine o y (s.laneBits a l)) := by
  cases before with
  | nil => exact congrArg some (reduced_singleton ..)
  | cons b bs =>
    simp only [scanSoFar, List.isEmpty_cons, Bool.false_eq_true, if_false, List.cons_append, scanCombine_eq]
    rw [← List.cons_append, List.map_append, List.map_cons, List.map_singleton, reduced_concat]
    rfl

theorem filter_le_of_sorted {before after : List Nat} {l : Nat} (h : (before ++ l :: after).Pairwise (· < ·)) :
    (before ++ l :: after).filter (· ≤ l) = before ++ [l] := by
  obtain ⟨_, rest, low⟩ := List.pairwise_append.1 h
  have high := (List.pairwise_cons.1 rest).1
  rw [List.filter_append, List.filter_eq_self.2 fun b hb => decide_eq_true (Nat.le_of_lt (low b hb l (List.mem_cons_self ..))),
    List.filter_cons_of_pos (by exact decide_eq_true (Nat.le_refl l)),
    List.filter_eq_nil_iff.2 fun b hb => by simpa using high b hb]

/-- The scan of the lanes `after`, from the value and token that the lanes `before` leave. -/
theorem scanSeg_eq_scanned (before after : List Nat) (h : (before ++ after).Pairwise (· < ·)) :
    s.scanSeg o a after (scanSoFar s o a before) (before.findSome? (laneToks s a)) =
      after.map fun l => (l, scanned s o a ((before ++ after).filter (· ≤ l))) := by
  induction after generalizing before with
  | nil => rfl
  | cons l after ih =>
    have rest := ih (before ++ [l]) (by rwa [List.append_assoc])
    rw [scanSoFar_concat, List.append_assoc] at rest
    have token : (before ++ [l]).findSome? (laneToks s a) =
        (before.findSome? (laneToks s a)).orElse fun _ => firstTok [(s.srcA true a l).tok, s.guardTok l] := by
      rw [List.findSome?_append]
      cases before.findSome? (laneToks s a) <;> simp [laneToks]
    have value := scanSoFar_concat s o a before l
    rw [scanSoFar, if_neg (by simp), Option.some.injEq] at value
    rw [token] at rest
    rw [List.map_cons, filter_le_of_sorted h, scanned, token, value]
    exact congrArg _ rest

end scan

theorem dest_of_vector {s : State} {f : Form} {d : Opd} (h : s.formTrap f (!isVecReg d) = none) : ∃ n, s.dest d = .vec n :=
  dest_of_isVecReg (bad := false) (by rwa [Bool.or_false])

theorem execScan_eq (sw : Bool) (d a : Opd) (o : ScanOp) (s : State) : exec (.scan sw d a o) s =
    s.guarded (s.formTrap (xlnForm d a) (!isVecReg d)) fun s =>
      .next ((s.putResults true (s.dest d) (s.segments.flatMap fun g => s.scanSeg o a (s.activeOf g) none none)).retire sw) := by
  cases d <;> rfl

/-- Settles O13: a segment's scan gives each of its lanes the reduction of the lanes up to it. -/
theorem scans : Obligations.Scans := by
  unfold Obligations.Scans
  intro sw d a o s hi ht
  have run := (execScan_eq sw d a o s).trans ((congrArg (s.guarded · _) ht).trans (guarded_of_none _ hi))
  refine goes_of_put run hi ?_ (.inl (.inr (dest_of_vector ht)))
  · refine flatMap_segments s _ _ fun n hn => ?_
    rw [activeOf_segSlots s hn]
    refine (scanSeg_eq_scanned s o a [] (segment s n) ((pairwise_segLanes s).filter _)).trans (List.map_congr_left fun l hl => ?_)
    rw [show segmentOf s l = segment s n from congrArg (segment s) (segOf_of_mem_segment s hl)]
    rfl

/-! ## Votes -/

/-- An instruction that leaves a predicate as an outstanding result and goes on. -/
theorem goes_of_putPred {i : Instr} {s : State} {sw : Bool} {p : Nat} {rs : List (Nat × Option Bool)} {m : List Nat} {x : Nat → Option Bool}
    (he : exec i s = .next ((s.putPred true p rs).retire sw)) (hi : s.issuing = true) (hr : rs = m.map fun l => (l, x l)) :
    Goes i s (ComparesLate s sw p m x) := by
  subst hr
  let v : PredVal := ⟨maskOf (((m.map fun l => (l, x l)).filter fun e => e.2 == some true).map (·.1)),
    maskOf (((m.map fun l => (l, x l)).filter fun e => e.2.isNone).map (·.1))⟩
  have lanes : (m.map fun l => (l, x l)).map (·.1) = m := by simp [Function.comp_def]
  have put : s.putPred true p (m.map fun l => (l, x l)) =
      withWave s { s.wave with pend := s.wave.pend ++ [Pend.plain [.pred p v] (maskOf m)] } [] := by
    rw [← setWaveAt_withWave]
    unfold State.putPred
    rw [lanes]
    cases hr : (s.waveAt s.iss.cur).repro <;>
      simp [State.addPend, hr, Pend.plain, State.holdG, State.noteG, RegVal.isG, RegVal.onceHeld, State.modWaveAt, v] <;> rfl
  refine ⟨_, he, v, maskOf m, getLsbD_maskOf m, fun l hl small => ?_, ?_⟩
  · simp only [v, getLsbD_maskOf]
    cases h : x l with
    | none => simp [h, hl, small]
    | some b => cases b <;> simp [h, hl, small]
  · rw [put]
    exact went_withWave s _ [] sw 1 hi rfl rfl

theorem anyPoisoned_eq (s : State) (p : Nat) (ls : List Nat) :
    (ls.any fun l => (s.readPred p).poi.getLsbD l || (s.guardTok l).isSome) = anyPoisoned s p ls := rfl

/-- A vote over the lanes of each segment. -/
theorem vote_goes {i : Instr} {s : State} {sw : Bool} {d a : BitVec 3} {f g : List Bool → Bool} (he : exec i s = s.vote sw d a g) (hi : s.issuing = true)
    (ht : s.formTrap { xln := true } false = none) (hf : ∀ l, g l = f l) : Goes i s (ComparesLate s sw d.toNat (segLanes s) fun l =>
      if anyPoisoned s a.toNat (segmentOf s l) then none else some (f ((segmentOf s l).map (s.readPred a.toNat).val.getLsbD))) := by
  have run := he.trans ((congrArg (s.guarded · _) ht).trans (guarded_of_none _ hi))
  refine goes_of_putPred run hi ?_
  · refine flatMap_segments s _ _ fun n hn => ?_
    simp only [activeOf_segSlots s hn, anyPoisoned_eq, hf]
    refine List.map_congr_left fun l hl => ?_
    rw [show segmentOf s l = segment s n from congrArg (segment s) (segOf_of_mem_segment s hl)]

theorem all_id_eq (l : List Bool) : l.all id = !l.contains false := by
  rw [Bool.eq_iff_iff]
  simp

theorem any_id_eq (l : List Bool) : l.any id = l.contains true := by
  rw [Bool.eq_iff_iff]
  simp

theorem all_not_eq (l : List Bool) : l.all (!·) = !l.contains true := by
  rw [Bool.eq_iff_iff]
  simp

theorem vote_of_voteTrue {i : Instr} {sw : Bool} {d a : BitVec 3} {f : List Bool → Bool} (h : voteTrue i = some (sw, d, a, f)) (s : State) :
    ∃ g, exec i s = s.vote sw d a g ∧ ∀ l, g l = f l := by
  cases i with
  | voteAll =>
    cases h
    exact ⟨fun l => l.all id, rfl, all_id_eq⟩
  | voteAny =>
    cases h
    exact ⟨fun l => l.any id, rfl, any_id_eq⟩
  | voteUni =>
    cases h
    exact ⟨fun l => l.all id || l.all (!·), rfl, fun l => by simp only [all_id_eq, all_not_eq, Bool.not_and]⟩
  | _ => cases h

/-- The first of ascending lanes is the one that none precedes. -/
theorem head?_eq_iff_least {ls : List Nat} (h : ls.Pairwise (· < ·)) {l : Nat} (hl : l ∈ ls) : (ls.head? == some l) = decide (∀ x ∈ ls, l ≤ x) := by
  cases ls with
  | nil => cases hl
  | cons b bs =>
    have after := (List.pairwise_cons.1 h).1
    rw [Bool.eq_iff_iff, List.head?_cons, beq_iff_eq, Option.some.injEq, decide_eq_true_iff]
    constructor
    · rintro rfl x hx
      rcases List.mem_cons.1 hx with rfl | hx
      · exact Nat.le_refl _
      · exact Nat.le_of_lt (after x hx)
    · intro least
      rcases List.mem_cons.1 hl with rfl | hl
      · rfl
      · exact absurd (least b (List.mem_cons_self ..)) (Nat.not_le.2 (after l hl))

/-- Settles O14: each vote looks at the active lanes of the segments in turn. -/
theorem votesAndBallots : Obligations.VotesAndBallots := by
  unfold Obligations.VotesAndBallots
  refine ⟨fun sw d p s hi ht => ?_, fun i sw d a f s hv hi ht => ?_, fun sw p s hi ht => ?_⟩
  · refine goes_of_put (rs := [(0, _)]) (m := [0]) ?_ hi rfl (.inr (List.mem_singleton.2 rfl))
    show execBallot sw d p s = _
    unfold execBallot
    rw [ht, guarded_of_none _ hi]
    have both : (s.readPred p.toNat).val &&& s.active = BitVec.ofFnLE fun i : Fin 64 => s.active[i] && (s.readPred p.toNat).val[i] := by
      ext i hi
      simp [Bool.and_comm]
    simp only [both]
    rfl
  · obtain ⟨g, he, hf⟩ := vote_of_voteTrue hv s
    exact vote_goes he hi ht hf
  · refine goes_of_putPred (rs := s.segments.flatMap fun g => (s.activeOf g).map fun l => (l, some ((s.activeOf g).head? == some l))) ?_ hi ?_
    · show execElect sw p s = _
      unfold execElect
      rw [ht, guarded_of_none _ hi]
    · refine flatMap_segments s _ _ fun n hn => ?_
      rw [activeOf_segSlots s hn]
      refine List.map_congr_left fun l hl => ?_
      rw [show segmentOf s l = segment s n from congrArg (segment s) (segOf_of_mem_segment s hl),
        head?_eq_iff_least (ls := segment s n) ((pairwise_segLanes s).filter _) hl]

/-! ## Shuffles -/

theorem execShfl_eq (sw : Bool) (d a b : Opd) (s : State) : exec (.shfl sw d a b) s =
    s.guarded (s.formTrap { regForm d a (some b) with mixing := false, xln := true } (!isVecReg d)) fun s =>
      .next ((s.putResults true (s.dest d) ((lanesOf s.active).map fun l => (l, shflLane a b s l))).retire sw) := by
  cases d <;> rfl

/-- Settles O15: the lane that B names is `l - l mod w + b mod w`, the `b mod w`-th of the lane's segment. -/
theorem shuffle : Obligations.Shuffle := by
  unfold Obligations.Shuffle
  intro sw d a b s hi ht
  have run := (execShfl_eq sw d a b s).trans ((congrArg (s.guarded · _) ht).trans (guarded_of_none _ hi))
  refine goes_of_put run hi ?_ (.inl (.inr (dest_of_vector ht)))
  · refine List.map_congr_left fun l _ => congrArg (l, ·) ?_
    have start : l / segWidth s * segWidth s = l - l % segWidth s := by
      have parts := Nat.div_add_mod' l (segWidth s)
      omega
    unfold shflLane
    rw [show max 1 s.width = segWidth s from rfl]
    dsimp only
    rw [start]
    cases h : (s.srcB true b l).p <;> simp [ScalVal.tok, h, firstTok_cons]

end Sys2Proof.Claims
end

section
/-!
PROOF. LDS and STS: the registers of a group as one outstanding result, and the words that a scratchpad store leaves (R151, R164, R180, R395, R444).
-/

namespace Sys2Proof.Claims

open Sys2Proof.Machine

/-! ## The result of a group of registers -/

/-- The effect that a register's value is held as for the commit, where it is a g register (R123). -/
def heldOf : RegVal → Option Eff
  | .wgreg i x => some (.gwrite i x)
  | _ => none

/-- Values held for the commit join the wave's FIFO, whatever then becomes of the wave (R123). -/
theorem modWaveAt_holdG (s : State) (k : Nat) (vs : List RegVal) (f : Wave → Wave) : (s.holdG k vs).modWaveAt k f =
    s.modWaveAt k fun w => f { w with fifo := w.fifo ++ vs.filterMap heldOf } := by
  induction vs generalizing s with
  | nil => simp [State.holdG]
  | cons v vs ih =>
    have step : s.holdG k (v :: vs) = (match v with | .wgreg i x => s.hold k (.gwrite i x) | _ => s).holdG k vs := rfl
    rw [step, ih]
    cases v <;> simp [State.hold, State.modWaveAt, heldOf, List.filterMap_cons]

theorem destShift_cases {d : Dest} {m : List Nat} (h0 : (d = .none ∨ ∃ n, d = .vec n) ∨ 0 ∈ m) (k : Nat) :
    (destShift d k = .none ∨ ∃ n, destShift d k = .vec n) ∨ 0 ∈ m := by
  cases d with
  | none => exact .inl (.inl rfl)
  | vec r => exact .inl (.inr ⟨_, rfl⟩)
  | _ => exact .inr (h0.resolve_left (by simp))

section group

variable (s : State) (d : Dest) (n : Nat) (m : List Nat) (x : Nat → Nat → ScalVal)

/-- The writes of a group of `n` registers from `d` on. -/
def groupWrites : List RegVal := (List.range n).flatMap fun k => (destShift d k).writes s.wave.id.topLane (m.map fun l => (l, x k l))

/-- The outstanding result of a group, its held g registers noted. -/
def groupPend : Pend := Pend.plain ((List.range n).flatMap fun k => lateWrites s (destShift d k) m (x k)) (d.mask m)

/-- The issuing wave with the result of a group outstanding. -/
def groupWave : Wave :=
  { s.wave with pend := if d = .none then s.wave.pend else s.wave.pend ++ [groupPend s d n m x],
                fifo := s.wave.fifo ++ (List.range n).flatMap fun k => (gEffects s true (destShift d k) (sharedOf s m (x k))).2,
                idem := if Dest.isG d then { s.wave.idem with idv := false } else s.wave.idem }

variable {s d n m x}

theorem map_onceHeld_groupWrites (hr : s.wave.repro = true) : (groupWrites s d n m x).map RegVal.onceHeld = (groupPend s d n m x).writes := by
  show _ = (List.range n).flatMap fun k => lateWrites s (destShift d k) m (x k)
  simp only [groupWrites, List.map_flatMap, lateWrites, hr, if_true]

theorem groupWrites_eq (hr : s.wave.repro = false) : groupWrites s d n m x = (groupPend s d n m x).writes := by
  show _ = (List.range n).flatMap fun k => lateWrites s (destShift d k) m (x k)
  simp only [groupWrites, lateWrites, hr, Bool.false_eq_true, if_false]

variable (h0 : (d = .none ∨ ∃ r, d = .vec r) ∨ 0 ∈ m)
include h0

theorem any_isG_groupWrites (hn : 0 < n) : (groupWrites s d n m x).any RegVal.isG = Dest.isG d := by
  have each (k : Nat) : ((destShift d k).writes s.wave.id.topLane (m.map fun l => (l, x k l))).any RegVal.isG = Dest.isG d := by
    rw [writes_eq s m _ _ (destShift_cases h0 k)]
    cases d with
    | scal i => by_cases h : 32 ∈ m <;> simp [destShift, h, RegVal.isG, Dest.isG]
    | _ => rfl
  rw [groupWrites, List.any_flatMap]
  simp only [each]
  cases Dest.isG d with
  | true => exact List.any_eq_true.2 ⟨0, List.mem_range.2 hn, rfl⟩
  | false => exact List.any_eq_false.2 fun _ _ => by simp

theorem held_groupWrites (hr : s.wave.repro = true) :
    (groupWrites s d n m x).filterMap heldOf =
      (List.range n).flatMap fun k => (gEffects s true (destShift d k) (sharedOf s m (x k))).2 := by
  rw [groupWrites, List.filterMap_flatMap]
  refine List.flatMap_congr fun k _ => ?_
  rw [writes_eq s m _ _ (destShift_cases h0 k)]
  cases d with
  | scal i => by_cases h : 32 ∈ m <;> simp [destShift, h, gEffects, heldOf, List.filterMap_cons]
  | _ => simp [destShift, gEffects, hr, heldOf, List.filterMap_cons]

theorem groupWrites_isEmpty (hn : 0 < n) : (groupWrites s d n m x).isEmpty = decide (d = .none) := by
  cases d with
  | none => simp [groupWrites, destShift, Dest.writes]
  | _ =>
    obtain ⟨n, rfl⟩ := Nat.exists_eq_succ_of_ne_zero hn.ne'
    rw [groupWrites, List.range_succ_eq_map, List.flatMap_cons, writes_eq s m _ _ (destShift_cases h0 0)]
    simp [destShift]

/-- A group's outstanding result is one for all its registers; the values it holds for the commit stand in the FIFO (R123, R151, R164). -/
theorem addPend_group (hn : 0 < n) (hd : d ≠ .none) :
    s.addPend s.iss.cur (Pend.plain (groupWrites s d n m x) (d.mask m)) = s.setWave (groupWave s d n m x) := by
  have any := any_isG_groupWrites (s := s) (x := x) h0 hn
  have nonempty : (groupWrites s d n m x).isEmpty = false := by rw [groupWrites_isEmpty h0 hn, decide_eq_false hd]
  have note (u : State) (w : Wave) (hu : u = s.setWave w) : u.noteG s.iss.cur (groupWrites s d n m x) =
      s.setWave { w with idem := if Dest.isG d then { w.idem with idv := false } else w.idem } := by
    subst hu
    unfold State.noteG
    rw [any]
    cases Dest.isG d with
    | true => simp [State.modWaveAt, State.setWave, Wave.clearIdem]
    | false => rfl
  unfold State.addPend
  show (if (groupWrites s d n m x).isEmpty then s else _) = _
  rw [nonempty, if_neg (by simp), ← State.wave_def]
  cases hr : s.wave.repro with
  | true =>
    rw [if_pos rfl, modWaveAt_holdG]
    refine (note _ _ rfl).trans ?_
    dsimp only [Pend.plain]
    rw [held_groupWrites h0 hr, map_onceHeld_groupWrites hr, ← State.wave_def, groupWave, if_neg hd]
    rfl
  | false =>
    rw [if_neg (by simp)]
    refine (note _ _ rfl).trans ?_
    have unheld : ((List.range n).flatMap fun k => (gEffects s true (destShift d k) (sharedOf s m (x k))).2) = [] :=
      List.flatMap_eq_nil_iff.2 fun k _ => by cases d <;> simp [destShift, gEffects, hr]
    rw [groupWave, if_neg hd, unheld, List.append_nil, groupWrites_eq hr]
    rfl

theorem promisesGroup_groupPend : PromisesGroup s (groupPend s d n m x) d n m [] x :=
  ⟨fun l => mask_bits d m l, rfl, ⟨fun h => absurd rfl h, rfl, rfl⟩, _, rfl,
    fun k _ => (promises_writes s m (destShift d k) (x k) (destShift_cases h0 k)).writes⟩

end group

/-! ## An acquire after a change of the wave -/

/-- An acquire changes the caches alone, by what the wave is and the mode it is in (R185). -/
theorem acquireAt_setWave (s : State) {w : Wave} (scope : Nat) (hid : w.id = s.wave.id) (henv : w.env = s.wave.env) :
    (s.setWave w).acquireAt scope = (s.acquireAt scope).setWave w := by
  have at_ : (s.setWave w).waveAt s.iss.cur = w := State.waveAt_setWaveAt ..
  have repro : w.repro = (s.waveAt s.iss.cur).repro := by unfold Wave.repro; rw [hid, henv]; rfl
  unfold State.acquireAt State.acquire
  rw [State.setWave_iss, at_, repro, hid]
  split
  · rfl
  · split
    · rfl
    · unfold State.acquireCaches
      dsimp only
      split <;> rfl

theorem acquireAt_wave (s : State) (scope : Nat) : (s.acquireAt scope).wave = s.wave ∧ (s.acquireAt scope).iss = s.iss := by
  unfold State.acquireAt State.acquire State.acquireCaches
  dsimp only
  split
  · exact ⟨rfl, rfl⟩
  · split
    · exact ⟨rfl, rfl⟩
    · split <;> exact ⟨rfl, rfl⟩

/-! ## LDS -/

/-- R157: with the mixing rule in force a vector instruction's destination is a vector register or none. -/
theorem dest_of_mixing {s : State} {f : Form} {extra : Bool} {g : Grp} (ht : s.formTrap f extra = none) (hm : f.mixing = true)
    (hd : f.dst = some g) (hv : f.isVec = true) : s.dest g.o = .none ∨ ∃ n, s.dest g.o = .vec n := by
  have legal : s.illop f = false := by
    cases h : s.illop f <;> simp [State.formTrap, h] at ht ⊢
  have plain : g.o.isScalarReg = false := by
    cases hs : g.o.isScalarReg with
    | false => rfl
    | true =>
      have unmixed : f.sources.any (fun x => x.o.isVec) = false := by
        cases hx : f.sources.any fun x => x.o.isVec <;> simp [State.illop, hd, hm, hs, hx] at legal ⊢
      have vector : (f.sources.any fun x => x.o.isVec) || g.o.isVec := by
        simpa [Form.isVec, Form.all, hd] using hv
      rw [unmixed, Bool.false_or] at vector
      cases ho : g.o <;> simp [ho, Opd.isVec, Opd.isScalarReg] at vector hs
  cases ho : g.o with
  | v c => exact .inr ⟨_, rfl⟩
  | s i | g i => rw [ho] at plain; cases plain
  | _ => exact .inl rfl

theorem regCount_eq_groupRegs (v : Bool) (z : MemSize) : regCount v (byteCount z) = groupRegs v (memBytes z) := by
  cases v <;> cases z <;> rfl

theorem regCount_pos (v : Bool) (z : MemSize) : 0 < regCount v (byteCount z) := by cases v <;> cases z <;> decide

theorem spmPart_whole (m : FMap LaneVal) (a : Nat) {n : Nat} (hn : 4 ≤ n) : spmPart m a n = m.get LaneVal.zero (a / 4) := by
  simp [spmPart, hn]

theorem spmPart_part (m : FMap LaneVal) (a : Nat) {n : Nat} (hn : n < 4) : spmPart m a n = wordPart (m.get LaneVal.zero (a / 4)) (a % 4) n := by
  simp [spmPart, wordPart, Nat.not_le.2 hn]

theorem append_words (hi lo : Word32) : hi ++ lo = BitVec.ofNat 64 (lo.toNat + 2 ^ 32 * hi.toNat) := by
  refine BitVec.eq_of_toNat_eq ?_
  have high := hi.isLt
  have low := lo.isLt
  rw [BitVec.toNat_append, ← Nat.shiftLeft_add_eq_or_of_lt low, BitVec.toNat_ofNat, Nat.shiftLeft_eq]
  omega

/-- The registers that LDS fills, one by one (R180, R395). -/
theorem ldsReg_eq_ldsValue (m : FMap LaneVal) (v : Bool) (a : Nat) (z : MemSize) {k : Nat} (hk : k < regCount v (byteCount z)) :
    ldsReg m v a (memBytes z) k = ldsValue m v (byteCount z) a k := by
  have only (few : byteCount z ≤ 4) : k = 0 := by
    cases v <;> cases z <;> simp [regCount, byteCount] at hk few <;> exact hk
  have words : (a + 4 * k) / 4 = a / 4 + k := by omega
  have pairs : (a + 8 * k) / 4 = a / 4 + 2 * k ∧ (a + 8 * k + 4) / 4 = a / 4 + 2 * k + 1 := by omega
  rw [← byteCount_eq_memBytes]
  unfold ldsReg ldsValue
  by_cases small : byteCount z < 4
  · obtain rfl := only (Nat.le_of_lt small)
    cases v <;> simp [small, Nat.min_eq_left (Nat.le_of_lt small), spmPart_part m a small, show byteCount z < 8 by omega]
  · have large : min (byteCount z) 4 = 4 := by omega
    cases v with
    | true => simp [small, large, spmPart_whole m _ (Nat.le_refl 4), words]
    | false =>
      by_cases four : byteCount z = 4
      · obtain rfl := only (Nat.le_of_eq four)
        simp [four, spmPart_whole m _ (Nat.le_refl 4)]
      · have eight : ¬ byteCount z < 8 := by cases z <;> simp [byteCount] at small four ⊢
        simp only [small, large, four, eight, spmPart_whole m _ (Nat.le_refl 4), pairs, if_false, Bool.false_eq_true, decide_false, Bool.or_false,
          append_words]
        cases (m.get LaneVal.zero (a / 4 + 2 * k)).p <;> cases (m.get LaneVal.zero (a / 4 + 2 * k + 1)).p <;> simp

/-- An LDS's operands as the checks see them. -/
def ldsForm (d o : Opd) (z : MemSize) : Form := { a := some { o := o }, dst := some (memGroup d (byteCount z)) }

/-- Register `k` of an LDS in a lane: a token of the offset or the guard, else what the words give. -/
def ldsResult (s : State) (v : Bool) (o : Opd) (z : MemSize) (k l : Nat) : ScalVal :=
  match offsetTok s o l with
  | some t => ⟨t.setWidth 64, true⟩
  | none => ldsValue (seenWords s) v (byteCount z) (s.offsetOf o l).bits.toNat k

/-- The state with an LDS's result outstanding. -/
def ldsPended (s : State) (d o : Opd) (z : MemSize) : State :=
  let v := (ldsForm d o z).isVec
  s.addPend s.iss.cur (Pend.plain (groupWrites s (s.dest d) (regCount v (byteCount z)) (laneList s v) (ldsResult s v o z)) ((s.dest d).mask (laneList s v)))

theorem exec_lds {sw : Bool} {d o : Opd} {c : OrdCode} {z : MemSize} {s : State} (hi : s.issuing = true)
    (ht : s.formTrap (ldsForm d o z) (!(c == .plain || c == .wg) || !dataReg d) = none)
    (hp : s.pickTrap (ldsForm d o z).isVec (s.spmFails (ldsForm d o z).isVec o (byteCount z) fun l => (offsetTok s o l).isSome) = none) :
    exec (.lds sw d o c z) s = .next (((ldsPended s d o z).acquireAt (ordScope c)).retire sw) := by
  have form : ({ a := some { o := o }, dst := some (groupOf d (memBytes z)) } : Form) = ldsForm d o z := by rw [ldsForm, memGroup_eq_groupOf]
  show execLds sw d o c z s = _
  unfold execLds
  dsimp only
  rw [form, ← byteCount_eq_memBytes] at *
  have passes : firstTrap [s.formTrap (ldsForm d o z) (!spmOrd c || !dataReg d),
      s.pickTrap (ldsForm d o z).isVec (s.spmFails (ldsForm d o z).isVec o (byteCount z) fun l => (offsetTok s o l).isSome)] = none := by
    rw [hp]
    exact congrArg (firstTrap [·, none]) ht
  simp only [offsetTok] at passes
  rw [passes, guarded_of_none _ hi, workLanes_eq]
  refine congrArg (fun ws => Host.Outcome.next (((s.addPend s.iss.cur (Pend.plain ws ((s.dest d).mask
    (laneList s (ldsForm d o z).isVec)))).acquireAt (ordScope c)).retire sw)) ?_
  rw [byteCount_eq_memBytes, ← regCount_eq_groupRegs]
  refine List.flatMap_congr fun k hk => congrArg _ (List.map_congr_left fun l _ => congrArg (l, ·) ?_)
  rw [ldsReg_eq_ldsValue _ _ _ z (List.mem_range.1 hk)]
  rfl

/-- Settles O22: an LDS leaves the result of a group, and its acquire commutes with that. -/
theorem scratchpadLoads : Obligations.ScratchpadLoads := by
  unfold Obligations.ScratchpadLoads
  intro sw d o c z s hi
  dsimp only
  intro ht hp
  have run := exec_lds (sw := sw) (c := c) hi ht hp
  obtain ⟨acqWave, acqIss⟩ := acquireAt_wave s (ordScope c)
  have h0 : (s.dest d = .none ∨ ∃ r, s.dest d = .vec r) ∨ 0 ∈ laneList s (ldsForm d o z).isVec := by
    cases hv : (ldsForm d o z).isVec with
    | true => exact .inl (dest_of_mixing (f := ldsForm d o z) ht rfl rfl hv)
    | false => exact .inr (by simp only [laneList, Bool.false_eq_true, if_false, scalarLanes]; split <;> simp)
  by_cases hd : s.dest d = .none
  · have pended : ldsPended s d o z = s := by
      unfold ldsPended State.addPend
      exact if_pos ((groupWrites_isEmpty h0 (regCount_pos _ z)).trans (decide_eq_true hd))
    rw [pended] at run
    refine ⟨_, run, _, ran_retire _ sw, ?_, ?_, ?_⟩
    · rw [acqWave, hd]
      rfl
    · rw [if_pos hd, acqWave]
    · rw [hd, acqWave]
      exact (List.append_right_eq_self.2 (List.flatMap_eq_nil_iff.2 fun _ _ => rfl)).symm
  · have pended : ldsPended s d o z = s.setWave (groupWave s (s.dest d) _ _ _) := addPend_group h0 (regCount_pos _ z) hd
    rw [pended, acquireAt_setWave s (ordScope c) (by rfl) (by rfl)] at run
    refine ⟨_, run, _, ran_setWave _ _ sw ?_ ?_, rfl, ?_, rfl⟩
    · rw [acqWave]; rfl
    · rw [acqWave]; rfl
    · rw [if_neg hd]
      exact ⟨_, if_neg hd, promisesGroup_groupPend h0⟩

/-! ## STS -/

theorem performSpm_spmStore (s : State) (ws : List (Nat × SpmAct)) : s.performSpm s.iss.cur (.spmStore ws) =
    s.setWgAt s.wave.id.wgKey { s.wgAt s.wave.id.wgKey with scratch := spmAfter (s.wgAt s.wave.id.wgKey).scratch (.spmStore ws) } := rfl

/-- An STS's operands as the checks see them. -/
def stsForm (d o : Opd) (z : MemSize) : Form := { a := some { o := o }, data := some (memGroup d (byteCount z)) }

/-- What an STS stores. -/
def stsEff (s : State) (d o : Opd) (z : MemSize) : Eff :=
  .spmStore ((laneList s (stsForm d o z).isVec).flatMap fun l => s.stsWords (stsForm d o z).isVec d (s.offsetOf o l).bits.toNat (byteCount z) l)

theorem exec_sts {sw : Bool} {d o : Opd} {c : OrdCode} {z : MemSize} {s : State} (hi : s.issuing = true)
    (hp : spmPasses s (stsForm d o z) (!(c == .plain || c == .wg) || !dataReg d || (o.isVec && !d.isVec && decide (4 < byteCount z))) o (byteCount z)
      (fun l => (s.offsetOf o l).p) (offsetTok s o)) :
    exec (.sts sw d o c z) s = if s.wave.repro then s.withRoom 1 fun u => .next ((u.hold u.iss.cur (stsEff s d o z)).retire sw)
      else .next (((s.releaseAt (ordScope c)).performSpm s.iss.cur (stsEff s d o z)).retire sw) := by
  obtain ⟨hform, hpick, hpoison⟩ := hp
  have form : storeForm d o (memBytes z) = stsForm d o z := by rw [stsForm, storeForm, memGroup_eq_groupOf]
  have passes : firstTrap [s.formTrap (stsForm d o z) (!spmOrd c || !dataReg d || storeMix d o (byteCount z)),
      s.pickTrap (stsForm d o z).isVec (s.spmFails (stsForm d o z).isVec o (byteCount z) fun l => (s.offsetOf o l).p),
      s.lanePoison (stsForm d o z).isVec (offsetTok s o)] = none := by
    rw [hpick, hpoison]
    exact congrArg (firstTrap [·, none, none]) hform
  show execSts sw d o c z s = _
  unfold execSts
  dsimp only
  rw [form, ← byteCount_eq_memBytes]
  refine (congrArg (s.guarded · _) passes).trans ((guarded_of_none _ hi).trans ?_)
  rw [workLanes_eq]
  rfl

/-- Settles O24: outside reproducible mode the store is performed after its release, in it the wave holds it; the two laws of a word
are those of reading a map after a write. -/
theorem scratchpadStores : Obligations.ScratchpadStores := by
  unfold Obligations.ScratchpadStores
  refine ⟨fun sw d o c z s hi hp => ⟨fun hr => ?_, fun hr room => ?_⟩, fun m i j v => FMap.get_set .., fun m i j bs poisoned => ?_⟩
  · have cur : (s.releaseAt (ordScope c)).iss.cur = s.iss.cur := congrArg (·.cur) (releaseAt_sameTask s (ordScope c)).iss
    refine ⟨_, (exec_sts hi hp).trans ?_, ran_retire _ sw⟩
    rw [if_neg (by simp [hr]), ← cur, stsEff, performSpm_spmStore]
    rfl
  · refine ⟨_, (exec_sts hi hp).trans ?_, ran_setWave s _ sw rfl rfl⟩
    rw [if_pos hr, withRoom_of_fifoRooms room]
    rfl
  · have same : SpmAct.apply (.bytes bs) (m.get LaneVal.zero i) = m.get LaneVal.zero i := if_pos poisoned
    show (spmPut m i (SpmAct.apply (.bytes bs) (m.get LaneVal.zero i))).get LaneVal.zero j = _
    rw [same, spmPut, FMap.get_set]
    split
    next here => rw [here]
    next => rfl

end Sys2Proof.Claims
end

section
/-!
PROOF. What the traffic of a wave's memory operations leaves of the machine: all but memory, the caches, the TLBs and what goes out (R184, R185).
-/

namespace Sys2Proof.Claims

open Sys2Proof.Machine

/-- `u` is `s` after memory operations of waves: memory, the caches, the TLBs and what is on its way to other devices aside the machine is
as it was, and so are the slots of every wave. -/
structure Traffic (s u : State) : Prop where
  parts : u = { s with mem := u.mem, caches := u.caches, harts := u.harts, waves := u.waves, belay := u.belay, tlbs := u.tlbs, tick := u.tick,
                       eng := { s.eng with outbox := u.eng.outbox } }
  slots : ∀ k b, (u.waveAt k).pcs.slot b = (s.waveAt k).pcs.slot b

namespace Traffic

variable {s u v : State}

theorem refl (s : State) : Traffic s s := ⟨rfl, fun _ _ => rfl⟩

theorem trans (h : Traffic s u) (h' : Traffic u v) : Traffic s v := by
  refine ⟨?_, fun k b => (h'.slots k b).trans (h.slots k b)⟩
  rw [h'.parts, h.parts]

theorem foldl {β : Type} {f : State → β → State} (l : List β) (hf : ∀ u b, Traffic u (f u b)) : Traffic s (l.foldl f s) :=
  List.foldlRecOn l f (motive := Traffic s) (refl s) fun u hu b _ => hu.trans (hf u b)

theorem setWaveAt (s : State) {k : Nat} {w : Wave} (hw : ∀ b, w.pcs.slot b = (s.waveAt k).pcs.slot b) : Traffic s (s.setWaveAt k w) := by
  refine ⟨rfl, fun j b => ?_⟩
  by_cases h : j = k
  · subst h
    rw [State.waveAt_setWaveAt, hw]
  · rw [State.waveAt_setWaveAt_other _ _ h]

theorem modWaveAt (s : State) (k : Nat) (f : Wave → Wave) (hf : ∀ w, (f w).pcs = w.pcs := by intros; rfl) : Traffic s (s.modWaveAt k f) :=
  setWaveAt s fun b => by rw [hf]

theorem iss (h : Traffic s u) : u.iss = s.iss := by rw [h.parts]

theorem hub (h : Traffic s u) : u.hub = s.hub := by rw [h.parts]

/-- The slot that issues stays occupied. -/
theorem issuing (h : Traffic s u) : u.issuing = s.issuing := by
  rw [State.issuing, State.issuing, State.wave_def, State.wave_def, h.iss, h.slots]

end Traffic

theorem OnlyMemory.traffic {s u : State} (h : OnlyMemory s u) : Traffic s u :=
  ⟨by rw [h.1], fun k b => congrArg (·.pcs.slot b) (h.noWait_waveAt k)⟩

section
variable (s : State) (k : Nat)

/-- A wave after stores of a context that may reach its divergence stack (R108). -/
def strayedBy (asid : Nat) (pas : List Nat) (w : Wave) : Wave :=
  if s.inStack asid pas w = true then { w with pcs := { w.pcs with stray := true } } else w

theorem strays_eq (asid : Nat) (pas : List Nat) :
    s.strays asid pas = { s with waves := s.waves.map fun e => (e.1, strayedBy s asid pas e.2) } := by
  unfold State.strays
  congr 1
  refine List.map_congr_left fun e _ => ?_
  unfold strayedBy
  split <;> rfl

theorem strays_traffic (asid : Nat) (pas : List Nat) : Traffic s (s.strays asid pas) := by
  refine ⟨rfl, fun j b => ?_⟩
  rw [strays_eq]
  simp only [State.waveAt, FMap.get, FMap.find_map]
  cases s.waves.find j with
  | none => rfl
  | some w =>
    dsimp only [Option.map, Option.getD, strayedBy]
    split <;> rfl

theorem countLeft_traffic (pas : List Nat) : Traffic s (s.countLeft k pas) := by
  unfold State.countLeft
  split
  · exact .refl s
  · exact .modWaveAt s k _

theorem noteG_traffic (vs : List RegVal) : Traffic s (s.noteG k vs) := by
  unfold State.noteG
  split
  · exact .modWaveAt s k _
  · exact .refl s

theorem addPend_traffic (p : Pend) : Traffic s (s.addPend k p) := by
  unfold State.addPend
  split
  · exact .refl s
  · split
    · refine Traffic.trans (.trans (.foldl _ fun u v => ?_) (.modWaveAt _ k _)) (noteG_traffic ..)
      split
      · exact .modWaveAt u k _
      · exact .refl u
    · exact (Traffic.modWaveAt s k _).trans (noteG_traffic ..)

theorem sendAtomic_traffic (pages : List VPage) (ops : List (AtomOp × Nat × Word32 × Word32)) (returns : Bool) :
    Traffic s (s.sendAtomic k pages ops returns) := by
  unfold State.sendAtomic
  split
  · exact .refl s
  · exact ⟨rfl, fun _ _ => rfl⟩

theorem sendStore_traffic (pages : List VPage) (bytes : List (Nat × Byte)) : Traffic s (s.sendStore k pages bytes) := by
  unfold State.sendStore State.sendRemote
  split
  · exact .refl s
  · exact ⟨rfl, fun _ _ => rfl⟩

theorem atomAt_traffic (gc : Nat) (cs : Bool) (op : AtomOp) (ord : OrdCode) (a : Nat) (x y : Word32) :
    Traffic s (s.atomAt gc cs op ord a x y).2 := by
  by_cases h : cs = true ∨ isRemote a = false
  · exact (atomAt_onlyMemory s gc cs op ord a x y h).traffic
  · obtain ⟨hc, hf⟩ := not_or.1 h
    simp only [State.atomAt, Bool.not_eq_true _ ▸ hc, Bool.not_eq_false _ ▸ hf, Bool.false_eq_true, if_false, if_true]
    exact ⟨rfl, fun _ _ => rfl⟩

theorem atomStep_traffic (gc : Nat) (cs : Bool) (op : AtomOp) (ord : OrdCode)
    (acc : List (Nat × LaneVal) × List (Nat × BitVec 8 × Nat) × State) (l : AtomLane) : Traffic acc.2.2 (atomStep gc cs op ord acc l).2.2 := by
  unfold atomStep
  split
  · exact .refl _
  · split
    · exact .refl _
    · exact atomAt_traffic ..

theorem performAtom_traffic (gc : Nat) (cs : Bool) (op : AtomOp) (ord : OrdCode) (lanes : List AtomLane) (pc : Word64) (dst : Dest)
    (pages : List VPage) : Traffic s (s.performAtom k gc cs op ord lanes pc dst pages) := by
  have lanesDone : Traffic s (lanes.foldl (atomStep gc cs op ord) ([], [], s)).2.2 :=
    List.foldlRecOn lanes (atomStep gc cs op ord) (motive := fun acc => Traffic s acc.2.2) (.refl s) fun acc h l _ =>
      h.trans (atomStep_traffic gc cs op ord acc l)
  have sent := lanesDone.trans (sendAtomic_traffic _ k pages (remoteOps cs op lanes) (dst != .none))
  have returned (u : State) (fs : List (Nat × BitVec 8 × Nat)) (p : Pend) : Traffic u ((u.makeTokens k pc fs).2.addPend k p) :=
    .trans (u := (u.makeTokens k pc fs).2) (.setWaveAt u fun _ => rfl) (addPend_traffic ..)
  cases dst with
  | none => exact sent
  | vec r => exact sent.trans (returned ..)
  | scal i => exact sent.trans (returned ..)
  | wgreg i => exact sent.trans (returned ..)

theorem performStore_traffic (gc : Nat) (cs nc : Bool) (bytes : List (Nat × Byte)) (pages : List VPage) :
    Traffic s (s.performStore k gc cs nc bytes pages) := by
  unfold State.performStore
  split
  · exact (cscrWrite_onlyMemory ..).traffic
  · exact (arriveLocal_onlyMemory ..).traffic.trans (sendStore_traffic ..)

theorem performMem_traffic (e : Eff) : Traffic s (s.performMem k e) := by
  have strayed := strays_traffic s (s.waveAt k).id.asid.toNat e.locals
  cases e with
  | store => exact strayed.trans ((performStore_traffic ..).trans (countLeft_traffic ..))
  | atom => exact strayed.trans ((performAtom_traffic ..).trans (countLeft_traffic ..))
  | _ => exact strayed

theorem drainFifo_traffic : Traffic s (s.drainFifo k) :=
  (Traffic.modWaveAt s k _).trans (.foldl _ fun u e => performMem_traffic u k e)

theorem releaseCaches_traffic (scope : Nat) : Traffic s (s.releaseCaches k scope) := by
  unfold State.releaseCaches
  have drained := (wcbDrain_onlyMemory s (s.waveAt k).id.gcore).traffic
  dsimp only
  split
  · exact drained
  · exact drained.trans ((l2WriteBack_onlyMemory ..).traffic.trans (.modWaveAt _ k _))

/-- A release moves memory's bytes alone (R185). -/
theorem release_traffic (scope : Nat) : Traffic s (s.release k scope) := by
  unfold State.release
  split
  · exact .refl s
  · exact (drainFifo_traffic ..).trans (releaseCaches_traffic ..)

theorem release_sameTask (scope : Nat) : SameTask s (s.release k scope) := by
  unfold State.release
  split
  · exact .refl s
  · exact (drainFifo_sameTask ..).trans (releaseCaches_sameTask ..)

/-- An acquire drops clean lines of the caches (R185). -/
theorem acquire_onlyMemory (scope : Nat) : OnlyMemory s (s.acquire k scope) := by
  unfold State.acquire State.acquireCaches
  dsimp only
  split
  · exact .refl s
  · split <;> exact .of_parts ..

theorem setMet_traffic : Traffic s (s.setMet k) := (Traffic.modWaveAt s k _).trans (dropEntry_onlyMemory ..).traffic

theorem setMet_sameTask : SameTask s (s.setMet k) := (SameTask.modWaveAt s k _).trans (dropEntry_onlyMemory ..).sameTask

end

end Sys2Proof.Claims
end

section
/-!
PROOF. SEMWAIT, SEMSIG and SEMRD (R437, R438); scalar results that stay outstanding, waits that are done at once, and requests (R122, R125, R222).
-/

namespace Sys2Proof.Claims

open Sys2Proof.Machine

/-! ## A scalar result -/

theorem dest_of_sgz {s : State} {d : Opd} (h : d.sgz = true) (r : Nat) : s.dest d ≠ .vec r := by
  cases d with
  | s | g | zero => exact nofun
  | _ => cases h

/-- A scalar result is that of lane 0 (R157). -/
theorem scalVal_eq_writes {d : Dest} (hd : ∀ r, d ≠ .vec r) (top : Nat) (v : ScalVal) : d.scalVal v = d.writes top ([0].map fun l => (l, v)) := by
  cases d with
  | vec r => exact absurd rfl (hd r)
  | wgreg i => by_cases h : 0 = top <;> simp [Dest.scalVal, Dest.writes, h]
  | _ => rfl

theorem mask_of_noVec {d : Dest} (hd : ∀ r, d ≠ .vec r) : d.mask [0] = 1#64 := by
  cases d with
  | vec r => exact absurd rfl (hd r)
  | _ => rfl

section
variable (s : State) (k : Nat)

theorem touch_holdG (vs : List RegVal) : (touch s k).holdG k vs = touch (s.holdG k vs) k := by
  induction vs generalizing s with
  | nil => rfl
  | cons v vs ih =>
    have step (u : State) : u.holdG k (v :: vs) = (match v with | .wgreg i x => u.hold k (.gwrite i x) | _ => u).holdG k vs := rfl
    rw [step, step, ← ih]
    cases v with
    | wgreg i x => exact congrArg (·.holdG k vs) (touch_modWaveAt s k _)
    | _ => rfl

theorem touch_addPend (p : Pend) : (touch s k).addPend k p = touch (s.addPend k p) k := by
  have repro : ((touch s k).waveAt k).repro = (s.waveAt k).repro := by simp [touch]
  simp only [State.addPend, repro, touch_holdG, touch_modWaveAt, touch_noteG]
  split
  · rfl
  · split <;> rfl

end

/-- A plain scalar result that stays outstanding (R164). -/
theorem addPend_computes {s : State} {d : Dest} (sw : Bool) (x : Word64) (hi : s.issuing = true) (hd : ∀ r, d ≠ .vec r) :
    Computes s sw true d [0] (fun _ => .val x 0#6) ((s.addPend s.iss.cur (Pend.plain (d.scalVal ⟨x, false⟩) 1#64)).retire sw) := by
  have h0 : (d = .none ∨ ∃ n, d = .vec n) ∨ 0 ∈ [0] := .inr (List.mem_singleton.2 rfl)
  have added := addPend_withWave s s.wave d [0] (fun _ => ⟨x, false⟩) h0 rfl rfl
  rw [← scalVal_eq_writes hd, mask_of_noVec hd, ← touch_cur, touch_addPend] at added
  rw [retire_of_touch added]
  let v : Wave := { s.wave with
    pend := if d = .none then s.wave.pend else s.wave.pend ++ [Pend.plain (lateWrites s d [0] fun _ => ⟨x, false⟩) 1#64],
    fifo := s.wave.fifo ++ (gEffects s true d ⟨x, false⟩).2, idem := if Dest.isG d then { s.wave.idem with idv := false } else s.wave.idem }
  refine ⟨v, [], ⟨holds_none _ _ _, ?_, ⟨?_, rfl⟩, rfl, rfl⟩, (halfAfter_of_val ..).symm, (halfAfter_of_val ..).symm,
    went_withWave s v [] sw 1 hi rfl rfl⟩
  · by_cases none : d = .none
    · simp [v, none]
    · simp only [v, none, if_false, ne_eq, not_false_eq_true, and_true, if_true]
      exact ⟨_, rfl, mask_of_noVec hd ▸ promises_writes s [0] d _ h0⟩
  · cases d with
    | wgreg i => cases hr : s.wave.repro <;> simp [gEffects, hr]
    | _ => rfl

/-! ## A wait that is done at once, and a request -/

/-- A waiting instruction that goes on at once acquires and answers 0 (R222). -/
theorem waitDone_computes {s : State} {d : Dest} (sw : Bool) (kind : WaitKind) (hi : s.issuing = true) (hd : ∀ r, d ≠ .vec r) :
    Computes (s.acquire s.iss.cur kind.scope) sw false d [0] (fun _ => .val 0#64 0#6) (s.waitDone sw kind d 0) := by
  have acquired := (acquire_onlyMemory s s.iss.cur kind.scope).traffic
  have done := writeScal_computes sw 0#64 (acquired.issuing.trans hi) hd
  rwa [acquired.iss] at done

theorem toNat_nextQuantum (qlog : Nat) (q : Word64) : (nextQuantum qlog q).toNat = (q.toNat / 2 ^ qlog + 1) * 2 ^ qlog % 2 ^ 64 :=
  BitVec.toNat_ofNat ..

theorem requestWait_requests (s : State) (w : Wait) : Requests s w (s.requestWait w) := ⟨_, toNat_nextQuantum .., rfl⟩

/-! ## Semaphores -/

theorem head_of_firstTrap {t : Option Trap} {ts : List (Option Trap)} (h : firstTrap (t :: ts) = none) : t = none := by
  cases t with
  | none => rfl
  | some t => cases (firstTrap_cons_some t ts).symm.trans h

/-- The selector's fields (R437). -/
theorem selIdx_eq (x : Word64) : selIdx x = x.toNat % 1024 := by simp [selIdx]

section
variable {s : State} {a b : Opd}

theorem bad_of_semTrap {x : ScalVal} {os : List Opd} {bad : Bool} (ht : s.semTrap bad os x = none) : bad = false :=
  extra_of_formTrap (head_of_firstTrap ht)

theorem exec_semwait {sw : Bool} {d : Opd} (hi : s.issuing = true) (ht : s.semTrap (!d.sgz || !a.sg || !b.sgz) [a, b] (s.selOf a) = none) :
    exec (.semwait sw d a b) s =
      let w := s.semWaitOf sw d (s.sval a) ((s.sval b).setWidth 32)
      if s.wave.repro then .next (s.requestWait w)
      else if (s.sval b).toNat % 2 ^ 32 ≤ (s.semCount ((s.sval a).getLsbD 10) s.wave.id.cluster ((s.sval a).toNat % 1024)).toNat then
        .next (s.waitDone sw w.kind (s.dest d) 0)
      else .next (s.beginWait w id) := by
  show execSemwait sw d a b s = _
  rw [execSemwait, ht, guarded_of_none _ hi, ← selIdx_eq, ← BitVec.toNat_setWidth]
  rfl

theorem exec_semsig {sw : Bool} (hi : s.issuing = true) (ht : s.semTrap (!a.sg || !b.sg) [a, b] (s.selOf a) = none) :
    exec (.semsig sw a b) s =
      let dev := (s.sval a).getLsbD 10
      let idx := (s.sval a).toNat % 1024
      let n : Word32 := (s.sval b).setWidth 32
      if s.wave.repro then .next ((s.setWave { (noRight s.wave) with fifo := s.wave.fifo ++ [.semsig dev idx n] }).retire sw)
      else .next ((((s.setWave (noRight s.wave)).release s.iss.cur (if dev then 4 else 2)).semAdd dev s.wave.id.cluster idx n).retire sw) := by
  have wave : (s.setWave (noRight s.wave)).wave = noRight s.wave := State.waveAt_setWaveAt ..
  have held (e : Eff) : (s.setWave (noRight s.wave)).hold s.iss.cur e = s.setWave { (noRight s.wave) with fifo := s.wave.fifo ++ [e] } := by
    simp [State.hold, State.modWaveAt, State.setWave, noRight]
  show execSemsig sw a b s = _
  rw [execSemsig, ht, guarded_of_none _ hi, ← selIdx_eq]
  dsimp only
  rw [← held, show s.wave.clearIdem = noRight s.wave from rfl, wave]
  rfl

theorem exec_semrd {sw : Bool} {d : Opd} (hi : s.issuing = true) (ht : s.semTrap (!d.sgz || !a.sg) [a] (s.selOf a) = none) :
    exec (.semrd sw d a) s = .next ((s.addPend s.iss.cur (Pend.plain ((s.dest d).scalVal
      ⟨(s.countSeen ((s.sval a).getLsbD 10) ((s.sval a).toNat % 1024)).setWidth 64, false⟩) 1#64)).retire sw) := by
  show execSemrd sw d a s = _
  rw [execSemrd, ht, guarded_of_none _ hi, ← selIdx_eq]
  rfl

end

/-- What a held effect adds to a semaphore. -/
def ownSignal (dev : Bool) (idx : Nat) : Eff → Option Nat
  | .semsig d i x => if d = dev ∧ i = idx then some x.toNat else none
  | _ => none

/-- Counts that go up one by one, modulo 2^32, have gone up by the sum. -/
theorem toNat_foldl_signals {f : Word32 → Eff → Word32} {g : Eff → Option Nat}
    (hf : ∀ c e, (f c e).toNat = (c.toNat + (g e).getD 0) % 2 ^ 32) (l : List Eff) (c : Word32) :
    (l.foldl f c).toNat = (c.toNat + (l.filterMap g).sum) % 2 ^ 32 := by
  induction l generalizing c with
  | nil => exact (Nat.mod_eq_of_lt c.isLt).symm
  | cons e l ih =>
    rw [List.foldl_cons, ih, hf, List.filterMap_cons]
    cases g e with
    | none => simp
    | some n => simp [Nat.add_assoc]

/-- A wave's held signals of a semaphore, added up (R438). -/
theorem toNat_heldSig (w : Wave) (dev : Bool) (idx : Nat) :
    (w.heldSig dev idx).toNat = (w.fifo.filterMap (ownSignal dev idx)).sum % 2 ^ 32 := by
  refine (toNat_foldl_signals (g := ownSignal dev idx) (fun c e => ?_) w.fifo 0#32).trans (by simp)
  cases e with
  | semsig d i x => by_cases h : d = dev ∧ i = idx <;> simp [ownSignal, h, Nat.mod_eq_of_lt c.isLt]
  | _ => exact (Nat.mod_eq_of_lt c.isLt).symm

/-- A signal that is sent has added to the count, whatever its release moved (R226, R437). -/
theorem semCount_signalled (s : State) (w : Wave) (k scope : Nat) (dev : Bool) (cluster idx : Nat) (x : Word64) (sw : Bool) :
    let u := ((s.setWave w).release k scope).semAdd dev cluster idx (x.setWidth 32)
    ((u.retire sw).semCount dev cluster idx).toNat = ((s.semCount dev cluster idx).toNat + x.toNat) % 2 ^ 32 := by
  have hub : ((s.setWave w).release k scope).hub = s.hub := (release_traffic ..).hub
  have before : ((s.setWave w).release k scope).semCount dev cluster idx = s.semCount dev cluster idx := by simp only [State.semCount, hub]
  have counted := (semAdd_counts ((s.setWave w).release k scope) dev cluster idx (x.setWidth 32)).2
  show (State.semCount _ dev cluster idx).toNat = _
  rw [State.retire, retireN_eq_goneOn, show ∀ u : State, State.semCount (goneOn u u.wave [] sw 1) = u.semCount from fun _ => rfl, counted, before,
    BitVec.toNat_add, BitVec.toNat_setWidth, Nat.add_mod_mod]

/-- The count that SEMRD answers (R438). -/
theorem countSeen_eq (s : State) (dev : Bool) (idx : Nat) :
    let committed := (s.launchAt s.wave.id.launchKey).seen
    let atCommit : Word32 := if dev then committed.1.get 0#32 idx else committed.2.get 0#32 (256 * s.wave.id.cluster + idx)
    (s.countSeen dev idx).setWidth 64 = BitVec.ofNat 64 (if s.wave.repro
      then (atCommit.toNat + (s.wave.fifo.filterMap (ownSignal dev idx)).sum) % 2 ^ 32 else (s.semCount dev s.wave.id.cluster idx).toNat) := by
  intro committed atCommit
  rw [← BitVec.ofNat_toNat]
  congr 1
  unfold State.countSeen
  split
  · exact (BitVec.toNat_add ..).trans (by rw [toNat_heldSig, Nat.add_mod_mod])
  · rfl

/-- Settles O29: each instruction as it goes on; the count of SEMRD is that of the last commit with what the wave holds. -/
theorem semaphores : Obligations.Semaphores := by
  unfold Obligations.Semaphores
  refine ⟨fun sw d a b s hi ht => ?_, fun sw d a b s hi ht => ?_, fun sw a b s hi ht => ?_, fun sw d a s hi ht => ?_⟩
  · intro dev hr enough
    have sgz : d.sgz = true := by simpa using (Bool.or_eq_false_iff.1 (Bool.or_eq_false_iff.1 (bad_of_semTrap ht)).1).1
    have run := exec_semwait (sw := sw) hi ht
    rw [if_neg (by simp [hr]), if_pos enough] at run
    have done := waitDone_computes (d := s.dest d) sw (if dev then .semDev else .semClu) hi (dest_of_sgz sgz)
    refine ⟨_, run, ?_⟩
    have scope : (if dev then WaitKind.semDev else .semClu).scope = if dev then 4 else 2 := by cases dev <;> rfl
    rwa [scope] at done
  · intro dev idx asked
    have run := exec_semwait (sw := sw) hi ht
    have asks : asked (s.semWaitOf sw d (s.sval a) ((s.sval b).setWidth 32)) := by
      refine ⟨rfl, ?_, ?_, rfl, rfl, rfl⟩
      · simp only [State.semWaitOf, selIdx_eq]; rfl
      · exact (BitVec.toNat_setWidth_of_le (by decide)).trans (BitVec.toNat_setWidth ..)
    refine ⟨fun hr few => ⟨_, run.trans ?_, _, asks, rfl⟩, fun hr => ⟨_, run.trans (if_pos hr), _, asks, requestWait_requests ..⟩⟩
    exact (if_neg (by simp [hr])).trans (if_neg (Nat.not_le.2 few))
  · intro dev idx
    have run := exec_semsig (sw := sw) hi ht
    refine ⟨fun hr => ?_, fun hr => ?_⟩
    · exact ⟨_, run.trans (if_neg (by simp [hr])), ran_retire _ sw, semCount_signalled ..⟩
    · exact ⟨_, run.trans (if_pos hr), ran_setWave s _ sw rfl rfl⟩
  · intro dev idx committed atCommit own
    have sgz : d.sgz = true := by simpa using (Bool.or_eq_false_iff.1 (bad_of_semTrap ht)).1
    refine ⟨_, (exec_semrd hi ht).trans ?_, addPend_computes sw _ hi (dest_of_sgz sgz)⟩
    rw [countSeen_eq]
    rfl

end Sys2Proof.Claims
end

section
/-!
PROOF. BAR, BARC and DRAIN (R223, R224, R353, R354, R370).
-/

namespace Sys2Proof.Claims

open Sys2Proof.Machine

/-! ## What completing a barrier leaves of the waves -/

/-- The same slot issues, and every wave is as it was but for its wait and what it counts as left. -/
structure OnlyWaits (s u : State) : Prop where
  iss : u.iss = s.iss
  waves : ∀ k, noWait (u.waveAt k) = noWait (s.waveAt k)

namespace OnlyWaits

variable {s u v : State}

theorem refl (s : State) : OnlyWaits s s := ⟨rfl, fun _ => rfl⟩

theorem trans (h : OnlyWaits s u) (h' : OnlyWaits u v) : OnlyWaits s v :=
  ⟨h'.iss.trans h.iss, fun k => (h'.waves k).trans (h.waves k)⟩

theorem foldl {β : Type} {f : State → β → State} (l : List β) (hf : ∀ u b, OnlyWaits u (f u b)) : OnlyWaits s (l.foldl f s) :=
  List.foldlRecOn l f (motive := OnlyWaits s) (refl s) fun u hu b _ => hu.trans (hf u b)

theorem modWaveAt (s : State) (k : Nat) {f : Wave → Wave} (hf : ∀ w, noWait (f w) = noWait w) : OnlyWaits s (s.modWaveAt k f) := by
  refine ⟨rfl, fun j => ?_⟩
  by_cases h : j = k
  · subst h
    rw [State.modWaveAt, State.waveAt_setWaveAt, hf]
  · rw [State.modWaveAt, State.waveAt_setWaveAt_other _ _ h]

theorem issuing (h : OnlyWaits s u) : u.issuing = s.issuing := by
  have wave := h.waves s.iss.cur
  rw [State.issuing, State.issuing, State.wave_def, State.wave_def, h.iss]
  exact congrArg (fun w => (w.pcs.slot s.iss.slot).isSome) wave

theorem st (h : OnlyWaits s u) (k : Nat) : (u.waveAt k).st = (s.waveAt k).st := congrArg (·.st) (h.waves k)

end OnlyWaits

theorem OnlyMemory.onlyWaits {s u : State} (h : OnlyMemory s u) : OnlyWaits s u := ⟨h.iss, h.noWait_waveAt⟩

section
variable (s : State)

theorem releaseBarrier_onlyWaits (wgs : List Nat) (clusterWide : Bool) (b : Nat) : OnlyWaits s (s.releaseBarrier wgs clusterWide b) := by
  refine .foldl _ fun u e => ?_
  split
  · split
    · refine .trans ?_ (dropEntry_onlyMemory ..).onlyWaits
      exact .modWaveAt u e.1 fun _ => rfl
    · exact .refl u
  · exact .refl u

theorem foldl_modWgAt_onlyWaits (f : Wg → Wg) (wgs : List Nat) : OnlyWaits s (wgs.foldl (fun u k => u.modWgAt k f) s) :=
  .foldl wgs fun _ _ => ⟨rfl, fun _ => rfl⟩

theorem completeBars_onlyWaits (wg : Nat) : OnlyWaits s (s.completeBars wg) := by
  refine .foldl _ fun u b => ?_
  dsimp only
  split
  · exact .trans (u := u.setWgAt wg _) ⟨rfl, fun _ => rfl⟩ (releaseBarrier_onlyWaits ..)
  · exact .refl u

theorem completeCbars_onlyWaits (wg : Nat) : OnlyWaits s (s.completeCbars wg) := by
  unfold State.completeCbars
  dsimp only
  split
  · exact .refl s
  · refine .foldl _ fun u b => ?_
    split
    · split
      · exact ⟨rfl, fun _ => rfl⟩
      · exact (foldl_modWgAt_onlyWaits u _ _).trans (releaseBarrier_onlyWaits ..)
    · exact .refl u

theorem arrive_onlyWaits (k : Nat) (cluster : Bool) (b : Nat) : OnlyWaits s (s.arrive k cluster b) := by
  have set : OnlyWaits s (s.setArrival k cluster b true) := ⟨rfl, fun _ => rfl⟩
  unfold State.arrive
  dsimp only
  split
  · exact set.trans (completeCbars_onlyWaits ..)
  · exact set.trans (completeBars_onlyWaits ..)

end

/-- Arriving at a barrier leaves the issuing slot as it is. -/
theorem arrivedAt_issuing (s : State) (n : Nat) (cluster : Bool) (rel : Nat) :
    (arrivedAt s n cluster rel).iss = s.iss ∧ (arrivedAt s n cluster rel).issuing = s.issuing := by
  let r := s.release s.iss.cur rel
  have released : Traffic s (r.setWave (noRight r.wave)) :=
    (release_traffic ..).trans (.setWaveAt r (k := r.iss.cur) (w := noRight r.wave) fun _ => rfl)
  have arrives := arrive_onlyWaits (r.setWave (noRight r.wave)) s.iss.cur cluster n
  exact ⟨arrives.iss.trans released.iss, arrives.issuing.trans released.issuing⟩

/-! ## The barrier instructions -/

/-- A wave has arrived and is still missed where a bit of its own stays in the barrier's mask. -/
theorem and_ne_zero_eq_any (x y : BitVec 32) : ((x &&& y) != 0#32) = (List.range 32).any fun i => x.getLsbD i && y.getLsbD i := by
  rw [Bool.eq_iff_iff, bne_iff_ne, ne_eq, List.any_eq_true]
  constructor
  · intro some
    by_contra none
    refine some (BitVec.eq_of_getLsbD_eq fun i hi => ?_)
    have off : (x.getLsbD i && y.getLsbD i) ≠ true := fun on => none ⟨i, List.mem_range.2 hi, on⟩
    rw [BitVec.getLsbD_and, Bool.eq_false_of_not_eq_true off, BitVec.getLsbD_zero]
  · rintro ⟨i, _, on⟩ zero
    have off : (x &&& y).getLsbD i = false := by rw [zero, BitVec.getLsbD_zero]
    rw [← BitVec.getLsbD_and, off] at on
    cases on

theorem arrived_eq_stillThere (u : State) (cluster : Bool) (n : Nat) : u.arrived u.iss.cur cluster n = stillThere u cluster n :=
  and_ne_zero_eq_any ..

/-- A release at a scope of the device counts nothing of the wave as left (R370). -/
theorem left_release {s : State} {k scope : Nat} (hr : (s.waveAt k).repro = false) (hs : 3 ≤ scope) : ((s.release k scope).waveAt k).left = [] := by
  have far : ¬ scope < 3 := Nat.not_lt.2 hs
  unfold State.release State.releaseCaches
  rw [hr]
  simp only [Bool.false_eq_true, if_false, far, State.modWaveAt, State.waveAt_setWaveAt]

/-- How a barrier instruction runs: by its kind of wait, which says where it arrives and at what scopes. -/
theorem exec_barrier {i : Instr} {sw : Bool} {d : Opd} {n : Nat} {cl : Bool} {rel acq : Nat} (s : State)
    (h : barrierOp i = some (sw, d, n, cl, rel, acq)) :
    ∃ kind : WaitKind, (kind == .barc) = cl ∧ (if kind = .drain then 4 else kind.scope) = rel ∧ kind.scope = acq ∧
      exec i s = s.guarded (s.formTrap { xw := .no } (barrierBad s d n cl)) fun s => s.barrier sw kind (s.dest d) n := by
  have converged (d : Opd) (n : Nat) : barrierBad s d n false = (!d.sz || s.wave.notConverged s.iss.slot) := by
    simp [barrierBad, Wave.notConverged, Bool.or_assoc]
  cases i with
  | bar sw' d' n' =>
    cases h
    exact ⟨.bar, rfl, rfl, rfl, by rw [converged]; rfl⟩
  | barc sw' d' n' =>
    cases h
    have bad : barrierBad s d n'.toNat true = (!d.sz || s.wave.notConverged s.iss.slot || decide (7 < n'.toNat) || !s.wave.id.clustered) := by
      simp [barrierBad, Wave.notConverged, Bool.or_assoc]
    exact ⟨.barc, rfl, rfl, rfl, by rw [bad]; rfl⟩
  | drain sw' d' n' =>
    cases h
    exact ⟨.drain, rfl, rfl, rfl, by rw [converged]; rfl⟩
  | _ => cases h

/-- The wait of a barrier instruction. -/
def barrierWait (s : State) (sw : Bool) (kind : WaitKind) (d : Dest) (n : Nat) : Wait :=
  { kind := kind, key := s.barKey (kind == .barc) n, pa := 0, expect := 0#64, dst := d, registered := false, met := false, clk := 0, sw := sw }

section
variable {s : State} (sw : Bool) (kind : WaitKind) (d : Dest) (n : Nat)

/-- In reproducible mode the arrival is held (R122). -/
theorem barrier_repro (hr : s.wave.repro = true) : s.barrier sw kind d n =
    .next (((s.setWave { (noRight s.wave) with fifo := s.wave.fifo ++ [.arrive kind n] }).requestWait (barrierWait s sw kind d n)).shedIfCut
      s.iss.cur) := by
  have held : (s.setWave s.wave.clearIdem).hold s.iss.cur (.arrive kind n) =
      s.setWave { (noRight s.wave) with fifo := s.wave.fifo ++ [.arrive kind n] } := by
    simp [State.hold, State.modWaveAt, State.setWave, noRight, Wave.clearIdem]
  unfold State.barrier
  rw [if_pos hr, held]
  rfl

/-- Outside it, with every effect of a DRAIN's wave acknowledged, the arrival completes the barrier or waits (R223, R370). -/
theorem barrier_arrives (hr : s.wave.repro = false) (acked : kind = .drain → (s.release s.iss.cur 4).unacked s.iss.cur = 0) :
    s.barrier sw kind d n =
      let u := arrivedAt s n (kind == .barc) (if kind = .drain then 4 else kind.scope)
      if u.arrived s.iss.cur (kind == .barc) n then
        .next ((u.beginWait (barrierWait s sw kind d n) fun u => u.setArrival s.iss.cur (kind == .barc) n false).shedIfCut s.iss.cur)
      else .next ((u.waitDone sw kind d 0).shedIfCut s.iss.cur) := by
  have sent : (kind == .drain && (s.release s.iss.cur (if kind = .drain then 4 else kind.scope)).ackCount s.iss.cur != 0) = false := by
    by_cases drain : kind = .drain
    · subst drain
      have left := left_release (k := s.iss.cur) hr (by decide : 3 ≤ 4)
      simp [State.ackCount, left, acked rfl]
    · simp [drain]
  unfold State.barrier
  dsimp only
  rw [if_neg (by simp [hr]), if_neg (by rw [sent]; simp)]
  rfl

end

/-- Settles O31. -/
theorem barriers : Obligations.Barriers := by
  unfold Obligations.Barriers
  intro i s sw d n cl rel acq hop hi ht acked
  obtain ⟨kind, rfl, rfl, rfl, run⟩ := exec_barrier s hop
  rw [ht, guarded_of_none _ hi] at run
  obtain ⟨iss, issuing⟩ := arrivedAt_issuing s n (kind == .barc) (if kind = .drain then 4 else kind.scope)
  have sz : ∀ r, s.dest d ≠ .vec r := dest_of_sz (by
    have bad := extra_of_formTrap ht
    simp only [barrierBad, Bool.or_eq_false_iff] at bad
    simpa using bad.1.1.1.1)
  have arrives (hr : s.wave.repro = false) := barrier_arrives sw kind (s.dest d) n hr fun drain => acked (by rw [if_pos drain]) hr
  rw [← arrived_eq_stillThere, iss]
  refine ⟨fun hr last => ⟨_, run.trans ((arrives hr).trans (if_neg (by rw [last]; simp))), _, ?_, rfl⟩,
    fun hr missed => ⟨_, run.trans ((arrives hr).trans (if_pos missed)), barrierWait s sw kind (s.dest d) n, rfl, rfl, rfl, rfl, rfl⟩,
    fun hr => ⟨_, run.trans (barrier_repro sw kind (s.dest d) n hr), barrierWait s sw kind (s.dest d) n, _, rfl, rfl, rfl, rfl,
      requestWait_requests .., rfl⟩⟩
  rw [← iss]
  exact waitDone_computes sw kind (issuing.trans hi) sz

end Sys2Proof.Claims
end

section
/-!
PROOF. LOCK, TRYLK and UNLOCK (R228, R398, R450).
-/

namespace Sys2Proof.Claims

open Sys2Proof.Machine

/-! ## Bringing a word home -/

theorem tail_of_firstTrap {t : Option Trap} {ts : List (Option Trap)} (h : firstTrap (t :: ts) = none) : firstTrap ts = none := by
  rw [head_of_firstTrap h] at h
  exact h

/-- The operands of an instruction on a word are legal where its checks pass. -/
theorem bad_of_wordTrapOf {s : State} {bad extra reads : Bool} {os : List Opd} {a : Opd} {c : LaneChk}
    (ht : s.wordTrapOf bad os a extra reads c = none) : bad = false :=
  extra_of_formTrap (head_of_firstTrap (tail_of_firstTrap ht))

section
variable (s : State)

/-- The walk down the tree reads memory alone. Its recursion is unfolded to the recursor, as one level of it looks at 512 bytes. -/
theorem findRange_setWave (w : Wave) (va fuel node : Nat) (level : Option Nat) :
    (s.setWave w).findRange va fuel node level = s.findRange va fuel node level := by
  have ue : (s.setWave w).ueIn = s.ueIn := rfl
  have read : (s.setWave w).homeRead = s.homeRead := rfl
  have word : (s.setWave w).home64 = s.home64 := rfl
  have head : (s.setWave w).nodeHeadOk = s.nodeHeadOk := rfl
  have entry : (s.setWave w).rangeEnt = s.rangeEnt := rfl
  delta State.findRange State.findRange._f
  simp only [ue, read, word, head, entry]

/-- A translation does not depend on the waves. -/
theorem lookup_setWave (w : Wave) (ext : List Piece) (cluster asid va : Nat) :
    (s.setWave w).lookup ext cluster asid va = s.lookup ext cluster asid va := by
  have root : (s.setWave w).ctxAt = s.ctxAt := rfl
  have ue : (s.setWave w).ueIn = s.ueIn := rfl
  have word : (s.setWave w).home64 = s.home64 := rfl
  have tlbs : (s.setWave w).tlbs = s.tlbs := rfl
  unfold State.lookup State.walk
  rw [findRange_setWave, root, ue, word, tlbs]

theorem lookupTouch_traffic (ext : List Piece) (cluster asid va : Nat) : Traffic s (s.lookupTouch ext cluster asid va) := by
  obtain ⟨tlbs, h⟩ := lookupTouch_eq s ext cluster asid va
  exact h ▸ ⟨rfl, fun _ _ => rfl⟩

theorem lookupTouch_sameTask (ext : List Piece) (cluster asid va : Nat) : SameTask s (s.lookupTouch ext cluster asid va) := by
  obtain ⟨tlbs, h⟩ := lookupTouch_eq s ext cluster asid va
  exact h ▸ ⟨rfl, fun _ => ⟨rfl, rfl⟩⟩

/-- What the TLBs keep does not depend on the waves. -/
theorem lookupTouch_setWave (w : Wave) (ext : List Piece) (cluster asid va : Nat) :
    (s.setWave w).lookupTouch ext cluster asid va = (s.lookupTouch ext cluster asid va).setWave w := by
  unfold State.lookupTouch
  rw [lookup_setWave]
  split
  · rfl
  · split <;> rfl

theorem bringHome_traffic (va pa : Nat) : Traffic s (s.bringHome va pa) := by
  have touched := lookupTouch_traffic s s.wg.ext s.wave.id.cluster s.asid va
  unfold State.bringHome
  dsimp only
  split
  · exact touched
  · split
    · exact touched.trans ((drainFifo_traffic ..).trans (flushToHome_onlyMemory ..).traffic)
    · exact touched.trans (flushToHome_onlyMemory ..).traffic

theorem bringHome_sameTask (va pa : Nat) : SameTask s (s.bringHome va pa) := by
  have touched := lookupTouch_sameTask s s.wg.ext s.wave.id.cluster s.asid va
  unfold State.bringHome
  dsimp only
  split
  · exact touched
  · split
    · exact touched.trans ((drainFifo_sameTask ..).trans (flushToHome_onlyMemory ..).sameTask)
    · exact touched.trans (flushToHome_onlyMemory ..).sameTask

/-- In reproducible mode a word is only translated: held writes stay for the commit (R220). -/
theorem bringHome_of_repro {va pa : Nat} (hr : s.wave.repro = true) :
    s.bringHome va pa = s.lookupTouch s.wg.ext s.wave.id.cluster s.asid va := by
  have repro : (s.lookupTouch s.wg.ext s.wave.id.cluster s.asid va).wave.repro = true := by
    obtain ⟨tlbs, h⟩ := lookupTouch_eq s s.wg.ext s.wave.id.cluster s.asid va
    rw [h]
    exact hr
  unfold State.bringHome
  exact if_pos repro

theorem setWave_noRight_traffic : Traffic s (s.setWave (noRight s.wave)) := .setWaveAt s (k := s.iss.cur) (w := noRight s.wave) fun _ => rfl

theorem setWave_noRight_sameTask : SameTask s (s.setWave (noRight s.wave)) :=
  .setWaveAt s (k := s.iss.cur) (w := noRight s.wave) rfl rfl

variable (v : State) (a : Opd)

theorem lockAt_traffic : Traffic v (lockAt s v a) := (bringHome_traffic ..).trans (homeTouch_onlyMemory ..).traffic

theorem lockAt_sameTask : SameTask v (lockAt s v a) := (bringHome_sameTask ..).trans (homeTouch_onlyMemory ..).sameTask

end

namespace SameTask

variable {s u : State}

theorem wave_repro (h : SameTask s u) : u.wave.repro = s.wave.repro := by
  rw [State.wave_def, State.wave_def, h.iss, h.repro]

theorem handle (h : SameTask s u) : (u.waveAt u.iss.cur).id = s.wave.id := by
  rw [h.iss, (h.mode s.iss.cur).1]
  rfl

end SameTask

/-! ## Taking a lock -/

section
variable {s : State} {sw : Bool} {d a : Opd}

/-- Taking the word in the state where it is looked at. -/
theorem lockTake_lockAt {v : State} (h : SameTask s v) :
    (v.bringHome (s.sval a).toNat (wordPa s a)).lockTake (v.bringHome (s.sval a).toNat (wordPa s a)).iss.cur (wordPa s a) =
      if (lockAt s v a).home64 (wordPa s a) = 0 then (true, (lockAt s v a).homeWrite64 (wordPa s a) (lockWord s)) else (false, lockAt s v a) := by
  have home := (h.trans (bringHome_sameTask v (s.sval a).toNat (wordPa s a)))
  have handle : ((lockAt s v a).waveAt (v.bringHome (s.sval a).toNat (wordPa s a)).iss.cur).id = s.wave.id := by
    rw [home.iss, ((h.trans (lockAt_sameTask s v a)).mode s.iss.cur).1]
    rfl
  unfold State.lockTake
  dsimp only
  rw [show (v.bringHome (s.sval a).toNat (wordPa s a)).homeTouch (wordPa s a) = lockAt s v a from rfl, handle]
  rfl

/-- LOCK as it goes on. -/
theorem exec_lock (hi : s.issuing = true) (ht : s.lockTrap d a = none) :
    exec (.lock sw d a) s =
      let w := s.lockWait sw d (s.sval a) (wordPa s a)
      let taken := (lockAt s s a).homeWrite64 (wordPa s a) (lockWord s)
      if s.wave.repro then .next ((s.bringHome (s.sval a).toNat (wordPa s a)).requestWait w)
      else if (lockAt s s a).home64 (wordPa s a) = 0 then .next ((taken.setWave (noRight taken.wave)).waitDone sw .lock (s.dest d) 0)
      else .next ((lockAt s s a).beginWait w id) := by
  have take := lockTake_lockAt (s := s) (a := a) (.refl s)
  have repro := (bringHome_sameTask s (s.sval a).toNat (wordPa s a)).wave_repro
  show execLock sw d a s = _
  rw [execLock, ht, guarded_of_none _ hi]
  dsimp only
  rw [show s.lockPa a = wordPa s a from rfl, repro, take]
  split
  · rfl
  · split <;> rfl

/-- TRYLK as it goes on outside reproducible mode. -/
theorem exec_trylk (hi : s.issuing = true) (ht : s.lockTrap d a = none) (hr : s.wave.repro = false) :
    let u := lockAt s (s.setWave (noRight s.wave)) a
    let taken := u.homeWrite64 (wordPa s a) (lockWord s)
    exec (.trylk sw d a) s = if u.home64 (wordPa s a) = 0
      then .next (((taken.acquire s.iss.cur 4).addPend s.iss.cur (Pend.plain ((s.dest d).scalVal ⟨0#64, false⟩) 1#64)).retire sw)
      else .next ((u.addPend s.iss.cur (Pend.plain ((s.dest d).scalVal ⟨3#64, false⟩) 1#64)).retire sw) := by
  intro u taken
  have take := lockTake_lockAt (a := a) (setWave_noRight_sameTask s)
  have home := (setWave_noRight_sameTask s).trans (bringHome_sameTask (s.setWave (noRight s.wave)) (s.sval a).toNat (wordPa s a))
  have iss := ((setWave_noRight_sameTask s).trans (lockAt_sameTask s (s.setWave (noRight s.wave)) a)).iss
  have takenIss : taken.iss = s.iss := (homeWrite_onlyMemory u _).iss.trans iss
  have acquiredIss : (taken.acquire s.iss.cur 4).iss = s.iss := (acquire_onlyMemory taken ..).iss.trans takenIss
  have uIss : u.iss = s.iss := iss
  show execTrylk sw d a s = _
  rw [execTrylk, ht, guarded_of_none _ hi]
  dsimp only
  rw [show s.lockPa a = wordPa s a from rfl, show s.wave.clearIdem = noRight s.wave from rfl, home.wave_repro, hr, if_neg Bool.false_ne_true, take]
  split
  · show Host.Outcome.next (((taken.acquire taken.iss.cur 4).addPend (taken.acquire taken.iss.cur 4).iss.cur _).retire sw) = _
    rw [takenIss, acquiredIss]
    rfl
  · show Host.Outcome.next ((u.addPend u.iss.cur _).retire sw) = _
    rw [uIss]
    rfl

/-- In reproducible mode a TRYLK's attempt is held, and the quantum ends (R122). -/
theorem exec_trylk_repro (hi : s.issuing = true) (ht : s.lockTrap d a = none) (hr : s.wave.repro = true) :
    let v := s.bringHome (s.sval a).toNat (wordPa s a)
    exec (.trylk sw d a) s = .next (((v.setWave { (noRight v.wave) with fifo := v.wave.fifo ++
      [.trylk (wordPa s a) s.wave.qclk.toNat (s.dest d) (pagesOf 8 [(s.sval a).toNat])] }).retire sw).endQuantum) := by
  intro v
  have home := (setWave_noRight_sameTask s).trans (bringHome_sameTask (s.setWave (noRight s.wave)) (s.sval a).toNat (wordPa s a))
  obtain ⟨tlbs, touched⟩ : ∃ tlbs, v = { s with tlbs := tlbs } := by
    obtain ⟨tlbs, h⟩ := lookupTouch_eq s s.wg.ext s.wave.id.cluster s.asid (s.sval a).toNat
    exact ⟨tlbs, (bringHome_of_repro s hr).trans h⟩
  have cleared : (s.setWave (noRight s.wave)).bringHome (s.sval a).toNat (wordPa s a) = v.setWave (noRight s.wave) := by
    have wave : (s.setWave (noRight s.wave)).wave = noRight s.wave := State.waveAt_setWaveAt ..
    have wg : (s.setWave (noRight s.wave)).wg = s.wg := by
      rw [State.wg, wave]
      rfl
    have asid : (s.setWave (noRight s.wave)).asid = s.asid := by
      rw [State.asid, wave]
      rfl
    rw [bringHome_of_repro _ (by rw [wave]; exact hr), lookupTouch_setWave, wg, wave, asid]
    exact congrArg (·.setWave (noRight s.wave)) (bringHome_of_repro s hr).symm
  have wave : (v.setWave (noRight s.wave)).wave = noRight s.wave := State.waveAt_setWaveAt ..
  have held (e : Eff) : (v.setWave (noRight s.wave)).hold (v.setWave (noRight s.wave)).iss.cur e =
      v.setWave { (noRight s.wave) with fifo := s.wave.fifo ++ [e] } := by
    simp [State.hold, State.modWaveAt, State.setWave, noRight]
  show execTrylk sw d a s = _
  rw [execTrylk, ht, guarded_of_none _ hi]
  dsimp only
  rw [show s.lockPa a = wordPa s a from rfl, show s.wave.clearIdem = noRight s.wave from rfl, home.wave_repro, hr, cleared, wave, if_pos rfl, held,
    show v.wave = s.wave by rw [touched]; rfl]
  rfl

/-! ## Passing a lock on -/

/-- The registered waiters for a lock word (R228). -/
theorem waitsForLock_iff (u : State) (pa : Nat) (e : WaitEnt) : waitsForLock u pa e ↔
    (e.kind == .lock && !(u.waveAt e.waiter).repro && (u.waveAt e.waiter).wait.any fun w => w.pa == pa && !w.met) = true := by
  unfold waitsForLock
  cases (u.waveAt e.waiter).wait <;> simp [and_assoc]

theorem lockBefore_iff (u : State) (e f : Nat × WaitEnt) : u.lockBefore e f = true ↔ lockBefore u e.2 f.2 := by
  simp [State.lockBefore, lockBefore]

theorem lockBefore_asymm {u : State} {e f : WaitEnt} (h : lockBefore u e f) : ¬ lockBefore u f e := by
  unfold lockBefore at *
  omega

/-- The one of a list of waiters that comes before all others is the one picked. -/
theorem pick_first {u : State} {pick : Option (Nat × WaitEnt) → Nat × WaitEnt → Option (Nat × WaitEnt)}
    (first : ∀ f, pick none f = some f) (next : ∀ x f, pick (some x) f = if u.lockBefore f x then some f else some x) {e : Nat × WaitEnt}
    (l : List (Nat × WaitEnt)) (before : ∀ f ∈ l, f ≠ e → lockBefore u e.2 f.2) (b : Option (Nat × WaitEnt))
    (start : b = some e ∨ (e ∈ l ∧ ∀ x, b = some x → lockBefore u e.2 x.2)) : l.foldl pick b = some e := by
  induction l generalizing b with
  | nil => exact start.resolve_right fun h => List.not_mem_nil h.1
  | cons f l ih =>
    refine ih (fun g hg => before g (List.mem_cons_of_mem _ hg)) _ ?_
    by_cases same : f = e
    · subst same
      left
      cases b with
      | none => exact first f
      | some x =>
        rcases start with h | ⟨-, h⟩
        · cases h
          rw [next]
          split <;> rfl
        · rw [next, if_pos ((lockBefore_iff ..).2 (h x rfl))]
    · have late := before f (List.mem_cons_self ..) same
      rcases start with rfl | ⟨mem, h⟩
      · left
        rw [next, if_neg fun h => lockBefore_asymm late ((lockBefore_iff ..).1 h)]
      · refine .inr ⟨(List.mem_cons.1 mem).resolve_left (Ne.symm same), fun y hy => ?_⟩
        cases b with
        | none =>
          cases (first f).symm.trans hy
          exact late
        | some x =>
          rw [next] at hy
          split at hy
          · cases hy
            exact late
          · cases hy
            exact h _ rfl

/-- The entries that wait for a lock word. -/
def lockWaiters (u : State) (pa : Nat) : List (Nat × WaitEnt) := u.belay.waits.filter fun e =>
  e.2.kind == .lock && !(u.waveAt e.2.waiter).repro && (u.waveAt e.2.waiter).wait.any fun w => w.pa == pa && !w.met

theorem mem_lockWaiters {u : State} {pa : Nat} {e : Nat × WaitEnt} :
    e ∈ lockWaiters u pa ↔ e ∈ u.belay.waits ∧ waitsForLock u pa e.2 := by
  rw [lockWaiters, List.mem_filter, waitsForLock_iff]

/-- Which of two waiters an UNLOCK keeps in view. -/
def heirStep (u : State) (b : Option (Nat × WaitEnt)) (e : Nat × WaitEnt) : Option (Nat × WaitEnt) :=
  match b with
  | none => some e
  | some x => if u.lockBefore e x then some e else some x

theorem lockHeir_eq (u : State) (pa : Nat) : u.lockHeir pa = (lockWaiters u pa).foldl (heirStep u) none := by
  unfold State.lockHeir lockWaiters
  congr 1
  refine List.filter_congr fun e _ => ?_
  cases (u.waveAt e.2.waiter).wait <;> rfl

theorem lockHeir_of_none {u : State} {pa : Nat} (h : ∀ e ∈ u.belay.waits, ¬ waitsForLock u pa e.2) : u.lockHeir pa = none := by
  have empty : lockWaiters u pa = [] := List.eq_nil_iff_forall_not_mem.2 fun e he =>
    h e (mem_lockWaiters.1 he).1 (mem_lockWaiters.1 he).2
  rw [lockHeir_eq, empty]
  rfl

theorem lockHeir_of_first {u : State} {pa : Nat} {e : Nat × WaitEnt} (mem : e ∈ u.belay.waits) (waits : waitsForLock u pa e.2)
    (before : ∀ f ∈ u.belay.waits, f ≠ e → waitsForLock u pa f.2 → lockBefore u e.2 f.2) : u.lockHeir pa = some e := by
  rw [lockHeir_eq]
  refine pick_first (u := u) (fun _ => rfl) (fun _ _ => rfl) _ (fun f hf other => ?_) none (.inr ⟨mem_lockWaiters.2 ⟨mem, waits⟩, nofun⟩)
  exact before f (mem_lockWaiters.1 hf).1 other (mem_lockWaiters.1 hf).2

end

/-! ## UNLOCK -/

section
variable {s : State} {sw : Bool} {d a : Opd}

/-- UNLOCK as it goes on (R450). -/
theorem exec_unlock (hi : s.issuing = true) (ht : s.lockTrap d a = none) :
    let u := lockAt s (s.setWave (noRight s.wave)) a
    exec (.unlock sw d a) s =
      if u.lockView (wordPa s a) = lockWord s then
        if s.wave.repro then
          .next (((u.setWave { u.wave with fifo := u.wave.fifo ++ [.unlock (wordPa s a) (pagesOf 8 [(s.sval a).toNat])] }).writeScal s.iss.cur
            (s.dest d) 0#64).retire sw)
        else
          let g := ((u.release s.iss.cur 4).lockRelease s.iss.cur (wordPa s a)).2
          .next ((g.writeScal g.iss.cur (s.dest d) 0#64).retire sw)
      else .next ((u.writeScal s.iss.cur (s.dest d) 3#64).retire sw) := by
  intro u
  have same : SameTask s u := (setWave_noRight_sameTask s).trans (lockAt_sameTask s (s.setWave (noRight s.wave)) a)
  have own : lockValue u.wave.id.handle = lockWord s := by
    rw [State.wave_def, same.handle]
    rfl
  show execUnlock sw d a s = _
  rw [execUnlock, ht, guarded_of_none _ hi]
  dsimp only
  rw [show ((s.setWave s.wave.clearIdem).bringHome (s.sval a).toNat (s.lockPa a)).homeTouch (s.lockPa a) = u from rfl, own, same.wave_repro,
    show s.lockPa a = wordPa s a from rfl, same.iss]
  have iss := same.iss
  clear_value u
  by_cases mine : u.lockView (wordPa s a) = lockWord s
  · rw [beq_iff_eq.2 mine, if_pos mine]
    cases s.wave.repro with
    | true => 
      have held (e : Eff) : u.hold s.iss.cur e = u.setWave { u.wave with fifo := u.wave.fifo ++ [e] } := by rw [← iss]; rfl
      have heldIss (w : Wave) : (u.setWave w).iss = s.iss := iss
      simp only [if_true, held, heldIss]
    | false => simp only [Bool.false_eq_true, if_false, if_true]
  · rw [beq_eq_false_iff_ne.2 mine, if_neg mine]
    cases s.wave.repro <;> simp [iss]

/-- An UNLOCK of the wave's own lock frees it where nobody waits for it. -/
theorem lockRelease_free {v : State} {k pa : Nat} (own : (v.homeTouch pa).home64 pa = lockValue ((v.homeTouch pa).waveAt k).id.handle)
    (heir : (v.homeTouch pa).lockHeir pa = none) : (v.lockRelease k pa).2 = (v.homeTouch pa).homeWrite64 pa 0 := by
  simp only [State.lockRelease, ne_eq, own, not_true_eq_false, if_false, heir]

/-- It passes the lock on to the waiter that comes first (R228). -/
theorem lockRelease_pass {v : State} {k pa : Nat} {e : Nat × WaitEnt}
    (own : (v.homeTouch pa).home64 pa = lockValue ((v.homeTouch pa).waveAt k).id.handle) (heir : (v.homeTouch pa).lockHeir pa = some e) :
    (v.lockRelease k pa).2 =
      ((v.homeTouch pa).homeWrite64 pa (2 ^ 63 + ((v.homeTouch pa).waveAt e.2.waiter).id.handle.toNat)).setMet e.2.waiter := by
  simp only [State.lockRelease, ne_eq, own, not_true_eq_false, if_false, heir]
  rfl

end

section
variable {i : Instr} {s v : State} {sw : Bool} {d : Dest} {x : Word64} (h : Traffic s v) (hi : s.issuing = true) (hd : ∀ r, d ≠ .vec r)
include h hi hd

theorem goes_of_writeScal (run : exec i s = .next ((v.writeScal s.iss.cur d x).retire sw)) :
    Goes i s (Computes v sw false d [0] fun _ => .val x 0#6) :=
  ⟨_, run, by rw [← h.iss]; exact writeScal_computes sw x (h.issuing.trans hi) hd⟩

theorem goes_of_addPend (run : exec i s = .next ((v.addPend s.iss.cur (Pend.plain (d.scalVal ⟨x, false⟩) 1#64)).retire sw)) :
    Goes i s (Computes v sw true d [0] fun _ => .val x 0#6) :=
  ⟨_, run, by rw [← h.iss]; exact addPend_computes sw x (h.issuing.trans hi) hd⟩

theorem goes_of_waitDone {kind : WaitKind} (run : exec i s = .next (v.waitDone sw kind d 0)) :
    Goes i s (Computes (v.acquire s.iss.cur kind.scope) sw false d [0] fun _ => .val 0#64 0#6) :=
  ⟨_, run, by rw [← h.iss]; exact waitDone_computes sw kind (h.issuing.trans hi) hd⟩

end

section
variable {s : State} {sw : Bool} {d a : Opd} (hi : s.issuing = true) (ht : s.lockTrap d a = none)

include ht in
theorem lock_dest (r : Nat) : s.dest d ≠ .vec r := dest_of_sz (by simpa using (Bool.or_eq_false_iff.1 (bad_of_wordTrapOf ht)).1) r

theorem lockAt_noRight_traffic (s : State) (a : Opd) : Traffic s (lockAt s (s.setWave (noRight s.wave)) a) :=
  (setWave_noRight_traffic s).trans (lockAt_traffic s _ a)

theorem lockAt_noRight_sameTask (s : State) (a : Opd) : SameTask s (lockAt s (s.setWave (noRight s.wave)) a) :=
  (setWave_noRight_sameTask s).trans (lockAt_sameTask s _ a)

include hi ht

theorem lock_takes (hr : s.wave.repro = false) (free : (lockAt s s a).home64 (wordPa s a) = 0) :
    let taken := (lockAt s s a).homeWrite64 (wordPa s a) (lockWord s)
    Goes (.lock sw d a) s
      (Computes ((taken.setWave (noRight taken.wave)).acquire s.iss.cur 4) sw false (s.dest d) [0] fun _ => .val 0#64 0#6) := by
  intro taken
  have got : Traffic s (taken.setWave (noRight taken.wave)) :=
    ((lockAt_traffic s s a).trans (homeWrite_onlyMemory ..).traffic).trans (setWave_noRight_traffic taken)
  exact goes_of_waitDone got hi (lock_dest ht) (kind := .lock) ((exec_lock hi ht).trans ((if_neg (by simp [hr])).trans (if_pos free)))

theorem unlock_frees (hr : s.wave.repro = false) {u g : State} (hu : lockAt s (s.setWave (noRight s.wave)) a = u)
    (own : u.lockView (wordPa s a) = lockWord s) (hg : (u.release s.iss.cur 4).homeTouch (wordPa s a) = g)
    (ours : g.home64 (wordPa s a) = lockWord s) :
    ((∀ e ∈ g.belay.waits, ¬ waitsForLock g (wordPa s a) e.2) → Goes (.unlock sw d a) s
      (Computes (g.homeWrite64 (wordPa s a) 0) sw false (s.dest d) [0] fun _ => .val 0#64 0#6)) ∧
    (∀ e ∈ g.belay.waits, waitsForLock g (wordPa s a) e.2 →
      (∀ f ∈ g.belay.waits, f ≠ e → waitsForLock g (wordPa s a) f.2 → lockBefore g e.2 f.2) → Goes (.unlock sw d a) s
        (Computes ((g.homeWrite64 (wordPa s a) (2 ^ 63 + (g.waveAt e.2.waiter).id.handle.toNat)).setMet e.2.waiter) sw false (s.dest d) [0]
          fun _ => .val 0#64 0#6)) := by
  have run := exec_unlock (sw := sw) hi ht
  have traffic := lockAt_noRight_traffic s a
  have task := lockAt_noRight_sameTask s a
  simp only [hu, own, hr, if_true, Bool.false_eq_true, if_false] at run traffic task
  have released : Traffic s g := hg ▸ (traffic.trans (release_traffic ..)).trans (homeTouch_onlyMemory ..).traffic
  have handle : lockWord s = lockValue (g.waveAt s.iss.cur).id.handle := by
    rw [← hg, ((task.trans ((release_sameTask ..).trans (homeTouch_onlyMemory ..).sameTask)).mode s.iss.cur).1]
    rfl
  have wrote (x : Nat) : Traffic s (g.homeWrite64 (wordPa s a) x) := released.trans (homeWrite_onlyMemory ..).traffic
  have mine := ours.trans handle
  subst hg
  refine ⟨fun nobody => ?_, fun e mem waits before => ?_⟩
  · rw [lockRelease_free mine (lockHeir_of_none nobody), (wrote 0).iss] at run
    exact goes_of_writeScal (wrote 0) hi (lock_dest ht) run
  · have passed := (wrote (2 ^ 63 + (((u.release s.iss.cur 4).homeTouch (wordPa s a)).waveAt e.2.waiter).id.handle.toNat)).trans
      (setMet_traffic _ e.2.waiter)
    rw [lockRelease_pass mine (lockHeir_of_first mem waits before), passed.iss] at run
    exact goes_of_writeScal passed hi (lock_dest ht) run

end

/-- Settles O33: each instruction as it goes on from the state in which its word is looked at. -/
theorem locks : Obligations.Locks := by
  unfold Obligations.Locks
  refine ⟨fun sw d a s hi ht hr => ?_, fun sw d a s hi ht => ?_⟩
  · have traffic := lockAt_noRight_traffic s a
    refine ⟨lock_takes hi ht hr, fun free => ?_, fun held => ?_, fun other => ?_, fun own => unlock_frees hi ht hr rfl own rfl⟩
    · have taken := traffic.trans (homeWrite_onlyMemory _ (bytePairs (wordPa s a) 8 (lockWord s))).traffic
      exact goes_of_addPend (taken.trans (acquire_onlyMemory ..).traffic) hi (lock_dest ht) ((exec_trylk hi ht hr).trans (if_pos free))
    · exact goes_of_addPend traffic hi (lock_dest ht) ((exec_trylk hi ht hr).trans (if_neg held))
    · exact goes_of_writeScal traffic hi (lock_dest ht) ((exec_unlock hi ht).trans (if_neg other))
  · intro w v pages
    refine ⟨fun hr held => ⟨_, (exec_lock hi ht).trans ((if_neg (by simp [hr])).trans (if_neg held)), rfl⟩, fun hr => ⟨?_, ?_, ?_⟩⟩
    · exact ⟨_, (exec_lock hi ht).trans (if_pos hr), requestWait_requests ..⟩
    · exact ⟨_, exec_trylk_repro hi ht hr, _, ran_setWave _ _ sw rfl rfl, rfl⟩
    · intro u
      have traffic : Traffic s u := lockAt_noRight_traffic s a
      have keeps : Traffic u (u.setWave { u.wave with fifo := u.wave.fifo ++ [.unlock (wordPa s a) pages] }) :=
        .setWaveAt u (k := u.iss.cur) fun _ => rfl
      refine ⟨fun own => ?_, fun other => ?_⟩
      · exact goes_of_writeScal (traffic.trans keeps) hi (lock_dest ht) ((exec_unlock hi ht).trans ((if_pos own).trans (if_pos hr)))
      · exact goes_of_writeScal traffic hi (lock_dest ht) ((exec_unlock hi ht).trans (if_neg other))

end Sys2Proof.Claims
end

section
/-!
PROOF. WREG, WAITV, WDONE and WQRY (R229, R242, R454, R455); PCLS and EBUD (R311).
-/

namespace Sys2Proof.Claims

open Sys2Proof.Machine

/-! ## Value waits -/

/-- A value has bits above the 48 of a waker where it is that large (R454). -/
theorem shiftRight_ne_zero (x : Word64) (n : Nat) : (x >>> n != 0#64) = decide (2 ^ n ≤ x.toNat) := by
  rw [Bool.eq_iff_iff, bne_iff_ne, decide_eq_true_iff, ne_eq, ← BitVec.toNat_inj, BitVec.toNat_ushiftRight, Nat.shiftRight_eq_div_pow]
  simp [Nat.div_eq_zero_iff]

section
variable {s : State} {sw : Bool} {d a b : Opd}

theorem wreg_goes (hi : s.issuing = true)
    (ht : s.wordTrapOf (!a.sg || !b.sgz) [a, b] a (!(s.readScal (s.ref b)).p && decide (2 ^ 48 ≤ (s.readScal (s.ref b)).bits.toNat)) false
      (s.xlatRange (s.sval a).toNat 8 .loadMem) = none) :
    Goes (.wreg sw a b) s fun t => ∃ tlbs, Ran { s with tlbs := tlbs }
      { s.wave with wreg := some ⟨s.sval a, (s.xlatRange (s.sval a).toNat 8 .loadMem).head, s.sval b⟩ } sw t := by
  obtain ⟨tlbs, touched⟩ := lookupTouch_eq s s.wg.ext s.wave.id.cluster s.asid (s.sval a).toNat
  rw [← shiftRight_ne_zero] at ht
  refine ⟨_, ?_, tlbs, ran_setWave { s with tlbs := tlbs } _ sw rfl rfl⟩
  show execWreg sw a b s = _
  rw [execWreg, ht, guarded_of_none _ hi]
  dsimp only
  rw [touched]
  rfl

/-- WAITV as it goes on. -/
theorem exec_waitv {x : WaitDecl} (hi : s.issuing = true) (hx : s.wave.wreg = some x) (ht : s.waitvTrap d a = none) :
    let w := s.valueWait sw d { x with pa := s.declChk.head } (s.sval a)
    exec (.waitv sw d a) s =
      if s.wave.repro then .next ((s.lookupTouch s.wg.ext s.wave.id.cluster s.asid x.va.toNat).requestWait w)
      else if (waitvAt s x).home64 s.declChk.head ≠ (s.sval a).toNat then .next ((waitvAt s x).waitDone sw .waitv (s.dest d) 0)
      else .next ((waitvAt s x).beginWait w id) := by
  intro w
  show execWaitv sw d a s = _
  rw [execWaitv, ht, guarded_of_none _ hi]
  dsimp only
  simp only [hx, (lookupTouch_sameTask s s.wg.ext s.wave.id.cluster s.asid x.va.toNat).wave_repro]
  rfl

theorem waitv_dest (ht : s.waitvTrap d a = none) (r : Nat) : s.dest d ≠ .vec r := by
  have legal := extra_of_formTrap (head_of_firstTrap (tail_of_firstTrap ht))
  simp only [Bool.or_eq_false_iff] at legal
  exact dest_of_sgz (by simpa using legal.1.1.1) r

end

theorem waitWord_eq (s : State) : s.waitWord =
    min (s.waves.countP fun e => e.2.id.asid.toNat == s.asid && e.2.under == .waitUnreg && e.2.wait.any (!·.met)) 0xFFFF +
      s.belay.waits.countP (fun e => e.2.asid == s.asid) * 2 ^ 16 + s.belay.objs.countP (fun e => e.2.asid == s.asid) * 2 ^ 32 +
      min s.ctx.ovf 0xFFFF * 2 ^ 48 := by
  simp only [State.waitWord, List.countP_eq_length_filter]

/-- Settles O34. -/
theorem valueWaits : Obligations.ValueWaits := by
  unfold Obligations.ValueWaits
  refine ⟨fun sw a b s hi ht => wreg_goes hi ht, fun sw d a s x hi hx ht hr other => ?_, fun sw d a s x hi hx ht => ⟨fun hr same => ?_, fun hr => ?_⟩,
    fun sw s hi hp => ?_, fun sw d s hi ht => ?_⟩
  · have looked : Traffic s (waitvAt s x) := (lookupTouch_traffic ..).trans (homeTouch_onlyMemory ..).traffic
    exact goes_of_waitDone looked hi (waitv_dest ht) (kind := .waitv)
      ((exec_waitv hi hx ht).trans ((if_neg (by simp [hr])).trans (if_pos other)))
  · exact ⟨_, (exec_waitv hi hx ht).trans ((if_neg (by simp [hr])).trans (if_neg (not_not.2 same))), rfl⟩
  · exact ⟨_, (exec_waitv hi hx ht).trans (if_pos hr), requestWait_requests ..⟩
  · refine ⟨_, ?_, ran_setWave s { s.wave with wreg := none } sw rfl rfl⟩
    show execWdone sw s = _
    rw [execWdone, formTrap_of_noOperands hp, guarded_of_none _ hi]
  · refine goes_of_addPend (.refl s) hi (dest_of_sgz (by simpa using extra_of_formTrap ht)) ?_
    show execWqry sw d s = _
    rw [execWqry, ht, guarded_of_none _ hi, waitWord_eq]

/-! ## Power -/

section
variable {s : State} {sw : Bool} {d a b : Opd}

theorem highTrap_of_lt {o : Opd} {n : Nat} (h : (s.sval o).toNat < 2 ^ n) : s.highTrap o n = none := by
  have small : ((s.readScal (s.ref o)).bits >>> n != 0#64) = false := by
    rw [shiftRight_ne_zero, decide_eq_false_iff_not]
    exact Nat.not_le.2 h
  simp [State.highTrap, small]

theorem poisonScal_of_plain {os : List Opd} (h : ∀ o ∈ os, (s.readScal (s.ref o)).p = false) : s.poisonScal os = none := by
  have none : firstTok (os.map fun o => (s.readScal (s.ref o)).tok) = none := by
    refine List.findSome?_eq_none_iff.2 fun t ht => ?_
    obtain ⟨o, mem, rfl⟩ := List.mem_map.1 ht
    simp [ScalVal.tok, h o mem]
  rw [State.poisonScal, none]

/-- What EBUD does to a context (R311). -/
theorem ebud_eq (c : Ctx) (x : Nat) {op : Nat} (h : op < 4) :
    c.ebud x op = ((budget c.bal c.rsv x op).1, { c with rsv := (budget c.bal c.rsv x op).2 }) := by
  have free : (x : Int) ≤ c.bal - c.rsv ↔ (x : Int) + c.rsv ≤ c.bal := by omega
  match op, h with
  | 0, _ =>
    simp only [Ctx.ebud, budget, free, if_true]
    split <;> rfl
  | 1, _ =>
    simp only [Ctx.ebud, budget]
    split <;> rfl
  | 2, _ => rfl
  | 3, _ => rfl

theorem exec_pcls (hi : s.issuing = true) (ht : s.formTrap { xw := .no } (!a.isS) = none) (hp : (s.readScal (s.ref a)).p = false)
    (small : (s.sval a).toNat < 8) :
    exec (.pcls sw a) s = .next ((if s.wave.repro then s.hold s.iss.cur (.shedClass ((s.sval a).setWidth 3))
      else { s with endOfCycle := s.endOfCycle ++ [.cls s.wave.id.topSlot s.wave.id.wgKey ((s.sval a).setWidth 3)] }).retire sw) := by
  show execPcls sw a s = _
  rw [execPcls, ht, highTrap_of_lt (n := 3) small, poisonScal_of_plain (by simpa using hp)]
  exact guarded_of_none _ hi

theorem exec_ebud (hi : s.issuing = true) (ht : s.formTrap { xw := .no } (!d.isS || !a.isS || !b.isS) = none)
    (pa : (s.readScal (s.ref a)).p = false) (pb : (s.readScal (s.ref b)).p = false) (small : (s.sval b).toNat < 4) :
    let r := budget s.ctx.bal s.ctx.rsv (s.sval a).toNat (s.sval b).toNat
    exec (.ebud sw d a b) s = .next (((s.setCtxAt s.asid { s.ctx with rsv := r.2 }).addPend s.iss.cur
      (Pend.plain ((s.dest d).scalVal ⟨r.1, false⟩) 1#64)).retire sw) := by
  intro r
  show execEbud sw d a b s = _
  rw [execEbud, ht, highTrap_of_lt (n := 2) small, poisonScal_of_plain (by simp [pa, pb])]
  refine (guarded_of_none _ hi).trans ?_
  dsimp only
  rw [ebud_eq _ _ small]
  rfl

end

/-- Settles O35. -/
theorem powerInstructions : Obligations.PowerInstructions := by
  unfold Obligations.PowerInstructions
  refine ⟨fun sw a s hi ht hp small => ⟨fun hr => ?_, fun hr => ?_⟩, fun sw d a b s hi ht pa pb small => ?_⟩
  · refine ⟨_, exec_pcls hi ht hp small, ?_⟩
    rw [if_neg (by simp [hr])]
    have gone (g : List CycEff) : { s with endOfCycle := s.endOfCycle ++ g }.retire sw = goneOn s s.wave g sw 1 := by
      rw [State.retire, retireN_eq_goneOn, goneOn, List.append_nil]
      rfl
    exact ⟨gone _, gone _ ▸ goneOn_sameBytes s s.wave _ sw 1⟩
  · refine ⟨_, exec_pcls hi ht hp small, ?_⟩
    rw [if_pos hr]
    exact ran_setWave s _ sw rfl rfl
  · have sz : ∀ r, s.dest d ≠ .vec r := dest_of_sz (by
      have bad := extra_of_formTrap ht
      simp only [Bool.or_eq_false_iff] at bad
      simpa [Opd.sz] using Or.inl (by simpa using bad.1.1))
    exact ⟨_, exec_ebud hi ht pa pb small, addPend_computes (s := s.setCtxAt s.asid _) sw _ hi sz⟩

end Sys2Proof.Claims
end

section
/-!
PROOF. BR, BRU, CALL, JMPR, CALLR and RET (R107, R358 to R360, R390, R429).
-/

namespace Sys2Proof.Claims

open Sys2Proof.Machine

/-! ## Slots and jumps -/

@[simp] theorem slot_setSlot_same (p : Pcs) (b : Bool) (x : Option PcSlot) : (p.setSlot b x).slot b = x := by cases b <;> rfl
@[simp] theorem slot_setSlot_not (p : Pcs) (b : Bool) (x : Option PcSlot) : (p.setSlot b x).slot (!b) = p.slot (!b) := by cases b <;> rfl
@[simp] theorem slot_setSlot_of_not (p : Pcs) (b : Bool) (x : Option PcSlot) : (p.setSlot (!b) x).slot b = p.slot b := by cases b <;> rfl

/-- Setting slots leaves the other registers of the program counters. -/
theorem setSlot_eq (p : Pcs) (b : Bool) (x : Option PcSlot) :
    p.setSlot b x = { p with slot0 := (p.setSlot b x).slot0, slot1 := (p.setSlot b x).slot1 } := by cases b <;> rfl

/-- An instruction that moves its wave and retires has jumped. -/
theorem jumps_retireAt (s : State) (w : Wave) (pcs : Pcs) (sw : Bool) (hd : w.id = s.wave.id) :
    Jumps s w pcs sw ((s.setWave { w with pcs := pcs }).retireAt sw) := by
  let v : Wave := { w with pcs := pcs }
  have moved : (s.setWave v).retireAt sw =
      { s with waves := s.waves.put s.iss.cur (retired s v sw), iss := { s.iss with out := .retired } } := by
    rw [State.setWave, setWaveAt_withWave, State.retireAt, tally_eq, withWave_wave, retired_withWave s v v [] sw hd, withWave_setWave]
    simp [withWave]
  exact ⟨moved, fun _ _ => moved ▸ ⟨rfl, rfl⟩⟩

section
variable {s : State} {x : PcSlot} (hx : s.wave.pcs.slot s.iss.slot = some x)
include hx

theorem pc_of_slot : s.pc = x.pc := by simp [State.pc, hx]
theorem mask_of_slot : s.mask = x.mask := by simp [State.mask, hx]
theorem issuing_of_slot : s.issuing = true := by simp [State.issuing, hx]

theorem setPc_of_slot (pc : Word64) : s.setPc pc = s.setWave { s.wave with pcs := slotAt s x pc } := by
  simp only [State.setPc, hx]
  rfl

end

/-- Moving the slot of a wave that has changed. -/
theorem setPc_setWave {s : State} {x : PcSlot} (hx : s.wave.pcs.slot s.iss.slot = some x) {w : Wave} (hp : w.pcs = s.wave.pcs) (pc : Word64) :
    (s.setWave w).setPc pc = s.setWave { w with pcs := slotAt s x pc } := by
  have slot : w.pcs.slot s.iss.slot = some x := hp ▸ hx
  rw [State.setWave, setWaveAt_withWave, State.setPc, withWave_wave, withWave_iss]
  simp only [slot, withWave_setWave]
  rw [State.setWave, setWaveAt_withWave, hp]
  rfl

theorem noRight_setWave (s : State) (w : Wave) : (s.setWave w).setWave (noRight (s.setWave w).wave) = s.setWave (noRight w) := by
  simp [State.setWave, setWaveAt_withWave]

/-! ## Targets and lanes -/

/-- A branch's offset counts words (R107). -/
theorem branchTarget_eq_targetOf (pc : Word64) (o : BitVec 21) : branchTarget pc o = targetOf pc o := by
  have words : o.signExtend 64 <<< 2 = BitVec.ofInt 64 (4 * o.toInt) := by
    rw [BitVec.signExtend, BitVec.shiftLeft_eq_mul_twoPow, mul_comm, BitVec.ofInt_mul]
    rfl
  rw [branchTarget, targetOf, BitVec.ofInt_add, words, BitVec.ofInt_natCast, BitVec.ofNat_toNat, BitVec.setWidth_eq]

section
variable {s : State} {p : BitVec 3} {neg : Bool} {m : Lanes}

theorem takenLanes_eq : takenLanes s p neg m = m &&& s.predLanes p neg := by
  refine BitVec.eq_of_getLsbD_eq fun i hi => ?_
  cases neg <;> simp [takenLanes, State.predLanes, hi]

theorem takenLanes_not : takenLanes s p (!neg) m = m &&& ~~~ s.predLanes p neg := by
  rw [takenLanes_eq]
  cases neg <;> simp [State.predLanes]

theorem poisonTrap_of_none {ls : List Nat} {tok : Nat → Option Word32} (h : ∀ l ∈ ls, tok l = none) : poisonTrap ls tok = none := by
  have clean : (ls.filter fun l => (tok l).isSome) = [] := List.filter_eq_nil_iff.2 fun l hl => by simp [h l hl]
  rw [poisonTrap, clean]

theorem predPoison_of_plain (h : predPlain s p s.mask) : s.predPoison p = none := by
  refine poisonTrap_of_none fun l hl => ?_
  obtain ⟨hl, active⟩ := (mem_lanesOf ..).1 hl
  simp [h l hl active]

end

/-- Bytes that are not written read as before. -/
theorem homeRead_homeWrite_of_notMem {s : State} (hl : s.harts.lines = []) {a : Nat} (bytes : List (Nat × Byte)) (ha : a ∉ bytes.map Prod.fst) :
    (s.homeWrite bytes).homeRead a = s.homeRead a := by
  obtain ⟨ue, ⟨hm, -, hh⟩, -⟩ := homeWrite_of_noLines hl bytes
  rw [homeRead_of_noLines hh, homeRead_of_noLines hl, hm]
  refine FMap.get_sets_of_notMem _ _ fun mem => ha ?_
  obtain ⟨e, he, rfl⟩ := List.mem_map.1 mem
  exact List.mem_map_of_mem (List.mem_of_mem_filter he)

/-! ## Splitting with both slots in use -/

/-- The slots of a wave whose branch splits with both slots in use (R107). -/
def pushedPcs (s : State) (x y : PcSlot) (pathT pathF : PcSlot) : Pcs :=
  (({ s.wave.pcs with nextSeq := s.wave.pcs.nextSeq + 1 } : Pcs).setSlot s.iss.slot (some (if x.seq < y.seq then pathT else pathF))).setSlot
    (!s.iss.slot) (some (if x.seq < y.seq then y else pathT))

theorem pushedPcs_eq (s : State) (x y : PcSlot) (pathT pathF : PcSlot) : pushedPcs s x y pathT pathF =
    { s.wave.pcs with slot0 := (pushedPcs s x y pathT pathF).slot0, slot1 := (pushedPcs s x y pathT pathF).slot1,
                      nextSeq := s.wave.pcs.nextSeq + 1 } := by
  unfold pushedPcs
  cases s.iss.slot <;> rfl

/-- A path pushed: its bytes at the top of the stack, and the stack one deeper (R108). -/
theorem pushPath_setWave (s : State) (w : Wave) (x : PcSlot) {top n : Nat} (ht : w.pcs.stackBase + 64 * w.pcs.depth = top)
    (hn : w.pcs.depth = n) :
    let v := (s.setWave w).homeWrite (((List.range 64).map (top + ·)).zip (pathBytes x))
    (s.setWave w).pushPath s.iss.cur x = v.setWave { v.wave with pcs := { w.pcs with depth := n + 1 } } := by
  subst ht hn
  intro v
  have iss : v.iss = s.iss := (homeWrite_onlyMemory (s.setWave w) _).iss
  have wave : (s.setWave w).waveAt s.iss.cur = w := State.waveAt_setWaveAt ..
  have bytes : stackEntry x = pathBytes x := by
    unfold stackEntry pathBytes bit
    cases x.waiting <;> rfl
  unfold State.pushPath
  rw [wave, bytes]
  show v.setWaveAt s.iss.cur { v.waveAt s.iss.cur with pcs := _ } = v.setWaveAt v.iss.cur { v.waveAt v.iss.cur with pcs := _ }
  rw [iss]

/-- An instruction that pushes a path and retires has jumped, from the state in which the path's bytes are written; no byte elsewhere reads anew. -/
theorem pushPath_jumps (s : State) (w : Wave) (x : PcSlot) (sw : Bool) {top n : Nat} (ht : w.pcs.stackBase + 64 * w.pcs.depth = top)
    (hn : w.pcs.depth = n) :
    let v := (s.setWave w).homeWrite (((List.range 64).map (top + ·)).zip (pathBytes x))
    let u := (s.setWave w).pushPath s.iss.cur x
    Jumps v (noRight v.wave) { w.pcs with depth := n + 1 } sw ((u.setWave (noRight u.wave)).retireAt sw) ∧
      (s.harts.lines = [] → ∀ a, (a < top ∨ top + 64 ≤ a) → ((u.setWave (noRight u.wave)).retireAt sw).homeRead a = s.homeRead a) := by
  intro v u
  have pushed : u = v.setWave { v.wave with pcs := { w.pcs with depth := n + 1 } } := pushPath_setWave s w x ht hn
  have kept : s.harts.lines = [] → ∀ a, (a < top ∨ top + 64 ≤ a) → v.homeRead a = s.homeRead a := fun hl a outside =>
    homeRead_homeWrite_of_notMem (s := s.setWave w) hl _ fun mem => by
      obtain ⟨e, he, rfl⟩ := List.mem_map.1 mem
      obtain ⟨i, hi, top⟩ := List.mem_map.1 (List.of_mem_zip he).1
      have := List.mem_range.1 hi
      omega
  clear_value u v
  rw [pushed, noRight_setWave]
  have jumps := jumps_retireAt v (noRight v.wave) { w.pcs with depth := n + 1 } sw rfl
  exact ⟨jumps, fun hl a outside => (jumps.2 0 a).1.trans (kept hl a outside)⟩

theorem setSlot_setSlot_used {p : Pcs} {b : Bool} {y : PcSlot} (h : p.slot (!b) = some y) (n : Nat) (x : Option PcSlot) :
    (({ p with nextSeq := n } : Pcs).setSlot b x).setSlot (!b) (some y) = ({ p with nextSeq := n } : Pcs).setSlot b x := by
  cases b <;> cases p <;> cases h <;> rfl

theorem split_pushes {s : State} {x y : PcSlot} (used : s.wave.pcs.slot (!s.iss.slot) = some y) (target : Word64) (t f : Lanes) :
    let pathF : PcSlot := { x with pc := x.pc + 4#64, mask := f }
    let pathT : PcSlot := ⟨target, t, s.wave.pcs.nextSeq, false⟩
    s.split x target t f = (s.setWave { s.wave with pcs := pushedPcs s x y pathT pathF }).pushPath s.iss.cur (if x.seq < y.seq then pathF else y) := by
  simp only [State.split, used, pushedPcs]
  split
  · rw [setSlot_setSlot_used used]
  · rfl

/-! ## Branches -/

section
variable {s : State} {x : PcSlot} (sw neg : Bool) (p : BitVec 3) (o : BitVec 21) (hx : s.wave.pcs.slot s.iss.slot = some x) (hp : s.iss.pfx = none)
include hx hp

/-- A branch whose lanes agree, as it goes on. -/
theorem exec_br_agrees (plain : predPlain s p x.mask) (agree : takenLanes s p neg x.mask = 0#64 ∨ takenLanes s p (!neg) x.mask = 0#64) :
    exec (.br sw neg p o) s = .next ((s.setWave { s.wave with
      pcs := slotAt s x (if takenLanes s p neg x.mask = 0#64 then x.pc + 4#64 else targetOf x.pc o) }).retireAt sw) := by
  have mask := mask_of_slot hx
  have one : (takenLanes s p neg x.mask != 0#64 && takenLanes s p (!neg) x.mask != 0#64) = false := by
    rcases agree with h | h <;> simp [h]
  show execBr sw neg p o s = _
  unfold execBr
  dsimp only
  rw [mask, ← takenLanes_eq, ← takenLanes_not, one, Bool.false_and, formTrap_of_noOperands hp, predPoison_of_plain (mask ▸ plain),
    if_neg Bool.false_ne_true]
  refine (guarded_of_none _ (issuing_of_slot hx)).trans ?_
  simp only [hx, setPc_of_slot hx, branchTarget_eq_targetOf, Bool.false_eq_true, if_false]

/-- A branch whose lanes differ, as it goes on. -/
theorem exec_br_splits (plain : predPlain s p x.mask) (ht : takenLanes s p neg x.mask ≠ 0#64) (hf : takenLanes s p (!neg) x.mask ≠ 0#64)
    (room : (s.wave.pcs.slot (!s.iss.slot)).isSome = true → s.wave.pcs.depth < s.wg.kern.divdepth) {u : State}
    (hu : s.split x (targetOf x.pc o) (takenLanes s p neg x.mask) (takenLanes s p (!neg) x.mask) = u) :
    exec (.br sw neg p o) s = .next ((u.setWave (noRight u.wave)).retireAt sw) := by
  have mask := mask_of_slot hx
  have both : (takenLanes s p neg x.mask != 0#64 && takenLanes s p (!neg) x.mask != 0#64) = true := by simp [ht, hf]
  have full : ((s.wave.pcs.slot (!s.iss.slot)).isSome && decide (s.wg.kern.divdepth ≤ s.wave.pcs.depth)) = false := by
    cases h : (s.wave.pcs.slot (!s.iss.slot)).isSome
    · rfl
    · simp [room h]
  show execBr sw neg p o s = _
  unfold execBr
  dsimp only
  rw [mask, ← takenLanes_eq, ← takenLanes_not, both, full, formTrap_of_noOperands hp, predPoison_of_plain (mask ▸ plain), if_neg (by simp)]
  refine (guarded_of_none _ (issuing_of_slot hx)).trans ?_
  simp only [hx, branchTarget_eq_targetOf, if_true, hu]
  rfl

/-- A branch whose lanes agree goes one way. -/
theorem br_agrees (plain : predPlain s p x.mask) (agree : takenLanes s p neg x.mask = 0#64 ∨ takenLanes s p (!neg) x.mask = 0#64) :
    Goes (.br sw neg p o) s
      (Jumps s s.wave (slotAt s x (if takenLanes s p neg x.mask = 0#64 then x.pc + 4#64 else targetOf x.pc o)) sw) :=
  ⟨_, exec_br_agrees sw neg p o hx hp plain agree, jumps_retireAt s s.wave _ sw rfl⟩

/-- A branch whose lanes differ leaves the other path in the free slot (R107). -/
theorem br_splits (plain : predPlain s p x.mask) (ht : takenLanes s p neg x.mask ≠ 0#64) (hf : takenLanes s p (!neg) x.mask ≠ 0#64)
    (free : s.wave.pcs.slot (!s.iss.slot) = none) :
    Goes (.br sw neg p o) s fun u => ∃ pcs, Jumps s (noRight s.wave) pcs sw u ∧
      pcs = { s.wave.pcs with slot0 := pcs.slot0, slot1 := pcs.slot1, nextSeq := s.wave.pcs.nextSeq + 1 } ∧
      pcs.slot s.iss.slot = some { x with pc := x.pc + 4#64, mask := takenLanes s p (!neg) x.mask } ∧
      pcs.slot (!s.iss.slot) = some ⟨targetOf x.pc o, takenLanes s p neg x.mask, s.wave.pcs.nextSeq, false⟩ := by
  let pathF : PcSlot := { x with pc := x.pc + 4#64, mask := takenLanes s p (!neg) x.mask }
  let pathT : PcSlot := ⟨targetOf x.pc o, takenLanes s p neg x.mask, s.wave.pcs.nextSeq, false⟩
  let pcs := (({ s.wave.pcs with nextSeq := s.wave.pcs.nextSeq + 1 } : Pcs).setSlot s.iss.slot (some pathF)).setSlot (!s.iss.slot) (some pathT)
  have split : s.split x (targetOf x.pc o) (takenLanes s p neg x.mask) (takenLanes s p (!neg) x.mask) = s.setWave { s.wave with pcs := pcs } := by
    simp only [State.split, free]
    rfl
  have run := exec_br_splits sw neg p o hx hp plain ht hf (fun used => by rw [free] at used; cases used) split
  rw [noRight_setWave] at run
  refine ⟨_, run, pcs, jumps_retireAt s (noRight s.wave) pcs sw rfl, ?_, by simp [pcs, pathF], by simp [pcs, pathT]⟩
  dsimp only [pcs]
  cases s.iss.slot <;> rfl

/-- With both slots in use the path that R107 names goes on the stack (R108). -/
theorem br_pushes {y : PcSlot} (plain : predPlain s p x.mask) (ht : takenLanes s p neg x.mask ≠ 0#64) (hf : takenLanes s p (!neg) x.mask ≠ 0#64)
    (used : s.wave.pcs.slot (!s.iss.slot) = some y) (room : s.wave.pcs.depth < s.wg.kern.divdepth) :
    let pathF : PcSlot := { x with pc := x.pc + 4#64, mask := takenLanes s p (!neg) x.mask }
    let pathT : PcSlot := { pc := targetOf x.pc o, mask := takenLanes s p neg x.mask, seq := s.wave.pcs.nextSeq, waiting := false }
    Goes (.br sw neg p o) s fun u => ∃ pcs : Pcs,
      let top := s.wave.pcs.stackBase + 64 * s.wave.pcs.depth
      let path := if x.seq < y.seq then pathF else y
      pcs = { s.wave.pcs with slot0 := pcs.slot0, slot1 := pcs.slot1, nextSeq := s.wave.pcs.nextSeq + 1 } ∧
      pcs.slot s.iss.slot = some (if x.seq < y.seq then pathT else pathF) ∧
      pcs.slot (!s.iss.slot) = some (if x.seq < y.seq then y else pathT) ∧
      let v := (s.setWave { s.wave with pcs := pcs }).homeWrite (((List.range 64).map (top + ·)).zip (pathBytes path))
      Jumps v (noRight v.wave) { pcs with depth := s.wave.pcs.depth + 1 } sw u ∧
      (s.harts.lines = [] → ∀ a, (a < top ∨ top + 64 ≤ a) → u.homeRead a = s.homeRead a) := by
  intro pathF pathT
  have split := split_pushes (x := x) used (targetOf x.pc o) (takenLanes s p neg x.mask) (takenLanes s p (!neg) x.mask)
  have pcs := pushedPcs_eq s x y pathT pathF
  have deep : (pushedPcs s x y pathT pathF).depth = s.wave.pcs.depth := congrArg (·.depth) pcs
  have base : (pushedPcs s x y pathT pathF).stackBase = s.wave.pcs.stackBase := congrArg (·.stackBase) pcs
  obtain ⟨jumps, outside⟩ := pushPath_jumps s { s.wave with pcs := pushedPcs s x y pathT pathF } (if x.seq < y.seq then pathF else y) sw
    (top := s.wave.pcs.stackBase + 64 * s.wave.pcs.depth) (by rw [deep, base]) deep
  refine ⟨_, exec_br_splits sw neg p o hx hp plain ht hf (fun _ => room) split, pushedPcs s x y pathT pathF, pcs, ?_, ?_, jumps, outside⟩
  · simp [pushedPcs]
  · simp [pushedPcs]

end

/-! ## Uniform branches, calls and jumps -/

section
variable {s : State} {x : PcSlot} (sw : Bool) (hx : s.wave.pcs.slot s.iss.slot = some x)
include hx

theorem bru_goes (m : BruMode) (p : BitVec 3) (o : BitVec 21) (hp : s.iss.pfx = none) (plain : m ≠ .always → predPlain s p x.mask) :
    Goes (.bru sw m p o) s (Jumps s s.wave (slotAt s x (if s.bruTaken m p then targetOf x.pc o else x.pc + 4#64)) sw) := by
  have poison : (if m = .always then none else s.predPoison p) = none :=
    ite_eq_left_iff.2 fun h => predPoison_of_plain (mask_of_slot hx ▸ plain h)
  refine ⟨_, ?_, jumps_retireAt s s.wave _ sw rfl⟩
  show execBru sw m p o s = _
  rw [execBru, formTrap_of_noOperands hp, poison]
  refine (guarded_of_none _ (issuing_of_slot hx)).trans ?_
  rw [pc_of_slot hx, branchTarget_eq_targetOf, setPc_of_slot hx]

theorem link_eq : s.link = s.setWave (linked s.wave x.pc) := by
  rw [State.link, pc_of_slot hx]
  rfl

theorem link_setPc (pc : Word64) : s.link.setPc pc = s.setWave { (linked s.wave x.pc) with pcs := slotAt s x pc } := by
  rw [link_eq hx]
  exact setPc_setWave hx (w := linked s.wave x.pc) rfl pc

theorem call_goes (o : BitVec 21) (hp : s.iss.pfx = none) :
    Goes (.call sw o) s (Jumps s (linked s.wave x.pc) (slotAt s x (targetOf x.pc o)) sw) := by
  refine ⟨_, ?_, jumps_retireAt s (linked s.wave x.pc) _ sw rfl⟩
  show execCall sw o s = _
  rw [execCall, formTrap_of_noOperands hp, guarded_of_none _ (issuing_of_slot hx), pc_of_slot hx, branchTarget_eq_targetOf, link_setPc hx]

variable {a : Opd} (ht : s.jumpTrap a = none)
include ht

theorem jmpr_goes : Goes (.jmpr sw a) s (Jumps s s.wave (slotAt s x (s.sval a)) sw) := by
  refine ⟨_, ?_, jumps_retireAt s s.wave _ sw rfl⟩
  show execJmpr sw a s = _
  rw [execJmpr, ht, guarded_of_none _ (issuing_of_slot hx), setPc_of_slot hx]

theorem callr_goes : Goes (.callr sw a) s (Jumps s (linked s.wave x.pc) (slotAt s x (s.sval a)) sw) := by
  refine ⟨_, ?_, jumps_retireAt s (linked s.wave x.pc) _ sw rfl⟩
  show execCallr sw a s = _
  rw [execCallr, ht, guarded_of_none _ (issuing_of_slot hx), link_setPc hx]

theorem ret_goes (link : a = .s 46) : Goes (.ret sw) s (Jumps s s.wave (slotAt s x (s.sval a)) sw) := by
  subst link
  refine ⟨_, ?_, jumps_retireAt s s.wave _ sw rfl⟩
  show execRet sw s = _
  rw [execRet, ht, guarded_of_none _ (issuing_of_slot hx), setPc_of_slot hx]

end

/-- Settles O37. -/
theorem branches : Obligations.Branches := by
  unfold Obligations.Branches
  refine ⟨fun sw neg p o s x hx hp plain => ?_, fun sw m p o s x hx hp plain => ?_, fun sw o s x hx hp => ?_, fun sw a s x hx ht => ?_⟩
  · intro t f pathF pathT
    refine ⟨fun ht => ?_, fun ht hf => ?_, fun ht hf free => br_splits sw neg p o hx hp plain ht hf free,
      fun y ht hf used room => br_pushes sw neg p o hx hp plain ht hf used room⟩
    · have goes := br_agrees sw neg p o hx hp plain (.inl ht)
      rwa [if_pos ht] at goes
    · have goes := br_agrees sw neg p o hx hp plain (.inr hf)
      rwa [if_neg ht] at goes
  · have goes := bru_goes sw hx m p o hp plain
    simp only [State.bruTaken, mask_of_slot hx, ← takenLanes_eq] at goes
    cases m <;> exact goes
  · exact call_goes sw hx o hp
  · exact ⟨jmpr_goes sw hx ht, callr_goes sw hx ht, ret_goes sw hx ht⟩

end Sys2Proof.Claims
end

section
/-!
PROOF. JOIN and EXIT (R110, R111, R376).
-/

namespace Sys2Proof.Claims

open Sys2Proof.Machine

/-! ## Moving a wave that has retired -/

/-- The issuing wave after it retired an instruction that moved it. -/
theorem waveAt_retireAt (s : State) (w : Wave) (sw : Bool) (hd : w.id = s.wave.id) :
    ((s.setWave w).retireAt sw).waveAt s.iss.cur = retired s w sw := by
  have moved := (jumps_retireAt s w w.pcs sw hd).1
  rw [moved]
  exact FMap.get_put_same ..

/-- What a retirement counts does not depend on where the wave stands: it may be moved afterwards. -/
theorem retireAt_setPcs (s : State) (w : Wave) (q : Pcs) (sw : Bool) (hd : w.id = s.wave.id) :
    ((s.setWave w).retireAt sw).setWaveAt s.iss.cur { (retired s w sw) with pcs := q } = (s.setWave { w with pcs := q }).retireAt sw := by
  rw [(jumps_retireAt s w q sw hd).1, (jumps_retireAt s w w.pcs sw hd).1]
  simp only [State.setWaveAt, FMap.put_put]
  rfl

/-- Slots that settle without the stack leave the machine but for the wave's slots (R111). -/
theorem settleSlots_retireAt (s : State) (w : Wave) {p q : Pcs} (sw : Bool) (hd : w.id = s.wave.id) (second : Bool)
    (settles : ∀ read fuel, settlePcs read (fuel + 3) second p = some q) (depth : q.depth = p.depth) :
    ((s.setWave { w with pcs := p }).retireAt sw).settleSlots s.iss.cur second = (s.setWave { w with pcs := q }).retireAt sw := by
  have moved := retireAt_setPcs s { w with pcs := p } q sw hd
  have wave := waveAt_retireAt s { w with pcs := p } sw hd
  have pcs : (retired s { w with pcs := p } sw).pcs = p := rfl
  unfold State.settleSlots
  dsimp only
  rw [wave, pcs, settles, ← moved]
  simp only [depth, Nat.sub_self, Nat.mul_zero, List.range_zero, List.map_nil]
  rfl

/-! ## JOIN -/

section
variable {s : State} {x y : PcSlot} (sw : Bool) (hx : s.wave.pcs.slot s.iss.slot = some x) (hp : s.iss.pfx = none)
include hx hp

theorem exec_join (hy : s.wave.pcs.slot (!s.iss.slot) = some y) {q : Pcs}
    (settles : ∀ read fuel, settlePcs read (fuel + 3) s.iss.slot (s.wave.pcs.setSlot s.iss.slot (some { x with waiting := true })) = some q)
    (depth : q.depth = s.wave.pcs.depth) : Goes (.join sw) s (Jumps s (noRight s.wave) q sw) := by
  have deep : (s.wave.pcs.setSlot s.iss.slot (some { x with waiting := true })).depth = s.wave.pcs.depth := by cases s.iss.slot <;> rfl
  refine ⟨_, ?_, jumps_retireAt s (noRight s.wave) q sw rfl⟩
  rw [← settleSlots_retireAt s (noRight s.wave) sw rfl s.iss.slot settles (depth.trans deep.symm)]
  show execJoin sw s = _
  rw [execJoin, formTrap_of_noOperands hp, guarded_of_none _ (issuing_of_slot hx)]
  simp only [hx, hy]
  rfl

/-- With no other path a JOIN goes on (R110). -/
theorem join_alone (alone : s.wave.pcs.slot (!s.iss.slot) = none) : Goes (.join sw) s (Jumps s s.wave (slotAt s x (x.pc + 4#64)) sw) := by
  have next : s.pc + s.iss.bytes 1 = x.pc + 4#64 := by
    rw [pc_of_slot hx, Issue.bytes, hp]
    rfl
  refine ⟨_, ?_, jumps_retireAt s s.wave _ sw rfl⟩
  show execJoin sw s = _
  rw [execJoin, formTrap_of_noOperands hp, guarded_of_none _ (issuing_of_slot hx)]
  simp only [hx, alone, State.retire, State.retireN, setPc_of_slot hx, next]

/-- A path waits at its JOIN for one that is not there yet (R110). -/
theorem join_waits (hy : s.wave.pcs.slot (!s.iss.slot) = some y) (running : y.waiting = false) :
    Goes (.join sw) s (Jumps s (noRight s.wave) (s.wave.pcs.setSlot s.iss.slot (some { x with waiting := true })) sw) := by
  refine exec_join sw hx hp hy (fun read fuel => ?_) (by cases s.iss.slot <;> rfl)
  simp [settlePcs, hy, running]

/-- Two paths that wait at one JOIN, the stack being empty, merge behind it (R110). -/
theorem join_merges (hy : s.wave.pcs.slot (!s.iss.slot) = some y) (waiting : y.waiting = true) (meet : y.pc = x.pc) (empty : s.wave.pcs.depth = 0) :
    Goes (.join sw) s fun t => ∃ pcs, Jumps s (noRight s.wave) pcs sw t ∧ pcs = { s.wave.pcs with slot0 := pcs.slot0, slot1 := pcs.slot1 } ∧
      pcs.slot (!s.iss.slot) = none ∧
      pcs.slot s.iss.slot = some { pc := x.pc + 4#64, mask := x.mask ||| y.mask, seq := min x.seq y.seq, waiting := false } := by
  let waits : Pcs := s.wave.pcs.setSlot s.iss.slot (some { x with waiting := true })
  let merged : Pcs := (waits.setSlot s.iss.slot (some (({ x with waiting := true } : PcSlot).merge y))).setSlot (!s.iss.slot) none
  have rest : merged = { s.wave.pcs with slot0 := merged.slot0, slot1 := merged.slot1 } := by
    dsimp only [merged, waits]
    cases s.iss.slot <;> rfl
  have deep : merged.depth = s.wave.pcs.depth := congrArg (·.depth) rest
  have settles (read : Nat → Option PcSlot) (fuel : Nat) : settlePcs read (fuel + 3) s.iss.slot waits = some merged := by
    have merges : settlePcs read (fuel + 3) s.iss.slot waits = settlePcs read (fuel + 2) s.iss.slot merged := by
      simp [settlePcs, waits, merged, hy, waiting, meet]
    have slot : merged.slot s.iss.slot = some (({ x with waiting := true } : PcSlot).merge y) := by simp [merged]
    have other : merged.slot (!s.iss.slot) = none := by simp [merged]
    rw [merges, settlePcs, slot, other]
    simp [deep, empty, PcSlot.merge, PcSlot.goOn]
  obtain ⟨t, run, jumps⟩ := exec_join sw hx hp hy settles deep
  exact ⟨t, run, merged, jumps, rest, by simp [merged], by simp [merged, PcSlot.merge, PcSlot.goOn]⟩

end

/-! ## EXIT -/

theorem repro_retireAt (s : State) (sw : Bool) : ((s.setWave (noRight s.wave)).retireAt sw).wave.repro = s.wave.repro := by
  have wave := waveAt_retireAt s (noRight s.wave) sw rfl
  show (((s.setWave (noRight s.wave)).retireAt sw).waveAt s.iss.cur).repro = _
  rw [wave]
  rfl

section
variable {s : State} (sw : Bool) (hi : s.issuing = true) (hp : s.iss.pfx = none) (hm : s.wave.env.hm = false)
include hi hp hm

theorem guarded_exit : exec (.exit sw) s =
    let u := (s.setWave (noRight s.wave)).retireAt sw
    .next (if u.wave.repro then (u.hold s.iss.cur (.exit s.iss.slot)).endQuantum else u.exitSlot s.iss.cur s.iss.slot) := by
  show execExit sw s = _
  rw [execExit, hm, formTrap_of_noOperands hp, guarded_of_none _ hi]
  rfl

/-- EXIT in reproducible mode is held (R376). -/
theorem exit_held (hr : s.wave.repro = true) : Goes (.exit sw) s fun t => ∃ u, Jumps s (noRight s.wave) s.wave.pcs sw u ∧
    t = (u.hold s.iss.cur (.exit s.iss.slot)).endQuantum := by
  have run := guarded_exit sw hi hp hm
  dsimp only at run
  rw [repro_retireAt, hr, if_pos rfl] at run
  exact ⟨_, run, _, jumps_retireAt s (noRight s.wave) s.wave.pcs sw rfl, rfl⟩

/-- Outside it the slot empties, and settles (R111, R376). -/
theorem exec_exit (hr : s.wave.repro = false) {q : Pcs}
    (settles : ∀ read fuel, settlePcs read (fuel + 3) s.iss.slot (s.wave.pcs.setSlot s.iss.slot none) = some q)
    (depth : q.depth = s.wave.pcs.depth) : ∃ u, Jumps s (noRight s.wave) q sw u ∧ u.waveAt s.iss.cur = retired s { (noRight s.wave) with pcs := q } sw ∧
      exec (.exit sw) s = .next (if (u.waveAt s.iss.cur).st != .exited && (q.slot0.isNone && q.slot1.isNone)
        then (u.leave s.iss.cur).reap s.wave.id.wgKey else u) := by
  have deep : (s.wave.pcs.setSlot s.iss.slot none).depth = s.wave.pcs.depth := by cases s.iss.slot <;> rfl
  have settled := settleSlots_retireAt s (noRight s.wave) sw rfl s.iss.slot settles (depth.trans deep.symm)
  have emptied := retireAt_setPcs s (noRight s.wave) (s.wave.pcs.setSlot s.iss.slot none) sw rfl
  have before := waveAt_retireAt s (noRight s.wave) sw rfl
  have after := waveAt_retireAt s { (noRight s.wave) with pcs := q } sw rfl
  have run := guarded_exit sw hi hp hm
  dsimp only at run
  rw [repro_retireAt, hr, if_neg Bool.false_ne_true] at run
  refine ⟨_, jumps_retireAt s (noRight s.wave) q sw rfl, after, run.trans (congrArg _ ?_)⟩
  have pcs : (retired s (noRight s.wave) sw).pcs = s.wave.pcs := rfl
  have wg : (retired s (noRight s.wave) sw).id.wgKey = s.wave.id.wgKey := rfl
  unfold State.exitSlot
  rw [before]
  dsimp only
  rw [pcs, wg, emptied, settled, after, Bool.and_assoc]
  rfl

end

theorem markWg_onlyWaits (s : State) (wg : Nat) : OnlyWaits s (s.markWg wg) := by
  unfold State.markWg
  dsimp only
  split
  · exact .refl s
  · split
    · exact ⟨rfl, fun _ => rfl⟩
    · exact .refl s

theorem suspendLocks_onlyWaits (s : State) : OnlyWaits s s.suspendLocks := ⟨rfl, fun _ => rfl⟩

theorem isNone_setSlot_none (p : Pcs) (b : Bool) :
    ((p.setSlot b none).slot0.isNone && (p.setSlot b none).slot1.isNone) = (p.slot (!b)).isNone := by
  cases b <;> simp [Pcs.setSlot, Pcs.slot]

/-- A wave that leaves is Exited, whatever barrier its leaving completes (R114, R223, R376). -/
theorem st_leave (s : State) (k : Nat) : ((s.leave k).waveAt k).st = .exited := by
  let w := s.waveAt k
  let left := ((s.orphan k).dropEntry k).setWaveAt k
    { w with st := .exited, pend := [], wait := none, wreg := none, timew := none, mwait := none, stallOn := [],
             pcs := { w.pcs with slot0 := none, slot1 := none, depth := 0 } }
  have completed := (completeBars_onlyWaits left w.id.wgKey).trans (completeCbars_onlyWaits _ w.id.wgKey)
  have rest : OnlyWaits left (s.leave k) := (completed.trans (markWg_onlyWaits _ w.id.wgKey)).trans (suspendLocks_onlyWaits _)
  rw [rest.st k]
  exact congrArg (·.st) (State.waveAt_setWaveAt ..)

/-- A slot that empties with the stack empty leaves the other path as it is, where that one runs (R111). -/
theorem settlePcs_emptied {read : Nat → Option PcSlot} {n : Nat} {p : Pcs} {b : Bool} (gone : p.slot b = none) (empty : p.depth = 0)
    (running : ∀ y, p.slot (!b) = some y → y.waiting = false) : settlePcs read (n + 1) b p = some p := by
  cases h : p.slot (!b) with
  | none => simp [settlePcs, gone, h, empty]
  | some y => simp [settlePcs, gone, h, empty, running y h]

theorem st_retired_ne_exited {s : State} {w : Wave} {sw : Bool} (h : w.st ≠ .exited) : (retired s w sw).st ≠ .exited := by
  unfold retired
  dsimp only
  split
  · nofun
  · exact h

/-- Settles O38. -/
theorem joinAndExit : Obligations.JoinAndExit := by
  unfold Obligations.JoinAndExit
  refine ⟨fun sw s x hx hp => ⟨join_alone sw hx hp, fun y hy => ⟨join_waits sw hx hp hy, join_merges sw hx hp hy⟩⟩,
    fun sw s x hx hp hm => ⟨fun y hr hy running empty => ?_, fun hr live alone empty => ?_, exit_held sw (issuing_of_slot hx) hp hm⟩⟩
  · have deep : (s.wave.pcs.setSlot s.iss.slot none).depth = s.wave.pcs.depth := by cases s.iss.slot <;> rfl
    have other : (s.wave.pcs.setSlot s.iss.slot none).slot (!s.iss.slot) = some y := by rw [slot_setSlot_not, hy]
    have settles (read : Nat → Option PcSlot) (fuel : Nat) := settlePcs_emptied (read := read) (n := fuel + 2)
      (slot_setSlot_same s.wave.pcs s.iss.slot none) (deep.trans empty) (by rw [other]; rintro z ⟨⟩; exact running)
    obtain ⟨u, jumps, -, run⟩ := exec_exit sw (issuing_of_slot hx) hp hm hr settles deep
    rw [isNone_setSlot_none, hy, if_neg (by simp)] at run
    exact ⟨u, run, jumps⟩
  · have deep : (s.wave.pcs.setSlot s.iss.slot none).depth = s.wave.pcs.depth := by cases s.iss.slot <;> rfl
    have settles (read : Nat → Option PcSlot) (fuel : Nat) := settlePcs_emptied (read := read) (n := fuel + 2)
      (slot_setSlot_same s.wave.pcs s.iss.slot none) (deep.trans empty) (by rw [slot_setSlot_not, alone]; nofun)
    obtain ⟨u, jumps, wave, run⟩ := exec_exit sw (issuing_of_slot hx) hp hm hr settles deep
    have st : (u.waveAt s.iss.cur).st ≠ .exited := by
      rw [wave]
      exact st_retired_ne_exited live
    rw [isNone_setSlot_none, alone, if_pos (by simpa using st)] at run
    exact ⟨_, run, u, jumps, st_leave u s.iss.cur, rfl⟩

end Sys2Proof.Claims
end

section
/-!
PROOF. NOP, WBASE, QEND, PHINT, IDEM and XW (R122, R150, R160, R259, R260, R265, R411, R459).
-/

namespace Sys2Proof.Claims

open Sys2Proof.Machine

/-! ## Going on -/

theorem nop_goes {s : State} (sw : Bool) (hi : s.issuing = true) (hp : s.iss.pfx = none) : Goes (.nop sw) s (Went s s.wave [] sw 1) := by
  refine ⟨_, ?_, went_retireN s sw 1⟩
  show execNop sw s = _
  rw [execNop, formTrap_of_noOperands hp, guarded_of_none _ hi]
  rfl

theorem wbase_goes {s : State} (sw : Bool) {n : BitVec 3} (hi : s.issuing = true) (hp : s.iss.pfx = none) (hn : n.toNat < 7)
    (fits : n.toNat + 2 ≤ s.wg.kern.seg) :
    Goes (.wbase sw n) s (Went s { s.wave with regs := { s.wave.regs with wbase := BitVec.ofNat 8 (32 * n.toNat) } } [] sw 1) := by
  have named : (n == 7#3) = false := beq_eq_false_iff_ne.2 fun h => by
    subst h
    exact absurd hn (by decide)
  have inside : ¬ 32 * s.wg.kern.seg < 32 * n.toNat + 64 := by omega
  refine ⟨_, ?_, ran_setWave s _ sw rfl rfl⟩
  show execWbase sw n s = _
  rw [execWbase, named, formTrap_of_noOperands hp, if_neg inside]
  exact guarded_of_none _ hi

/-! ## The end of a quantum -/

/-- The wave of a state that has gone on. -/
theorem wave_goneOn (s : State) (sw : Bool) : (s.retire sw).wave = retired s { s.wave with pcs := forward s s.wave.pcs 1 } sw := by
  rw [State.retire, retireN_eq_goneOn]
  exact FMap.get_put_same ..

/-- Writing the wave back as it stands changes nothing once it has retired. -/
theorem setWave_wave_retire (s : State) (sw : Bool) : (s.retire sw).setWave (s.retire sw).wave = s.retire sw := by
  rw [wave_goneOn, State.retire, retireN_eq_goneOn]
  simp only [State.setWave, State.setWaveAt, goneOn, FMap.put_put]

/-- A quantum that ends where it would have ended anyway: QCLK is at the next multiple (R121). -/
theorem next_multiple {q : Word64} {L : Nat} (h : (q + 1#64).toNat % 2 ^ L = 0) :
    (q + 1#64).toNat = (q.toNat / 2 ^ L + 1) * 2 ^ L % 2 ^ 64 := by
  have next : (q + 1#64).toNat = (q.toNat + 1) % 2 ^ 64 := BitVec.toNat_add ..
  have multiple (dvd : 2 ^ L ∣ q.toNat + 1) : (q.toNat / 2 ^ L + 1) * 2 ^ L = q.toNat + 1 := by
    rw [← Nat.succ_div_of_dvd dvd, Nat.div_mul_cancel dvd]
  rw [next] at h ⊢
  rcases Nat.lt_or_ge (q.toNat + 1) (2 ^ 64) with small | wraps
  · rw [Nat.mod_eq_of_lt small] at h
    rw [multiple (Nat.dvd_of_mod_eq_zero h)]
  · have whole : q.toNat + 1 = 2 ^ 64 := by have := q.isLt; omega
    rcases Nat.le_total L 64 with le | ge
    · rw [multiple (whole ▸ Nat.pow_dvd_pow 2 le)]
    · have short : q.toNat < 2 ^ L := lt_of_lt_of_le q.isLt (Nat.pow_le_pow_right (by decide) ge)
      rw [whole, Nat.div_eq_of_lt short, Nat.zero_add, Nat.one_mul, Nat.mod_self, Nat.mod_eq_zero_of_dvd (Nat.pow_dvd_pow 2 ge)]

theorem endQuantum_of_ended {u : State} (he : u.wave.ended = true) : u.endQuantum = u := by simp [State.endQuantum, he]

theorem endQuantum_of_open {u : State} (hr : u.wave.repro = true) (he : u.wave.ended = false) :
    u.endQuantum = u.setWave { u.wave with ended := true, qclk := nextQuantum u.ctx.qlog (u.wave.qclk - 1#64) } := by
  simp [State.endQuantum, hr, he]

/-- QEND as it goes on. -/
theorem exec_qend {s : State} (sw : Bool) (hi : s.issuing = true) (hp : s.iss.pfx = none) :
    exec (.qend sw) s = .next (s.retire sw).endQuantum := by
  show execQend sw s = _
  rw [execQend, formTrap_of_noOperands hp, guarded_of_none _ hi]

theorem qend_goes {s : State} (sw : Bool) (hi : s.issuing = true) (hp : s.iss.pfx = none) (hr : s.wave.repro = false) :
    Goes (.qend sw) s (Went s s.wave [] sw 1) := by
  have repro : (s.retire sw).wave.repro = false := by rw [wave_goneOn]; exact hr
  have ends : (s.retire sw).endQuantum = s.retire sw := by simp [State.endQuantum, repro]
  exact ⟨_, (exec_qend sw hi hp).trans (congrArg _ ends), went_retireN s sw 1⟩

theorem qend_ends {s : State} (sw : Bool) (hi : s.issuing = true) (hp : s.iss.pfx = none) (hr : s.wave.repro = true) (hm : s.wave.env.hm = false)
    (he : s.wave.ended = false) : Goes (.qend sw) s fun t =>
      ∃ u, Went s s.wave [] sw 1 u ∧ t = u.setWave { u.wave with ended := true, qclk := t.wave.qclk } ∧
        t.wave.qclk.toNat = (s.wave.qclk.toNat / 2 ^ s.ctx.qlog + 1) * 2 ^ s.ctx.qlog % 2 ^ 64 := by
  have wave := wave_goneOn s sw
  have repro : (s.retire sw).wave.repro = true := by rw [wave]; exact hr
  have clk : (s.retire sw).wave.qclk = s.wave.qclk + 1#64 := by
    rw [wave]
    exact if_neg (by simp [hm])
  have ended : (s.retire sw).wave.ended = ((s.wave.qclk + 1#64).toNat % 2 ^ s.ctx.qlog == 0) := by
    rw [← clk, wave]
    show (s.wave.ended || (s.wave.repro && _)) = _
    rw [he, hr, Bool.false_or, Bool.true_and]
    rfl
  have ctx : (s.retire sw).ctx.qlog = s.ctx.qlog := by
    unfold State.ctx
    rw [wave, State.retire, retireN_eq_goneOn]
    rfl
  refine ⟨_, exec_qend sw hi hp, s.retire sw, went_retireN s sw 1, ?_⟩
  by_cases last : (s.wave.qclk + 1#64).toNat % 2 ^ s.ctx.qlog = 0
  · have atEnd : (s.retire sw).wave.ended = true := by rw [ended, last]; rfl
    have same : ({ (s.retire sw).wave with ended := true, qclk := (s.retire sw).wave.qclk } : Wave) = (s.retire sw).wave := by rw [← atEnd]
    rw [endQuantum_of_ended atEnd, same, setWave_wave_retire, clk]
    exact ⟨rfl, next_multiple last⟩
  · have more : (s.retire sw).wave.ended = false := by rw [ended]; simpa using last
    have moved (w : Wave) : ((s.retire sw).setWave w).wave = w := State.waveAt_setWaveAt ..
    rw [endQuantum_of_open repro more, moved]
    refine ⟨rfl, ?_⟩
    rw [clk, ctx, BitVec.add_sub_cancel]
    exact toNat_nextQuantum ..

/-! ## Hints -/

section
variable {s : State} (sw : Bool) {l : BitVec 8} {n : BitVec 3} {b : Opd}

theorem hintRanges_eq_hinted (s : State) (n : BitVec 3) (b : Opd) : s.hintRanges n b = hinted s n b := by
  have ranges (x : Word64) (n : Nat) : rangesOf x n = pageRanges x.toNat n := by
    refine List.map_congr_left fun i _ => ?_
    simp [BitVec.extractLsb'_toNat, Nat.shiftRight_eq_div_pow]
  simp only [State.hintRanges, hinted, ranges]

theorem isForced_iff (u : State) (k : Nat) : u.isForced k = true ↔ pastForce u k := by
  simp only [State.isForced, State.forcedOn, pastForce, Bool.and_eq_true, decide_eq_true_eq, Power.tforce]
  constructor
  · rintro ⟨cut, -, past⟩
    exact ⟨cut, of_decide_eq_true past⟩
  · rintro ⟨cut, past⟩
    exact ⟨cut, of_decide_eq_true (Bool.and_eq_true_iff.1 cut).1, decide_eq_true past⟩


theorem eq_markWg (u : State) (wg : Nat) : u.markWg wg = { u with wgs := (u.markWg wg).wgs } := by
  obtain ⟨wgs, h⟩ := markWg_eq u wg
  rw [h]

/-- A hint stands for the shedding classes outside handler mode alone (R301, R416). -/
def hintSeen (w : Wave) : Wave := if w.env.hm then w else { w with pre := { w.pre with sinceCut := [] } }

/-- A pending pre-emption takes the wave at its hint (R260). -/
def hintTakes (w : Wave) : Prop := w.env.hm = false ∧ w.st = .preempting ∧ w.pre.taken = false ∧ (w.held = .ready ∨ w.held = .parkedS)

section
variable {w : Wave} {forced : Bool} {l : BitVec 8} {ranges : List (Nat × Nat)}

theorem atHint_takes (h : hintTakes (hintSeen w)) : w.atHint forced l ranges =
    { hintSeen w with pre := { (hintSeen w).pre with taken := true, full := false, lsm := l, ranges := ranges } } := by
  unfold hintSeen hintTakes at *
  cases hm : w.env.hm <;> simp only [hm, Bool.false_eq_true, if_false, if_true] at h ⊢
  · obtain ⟨-, st, taken, held⟩ := h
    simp [Wave.atHint, hm, st, taken, held]
  · cases h.1

theorem atHint_sheds (hm : (hintSeen w).env.hm = false) (st : (hintSeen w).st = .ready ∨ (hintSeen w).st = .parkedS) (hf : forced = true) :
    w.atHint forced l ranges = { hintSeen w with st := .shed, held := (hintSeen w).st } := by
  unfold hintSeen at *
  cases hw : w.env.hm <;> simp only [hw, Bool.false_eq_true, if_false, if_true] at hm st ⊢
  · rcases st with h | h <;> simp [Wave.atHint, hw, h, hf]
  · cases hm

theorem atHint_stays (takes : ¬ hintTakes (hintSeen w))
    (sheds : ¬ ((hintSeen w).env.hm = false ∧ ((hintSeen w).st = .ready ∨ (hintSeen w).st = .parkedS) ∧ forced = true)) :
    w.atHint forced l ranges = hintSeen w := by
  unfold hintSeen hintTakes at *
  cases hm : w.env.hm <;> simp only [hm, Bool.false_eq_true, if_false, if_true] at takes sheds ⊢
  · unfold Wave.atHint
    rw [hm, if_neg Bool.false_ne_true]
    dsimp only
    rw [if_neg (by simpa [and_assoc] using takes), if_neg (by simpa using sheds)]
  · simp [Wave.atHint, hm]

end

theorem exec_phint (hi : s.issuing = true) (ht : s.formTrap { xw := .no } (s.hintBad l n b) = none) :
    let u := s.retire sw
    exec (.phint sw l n b) s =
      .next ((u.setWave (u.wave.atHint (u.isForced s.iss.cur) l (hinted s n b))).markWg u.wave.id.wgKey) := by
  intro u
  have cur : u.iss.cur = s.iss.cur := by
    dsimp only [u]
    rw [State.retire, retireN_eq_goneOn]
    rfl
  show execPhint sw l n b s = _
  rw [execPhint, ht, guarded_of_none _ hi, hintRanges_eq_hinted]
  dsimp only
  rw [cur]

theorem phint_goes (hi : s.issuing = true) (ht : s.formTrap { xw := .no } (s.hintBad l n b) = none) :
    Goes (.phint sw l n b) s fun t => ∃ u, Went s s.wave [] sw 1 u ∧
      let w := hintSeen u.wave
      (hintTakes w → t = { (u.setWave { w with pre := { w.pre with taken := true, full := false, lsm := l, ranges := hinted s n b } }) with wgs := t.wgs }) ∧
      (w.env.hm = false → (w.st = .ready ∨ w.st = .parkedS) → pastForce u s.iss.cur →
        t = { (u.setWave { w with st := .shed, held := w.st }) with wgs := t.wgs }) ∧
      (¬ hintTakes w → ¬ (w.env.hm = false ∧ (w.st = .ready ∨ w.st = .parkedS) ∧ pastForce u s.iss.cur) → t = { (u.setWave w) with wgs := t.wgs }) := by
  refine ⟨_, exec_phint sw hi ht, s.retire sw, went_retireN s sw 1, ?_⟩
  have hint (v : Wave) (h : (s.retire sw).wave.atHint ((s.retire sw).isForced s.iss.cur) l (hinted s n b) = v) :
      let t := ((s.retire sw).setWave ((s.retire sw).wave.atHint ((s.retire sw).isForced s.iss.cur) l (hinted s n b))).markWg
        (s.retire sw).wave.id.wgKey
      t = { ((s.retire sw).setWave v) with wgs := t.wgs } := by
    subst h
    exact eq_markWg ..
  simp only [← isForced_iff]
  exact ⟨fun takes => hint _ (atHint_takes takes), fun hm st forced => hint _ (atHint_sheds hm st forced),
    fun takes sheds => hint _ (atHint_stays takes sheds)⟩

theorem idem_goes (hi : s.issuing = true) (ht : s.formTrap { xw := .no } (!s.wg.kern.idm || s.hintBad l n b) = none) :
    Goes (.idem sw l n b) s fun t => ∃ u, Went s s.wave [] sw 1 u ∧
      if s.wave.id.repro then t = u.setWave { u.wave with idem := { u.wave.idem with idv := false, pc := s.pc } }
      else
        let r : Idem := ⟨true, s.pc, l, hinted s n b, u.wave.qclk, s.iss.slot, s.mask, u.wave.pcs.slot (!s.iss.slot)⟩
        t = u.setWave { u.wave with pend := u.wave.pend.map fun p => { p with old := true }, idem := r } := by
  have slot : (s.retire sw).iss.slot = s.iss.slot := by
    rw [State.retire, retireN_eq_goneOn]
    rfl
  have repro : (s.retire sw).wave.id.repro = s.wave.id.repro := by
    rw [wave_goneOn]
    rfl
  have run : execIdem sw l n b s = exec (.idem sw l n b) s := rfl
  rw [execIdem, ht, guarded_of_none _ hi, hintRanges_eq_hinted] at run
  dsimp only at run
  rw [slot, repro] at run
  cases hr : s.wave.id.repro with
  | true =>
    rw [hr, if_pos rfl] at run
    exact ⟨_, run.symm, s.retire sw, went_retireN s sw 1, rfl⟩
  | false =>
    rw [hr, if_neg Bool.false_ne_true] at run
    exact ⟨_, run.symm, s.retire sw, went_retireN s sw 1, rfl⟩

end

theorem xw_goes {x : Xw} {s : State} (hi : s.issuing = true) (hp : s.iss.pfx = none) :
    exec (.xw x) s = .next { s with iss := { s.iss with pfx := some x } } := by
  show execXw x s = _
  rw [execXw, hp]
  exact guarded_of_none _ hi

theorem xw_illop {x y : Xw} {s : State} (hi : s.issuing = true) (hp : s.iss.pfx = some y) :
    exec (.xw x) s = .next (s.takeTrap (s.wordTrap .illop)) := by
  show execXw x s = _
  rw [execXw, hp]
  exact guarded_of_some _ hi

/-- Settles O42. -/
theorem hintsAndBases : Obligations.HintsAndBases := by
  unfold Obligations.HintsAndBases
  refine ⟨⟨fun sw s hi hp => nop_goes sw hi hp, fun sw n s hi hp hn fits => wbase_goes sw hi hp hn fits,
    fun sw s hi hp => ⟨qend_goes sw hi hp, qend_ends sw hi hp⟩, fun sw l n b s hi ht => ?_, fun sw l n b s hi ht => idem_goes sw hi ht⟩,
    fun x s hi => ⟨fun hp => ⟨_, xw_goes hi hp, rfl⟩, fun y hp => xw_illop hi hp⟩⟩
  obtain ⟨t, run, u, went, takes, rest⟩ := phint_goes sw hi ht
  exact ⟨t, run, u, went, fun hm st taken held => takes ⟨hm, st, taken, held⟩, rest⟩

end Sys2Proof.Claims
end

section
/-!
PROOF. The step: who moves, which wave's instruction an issue fetches, decodes and runs, and what it adds around it (R106, R145, R160, R290,
R298).
-/

namespace Sys2Proof.Claims

open Sys2Proof.Machine

/-! ## Without a slot -/

section
variable {s : State}

theorem guarded_of_noSlot (hi : s.issuing = false) (t : Option Trap) (body : State → Out) : s.guarded t body = .fault .noSlot := by
  simp [State.guarded, hi]
theorem compute_of_noSlot (hi : s.issuing = false) (sw late : Bool) (f : Form) (extra : Bool) (d : Opd) (lane : State → Nat → LRes) :
    s.compute sw late f extra d lane = .fault .noSlot := guarded_of_noSlot hi _ _
theorem iop_of_noSlot (hi : s.issuing = false) (sw : Bool) (d a : Opd) (b : Option Opd) (readsD : Bool) (f : IopFn) :
    s.iop sw d a b readsD f = .fault .noSlot := compute_of_noSlot hi ..
theorem division_of_noSlot (hi : s.issuing = false) (sw : Bool) (d a b : Opd) (f : IopFn) :
    s.division sw d a b f = .fault .noSlot := compute_of_noSlot hi ..
theorem immOp_of_noSlot (hi : s.issuing = false) (sw : Bool) (d a : Opd) (x : XwRule) (k : Word64) (f : IopFn) :
    s.immOp sw d a x k f = .fault .noSlot := compute_of_noSlot hi ..
theorem comparing_of_noSlot (hi : s.issuing = false) (sw : Bool) (f : Form) (p : BitVec 3)
    (toks : State → Bool → Nat → List (Option Word32)) (holds : State → Bool → Nat → Bool) :
    s.comparing sw f p toks holds = .fault .noSlot := guarded_of_noSlot hi _ _
theorem fop_of_noSlot (hi : s.issuing = false) (sw late : Bool) (d a : Opd) (b : Option Opd) (readsD : Bool) (t : FType) (f : FopFn) :
    s.fop sw late d a b readsD t f = .fault .noSlot := compute_of_noSlot hi ..
theorem ffn_of_noSlot (hi : s.issuing = false) (sw : Bool) (d a : Opd) (t : FType) (op : FfnOp) :
    s.ffn sw d a t op = .fault .noSlot := compute_of_noSlot hi ..
theorem blockOp_of_noSlot (hi : s.issuing = false) (sw : Bool) (f : Form) (extra : Bool) (d : Opd) (toks : State → Nat → Option Word32)
    (block : State → Nat → List Nat × BitVec 6) : s.blockOp sw f extra d toks block = .fault .noSlot := guarded_of_noSlot hi _ _
theorem vote_of_noSlot (hi : s.issuing = false) (sw : Bool) (d a : BitVec 3) (f : List Bool → Bool) :
    s.vote sw d a f = .fault .noSlot := guarded_of_noSlot hi _ _
theorem load_of_noSlot (hi : s.issuing = false) (sw : Bool) (d o : Opd) (r : BitVec 4) (c : OrdCode) (spec : Bool) (nr : Bool → Nat)
    (f : Form) (extra : Bool) (h : LoadShape) : s.load sw d o r c spec nr f extra h = .fault .noSlot := by
  simp only [State.load, guarded_of_noSlot hi]
theorem store_of_noSlot (hi : s.issuing = false) (sw : Bool) (d o : Opd) (r : BitVec 4) (c : OrdCode) (regBytes n align : Nat)
    (extra : Bool) (enc : Nat → FRes) : s.store sw d o r c regBytes n align extra enc = .fault .noSlot := by
  simp only [State.store, guarded_of_noSlot hi]
theorem atomic_of_noSlot (hi : s.issuing = false) (sw ret : Bool) (d o : Opd) (r : BitVec 4) (c : OrdCode) (p : AtomOp) :
    s.atomic sw ret d o r c p = .fault .noSlot := by
  simp only [State.atomic, guarded_of_noSlot hi]

end

/-- An instruction of a wave is never run without a slot (log entry 70). -/
theorem exec_of_noSlot {i : Instr} {s : State} (h : (encode i).isSome = true) (hi : s.issuing = false) :
    exec i s = .fault .noSlot := by
  cases i with
  | add | sub | mul | mulh | mulhU | mad | and | or | xor | shl | shr | sar | min | minU | max | maxU | abs | clz | popc
  | bfe | bfeU | bfi | addSat | subSat => dsimp only [exec]; exact iop_of_noSlot hi ..
  | div | divU | rem | remU => dsimp only [exec]; exact division_of_noSlot hi ..
  | addi | andi | ori | xori | shli | shri | sari | roti => dsimp only [exec]; exact immOp_of_noSlot hi ..
  | tsti | cmpi | icmp | icmpU => simp only [exec, execTsti, execCmpi, execIcmp, execIcmpU, comparing_of_noSlot hi]
  | fadd | fsub | fmul | fma | fmin | fmax | fdiv | fsqrt => dsimp only [exec]; exact fop_of_noSlot hi ..
  | fexp | flog | frcp | frsq | fsin | fcos | ftanh | ferf => dsimp only [exec]; exact ffn_of_noSlot hi ..
  | movi | cvt | mxdq | frnd | mkpoi => simp only [exec, execMovi, execCvt, execMxdq, execFrnd, execMkpoi, compute_of_noSlot hi]
  | mxq | terq => simp only [exec, execMxq, execTerq, blockOp_of_noSlot hi]
  | voteAll | voteAny | voteUni => dsimp only [exec]; exact vote_of_noSlot hi ..
  | ld | ldx => simp only [exec, execLd, execLdx, load_of_noSlot hi]
  | st | stx => simp only [exec, execSt, execStx, store_of_noSlot hi]
  | atom | atomn => dsimp only [exec]; exact atomic_of_noSlot hi ..
  | nop | trap | eret | getsr | setsr | iclk | icul | atsync | pkres | pkill | jmpr | callr | ret | exit | join | wbase | phint
  | idem | qend | plog | red | redFadd | scan | ballot | elect | shfl | pref | rset | rget | mma | mwait | mqry | aclr | ard | awr
  | semwait | semsig | semrd | bar | barc | drain | orel | lock | trylk | unlock | waitv | wdone | wqry | pcls | ebud | timew
  | bru | call | xw => dsimp only [exec]; exact guarded_of_noSlot hi _ _
  | sel | fcmp | lds | sts | atoms | rld | rchk | atinv | mapr | maps | ast | tcopy | ecmd | launch | fence | odecl | wreg
  | wld | cbset | wschk | rnd | chkp | ispoi | br =>
    simp only [exec, execSel, execFcmp, execLds, execSts, execAtoms, execRld, execRchk, execAtinv, execMapr, execMaps, execAst,
      execTcopy, execEcmd, execLaunch, execFence, execOdecl, execWreg, execWld, execCbset, execWschk, execRnd, execChkp,
      execIspoi, execBr, guarded_of_noSlot hi]
  | _ => cases h

/-! ## The agent that moves -/

theorem afterPick_of_nil {s : State} (h : s.agenda = []) : afterPick s = { s with tick := s.tick + 1 } := by
  unfold afterPick
  rw [h, List.tail_nil]

theorem step_eq_act (s : State) : step s = (afterPick s).act (whoMoves s) := by
  cases h : s.agenda with
  | nil =>
    rw [afterPick_of_nil h]
    simp only [step, whoMoves, h, List.head?_nil, Option.getD_none]
  | cons a l => simp only [step, whoMoves, afterPick, h, List.head?_cons, Option.getD_some, List.tail_cons]

theorem act_event (s : State) (i : Instr) : s.act (.event i) = if isStep i = true then exec i s else .next s := rfl

theorem act_issue_of_slot {s : State} {k : Nat} {w : Wave} {slot : Bool} (h : s.waves.find k = some w) (hs : w.nextSlot = some slot) :
    s.act (.issue k) = if s.chosen.contains k then s.issueSlot k slot else .next s := by
  simp only [State.act, h, hs]

theorem act_issue_of_notChosen {s : State} {k : Nat} {w : Wave} (h : s.waves.find k = some w) (hc : s.chosen.contains k = false) :
    s.act (.issue k) = .next s := by
  cases hs : w.nextSlot with
  | none => simp only [State.act, h, hs]
  | some slot => rw [act_issue_of_slot h hs, hc]; rfl

theorem mayIssue_of_chosen {s : State} {k : Nat} (h : s.chosen.contains k = true) : ∃ v, (k, v) ∈ s.waves ∧ s.mayIssue k v = true := by
  simp only [State.chosen, List.contains_iff_mem, List.mem_map, List.mem_filter] at h
  obtain ⟨⟨_, v⟩, ⟨⟨⟨hw, hm⟩, -⟩, -⟩, rfl⟩ := h
  exact ⟨v, hw, hm⟩

theorem not_mayIssue {s : State} {k : Nat} {w : Wave} (h : s.withheld k w = true ∨ w.runs = false ∨ s.delivered w.id.cluster = false) :
    s.mayIssue k w = false := by
  obtain h | h | h := h <;> simp [State.mayIssue, h]

/-! ## Fetch and decode -/

theorem decodeWords_of_decodeBytes_one {w : Word32} {i : Instr} (h : decodeBytes (bytesOfWord32 w) = .ok (i, [])) :
    hasSecondWord w = false ∧ decodeWords w 0#32 = .ok i := by
  simp only [bytesOfWord32, decodeBytes, word32OfBytes_bytesOfWord32] at h
  split at h
  · cases h
  · next hs =>
    split at h
    · next hd => cases h; exact ⟨by simpa using hs, hd⟩
    · cases h

theorem decodeWords_of_decodeBytes_two {w w1 : Word32} {i : Instr} (hs : hasSecondWord w = true)
    (h : decodeBytes (bytesOfWord32 w ++ bytesOfWord32 w1) = .ok (i, [])) : decodeWords w w1 = .ok i := by
  simp only [bytesOfWord32, List.cons_append, List.nil_append, decodeBytes, word32OfBytes_bytesOfWord32, hs, if_true] at h
  split at h
  · next hd => cases h; exact hd
  · cases h

section
variable {s v : State} {va : Nat} {w : Word32} {i : Instr}

theorem fetchInstr_of_one (hf : s.fetchWord va = .ok (w, v)) (hs : hasSecondWord w = false) (hd : decodeWords w 0#32 = .ok i) :
    s.fetchInstr va = .ok (i, { v with iss := { v.iss with word := w } }) := by
  simp [State.fetchInstr, hf, hs, hd]

theorem fetchInstr_of_two {w1 : Word32} {t : State} (hf : s.fetchWord va = .ok (w, v)) (hs : hasSecondWord w = true)
    (h1 : ({ v with iss := { v.iss with word := w } } : State).fetchWord (va + 4) = .ok (w1, t)) (hd : decodeWords w w1 = .ok i) :
    s.fetchInstr va = .ok (i, t) := by
  simp [State.fetchInstr, hf, hs, h1, hd]

end

theorem fillIc_frame (s : State) (core asid line : Nat) :
    (s.fillIc core asid line).waves = s.waves ∧ (s.fillIc core asid line).wgs = s.wgs ∧ (s.fillIc core asid line).ctxs = s.ctxs := by
  rw [(fillIc_refetched s core asid line).frame]
  exact ⟨rfl, rfl, rfl⟩

theorem fetchWord_of_xlat {s : State} {va pa : Nat} (hx : s.fetchXlat s.wave.id.cluster s.wave.id.asid.toNat va = .ok pa)
    (hu : (s.caches.ic.find (unitKey (icUnit s.wave.id.gcore s.wave.id.asid.toNat) pa)).isSome = true ∨ s.ueAt pa = false) :
    ∃ v, s.fetchWord va = .ok (s.wordAt s.wave.id.gcore s.wave.id.asid.toNat pa, v) ∧
      v.waves = s.waves ∧ v.wgs = s.wgs ∧ v.ctxs = s.ctxs := by
  have sound : ((s.caches.ic.find (unitKey (icUnit s.wave.id.gcore s.wave.id.asid.toNat) pa)).isNone && s.ueAt pa) = false := by
    obtain hu | hu := hu
    · rw [← Option.not_isSome, hu]; rfl
    · rw [hu, Bool.and_false]
  obtain ⟨tlbs, hl⟩ := lookupTouch_eq s [] s.wave.id.cluster s.wave.id.asid.toNat va
  refine ⟨_, ?_, fillIc_frame { s with tlbs := tlbs } s.wave.id.gcore s.wave.id.asid.toNat (pa / 128)⟩
  simp [State.fetchWord, hx, sound, hl]

/-! ## What an issue comes to -/

theorem runIssue_of_error {l v : State} {e : Trap} (h : l.fetchInstr l.pc.toNat = .error (e, v)) :
    l.runIssue = ⟨none, .next (v.takeTrap e)⟩ := by
  simp [State.runIssue, h]

theorem runIssue_of_ok {l v : State} {i : Instr} (h : l.fetchInstr l.pc.toNat = .ok (i, v)) (hx : isXw i = false) :
    l.runIssue = ⟨some i, exec i v⟩ := by
  simp [State.runIssue, h, hx]

theorem runIssue_of_xw {l v u t : State} {x : Xw} {j : Instr} (h : l.fetchInstr l.pc.toNat = .ok (.xw x, v))
    (hx : exec (.xw x) v = .next u) (hj : u.fetchInstr (u.pc.toNat + 4) = .ok (j, t)) : l.runIssue = ⟨some j, exec j t⟩ := by
  simp [State.runIssue, h, isXw, hx, hj]

section
variable {s : State} {k : Nat} {slot : Bool} {w : Wave}

theorem waveAt_of_find (h : s.waves.find k = some w) : s.waveAt k = w := by
  simp [State.waveAt, FMap.get, h]

theorem issueSlot_of_breaks {i : Instr} {t : State} (hw : s.waves.find k = some w) (hb : (s.latch k slot).breaks = true)
    (hr : (s.latch k slot).runIssue = ⟨some i, .next t⟩) :
    s.issueSlot k slot = .next ((if t.iss.out = .trapped then t else (s.latch k slot).takeBreak).afterIssue k slot w.id (s.withholdClass k)
      (t.issueWeight w.id (s.wgAt w.id.wgKey).kern.con.toNat true i)) := by
  by_cases ht : t.iss.out = .trapped
  · have he : (t.iss.out == Issued.trapped) = true := by rw [ht]; rfl
    simp only [State.issueSlot, waveAt_of_find hw, hr, hb, bne, he, Bool.not_true, Bool.and_false, Option.getD_some, if_pos ht,
      Bool.false_eq_true, if_false]
  · have he : (t.iss.out == Issued.trapped) = false := beq_eq_false_iff_ne.2 ht
    simp only [State.issueSlot, waveAt_of_find hw, hr, hb, bne, he, Bool.not_false, Bool.and_true, Option.getD_some, if_neg ht, if_true]

theorem issueSlot_of_next {o : Option Instr} {t : State} (hw : s.waves.find k = some w) (hb : (s.latch k slot).breaks = false)
    (hr : (s.latch k slot).runIssue = ⟨o, .next t⟩) :
    s.issueSlot k slot = .next (t.afterIssue k slot w.id (s.withholdClass k)
      (t.issueWeight w.id (s.wgAt w.id.wgKey).kern.con.toNat (t.iss.out == .trapped) (o.getD (.nop false)))) := by
  simp only [State.issueSlot, waveAt_of_find hw, hr, hb, Bool.false_and, Bool.false_eq_true, if_false]

theorem issueRuns_of_runIssue {i : Instr} {v : State} (hw : s.waves.find k = some w) (hb : (s.latch k slot).breaks = false)
    (hr : (s.latch k slot).runIssue = ⟨some i, exec i v⟩) : IssueRuns s k slot w i v := by
  refine ⟨fun t he => ?_, fun f he => ?_, fun r he => ?_⟩
  · exact issueSlot_of_next (o := some i) hw hb (by rw [hr, he])
  · simp only [State.issueSlot, hr, he]
  · simp only [State.issueSlot, hr, he]

end

/-! ## What every issue adds -/

theorem chargeIssue_frame (s : State) (i : WaveId) (cls pj : Nat) :
    (s.chargeIssue i cls pj).mem = s.mem ∧ (s.chargeIssue i cls pj).waves = s.waves ∧ (s.chargeIssue i cls pj).issuedNow = s.issuedNow ∧
      (s.chargeIssue i cls pj).pw.allow = s.pw.allow.modify 0 i.cluster (· - (pj : Int)) := by
  unfold State.chargeIssue State.chargeEnergy
  dsimp only
  split
  · exact ⟨rfl, rfl, rfl, rfl⟩
  · exact ⟨rfl, rfl, rfl, rfl⟩

/-- The wave's mark of an issue: its age begins anew, and its slot is the last that issued. -/
def afterIssueWave (slot : Bool) (v : Wave) : Wave := { v with age := 0, since := 0, pcs := { v.pcs with lastIssued := slot } }

theorem find_afterIssue_waves (t : State) (k : Nat) (slot : Bool) (id : WaveId) (cls pj : Nat) (ho : t.iss.out ≠ .stalled) (j : Nat) :
    (t.afterIssue k slot id cls pj).waves.find j =
      if j = k then (t.waves.find k).map (afterIssueWave slot) else t.waves.find j := by
  obtain ⟨-, hw, -, -⟩ := chargeIssue_frame t id cls pj
  by_cases hj : j = k
  · subst hj
    cases hv : t.waves.find j <;>
      simp [State.afterIssue, ho, hw, hv, State.modWaveAt, State.setWaveAt, State.waveAt, FMap.get, afterIssueWave]
  · cases hv : t.waves.find k <;>
      simp [State.afterIssue, ho, hw, hv, hj, State.modWaveAt, State.setWaveAt, FMap.find_put_other]

theorem afterIssue_frame (t : State) (k : Nat) (slot : Bool) (id : WaveId) (cls pj : Nat) (ho : t.iss.out ≠ .stalled) :
    (t.afterIssue k slot id cls pj).mem = t.mem ∧ (t.afterIssue k slot id cls pj).iss = Issue.none ∧
      (t.afterIssue k slot id cls pj).issuedNow = t.issuedNow ++ id.issuers ∧
      (t.afterIssue k slot id cls pj).pw.allow.get 0 id.cluster = t.pw.allow.get 0 id.cluster - (pj : Int) := by
  obtain ⟨hm, hw, hn, ha⟩ := chargeIssue_frame t id cls pj
  cases hv : t.waves.find k <;>
    simp [State.afterIssue, ho, hm, hw, hn, ha, hv, State.modWaveAt, State.setWaveAt, FMap.modify]

/-- Settles O58: each clause is what the step's, the fetch's or the issue's definition gives in its case. -/
theorem stepRunsTheInstruction : Obligations.StepRunsTheInstruction := by
  unfold Obligations.StepRunsTheInstruction
  refine ⟨step_eq_act, fun s i => ⟨fun h => ?_, fun h => ?_⟩, fun s k w hw => ⟨act_issue_of_notChosen hw, fun slot hs hc => ?_,
    mayIssue_of_chosen, not_mayIssue⟩, fun s k slot w hw hb i v t hf hx he => ?_, fun s k slot w hw hb => ⟨fun i v hf hx => ?_,
    fun x v u j t hf hx hj => ?_, fun e v hf => ?_⟩, fun s v va w i hf => ⟨fun hd => ?_, fun w1 t hs h1 hd => ?_⟩, fun s va pa hx hu => ?_,
    fun t k slot id cls pj ho => ?_, fun i s => exec_of_noSlot⟩
  · rw [act_event, if_pos h]
  · rw [act_event, h]
    rfl
  · rw [act_issue_of_slot hw hs, if_pos hc]
  · exact issueSlot_of_breaks hw hb (by rw [runIssue_of_ok hf hx, he])
  · exact issueRuns_of_runIssue hw hb (runIssue_of_ok hf hx)
  · exact issueRuns_of_runIssue hw hb (runIssue_of_xw hf hx hj)
  · exact ⟨_, issueSlot_of_next hw hb (runIssue_of_error hf)⟩
  · obtain ⟨hs, hd⟩ := decodeWords_of_decodeBytes_one hd
    exact fetchInstr_of_one hf hs hd
  · exact fetchInstr_of_two hf hs h1 (decodeWords_of_decodeBytes_two hs hd)
  · exact fetchWord_of_xlat hx hu
  · obtain ⟨hm, hi, hn, ha⟩ := afterIssue_frame t k slot id cls pj ho
    have waves := find_afterIssue_waves t k slot id cls pj ho
    refine ⟨hm, hi, hn, ha, fun j hj => ?_, fun v hv => ?_⟩
    · rw [waves, if_neg hj]
    · rw [waves, if_pos rfl, hv]
      rfl

end Sys2Proof.Claims
end

section
/-!
PROOF. What memory operations, results and traps leave of the waits: they end some and begin none (R226, R229, R231).
-/

namespace Sys2Proof.Claims

open Sys2Proof.Machine

/-- `u` is `s` at the same time, after steps that begin no wait: no wait entry is new, and a wave that did not wait does not. -/
structure Settles (s u : State) : Prop where
  now : u.now = s.now
  entries : ∀ e ∈ u.belay.waits, e ∈ s.belay.waits
  idle : ∀ k, (s.waveAt k).wait = none → (u.waveAt k).wait = none

namespace Settles

variable {s u v : State}

theorem refl (s : State) : Settles s s := ⟨rfl, fun _ => id, fun _ => id⟩

theorem trans (h : Settles s u) (h' : Settles u v) : Settles s v :=
  ⟨h'.now.trans h.now, fun e he => h.entries e (h'.entries e he), fun k hk => h'.idle k (h.idle k hk)⟩

theorem foldl {β : Type} {f : State → β → State} (l : List β) (hf : ∀ u b, Settles u (f u b)) : Settles s (l.foldl f s) :=
  List.foldlRecOn l f (motive := Settles s) (refl s) fun u hu b _ => hu.trans (hf u b)

/-- A change of parts other than the time, the waves and the belay table. -/
theorem of_parts (hn : u.now = s.now := by rfl) (hb : u.belay = s.belay := by rfl) (hw : u.waves = s.waves := by rfl) : Settles s u := by
  refine ⟨hn, fun e he => hb ▸ he, fun k hk => ?_⟩
  rw [State.waveAt, hw]
  exact hk

/-- A change of memory, the caches or the harts. -/
theorem of_memory (s : State) (m : Memory) (c : Caches) (h : Harts) : Settles s { s with mem := m, caches := c, harts := h } := .of_parts

theorem setWaveAt (s : State) (k : Nat) {w : Wave} (hw : (s.waveAt k).wait = none → w.wait = none) : Settles s (s.setWaveAt k w) := by
  refine ⟨rfl, fun _ => id, fun j hj => ?_⟩
  by_cases h : j = k
  · subst h
    rw [State.waveAt_setWaveAt]
    exact hw hj
  · rw [State.waveAt_setWaveAt_other _ _ h]
    exact hj

theorem ite {c : Prop} [Decidable c] (hu : Settles s u) (hv : Settles s v) : Settles s (if c then u else v) := by
  split
  · exact hu
  · exact hv

theorem modWaveAt (s : State) (k : Nat) (f : Wave → Wave) (hf : ∀ w, w.wait = none → (f w).wait = none := by exact fun _ => id) :
    Settles s (s.modWaveAt k f) := setWaveAt s k (hf _)

theorem of_map (s : State) (f : Wave → Wave) (hf : ∀ w, (f w).wait = w.wait) : Settles s { s with waves := s.waves.map fun e => (e.1, f e.2) } := by
  refine ⟨rfl, fun _ => id, fun k hk => ?_⟩
  simp only [State.waveAt, FMap.get, FMap.find_map] at hk ⊢
  cases hs : s.waves.find k with
  | none => rfl
  | some w =>
    rw [hs] at hk
    exact (hf w).trans hk

end Settles

section
variable (s : State) (k : Nat)

theorem dropEntry_settles : Settles s (s.dropEntry k) := ⟨rfl, fun _ he => (List.mem_filter.1 he).1, fun _ => id⟩

/-- A wave's entry goes whole (R231). -/
theorem waiter_ne_of_dropEntry {e : Nat × WaitEnt} (he : e ∈ (s.dropEntry k).belay.waits) : e.2.waiter ≠ k :=
  bne_iff_ne.1 (List.mem_filter.1 he).2

theorem setMet_settles : Settles s (s.setMet k) :=
  .trans (.modWaveAt s k _ fun w hw => by simp [hw]) (dropEntry_settles ..)

/-! ## Memory -/

theorem homeTouch_settles (pa : Nat) : Settles s (s.homeTouch pa) := by
  refine .foldl _ fun u e => ?_
  split
  · rw [probeShared_eq]
    exact .of_parts
  · exact .refl u

theorem homeTouches_settles (pas : List Nat) : Settles s (s.homeTouches pas) := .foldl _ homeTouch_settles

theorem retestValues_settles (bytes : List (Nat × Byte)) : Settles s (s.retestValues bytes) := by
  refine .foldl _ fun u e => ?_
  split
  · exact .refl u
  · split
    · exact setMet_settles ..
    · exact .refl u

theorem probeInvalid_settles (j : Nat) (o : CohObj) : Settles s (s.probeInvalid j o) := by
  unfold State.probeInvalid
  rw [writeBackObj_eq]
  exact .of_parts

theorem homeWrite_settles (bytes : List (Nat × Byte)) : Settles s (s.homeWrite bytes) := by
  refine .trans ?_ (retestValues_settles ..)
  exact .trans (.foldl _ fun u e => .foldl _ fun v (o : Nat × CohObj) => probeInvalid_settles v o.1 o.2) (.of_memory ..)

theorem ackBytes_settles (cl : Nat) (pas : List Nat) : Settles s (s.ackBytes cl pas) := by
  rw [ackBytes_eq]
  refine .of_map s (acknowledged cl pas) fun w => ?_
  unfold acknowledged
  split <;> rfl

theorem l2WriteBack_settles (cl : Nat) (p : Nat → Bool) : Settles s (s.l2WriteBack cl p) :=
  ((homeWrite_settles s _).trans (ackBytes_settles ..)).trans (.of_memory ..)

theorem roomL2_settles (cl line : Nat) : Settles s (s.roomL2 cl line) := by
  unfold State.roomL2
  split
  · exact (l2WriteBack_settles ..).trans (.of_memory ..)
  · exact .refl s

theorem fillL2_settles (cl line : Nat) : Settles s (s.fillL2 cl line) := by
  unfold State.fillL2
  dsimp only
  split
  · exact .refl s
  · exact ((roomL2_settles s cl line).trans (homeTouches_settles ..)).trans (.of_memory ..)

theorem fillL1_settles (gc line : Nat) : Settles s (s.fillL1 gc line) := by
  have room : Settles s (s.roomL1 gc line) := by
    unfold State.roomL1
    split
    · exact .of_parts
    · exact .refl s
  exact (room.trans (fillL2_settles ..)).trans (.of_memory ..)

theorem loadTouch_settles (gc : Nat) (nc uncached : Bool) (pas : List Nat) : Settles s (s.loadTouch gc nc uncached pas) := by
  unfold State.loadTouch
  split
  · exact homeTouches_settles ..
  · refine .foldl _ fun u l => ?_
    split
    · exact .refl u
    · exact fillL1_settles ..

theorem sliceWrite_settles (cl : Nat) (bytes : List (Nat × Byte)) : Settles s (s.sliceWrite cl bytes) :=
  (Settles.foldl _ fun u l => roomL2_settles u cl l).trans (.of_memory ..)

theorem wcbWriteLine_settles (gc line : Nat) : Settles s (s.wcbWriteLine gc line) := by
  refine .trans (.trans (.trans ?_ (sliceWrite_settles ..)) (homeWrite_settles ..)) (ackBytes_settles ..)
  exact .of_memory ..

theorem wcbDrain_settles (gc : Nat) : Settles s (s.wcbDrain gc) := .foldl _ fun u l => wcbWriteLine_settles u gc l

/-- The whole module's release ends waits at most (R185, R229). -/
theorem releaseAll_settles : Settles s s.releaseAll :=
  .trans (.foldl _ wcbDrain_settles) (.foldl _ fun u cl => l2WriteBack_settles u cl _)

theorem arriveLocal_settles (gc : Nat) (nc : Bool) (bytes : List (Nat × Byte)) : Settles s (s.arriveLocal gc nc bytes) := by
  refine .trans (.of_memory s _ _ _) (.foldl _ fun u l => ?_)
  have room : Settles u (u.roomWcb gc l) := by
    unfold State.roomWcb
    split
    · exact wcbWriteLine_settles ..
    · exact .refl u
  exact room.trans (.of_memory ..)

theorem l2Drop_settles (cl : Nat) (p : Nat → Bool) : Settles s (s.l2Drop cl p) := .of_memory ..

theorem flushToHome_settles (gc pa : Nat) : Settles s (s.flushToHome gc pa) :=
  (((wcbWriteLine_settles s gc _).trans (l2WriteBack_settles ..)).trans (l2Drop_settles ..)).trans (.of_memory ..)

/-! ## What leaves a store FIFO -/

theorem strays_settles (asid : Nat) (pas : List Nat) : Settles s (s.strays asid pas) := by
  rw [strays_eq]
  refine .of_map s (strayedBy s asid pas) fun w => ?_
  unfold strayedBy
  split <;> rfl

theorem sendStore_settles (pages : List VPage) (bytes : List (Nat × Byte)) : Settles s (s.sendStore k pages bytes) := by
  unfold State.sendStore State.sendRemote
  split
  · exact .refl s
  · exact .of_parts

theorem sendAtomic_settles (pages : List VPage) (ops : List (AtomOp × Nat × Word32 × Word32)) (returns : Bool) :
    Settles s (s.sendAtomic k pages ops returns) := by
  unfold State.sendAtomic
  split
  · exact .refl s
  · exact .of_parts

theorem atomAt_settles (gc : Nat) (cs : Bool) (op : AtomOp) (ord : OrdCode) (a : Nat) (x y : Word32) :
    Settles s (s.atomAt gc cs op ord a x y).2 := by
  unfold State.atomAt
  split
  · exact .of_parts
  · split
    · exact .of_parts
    · split
      · exact ((wcbWriteLine_settles s gc _).trans (loadTouch_settles ..)).trans ((sliceWrite_settles ..).trans (.of_memory ..))
      · exact ((wcbWriteLine_settles s gc _).trans (loadTouch_settles ..)).trans ((sliceWrite_settles ..).trans (.of_memory ..))
      · exact ((wcbWriteLine_settles s gc _).trans (fillL2_settles ..)).trans (.of_memory ..)
      · exact (flushToHome_settles s gc a).trans (homeWrite_settles ..)

theorem noteG_settles (vs : List RegVal) : Settles s (s.noteG k vs) := by
  unfold State.noteG
  split
  · exact .modWaveAt s k _
  · exact .refl s

theorem addPend_settles (p : Pend) : Settles s (s.addPend k p) := by
  unfold State.addPend
  split
  · exact .refl s
  · split
    · refine .trans (.trans (.foldl _ fun u v => ?_) (.modWaveAt _ k _)) (noteG_settles ..)
      split
      · exact .modWaveAt u k _
      · exact .refl u
    · exact (Settles.modWaveAt s k _).trans (noteG_settles ..)

theorem performAtom_settles (gc : Nat) (cs : Bool) (op : AtomOp) (ord : OrdCode) (lanes : List AtomLane) (pc : Word64) (dst : Dest)
    (pages : List VPage) : Settles s (s.performAtom k gc cs op ord lanes pc dst pages) := by
  have lanesDone : Settles s (lanes.foldl (atomStep gc cs op ord) ([], [], s)).2.2 :=
    List.foldlRecOn lanes (atomStep gc cs op ord) (motive := fun acc => Settles s acc.2.2) (.refl s) fun acc h l _ => by
      unfold atomStep
      split
      · exact h
      · split
        · exact h
        · exact h.trans (atomAt_settles ..)
  have sent := lanesDone.trans (sendAtomic_settles _ k pages (remoteOps cs op lanes) (dst != .none))
  have returned (u : State) (fs : List (Nat × BitVec 8 × Nat)) (p : Pend) : Settles u ((u.makeTokens k pc fs).2.addPend k p) :=
    .trans (u := (u.makeTokens k pc fs).2) (.setWaveAt u k id) (addPend_settles ..)
  cases dst with
  | none => exact sent
  | vec r => exact sent.trans (returned ..)
  | scal i => exact sent.trans (returned ..)
  | wgreg i => exact sent.trans (returned ..)

theorem performStore_settles (gc : Nat) (cs nc : Bool) (bytes : List (Nat × Byte)) (pages : List VPage) :
    Settles s (s.performStore k gc cs nc bytes pages) := by
  unfold State.performStore
  split
  · exact .of_parts
  · exact (arriveLocal_settles ..).trans (sendStore_settles ..)

theorem performMem_settles (e : Eff) : Settles s (s.performMem k e) := by
  have strayed := strays_settles s (s.waveAt k).id.asid.toNat e.locals
  have counted (u : State) (pas : List Nat) : Settles u (u.countLeft k pas) := by
    unfold State.countLeft
    split
    · exact .refl u
    · exact .modWaveAt u k _
  cases e with
  | store => exact strayed.trans ((performStore_settles ..).trans (counted ..))
  | atom => exact strayed.trans ((performAtom_settles ..).trans (counted ..))
  | _ => exact strayed

theorem drainFifo_settles : Settles s (s.drainFifo k) :=
  (Settles.modWaveAt s k _).trans (.foldl _ fun u e => performMem_settles u k e)

/-! ## Records and traps -/

theorem flushPend_settles : Settles s (s.flushPend k) := by
  have delivered (u : State) (m : Lanes) (vs : List RegVal) : Settles u (u.deliverAll k m vs) := .foldl _ fun v r => by
    cases r with
    | wgreg | heldG => exact .of_parts
    | _ => exact .setWaveAt v k id
  have written : Settles s ((s.waveAt k).pend.foldl (fun s p => s.deliverAll k p.remaining p.writes) s) :=
    .foldl _ fun u p => delivered u p.remaining p.writes
  unfold State.flushPend
  exact written.trans (.modWaveAt _ k _)

theorem nextRecord_settles (asid : Nat) : Settles s (s.nextRecord asid).2 := .of_parts

theorem hubWrite_settles (asid va : Nat) (bytes : List Byte) : Settles s (s.hubWrite asid va bytes).2 := by
  unfold State.hubWrite
  split
  · exact homeWrite_settles ..
  · exact .refl s

theorem semSignal_settles (dev : Bool) (cluster idx asid : Nat) : Settles s (s.semSignal dev cluster idx asid) := by
  have woken (u : State) : Settles u (u.wakeSem dev cluster idx) := .foldl _ fun v e => by
    split
    · exact .ite (setMet_settles ..) (.refl v)
    · exact .refl v
  unfold State.semSignal State.semAdd
  split
  · dsimp only
    split
    · exact .trans .of_parts (woken _)
    · exact .trans .of_parts (woken _)
  · exact .refl s

theorem enterHandler_wait (w : Wave) (second : Bool) (haddr : Word64) (t : Trap) : (w.enterHandler second haddr t).wait = w.wait := by
  unfold Wave.enterHandler
  dsimp only
  split <;> rfl

theorem parkFault_settles (second : Bool) (t : Trap) : Settles s (s.parkFault k second t) := by
  have parked : (((s.waveAt k).reportTrap second t).parked).wait = (s.waveAt k).wait := by
    unfold Wave.parked
    split <;> rfl
  refine .trans (.trans (.trans (.setWaveAt s k fun h => parked.trans h) ?_) (hubWrite_settles ..)) (semSignal_settles ..)
  exact nextRecord_settles ..

/-- A trap that does not end the wave begins no wait (R249 to R257). -/
theorem takeTrapAt_settles (second : Bool) {t : Trap} (ht : t.cause ≠ .mchk) : Settles s (s.takeTrapAt k second t) := by
  have drained : Settles s (if !(s.waveAt k).repro && (s.waveAt k).fifo.any Eff.returns then s.drainFifo k else s) := by
    split
    · exact drainFifo_settles ..
    · exact .refl s
  unfold State.takeTrapAt
  rw [if_neg ht]
  exact (drained.trans (flushPend_settles _ k)).trans
    (.ite (.ite (.setWaveAt _ k fun h => h) (.setWaveAt _ k fun h => (enterHandler_wait ..).trans h)) (parkFault_settles ..))

end

end Sys2Proof.Claims
end

section
/-!
PROOF. Priority inheritance, the deadlock scan and its record, and the return from shedding (R234, R235, R237, R240).
-/

namespace Sys2Proof.Claims

open Sys2Proof.Machine

/-! ## Priority inheritance -/

/-- The greatest of a start and of the values of those that a test picks bounds each of them. -/
theorem le_foldl_max {β : Type} (c : β → Bool) (f : β → Nat) (l : List β) (b : Nat) :
    b ≤ l.foldl (fun m e => if c e then max m (f e) else m) b ∧
      ∀ e ∈ l, c e = true → f e ≤ l.foldl (fun m e => if c e then max m (f e) else m) b := by
  induction l generalizing b with
  | nil => exact ⟨le_rfl, fun _ h => absurd h (List.not_mem_nil)⟩
  | cons x l ih =>
    obtain ⟨start, rest⟩ := ih (if c x then max b (f x) else b)
    refine ⟨le_trans (by split <;> omega) start, fun e he hc => ?_⟩
    obtain rfl | he := List.mem_cons.1 he
    · exact le_trans (by rw [if_pos hc]; exact le_max_right ..) start
    · exact rest e he hc

/-- It is the start or one of them. -/
theorem foldl_max_mem {β : Type} (c : β → Bool) (f : β → Nat) (l : List β) (b : Nat) :
    l.foldl (fun m e => if c e then max m (f e) else m) b = b ∨
      ∃ e ∈ l, c e = true ∧ l.foldl (fun m e => if c e then max m (f e) else m) b = f e := by
  induction l generalizing b with
  | nil => exact .inl rfl
  | cons x l ih =>
    have later : (∃ e ∈ l, c e = true ∧ (x :: l).foldl (fun m e => if c e then max m (f e) else m) b = f e) →
        ∃ e ∈ x :: l, c e = true ∧ (x :: l).foldl (fun m e => if c e then max m (f e) else m) b = f e :=
      fun ⟨e, he, h⟩ => ⟨e, List.mem_cons_of_mem _ he, h⟩
    obtain h | h := ih (if c x then max b (f x) else b)
    · by_cases hc : c x = true
      · rw [if_pos hc] at h
        obtain hm | hm := max_choice b (f x)
        · exact .inl (by rw [List.foldl_cons, if_pos hc, h, hm])
        · exact .inr ⟨x, List.mem_cons_self, hc, by rw [List.foldl_cons, if_pos hc, h, hm]⟩
      · exact .inl (by rw [List.foldl_cons, if_neg hc] at *; exact h)
    · exact .inr (later h)

section
variable (s : State) (k : Nat)

/-- Does a wave give its priority to `k`? -/
def givesTo (e : Nat × Wave) : Bool :=
  (s.waitsOn e.1).any fun o => s.hasEntry e.1 && (s.holders o).contains k && e.1 != k

theorem gives_iff (j : Nat) : Gives s j k ↔ ∃ e ∈ s.waves, givesTo s k e = true ∧ e.1 = j := by
  constructor
  · rintro ⟨hne, ⟨w, hw⟩, entry, o, waits, holds⟩
    exact ⟨(j, w), hw, by simp [givesTo, waits, entry, holds, hne], rfl⟩
  · rintro ⟨e, he, hg, rfl⟩
    obtain ⟨o, waits, hg⟩ := (Option.any_eq_true _ _).1 hg
    simp only [Bool.and_eq_true, List.contains_iff_mem, bne_iff_ne] at hg
    obtain ⟨⟨entry, holds⟩, hne⟩ := hg
    exact ⟨hne, ⟨e.2, he⟩, entry, o, waits, holds⟩

theorem inheritedEff_succ (n : Nat) : s.inheritedEff (n + 1) k =
    s.waves.foldl (fun m e => if givesTo s k e then max m (s.inheritedEff n e.1) else m) (s.waveAt k).env.shedBase.toNat := by
  rw [State.inheritedEff]
  congr 1
  funext m e
  unfold givesTo
  cases s.waitsOn e.1 <;> rfl

/-- What reaches a wave through a chain of waits bounds its priority from below (R234). -/
theorem shedBase_le_inheritedEff {n fuel j k : Nat} (hn : n ≤ fuel) (h : GivesThrough s n j k) :
    (s.waveAt j).env.shedBase.toNat ≤ s.inheritedEff fuel k := by
  induction fuel generalizing n k with
  | zero =>
    obtain rfl := Nat.le_zero.1 hn
    obtain rfl := h
    exact le_rfl
  | succ fuel ih =>
    rw [inheritedEff_succ]
    obtain ⟨base, given⟩ := le_foldl_max (givesTo s k) (fun e => s.inheritedEff fuel e.1) s.waves (s.waveAt k).env.shedBase.toNat
    cases n with
    | zero =>
      obtain rfl := h
      exact base
    | succ n =>
      obtain ⟨m, hm, chain⟩ := h
      obtain ⟨e, he, hg, rfl⟩ := (gives_iff s k m).1 hm
      exact le_trans (ih (Nat.le_of_succ_le_succ hn) chain) (given e he hg)

/-- The priority is that of a wave at the end of a chain (R234). -/
theorem inheritedEff_mem (fuel k : Nat) : ∃ n j, n ≤ fuel ∧ GivesThrough s n j k ∧ s.inheritedEff fuel k = (s.waveAt j).env.shedBase.toNat := by
  induction fuel generalizing k with
  | zero => exact ⟨0, k, le_rfl, rfl, rfl⟩
  | succ fuel ih =>
    rw [inheritedEff_succ]
    obtain h | ⟨e, he, hg, h⟩ := foldl_max_mem (givesTo s k) (fun e => s.inheritedEff fuel e.1) s.waves (s.waveAt k).env.shedBase.toNat
    · exact ⟨0, k, Nat.zero_le _, rfl, h⟩
    · obtain ⟨n, j, hn, chain, eq⟩ := ih e.1
      exact ⟨n + 1, j, Nat.succ_le_succ hn, ⟨e.1, (gives_iff s k e.1).2 ⟨e, he, hg, rfl⟩, chain⟩, h.trans eq⟩

end

/-- A wave with the priority that the waits on it give it. -/
def inheriting (s : State) (e : Nat × Wave) : Wave :=
  { e.2 with env := { e.2.env with eff := BitVec.ofNat 3 (s.inheritedEff s.waves.length e.1) } }

theorem priorityInheritanceUpdate_goes (s : State) : Goes .priorityInheritanceUpdate s fun t => t = { s with waves := t.waves } ∧
    ∀ k w, s.waves.find k = some w → ∃ p : BitVec 3, t.waves.find k = some { w with env := { w.env with eff := p } } ∧
      (∀ n j, n ≤ s.waves.length → GivesThrough s n j k → (s.waveAt j).env.shedBase ≤ p) ∧
      ∃ n j, n ≤ s.waves.length ∧ GivesThrough s n j k ∧ (s.waveAt j).env.shedBase = p := by
  refine ⟨_, rfl, rfl, fun k w hw => ⟨BitVec.ofNat 3 (s.inheritedEff s.waves.length k), ?_, fun n j hn chain => ?_, ?_⟩⟩
  · refine (FMap.find_map s.waves (inheriting s) k).trans ?_
    rw [hw]
    rfl
  · obtain ⟨_, m, -, -, eq⟩ := inheritedEff_mem s s.waves.length k
    have reached := shedBase_le_inheritedEff s hn chain
    rw [eq] at reached ⊢
    rwa [BitVec.ofNat_toNat, BitVec.setWidth_eq]
  · obtain ⟨n, j, hn, chain, eq⟩ := inheritedEff_mem s s.waves.length k
    exact ⟨n, j, hn, chain, by rw [eq, BitVec.ofNat_toNat, BitVec.setWidth_eq]⟩

/-! ## The return from shedding -/

theorem shedExemptionReturn_goes {k : Nat} {s : State} {w : Wave} (hw : s.waves.find k = some w) (cut : w.env.shedClass.toNat < s.pw.cut)
    (spared : s.isCut k = false) (shed : (s.wavesOfWg w.id.wgKey).any (fun e => e.2.st == .shed) = true) :
    Goes (.shedExemptionReturn k) s fun t => ∀ j v, s.waves.find j = some v →
      t.waves.find j = some (if v.id.wgKey = w.id.wgKey ∧ v.st = .shed then { v with st := v.held } else v) := by
  refine ⟨s.unshedWg w.id.wgKey, ?_, fun j v hv => ?_⟩
  · simp only [exec, execShedExemptionReturn, hw, cut, spared, shed, decide_true, Bool.not_false, Bool.and_self, if_true]
  · have back : (s.waves.map fun (e : Nat × Wave) => if (e.2.id.wgKey == w.id.wgKey && e.2.st == WaveSt.shed) = true then
          (e.1, { e.2 with st := e.2.held }) else e) =
        s.waves.map fun e => (e.1, if e.2.id.wgKey = w.id.wgKey ∧ e.2.st = .shed then { e.2 with st := e.2.held } else e.2) := by
      refine List.map_congr_left fun e _ => ?_
      by_cases h : e.2.id.wgKey = w.id.wgKey ∧ e.2.st = .shed
      · rw [if_pos h, if_pos (by simp [h])]
      · rw [if_neg h, if_neg (by simpa using h)]
    unfold State.unshedWg
    rw [eq_markWg]
    dsimp only
    rw [back, FMap.find_map s.waves (fun e => if e.2.id.wgKey = w.id.wgKey ∧ e.2.st = .shed then { e.2 with st := e.2.held } else e.2), hv]
    rfl

/-! ## The deadlock record -/

theorem deadlockRecord_eq (u : State) (path : List (Nat × ObjRef)) (orph : Bool) :
    deadlockRecord u path true orph = cycleRecord u path (if orph then 5 else 1) := by
  cases orph with
  | false => rfl
  | true =>
    have flags (x : Nat) : 1 + x + 4 = 5 + x := by omega
    simp only [deadlockRecord, cycleRecord, if_true, flags]
    rfl

theorem length_leBytes_eight (x : Nat) : (leBytes 8 x).length = 8 := rfl

theorem length_cycleRecord (u : State) (path : List (Nat × ObjRef)) (flags : Nat) : (cycleRecord u path flags).length = 512 := by
  have pairs (l : List (Nat × ObjRef)) : (l.flatMap fun e => leBytes 8 ((u.waveAt e.1).id.handle.toNat + e.2.kind.code * 2 ^ 56) ++
      leBytes 8 e.2.key.toNat).length = 16 * l.length := by
    induction l with
    | nil => rfl
    | cons e l ih => simp only [List.flatMap_cons, List.length_append, List.length_cons, length_leBytes_eight, ih]; omega
  have few : (path.take 16).length ≤ 16 := List.length_take_le ..
  simp only [cycleRecord, List.length_append, List.length_cons, List.length_nil, List.length_replicate, length_leBytes_eight, pairs]
  omega

/-- The next slot of the context's area takes the record (R240). -/
theorem reportDeadlock_written (u : State) (asid : Nat) (path : List (Nat × ObjRef)) (orph : Bool) :
    RecordWritten u asid (u.reportDeadlock asid path true orph).1 (cycleRecord u path (if orph then 5 else 1))
      (u.reportDeadlock asid path true orph).2 := by
  refine ⟨rfl, fun pas hp => ?_, fun hn => ?_⟩ <;>
    simp only [State.reportDeadlock, State.nextRecord, State.hubWrite, deadlockRecord_eq, length_cycleRecord] at *
  · rw [hp]
    rfl
  · rw [hn]
    rfl

theorem reportDeadlock_settles (u : State) (asid : Nat) (path : List (Nat × ObjRef)) (scan orph : Bool) :
    Settles u (u.reportDeadlock asid path scan orph).2 := by
  have written := (nextRecord_settles u asid).trans (hubWrite_settles _ asid (u.nextRecord asid).1 (deadlockRecord u path scan orph))
  have noted (v : State) (f : Ctx → Ctx) : Settles v (v.modCtxAt asid f) := .of_parts
  unfold State.reportDeadlock
  exact .ite (written.trans (noted _ _)) written

/-- The state without a wave's wait: its arrival withdrawn, its entry gone (R231, R236). -/
def withoutWait (s : State) (k : Nat) : State := ((s.waveAt k).wait.elim s (s.withdraw k)).dropEntry k

theorem withoutWait_settles (s : State) (k : Nat) : Settles s (withoutWait s k) := by
  refine .trans ?_ (dropEntry_settles ..)
  cases (s.waveAt k).wait with
  | none => exact .refl s
  | some x =>
    unfold Option.elim State.withdraw
    dsimp only
    split <;> exact .of_parts

/-- The trap of a wave that the scan picks. -/
def deadlockTrap (w : Wave) (va : Nat) : Trap :=
  ⟨.deadlock, BitVec.ofNat 64 va, BitVec.ofNat 64 va, ((w.pcs.slot w.pcs.lastIssued).map (·.mask)).getD 0#64⟩

section
variable (s : State) (k : Nat) (path : List (Nat × ObjRef)) (orph : Bool)

/-- The record of a wave's deadlock: its address, and the state in which it stands. -/
def deadlockReport : Nat × State := (withoutWait s k).reportDeadlock (s.waveAt k).id.asid.toNat path true orph

theorem deadlockReport_settles : Settles s (deadlockReport s k path orph).2 := (withoutWait_settles s k).trans (reportDeadlock_settles ..)

theorem modWaveAt_modWaveAt (f g : Wave → Wave) : (s.modWaveAt k f).modWaveAt k g = s.setWaveAt k (g (f (s.waveAt k))) := by
  simp only [State.modWaveAt, State.waveAt_setWaveAt]
  simp only [State.setWaveAt, FMap.put_put]

theorem deadlockWave_eq : s.deadlockWave k path orph =
    let v := (deadlockReport s k path orph).2
    let trap := deadlockTrap (s.waveAt k) (deadlockReport s k path orph).1
    if (s.waveAt k).st = .waitReg ∨ (s.waveAt k).st = .shed then
      (v.setWaveAt k { (v.waveAt k) with wait := none, st := .ready, held := .ready }).takeTrapAt k (s.waveAt k).pcs.lastIssued trap
    else v.setWaveAt k { (v.waveAt k) with wait := none, held := .ready, trapPend := some trap } := by
  unfold State.deadlockWave deadlockReport withoutWait
  dsimp only
  simp only [modWaveAt_modWaveAt, Bool.or_eq_true, beq_iff_eq]
  cases (s.waveAt k).wait <;> rfl

/-- The wave that the scan picks waits no more, and nothing begins to wait (R233, R237). -/
theorem deadlockWave_ends : ((s.deadlockWave k path orph).waveAt k).wait = none ∧ (∀ e ∈ (s.deadlockWave k path orph).belay.waits, e.2.waiter ≠ k) ∧
    Settles s (s.deadlockWave k path orph) := by
  have left (e) (he : e ∈ (deadlockReport s k path orph).2.belay.waits) : e.2.waiter ≠ k :=
    waiter_ne_of_dropEntry _ k ((reportDeadlock_settles ..).entries e he)
  have before := deadlockReport_settles s k path orph
  rw [deadlockWave_eq]
  dsimp only
  generalize (deadlockReport s k path orph).2 = v at left before ⊢
  have set (w : Wave) (hw : w.wait = none) : ((v.setWaveAt k w).waveAt k).wait = none ∧ Settles v (v.setWaveAt k w) :=
    ⟨by rw [State.waveAt_setWaveAt, hw], .setWaveAt v k fun _ => hw⟩
  split
  · obtain ⟨idle, settles⟩ := set { (v.waveAt k) with wait := none, st := .ready, held := .ready } rfl
    have taken := takeTrapAt_settles (v.setWaveAt k { (v.waveAt k) with wait := none, st := .ready, held := .ready }) k
      (s.waveAt k).pcs.lastIssued (t := deadlockTrap (s.waveAt k) (deadlockReport s k path orph).1) nofun
    exact ⟨taken.idle k idle, fun e he => left e (taken.entries e he), before.trans (settles.trans taken)⟩
  · obtain ⟨idle, settles⟩ := set { (v.waveAt k) with
      wait := none, held := .ready, trapPend := some (deadlockTrap (s.waveAt k) (deadlockReport s k path orph).1) } rfl
    exact ⟨idle, left, before.trans settles⟩

end

/-! ## The scan -/

theorem foldl_eq_self {β : Type} {f : State → β → State} {s : State} {l : List β} (hf : ∀ b ∈ l, f s b = s) : l.foldl f s = s := by
  induction l with
  | nil => rfl
  | cons b l ih => rw [List.foldl_cons, hf b List.mem_cons_self, ih fun c hc => hf c (List.mem_cons_of_mem _ hc)]

/-- What the scan makes of a wave: where a cycle passes through it, the latest of the cycle takes the trap (R237). -/
def scanAt (s : State) (k : Nat) : State :=
  match s.cycleOf k with
  | none => s
  | some p =>
    let v := s.latest p
    s.deadlockWave v (p.dropWhile (fun e => e.1 != v) ++ p.takeWhile fun e => e.1 != v) false

theorem scanCycles_eq (s : State) : s.scanCycles = s.waves.keys.foldl scanAt s := rfl

theorem scanAt_of_none {s : State} {k : Nat} (h : s.cycleOf k = none) : scanAt s k = s := by
  unfold scanAt
  rw [h]

theorem scanCycles_settles (s : State) : Settles s s.scanCycles := by
  rw [scanCycles_eq]
  refine .foldl _ fun u k => ?_
  unfold scanAt
  split
  · exact .refl u
  · exact (deadlockWave_ends ..).2.2

theorem scanOrphans_settles (s : State) : Settles s s.scanOrphans := by
  refine .foldl _ fun u o => .ite (.refl u) ?_
  dsimp only
  split
  · exact .refl u
  · exact (deadlockWave_ends ..).2.2

theorem scanOrphans_of_none {s : State} (h : ∀ o ∈ s.belay.objs, o.2.orph = false) : s.scanOrphans = s :=
  foldl_eq_self fun o ho => by rw [h o ho]; rfl

/-- The wave of a path with the greatest STAMP is the latest. -/
theorem latest_eq {s : State} {path : List (Nat × ObjRef)} {v : Nat} (on : ∃ e ∈ path, e.1 = v)
    (greatest : ∀ e ∈ path, e.1 ≠ v → s.stampOf e.1 < s.stampOf v) : s.latest path = v := by
  have scan (l : List (Nat × ObjRef)) (b : Nat) (hl : ∀ e ∈ l, e.1 ≠ v → s.stampOf e.1 < s.stampOf v)
      (hb : b = v ∨ (s.stampOf b < s.stampOf v ∧ ∃ e ∈ l, e.1 = v)) :
      l.foldl (fun b e => if s.stampOf b < s.stampOf e.1 then e.1 else b) b = v := by
    induction l generalizing b with
    | nil => simpa using hb
    | cons x l ih =>
      refine ih _ (fun e he => hl e (List.mem_cons_of_mem _ he)) ?_
      dsimp only
      by_cases hx : x.1 = v
      · obtain rfl | ⟨less, -⟩ := hb
        · exact .inl (by rw [hx, if_neg (Nat.lt_irrefl _)])
        · exact .inl (by rw [hx, if_pos less])
      · have lower := hl x List.mem_cons_self hx
        obtain rfl | ⟨less, e, he, hev⟩ := hb
        · exact .inl (if_neg (Nat.lt_asymm lower))
        · refine .inr ⟨by split <;> assumption, e, ?_, hev⟩
          obtain rfl | he := List.mem_cons.1 he
          · exact absurd hev hx
          · exact he
  obtain ⟨e, he, hev⟩ := on
  refine scan path _ greatest ?_
  cases path with
  | nil => exact absurd he List.not_mem_nil
  | cons x l =>
    by_cases hx : x.1 = v
    · exact .inl hx
    · exact .inr ⟨greatest x List.mem_cons_self hx, e, he, hev⟩

theorem deadlockScan_eq {s : State} (due : s.now / 50000 ≠ s.belay.scanned) : exec .deadlockScan s =
    .next { s.scanCycles.scanOrphans with belay := { s.scanCycles.scanOrphans.belay with scanned := s.now / 50000 } } := by
  have now := ((scanCycles_settles s).trans (scanOrphans_settles _)).now
  change execDeadlockScan s = _
  unfold execDeadlockScan
  rw [if_neg due]
  dsimp only
  rw [now]

theorem deadlockScan_goes (s : State) : (s.now / 50000 = s.belay.scanned → Goes .deadlockScan s (· = s)) ∧
    (s.now / 50000 ≠ s.belay.scanned → Goes .deadlockScan s fun t => t.belay.scanned = s.now / 50000 ∧
      ((∀ k, s.cycleOf k = none) → (∀ o ∈ s.belay.objs, o.2.orph = false) →
        t = { s with belay := { s.belay with scanned := s.now / 50000 } }) ∧
      ∀ before k after path v, s.waves.keys = before ++ k :: after → (∀ j ∈ before, s.cycleOf j = none) → s.cycleOf k = some path →
        (∃ e ∈ path, e.1 = v) → (∀ e ∈ path, e.1 ≠ v → s.stampOf e.1 < s.stampOf v) →
        let u := s.deadlockWave v (path.dropWhile (fun e => e.1 != v) ++ path.takeWhile fun e => e.1 != v) false
        (∀ j ∈ after, u.cycleOf j = none) → (∀ o ∈ u.belay.objs, o.2.orph = false) →
        t = { u with belay := { u.belay with scanned := s.now / 50000 } }) := by
  refine ⟨fun early => ⟨s, ?_, rfl⟩, fun due => ⟨_, deadlockScan_eq due, rfl, fun none orphans => ?_, ?_⟩⟩
  · change execDeadlockScan s = _
    unfold execDeadlockScan
    rw [if_pos early]
  · have scanned : s.scanCycles = s := foldl_eq_self fun k _ => scanAt_of_none (none k)
    rw [scanned, scanOrphans_of_none orphans]
  · intro before k after path v keys free cycle on greatest u rest orphans
    have scanned : s.scanCycles = u := by
      have here : scanAt s k = u := by
        unfold scanAt
        rw [cycle]
        dsimp only
        rw [latest_eq on greatest]
      rw [scanCycles_eq, keys, List.foldl_append, foldl_eq_self fun j hj => scanAt_of_none (free j hj), List.foldl_cons, here,
        foldl_eq_self fun j hj => scanAt_of_none (rest j hj)]
    rw [scanned, scanOrphans_of_none orphans]

end Sys2Proof.Claims
end

section
/-!
PROOF. The release of a cluster barrier whose completion was held (R224, R238).
-/

namespace Sys2Proof.Machine.FMap

variable {α : Type}

/-- Listing a value under a key that has one drops that one alone. -/
theorem mem_put_of_mem {m : FMap α} {k : Nat} {w : α} (v : α) (hw : find m k = some w) {e : Nat × α} (he : e ∈ m) :
    e ∈ put m k v ∨ e = (k, w) := by
  induction m with
  | nil => cases he
  | cons x t ih =>
    obtain ⟨j, x⟩ := x
    rw [find] at hw
    rw [put]
    by_cases below : k < j
    · rw [if_pos below]
      exact .inl (List.mem_cons_of_mem _ he)
    · rw [if_neg below]
      by_cases same : j = k
      · rw [if_pos same] at hw ⊢
        obtain rfl | he := List.mem_cons.1 he
        · exact .inr (by rw [same, Option.some.inj hw])
        · exact .inl (List.mem_cons_of_mem _ he)
      · rw [if_neg same] at hw ⊢
        obtain rfl | he := List.mem_cons.1 he
        · exact .inl List.mem_cons_self
        · exact (ih hw he).imp_left (List.mem_cons_of_mem _)

end Sys2Proof.Machine.FMap

namespace Sys2Proof.Claims

open Sys2Proof.Machine

/-! ## The waves that have not exited -/

/-- The bits of a wave that has not exited, in its workgroup's masks. -/
def liveBits (w : Wave) : BitVec 32 :=
  if w.st = .exited then 0#32
  else BitVec.twoPow 32 w.id.index.toNat ||| (if w.id.paired then BitVec.twoPow 32 (w.id.index.toNat + 1) else 0#32)

theorem getLsbD_foldl_or {β : Type} (f : β → BitVec 32) (l : List β) (m : BitVec 32) (i : Nat) :
    (l.foldl (fun m e => m ||| f e) m).getLsbD i = (m.getLsbD i || l.any fun e => (f e).getLsbD i) := by
  induction l generalizing m with
  | nil => simp
  | cons e l ih => rw [List.foldl_cons, ih, BitVec.getLsbD_or, List.any_cons, Bool.or_assoc]

theorem liveMask_eq_foldl (s : State) (wg : Nat) : s.liveMask wg = (s.wavesOfWg wg).foldl (fun m e => m ||| liveBits e.2) 0#32 := by
  unfold State.liveMask
  congr 1
  funext m e
  unfold liveBits
  split
  · exact BitVec.or_zero.symm
  · rw [BitVec.or_assoc]

/-- The same waves under the same keys, each the same wave of its workgroup in the same state. -/
structure SameLive (s u : State) : Prop where
  listed : ∀ k, (u.waves.find k).isSome = (s.waves.find k).isSome
  sorted : FMap.Sorted s.waves → FMap.Sorted u.waves
  kept : ∀ e ∈ s.waves, ∃ f ∈ u.waves, f.1 = e.1 ∧ f.2.id = e.2.id ∧ f.2.st = e.2.st
  found : ∀ e ∈ u.waves, ∃ f ∈ s.waves, f.1 = e.1 ∧ f.2.id = e.2.id ∧ f.2.st = e.2.st

namespace SameLive

variable {s u v : State}

theorem of_waves (h : u.waves = s.waves) : SameLive s u :=
  ⟨fun k => by rw [h], fun hs => h ▸ hs, fun e he => ⟨e, h ▸ he, rfl, rfl, rfl⟩, fun e he => ⟨e, h ▸ he, rfl, rfl, rfl⟩⟩

theorem refl (s : State) : SameLive s s := .of_waves rfl

theorem trans (h : SameLive s u) (h' : SameLive u v) : SameLive s v := by
  refine ⟨fun k => (h'.listed k).trans (h.listed k), fun hs => h'.sorted (h.sorted hs), fun e he => ?_, fun e he => ?_⟩
  · obtain ⟨f, hf, key, id, st⟩ := h.kept e he
    obtain ⟨g, hg, key', id', st'⟩ := h'.kept f hf
    exact ⟨g, hg, key'.trans key, id'.trans id, st'.trans st⟩
  · obtain ⟨f, hf, key, id, st⟩ := h'.found e he
    obtain ⟨g, hg, key', id', st'⟩ := h.found f hf
    exact ⟨g, hg, key'.trans key, id'.trans id, st'.trans st⟩

/-- A listed wave changes in other things. -/
theorem modWaveAt {k : Nat} (hk : (s.waves.find k).isSome = true) (f : Wave → Wave) (hid : ∀ w, (f w).id = w.id := by exact fun _ => rfl)
    (hst : ∀ w, (f w).st = w.st := by exact fun _ => rfl) : SameLive s (s.modWaveAt k f) := by
  obtain ⟨w, hw⟩ := Option.isSome_iff_exists.1 hk
  have wave : s.waveAt k = w := waveAt_of_find hw
  refine ⟨fun j => ?_, FMap.sorted_put _ _ _, fun e he => ?_, fun e he => ?_⟩
  · by_cases h : j = k
    · subst h
      simp [State.modWaveAt, State.setWaveAt, hw]
    · simp [State.modWaveAt, State.setWaveAt, FMap.find_put_other _ _ h]
  · obtain listed | rfl := FMap.mem_put_of_mem (f (s.waveAt k)) hw he
    · exact ⟨e, listed, rfl, rfl, rfl⟩
    · exact ⟨(k, f (s.waveAt k)), FMap.mem_of_find (FMap.find_put_same ..), rfl, by rw [hid, wave], by rw [hst, wave]⟩
  · obtain rfl | listed := FMap.mem_put _ _ _ _ he
    · exact ⟨(k, w), FMap.mem_of_find hw, rfl, by rw [hid, wave], by rw [hst, wave]⟩
    · exact ⟨e, listed, rfl, rfl, rfl⟩

theorem any_liveBits_le (h : ∀ e ∈ s.waves, ∃ f ∈ u.waves, f.1 = e.1 ∧ f.2.id = e.2.id ∧ f.2.st = e.2.st) (wg i : Nat)
    (hs : (s.wavesOfWg wg).any (fun e => (liveBits e.2).getLsbD i) = true) : (u.wavesOfWg wg).any (fun e => (liveBits e.2).getLsbD i) = true := by
  obtain ⟨e, he, hi⟩ := List.any_eq_true.1 hs
  obtain ⟨he, hwg⟩ := List.mem_filter.1 he
  obtain ⟨f, hf, -, id, st⟩ := h e he
  refine List.any_eq_true.2 ⟨f, List.mem_filter.2 ⟨hf, by rw [id]; exact hwg⟩, ?_⟩
  unfold liveBits at hi ⊢
  rw [id, st]
  exact hi

theorem liveMask (h : SameLive s u) (wg : Nat) : u.liveMask wg = s.liveMask wg := by
  rw [liveMask_eq_foldl, liveMask_eq_foldl]
  refine BitVec.eq_of_getLsbD_eq fun i _ => ?_
  rw [getLsbD_foldl_or, getLsbD_foldl_or, Bool.eq_iff_iff.2 ⟨any_liveBits_le h.found wg i, any_liveBits_le h.kept wg i⟩]

end SameLive

/-- Releasing a barrier's waiters leaves every wave where and what it is. -/
theorem releaseBarrier_sameLive (s : State) (wgs : List Nat) (clusterWide : Bool) (b : Nat) : SameLive s (s.releaseBarrier wgs clusterWide b) := by
  refine List.foldlRecOn _ _ (motive := SameLive s) (.of_waves rfl) fun u hu e he => ?_
  have listed : (u.waves.find e.1).isSome = true := (hu.listed e.1).trans (FMap.find_isSome_of_mem (List.mem_filter.1 he).1)
  split
  · next w _ =>
    split
    · have met := SameLive.modWaveAt listed fun v => { v with wait := some { w with met := true } }
      exact (hu.trans met).trans (.of_waves rfl)
    · exact hu
  · exact hu

theorem releaseBarrier_wgs (s : State) (wgs : List Nat) (clusterWide : Bool) (b : Nat) : (s.releaseBarrier wgs clusterWide b).wgs = s.wgs := by
  refine List.foldlRecOn _ _ (motive := fun u : State => u.wgs = s.wgs) rfl fun u hu e _ => ?_
  split
  · split
    · exact hu
    · exact hu
  · exact hu

/-! ## One barrier after the other -/

/-- One barrier of a cluster launch, looked at: completed, or its completion held, or left open (R224, R238). -/
def cbarStep (g : Wg) (s : State) (b : Nat) : State :=
  let wg0 := g.index.toNat - g.cwg.toNat
  let peers := clusterPeers g.asid.toNat g.ltag.toNat wg0
  let arrivedAny := peers.any fun k => (s.wgAt k).cbars[b]! != 0#32
  let all := peers.all fun k => (s.liveMask k &&& ~~~(s.wgAt k).cbars[b]!) == 0#32
  if arrivedAny && all then
    if peers.any fun k => (s.wgAt k).st == .saved then
      { s with belay := { s.belay with objs := s.belay.objs.map (fun e =>
          if e.2.kind == .barc && e.2.asid == g.asid.toNat &&
              e.2.key == BitVec.ofNat 64 (g.ltag.toNat + wg0 * 2 ^ 16 + b * 2 ^ 48)
          then (e.1, { e.2 with held := true }) else e) } }
    else
      (peers.foldl (fun s k => s.modWgAt k fun g => { g with cbars := g.cbars.set! b 0#32 }) s).releaseBarrier peers true b
  else s

theorem completeCbars_eq {s : State} {wg : Nat} (h : (s.wgAt wg).clustered = true) :
    s.completeCbars wg = (List.range 8).foldl (cbarStep (s.wgAt wg)) s := by
  unfold State.completeCbars
  dsimp only
  rw [h]
  rfl

/-- The arrivals of one cluster barrier withdrawn from a workgroup. -/
def emptied (b : Nat) (g : Wg) : Wg := { g with cbars := g.cbars.set! b 0#32 }

theorem wgAt_emptied (l : List Nat) (s : State) (b p : Nat) :
    (l.foldl (fun s k => s.modWgAt k (emptied b)) s).wgAt p = if p ∈ l then emptied b (s.wgAt p) else s.wgAt p := by
  induction l generalizing s with
  | nil => rfl
  | cons k l ih =>
    rw [List.foldl_cons, ih]
    by_cases hp : p = k
    · subst hp
      have once : emptied b (emptied b (s.wgAt p)) = emptied b (s.wgAt p) := by simp [emptied, Vector.set!_eq_setIfInBounds]
      simp [State.modWgAt, State.wgAt_setWgAt_same, once]
    · simp [State.modWgAt, State.wgAt_setWgAt_other _ _ hp, hp]

theorem emptied_other {b j : Nat} (g : Wg) (h : j ≠ b) : (emptied b g).cbars[j]! = g.cbars[j]! := by
  simp [emptied, getElem!_def, Vector.set!_eq_setIfInBounds, Ne.symm h]

theorem emptied_same (b : Nat) (g : Wg) : (emptied b g).cbars[b]! = 0#32 := by
  by_cases hb : b < 8
  · simp [emptied, Vector.set!_eq_setIfInBounds, hb]
  · simp [emptied, Vector.set!_eq_setIfInBounds, hb]
    rfl

/-- What a look at one barrier leaves of every other one and of the workgroups that might hold it. -/
structure KeepsBar (b : Nat) (s u : State) : Prop where
  arrivals : ∀ p, (u.wgAt p).cbars[b]! = (s.wgAt p).cbars[b]!
  st : ∀ p, (u.wgAt p).st = (s.wgAt p).st
  live : SameLive s u

theorem KeepsBar.refl (b : Nat) (s : State) : KeepsBar b s s := ⟨fun _ => rfl, fun _ => rfl, .of_waves rfl⟩

theorem KeepsBar.trans {b : Nat} {s u v : State} (h : KeepsBar b s u) (h' : KeepsBar b u v) : KeepsBar b s v :=
  ⟨fun p => (h'.arrivals p).trans (h.arrivals p), fun p => (h'.st p).trans (h.st p), h.live.trans h'.live⟩

/-- A completed barrier: its arrivals gone, its waiters released. -/
theorem released_wgAt (s : State) (l : List Nat) (b p : Nat) :
    ((l.foldl (fun s k => s.modWgAt k (emptied b)) s).releaseBarrier l true b).wgAt p = if p ∈ l then emptied b (s.wgAt p) else s.wgAt p := by
  rw [← wgAt_emptied]
  exact congrArg (fun m => FMap.get Wg.blank m p) (releaseBarrier_wgs ..)

theorem cbarStep_keeps (g : Wg) (s : State) {b j : Nat} (h : j ≠ b) : KeepsBar j s (cbarStep g s b) := by
  unfold cbarStep
  dsimp only
  split
  · split
    · exact ⟨fun _ => rfl, fun _ => rfl, .of_waves rfl⟩
    · have wgAt := released_wgAt s (clusterPeers g.asid.toNat g.ltag.toNat (g.index.toNat - g.cwg.toNat)) b
      refine ⟨fun p => ?_, fun p => ?_, .trans ?_ (releaseBarrier_sameLive ..)⟩
      · refine (congrArg (fun g : Wg => g.cbars[j]!) (wgAt p)).trans ?_
        split
        · exact emptied_other _ h
        · rfl
      · refine (congrArg (fun g : Wg => g.st) (wgAt p)).trans ?_
        split <;> rfl
      · refine .of_waves (List.foldlRecOn _ _ (motive := fun u : State => u.waves = s.waves) rfl fun u hu k _ => hu)
  · exact .refl j s

theorem foldl_cbarStep_keeps (g : Wg) (s : State) {j : Nat} {l : List Nat} (h : j ∉ l) : KeepsBar j s (l.foldl (cbarStep g) s) :=
  List.foldlRecOn l (cbarStep g) (motive := KeepsBar j s) (.refl j s) fun u hu _ hb => hu.trans (cbarStep_keeps g u fun e => h (e ▸ hb))

/-- Where every wave has arrived and no workgroup is saved, the barrier is completed (R224). -/
theorem cbarStep_completes {g : Wg} {s : State} {b : Nat}
    (arrived : ∀ p ∈ clusterPeers g.asid.toNat g.ltag.toNat (g.index.toNat - g.cwg.toNat),
      (s.wgAt p).st ≠ .saved ∧ s.liveMask p &&& ~~~(s.wgAt p).cbars[b]! = 0#32)
    (begun : ∃ p ∈ clusterPeers g.asid.toNat g.ltag.toNat (g.index.toNat - g.cwg.toNat), (s.wgAt p).cbars[b]! ≠ 0#32) :
    ∀ p ∈ clusterPeers g.asid.toNat g.ltag.toNat (g.index.toNat - g.cwg.toNat), ((cbarStep g s b).wgAt p).cbars[b]! = 0#32 := by
  intro p hp
  have done : cbarStep g s b = ((clusterPeers g.asid.toNat g.ltag.toNat (g.index.toNat - g.cwg.toNat)).foldl
      (fun s k => s.modWgAt k (emptied b)) s).releaseBarrier (clusterPeers g.asid.toNat g.ltag.toNat (g.index.toNat - g.cwg.toNat)) true b := by
    unfold cbarStep
    dsimp only
    rw [if_pos, if_neg]
    · rfl
    · rw [List.any_eq_true]
      rintro ⟨q, hq, saved⟩
      exact (arrived q hq).1 (beq_iff_eq.1 saved)
    · rw [Bool.and_eq_true, List.any_eq_true, List.all_eq_true]
      obtain ⟨q, hq, one⟩ := begun
      exact ⟨⟨q, hq, bne_iff_ne.2 one⟩, fun q hq => beq_iff_eq.2 (arrived q hq).2⟩
  rw [done, released_wgAt, if_pos hp, emptied_same]

/-- Settling a cluster launch's barriers completes the one that is due. -/
theorem completeCbars_completes {s : State} {wg b : Nat} {g : Wg} (hb : b < 8) (hg : s.wgAt wg = g) (clustered : g.clustered = true)
    (arrived : ∀ p ∈ clusterPeers g.asid.toNat g.ltag.toNat (g.index.toNat - g.cwg.toNat),
      (s.wgAt p).st ≠ .saved ∧ s.liveMask p &&& ~~~(s.wgAt p).cbars[b]! = 0#32)
    (begun : ∃ p ∈ clusterPeers g.asid.toNat g.ltag.toNat (g.index.toNat - g.cwg.toNat), (s.wgAt p).cbars[b]! ≠ 0#32) :
    ∀ p ∈ clusterPeers g.asid.toNat g.ltag.toNat (g.index.toNat - g.cwg.toNat), ((s.completeCbars wg).wgAt p).cbars[b]! = 0#32 := by
  obtain ⟨before, after, cut⟩ := List.append_of_mem (List.mem_range.2 hb)
  have once : (before ++ b :: after).Nodup := cut ▸ List.nodup_range
  have apart : b ∉ before ∧ b ∉ after := by
    rw [List.nodup_middle, List.nodup_cons, List.mem_append, not_or] at once
    exact once.1
  intro p hp
  rw [completeCbars_eq (hg ▸ clustered), cut, hg, List.foldl_append, List.foldl_cons]
  have first := foldl_cbarStep_keeps g s apart.1
  generalize before.foldl (cbarStep g) s = u at first ⊢
  rw [(foldl_cbarStep_keeps g (cbarStep g u b) apart.2).arrivals]
  refine cbarStep_completes (fun q hq => ?_) ?_ p hp
  · rw [first.st, first.live.liveMask, first.arrivals]
    exact arrived q hq
  · obtain ⟨q, hq, one⟩ := begun
    exact ⟨q, hq, by rwa [first.arrivals]⟩

theorem clusterBarrierHeldRelease_goes {launch b wg : Nat} {s : State} {g : Wg} (hb : b < 8) (hw : s.wgs.find wg = some g)
    (first : firstsOf s launch = [(wg, g)])
    (arrived : ∀ p ∈ clusterPeers g.asid.toNat g.ltag.toNat g.index.toNat, (s.wgAt p).st ≠ .saved ∧ s.liveMask p &&& ~~~(s.wgAt p).cbars[b]! = 0#32)
    (begun : ∃ p ∈ clusterPeers g.asid.toNat g.ltag.toNat g.index.toNat, (s.wgAt p).cbars[b]! ≠ 0#32) :
    Goes (.clusterBarrierHeldRelease launch b) s fun t =>
      t = s.completeCbars wg ∧ ∀ p ∈ clusterPeers g.asid.toNat g.ltag.toNat g.index.toNat, (t.wgAt p).cbars[b]! = 0#32 := by
  have listed : (wg, g) ∈ firstsOf s launch := first ▸ List.mem_singleton_self _
  simp only [firstsOf, List.mem_filter, Bool.and_eq_true, beq_iff_eq] at listed
  obtain ⟨-, ⟨-, clustered⟩, lead⟩ := listed
  have here : g.index.toNat - g.cwg.toNat = g.index.toNat := by rw [lead]; rfl
  have due : s.cbarComplete (clusterPeers g.asid.toNat g.ltag.toNat g.index.toNat) b = true := by
    simp only [State.cbarComplete, Bool.and_eq_true, List.any_eq_true, List.all_eq_true, bne_iff_ne, beq_iff_eq, Bool.not_eq_true']
    refine ⟨⟨begun, fun q hq => (arrived q hq).2⟩, ?_⟩
    rw [Bool.eq_false_iff, ne_eq, List.any_eq_true]
    rintro ⟨q, hq, saved⟩
    exact (arrived q hq).1 (beq_iff_eq.1 saved)
  refine ⟨s.completeCbars wg, ?_, rfl, ?_⟩
  · change Host.Outcome.next ((firstsOf s launch).foldl _ s) = _
    rw [first, List.foldl_cons, List.foldl_nil, if_pos due]
  · rw [← here] at arrived begun ⊢
    exact completeCbars_completes hb (by rw [State.wgAt, FMap.get, hw, Option.getD_some]) clustered arrived begun

end Sys2Proof.Claims
end

section
/-!
PROOF. What the engines' completions and the module's release leave of the waves: each stays the same wave in the same state (R88, R126, R185).
-/

namespace Sys2Proof.Claims

open Sys2Proof.Machine

namespace SameLive

variable {s u : State}

theorem foldl {β : Type} {f : State → β → State} (l : List β) (hf : ∀ u b, SameLive u (f u b)) : SameLive s (l.foldl f s) :=
  List.foldlRecOn l f (motive := SameLive s) (refl s) fun u hu b _ => hu.trans (hf u b)

theorem ite {c : Prop} [Decidable c] {v : State} (hu : SameLive s u) (hv : SameLive s v) : SameLive s (if c then u else v) := by
  split
  · exact hu
  · exact hv

/-- A change of memory, the caches or the harts. -/
theorem of_memory (s : State) (m : Memory) (c : Caches) (h : Harts) : SameLive s { s with mem := m, caches := c, harts := h } := .of_waves rfl

theorem of_map (s : State) (f : Wave → Wave) (hid : ∀ w, (f w).id = w.id) (hst : ∀ w, (f w).st = w.st) :
    SameLive s { s with waves := s.waves.map fun e => (e.1, f e.2) } := by
  refine ⟨fun k => ?_, fun hs => FMap.sorted_map hs fun e => f e.2, fun e he => ?_, fun e he => ?_⟩
  · dsimp only
    rw [FMap.find_map s.waves (fun e => f e.2), Option.isSome_map]
  · exact ⟨(e.1, f e.2), List.mem_map_of_mem he, rfl, hid _, hst _⟩
  · obtain ⟨g, hg, rfl⟩ := List.mem_map.1 he
    exact ⟨g, hg, rfl, (hid _).symm, (hst _).symm⟩

/-- Waits are met of waves that are listed. -/
theorem setMet (s : State) {k : Nat} (hk : (s.waves.find k).isSome = true) : SameLive s (s.setMet k) :=
  (modWaveAt hk fun v => { v with wait := v.wait.map fun w => { w with met := true } }).trans (.of_waves rfl)

end SameLive

section
variable (s : State)

theorem retestValues_sameLive (bytes : List (Nat × Byte)) : SameLive s (s.retestValues bytes) := by
  refine List.foldlRecOn _ _ (motive := SameLive s) (.refl s) fun u hu e he => ?_
  have listed : (u.waves.find e.1).isSome = true := (hu.listed e.1).trans (FMap.find_isSome_of_mem he)
  split
  · exact hu
  · exact .ite (hu.trans (.setMet u listed)) hu

theorem homeWrite_sameLive (bytes : List (Nat × Byte)) : SameLive s (s.homeWrite bytes) := by
  have probed (u : State) (j : Nat) (o : CohObj) : SameLive u (u.probeInvalid j o) := by
    unfold State.probeInvalid
    rw [writeBackObj_eq]
    exact .of_waves rfl
  refine .trans ?_ (retestValues_sameLive ..)
  exact .trans (.foldl _ fun u e => .foldl _ fun v (o : Nat × CohObj) => probed v o.1 o.2) (.of_memory ..)

theorem ackBytes_sameLive (cl : Nat) (pas : List Nat) : SameLive s (s.ackBytes cl pas) := by
  rw [ackBytes_eq]
  refine .of_map s (acknowledged cl pas) (fun w => ?_) fun w => ?_
  · unfold acknowledged
    split <;> rfl
  · unfold acknowledged
    split <;> rfl

theorem strays_sameLive (asid : Nat) (pas : List Nat) : SameLive s (s.strays asid pas) := by
  rw [strays_eq]
  refine .of_map s (strayedBy s asid pas) (fun w => ?_) fun w => ?_
  · unfold strayedBy
    split <;> rfl
  · unfold strayedBy
    split <;> rfl

theorem l2WriteBack_sameLive (cl : Nat) (p : Nat → Bool) : SameLive s (s.l2WriteBack cl p) :=
  ((homeWrite_sameLive s _).trans (ackBytes_sameLive ..)).trans (.of_memory ..)

theorem l2Drop_sameLive (cl : Nat) (p : Nat → Bool) : SameLive s (s.l2Drop cl p) := .of_memory ..

theorem sliceWrite_sameLive (cl : Nat) (bytes : List (Nat × Byte)) : SameLive s (s.sliceWrite cl bytes) := by
  have room (u : State) (line : Nat) : SameLive u (u.roomL2 cl line) := by
    unfold State.roomL2
    split
    · exact (l2WriteBack_sameLive ..).trans (l2Drop_sameLive ..)
    · exact .refl u
  exact (SameLive.foldl _ room).trans (.of_memory ..)

theorem wcbWriteLine_sameLive (gc line : Nat) : SameLive s (s.wcbWriteLine gc line) := by
  refine .trans (.trans (.trans ?_ (sliceWrite_sameLive ..)) (homeWrite_sameLive ..)) (ackBytes_sameLive ..)
  exact .of_memory ..

theorem wcbDrain_sameLive (gc : Nat) : SameLive s (s.wcbDrain gc) := .foldl _ fun u l => wcbWriteLine_sameLive u gc l

theorem releaseAll_sameLive : SameLive s s.releaseAll :=
  .trans (.foldl _ wcbDrain_sameLive) (.foldl _ fun u cl => l2WriteBack_sameLive u cl _)

theorem gatherHome_sameLive (pas : List Nat) : SameLive s (s.gatherHome pas) :=
  .foldl _ fun u c => (l2WriteBack_sameLive u c _).trans (l2Drop_sameLive ..)

theorem sendRemote_sameLive (who : Option Nat) (eng : Option EngRef) (asid : Nat) (pages : List VPage) (bytes : List (Nat × Byte)) :
    SameLive s (s.sendRemote who eng asid pages bytes) := .ite (.refl s) (.of_waves rfl)

theorem writeRecord_sameLive (asid va : Nat) (bytes : List Byte) : SameLive s (s.writeRecord asid va bytes) := by
  refine .ite (.refl s) ?_
  split
  · exact ((gatherHome_sameLive ..).trans (homeWrite_sameLive ..)).trans (sendRemote_sameLive ..)
  · exact .refl s

theorem semSignal_sameLive (dev : Bool) (cluster idx asid : Nat) : SameLive s (s.semSignal dev cluster idx asid) := by
  have woken (v : State) : SameLive v (v.wakeSem dev cluster idx) :=
    List.foldlRecOn _ _ (motive := SameLive v) (.refl v) fun u hu e he => by
      have listed : (u.waves.find e.1).isSome = true := (hu.listed e.1).trans (FMap.find_isSome_of_mem he)
      split
      · exact .ite (hu.trans (.setMet u listed)) hu
      · exact hu
  refine .ite ?_ (.refl s)
  unfold State.semAdd
  refine .trans ?_ (woken _)
  exact .ite (.of_waves rfl) (.of_waves rfl)

/-! ## The engines' completions -/

theorem putLeaseRecord_sameLive (r : LeaseRec) : SameLive s (s.putLeaseRecord r) := (releaseAll_sameLive s).trans (writeRecord_sameLive ..)

theorem commitLeases_sameLive (lk : Nat) : SameLive s (s.commitLeases lk) :=
  .trans (u := { s with eng := { s.eng with leaseRecs := s.eng.leaseRecs.filter fun r => r.launch != some lk } }) (.of_waves rfl)
    (.foldl _ putLeaseRecord_sameLive)

theorem copyLand_sameLive (c : Copy) (ps : List ((Nat × Bool) × Byte)) : SameLive s (s.copyLand c ps) := by
  have put (u : State) (ps : List ((Nat × Bool) × Byte)) : SameLive u (u.copyPut c ps) :=
    (((strays_sameLive u _ _).trans (l2Drop_sameLive ..)).trans (homeWrite_sameLive ..)).trans (sliceWrite_sameLive ..)
  unfold State.copyLand
  refine .trans ?_ (put _ _)
  exact .ite (.refl s) (.of_waves rfl)

theorem completeColl_sameLive (id : Nat) (c : Collective) : SameLive s (s.completeColl id c) := by
  have landed : SameLive s (if c.held.isEmpty then s else s.collLand c.asid c.held) :=
    .ite (.refl s) (((strays_sameLive ..).trans (gatherHome_sameLive ..)).trans (homeWrite_sameLive ..))
  exact ((landed.trans (writeRecord_sameLive ..)).trans (.ite (semSignal_sameLive ..) (.refl _))).trans (.of_waves rfl)

end

/-- Every wave of a launch that has not exited still stands under its key. -/
def KeepsLive (lk : Nat) (s u : State) : Prop := ∀ e ∈ s.liveOf lk, ∃ f ∈ u.liveOf lk, f.1 = e.1

namespace KeepsLive

variable {lk : Nat} {s u v : State}

theorem mem_liveOf {e : Nat × Wave} : e ∈ s.liveOf lk ↔ e ∈ s.waves ∧ e.2.id.launchKey = lk ∧ e.2.st ≠ .exited := by
  simp only [State.liveOf, State.wavesOfLaunch, List.mem_filter, beq_iff_eq, bne_iff_ne, and_assoc]

theorem refl (lk : Nat) (s : State) : KeepsLive lk s s := fun e he => ⟨e, he, rfl⟩

theorem trans (h : KeepsLive lk s u) (h' : KeepsLive lk u v) : KeepsLive lk s v := fun e he => by
  obtain ⟨f, hf, key⟩ := h e he
  obtain ⟨g, hg, key'⟩ := h' f hf
  exact ⟨g, hg, key'.trans key⟩

theorem foldl {β : Type} {f : State → β → State} (l : List β) (hf : ∀ u b, KeepsLive lk u (f u b)) : KeepsLive lk s (l.foldl f s) :=
  List.foldlRecOn l f (motive := KeepsLive lk s) (refl lk s) fun u hu b _ => hu.trans (hf u b)

end KeepsLive

theorem SameLive.keepsLive {s u : State} (h : SameLive s u) (lk : Nat) : KeepsLive lk s u := fun e he => by
  obtain ⟨he, launch, st⟩ := KeepsLive.mem_liveOf.1 he
  obtain ⟨f, hf, key, id, st'⟩ := h.kept e he
  exact ⟨f, KeepsLive.mem_liveOf.2 ⟨hf, by rw [id, launch], by rwa [st']⟩, key⟩

/-- A workgroup that completes has no wave left (R116). -/
theorem reap_keepsLive (s : State) (wg lk : Nat) : KeepsLive lk s (s.reap wg) := by
  intro e he
  obtain ⟨listed, launch, live⟩ := KeepsLive.mem_liveOf.1 he
  unfold State.reap
  split
  · exact ⟨e, he, rfl⟩
  · split
    · exact ⟨e, he, rfl⟩
    · next g _ idle =>
      have other : e.2.id.wgKey ≠ wg := fun here => by
        refine idle (Bool.or_eq_true_iff.2 (.inl ?_))
        have busy : (s.wavesOfWg wg).any (fun e => e.2.st != .exited || !e.2.fifo.isEmpty) = true :=
          List.any_eq_true.2 ⟨e, List.mem_filter.2 ⟨listed, beq_iff_eq.2 here⟩, by simp [live]⟩
        simp [State.wgBusy, busy]
      exact ⟨e, KeepsLive.mem_liveOf.2 ⟨List.mem_filter.2 ⟨listed, bne_iff_ne.2 other⟩, launch, live⟩, rfl⟩

theorem completeCopy_keepsLive (s : State) (id : Nat) (c : Copy) (lk : Nat) : KeepsLive lk s (s.completeCopy id c) := by
  have landed : SameLive s (if c.commit.isSome then s.copyLand c (c.alt.map fun e => ((e.1, e.2.2), e.2.1)) else s) :=
    .ite (copyLand_sameLive ..) (.refl s)
  have released := landed.trans (.ite (c := 3 ≤ (copyDesc c.block).scope) (l2WriteBack_sameLive _ c.cluster fun _ => true) (.refl _))
  have written := (released.trans (writeRecord_sameLive _ c.asid (copyDesc c.block).rec_ (copyRecord c))).trans
    (.ite (c := ((copyDesc c.block).semv && !c.mute) = true)
      (semSignal_sameLive _ (copyDesc c.block).semd c.cluster (copyDesc c.block).semidx c.asid) (.refl _))
  have left (v : State) : SameLive v (({ v with eng := { v.eng with copies := v.eng.copies.erase id } } : State).gateLeave (.copy id)) :=
    .of_waves rfl
  exact ((written.trans (left _)).keepsLive lk).trans (reap_keepsLive _ c.wg lk)

end Sys2Proof.Claims
end

section
/-!
PROOF. The commit of a quantum (R121, R123, R125, R126, R220), and the belay table's steps together.
-/

namespace Sys2Proof.Claims

open Sys2Proof.Machine

/-! ## What goes out before the commit -/

theorem sendOut_eq (s : State) (k : Nat) (e : Eff) : ∃ box, s.sendOut k e = { s with eng := { s.eng with outbox := box } } := by
  unfold State.sendOut
  split
  · unfold State.sendStore State.sendRemote
    split
    · exact ⟨_, rfl⟩
    · exact ⟨_, rfl⟩
  · unfold State.sendAtomic
    split
    · exact ⟨_, rfl⟩
    · exact ⟨_, rfl⟩
  · exact ⟨_, rfl⟩

/-- A wave's held effects once their remote part has gone out. -/
def sentFifo (l : List Eff) : List Eff := l.map fun e => if e.goesOut then e.stays else e

theorem stays_goesOut {e : Eff} (h : e.goesOut = true) : e.stays.goesOut = false := by
  unfold Eff.goesOut at h
  split at h
  · simp [Eff.stays, Eff.goesOut]
  · simp [Eff.stays, Eff.goesOut]
  · cases h

theorem sentFifo_goesOut (l : List Eff) : (sentFifo l).any Eff.goesOut = false := by
  rw [List.any_eq_false]
  intro x hx
  obtain ⟨e, -, rfl⟩ := List.mem_map.1 hx
  split
  · next h => rw [stays_goesOut h]; exact Bool.false_ne_true
  · next h => exact h

theorem sendHeld_eq (s : State) (k : Nat) : ∃ box, s.sendHeld k =
    ({ s with eng := { s.eng with outbox := box } } : State).setWaveAt k { s.waveAt k with fifo := sentFifo (s.waveAt k).fifo } := by
  have sent : ∃ box, ((s.waveAt k).fifo.filter Eff.goesOut).foldl (fun s e => s.sendOut k e) s = { s with eng := { s.eng with outbox := box } } := by
    refine List.foldlRecOn _ _ (motive := fun u : State => ∃ box, u = { s with eng := { s.eng with outbox := box } }) ⟨_, rfl⟩ fun u hu e _ => ?_
    obtain ⟨box, rfl⟩ := hu
    exact sendOut_eq _ k e
  obtain ⟨box, sent⟩ := sent
  refine ⟨box, ?_⟩
  unfold State.sendHeld
  dsimp only
  rw [sent]
  rfl

/-- The remote stores of every wave of a list go out, and nothing else changes but the FIFOs (R123, R215). -/
theorem foldl_sendHeld (l : List (Nat × Wave)) (s : State) :
    (l.foldl (fun s e => s.sendHeld e.1) s).launches = s.launches ∧ (l.foldl (fun s e => s.sendHeld e.1) s).mem = s.mem ∧
    (l.foldl (fun s e => s.sendHeld e.1) s).wgs = s.wgs ∧
    ∀ k, (s.waveAt k).fifo.any Eff.goesOut = false ∨ (∃ e ∈ l, e.1 = k) →
      ((l.foldl (fun s e => s.sendHeld e.1) s).waveAt k).fifo.any Eff.goesOut = false := by
  induction l generalizing s with
  | nil => exact ⟨rfl, rfl, rfl, fun k h => h.resolve_right fun ⟨_, he, _⟩ => absurd he List.not_mem_nil⟩
  | cons e l ih =>
    obtain ⟨box, sent⟩ := sendHeld_eq s e.1
    obtain ⟨launches, mem, wgs, gone⟩ := ih (s.sendHeld e.1)
    rw [List.foldl_cons]
    refine ⟨launches.trans (by rw [sent]; rfl), mem.trans (by rw [sent]; rfl), wgs.trans (by rw [sent]; rfl), fun k h => gone k ?_⟩
    by_cases hk : k = e.1
    · subst hk
      exact .inl (by rw [sent, State.waveAt_setWaveAt]; exact sentFifo_goesOut _)
    · refine h.imp (fun none => ?_) fun ⟨f, hf, key⟩ => ⟨f, ?_, key⟩
      · rw [sent, State.waveAt_setWaveAt_other _ _ hk]
        exact none
      · obtain rfl | hf := List.mem_cons.1 hf
        · exact absurd key.symm hk
        · exact hf

/-! ## Held plain stores -/

/-- The bytes of a held store. -/
def storedBytes : Eff → Option (List (Nat × Byte))
  | .store false _ _ bytes _ => some bytes
  | _ => none

theorem heldBytes_eq (s : State) (lk : Nat) : heldBytes s lk = (s.liveOf lk).flatMap fun e => e.2.fifo.filterMap storedBytes := rfl

/-- A held store of bytes in local memory alone. -/
def LocalStore (x : Eff) : Prop := ∃ nc up bytes pages, x = .store false nc up bytes pages ∧ ∀ b ∈ bytes, isRemote b.1 = false

/-- `v` is `u` after these stores reached memory, one after the other, and the FIFOs of these waves were emptied: no wait has begun, and every
wave is the same wave in the same state. -/
structure Lands (l : List (List (Nat × Byte))) (ks : List Nat) (u v : State) : Prop where
  home : ExceptWaves (l.foldl (fun u bytes => u.homeWrite bytes) u) v
  live : SameLive u v
  settles : Settles u v
  fifo : ∀ j, (v.waveAt j).fifo = if j ∈ ks then [] else (u.waveAt j).fifo

namespace Lands

variable {l l' : List (List (Nat × Byte))} {ks ks' : List Nat} {u v w : State}

theorem refl (u : State) : Lands [] [] u u := ⟨.refl u, .refl u, .refl u, fun _ => (if_neg List.not_mem_nil).symm⟩

theorem trans (h : Lands l ks u v) (h' : Lands l' ks' v w) : Lands (l ++ l') (ks ++ ks') u w := by
  refine ⟨?_, h.live.trans h'.live, h.settles.trans h'.settles, fun j => ?_⟩
  · rw [List.foldl_append]
    exact (ExceptWaves.foldl (fun b h => h.homeWrite b) l' h.home).trans h'.home
  · rw [h'.fifo, h.fifo]
    by_cases mine : j ∈ ks <;> by_cases theirs : j ∈ ks' <;> simp [mine, theirs]

/-- A store of a context reaches memory. -/
theorem store (u : State) (asid : Nat) (pas : List Nat) (bytes : List (Nat × Byte)) : Lands [bytes] [] u ((u.strays asid pas).homeWrite bytes) := by
  refine ⟨ExceptWaves.homeWrite ⟨_, _, rfl⟩ bytes, (strays_sameLive ..).trans (homeWrite_sameLive ..),
    (strays_settles ..).trans (homeWrite_settles ..), fun j => ?_⟩
  rw [if_neg List.not_mem_nil]
  refine (congrArg Wave.fifo ((homeWrite_onlyMemory (u.strays asid pas) bytes).noWait_waveAt j)).trans ?_
  rw [strays_eq]
  simp only [State.waveAt, FMap.get, FMap.find_map u.waves (fun e => strayedBy u asid pas e.2)]
  cases u.waves.find j with
  | none => rfl
  | some w =>
    dsimp only [Option.map, Option.getD, strayedBy]
    split <;> rfl

/-- A wave's FIFO is emptied. -/
theorem empty {k : Nat} (hk : (u.waves.find k).isSome = true) : Lands [] [k] u (u.modWaveAt k fun w => { w with fifo := [] }) := by
  refine ⟨⟨_, _, rfl⟩, .modWaveAt hk _, .modWaveAt u k _, fun j => ?_⟩
  by_cases h : j = k
  · subst h
    rw [State.modWaveAt, State.waveAt_setWaveAt, if_pos (List.mem_singleton_self _)]
  · rw [State.modWaveAt, State.waveAt_setWaveAt_other _ _ h, if_neg (by simpa using h)]

end Lands

theorem commitEff_of_local (u : State) (k q : Nat) {x : Eff} (hx : LocalStore x) : ∃ bytes, storedBytes x = some bytes ∧
    Lands [bytes] [] u (u.commitEff k q x) := by
  obtain ⟨nc, up, bytes, pages, rfl, near⟩ := hx
  refine ⟨bytes, rfl, ?_⟩
  have here : (bytes.filter fun e => !isRemote e.1) = bytes := List.filter_eq_self.2 fun b hb => by rw [near b hb]; rfl
  have away : (bytes.filter fun e => isRemote e.1) = [] := List.filter_eq_nil_iff.2 fun b hb => by rw [near b hb]; exact Bool.false_ne_true
  have stored : u.commitEff k q (.store false nc up bytes pages) =
      (u.strays (u.waveAt k).id.asid.toNat (bytes.map (·.1))).homeWrite bytes := by
    simp only [State.commitEff, State.commitStore, Bool.false_eq_true, if_false, here, away]
    rfl
  rw [stored]
  exact .store ..

theorem foldl_commitEff_of_local (k q : Nat) (l : List Eff) (u : State) (hk : (u.waves.find k).isSome = true) (hl : ∀ x ∈ l, LocalStore x) :
    Lands (l.filterMap storedBytes) [] u (l.foldl (fun s e => if (s.waves.find k).isSome then s.commitEff k q e else s) u) := by
  induction l generalizing u with
  | nil => exact .refl u
  | cons x l ih =>
    obtain ⟨bytes, hb, lands⟩ := commitEff_of_local u k q (hl x List.mem_cons_self)
    rw [List.foldl_cons, if_pos hk, List.filterMap_cons_some hb]
    exact lands.trans (ih _ ((lands.live.listed k).trans hk) fun y hy => hl y (List.mem_cons_of_mem _ hy))

theorem commitWave_of_local {k : Nat} (q : Nat) {u : State} (hk : (u.waves.find k).isSome = true) (hl : ∀ x ∈ (u.waveAt k).fifo, LocalStore x) :
    Lands ((u.waveAt k).fifo.filterMap storedBytes) [k] u (u.commitWave q k) := by
  have noTrylk : (u.waveAt k).fifo.filter Eff.isTrylk = [] := List.filter_eq_nil_iff.2 fun x hx => by
    obtain ⟨nc, up, bytes, pages, rfl, -⟩ := hl x hx
    exact Bool.false_ne_true
  have emptied := Lands.empty hk
  unfold State.commitWave
  dsimp only
  rw [noTrylk]
  exact emptied.trans (foldl_commitEff_of_local k q _ _ ((emptied.live.listed k).trans hk) hl)

/-- The held stores of the waves of a list reach memory, wave by wave (R123). -/
theorem foldl_commitWave_of_local (q : Nat) (l : List (Nat × Wave)) (u : State) (apart : l.Pairwise fun a b => a.1 < b.1)
    (hl : ∀ e ∈ l, (u.waves.find e.1).isSome = true ∧ (u.waveAt e.1).fifo = e.2.fifo ∧ ∀ x ∈ e.2.fifo, LocalStore x) :
    Lands (l.flatMap fun e => e.2.fifo.filterMap storedBytes) (l.map (·.1)) u ((l.map (·.1)).foldl (fun s k => s.commitWave q k) u) := by
  induction l generalizing u with
  | nil => exact .refl u
  | cons e l ih =>
    obtain ⟨later, apart⟩ := List.pairwise_cons.1 apart
    obtain ⟨hk, fifo, stores⟩ := hl e List.mem_cons_self
    have first := commitWave_of_local q hk (fifo ▸ stores)
    rw [fifo] at first
    rw [List.map_cons, List.foldl_cons, List.flatMap_cons]
    refine first.trans (ih _ apart fun f hf => ?_)
    obtain ⟨hk', fifo', stores'⟩ := hl f (List.mem_cons_of_mem _ hf)
    refine ⟨(first.live.listed f.1).trans hk', ?_, stores'⟩
    rw [first.fifo, if_neg (by simpa using (later f hf).ne'), fifo']

/-! ## The next quantum -/

/-- `t` is `u` with waves of `ks` at the next quantum's first QCLK. -/
structure Turned (clk : Word64) (ks : List Nat) (u t : State) : Prop where
  parts : t = { u with waves := t.waves }
  fifo : ∀ j, (t.waveAt j).fifo = (u.waveAt j).fifo
  same : ∀ j w, t.waves.find j = some w → w.qclk = clk ∨ u.waves.find j = some w
  clock : ∀ j ∈ ks, ∀ w, t.waves.find j = some w → w.st ≠ .exited → w.qclk = clk

namespace Turned

variable {clk : Word64} {ks ks' : List Nat} {u v t : State}

theorem mem (h : Turned clk ks u t) : t.mem = u.mem := by rw [h.parts]

theorem ctxs (h : Turned clk ks u t) : t.ctxs = u.ctxs := by rw [h.parts]

theorem refl (clk : Word64) (u : State) : Turned clk [] u u :=
  ⟨rfl, fun _ => rfl, fun _ _ => .inr, fun _ h => absurd h List.not_mem_nil⟩

theorem trans (h : Turned clk ks u v) (h' : Turned clk ks' v t) : Turned clk (ks ++ ks') u t := by
  refine ⟨?_, fun j => (h'.fifo j).trans (h.fifo j), fun j w hw => ?_, fun j hj w hw st => ?_⟩
  · rw [h'.parts, h.parts]
  · exact (h'.same j w hw).elim .inl (h.same j w)
  · obtain hj | hj := List.mem_append.1 hj
    · exact (h'.same j w hw).elim id fun hv => h.clock j hj w hv st
    · exact h'.clock j hj w hw st

end Turned

theorem enterHandler_frame (w : Wave) (second : Bool) (haddr : Word64) (t : Trap) :
    (w.enterHandler second haddr t).fifo = w.fifo ∧ (w.enterHandler second haddr t).qclk = w.qclk := by
  unfold Wave.enterHandler
  dsimp only
  split <;> exact ⟨rfl, rfl⟩

theorem nextQuantumOf_turned (u : State) (clk : Word64) (k : Nat) : Turned clk [k] u (u.nextQuantumOf clk k) := by
  have stays (h : ∀ w, u.waves.find k = some w → w.st = .exited) : Turned clk [k] u u :=
    ⟨rfl, fun _ => rfl, fun _ _ => .inr, fun j hj w hw st => by
      obtain rfl := List.mem_singleton.1 hj
      exact absurd (h w hw) st⟩
  have turns {w v : Wave} (hw : u.waves.find k = some w) (fifo : v.fifo = w.fifo) (qclk : v.qclk = clk) : Turned clk [k] u (u.setWaveAt k v) := by
    have self : ∀ x, (u.setWaveAt k v).waves.find k = some x → x.qclk = clk := fun x hx => by
      rw [State.setWaveAt, FMap.find_put_same] at hx
      exact Option.some.inj hx ▸ qclk
    refine ⟨rfl, fun j => ?_, fun j x hx => ?_, fun j hj x hx _ => ?_⟩
    · by_cases h : j = k
      · subst h
        rw [State.waveAt_setWaveAt, fifo, waveAt_of_find hw]
      · rw [State.waveAt_setWaveAt_other _ _ h]
    · by_cases h : j = k
      · exact .inl (self x (h ▸ hx))
      · exact .inr (by rwa [State.setWaveAt, FMap.find_put_other _ _ h] at hx)
    · obtain rfl := List.mem_singleton.1 hj
      exact self x hx
  unfold State.nextQuantumOf
  split
  · next none => exact stays fun w hw => by rw [none] at hw; cases hw
  · next w hw =>
    split
    · next exited => exact stays fun x hx => by rw [hw] at hx; exact Option.some.inj hx ▸ beq_iff_eq.1 exited
    · dsimp only
      split
      · next t _ =>
        obtain ⟨fifo, qclk⟩ := enterHandler_frame { w with qclk := clk } w.pcs.lastIssued (u.ctxAt w.id.asid.toNat).haddr t
        exact turns hw fifo qclk
      · exact turns hw rfl rfl

theorem foldl_nextQuantumOf_turned (clk : Word64) (ks : List Nat) (u : State) : Turned clk ks u (ks.foldl (fun s k => s.nextQuantumOf clk k) u) := by
  induction ks generalizing u with
  | nil => exact .refl clk u
  | cons k ks ih => exact (nextQuantumOf_turned u clk k).trans (ih _)

/-! ## The commit -/

/-- What the launch's engine commands of earlier commits complete (R126). -/
def enginesDone (s : State) (lk : Nat) : State :=
  let s := (s.commitCopies lk).foldl (fun s e => s.completeCopy e.1 e.2) s
  ((s.commitColls lk).foldl (fun s e => s.completeColl e.1 e.2) s).commitLeases lk

/-- The held effects of the launch's waves applied (R123). -/
def heldDone (s : State) (lk q : Nat) : State := ((s.liveOf lk).map (·.1)).foldl (fun s k => s.commitWave q k) s.releaseAll

/-- The launch's requests resolved (R125). -/
def requestsDone (s : State) (lk : Nat) : State :=
  ((s.requests lk).map (·.2)).foldl (fun s k => if (s.waves.find k).isSome then s.resolveRequest k else s) s

/-- Everything but the waves' next quantum. -/
def committed (s : State) (lk : Nat) : State :=
  (requestsDone (heldDone (enginesDone s lk) lk (s.launchAt lk).quantum) lk).commitAcquire lk

/-- The first QCLK of the next quantum. -/
def nextClk (s : State) (lk : Nat) : Word64 :=
  BitVec.ofNat 64 (((s.launchAt lk).quantum + 1) * 2 ^ ((committed s lk).ctxAt (lk / 2 ^ 16)).qlog)

/-- The waves at their next quantum. -/
def turned (s : State) (lk : Nat) : State :=
  (((enginesDone s lk).liveOf lk).map (·.1)).foldl (fun s' k => s'.nextQuantumOf (nextClk s lk) k) (committed s lk)

theorem commitAll_eq (s : State) (lk : Nat) : s.commitAll lk = (turned s lk).modLaunchAt lk fun l =>
    { l with quantum := (s.launchAt lk).quantum + 1, seen := ((turned s lk).hub.sem, (turned s lk).hub.csem) } := rfl

theorem turned_turned (s : State) (lk : Nat) :
    Turned (nextClk s lk) (((enginesDone s lk).liveOf lk).map (·.1)) (committed s lk) (turned s lk) := foldl_nextQuantumOf_turned ..

theorem enginesDone_keepsLive (s : State) (lk : Nat) : KeepsLive lk s (enginesDone s lk) := by
  have copies : KeepsLive lk s ((s.commitCopies lk).foldl (fun s e => s.completeCopy e.1 e.2) s) :=
    .foldl _ fun u e => completeCopy_keepsLive u e.1 e.2 lk
  have colls (u : State) : KeepsLive lk u ((u.commitColls lk).foldl (fun s e => s.completeColl e.1 e.2) u) :=
    .foldl _ fun u e => (completeColl_sameLive u e.1 e.2).keepsLive lk
  exact (copies.trans (colls _)).trans ((commitLeases_sameLive _ lk).keepsLive lk)

/-- The waves of the launch that have not exited are at the next quantum's first QCLK (R121). -/
theorem qclk_of_commitAll {s : State} {lk : Nat} {e : Nat × Wave} (he : e ∈ s.liveOf lk) {w : Wave}
    (hw : (s.commitAll lk).waves.find e.1 = some w) (st : w.st ≠ .exited) :
    w.qclk = BitVec.ofNat 64 (((s.launchAt lk).quantum + 1) * 2 ^ ((s.commitAll lk).ctxAt (lk / 2 ^ 16)).qlog) := by
  obtain ⟨f, hf, key⟩ := enginesDone_keepsLive s lk e he
  have ctxs : (s.commitAll lk).ctxAt (lk / 2 ^ 16) = (committed s lk).ctxAt (lk / 2 ^ 16) :=
    congrArg (fun m => FMap.get Ctx.dead m (lk / 2 ^ 16)) (turned_turned s lk).ctxs
  rw [ctxs]
  exact (turned_turned s lk).clock e.1 (List.mem_map.2 ⟨f, hf, key⟩) w hw st

theorem launch_of_commitAll {s : State} {lk : Nat} {l : Launch} (hl : s.launches.find lk = some l) :
    (s.commitAll lk).launches.find lk =
      some { (s.commitAll lk).launchAt lk with quantum := l.quantum + 1, seen := ((s.commitAll lk).hub.sem, (s.commitAll lk).hub.csem) } := by
  have launch : s.launchAt lk = l := by rw [State.launchAt, FMap.get, hl, Option.getD_some]
  rw [commitAll_eq, launch]
  simp [State.modLaunchAt, State.setLaunchAt, State.launchAt]

/-! ## A commit of plain stores -/

theorem commitLeases_of_none {s : State} {lk : Nat} (h : ∀ r ∈ s.eng.leaseRecs, r.launch ≠ some lk) : s.commitLeases lk = s := by
  have mine : (s.eng.leaseRecs.filter fun r => r.launch == some lk) = [] := List.filter_eq_nil_iff.2 fun r hr => by simpa using h r hr
  have others : (s.eng.leaseRecs.filter fun r => r.launch != some lk) = s.eng.leaseRecs := List.filter_eq_self.2 fun r hr => by simpa using h r hr
  unfold State.commitLeases
  rw [mine, others]
  rfl

theorem enginesDone_of_none {s : State} {lk : Nat} (copies : s.commitCopies lk = []) (colls : s.commitColls lk = [])
    (leases : ∀ r ∈ s.eng.leaseRecs, r.launch ≠ some lk) : enginesDone s lk = s := by
  unfold enginesDone
  dsimp only
  rw [copies, List.foldl_nil, colls, List.foldl_nil, commitLeases_of_none leases]

theorem commitAcquire_eq (s : State) (lk : Nat) : ∃ c, s.commitAcquire lk = { s with caches := c } :=
  List.foldlRecOn _ _ (motive := fun u : State => ∃ c, u = { s with caches := c }) ⟨_, rfl⟩ fun u hu e _ => by
    obtain ⟨c, rfl⟩ := hu
    exact ⟨_, rfl⟩

theorem requests_of_none {s : State} {lk : Nat} (h : ∀ e ∈ s.liveOf lk, e.2.wait = none ∧ e.2.fifo = []) : s.requests lk = [] := by
  unfold State.requests
  rw [List.flatMap_eq_nil_iff.2, List.mergeSort_nil]
  intro e he
  obtain ⟨wait, fifo⟩ := h e he
  rw [wait, fifo]
  rfl

theorem pairwise_liveOf {s : State} (hs : FMap.Sorted s.waves) (lk : Nat) : (s.liveOf lk).Pairwise fun a b => a.1 < b.1 :=
  List.Pairwise.filter _ (List.Pairwise.filter _ hs)

section
variable {s : State} {lk : Nat} (hs : FMap.Sorted s.waves) (stores : ∀ e ∈ s.liveOf lk, ∀ x ∈ e.2.fifo, LocalStore x)
include hs stores

theorem heldDone_lands (q : Nat) : Lands (heldBytes s lk) ((s.liveOf lk).map (·.1)) s.releaseAll (heldDone s lk q) := by
  rw [heldBytes_eq]
  refine foldl_commitWave_of_local q (s.liveOf lk) s.releaseAll (pairwise_liveOf hs lk) fun e he => ⟨?_, ?_, stores e he⟩
  · have listed := (KeepsLive.mem_liveOf.1 he).1
    exact ((releaseAll_sameLive s).listed e.1).trans (FMap.find_isSome_of_mem listed)
  · have listed := (KeepsLive.mem_liveOf.1 he).1
    refine (congrArg Wave.fifo ((releaseAll_onlyMemory s).noWait_waveAt e.1)).trans ?_
    rw [waveAt_of_find (FMap.find_of_mem hs listed)]
    rfl

/-- Without requests the launch's waves wait for nothing and hold nothing once their stores are performed. -/
theorem heldDone_requests (q : Nat) (idle : ∀ e ∈ s.liveOf lk, e.2.wait = none) : (heldDone s lk q).requests lk = [] := by
  have lands := heldDone_lands hs stores q
  have live := (releaseAll_sameLive s).trans lands.live
  refine requests_of_none fun e he => ?_
  obtain ⟨listed, launch, st⟩ := KeepsLive.mem_liveOf.1 he
  obtain ⟨f, hf, key, id, st'⟩ := live.found e listed
  have before : f ∈ s.liveOf lk := KeepsLive.mem_liveOf.2 ⟨hf, by rw [id, launch], by rwa [st']⟩
  have wave : (heldDone s lk q).waveAt e.1 = e.2 := waveAt_of_find (FMap.find_of_mem (live.sorted hs) listed)
  have waits : (s.waveAt e.1).wait = none := by rw [← key, waveAt_of_find (FMap.find_of_mem hs hf), idle f before]
  rw [← wave]
  refine ⟨((releaseAll_settles s).trans lands.settles).idle e.1 waits, ?_⟩
  rw [lands.fifo, if_pos (List.mem_map.2 ⟨f, before, key⟩)]

/-- Memory after a commit of plain stores: as those stores leave it, the waves in ascending order (R123). -/
theorem commitAll_of_local (idle : ∀ e ∈ s.liveOf lk, e.2.wait = none) (copies : s.commitCopies lk = []) (colls : s.commitColls lk = [])
    (leases : ∀ r ∈ s.eng.leaseRecs, r.launch ≠ some lk) :
    (s.commitAll lk).mem = ((heldBytes s lk).foldl (fun u bytes => u.homeWrite bytes) s.releaseAll).mem ∧
      ∀ e ∈ s.liveOf lk, ((s.commitAll lk).waveAt e.1).fifo = [] := by
  have lands := heldDone_lands hs stores (s.launchAt lk).quantum
  obtain ⟨c, acquired⟩ : ∃ c, committed s lk = { heldDone s lk (s.launchAt lk).quantum with caches := c } := by
    unfold committed requestsDone
    rw [enginesDone_of_none copies colls leases, heldDone_requests hs stores _ idle]
    exact commitAcquire_eq ..
  have turns := turned_turned s lk
  refine ⟨?_, fun e he => ?_⟩
  · refine turns.mem.trans ?_
    rw [acquired]
    exact lands.home.mem
  · refine (turns.fifo e.1).trans ?_
    rw [acquired]
    exact (lands.fifo e.1).trans (if_pos (List.mem_map.2 ⟨e, he, rfl⟩))

end

/-! ## The step -/

section
variable {s : State} {lk : Nat} (may : s.mayCommit lk = true)
include may

theorem quantumCommit_leaves (leaves : ∃ e ∈ s.liveOf lk, e.2.fifo.any Eff.goesOut = true) :
    exec (.quantumCommit lk) s = .next ((s.liveOf lk).foldl (fun s e => s.sendHeld e.1) s) := by
  change execQuantumCommit lk s = _
  unfold execQuantumCommit
  rw [may, if_neg (by decide), if_pos (List.any_eq_true.2 leaves)]

section
variable (stays : ¬ ∃ e ∈ s.liveOf lk, e.2.fifo.any Eff.goesOut = true)
include stays

theorem quantumCommit_owed (owed : ∃ e ∈ s.liveOf lk, s.unacked e.1 ≠ 0) : exec (.quantumCommit lk) s = .next s := by
  change execQuantumCommit lk s = _
  unfold execQuantumCommit
  rw [may, if_neg (by decide), if_neg (by rwa [List.any_eq_true]), if_pos (by simpa [List.any_eq_true] using owed)]

theorem quantumCommit_commits (acked : ¬ ∃ e ∈ s.liveOf lk, s.unacked e.1 ≠ 0) : exec (.quantumCommit lk) s = .next (s.commitAll lk) := by
  change execQuantumCommit lk s = _
  unfold execQuantumCommit
  rw [may, if_neg (by decide), if_neg (by rwa [List.any_eq_true]), if_neg (by simpa [List.any_eq_true] using acked)]

end
end

theorem localStore_of_stays {x : Eff} (plain : ∃ nc up bytes pages, x = .store false nc up bytes pages) (stays : x.goesOut ≠ true) :
    LocalStore x := by
  obtain ⟨nc, up, bytes, pages, rfl⟩ := plain
  refine ⟨nc, up, bytes, pages, rfl, fun b hb => ?_⟩
  rw [Bool.eq_false_iff]
  exact fun away => stays (List.any_eq_true.2 ⟨b, hb, away⟩)

theorem quantumCommit_goes {lk : Nat} {s : State} {l : Launch} (hl : s.launches.find lk = some l) (may : s.mayCommit lk = true) :
    let leaves := ∃ e ∈ s.liveOf lk, e.2.fifo.any Eff.goesOut = true
    let owed := ∃ e ∈ s.liveOf lk, s.unacked e.1 ≠ 0
    (leaves → Goes (.quantumCommit lk) s fun t => t.launches = s.launches ∧ t.mem = s.mem ∧ t.wgs = s.wgs ∧
      ∀ e ∈ s.liveOf lk, (t.waveAt e.1).fifo.any Eff.goesOut = false) ∧
    (¬ leaves → owed → Goes (.quantumCommit lk) s (· = s)) ∧
    (¬ leaves → ¬ owed → Goes (.quantumCommit lk) s fun t =>
      t.launches.find lk = some { t.launchAt lk with quantum := l.quantum + 1, seen := (t.hub.sem, t.hub.csem) } ∧
      (∀ e ∈ s.liveOf lk, ∀ w, t.waves.find e.1 = some w → w.st ≠ .exited →
        w.qclk = BitVec.ofNat 64 ((l.quantum + 1) * 2 ^ (t.ctxAt (lk / 2 ^ 16)).qlog)) ∧
      (FMap.Sorted s.waves →
        (∀ e ∈ s.liveOf lk, e.2.wait = none ∧ ∀ x ∈ e.2.fifo, ∃ nc up bytes pages, x = .store false nc up bytes pages) →
        s.commitCopies lk = [] → s.commitColls lk = [] → (∀ r ∈ s.eng.leaseRecs, r.launch ≠ some lk) →
        (s.liveOf lk).Pairwise (fun a b => a.1 < b.1) ∧ t.mem = ((heldBytes s lk).foldl (fun u bytes => u.homeWrite bytes) s.releaseAll).mem ∧
          ∀ e ∈ s.liveOf lk, (t.waveAt e.1).fifo = [])) := by
  have launch : (s.launchAt lk).quantum = l.quantum := by rw [State.launchAt, FMap.get, hl, Option.getD_some]
  refine ⟨fun leaves => ?_, fun stays owed => ⟨s, quantumCommit_owed may stays owed, rfl⟩, fun stays acked =>
    ⟨_, quantumCommit_commits may stays acked, launch_of_commitAll hl, fun e he w hw st => ?_, fun hs plain copies colls leases => ?_⟩⟩
  · obtain ⟨launches, mem, wgs, gone⟩ := foldl_sendHeld (s.liveOf lk) s
    exact ⟨_, quantumCommit_leaves may leaves, launches, mem, wgs, fun e he => gone e.1 (.inr ⟨e, he, rfl⟩)⟩
  · rw [← launch]
    exact qclk_of_commitAll he hw st
  · have stores (e) (he : e ∈ s.liveOf lk) (x) (hx : x ∈ e.2.fifo) : LocalStore x :=
      localStore_of_stays ((plain e he).2 x hx) fun out => stays ⟨e, he, List.any_eq_true.2 ⟨x, hx, out⟩⟩
    exact ⟨pairwise_liveOf hs lk, commitAll_of_local hs stores (fun e he => (plain e he).1) copies colls leases⟩

/-- Settles O46: the commit, the held barrier, the inheritance, the scan with its record, and the return from shedding, each as its own
lemma says. -/
theorem commitAndBelaySteps : Obligations.CommitAndBelaySteps := by
  unfold Obligations.CommitAndBelaySteps
  refine ⟨fun lk s l hl may => quantumCommit_goes hl may, fun launch b wg s g hb hw first => clusterBarrierHeldRelease_goes hb hw first,
    priorityInheritanceUpdate_goes, deadlockScan_goes, fun s k path orph => ?_,
    fun k s w hw cut spared shed => shedExemptionReturn_goes hw cut spared shed⟩
  obtain ⟨idle, entries, -⟩ := deadlockWave_ends s k path orph
  have taken := deadlockWave_eq s k path orph
  refine ⟨idle, entries, (deadlockReport s k path orph).1, (deadlockReport s k path orph).2, ?_, fun holds => ?_, fun reg shed => ?_⟩
  · have written := reportDeadlock_written (withoutWait s k) (s.waveAt k).id.asid.toNat path orph
    unfold deadlockReport
    unfold withoutWait at written ⊢
    cases hw : (s.waveAt k).wait <;> rw [hw] at written <;> exact written
  · rw [taken]
    exact if_pos holds
  · rw [taken]
    exact if_neg (not_or.2 ⟨reg, shed⟩)

end Sys2Proof.Claims
end
